-- ==== Sys2Proof/Word.lean ====
section
/-! DEFINITION. The words of the machine: the 64-bit payload, the 32-bit instruction word, the 128-bit cell (R17),
and the plainest arithmetic on them. -/

namespace Sys2Proof

/-- A byte of memory (R2). -/
abbrev Byte := BitVec 8
/-- A 32-bit instruction word (R92). -/
abbrev Word32 := BitVec 32
/-- A 64-bit register or the `PAYLOAD` of a cell (R17, R85). -/
abbrev Word64 := BitVec 64
/-- A 128-bit cell (R17): head in bits 127..64, `PAYLOAD` in bits 63..0. -/
abbrev Cell := BitVec 128
/-- A context number, 0 to 16,383 (R190). -/
abbrev CtxId := Nat
/-- An event channel number, 0 to 65,535 (R202). -/
abbrev Chan := Nat

end Sys2Proof
end

