-- ==== Sys2Proof/Syntax.lean ====
section
/-! DEFINITION. The commands of the block: one constructor of `Instr` per row of spec/opcode_table.json, with the
row's operands (95_what_each_step_holds). -/

namespace Sys2Proof

/-- What the ECC of L2 or HBM finds on a fill or another access (R291, R486). -/
inductive EccEvent where
  | none | l2Corrected | l2Clean | l2Dirty | hbmCorrected | hbmUncorrectable
  deriving DecidableEq, Repr

/-- What the ECC of L2 or HBM finds while an agent reads: granules, each with its event (R291, R486). -/
abbrev EccFinds := List (Nat × EccEvent)

/-- What meets the accesses of an uncached agent: the address of a mesh transfer that failed four times (R481), what ECC finds in the
granules that it reads (R291, R486). -/
structure AgentFault where
  meshAt : Option (BitVec 48) := .none
  ecc : EccFinds := []
  deriving DecidableEq, Repr

/-- A parity event that meets an instruction (R479 to R481, R291): none; one that a replay repairs; a replay failure; a
failed check of the routine on replay; bad parity in a clean or a dirty sector (by granule number), or in a scratch cell
(by cell number), that the instruction reads; a mesh transfer that failed four times; what the ECC
of L2 or HBM finds in a granule that a fetch or an access past the object cache reads. -/
inductive ParityEvent where
  | none
  | replayed
  | failed
  | checkFailed
  | cleanSector (granule : BitVec 41)
  | dirtySector (granule : BitVec 41)
  | scratchCell (cell : BitVec 44)
  | meshFailed (pa : BitVec 48)
  | ecc (granule : BitVec 41) (event : EccEvent)
  deriving DecidableEq, Repr

/-- Which slot of which logical core executes, or, for `vent`, which of the vent cores VC0 to VC3 (R104: bits [1:0] of `core`),
and the parity event that it meets. -/
structure Issue where
  core : BitVec 6
  slot : BitVec 2
  parity : ParityEvent := .none
  vent : Bool := false
  deriving DecidableEq, Repr

/-- The fields of an M-format word after `OP` (R94), and the extension word where the mode has one (R95). -/
structure MOp where
  mode : BitVec 4
  base : BitVec 4
  disp : BitVec 16
  ext : Word32 := 0
  deriving DecidableEq, Repr

/-- What an engine works on in MARK (R231): a context record, a set card, or the oldest queued object. -/
inductive TraceItem where
  | record (n : BitVec 14)
  | card (k : BitVec 47)
  | object
  | rescan (block : BitVec 15)
  deriving DecidableEq, Repr

/-- One item of the remap scope (R234): a context record or a heap slot by virtual address. -/
inductive HealItem where
  | record (n : BitVec 14)
  | slot (a : BitVec 56)
  deriving DecidableEq, Repr

/-- A step of an engine, and what meets its accesses (R481, R486): in MARK, in REMAP, and the copy of an object. -/
structure TraceStep where
  item : TraceItem
  hit : AgentFault := {}
  deriving DecidableEq, Repr
structure HealStep where
  item : HealItem
  hit : AgentFault := {}
  deriving DecidableEq, Repr
structure CopyStep where
  obj : BitVec 56
  hit : AgentFault := {}
  deriving DecidableEq, Repr

/-- A stage that processes a value, and the address of a ring access that failed in the mesh (R324, R481). -/
structure StageStep where
  stage : BitVec 3
  meshAt : Option (BitVec 48) := .none
  deriving DecidableEq, Repr

/-- The fields of a GYCMD cell other than `CMD` (R299). -/
structure GyCmd where
  tag : BitVec 8 := 0x3F
  epoch : BitVec 2 := 0
  slot : BitVec 8 := 0
  dk : Bool := false
  dest : BitVec 16 := 0
  rtag : BitVec 8 := 0
  chk : Bool := false
  ctx : BitVec 14 := 0
  arg : Word64 := 0
  /-- What meets the command's accesses; no part of the cell. -/
  hit : AgentFault := {}
  deriving DecidableEq, Repr

/-- The fields of a JCMD or DMCMD cell other than `CMD` (R367, R400). -/
structure JCmd where
  tag : BitVec 8 := 0x3F
  epoch : BitVec 2 := 0
  dk : Bool := false
  dest : BitVec 16 := 0
  rtag : BitVec 16 := 0
  rsvd : BitVec 31 := 0
  arg : BitVec 48 := 0
  /-- The tuff die cannot read 64 B of what RREAD copies (R375); no part of the cell. -/
  unread : Bool := false
  /-- What meets the command's accesses; no part of the cell. -/
  hit : AgentFault := {}
  deriving DecidableEq, Repr

/-- The fields of a DXCMD cell other than `CMD` (R428). -/
structure DxCmd where
  tag : BitVec 8 := 0x3F
  epoch : BitVec 2 := 0
  dk : Bool := false
  dest : BitVec 16 := 0
  rtag : BitVec 16 := 0
  chk : Bool := false
  ctx : BitVec 14 := 0
  mid : BitVec 8 := 0xFE
  rsvd : BitVec 8 := 0
  arg : BitVec 48 := 0
  deriving DecidableEq, Repr

/-- A frame as the link receiver has it (R340, R350): a code error in it, an EOF, the bytes from the header through the
padding, and the CRC. -/
structure RxFrame where
  codeErr : Bool := false
  eof : Bool := true
  bytes : List Byte
  crc : Word32
  deriving DecidableEq, Repr

/-- Why a link goes DOWN (R351): code errors within 256 characters (and how many), or 1 ms of silence. -/
inductive LinkLoss where
  | codeErrors (n : Nat)
  | silence
  deriving DecidableEq, Repr

/-- A PTP Sync received (R360): domain, sequence number, two-step flag, origin time. -/
structure PtpEvent where
  domain : Byte
  source : Word64
  seq : BitVec 16
  twoStep : Bool
  origin : Word64
  deriving DecidableEq, Repr

/-- A PTP general message (R360): Announce with the fields of best-master selection in order of comparison, Follow_Up
with the precise origin time, Delay_Resp with the time of receipt at the master. -/
inductive PtpGeneral where
  | announce (domain : Byte) (source : Word64) (rank : BitVec 128)
  | followUp (domain : Byte) (source : Word64) (seq : BitVec 16) (origin : Word64)
  | delayResp (domain : Byte) (source : Word64) (seq : BitVec 16) (received : Word64)
  deriving DecidableEq, Repr

/-- The results of the two cryptographic checks of R514 or R522, whose keys are not given. -/
structure SigCheck where
  keyOk : Bool := true
  sigOk : Bool := true
  /-- What ECC finds in HBM as the image is read (R486). -/
  ecc : EccFinds := []
  deriving DecidableEq, Repr

/-- An image as a source gives it (R512): its bytes and the results of its cryptographic checks. -/
structure ImageFile where
  bytes : List Byte
  chk : SigCheck := {}
  deriving DecidableEq, Repr

/-- What the outside gives a start of the device (R507 to R514): the BOOTSEL pins, the QSPI copies (none = no SFDP),
the physical cores that fail self-test, whether the rails and the HBM come up, the first two emergency-stop samples
(true = high), and the level of KEYSW. -/
structure BootEnv where
  bootsel : BitVec 3 := 0
  qspi0 : Option ImageFile := .none
  qspi1 : Option ImageFile := .none
  selfTestFail : List Nat := []
  railFault : Option (BitVec 4) := .none
  hbmOk : Bool := true
  estop1 : Bool × Bool := (true, true)
  estop2 : Bool × Bool := (true, true)
  /-- The repair candidates for which their bank has a spare row (R488), each as 2 × row + controller. -/
  spareRows : List Nat := []
  /-- The tuff die holds something that the start cannot read (R375). -/
  tuffBad : Bool := false
  /-- ms from the reset to the start context's first instruction (R520 BOOTMS). -/
  ms : BitVec 32 := 0
  deriving DecidableEq, Repr

/-- How a dictionary message reaches VC1 (R391, R422 to R427). -/
inductive Via where
  /-- The next request in the mailbox of an OHP function. -/
  | ohp (f : BitVec 2)
  /-- A DFP frame on a T1S port: destination and source MAC, EtherType, whether it carries a VLAN tag, whether its frame
  check sequence holds, and the DFP message. -/
  | t1s (port : BitVec 2) (dst src : BitVec 48) (ethertype : BitVec 16) (vlan fcsOk : Bool) (msg : List Byte)
  /-- A CAN FD frame on a controller: identifier and data. -/
  | can (ctrl : BitVec 1) (ident : BitVec 29) (data : List Byte)
  deriving DecidableEq, Repr

/-- A write of a dictionary entry (R407): the writing master (0xFE = a program), and the value in message form. -/
structure DictWrite where
  master : BitVec 8
  data : List Byte
  deriving DecidableEq, Repr

/-- How a DMA transfer ends (R400): the bytes moved, whether the host side failed, the address of a mesh transfer that
failed (R481), and the data a FROMHOST read. -/
structure DmaResult where
  moved : Nat
  failed : Bool := false
  meshAt : Option (BitVec 48) := .none
  data : List Byte := []
  /-- What the ECC finds in granules that a transfer to the host reads (R291). -/
  ecc : List (Nat × EccEvent) := []
  deriving DecidableEq, Repr

/-- The samples of one scan (R435): keys, pads (capacitance in fF), plug-detect, keyswitch level, and the edge latches
of keys, plug-detect and keyswitch (R438). -/
structure PanelSample where
  keys : BitVec 128 := 0
  pads : List Nat := []
  plg : BitVec 64 := 0
  keysw : Bool := false
  keyLatch : BitVec 128 := 0
  plgLatch : BitVec 64 := 0
  keyswLatch : Bool := false
  deriving DecidableEq, Repr

/-- The wake events of R465. -/
inductive WakeKind where
  | context
  | heapCycle
  | request
  | pin
  | frame (port : BitVec 3) (mac : BitVec 48) (msg : List Byte)
  | panel
  | tolerance
  deriving DecidableEq, Repr

/-- One device's answer to a PMBus poll (R472): the PMBDEV entry, whether it acknowledged, VOUT_MODE, READ_VOUT and
READ_IOUT. -/
structure PmbReading where
  dev : BitVec 4
  ack : Bool
  voutMode : Byte := 0
  vout : BitVec 16 := 0
  iout : BitVec 16 := 0
  deriving DecidableEq, Repr

/-- One device's STATUS_WORD read on an alert (R472): the PMBDEV entry, the word, and whether an output overvoltage,
undervoltage or overcurrent fault is among its faults. -/
structure PmbStatus where
  dev : BitVec 4
  word : BitVec 16
  output : Bool := false
  deriving DecidableEq, Repr

/-- What a scrub read finds (R486 to R488). -/
inductive ScrubResult where
  | clean | corrected | uncorrectable
  deriving DecidableEq, Repr

/-- The windows of a function that a host read can name (R384), and its configuration space (R383). -/
inductive HostWindow where
  | control | memory | ingest | config
  deriving DecidableEq, Repr

/-- Where a host read begins, and how far it goes with what ECC finds on the way (R291, R384, R386). -/
structure ReadAt where
  window : HostWindow
  off : BitVec 36
  deriving DecidableEq, Repr
structure ReadRun where
  len : Nat
  ecc : EccFinds := []
  /-- A mesh transfer of the read failed four times (R481). -/
  meshFailed : Bool := false
  deriving DecidableEq, Repr

/-- How the writing of a commit ends (R372, R375): units that failed before one took it, and whether one did; what met the reads of its
cards (R481, R486). -/
structure CommitEnd where
  fails : BitVec 2 := 0
  ok : Bool := true
  hit : AgentFault := {}
  deriving DecidableEq, Repr

/-- How the move of a wear unit ends (R374, R375): writes that failed verify before one took it, whether one did, and whether 64 B of it
could not be read. -/
structure MoveEnd where
  fails : BitVec 2 := 0
  ok : Bool := true
  unread : Bool := false
  deriving DecidableEq, Repr

/-- The configuration registers of a function that a host write acts on (R382, R383), by their PCI names; window 0 control, 1 memory,
2 ingest (log entry 116). -/
inductive ConfigReg where
  | command
  | bar (window : BitVec 2)
  | deviceControl | deviceControl2 | linkControl | l1Control | msixControl | aerStatus | aerControl
  deriving DecidableEq, Repr

/-- The states of the PCIe link (R382, R458, R465): L1.1 and L1.2 are substates of L1. -/
inductive PcieLink where
  | down | l0 | l1 | l11 | l12 | l2 | l3
  deriving DecidableEq, Repr

/-- What a write of the host or a peer carries, and whether its TLP is poisoned (R386) or carries an ECRC that does not hold
(R382). -/
structure WireData where
  bytes : List Byte
  poisoned : Bool := false
  ecrcBad : Bool := false
  deriving DecidableEq, Repr

/-- The state of a write's TLP: whole, poisoned (R386), or with an ECRC that does not hold (R382). -/
inductive TlpMark where
  | whole | poison | ecrcBad
  deriving DecidableEq, Repr

/-- A write to a device register: by machine code to a physical address (R219), or by the host to the control window of
a function (R388). -/
inductive RegWrite where
  | machine (i : Issue) (pa : BitVec 48) (v : Cell)
  | host (f : BitVec 2) (off : BitVec 16) (data : WireData)
  deriving DecidableEq, Repr

/-- The signal balls (R539); `neg` = the N side of a pair. -/
inductive Ball where
  | pcieTx (n : BitVec 4) (neg : Bool) | pcieRx (n : BitVec 4) (neg : Bool) | perst | clkreq | wake | hostwk
  | slTx (n : BitVec 3) (neg : Bool) | slRx (n : BitVec 3) (neg : Bool) | tp (n : BitVec 2) (neg : Bool)
  | cfTx (n : BitVec 1) | cfRx (n : BitVec 1) | ksi (n : BitVec 3) | kso (n : BitVec 4) | tch (n : BitVec 4) | plg (n : BitVec 6)
  | estopA | estopB | keysw | led (n : BitVec 5) | bz | pen (p : BitVec 4) | pgd (p : BitVec 4) | pmbClk | pmbDat | pmbAlert
  | pfail | xtalIn | xtalOut | refclk | qspiClk | qspiCs | qspiIo (n : BitVec 2) | bootsel (n : BitVec 2)
  | tck | tms | tdi | tdo | trst | obs (n : BitVec 5) | testMode
  deriving DecidableEq, Repr

/-- The commands: one constructor per row of the opcode table. -/
inductive Instr where
  /-- LDA (R112): Loads the operand cell into A as a move. -/
  | lda (i : Issue) (o : MOp)
  /-- STA (R112): Stores A to the operand cell. -/
  | sta (i : Issue) (o : MOp)
  /-- XCHG (R112): Exchanges A and the operand cell in one indivisible access. -/
  | xchg (i : Issue) (o : MOp)
  /-- CAS (R112): Compares the operand with A and, if they are EQ-equal, writes the cell at S into it; A receives the old value. -/
  | cas (i : Issue) (o : MOp)
  /-- LDX (R87): Loads X from a FIX or RAW payload. -/
  | ldx (i : Issue) (o : MOp)
  /-- LDY (R87): Loads Y from a FIX or RAW payload. -/
  | ldy (i : Issue) (o : MOp)
  /-- LDK (R87): Loads K from a FIX or RAW payload, saturating at 0xFFFF_FFFF. -/
  | ldk (i : Issue) (o : MOp)
  /-- STX (R112): Stores X as a FIX into the operand. -/
  | stx (i : Issue) (o : MOp)
  /-- STY (R112): Stores Y as a FIX into the operand. -/
  | sty (i : Issue) (o : MOp)
  /-- STK (R112): Stores K as a FIX into the operand. -/
  | stk (i : Issue) (o : MOp)
  /-- LDF (R86): Loads F from a CAP operand; any other tag raises CAP_TAG. -/
  | ldf (i : Issue) (o : MOp)
  /-- LDE (R86): Loads E from a CAP operand. -/
  | lde (i : Issue) (o : MOp)
  /-- LDS (R86): Loads S from a CAP operand. -/
  | lds (i : Issue) (o : MOp)
  /-- LDC (R86): Loads C from a CAP operand. -/
  | ldc (i : Issue) (o : MOp)
  /-- STF (R112): Stores F into the operand. -/
  | stf (i : Issue) (o : MOp)
  /-- STE (R112): Stores E into the operand. -/
  | ste (i : Issue) (o : MOp)
  /-- STS (R112): Stores S into the operand. -/
  | sts (i : Issue) (o : MOp)
  /-- STC (R112): Stores C into the operand. -/
  | stc (i : Issue) (o : MOp)
  /-- MOVC (R135): Copies the cell at index X to index Y, ascending; one iteration. -/
  | movc (i : Issue) (o : MOp)
  /-- MOVCD (R135): Copies the cell at index X to index Y, descending; one iteration. -/
  | movcd (i : Issue) (o : MOp)
  /-- FILLC (R135): Writes A to the indexed cell; one iteration. -/
  | fillc (i : Issue) (o : MOp)
  /-- RDST (R112): Reads all of ST into A as RAW. -/
  | rdst (i : Issue) (o : MOp)
  /-- WRST (R90): Writes ST bits [15:0] from the operand. -/
  | wrst (i : Issue) (o : MOp)
  /-- ISYNC (R277): Discards the instruction words that this context has fetched ahead. -/
  | isync (i : Issue) (o : MOp)
  /-- FENCE (R112): Orders every earlier load and store of the context, draining the merging buffer, before every later one. -/
  | fence (i : Issue) (o : MOp)
  /-- ADD (R50): Generic addition of A and the operand. -/
  | add (i : Issue) (o : MOp)
  /-- SUB (R50): Generic subtraction of the operand from A. -/
  | sub (i : Issue) (o : MOp)
  /-- MUL (R51): Generic multiplication. -/
  | mul (i : Issue) (o : MOp)
  /-- DIV (R52): Generic true division. -/
  | div (i : Issue) (o : MOp)
  /-- QUOT (R53): Truncating integer quotient. -/
  | quot (i : Issue) (o : MOp)
  /-- REM (R53): Integer remainder with the sign of the dividend. -/
  | rem (i : Issue) (o : MOp)
  /-- NEG (R54): Generic negation of the operand. -/
  | neg (i : Issue) (o : MOp)
  /-- ABS (R54): Generic absolute value of the operand. -/
  | abs (i : Issue) (o : MOp)
  /-- ASH (R56): Arithmetic shift of the value in A by the operand count. -/
  | ash (i : Issue) (o : MOp)
  /-- IPOW (R115): Raises A to an integer power. -/
  | ipow (i : Issue) (o : MOp)
  /-- SQRT (R113): Square root of the operand, with the dimension rules of R69. -/
  | sqrt (i : Issue) (o : MOp)
  /-- ADDN (R58): Non-promoting ADD, raising FIX_OVERFLOW in place of promotion. -/
  | addn (i : Issue) (o : MOp)
  /-- SUBN (R58): Non-promoting SUB. -/
  | subn (i : Issue) (o : MOp)
  /-- MULN (R58): Non-promoting MUL. -/
  | muln (i : Issue) (o : MOp)
  /-- QUOTN (R58): Non-promoting QUOT. -/
  | quotn (i : Issue) (o : MOp)
  /-- NEGN (R58): Non-promoting NEG. -/
  | negn (i : Issue) (o : MOp)
  /-- ABSN (R58): Non-promoting ABS. -/
  | absn (i : Issue) (o : MOp)
  /-- ASHN (R58): Non-promoting ASH. -/
  | ashn (i : Issue) (o : MOp)
  /-- TOFLO (R45): Converts the operand to binary64. -/
  | toflo (i : Issue) (o : MOp)
  /-- TOEX (R114): Converts the operand to its exact value. -/
  | toex (i : Issue) (o : MOp)
  /-- RNDI (R114): Rounds the operand to an integer under ST.FRM. -/
  | rndi (i : Issue) (o : MOp)
  /-- TONS (R114): Converts a QTY in seconds to an integer number of nanoseconds. -/
  | tons (i : Issue) (o : MOp)
  /-- TOSEC (R113): Converts nanoseconds to a QTY in seconds. -/
  | tosec (i : Issue) (o : MOp)
  /-- TOCHR (R113): Converts a FIX to a CHR, checking the range. -/
  | tochr (i : Issue) (o : MOp)
  /-- TOTIME (R113): Converts nanoseconds to a TIME value, saturating. -/
  | totime (i : Issue) (o : MOp)
  /-- TOINT (R113): Gives the integer value of a CHR or TIME operand. -/
  | toint (i : Issue) (o : MOp)
  /-- QMK (R83): Makes a quantity from A and a RAW SPEC. -/
  | qmk (i : Issue) (o : MOp)
  /-- QSTRIP (R83): Strips a QTY to a FLO. -/
  | qstrip (i : Issue) (o : MOp)
  /-- QDIMEQ (R83): Tests two dimensions for equality. -/
  | qdimeq (i : Issue) (o : MOp)
  /-- QGETU (R83): Reads the relative uncertainty. -/
  | qgetu (i : Issue) (o : MOp)
  /-- QSETU (R83): Sets the relative uncertainty. -/
  | qsetu (i : Issue) (o : MOp)
  /-- QGETUA (R83): Reads the absolute uncertainty as a QTY. -/
  | qgetua (i : Issue) (o : MOp)
  /-- QSETUA (R83): Sets the uncertainty from an absolute value. -/
  | qsetua (i : Issue) (o : MOp)
  /-- QGETH (R83): Reads HINT. -/
  | qgeth (i : Issue) (o : MOp)
  /-- QSETH (R83): Writes HINT. -/
  | qseth (i : Issue) (o : MOp)
  /-- QGETA (R83): Reads ABS. -/
  | qgeta (i : Issue) (o : MOp)
  /-- QSETA (R83): Writes ABS. -/
  | qseta (i : Issue) (o : MOp)
  /-- CEQ (R55): Generic compare for equality. -/
  | ceq (i : Issue) (o : MOp)
  /-- CNE (R55): Generic compare for inequality. -/
  | cne (i : Issue) (o : MOp)
  /-- CLT (R55): Generic compare, less than. -/
  | clt (i : Issue) (o : MOp)
  /-- CLE (R55): Generic compare, less than or equal. -/
  | cle (i : Issue) (o : MOp)
  /-- CGT (R55): Generic compare, greater than. -/
  | cgt (i : Issue) (o : MOp)
  /-- CGE (R55): Generic compare, greater than or equal. -/
  | cge (i : Issue) (o : MOp)
  /-- EQ (R111): Tests two cells for EQ-equality. -/
  | eq (i : Issue) (o : MOp)
  /-- CMPC (R135): Compares the cells at index X and index Y; one iteration. -/
  | cmpc (i : Issue) (o : MOp)
  /-- TYPEP (R32): Tests the TAG of A. -/
  | typep (i : Issue) (o : MOp)
  /-- TAGX (R32): Extracts the TAG of the operand as a FIX. -/
  | tagx (i : Issue) (o : MOp)
  /-- TSCANE (R135): Tests whether the indexed cell's TAG equals the tag sought; one iteration. -/
  | tscane (i : Issue) (o : MOp)
  /-- TSCANN (R135): Tests whether the indexed cell's TAG differs from the tag sought; one iteration. -/
  | tscann (i : Issue) (o : MOp)
  /-- RADD (R64): RAW addition, modulo 2^64. -/
  | radd (i : Issue) (o : MOp)
  /-- RSUB (R64): RAW subtraction. -/
  | rsub (i : Issue) (o : MOp)
  /-- RMUL (R64): RAW multiplication, low half. -/
  | rmul (i : Issue) (o : MOp)
  /-- RDIVU (R64): RAW unsigned quotient. -/
  | rdivu (i : Issue) (o : MOp)
  /-- RREMU (R64): RAW unsigned remainder. -/
  | rremu (i : Issue) (o : MOp)
  /-- RDIVS (R64): RAW signed quotient. -/
  | rdivs (i : Issue) (o : MOp)
  /-- RREMS (R64): RAW signed remainder. -/
  | rrems (i : Issue) (o : MOp)
  /-- RAND (R64): RAW bitwise and. -/
  | rand (i : Issue) (o : MOp)
  /-- ROR (R64): RAW bitwise or. -/
  | ror (i : Issue) (o : MOp)
  /-- RXOR (R64): RAW bitwise exclusive-or. -/
  | rxor (i : Issue) (o : MOp)
  /-- RSHL (R65): RAW shift left. -/
  | rshl (i : Issue) (o : MOp)
  /-- RSHR (R65): RAW logical shift right. -/
  | rshr (i : Issue) (o : MOp)
  /-- RSAR (R65): RAW arithmetic shift right. -/
  | rsar (i : Issue) (o : MOp)
  /-- TORAW (R118): Makes a RAW cell from the operand's PAYLOAD. -/
  | toraw (i : Issue) (o : MOp)
  /-- RTOFIX (R118): Makes a FIX cell from the operand's PAYLOAD. -/
  | rtofix (i : Issue) (o : MOp)
  /-- RTOFLO (R118): Makes a FLO cell from the operand's PAYLOAD. -/
  | rtoflo (i : Issue) (o : MOp)
  /-- BFX (R120): Extracts a bit field, zero-extended. -/
  | bfx (i : Issue) (o : MOp)
  /-- BFXS (R120): Extracts a bit field, sign-extended. -/
  | bfxs (i : Issue) (o : MOp)
  /-- BFI (R120): Inserts the low bits of X as a bit field. -/
  | bfi (i : Issue) (o : MOp)
  /-- CLZ (R120): Counts leading zero bits. -/
  | clz (i : Issue) (o : MOp)
  /-- CTZ (R120): Counts trailing zero bits. -/
  | ctz (i : Issue) (o : MOp)
  /-- POPC (R120): Counts set bits. -/
  | popc (i : Issue) (o : MOp)
  /-- BPERM (R120): Permutes the bytes of A. -/
  | bperm (i : Issue) (o : MOp)
  /-- CAR (R121): Gives the CAR of a cons, or nil for nil. -/
  | car (i : Issue) (o : MOp)
  /-- CDR (R121): Gives the CDR of a cons, or nil for nil. -/
  | cdr (i : Issue) (o : MOp)
  /-- CONS (R122): Allocates a new cons from A and the operand. -/
  | cons (i : Issue) (o : MOp)
  /-- SETCAR (R121): Writes A into the CAR of a cons. -/
  | setcar (i : Issue) (o : MOp)
  /-- SETCDR (R121): Writes A into the CDR of a cons. -/
  | setcdr (i : Issue) (o : MOp)
  /-- ASTEP (R123): Performs one step of an association-list search. -/
  | astep (i : Issue) (o : MOp)
  /-- VALLOC (R122): Allocates a vector. -/
  | valloc (i : Issue) (o : MOp)
  /-- SALLOC (R122): Allocates a string; a long instruction. -/
  | salloc (i : Issue) (o : MOp)
  /-- RALLOC (R122): Allocates a record. -/
  | ralloc (i : Issue) (o : MOp)
  /-- CLALLOC (R124): Allocates a closure whose code entry comes from an executable CAP. -/
  | clalloc (i : Issue) (o : MOp)
  /-- OLEN (R124): Gives the length of an object. -/
  | olen (i : Issue) (o : MOp)
  /-- VCOPY (R125): Copies K vector elements between two vectors; a long instruction. -/
  | vcopy (i : Issue) (o : MOp)
  /-- SLDB (R124): Loads a byte of a string. -/
  | sldb (i : Issue) (o : MOp)
  /-- SSTB (R124): Stores a byte of a string. -/
  | sstb (i : Issue) (o : MOp)
  /-- RTYPE (R124): Gives the type identifier of a record. -/
  | rtype (i : Issue) (o : MOp)
  /-- CBOUND (R147): Narrows the bounds of the capability in A. -/
  | cbound (i : Issue) (o : MOp)
  /-- CRIGHTS (R147): Clears rights of the capability in A. -/
  | crights (i : Issue) (o : MOp)
  /-- CSEAL (R150): Seals A with the type that the operand names. -/
  | cseal (i : Issue) (o : MOp)
  /-- CUNSEAL (R151): Unseals the SEAL in A. -/
  | cunseal (i : Issue) (o : MOp)
  /-- INVOKE (R153): Enters a sealed subsystem through its entry pair. -/
  | invoke (i : Issue) (o : MOp)
  /-- CGETB (R126): Reads BASE of a capability. -/
  | cgetb (i : Issue) (o : MOp)
  /-- CGETL (R142): Reads the decoded length of a capability. -/
  | cgetl (i : Issue) (o : MOp)
  /-- CGETR (R126): Reads RIGHTS of a capability. -/
  | cgetr (i : Issue) (o : MOp)
  /-- CGETT (R126): Reads OTYPE of a capability. -/
  | cgett (i : Issue) (o : MOp)
  /-- CSUB (R148): Tests whether A's authority lies within the operand's. -/
  | csub (i : Issue) (o : MOp)
  /-- BR (R127): Branches always. -/
  | br (i : Issue) (off : BitVec 24)
  /-- BT (R127): Branches if A is true. -/
  | bt (i : Issue) (off : BitVec 24)
  /-- BF (R127): Branches if A is false. -/
  | bf (i : Issue) (off : BitVec 24)
  /-- BNIL (R127): Branches if A is nil. -/
  | bnil (i : Issue) (off : BitVec 24)
  /-- BNNIL (R127): Branches if A is not nil. -/
  | bnnil (i : Issue) (off : BitVec 24)
  /-- BKNZ (R127): Decrements K and branches while K is non-zero. -/
  | bknz (i : Issue) (off : BitVec 24)
  /-- JMP (R128): Jumps through an executable capability. -/
  | jmp (i : Issue) (o : MOp)
  /-- CALL (R128): Pushes the return capability and jumps. -/
  | call (i : Issue) (o : MOp)
  /-- CALLC (R128): Calls a closure, pushing C and the return capability. -/
  | callc (i : Issue) (o : MOp)
  /-- RET (R128): Pops a return capability and transfers to it. -/
  | ret (i : Issue) (o : MOp)
  /-- RETC (R128): Returns as RET does, then pops C. -/
  | retc (i : Issue) (o : MOp)
  /-- WFE (R206): Takes an event from a subscribed channel, or sleeps until one arrives. -/
  | wfe (i : Issue) (o : MOp)
  /-- SEV (R203): Posts to an event channel. -/
  | sev (i : Issue) (o : MOp)
  /-- WAITT (R209): Sleeps the context until global time reaches the operand. -/
  | waitt (i : Issue) (o : MOp)
  /-- CKPT (R370): Requests a journal commit of the context record and its bedrock changes. -/
  | ckpt (i : Issue) (o : MOp)
  /-- RDTIME (R129): Reads the global time counter. -/
  | rdtime (i : Issue) (o : MOp)
  /-- EVSUB (R205): Subscribes the context to a channel. -/
  | evsub (i : Issue) (o : MOp)
  /-- EVUNSUB (R205): Ends a subscription. -/
  | evunsub (i : Issue) (o : MOp)
  /-- EVPEND (R207): Reads a channel's count and overflow flag and clears both. -/
  | evpend (i : Issue) (o : MOp)
  /-- ZLINE (R130): Zeroes and claims a 512 B line without fetching it. -/
  | zline (i : Issue) (o : MOp)
  /-- DINV (R278): Invalidates every copy of a line device-wide. -/
  | dinv (i : Issue) (o : MOp)
  /-- DCLEAN (R278): Writes every dirty copy of a line to HBM. -/
  | dclean (i : Issue) (o : MOp)
  /-- DCINV (R278): Cleans and then invalidates a line. -/
  | dcinv (i : Issue) (o : MOp)
  /-- DRANGE_INVALIDATE (R280): DRANGE SUB 0: invalidates a range, one line per step. -/
  | drangeInvalidate (i : Issue) (opnd : BitVec 16)
  /-- DRANGE_CLEAN (R280): DRANGE SUB 1: cleans a range. -/
  | drangeClean (i : Issue) (opnd : BitVec 16)
  /-- DRANGE_CLEAN_INVALIDATE (R280): DRANGE SUB 2: cleans and invalidates a range. -/
  | drangeCleanInvalidate (i : Issue) (opnd : BitVec 16)
  /-- DINVALL (R281): Invalidates every unlocked object-cache entry of the core. -/
  | dinvall (i : Issue) (sub : BitVec 8) (opnd : BitVec 16)
  /-- IINV (R281): Invalidates the core's instruction cache. -/
  | iinv (i : Issue) (sub : BitVec 8) (opnd : BitVec 16)
  /-- L1LOCK (R282): Converts object-cache entries into scratch memory. -/
  | l1lock (i : Issue) (sub : BitVec 8) (opnd : BitVec 16)
  /-- L1UNLOCK (R285): Releases every locked entry. -/
  | l1unlock (i : Issue) (sub : BitVec 8) (opnd : BitVec 16)
  /-- TLBI_ALL (R261): TLBI SUB 0: invalidates every replaceable entry on every core. -/
  | tlbiAll (i : Issue) (opnd : BitVec 16)
  /-- TLBI_ASID (R261): TLBI SUB 1: invalidates the non-global entries of one address space. -/
  | tlbiAsid (i : Issue) (opnd : BitVec 16)
  /-- TLBI_ADDRESS (R261): TLBI SUB 2: invalidates the entries matching one virtual address. -/
  | tlbiAddress (i : Issue) (opnd : BitVec 16)
  /-- MCALL (R131): Raises the cause MCALL to request a machine service. -/
  | mcall (i : Issue) (sub : BitVec 8) (opnd : BitVec 16)
  /-- MRET (R160): Restores ST from MST and PC from MRA in one step. -/
  | mret (i : Issue) (sub : BitVec 8) (opnd : BitVec 16)
  /-- SETML (R161): Sets the mask level. -/
  | setml (i : Issue) (sub : BitVec 8) (opnd : BitVec 16)
  /-- MTAG (R35): Builds any cell from X and Y. -/
  | mtag (i : Issue) (sub : BitVec 8) (opnd : BitVec 16)
  /-- MSPLIT (R131): Splits A into its head and PAYLOAD. -/
  | msplit (i : Issue) (sub : BitVec 8) (opnd : BitVec 16)
  /-- MRD (R132): Reads a machine register. -/
  | mrd (i : Issue) (sub : BitVec 8) (opnd : BitVec 16)
  /-- MWR (R132): Writes a machine register. -/
  | mwr (i : Issue) (sub : BitVec 8) (opnd : BitVec 16)
  /-- TLBW (R255): Writes a TLB entry. -/
  | tlbw (i : Issue) (sub : BitVec 8) (opnd : BitVec 16)
  /-- PLD (R250): Walk-type physical load. -/
  | pld (i : Issue) (sub : BitVec 8) (opnd : BitVec 16)
  /-- PST (R250): Physical store. -/
  | pst (i : Issue) (sub : BitVec 8) (opnd : BitVec 16)
  /-- CTXLD (R196): Reads a cell of a context record. -/
  | ctxld (i : Issue) (sub : BitVec 8) (opnd : BitVec 16)
  /-- CTXST (R197): Writes a cell of a context record. -/
  | ctxst (i : Issue) (sub : BitVec 8) (opnd : BitVec 16)
  /-- REP (R133): Repeat prefix; it governs the next instruction with interrupts taken every 64 iterations. -/
  | rep (i : Issue) (mode base : BitVec 4) (disp : BitVec 16) (gop : BitVec 8) (o : MOp)
  /-- REPI (R136): Interruptible repeat prefix. -/
  | repi (i : Issue) (mode base : BitVec 4) (disp : BitVec 16) (gop : BitVec 8) (o : MOp)
  /-- REPEAT_ITERATION (R135): Performs one further iteration of a repeated instruction. -/
  | repeatIteration (i : Issue)
  /-- LONG_INSTRUCTION_STEP (R181): Performs one further step of a long instruction. -/
  | longInstructionStep (i : Issue)
  /-- ASYNC_CAUSE_TAKEN (R174): Takes a pending unmasked asynchronous cause at a boundary. -/
  | asyncCauseTaken (i : Issue)
  /-- BUS_ERROR_STORE (R169): A failing store is reported later as a pending BUS_ERROR. -/
  | busErrorStore (i : Issue) (pa : BitVec 48) (pst : Bool)
  /-- OBJECT_CACHE_FILL (R270): A requested sector arrives and frees its miss register. -/
  | objectCacheFill (core : BitVec 6) (line : BitVec 39) (sector : BitVec 2) (ecc : EccEvent)
  /-- MERGING_BUFFER_DRAIN (R274): Drains the write-through merging buffer after 64 cycles without a store. -/
  | mergingBufferDrain (core : BitVec 6)
  /-- L1CTL_WRITE (R294): A write of the cache enables; clearing DEN drains and writes back first. -/
  | l1ctlWrite (i : Issue) (core : BitVec 6) (v : Cell)
  /-- BUDGET_TICK (R201): Each microsecond boundary charges a running context's BUDGET, making WATCHDOG pending at 0. -/
  | budgetTick
  /-- CONTEXT_PLACEMENT (R198): The dispatcher places a placeable context in a slot. -/
  | contextPlacement
  /-- DISPATCH_QUANTUM_EXPIRY (R198): A context's dispatch quantum ends, so it may be evicted for a peer. -/
  | dispatchQuantumExpiry (core : BitVec 6) (slot : BitVec 2)
  /-- EVICT_FOR_RECORD_ACCESS (R196): Evicts a resident target at its boundary and applies a pending CTXLD or CTXST. -/
  | evictForRecordAccess (i : Issue)
  /-- WAKE_REACHED (R209): Global time reaches a context's WAKE and makes it ready. -/
  | wakeReached (ctx : BitVec 14)
  /-- COMPLETION_RECORD_ACCEPTED (R213): The collector admits presented completion records to its queue. -/
  | completionRecordAccepted
  /-- COMPLETION_RECORD_RETIRED (R214): A record is retired as a post or a delivery to a context. -/
  | completionRecordRetired
  /-- RECORD_PARITY_SCAN (R482): Reads every non-resident context record once a second, faulting the failing ones. -/
  | recordParityScan (bad : List (BitVec 14))
  /-- HWB_WRITE (R219): A heap window base write; clearing EN closes every open silt block. -/
  | hwbWrite (i : Issue) (v : Cell)
  /-- HCTL_MIN (R239): Requests a minor collection cycle. -/
  | hctlMin (i : Issue) (v : Cell)
  /-- HCTL_MAJ (R239): Requests a major collection cycle. -/
  | hctlMaj (i : Issue) (v : Cell)
  /-- CYCLE_START (R239): A requested collection cycle starts from IDLE. -/
  | cycleStart
  /-- CORE_PASS (R236): A core performs a broadcast pass on its resident contexts and acknowledges it. -/
  | corePass (core : BitVec 6)
  /-- MARK_END (R231): MARK ends and SELECT begins. -/
  | markEnd
  /-- SELECT (R233): Decides the condemned blocks, chooses the relocation set and sweeps. -/
  | select
  /-- RELOCATE_FLIP (R236): Flips the epoch and starts RELOCATE. -/
  | relocateFlip
  /-- ENGINE_COPY (R232): A sinter engine copies and forwards one live object. -/
  | engineCopy (se : BitVec 1) (step : CopyStep)
  /-- REMAP (R234): Begins healing the remap scope. -/
  | remap
  /-- REMAP_END (R234): Frees the relocation set, completes the cycle and posts completion. -/
  | remapEnd
  /-- BLOCK_CLEARED (R235): A freed block has been zeroed and becomes free. -/
  | blockCleared (block : BitVec 15)
  /-- GY_NOP (R301): Geyser command NOP. -/
  | gyNop (g : BitVec 3) (c : GyCmd)
  /-- GY_LOAD (R311): Copies and checks a descriptor into a free slot. -/
  | gyLoad (g : BitVec 3) (c : GyCmd)
  /-- GY_RUN (R327): Admits and runs a stream. -/
  | gyRun (g : BitVec 3) (c : GyCmd)
  /-- GY_PAUSE (R301): Pauses a running stream. -/
  | gyPause (g : BitVec 3) (c : GyCmd)
  /-- GY_STOP (R301): Frees a slot and its stream memory. -/
  | gyStop (g : BitVec 3) (c : GyCmd)
  /-- GY_RELOAD (R308): Exchanges a stage's parameter block with its spare at the next boundary. -/
  | gyReload (g : BitVec 3) (c : GyCmd)
  /-- GY_CLEAR (R301): Resets the windows, averages, histories and rainflow state. -/
  | gyClear (g : BitVec 3) (c : GyCmd)
  /-- GY_TRIG (R332): Starts a SHOCK pulse. -/
  | gyTrig (g : BitVec 3) (c : GyCmd)
  /-- LOADSM (R301): Copies HBM into stream memory. -/
  | loadsm (g : BitVec 3) (c : GyCmd)
  /-- READSM (R301): Copies stream memory to HBM. -/
  | readsm (g : BitVec 3) (c : GyCmd)
  /-- STAGE_VALUE_PROCESSED (R328): The lanes process one value through a stream's kernel stage. -/
  | stageValueProcessed (g : BitVec 3) (slot : BitVec 8) (stage : StageStep)
  /-- RING_FULL_RECHECK (R324): A record waiting on a full ring re-reads CONS every 1 µs. -/
  | ringFullRecheck (g : BitVec 3) (slot : BitVec 8) (out : BitVec 2)
  /-- DMA_RING_RECORD (R401): Writes a record into a host DMA ring. -/
  | dmaRingRecord (g : BitVec 3) (slot : BitVec 8) (out : BitVec 2) (cons : Option Word64)
  /-- SOURCE_TIMEOUT (R334): TMO µs without input aborts a CLASS 0 stream with 0x51. -/
  | sourceTimeout (g : BitVec 3) (slot : BitVec 8)
  /-- RAMP_END (R334): A drive ramp reaches 0, completing PAUSE or STOP. -/
  | rampEnd (g : BitVec 3) (slot : BitVec 8)
  /-- INGEST_WRITE (R397): A host or peer write delivers samples or a time anchor to an ingest slot. -/
  | ingestWrite (f : BitVec 2) (off : BitVec 28) (data : WireData)
  /-- HOST_MEMORY_READ (R386): A host read through the memory window. -/
  | hostMemoryRead (f : BitVec 2) (at_ : ReadAt) (run : ReadRun)
  /-- HOST_MEMORY_WRITE (R386): A host write through the memory window, merged under R38. -/
  | hostMemoryWrite (f : BitVec 2) (off : BitVec 36) (data : List Byte) (poisoned : TlpMark)
  /-- LINK_ENABLE (R346): Setting SLCTL.EN takes the link from DOWN to ALIGN. -/
  | linkEnable (i : Issue) (n : BitVec 3) (v : Cell)
  /-- RETR (R354): Forces a link DOWN, after which it retrains. -/
  | retr (i : Issue) (n : BitVec 3) (v : Cell)
  /-- ALIGNED (R346): 64 IDLE sets received take the link to TRAIN. -/
  | aligned (n : BitVec 3)
  /-- TRAIN_SEND (R346): Sends a TRAIN frame every 4 µs while training. -/
  | trainSend (n : BitVec 3)
  /-- TRAIN_RECEIVED (R346): A TRAIN frame is received, possibly bringing the link UP or NOVER and measuring DELAY. -/
  | trainReceived (n : BitVec 3) (fr : RxFrame)
  /-- TRAIN_TIMEOUT (R346): No TRAIN within 10 ms returns the link to DOWN. -/
  | trainTimeout (n : BitVec 3)
  /-- NOVER_RETRAIN (R346): Training restarts every 10 ms in NOVER. -/
  | noverRetrain (n : BitVec 3)
  /-- LINK_DOWN (R351): Code errors or 1 ms of silence take the link DOWN. -/
  | linkDown (n : BitVec 3) (cause : LinkLoss)
  /-- SAMPLES_FRAME_RECEIVED (R343): A SAMPLES frame is checked and its samples go to their streams. -/
  | samplesFrameReceived (n : BitVec 3) (fr : RxFrame)
  /-- SAMPLES_FRAME_SENT (R326): Sends a SAMPLES frame of drive values when credit allows. -/
  | samplesFrameSent (n : BitVec 3)
  /-- TIME_FRAME (R347): Sends a TIME frame every TPER × 100 µs. -/
  | timeFrame (n : BitVec 3)
  /-- CREDIT (R348): A CREDIT set received returns frame credits. -/
  | credit (n : BitVec 3) (count : BitVec 8)
  /-- SLCMB (R353): A write to the mailbox sends a CTRL request. -/
  | slcmb (i : Issue) (n : BitVec 3) (v : Cell)
  /-- CTRL_REPLY (R352): A CTRL reply is received and reported as event 0x04. -/
  | ctrlReply (n : BitVec 3) (fr : RxFrame)
  /-- CTRL_TIMEOUT (R352): A CTRL request with no reply for 1 ms is abandoned. -/
  | ctrlTimeout (n : BitVec 3)
  /-- STAT_FRAME (R352): A STAT frame received is reported as event 0x05. -/
  | statFrame (n : BitVec 3) (fr : RxFrame)
  /-- GTCSTEP (R358): Steps the GTC forward at its next advance. -/
  | gtcstep (i : Issue) (v : Cell)
  /-- PTP_EVENT_MESSAGE (R361): A PTP event message is stamped and the servo acts on the offset. -/
  | ptpEventMessage (port : BitVec 2) (m : PtpEvent)
  /-- CROSSING_MODE_CHANGE (R364): A new XMODE takes effect at every crossing within 10 µs. -/
  | crossingModeChange
  /-- CKPT_ACCEPTANCE (R370): The controller accepts a waiting CKPT, assigns q and writes the record. -/
  | ckptAcceptance (ctx : BitVec 14)
  /-- COMMIT_COMPLETE (R370): A commit marker reaches the tuff die and the completion record is presented. -/
  | commitComplete (e : CommitEnd)
  /-- JCMD_NOP (R368): Journal command NOP. -/
  | jcmdNop (c : JCmd)
  /-- RREAD (R368): Copies ring cells to HBM. -/
  | rread (c : JCmd)
  /-- FULL (R368): Lists every bedrock card, so that the next commit holds all bedrock. -/
  | full (c : JCmd)
  /-- WEAR_LEVEL_MOVE (R374): The controller moves a wear unit or rewrites it for retention. -/
  | wearLevelMove (unit dest : BitVec 17) (e : MoveEnd)
  /-- POWER_FAIL_COMMIT (R376): PFAIL_N low for 1 µs stops the cores, powers down domains and begins writing the staging buffer. -/
  | powerFailCommit (staged : Nat)
  /-- PFDONE (R376): The staging buffer has been written and the controller is quiescent. -/
  | pfdone
  /-- POWER_RETURN_RESTART (R378): PFAIL_N high for 10 ms restarts the main side from the journal. -/
  | powerReturnRestart (env : BootEnv)
  /-- FEN_NEGOTIATE (R389): Writing FEN = 1 negotiates the OHP version. -/
  | fenNegotiate (f : BitVec 2) (v : Word64)
  /-- FUNCTION_DISABLE (R396): Writing FEN = 0 ends the mailbox service. -/
  | functionDisable (f : BitVec 2) (v : Word64)
  /-- MRST (R396): Resets the mailbox counts and discards pending requests. -/
  | mrst (f : BitVec 2) (v : Word64)
  /-- DBREQ (R390): A request doorbell write, refused if it would overrun the slots. -/
  | dbreq (f : BitVec 2) (v : Word64)
  /-- DBAPP (R388): The application doorbell latches APPVAL and posts when ACEN = 1. -/
  | dbapp (f : BitVec 2) (v : Word64) (chk : SigCheck)
  /-- HFSIG (R398): Sets a HIRQ bit and sends an MSI-X vector. -/
  | hfsig (i : Issue) (f : BitVec 2) (v : Cell)
  /-- FLR (R396): A function-level reset of one PCIe function. -/
  | flr (f : BitVec 2)
  /-- PERST_N (R502): PERST_N resets the PCIe endpoint and its functions. -/
  | perstN (high : Bool)
  /-- DMCMD_NOP (R400): DMA command NOP. -/
  | dmcmdNop (c : JCmd)
  /-- TOHOST (R400): Starts a DMA transfer from HBM to the host. -/
  | tohost (c : JCmd)
  /-- FROMHOST (R400): Starts a DMA transfer from the host to HBM. -/
  | fromhost (c : JCmd)
  /-- DMA_TRANSFER_COMPLETE (R400): A DMA transfer ends and presents its completion on port 10. -/
  | dmaTransferComplete (r : DmaResult)
  /-- OHP_NOP (R393): The NOP message is answered. -/
  | ohpNop (via : Via)
  /-- IDENT (R393): Returns identity, version and serial. -/
  | ident (via : Via)
  /-- DREAD (R393): Reads a dictionary entry. -/
  | dread (via : Via)
  /-- DWRITE (R411): Writes a dictionary entry, judged in the tick. -/
  | dwrite (via : Via)
  /-- DREADSEG (R393): Reads a segment of an entry. -/
  | dreadseg (via : Via)
  /-- DWRITESEG (R394): Writes a segment; the entry changes at its last segment. -/
  | dwriteseg (via : Via)
  /-- DMREAD (R393): Reads several entries. -/
  | dmread (via : Via)
  /-- HBEAT (R414): A heartbeat message. -/
  | hbeat (via : Via)
  /-- DICTIONARY_TICK (R411): At the end of each 1 ms tick, VC1 applies the tick's dictionary work in fixed order. -/
  | dictionaryTick
  /-- HEARTBEAT_LAPSE (R414): The owner's HBTIME expires and ownership ends. -/
  | heartbeatLapse
  /-- DESIGNATION_EXPIRY (R417): A designation not accepted within 500 ms expires. -/
  | designationExpiry
  /-- DXCMD_NOP (R428): Dictionary-port NOP. -/
  | dxcmdNop (c : DxCmd)
  /-- DX_READ (R429): A program read of an entry. -/
  | dxRead (c : DxCmd)
  /-- DX_WRITE (R429): A program write of an entry. -/
  | dxWrite (c : DxCmd)
  /-- PUBLISH (R430): Creates a published entry. -/
  | publish (c : DxCmd)
  /-- WITHDRAW (R430): Withdraws a published entry. -/
  | withdraw (c : DxCmd)
  /-- PANEL_SCAN (R437): The 1 ms scan samples and processes groups 0 to 3. -/
  | panelScan (p : PanelSample)
  /-- ACCEPTED_CHANGE (R437): A run of DEB differing samples accepts an input change. -/
  | acceptedChange (group : BitVec 2) (input : BitVec 7)
  /-- STUCK_SET (R437): An input held for STK seconds is set stuck. -/
  | stuckSet (group : BitVec 2) (input : BitVec 7)
  /-- CHATTER_WINDOW_END (R440): A chatter window ends; chatter is reported or cleared. -/
  | chatterWindowEnd (group : BitVec 2)
  /-- PNEVT_READ (R441): A read of PNEVT removes the oldest event. -/
  | pnevtRead
  /-- ESTOP_SAMPLE (R444): Samples the emergency-stop channels every 125 µs. -/
  | estopSample (aHigh bHigh aPulse bPulse : Bool)
  /-- EREL (R446): Both channels high for 50 ms set EREL. -/
  | erel
  /-- ERESET (R446): A master's reset of a released emergency stop. -/
  | ereset (w : DictWrite)
  /-- DISCREPANCY (R447): Channels disagreeing for 50 ms set EDISC. -/
  | discrepancy
  /-- BZON (R449): Sounds the buzzer for n ms. -/
  | bzon (w : DictWrite)
  /-- BUZZER_EXPIRY (R449): The buzzer time runs out. -/
  | buzzerExpiry
  /-- STATE_EVALUATION (R463): Re-evaluates the power state after a change of tolerance or condition. -/
  | stateEvaluation
  /-- DWELL_EXPIRY (R463): The dwell time of an allowed deeper state expires. -/
  | dwellExpiry
  /-- CORE_GATING (R462): Gates a core idle for 2 µs. -/
  | coreGating (core : BitVec 6)
  /-- PS2_ENTRY (R464): Enters Cluster off. -/
  | ps2Entry
  /-- PS3_ENTRY (R464): Enters fumarole. -/
  | ps3Entry
  /-- PS4_ENTRY (R464): Enters Dormant. -/
  | ps4Entry
  /-- PS5_ENTRY (R380): Commits all records and enters Caldera. -/
  | ps5Entry
  /-- WAKE_EVENT (R465): A wake event starts the exit to the state it requires. -/
  | wakeEvent (w : WakeKind)
  /-- STATE_EXIT (R464): Exits PS1 to PS5 in the stated order. -/
  | stateExit (env : BootEnv)
  /-- WAKE_PREPARATION (R466): Begins an exit or ungates a core ahead of a context's WAKE. -/
  | wakePreparation (ctx : BitVec 14)
  /-- PLL_LOCK (R454): A PLL locks and clocks its domains. -/
  | pllLock (p : BitVec 4)
  /-- SEQUENCE_UP (R469): Raises the rails in STEP order. -/
  | sequenceUp
  /-- SEQUENCE_DOWN (R469): Lowers the rails in reverse STEP order. -/
  | sequenceDown
  /-- RAIL_FAULT (R470): A PGD low for 20 µs or a PGD timeout commits, records and lowers every rail. -/
  | railFault (pgd : BitVec 4) (staged : Nat)
  /-- RAIL_FAULT_RESTART (R470): Restarts after 1 s and resumes from the journal. -/
  | railFaultRestart (env : BootEnv)
  /-- PMBUS_POLL (R472): Polls the PMBus devices every 10 ms. -/
  | pmbusPoll (r : List PmbReading)
  /-- PMB_ALERT (R472): PMB_ALERT_N low: reads and clears the device faults. -/
  | pmbAlert (r : List PmbStatus)
  /-- SENSOR_READ (R473): Reads the temperature sensors and raises THERMAL at TWARN. -/
  | sensorRead (mk : List Nat)
  /-- THROTTLE_STEP (R475): Lowers or raises a cluster clock by 100 MHz. -/
  | throttleStep (cluster : BitVec 3)
  /-- THERMAL_TRIP (R476): A sensor at 120 °C for 1 ms acts as a rail fault. -/
  | thermalTrip (sensor : BitVec 4) (staged : Nat)
  /-- CORE_RETIREMENT (R484): Moves a core's contexts and state to the cluster's spare. -/
  | coreRetirement (core : BitVec 6) (badCtx : List Nat) (badSectors : List Nat)
  /-- SPARE_SELF_TEST (R483): Powers each spare every 24 h and runs its self-test. -/
  | spareSelfTest (cluster : BitVec 3) (ok : Bool)
  /-- RETIRE (R483): A write of RETIRE retires a logical core. -/
  | retire (w : DictWrite)
  /-- HBM_SCRUB (R487): Reads and corrects one granule in the periodic scrub. -/
  | hbmScrub (r : ScrubResult) (newer : Bool)
  /-- VENT_WATCHDOG (R489): A vent watchdog of 100 ms expires. -/
  | ventWatchdog (vc : BitVec 2)
  /-- VENT_RESTART (R489): Restarts a vent core's firmware from vent ROM. -/
  | ventRestart (vc : BitVec 2)
  /-- VPATCH (R490): Checks and stores a vent patch image. -/
  | vpatch (w : DictWrite) (chk : SigCheck)
  /-- VPACT (R490): Restarts VC3, VC2 and VC1 to take up the vent patch. -/
  | vpact (w : DictWrite)
  /-- MCPATCH (R492): The last segment of a microcode patch is checked and staged. -/
  | mcpatch (w : DictWrite) (chk : SigCheck)
  /-- MCACT (R493): Orders activation of the staged patch. -/
  | mcact (w : DictWrite)
  /-- PATCH_SWITCH (R493): A core exchanges its patch banks at a quiescent boundary. -/
  | patchSwitch (core : BitVec 6)
  /-- IMG_LOAD (R494): IMGCMD 1 loads and checks a new machine image into the idle slot. -/
  | imgLoad (w : DictWrite) (chk : SigCheck)
  /-- IMG_HAND_OVER (R495): IMGCMD 2 sends a handover request to the running image. -/
  | imgHandOver (w : DictWrite)
  /-- IMG_CANCEL (R494): IMGCMD 3 empties the idle slot. -/
  | imgCancel (w : DictWrite)
  /-- HANDOVER_ANSWER (R495): The image's answer starts the new image in trial. -/
  | handoverAnswer
  /-- IMGCONF (R495): The new image confirms itself and becomes the boot slot. -/
  | imgconf (w : DictWrite)
  /-- IMGTMO_EXPIRY (R495): IMGTMO expires, abandoning the handover or reverting it. -/
  | imgtmoExpiry
  /-- ERROR_LOG_COMMIT (R499): VC3 commits staged error records to the log ring. -/
  | errorLogCommit
  /-- POWER_ON_RESET (R510): VDD_AON rising into its conditions starts bring-up. -/
  | powerOnReset (env : BootEnv)
  /-- WARMRST (R504): A warm reset of the main side. -/
  | warmrst (w : DictWrite) (env : BootEnv)
  /-- CLURST (R505): A per-cluster reset. -/
  | clurst (w : DictWrite) (bad : List Nat)
  /-- CTXRST (R506): A per-context reset. -/
  | ctxrst (i : Issue) (v : Cell)
  /-- SERVICE_NOP (R519): Service request 0x0001, answered by notice 0x0001. -/
  | serviceNop
  /-- UNLOCK (R523): Checks a debug unlock token. -/
  | unlock (w : DictWrite) (chk : SigCheck)
  /-- LOCK (R524): Clears DBGSCOPE. -/
  | lock (w : DictWrite)
  /-- IDCODE (R533): JTAG IDCODE instruction. -/
  | idcode
  /-- SAMPLE_PRELOAD (R532): JTAG SAMPLE/PRELOAD instruction. -/
  | samplePreload (captured : Nat) (preload : List (Ball × Bool))
  /-- EXTEST (R534): JTAG EXTEST instruction. -/
  | extest
  /-- EXTEST_PULSE (R532): JTAG EXTEST_PULSE instruction. -/
  | extestPulse
  /-- EXTEST_TRAIN (R532): JTAG EXTEST_TRAIN instruction. -/
  | extestTrain
  /-- HIGHZ (R532): JTAG HIGHZ instruction. -/
  | highz
  /-- CLAMP (R532): JTAG CLAMP instruction. -/
  | clamp
  /-- BYPASS (R532): JTAG BYPASS instruction. -/
  | bypass
  /-- DEVICE_REGISTER_WRITE (R219): A write to a device register that has no row of its own. -/
  | deviceRegisterWrite (w : RegWrite)
  /-- UNDEFINED_OPCODE (R139): An instruction word whose opcode, or prefix pairing, is undefined is decoded and raises UNDEF_OP. -/
  | undefinedOpcode (i : Issue) (word : Word32)
  /-- INSTRUCTION_FETCH_FAULT (R102): The fetch of the cell at PC raises TLB_MISS_I, PAGE_PROT or a cell check of R92 before any
  opcode is decoded. -/
  | instructionFetchFault (i : Issue)
  /-- ENGINE_TRACE (R231): During MARK a sinter engine scans a root record or a set card, or traces one queued object, marking
  and healing as it goes. -/
  | engineTrace (se : BitVec 1) (step : TraceStep)
  /-- ENGINE_HEAL (R234): During REMAP a sinter engine heals one pointer slot of the remap scope. -/
  | engineHeal (se : BitVec 1) (step : HealStep)
  /-- POWER_ON_RESET_ASSERTION (R543): VDD_AON below 2.90 V for 10 µs asserts power-on reset and stops the device. -/
  | powerOnResetAssertion
  /-- RAIL_GOOD (R469): A PGD input becomes good during a sequence up and the sequence moves to its delay and next step. -/
  | railGood (pgd : BitVec 4)
  /-- HBM_SELF_REFRESH_ENTRY (R459): In PS3 an HBM controller returns its stack to self-refresh after 20 µs without an access. -/
  | hbmSelfRefreshEntry (hc : BitVec 1)
  /-- PCIE_LINK_STATE_CHANGE (R458): The PCIe link trains, goes down or enters L1, L2 or L3, which changes the PS4 condition and
  the wake behaviour. -/
  | pcieLinkStateChange (st : PcieLink)
  /-- PCIE_CONFIGURATION_WRITE (R396): The host writes a function's configuration space, for example clearing Bus Master Enable
  so that DMA to the function is not sent. -/
  | pcieConfigurationWrite (f : BitVec 2) (r : ConfigReg) (v : Word64)
  /-- PTP_GENERAL_MESSAGE (R360): A PTP general message (Announce, Follow_Up or Delay_Resp) is received for master selection,
  two-step Sync and the delay measurement. -/
  | ptpGeneralMessage (port : BitVec 2) (m : PtpGeneral)
  deriving DecidableEq, Repr

end Sys2Proof
end

