-- ==== Sys2Proof/Decode.lean ====
section
/-! DEFINITION. The command that a word of the opcode table spells. No row of this block's table gives bits: its commands
are writes, events and messages, so no word spells one. -/

namespace Sys2Proof

/-- No row of spec/opcode_table.json gives an encoding, so no word names a command. -/
def decodeTableWord (_nbits _w : Nat) : Option Instr := none

end Sys2Proof
end

