-- ==== Sys2Proof/Machine/SparseMap.lean ====
section
/-! DEFINITION. Sparse tables in ONE canonical form: a list of (key, value) pairs with strictly rising keys and no entry
equal to what an unlisted key reads as. Memory is such a list of bytes (Host.Cell); so are the other large tables. -/

namespace Sys2Proof

/-- A sparse table from numbers to values. -/
abbrev SMap (α : Type) := List (Nat × α)

/-- The value at `k`; an unlisted key reads as `d`. -/
def SMap.get {α : Type} (d : α) : SMap α → Nat → α
  | [], _ => d
  | (j, v) :: m, k => if j = k then v else SMap.get d m k

/-- Remove every entry at `k`. -/
def SMap.erase {α : Type} : SMap α → Nat → SMap α
  | [], _ => []
  | (j, v) :: m, k => if j = k then SMap.erase m k else (j, v) :: SMap.erase m k

/-- Insert `v` at `k` in key order, replacing an entry of the same key. -/
def SMap.insert {α : Type} : SMap α → Nat → α → SMap α
  | [], k, v => [(k, v)]
  | (j, w) :: m, k, v =>
    if k < j then (k, v) :: (j, w) :: m
    else if k = j then (k, v) :: m
    else (j, w) :: SMap.insert m k v

/-- Write `v` at `k`. Writing what an unlisted key reads as removes the entry. -/
def SMap.set {α : Type} [DecidableEq α] (d : α) (m : SMap α) (k : Nat) (v : α) : SMap α :=
  if v = d then SMap.erase m k else SMap.insert m k v

/-- The canonical form: strictly rising keys above `lo` (exclusive, where given), no entry equal to `d`. -/
def SMap.wfFrom {α : Type} [DecidableEq α] (d : α) : Option Nat → SMap α → Bool
  | _, [] => true
  | lo, (j, v) :: m =>
    (match lo with | none => true | some l => decide (l < j)) && decide (v ≠ d) && SMap.wfFrom d (some j) m

/-- The canonical form of a sparse table. -/
def SMap.wf {α : Type} [DecidableEq α] (d : α) (m : SMap α) : Bool := SMap.wfFrom d none m

/-- Change the value at `k` by `f`. -/
def SMap.modify {α : Type} [DecidableEq α] (d : α) (m : SMap α) (k : Nat) (f : α → α) : SMap α :=
  SMap.set d m k (f (SMap.get d m k))

end Sys2Proof
end

