-- ==== Sys2Proof/Machine/Bits.lean ====
section
/-! DEFINITION. Bit-field, sign-extension, parity and byte-order helpers (R2, R5, R21). -/

namespace Sys2Proof

/-- The field [hi:lo] of `x`, as a number (R2). -/
def field {w : Nat} (x : BitVec w) (hi lo : Nat) : Nat := (x.toNat / 2 ^ lo) % 2 ^ (hi + 1 - lo)

/-- Bit `n` of `x`. -/
def bit {w : Nat} (x : BitVec w) (n : Nat) : Bool := x.toNat.testBit n

/-- `x` with its field [hi:lo] replaced by the low bits of `v`. -/
def setField {w : Nat} (x : BitVec w) (hi lo : Nat) (v : Nat) : BitVec w :=
  let n := hi + 1 - lo
  BitVec.ofNat w (x.toNat - ((x.toNat / 2 ^ lo) % 2 ^ n) * 2 ^ lo + (v % 2 ^ n) * 2 ^ lo)

/-- `x` with bit `n` set to `b`. -/
def setBit {w : Nat} (x : BitVec w) (n : Nat) (b : Bool) : BitVec w := setField x n n (if b then 1 else 0)

/-- A Boolean as a number. -/
def b2n (b : Bool) : Nat := if b then 1 else 0

/-- Exclusive-or of all bits of a 128-bit word, by halving. -/
def parity128 (x : BitVec 128) : Bool :=
  let a := x ^^^ (x >>> 64)
  let a := a ^^^ (a >>> 32)
  let a := a ^^^ (a >>> 16)
  let a := a ^^^ (a >>> 8)
  let a := a ^^^ (a >>> 4)
  let a := a ^^^ (a >>> 2)
  let a := a ^^^ (a >>> 1)
  bit a 0

/-- The signed value of the low `n` bits of `v`. -/
def signedOf (n v : Nat) : Int := if v % 2 ^ n < 2 ^ (n - 1) then (v % 2 ^ n : Nat) else ((v % 2 ^ n : Nat) : Int) - (2 ^ n : Nat)

/-- The low `n` bits of an integer, two's complement. -/
def wrapInt (n : Nat) (i : Int) : Nat := (i % ((2 ^ n : Nat) : Int)).toNat

/-- A number clamped from above. -/
def satAt (m v : Nat) : Nat := if v > m then m else v

/-- The little-endian value of a list of bytes (R2). -/
def leValue : List Byte → Nat
  | [] => 0
  | b :: bs => b.toNat + 256 * leValue bs

/-- The `n` little-endian bytes of `v` (R2). -/
def leBytes : Nat → Nat → List Byte
  | 0, _ => []
  | n + 1, v => BitVec.ofNat 8 v :: leBytes n (v / 256)

/-- Ceiling division. -/
def cdiv (a b : Nat) : Nat := (a + b - 1) / b

/-- The number of bits set in the low `n` bits of `v`. -/
def popcount : Nat → Nat → Nat
  | 0, _ => 0
  | n + 1, v => v % 2 + popcount n (v / 2)

/-- The element at `i`, or `d` beyond the end. -/
def nthD {α : Type} (d : α) : List α → Nat → α
  | [], _ => d
  | a :: _, 0 => a
  | _ :: l, i + 1 => nthD d l i

/-- `l` with element `i` replaced; unchanged where there is none. -/
def setNth {α : Type} : List α → Nat → α → List α
  | [], _, _ => []
  | _ :: l, 0, v => v :: l
  | a :: l, i + 1, v => a :: setNth l i v

/-- The first number below `n`, counting up from `i`, for which `p` holds. -/
def findFrom (p : Nat → Bool) : (n i : Nat) → Option Nat
  | 0, _ => none
  | n + 1, i => if p i then some i else findFrom p n (i + 1)

/-- Repeat `f` on `s` for the indices `i`, `i + 1`, ... (`n` of them). -/
def foldUp {σ : Type} (f : Nat → σ → σ) : (n i : Nat) → σ → σ
  | 0, _, s => s
  | n + 1, i, s => foldUp f n (i + 1) (f i s)

end Sys2Proof
end

