-- ==== Sys2Proof/Machine/Cells.lean ====
section
/-! DEFINITION. The 128-bit cell: tags, parity, the fields of each tag and the reserved values
(02_cells_and_tags R17 to R29, 07 R140 to R144). -/

namespace Sys2Proof

/-- Tag codes of R18. -/
def tagEMPTY : Nat := 0x00
def tagFIX : Nat := 0x01
def tagFLO : Nat := 0x02
def tagQTY : Nat := 0x03
def tagCHR : Nat := 0x04
def tagCONST : Nat := 0x05
def tagTIME : Nat := 0x06
def tagCONS : Nat := 0x10
def tagVEC : Nat := 0x11
def tagSTR : Nat := 0x12
def tagBIG : Nat := 0x13
def tagRATIO : Nat := 0x14
def tagCLO : Nat := 0x15
def tagREC : Nat := 0x16
def tagSTRM : Nat := 0x17
def tagEVCH : Nat := 0x18
def tagCAP : Nat := 0x20
def tagSEAL : Nat := 0x21
def tagFWD : Nat := 0x30
def tagHDR : Nat := 0x31
def tagRAW : Nat := 0x3F

namespace Cell

/-- `TAG`, bits [127:120] (R17). -/
def tag (c : Cell) : Nat := field c 127 120
/-- `EPOCH`, bits [119:118]. -/
def epoch (c : Cell) : Nat := field c 119 118
/-- `SPEC`, bits [115:64]. -/
def spec (c : Cell) : Nat := field c 115 64
/-- `PAYLOAD`, bits [63:0]. -/
def payload (c : Cell) : Word64 := c.setWidth 64
/-- `PAYLOAD` as an unsigned number. -/
def pay (c : Cell) : Nat := field c 63 0
/-- The head, bits [127:64]. -/
def head (c : Cell) : Word64 := BitVec.ofNat 64 (field c 127 64)

end Cell

/-- The cell with both parity bits computed under R21. -/
def normalize (c : Cell) : Cell :=
  let z := setField c 117 116 0
  let pl := parity128 (z.setWidth 64 |>.setWidth 128)
  let ph := parity128 (z >>> 64)
  setField z 117 116 (2 * b2n ph + b2n pl)

/-- A cell from its fields, with parity (R17, R21). -/
def mkCell (tag epoch spec pay : Nat) : Cell :=
  normalize (BitVec.ofNat 128 ((tag % 256) * 2 ^ 120 + (epoch % 4) * 2 ^ 118 + (spec % 2 ^ 52) * 2 ^ 64 + pay % 2 ^ 64))

/-- A cell from head and payload, parity recomputed (MTAG, R131). -/
def cellOfHead (head pay : Word64) : Cell := normalize (head ++ pay)

/-- A cell with `SPEC` 0 and `EPOCH` 0. -/
def plain (tag : Nat) (pay : Nat) : Cell := mkCell tag 0 0 pay

def mkRAW (v : Nat) : Cell := plain tagRAW v
/-- `mkRAW 0` as a numeral. -/
def rawZero : Cell := 0x3F000000000000000000000000000000#128
def mkFLO (v : Word64) : Cell := plain tagFLO v.toNat
def mkTIME (v : Nat) : Cell := plain tagTIME v
def mkEVCH (ch : Nat) : Cell := plain tagEVCH (ch % 65536)
/-- A FIX of a 64-bit pattern. -/
def fixOfNat (v : Nat) : Cell := plain tagFIX v
/-- A FIX of an integer within −2^63 to 2^63 − 1. -/
def mkFIX (i : Int) : Cell := plain tagFIX (wrapInt 64 i)
def constNil : Cell := plain tagCONST 0
def constTrue : Cell := plain tagCONST 1
def constFalse : Cell := plain tagCONST 2
def constBool (b : Bool) : Cell := if b then constTrue else constFalse
/-- An EMPTY cell of 128 zero bits (R21). -/
def emptyCell : Cell := 0

namespace Cell

/-- The signed value of a FIX payload. -/
def int (c : Cell) : Int := c.payload.toInt

/-- The code is in the table of R18. -/
def tagDefined (t : Nat) : Bool :=
  t ≤ 0x06 || (0x10 ≤ t && t ≤ 0x18) || t == 0x20 || t == 0x21 || t == 0x30 || t == 0x31 || t == 0x3F

/-- Pointer tags, the last column of R18. -/
def isPointer (c : Cell) : Bool :=
  (0x10 ≤ c.tag && c.tag ≤ 0x16) || c.tag == tagCAP || c.tag == tagSEAL || c.tag == tagFWD

/-- Reference class of R18, CONS to REC. -/
def isRef (c : Cell) : Bool := 0x10 ≤ c.tag && c.tag ≤ 0x16

/-- Value tags of R18. -/
def isValue (c : Cell) : Bool := c.tag ≤ 0x06 || c.tag == tagRAW

/-- Handle tags of R18. -/
def isHandle (c : Cell) : Bool := c.tag == tagSTRM || c.tag == tagEVCH

def isCapOrSeal (c : Cell) : Bool := c.tag == tagCAP || c.tag == tagSEAL

/-- `PAYLOAD` with its EPOCH replaced (R226 healing). -/
def withEpoch (c : Cell) (e : Nat) : Cell := normalize (setField c 119 118 e)

/-- `PAYLOAD` replaced, the rest unchanged. -/
def withPay (c : Cell) (p : Nat) : Cell := normalize (setField c 63 0 p)

-- HDR fields, R27
def hdrKind (c : Cell) : Nat := field c 115 108
def hdrMepoch (c : Cell) : Nat := field c 107 106
def hdrSize (c : Cell) : Nat := field c 103 64

-- QTY fields, R22
def qDim (c : Cell) : Nat := field c 115 88
def qUnc (c : Cell) : Nat := field c 87 72
def qAbs (c : Cell) : Nat := field c 71 71
def qHint (c : Cell) : Nat := field c 70 64

-- CAP and SEAL fields, R29, R140, R141
def rights (c : Cell) : Nat := field c 115 104
def otype (c : Cell) : Nat := field c 103 88
def len (c : Cell) : Nat := field c 87 64
def le (c : Cell) : Nat := field c 87 82
def lb (c : Cell) : Nat := field c 81 73
def lt (c : Cell) : Nat := field c 72 64

end Cell

/-- A QTY cell (R22). -/
def mkQTY (dim unc abs hint : Nat) (pay : Word64) : Cell :=
  mkCell tagQTY 0 ((dim % 2 ^ 28) * 2 ^ 24 + (unc % 65536) * 256 + (abs % 2) * 128 + hint % 128) pay.toNat

/-- An HDR cell (R27). -/
def mkHDR (kind size pay : Nat) : Cell := mkCell tagHDR 0 ((kind % 256) * 2 ^ 44 + size % 2 ^ 40) pay

/-- A CAP or SEAL cell (R29, R141). -/
def mkCap (tag epoch rights otype le lb lt base : Nat) : Cell :=
  mkCell tag epoch ((rights % 4096) * 2 ^ 40 + (otype % 65536) * 2 ^ 24 + (le % 64) * 2 ^ 18 + (lb % 512) * 2 ^ 9 + lt % 512) base

-- Rights bits of R140 as CRIGHTS numbers them
def rLOAD : Nat := 0
def rSTORE : Nat := 1
def rLDCAP : Nat := 2
def rSTCAP : Nat := 3
def rEXEC : Nat := 4
def rSEAL : Nat := 5
def rUNSEAL : Nat := 6
def rINVOKE : Nat := 7
def rDICTW : Nat := 8
def rEVSEND : Nat := 9
def rSTRMCTL : Nat := 10
def rGLOBAL : Nat := 11

/-- The capability holds right number `r` (R140). -/
def Cell.has (c : Cell) (r : Nat) : Bool := c.rights.testBit r

/-- The slot-address form of R93: bits [63:56], [3] and [1:0] are 0. -/
def slotForm (p : Nat) : Bool := p < 2 ^ 56 && !p.testBit 3 && p % 4 == 0

/-- The KIND and PAYLOAD limits of an HDR cell (R27). -/
def hdrOk (c : Cell) : Bool :=
  let p := c.pay
  let n := c.hdrSize
  c.epoch == 0 && field c 105 104 == 0 && n != 0 &&
  (if c.hdrKind == 0x00 then p == 0
   else if c.hdrKind == 0x11 then p ≤ n - 1
   else if c.hdrKind == 0x12 then p ≤ 8 * (n - 1)
   else if c.hdrKind == 0x13 then field c 62 32 == 0 && field c 31 0 ≤ n - 1
   else if c.hdrKind == 0x14 then p == 0
   else if c.hdrKind == 0x15 then slotForm p
   else c.hdrKind == 0x16)

/-- The CAP and SEAL field values that R144 allows. -/
def capOk (c : Cell) : Bool :=
  let p := c.pay
  c.le ≤ 44 && (c.lt + 512 - c.lb) % 512 < 448 &&
  p < 2 ^ 56 && !p.testBit 3 && p % 4 == 0 &&
  (!p.testBit 2 || (c.tag == tagCAP && c.has rEXEC && c.rights % 2048 == 2 ^ rEXEC)) &&
  (if c.tag == tagCAP then c.otype == 0 else c.otype != 0)

/-- A reserved tag code, or a reserved field value under R20, R23, R24, R26, R27, R28 or R144: what R31 refuses. -/
def Cell.reserved (c : Cell) : Bool :=
  let t := c.tag
  let p := c.pay
  if !Cell.tagDefined t then true
  else if t == tagQTY then c.epoch != 0
  else if t == tagCHR then c.epoch != 0 || c.spec != 0 || !(p < 0xD800 || (0xE000 ≤ p && p ≤ 0x10FFFF))
  else if t == tagCONST then c.epoch != 0 || c.spec != 0 || 4 < p
  else if c.isValue then c.epoch != 0 || c.spec != 0
  else if t == tagCONS then c.spec != 0 || !(p < 2 ^ 56 && p % 32 == 0)
  else if c.isRef then c.spec != 0 || !(p < 2 ^ 56 && p % 16 == 0)
  else if t == tagSTRM then c.epoch != 0 || c.spec != 0 || field c 31 11 != 0
  else if t == tagEVCH then c.epoch != 0 || c.spec != 0 || field c 63 16 != 0
  else if t == tagFWD then c.spec != 0 || !(p < 2 ^ 56 && p % 16 == 0)
  else if t == tagHDR then !hdrOk c
  else !capOk c

/-- The granule of a capability's bounds, R141. -/
def Cell.granule (c : Cell) : Nat := 2 ^ (c.le + 4)

/-- The window shift of R142 for a bound `x` in granules. -/
def capShift (m r x : Nat) : Int := if m < r && r ≤ x then -1 else if r ≤ m && x < r then 1 else 0

/-- The lower bound L of R142. -/
def Cell.capL (c : Cell) : Int :=
  let g := c.granule
  let w := 512 * g
  let r := (c.lb + 512 - 64) % 512
  let m := (c.pay / g) % 512
  (((c.pay / w : Nat) : Int) + capShift m r c.lb) * (w : Int) + ((c.lb * g : Nat) : Int)

/-- The exclusive upper bound U of R142. -/
def Cell.capU (c : Cell) : Int :=
  let g := c.granule
  let w := 512 * g
  let r := (c.lb + 512 - 64) % 512
  let m := (c.pay / g) % 512
  (((c.pay / w : Nat) : Int) + capShift m r c.lt) * (w : Int) + ((c.lt * g : Nat) : Int)

/-- The decoded length of R142. -/
def Cell.capLen (c : Cell) : Nat := ((c.lt + 512 - c.lb) % 512) * c.granule

/-- The bytes a to a + n − 1 lie within L to U − 1. -/
def Cell.covers (c : Cell) (a : Int) (n : Nat) : Bool := decide (c.capL ≤ a) && decide (a + (n : Int) ≤ c.capU)

/-- The name n of R154 is covered: the 16 bytes from 16n lie within the bounds. -/
def Cell.coversName (c : Cell) (n : Nat) : Bool := c.covers ((16 * n : Nat) : Int) 16

/-- EQ-equality of two cells, R111. -/
def eqCell (a b : Cell) : Bool := a.tag == b.tag && a.spec == b.spec && a.pay == b.pay

/-- The cell with every byte in memory order (R3), little-endian. -/
def cellBytes (c : Cell) : List Byte := leBytes 16 c.toNat

/-- The address a pointer cell names: `PAYLOAD`, or `BASE` (R226). -/
def Cell.target (c : Cell) : Nat := c.pay

end Sys2Proof
end

