-- ==== Sys2Proof/Machine/Float.lean ====
section
/-! DEFINITION. IEEE 754 binary64 and binary32 arithmetic as R45, R60 to R62 and R315 state it, computed exactly and
rounded once. Operands are converted to exact rationals; a rounding is one comparison of the exact value. -/

namespace Sys2Proof

/-- A binary interchange format: precision and exponent width. -/
structure Fmt where
  p : Nat
  eb : Nat
  deriving DecidableEq, Repr

def f64 : Fmt := ⟨53, 11⟩
def f32 : Fmt := ⟨24, 8⟩

namespace Fmt
/-- Bits of the encoding. -/
def width (f : Fmt) : Nat := f.p + f.eb
def bias (f : Fmt) : Nat := 2 ^ (f.eb - 1) - 1
/-- Exponent of the last place of the smallest normal and of every subnormal number. -/
def emin (f : Fmt) : Int := 2 - (2 ^ (f.eb - 1) : Nat) - ((f.p - 1 : Nat) : Int)
/-- The exponent field of infinities and NaNs. -/
def emaxField (f : Fmt) : Nat := 2 ^ f.eb - 1
def signBit (f : Fmt) : Nat := 2 ^ (f.width - 1)
def infBits (f : Fmt) (neg : Bool) : Nat := b2n neg * f.signBit + f.emaxField * 2 ^ (f.p - 1)
/-- The default NaN (R62): 0x7FF8_0000_0000_0000 in binary64, 0x7FC0_0000 in binary32. -/
def defaultNaN (f : Fmt) : Nat := f.emaxField * 2 ^ (f.p - 1) + 2 ^ (f.p - 2)
/-- The quiet bit of a NaN set. -/
def quiet (f : Fmt) (x : Nat) : Nat := if x.testBit (f.p - 2) then x else x + 2 ^ (f.p - 2)
def zeroBits (f : Fmt) (neg : Bool) : Nat := b2n neg * f.signBit
def maxBits (f : Fmt) (neg : Bool) : Nat := b2n neg * f.signBit + f.emaxField * 2 ^ (f.p - 1) - 1
end Fmt

/-- The value of an encoding: a finite value is m · 2^e. -/
inductive Fp where
  | nan (bits : Nat)
  | inf (neg : Bool)
  | fin (neg : Bool) (m : Nat) (e : Int)
  deriving DecidableEq, Repr

/-- Decode an encoding of format `f`. -/
def fpOf (f : Fmt) (x : Nat) : Fp :=
  let neg := x.testBit (f.width - 1)
  let ex := (x / 2 ^ (f.p - 1)) % 2 ^ f.eb
  let fr := x % 2 ^ (f.p - 1)
  if ex == f.emaxField then (if fr == 0 then .inf neg else .nan x)
  else if ex == 0 then .fin neg fr f.emin
  else .fin neg (fr + 2 ^ (f.p - 1)) (f.emin + (ex : Int) - 1)

/-- The five exception flags of R61. -/
structure FpFlags where
  nv : Bool := false
  dz : Bool := false
  ovf : Bool := false
  uf : Bool := false
  nx : Bool := false
  deriving DecidableEq, Repr

def FpFlags.or (a b : FpFlags) : FpFlags :=
  { nv := a.nv || b.nv, dz := a.dz || b.dz, ovf := a.ovf || b.ovf, uf := a.uf || b.uf, nx := a.nx || b.nx }

/-- Whether a magnitude with quotient `q`, remainder `r` over `d` rounds up in mode `rm` (R60). -/
def roundsUp (rm : Nat) (neg : Bool) (q r d : Nat) : Bool :=
  if r == 0 then false
  else match rm with
    | 0 => d < 2 * r || (2 * r == d && q % 2 == 1)
    | 1 => false
    | 2 => !neg
    | _ => neg

/-- num / den scaled by 2^(-e): quotient and remainder, with its denominator. -/
def scaledDiv (num den : Nat) (e : Int) : Nat × Nat × Nat :=
  let n := if e < 0 then num * 2 ^ (-e).toNat else num
  let d := if e < 0 then den else den * 2 ^ e.toNat
  (n / d, n % d, d)

/-- The exponent at which num/den has exactly `p` bits. -/
def ratExponent (p num den : Nat) : Int :=
  let e : Int := (Nat.log2 num : Int) - (Nat.log2 den : Int) - ((p - 1 : Nat) : Int)
  if (scaledDiv num den e).1 < 2 ^ (p - 1) then e - 1 else e

/-- Round the positive rational num/den with the given sign to format `f` (R60); tininess is detected after
rounding. -/
def roundRat (f : Fmt) (rm : Nat) (neg : Bool) (num den : Nat) : Nat × FpFlags :=
  if num == 0 then (f.zeroBits neg, {})
  else
    let eu := ratExponent f.p num den
    let e := if eu < f.emin then f.emin else eu
    let (q, r, d) := scaledDiv num den e
    let m := if roundsUp rm neg q r d then q + 1 else q
    let inexact := r != 0
    let (qu, ru, du) := scaledDiv num den eu
    let mu := if roundsUp rm neg qu ru du then qu + 1 else qu
    let tiny := eu < f.emin && !(eu + 1 == f.emin && mu == 2 ^ f.p)
    -- a carry out of the significand is absorbed by the exponent field
    let mag := if m < 2 ^ (f.p - 1) then m else m - 2 ^ (f.p - 1) + (e - f.emin + 1).toNat * 2 ^ (f.p - 1)
    if f.emaxField * 2 ^ (f.p - 1) ≤ mag then
      let toInf := rm == 0 || (rm == 2 && !neg) || (rm == 3 && neg)
      (if toInf then f.infBits neg else f.maxBits neg, { ovf := true, nx := true })
    else (b2n neg * f.signBit + mag, { uf := tiny && inexact, nx := inexact })

/-- Round the exact value (−1)^neg · m · 2^e. -/
def roundDyadic (f : Fmt) (rm : Nat) (neg : Bool) (m : Nat) (e : Int) : Nat × FpFlags :=
  if e < 0 then roundRat f rm neg m (2 ^ (-e).toNat) else roundRat f rm neg (m * 2 ^ e.toNat) 1

/-- The NaN result of R62 for operands `a`, `b`, if either is a NaN. -/
def nanOf2 (f : Fmt) (a b : Nat) : Option Nat :=
  match fpOf f a, fpOf f b with
  | .nan x, _ => some (f.quiet x)
  | _, .nan y => some (f.quiet y)
  | _, _ => none

def signedMag (neg : Bool) (m : Nat) : Int := if neg then -(m : Int) else (m : Int)

/-- Sum of two encodings (R60 to R62). -/
def fpAdd (f : Fmt) (rm : Nat) (a b : Nat) : Nat × FpFlags :=
  match nanOf2 f a b with
  | some n => (n, {})
  | none =>
    match fpOf f a, fpOf f b with
    | .inf na, .inf nb => if na == nb then (a, {}) else (f.defaultNaN, { nv := true })
    | .inf _, _ => (a, {})
    | _, .inf _ => (b, {})
    | .fin na ma ea, .fin nb mb eb =>
      let e := if ea < eb then ea else eb
      let s : Int := signedMag na (ma * 2 ^ (ea - e).toNat) + signedMag nb (mb * 2 ^ (eb - e).toNat)
      if s == 0 then
        (if na == nb then f.zeroBits na else f.zeroBits (rm == 3), {})
      else roundDyadic f rm (decide (s < 0)) s.natAbs e
    | _, _ => (f.defaultNaN, {})

/-- The operand with its sign inverted; a NaN too (R54). -/
def fpNeg (f : Fmt) (a : Nat) : Nat := if a.testBit (f.width - 1) then a - f.signBit else a + f.signBit

/-- Difference. A NaN second operand keeps its own sign (R62). -/
def fpSub (f : Fmt) (rm : Nat) (a b : Nat) : Nat × FpFlags :=
  match nanOf2 f a b with
  | some n => (n, {})
  | none => fpAdd f rm a (fpNeg f b)

/-- Product. -/
def fpMul (f : Fmt) (rm : Nat) (a b : Nat) : Nat × FpFlags :=
  match nanOf2 f a b with
  | some n => (n, {})
  | none =>
    match fpOf f a, fpOf f b with
    | .inf na, .inf nb => (f.infBits (na != nb), {})
    | .inf na, .fin nb m _ => if m == 0 then (f.defaultNaN, { nv := true }) else (f.infBits (na != nb), {})
    | .fin na m _, .inf nb => if m == 0 then (f.defaultNaN, { nv := true }) else (f.infBits (na != nb), {})
    | .fin na ma ea, .fin nb mb eb => roundDyadic f rm (na != nb) (ma * mb) (ea + eb)
    | _, _ => (f.defaultNaN, {})

/-- Quotient of two finite magnitudes as a rational. -/
def ratOfQuot (ma mb : Nat) (ea eb : Int) : Nat × Nat :=
  if ea < eb then (ma, mb * 2 ^ (eb - ea).toNat) else (ma * 2 ^ (ea - eb).toNat, mb)

/-- Quotient, with the flags of R61. -/
def fpDiv (f : Fmt) (rm : Nat) (a b : Nat) : Nat × FpFlags :=
  match nanOf2 f a b with
  | some n => (n, {})
  | none =>
    match fpOf f a, fpOf f b with
    | .inf _, .inf _ => (f.defaultNaN, { nv := true })
    | .inf na, .fin nb _ _ => (f.infBits (na != nb), {})
    | .fin na _ _, .inf nb => (f.zeroBits (na != nb), {})
    | .fin na ma ea, .fin nb mb eb =>
      if mb == 0 then
        (if ma == 0 then (f.defaultNaN, { nv := true }) else (f.infBits (na != nb), { dz := true }))
      else
        let q := ratOfQuot ma mb ea eb
        roundRat f rm (na != nb) q.1 q.2
    | _, _ => (f.defaultNaN, {})

/-- a · b + c with one rounding. -/
def fpFma (f : Fmt) (rm : Nat) (a b c : Nat) : Nat × FpFlags :=
  match nanOf2 f a b with
  | some n => (n, {})
  | none =>
    match fpOf f a, fpOf f b with
    | .fin na ma ea, .fin nb mb eb =>
      match fpOf f c with
      | .nan x => (f.quiet x, {})
      | .inf _ => (c, {})
      | .fin nc mc ec =>
        let ep := ea + eb
        let e := if ep < ec then ep else ec
        let np := na != nb
        let s : Int := signedMag np (ma * mb * 2 ^ (ep - e).toNat) + signedMag nc (mc * 2 ^ (ec - e).toNat)
        if s == 0 then (if np == nc then f.zeroBits np else f.zeroBits (rm == 3), {})
        else roundDyadic f rm (decide (s < 0)) s.natAbs e
    | _, _ =>
      let p := fpMul f rm a b
      let q := fpAdd f rm p.1 c
      (q.1, p.2.or q.2)

/-- Integer square root by bits, from bit `n` − 1 down. -/
def isqrtFrom (x : Nat) : Nat → Nat → Nat
  | 0, r => r
  | n + 1, r => isqrtFrom x n (if (r + 2 ^ n) * (r + 2 ^ n) ≤ x then r + 2 ^ n else r)

/-- The integer square root of `x`. -/
def isqrt (x : Nat) : Nat := isqrtFrom x (Nat.log2 x / 2 + 1) 0

/-- Square root of a positive rational's exact value m · 2^e, correctly rounded: the integer root carries at least
p + 2 bits, and an inexact one is represented by the half step above it. -/
def fpSqrt (f : Fmt) (rm : Nat) (a : Nat) : Nat × FpFlags :=
  match fpOf f a with
  | .nan x => (f.quiet x, {})
  | .inf neg => if neg then (f.defaultNaN, { nv := true }) else (a, {})
  | .fin neg m e =>
    if m == 0 then (a, {})
    else if neg then (f.defaultNaN, { nv := true })
    else
      let e2 := if e % 2 == 0 then e else e - 1
      let m2 := if e % 2 == 0 then m else 2 * m
      let k := f.p + 2
      let x := m2 * 2 ^ (2 * k)
      let r := isqrt x
      let half := e2 / 2 - (k : Int)
      if r * r == x then roundDyadic f rm false r half
      else roundDyadic f rm false (2 * r + 1) (half - 1)

/-- Convert an encoding between formats, rounding under `rm`; a NaN keeps its sign and the high payload bits. -/
def fpConvert (src dst : Fmt) (rm : Nat) (x : Nat) : Nat × FpFlags :=
  match fpOf src x with
  | .nan b =>
    let neg := b.testBit (src.width - 1)
    let fr := b % 2 ^ (src.p - 1)
    let fr' := if src.p ≤ dst.p then fr * 2 ^ (dst.p - src.p) else fr / 2 ^ (src.p - dst.p)
    (dst.quiet (dst.infBits neg + fr' % 2 ^ (dst.p - 1)), {})
  | .inf neg => (dst.infBits neg, {})
  | .fin neg m e => if m == 0 then (dst.zeroBits neg, {}) else roundDyadic dst rm neg m e

/-- A relation of R55. -/
inductive Rel where
  | less | equal | greater | unordered
  deriving DecidableEq, Repr

def relInt (a b : Int) : Rel := if a < b then .less else if a = b then .equal else .greater

/-- Compare two encodings: −0 equals +0, a NaN makes the relation unordered (R55). -/
def fpCompare (f : Fmt) (a b : Nat) : Rel :=
  match fpOf f a, fpOf f b with
  | .nan _, _ => .unordered
  | _, .nan _ => .unordered
  | .inf na, .inf nb => if na == nb then .equal else if na then .less else .greater
  | .inf na, .fin _ _ _ => if na then .less else .greater
  | .fin _ _ _, .inf nb => if nb then .greater else .less
  | .fin na ma ea, .fin nb mb eb =>
    let e := if ea < eb then ea else eb
    relInt (signedMag na (ma * 2 ^ (ea - e).toNat)) (signedMag nb (mb * 2 ^ (eb - e).toNat))

/-- An exact rational n/d (d > 0) converted to binary64, nearest, ties to even (R45). -/
def ratToF64 (rm : Nat) (n : Int) (d : Nat) : Nat × FpFlags := roundRat f64 rm (decide (n < 0)) n.natAbs d

def fpIsZero (f : Fmt) (x : Nat) : Bool := match fpOf f x with | .fin _ m _ => m == 0 | _ => false
def fpIsNaN (f : Fmt) (x : Nat) : Bool := match fpOf f x with | .nan _ => true | _ => false
def fpIsFinite (f : Fmt) (x : Nat) : Bool := match fpOf f x with | .fin _ _ _ => true | _ => false
def fpAbs (f : Fmt) (x : Nat) : Nat := x % f.signBit

/-- The exact value of a finite encoding as a rational. -/
def fpRat (f : Fmt) (x : Nat) : Option (Int × Nat) :=
  match fpOf f x with
  | .fin neg m e => if e < 0 then some (signedMag neg m, 2 ^ (-e).toNat) else some (signedMag neg (m * 2 ^ e.toNat), 1)
  | _ => none

end Sys2Proof
end

