-- ==== Sys2Proof/Config.lean ====
section
/-! DEFINITION. What one implementation fixes and what the spec leaves open. Every constant here is opaque: it has no
body, so no proof can rest on a value of it. Each is named in an assumption-log entry. -/

namespace Sys2Proof.Config

/-- A fresh open value, drawn by the model's counter `freeCount` (log entry 2). -/
opaque freeValue : Nat → Word64

/-- The number of objects the mark queues hold (R228: the side area's layout is not architectural; log entry 7). -/
opaque markQueueDepth : Nat

/-- The check field `CHK` of `PRG` (R182): microcode computes it over `OPC`, `RTN`, `STEP`, `WORK` and the number
of the context; the function is not stated (log entry 10). -/
opaque prgChk : (opc rtn : BitVec 8) → (step : BitVec 32) → (work : Word64) → (ctx : Nat) → BitVec 16

/-- The microcode routine number `RTN` of `PRG` for a long instruction's opcode (R182, log entry 10). -/
opaque prgRtn : (opc : BitVec 8) → BitVec 8
/-- How `PRG.WORK` codes the routine state that it holds inline where the routine has no work object (R182, log entry 10): an
unknown mask over the number of the stop. -/
opaque prgInline : (opc : BitVec 8) → Word64

/-- `PRG` where iteration 1 of ASTEP faulted before its key was read (R137, log entry 38). -/
opaque prgNoKey : BitVec 128

/-- Where vent RAM and vent ROM begin in the addresses of the vent cores (R104, R163; log entry 102). -/
opaque ventRamBase : Nat
opaque ventRomBase : Nat
/-- The cells of vent ROM (R104; log entry 102). -/
opaque ventRom : (index : Nat) → BitVec 128
/-- `MEN` of a vent core and the PC of its first instruction, as vent ROM places them (R156; log entry 102). -/
opaque ventEntry : (core : Nat) → Word64
opaque ventStart : (core : Nat) → Word64

/-- The device serial 0x1003:00, "per device" (R431, log entry 5). -/
opaque serial : Word64
/-- VROMVER 0x1004:00, "per ROM" (R431, log entry 5). -/
opaque vromVer : Word32
/-- T1SMACDEV, "from fuses" (R431, log entry 5): port 0 to 3, byte 0 to 5. -/
opaque t1sMac : (port byteIx : Nat) → Byte
/-- MCMIN "from fuses" (R500, log entry 5). -/
opaque mcMinFuse : Nat
/-- The rail table the builder has fused, if any (R511, log entry 5): PEN p to its RAILSEQ word. -/
opaque fusedRail : Nat → Option Word32
/-- The microcode ROM identifier that a patch's `TARGET` must name (R512, R514; log entry 5). -/
opaque mcRomId : Word32
/-- The microcode ROM of a main core: 16,384 words (R491; log entry 5). -/
opaque mcRom : (address : Nat) → BitVec 128
/-- Where the configuration space of a function holds the doubleword of each register of R382 beyond the header: 0 device control, 1 device
control 2, 2 link control, 3 L1 PM substates control, 4 MSI-X control, 5 AER uncorrectable error status, 6 AER control (log entry 116). -/
opaque capOffset : (register : Nat) → Nat
/-- The HBM row of a granule (R488): the row geometry of the stacks is not stated (log entry 12). -/
opaque hbmRow : (granule : Nat) → Nat
/-- The length P or L that LOAD assumes for the table of a SINE or SHOCK block, which stands in a block not yet written
(R311, R316; log entry 14). -/
opaque tableLength : (kcode smoff : Nat) → Nat
/-- Whether an observation address is in Kraerafen's catalogue (R526, R527; log entry 5). -/
opaque obsInCatalogue : Word32 → Bool

/-- How far a geyser's result of a real function lies from the exact value rounded: free within four units in the last place, and
determined by the function and its operands (R315, R318, R321, R331, R334; log entry 6). -/
opaque lastPlace : (op : Nat) → (args : List Word64) → Nat
/-- The error of component `part` of bin `k` of a transform of an FFT stage, within the bound of R317 (log entry 6). -/
opaque transformError : (inputs : List Word32) → (window k part : Nat) → Nat
/-- The error of value `n` of a RAND frame (R333, log entry 6). -/
opaque randError : (spectrum : List Word32) → (phases : List Nat) → (n : Nat) → Nat
/-- What a transform gives where an operand is infinite and none is a NaN: NaN or an infinity, not stated (log entry 6). -/
opaque openTransform : (operands : List Word32) → (k part : Nat) → Nat
/-- The angle of (0, 0), and of a point with two infinite coordinates, in eighths of a turn (R321, log entry 6). -/
opaque openAngle : (y x : Word64) → Nat
/-- REF (part 0) between table points where a logarithm does not exist, and LO and HI (parts 1 and 2) between table points, which
are not stated (R331, log entry 6). -/
opaque sineLimit : (table : List Word64) → (f : Word64) → (part : Nat) → Word64
/-- The rainflow bin of a value where the limits span no positive finite range, and of a NaN (R319, log entry 6). -/
opaque rainflowBin : (v lo hi : Word32) → (bins : Nat) → Nat

/-- Whether the slot of CAP-handle `v` in vent firmware's handle table is still the one it was issued for, at tick `k` (R406): the spec
gives no issue and no reuse of a slot. A free value (log entry 142). -/
opaque handleLive (k v : Nat) : Bool

/-- The level that the observed signal of address `a` last had as it was resampled at time `t` (R526, R528): a free value (log
entry 5). -/
opaque obsSignal : (a t : Nat) → Bool

end Sys2Proof.Config
end

