-- ==== Sys2Proof/Machine/StateCore.lean ====
section
/-! DEFINITION. The state of the main cores, the contexts, the event channels, the collector, the heap and the caches
(chapters 02 to 12), as plain data. -/

namespace Sys2Proof.Machine

/-- The live registers of a slot: cells 0 to 20 of its context's record, and K (R85, R165, R190). -/
structure Regs where
  a : Cell := 0
  x : Word64 := 0
  y : Word64 := 0
  k : Word32 := 0
  f : Cell := 0
  e : Cell := 0
  s : Cell := 0
  c : Cell := 0
  h : Word64 := 0
  hl : Word64 := 0
  pc : Word64 := 0
  st : Word64 := 0
  msc0 : Cell := 0
  msc1 : Cell := 0
  msc2 : Cell := 0
  msc3 : Cell := 0
  /-- `MCA` and `MCA2` reset to RAW with all fields 0 (R165). -/
  mca : Cell := rawZero
  mca2 : Cell := rawZero
  mra : Word64 := 0
  mst : Word64 := 0
  prg : Cell := 0
  deriving DecidableEq, Repr

/-- A valid TLB entry (R252, R253): page number of a 16 KiB page, size code, attributes. -/
structure TlbEntry where
  sz : Nat
  g : Bool
  vpn : Nat
  asid : Nat
  pfn : Nat
  dev : Bool
  wt : Bool
  u : Bool
  x : Bool
  w : Bool
  r : Bool
  deriving DecidableEq, Repr

/-- An M-format word: opcode and fields (R94), with its extension word (R95). -/
structure MWord where
  op : BitVec 8
  mode : BitVec 4
  base : BitVec 4
  disp : BitVec 16
  ext : BitVec 32
  deriving DecidableEq, Repr

/-- A repeat under way (R133 to R138): the prefix word, the governed word, the count of this start of the prefix, the
iterations completed, and the ASTEP key once read (R123). -/
structure Repeat where
  pfx : Word32
  word : MWord
  count : Nat
  done : Nat
  key : Option Cell
  deriving DecidableEq, Repr

/-- The values that a long instruction has read and keeps in its work object or inline (R184). -/
inductive Routine where
  /-- A microcode routine of generic arithmetic: its operands A and opd, the `FADDR` of opd, and the cells of operand
  objects read so far, keyed by address (R49, R184). -/
  | micro (a opd : Cell) (faddr : Nat) (cells : List (Nat × Cell))
  /-- VCOPY (R125): destination and source references, X, Y, K and the elements copied. -/
  | vcopy (dst src : Cell) (x y : Int) (k done : Nat)
  /-- SALLOC (R124): the string's address, its byte length and the body cells written. -/
  | salloc (addr bytes done : Nat)
  /-- DRANGE (R280): the next line, the end address and `SUB`. -/
  | drange (next stop sub : Nat)
  deriving DecidableEq, Repr

/-- A long instruction under way (R180 to R186): its word, the steps completed, the work object, the routine, and, where it has
no work object, the number that tells its stop from every other of its context. -/
structure LongOp where
  word : MWord
  step : Nat
  work : Nat
  routine : Routine
  stopNo : Nat := 0
  /-- The references that the routine keeps, by the address that each had when it was read: what a core pass heals (R236, R246). -/
  refs : List (Nat × Cell) := []
  deriving DecidableEq, Repr

/-- What a slot is in the middle of: nothing, a repeat or a long instruction. -/
inductive Mid where
  | none
  | rep (r : Repeat)
  | long (l : LongOp)
  deriving DecidableEq, Repr

/-- The stream detector and the write-around buffer of a slot (R273). -/
structure Detector where
  /-- The address the next cell of the run must have, if a run is under way. -/
  next : Option Nat := .none
  /-- Full sectors completed in succession. -/
  runs : Nat := 0
  /-- The slot is in write-around. -/
  around : Bool := false
  /-- The cells of the one-sector write-around buffer, by address. -/
  buf : List (Nat × Cell) := []
  deriving DecidableEq, Repr

/-- One of the four context slots of a main core (R84, R198). -/
structure Slot where
  ctx : Option Nat := .none
  regs : Regs := {}
  /-- The dispatcher's order of placement (R198 rules 3 and 4), and the time of placement in ns. -/
  placedSeq : Nat := 0
  placedAt : Nat := 0
  /-- R263: a TLB miss entry set the walk flag; a TLBI marked the walk stale. -/
  walk : Bool := false
  stale : Bool := false
  mid : Mid := .none
  /-- The line on whose busy miss register a maintenance instruction of the slot holds (R279). -/
  hold : Option Nat := .none
  det : Detector := {}
  /-- A CTXLD or CTXST that waits for its target's eviction (R196): target, cell, and the cell to store if a CTXST. -/
  waits : Option (Nat × Nat × Option Cell) := .none
  deriving DecidableEq, Repr

/-- An object-cache entry that is not locked (R268); the list that holds them is in recency order. -/
structure OcEntry where
  line : Nat
  valid : BitVec 4
  dirty : BitVec 4
  wt : Bool
  deriving DecidableEq, Repr

/-- A busy miss register (R270): its line and the sectors requested. -/
structure MissReg where
  line : Nat
  mask : BitVec 4
  deriving DecidableEq, Repr

/-- An entry of the merging buffer (R274): a granule and the cells it holds, by index 0 to 7. -/
structure MergeEntry where
  granule : Nat
  cells : List (Nat × Cell)
  deriving DecidableEq, Repr

/-- A microcode patch (R491, R513): its level, and its 1,024 bank words of 16 bytes with the 32 match values of 8 bytes after them.
Level 0 with no words is no patch. -/
structure McPatch where
  level : Nat := 0
  words : List Byte := []
  deriving DecidableEq, Repr

/-- The microcode patch state of a core (R491 to R493): the active and the idle bank, and the 32 match registers (no list = every
register 0: none redirects). -/
structure PatchBanks where
  active : McPatch := {}
  idle : McPatch := {}
  regs : List Nat := []
  deriving DecidableEq, Repr

/-- A logical main core. -/
structure Core where
  men : Word64 := 0
  slots : SMap Slot := []
  tlb : SMap (Option TlbEntry) := []
  tlbPtr : Nat := 16
  ien : Bool := false
  den : Bool := false
  cperr : Nat := 0
  dperr : Nat := 0
  slost : Bool := false
  lkhit : Bool := false
  /-- Locked entries, the window base, the scratch cells by address, and those with bad parity (R282, R283, R292). -/
  lockn : Nat := 0
  lbase : Nat := 0
  scratch : SMap Cell := []
  scratchBad : List Nat := []
  /-- DINVALL has been executed since power-on reset: before it, hits return arbitrary cells (R294). -/
  ocDefined : Bool := false
  oc : List OcEntry := []
  /-- The L1 instruction cache: the granules whose payloads each of its 128 sets holds, at most four (R267); IINV has been
  executed since power-on reset (R294). -/
  icache : SMap (List Nat) := []
  icDefined : Bool := false
  miss : List MissReg := []
  merge : List MergeEntry := []
  /-- The core's relocation chunks, next free address and limit, for clay and bedrock (R232). -/
  relClay : Nat × Nat := (0, 0)
  relBed : Nat × Nat := (0, 0)
  /-- Clock-gated in PS1 (R462). -/
  gated : Bool := false
  /-- Times, in ns, of the replay failures of the last 60 s (R480). -/
  replayFails : List Nat := []
  patch : PatchBanks := {}
  deriving DecidableEq, Repr

/-- What the device keeps with a context outside its record (R170, R186, R205, R208, R371). -/
structure CtxAux where
  /-- The subscription lines in use, each with its channel. -/
  lines : SMap (Option Nat) := []
  /-- Pending interrupt vectors. -/
  vectors : List Nat := []
  /-- Pending BUS_ERROR of a store: the first failing address and its `ACC` (R169). -/
  busErr : Option (Nat × Nat) := .none
  watchdog : Bool := false
  powerFail : Bool := false
  thermal : List Nat := []
  coreRetire : Option Nat := .none
  /-- Work objects held (R186). -/
  holds : List Nat := []
  /-- The progress that a `PRG` names, with that `PRG` (R182, R185). -/
  progress : List (Cell × LongOp) := []
  /-- Stops of long instructions without a work object so far. -/
  stops : Nat := 0
  /-- The slot address that follows the WAITT or CKPT that put the context to sleep (R129). -/
  resumePc : Option Nat := .none
  /-- The base register that the WAITT steps when it completes, and by how much (R101, R208). -/
  resumeBase : Option (Nat × Int) := .none
  /-- The walk flag and the mark of R263 while the context is in no slot. -/
  walk : Bool := false
  stale : Bool := false
  /-- The order in which the context became placeable or went to sleep (R198). -/
  seq : Nat := 0
  /-- The cards in the change list (R371). -/
  changes : List Nat := []
  /-- Its open checkpoint was aborted (R371), or its CKPT waits for acceptance (R370). -/
  aborted : Bool := false
  ckptWait : Bool := false
  /-- The CKPT waits for a collection cycle with durable marking (R240). -/
  durWait : Bool := false
  deriving DecidableEq, Repr

/-- An event channel (R202). -/
structure Channel where
  ivec : Nat := 0
  line : Nat := 0
  sv : Bool := false
  subc : Nat := 0
  ovf : Bool := false
  count : Nat := 0
  deriving DecidableEq, Repr

/-- A completion record (R212); its port is that of the queue entry. -/
structure Record where
  port : Nat
  dk : Bool
  status : Nat
  dest : Nat
  rtag : Nat
  value : Nat
  deriving DecidableEq, Repr

/-- The phase of `GEP.PHASE` (R219). -/
inductive Phase where
  | idle | mark | select | relocate | remap
  deriving DecidableEq, Repr

/-- The three core passes of a cycle (R236). -/
inductive PassKind where
  | markFlip | markEnd | relocFlip
  deriving DecidableEq, Repr

/-- One item of the remap scope (R234): a context record, or one cell slot of the heap by address. -/
inductive RemapItem where
  | record (n : Nat)
  | slot (a : Nat)
  deriving DecidableEq, Repr

/-- The heap control registers, the side area and the engines (chapter 10). -/
structure Heap where
  /-- HWB `VBASE` address bits [55:36], and `EN`. -/
  vbase : Nat := 0
  en : Bool := false
  btaddr : Nat := 0
  saaddr : Nat := 0
  cycles : Nat := 0
  durq : Bool := false
  major : Bool := false
  phase : Phase := .idle
  good : Nat := 1
  resv : Nat := 64
  relpct : Nat := 50
  brrel : Bool := false
  auto : Bool := true
  siltmax : Nat := 256
  freemin : Nat := 512
  brfull : Bool := false
  resvlow : Bool := false
  qovf : Bool := false
  cen : Bool := false
  cchan : Nat := 0
  /-- Requests held for the next cycle (R239). -/
  reqMin : Bool := false
  reqMaj : Bool := false
  reqDur : Bool := false
  /-- The pass under way and the cores that have not acknowledged it; `ACKW` is 1 while any has not (R236). -/
  pass : Option PassKind := .none
  unacked : List Nat := []
  /-- Contexts that the latest pass has treated (R236, R237). -/
  treated : List Nat := []
  /-- The open silt block of each cluster (R223). -/
  openBlock : SMap (Option Nat) := []
  /-- Cards set, by virtual address ÷ 512 (R222, R229). -/
  cards : SMap Bool := []
  /-- Cons mark table, by virtual address (R228). -/
  consMark : SMap Nat := []
  /-- Objects marked durable in the running cycle, by virtual address (R240). -/
  durMark : SMap Bool := []
  /-- Objects to trace: address, and whether reached from a durable root (R228, R240). -/
  queue : List (Nat × Bool) := []
  /-- Object starts known to the device, by virtual address (the object-start bitmap, R219): 1 a headed object, 2 a
  cons. -/
  starts : SMap Nat := []
  /-- Contexts whose records are durable roots of the running cycle (R240). -/
  durRoots : List Nat := []
  /-- Of these, the contexts whose CKPT waits on the running cycle (R240). -/
  durWaiters : List Nat := []
  /-- Records and cards not yet scanned in MARK; cards scanned in the cycle (R231, R234). -/
  toScan : List Nat := []
  todoCards : List Nat := []
  cycleCards : List Nat := []
  markEndDone : Bool := false
  /-- SELECT has made every decision (R231). -/
  selected : Bool := false
  /-- The blocks kept in place, the new copies, and the slots left of the remap scope (R233, R234). -/
  kept : List Nat := []
  copies : List Nat := []
  scope : List RemapItem := []
  scopeMade : Bool := false
  /-- Blocks freed and not yet cleared (R235). -/
  clearing : List Nat := []
  /-- BRFULL or RESVLOW became set in the running cycle (R239, R242). -/
  cycBrfull : Bool := false
  cycResvlow : Bool := false
  /-- An engine met a poisoned granule in the running cycle (R292). -/
  cycPoison : Bool := false
  /-- An engine's mesh transfer failed in this cycle (R481). -/
  cycMesh : Bool := false
  /-- Relocation chunks of SE0 and SE1 for clay and bedrock: next free address and limit (R232). -/
  seClay : List (Nat × Nat) := [(0, 0), (0, 0)]
  seBed : List (Nat × Nat) := [(0, 0), (0, 0)]
  /-- Bedrock cards written by the engines or the barriers in the cycle (R241). -/
  engineCards : List Nat := []
  deriving DecidableEq, Repr

/-- Per-cluster L2 counters (R293). -/
structure L2Regs where
  corr : Nat := 0
  uncc : Nat := 0
  uncd : Nat := 0
  decl : Nat := 0
  deriving DecidableEq, Repr

/-- A dirty granule: the cluster that owns it and the eight cells beneath the dirty copy. -/
structure Under where
  cluster : Nat
  cells : List Cell
  deriving DecidableEq, Repr

/-- An entry of a home's directory (R288): its granule, the cluster that holds it exclusive, if one does, and otherwise the
clusters that share it. -/
structure DirEntry where
  granule : Nat
  owner : Option Nat
  mask : BitVec 8
  deriving DecidableEq, Repr

end Sys2Proof.Machine
end

