-- ==== Sys2Proof/Machine/StateIo.lean ====
section
/-! DEFINITION. The state of the geysers, the sample links, the global time counter and the tuff journal
(chapters 13 to 15), as plain data. -/

namespace Sys2Proof.Machine

/-- A value or a frame on its way through a stream's stages: each value as binary64 bits (binary32 values convert
exactly, R322), and its time (R313). -/
structure GyItem where
  vals : List Word64
  time : Nat
  /-- When the newest sample it depends on arrived, in ns (R328, R329). -/
  arr : Nat := 0
  deriving DecidableEq, Repr

/-- The scalar kernel state of one stage (R296, R316 to R321, R331 to R333). Which fields a kernel uses is said at its
definition. -/
structure StageState where
  /-- Values entered since RUN or CLEAR. -/
  n : Nat := 0
  /-- Values, frames or positions counted in the current window. -/
  m : Nat := 0
  /-- The low-pass sections of an STF stage. -/
  hist : List Word32 := []
  f0 : Word64 := 0
  f1 : Word64 := 0
  f2 : Word64 := 0
  f3 : Word64 := 0
  b0 : Bool := false
  b1 : Bool := false
  /-- Consecutive abort values and consecutive NaN values (R331, R332). -/
  runLow : Nat := 0
  runNan : Nat := 0
  /-- RELOAD accepted and not yet applied; the parameter block and its spare are exchanged (R308). -/
  reload : Bool := false
  swapped : Bool := false
  /-- Values that have arrived at the stage and wait to be processed; those of stage 0 stand in the input FIFO in stream memory, and
  here is what goes with each. -/
  inbox : List GyItem := []
  deriving DecidableEq, Repr

/-- The state of one output (R324, R325). -/
structure OutState where
  records : Nat := 0
  sincePost : Nat := 0
  lost : Bool := false
  /-- A ring write failed since the last post (R324). -/
  failed : Bool := false
  /-- A record that waits for room, with its arrival time (`POL` 2). -/
  held : List GyItem := []
  /-- The cells written to a host ring (`PROD` of R401), and the copy of its descriptor. -/
  prod : Nat := 0
  dma : List Cell := []
  deriving DecidableEq, Repr

/-- The state of a stream slot (R297). -/
inductive SlotState where
  | free | loaded | running | paused | aborted
  deriving DecidableEq, Repr

/-- What the end of a drive ramp completes (R334). -/
inductive RampEnd where
  | abort
  | pause (cmd : Cell)
  | stop (cmd : Cell)
  deriving DecidableEq, Repr

/-- A drive ramp under way (R334): when it began, the scale num ÷ den that it began from, and what its end completes. -/
structure Ramp where
  t0 : Nat
  num : Nat := 1
  den : Nat := 1
  fin : RampEnd
  deriving DecidableEq, Repr

/-- A stream slot of a geyser (R297 to R299, R304). -/
structure GySlot where
  state : SlotState := .free
  gen : Nat := 0
  last : Nat := 0
  inovr : Nat := 0
  lost : Nat := 0
  late : Nat := 0
  inval : Nat := 0
  sat : Nat := 0
  /-- The copy of the descriptor, 32 cells. -/
  desc : List Cell := []
  stages : List StageState := []
  outs : List OutState := []
  /-- The time of the latest input, for the source timeout; of a generator, that of RUN or CLEAR. -/
  lastInput : Nat := 0
  /-- Where in the input FIFO the oldest sample stands (R307). -/
  fifoPos : Nat := 0
  ramp : Option Ramp := .none
  deriving DecidableEq, Repr

/-- A geyser (R296, R299). -/
structure Geyser where
  slots : SMap GySlot := []
  /-- Stream memory, 512 KiB, by byte. -/
  smem : SMap Byte := []
  /-- Commands accepted and held back by their slot (R303); with each, the address of a mesh transfer of it that fails (R481). -/
  fifo : List (Cell × Option Nat) := []
  /-- The ring accesses of the value being processed fail in the mesh (R324, R481); false between commands. -/
  ringFails : Bool := false
  /-- Completion buffer toward the collector port (R325): whether a notification post, and the record. -/
  compl : List (Bool × Record) := []
  cdrop : Bool := false
  crej : Bool := false
  ftz : Nat := 0
  deriving DecidableEq, Repr

/-- An ingest slot (R312, R313): the next expected offset, the latest anchor and the samples since it. -/
structure Ingest where
  next : Nat := 0
  anchor : Nat := 0
  since : Nat := 0
  deriving DecidableEq, Repr

/-- The state of a sample link (R346). -/
inductive LinkState where
  | down | align | train | up | nover
  deriving DecidableEq, Repr

/-- A sample link (R344 to R354). -/
structure Link where
  echan : Nat := 0
  v1lat : Nat := 0
  tper : Nat := 10
  vmax : Nat := 2
  en : Bool := false
  state : LinkState := .down
  delay : Nat := 0
  txcred : Nat := 0
  pvmax : Nat := 0
  ver : Nat := 0
  code : Nat := 0
  crc : Nat := 0
  lost : Nat := 0
  ovr : Nat := 0
  rsvd : Nat := 0
  /-- The CTRL request outstanding, its payload, and when it was sent; `CBUSY` (R353). -/
  ctrl : Option (Nat × Nat) := .none
  cbusy : Bool := false
  /-- The CTRL request waits for a credit (R348). -/
  ctrlHeld : Bool := false
  /-- A TRAIN received from the peer in this training; one sent with `ACK` = 1. -/
  gotTrain : Bool := false
  sentAck : Bool := false
  /-- The greatest error, counted from the earliest, of a `T1` sent in this training (R363). -/
  t1Late : Nat := 0
  /-- When training (or NOVER) began or a TRAIN last came, in ns. -/
  trainAt : Nat := 0
  /-- Credits granted to the peer and not used. -/
  rxcred : Nat := 0
  seqTx : Nat := 0
  seqRx : Nat := 0
  /-- Event records of codes 0x01 to 0x04, and the STAT record (R352). -/
  events : List Record := []
  stat : Option Record := .none
  /-- When the last TIME frame was sent. -/
  timeAt : Nat := 0
  /-- Values that wait for transmission: lane, format, sample bits, time, valid (R326, R348). -/
  txq : List (Nat × Nat × Nat × Nat × Bool) := []
  deriving DecidableEq, Repr

/-- The global time counter and the IEEE 1588 servo (R356 to R361, R364). -/
structure TimeUnit where
  /-- The GTC in units of 2^-32 ns. -/
  gtc : Nat := 0
  rate : Word32 := 0
  xtrim : BitVec 16 := 0
  /-- GTCSTEP waiting for the next advance, in ns. -/
  step : Nat := 0
  /-- The counter runs from the crystal (PS3 to PS5): the 8 MHz oscillator cycles since its tick, and 32,768 for each of them, modulo
  8,000,000 (R356, log entry 123). -/
  crystal : Bool := false
  osc : Nat := 0
  oscAcc : Nat := 0
  /-- The greatest value that a read of the counter has returned (R357). -/
  readMax : Nat := 0
  /-- The selected master's identity and quality, if any, and when its latest Announce came (R360). -/
  master : Option (Nat × Nat) := .none
  heardAt : Nat := 0
  /-- The origin time and arrival time of the latest complete Sync, and the sequence number and arrival time of a two-step
  Sync that waits for its Follow_Up. -/
  sync : Option (Nat × Nat) := .none
  syncWait : Option (Nat × Nat) := .none
  /-- The sequence number and time of the latest Delay_Req sent, and the next sequence number. -/
  delayReq : Option (Nat × Nat) := .none
  delaySeq : Nat := 0
  /-- The mean path delay measured. -/
  pathDelay : Int := 0
  ptpState : Nat := 0
  ptpOffs : Int := 0
  /-- The crossing mode in force (R364). -/
  xmode : Nat := 0
  deriving DecidableEq, Repr

/-- What a context's commit holds (R370): cells 0 to 26, subscription lines, pending vectors, the slot address that
follows a wait. -/
structure Checkpoint where
  seq : Nat := 0
  cells : List Cell := []
  lines : SMap (Option Nat) := []
  vectors : List Nat := []
  resumePc : Option Nat := .none
  resumeBase : Option (Nat × Int) := .none
  /-- The progress that `PRG` values of the context name, which their inline state and the work objects hold (R182, R184). -/
  progress : List (Cell × LongOp) := []
  stops : Nat := 0
  deriving DecidableEq, Repr

/-- The party of a commit (R370, R241, R408, R380). -/
inductive CommitKind where
  | context (n : Nat)
  | engines
  | dictionary
  | dormant
  | drop (n : Nat)
  deriving DecidableEq, Repr

/-- An accepted commit whose marker is not yet in the tuff die (R369 to R372): its sequence number, party, checkpoints,
bedrock cards with their contents, and dictionary values. -/
structure Commit where
  seq : Nat
  kind : CommitKind
  checkpoints : List (Nat × Checkpoint)
  cards : List (Nat × List Cell)
  entries : List (Nat × List Byte)
  /-- `HWB`, `BTB`, `SAB` and the block-table entries of the bedrock blocks, journaled with the commit (R379). -/
  window : Nat × Nat × Nat
  blocks : List (Nat × Cell)
  /-- Wholly staged, so restored after a power failure (R376). -/
  staged : Bool
  /-- A card of it lay in a poisoned granule, so it fails (R292). -/
  bad : Bool := false
  /-- A mesh transfer of its cards failed (R481). -/
  mesh : Bool := false
  /-- The cards of its context's change list, those that were spilled into the log before, and whether FULL listed the rest: what a
  failed commit leaves for the next attempt (R371, R372). -/
  listed : List Nat := []
  logged : List Nat := []
  full : Bool := false
  deriving DecidableEq, Repr

/-- The phases of the power-fail sequence (R376, R378). -/
inductive PfPhase where
  | normal | failing | done
  deriving DecidableEq, Repr

/-- The tuff journal (chapter 15). -/
structure Journal where
  tap : Nat := 0
  ren : Bool := false
  restored : Bool := false
  pfdone : Bool := false
  abort : Bool := false
  rdrop : Bool := false
  media : Bool := false
  rpos : Nat := 0
  seq : Nat := 0
  /-- The sequence number last assigned at acceptance. -/
  nextSeq : Nat := 0
  /-- FULL was issued: the next commit holds all bedrock (R368). -/
  full : Bool := false
  /-- The sample ring, by ring cell (P1). -/
  ring : SMap Cell := []
  /-- The bedrock image (P0): cells by virtual address ÷ 16, and the journaled block-table entries by slot. -/
  bed : SMap Cell := []
  bedEntries : SMap Cell := []
  /-- Journaled `HWB`, `BTB` and `SAB` (R379). -/
  hwb : Nat := 0
  btb : Nat := 0
  sab : Nat := 0
  /-- Committed checkpoints by context (log area). -/
  checkpoints : SMap (Option Checkpoint) := []
  /-- The time of the latest commit, in ns (R358, R379). -/
  lastTime : Nat := 0
  /-- Persistent dictionary entries (P2), by 256 × index + subindex, as message bytes. -/
  entries : SMap (Option (List Byte)) := []
  /-- The type of each persistent published entry's journaled value (R430); a write of 1 to 0x1011:00 is pending (R408). -/
  pubTypes : SMap Nat := []
  defaults : Bool := false
  /-- Image slots 0 and 1: image bytes (P2). -/
  images : SMap (List Byte) := []
  /-- Commits accepted and not yet complete, in sequence order. -/
  open_ : List Commit := []
  /-- Spilled cards of open checkpoints: context, card, contents (R371). -/
  spills : List (Nat × Nat × List Cell) := []
  /-- Write counts of the 131,072 wear units, the unit that the contents of unit u of the 116,736 outside the remap reserve occupy,
  and units retired (R366, R374, R375). -/
  wear : SMap Nat := []
  wearMap : SMap Nat := []
  retired : List Nat := []
  /-- Units retired when UNITSLEFT last returned to its default (R408). -/
  unitsBase : Nat := 0
  pf : PfPhase := .normal
  deriving DecidableEq, Repr

end Sys2Proof.Machine
end

