-- ==== Sys2Proof/Machine/StateHost.lean ====
section
/-! DEFINITION. The state of the host interface and of the object dictionary (chapters 16 and 17), as plain data. -/

namespace Sys2Proof.Machine

/-- A memory-window map entry (R398): `HBASE` address bits [47:30], `WR`, `RD`, `V`. -/
structure MwEntry where
  hbase : Nat := 0
  wr : Bool := false
  rd : Bool := false
  v : Bool := false
  deriving DecidableEq, Repr

/-- What a function's configuration space holds beside Bus Master Enable and Memory Space Enable (R382, R383). -/
structure PciConfig where
  /-- The bases of the control, memory and ingest windows. -/
  bars : SMap Nat := []
  /-- Max payload and max read request size, as codes of 128 B doubled. -/
  mps : Nat := 0
  mrrs : Nat := 2
  msixEn : Bool := false
  msixMask : Bool := false
  /-- Uncorrectable error status of AER. -/
  aerStat : BitVec 32 := 0
  ecrcGen : Bool := false
  ecrcCheck : Bool := false
  /-- LTR enabled, and what the latest LTR message stated. -/
  ltr : Bool := false
  ltrSent : Option (Option Nat) := none
  l1 : Bool := false
  l11 : Bool := false
  l12 : Bool := false
  deriving DecidableEq, Repr

/-- A PCIe function (R383, R388, R398). -/
structure Func where
  offer : Nat := 0
  fen : Bool := false
  en : Bool := false
  rdy : Bool := false
  verr : Bool := false
  merr : Bool := false
  rsppc : Nat := 0
  ver : Nat := 0
  reqpc : Nat := 0
  rspcc : Nat := 0
  /-- Requests that VC1 has taken from the mailbox (R391). -/
  taken : Nat := 0
  tolus : Nat := 0
  hirq : Word64 := 0
  /-- Request and response slots, 8 KiB each, and the MSI-X table and pending bits, by byte. -/
  req : SMap Byte := []
  rsp : SMap Byte := []
  msix : SMap Byte := []
  pba : SMap Byte := []
  acen : Bool := false
  appch : Nat := 0
  appval : Nat := 0
  idrop : Nat := 0
  mwdrop : Nat := 0
  mw : SMap MwEntry := []
  /-- Bus Master Enable and Memory Space Enable of the function's configuration space. -/
  bme : Bool := false
  mse : Bool := false
  cfg : PciConfig := {}
  /-- The memory-window size exponent in force (R387). -/
  mwsize : Nat := 2
  deriving DecidableEq, Repr

/-- A DMA transfer under way (R400): the command cell, direction, HBM address, host address, function, length. -/
structure Dma where
  cmd : Cell
  toHost : Bool
  hbm : Nat
  bus : Nat
  func : Nat
  len : Nat
  deriving DecidableEq, Repr

/-- Where a request came from and where its response goes (R391, R411, R422, R428). -/
inductive Source where
  /-- OHP function and request number. -/
  | ohp (f : Nat) (n : Nat)
  /-- T1S port and source MAC. -/
  | t1s (port : Nat) (mac : Nat)
  /-- CAN controller. -/
  | can (ctrl : Nat)
  /-- The dictionary port, with its command cell. -/
  | port (cmd : Cell)
  deriving DecidableEq, Repr

/-- A dictionary request that waits for the end of its tick (R411). -/
structure DictReq where
  src : Source
  master : Nat
  mtype : Nat
  mtag : Nat
  /-- The message's payload; of a dictionary-port request, the bytes of its block. -/
  payload : List Byte
  /-- The abort code of a request that is refused as it stands; 0 = it is judged in the tick. -/
  code : Nat := 0
  /-- Its time of arrival. -/
  time : Nat := 0
  deriving DecidableEq, Repr

/-- What the outside adds to a write: signature checks, a restart's surroundings, cores that fail a self-test, tuff writes that fail. -/
structure WriteEnv where
  chk : SigCheck := {}
  env : BootEnv := {}
  bad : List Nat := []
  /-- Journal writes of the entry's commit that fail verify, of at most four (R375). -/
  fails : Nat := 0
  deriving DecidableEq, Repr

/-- An entry that a program has published (R430). -/
structure Published where
  owner : Nat
  type : Nat
  access : Nat
  persist : Bool
  limit : Nat
  nchan : Nat
  dim : Nat
  abs : Nat
  default : List Byte
  deriving DecidableEq, Repr

/-- The dictionary service and the ownership state (chapter 17). -/
structure Dict where
  /-- Current values that differ from the entry's default, by 256 × index + subindex, as message bytes. -/
  vals : SMap (Option (List Byte)) := []
  published : SMap (Option Published) := []
  owner : Nat := 0xFF
  ownseq : Nat := 0
  designee : Nat := 0xFF
  /-- CBASE as each CAN controller took it when it was enabled; unlisted = the default (R427, R431). -/
  canBase : SMap Nat := []
  /-- The tick in which the open designation was opened (R417). -/
  desTick : Option Nat := .none
  ownprev : Nat := 0xFF
  loc : Bool := false
  why : Nat := 0
  /-- Ticks since power-on reset, and the tick of each master's latest request (R414). -/
  tick : Nat := 0
  lastReq : SMap (Option Nat) := []
  queue : List DictReq := []
  /-- Writes given as commands that wait until the dictionary is served (R412): the write, its index, its surroundings. -/
  rows : List (DictWrite × Nat × WriteEnv) := []
  /-- A change of OWNER, DESIGNEE or LOCAL has not yet been notified (R420). -/
  changed : Bool := false
  /-- Partial DWRITESEG values, by 2^24 × master + entry: total length, bytes so far (R394). -/
  segs : SMap (Option (Nat × List Byte)) := []
  /-- Vent firmware's handle table: the cell each handle names (R406). -/
  handles : SMap (Option Cell) := []
  /-- The debounced keyswitch mode that the next tick finds (R411 step 2). -/
  keyLocal : Bool := false
  deriving DecidableEq, Repr

/-- What the device sends out: an output that the outside reads (R386, R388, R420, R443 and others). -/
inductive Output where
  | msix (func vec : Nat)
  | aer (func code : Nat)
  /-- An LTR message: its snoop and no-snoop latency in ns, or no requirement (R399). -/
  | ltr (func : Nat) (ns : Option Nat)
  /-- An OHP response written by VC1: function, request number, abort code. -/
  | ohpResponse (func n status : Nat)
  /-- The response to a write given as a command: its master and the abort code (R421). -/
  | answered (master status : Nat)
  /-- A DFP message on a T1S port or a CAN controller, padded: the destination MAC, or the 29-bit identifier. -/
  | dfp (can : Bool) (port : Nat) (mac : Nat) (bytes : List Byte)
  /-- A frame on a sample link, from SOF's header through the padding; `time` is its TSTAMP or SOF time. -/
  | linkFrame (link type seq : Nat) (payload : List Byte) (time : Nat)
  /-- Credits returned on a sample link. -/
  | credit (link n : Nat)
  /-- A write to host memory: function, bus address, bytes. -/
  | hostWrite (func addr : Nat) (bytes : List Byte)
  /-- A read completion on a window: function, bytes; or Unsupported Request; or poisoned. -/
  | readData (func : Nat) (bytes : List Byte)
  | unsupported (func : Nat)
  | poisoned (func : Nat) (bytes : List Byte)
  /-- A PTP Delay_Req frame with its sequence number. -/
  | ptpDelayReq (port seq : Nat)
  deriving DecidableEq, Repr

end Sys2Proof.Machine
end

