-- ==== Sys2Proof/Machine/StateSys.lean ====
section
/-! DEFINITION. The state of the operator panel, power manager, dependability, reset and boot, and debug units
(chapters 18 to 22), as plain data. -/

namespace Sys2Proof.Machine

/-- One input of groups 0 to 3 (R437). -/
structure PanelInput where
  state : Bool := false
  prev : Bool := false
  run : Nat := 0
  held : Nat := 0
  cnt : Nat := 0
  stuck : Bool := false
  chat : Bool := false
  deriving DecidableEq, Repr

/-- The operator panel (chapter 18). Inputs are keyed by 256 × group + input. -/
structure Panel where
  /-- The number of the next scan (R435). -/
  scan : Nat := 0
  inputs : SMap PanelInput := []
  /-- Latch discrepancies counted, by group (R438, R451). -/
  glitch : SMap Nat := []
  /-- Event FIFO: word and scan time, oldest first; and the records that wait for port 13 (R441 to R443). -/
  fifo : List (Nat × Nat) := []
  posts : List Record := []
  /-- Events discarded and not yet reported by a code 10 event, and in all (R442, R451); the first of them. -/
  lostNow : Nat := 0
  lostFirst : Nat × Nat := (0, 0)
  lostAll : Nat := 0
  evtTime : Nat := 0
  /-- Emergency stop (R444 to R448): latest samples (high = true), consecutive low samples of each channel. -/
  aHigh : Bool := true
  bHigh : Bool := true
  aLow : Nat := 0
  bLow : Nat := 0
  eforce : Bool := false
  erel : Bool := false
  edisc : Bool := false
  /-- Consecutive samples with both channels high, and with the channels disagreeing. -/
  bothHigh : Nat := 0
  disagree : Nat := 0
  /-- Both channels have been sampled low since `EDISC` was set (R447). -/
  bothLowSeen : Bool := false
  /-- Buzzer: the dictionary tick at which it stops; none = until further notice (R449). -/
  buzzOn : Bool := false
  buzzLeft : Option Nat := .none
  deriving DecidableEq, Repr

/-- The rail sequencer (R469): a sequence up is under way between RAIL_GOOD events; a sequence down is one command. -/
inductive Sequencer where
  | idle
  /-- Raising: the step being raised and the PENs of it not yet good. -/
  | up (step : Nat) (waiting : List Nat)
  deriving DecidableEq, Repr

/-- The transition that the power manager is in (R464). -/
inductive Trans where
  | settled
  | entering (s : Nat)
  | leaving (s : Nat)
  deriving DecidableEq, Repr

/-- The power manager (chapter 19). -/
structure Power where
  scrk : Bool := false
  ten : Bool := false
  tctx : Nat := 0
  mtol : Nat := 0xFFFFFFFF
  ps : Nat := 0
  trans : Trans := .settled
  /-- `PMSTA.TOL` and `TSRC` of the latest evaluation (R463, R467). -/
  tol : Nat := 0xFFFFFFFF
  tsrc : Nat := 0
  /-- Since when each of PS2 to PS5 has been allowed by the evaluations, in ns (R463). -/
  since : SMap (Option Nat) := []
  /-- Domains powered (R457), as a bit mask of 112 bits. -/
  domains : Nat := 0
  /-- PLLs locked (R454): 0 to 7 cluster, 8 mesh, 9 and 10 HBM, 11 geyser; as a bit mask. -/
  plls : Nat := 0
  /-- Cluster clocks in MHz under throttling; unlisted = CLUFREQ (R455, R475). -/
  throttle : SMap Nat := []
  /-- HBM stacks in self-refresh (R459). -/
  selfRefresh : List Nat := []
  /-- PEN outputs as the power manager commands them, and PGD inputs good, as bit masks (R469). -/
  pen : Nat := 0
  pgd : Nat := 0
  seq : Sequencer := .idle
  /-- Time of the latest rail fault, in ns; every rail is left down until power-on reset (R470). -/
  lastFault : Option Nat := .none
  allDown : Bool := false
  /-- A restart is due 1 s after a rail fault; it is a thermal trip (R470, R476). -/
  restart : Bool := false
  tripWait : Bool := false
  /-- Temperatures in mK, by sensor; unlisted = 298,150 (R473, R477). -/
  temp : SMap Nat := []
  /-- Sensors that have warned since they crossed TWARN (R474). -/
  warned : List Nat := []
  /-- PMBus: polls without acknowledge in a row, by device entry; latest VOUT and IOUT as binary64 (R472). -/
  missed : SMap Nat := []
  vout : SMap Word64 := []
  iout : SMap Word64 := []
  link : PcieLink := .down
  /-- The link has trained since PERST_N (R458). -/
  trained : Bool := false
  /-- Frames kept by listening ports, 0 to 3 T1S, 4 and 5 CAN (R465): port, source MAC, message. -/
  held : List (Nat × Nat × List Byte) := []
  /-- WAKE_N asserted (R464). -/
  wakeN : Bool := false
  /-- PERST_N is low (R502, R552). -/
  perstLow : Bool := false
  deriving DecidableEq, Repr

/-- An error record (R497). -/
structure ErrRecord where
  seq : Nat
  src : Nat
  unit : Nat
  code : Nat
  sev : Nat
  time : Nat
  addr : Nat
  det : Nat
  deriving DecidableEq, Repr

/-- A machine image held by the device: the header's fields (R512) and its body. -/
structure Image where
  level : Nat := 0
  loadpa : Nat := 0
  entry : Word64 := 0
  startpc : Word64 := 0
  sasid : Nat := 0
  wired : List (Word64 × Word64) := []
  body : List Byte := []
  deriving DecidableEq, Repr

/-- Dependability and live change (chapter 20). -/
structure Depend where
  /-- Physical core of a logical core (R13); unlisted = the physical core of reset. Logical cores absent (R485). -/
  phys : SMap (Option Nat) := []
  absent : List Nat := []
  /-- Physical cores retired, by 9k + p; spares: unlisted = 8, 0xFF = none (R483, R500). -/
  retired : List Nat := []
  spare : SMap (Option Nat) := []
  replayOk : SMap Nat := []
  replayFail : SMap Nat := []
  /-- Error log: staged records oldest first, committed ring by number mod 4,096 (R499). -/
  errseq : Nat := 0
  staged : List ErrRecord := []
  log : SMap (Option ErrRecord) := []
  /-- Coalesced records: key (ECODE × 256 + unit), second, record number, count (R498). -/
  coalesce : List (Nat × Nat × Nat × Nat) := []
  /-- Microcode patches: state, the staged and the active patch, MCMIN raises (R491 to R493). -/
  mcstate : Nat := 0
  mcStaged : Option McPatch := .none
  mcActive : Option McPatch := .none
  mcMinRaise : Option Nat := .none
  mcRaises : Nat := 0
  /-- Cores that have not yet exchanged their banks (R493). -/
  mcTodo : List Nat := []
  /-- Vent patch stored: level and image; levels run by VC0 to VC3 (R490). -/
  vpatch : Option (Nat × List Byte) := .none
  vplevel : SMap Nat := []
  /-- Vent cores: restart times within 60 s, retired, restarts ordered by VPACT (R489, R490). -/
  ventTimes : SMap (List Nat) := []
  ventRetired : List Nat := []
  ventTodo : List Nat := []
  /-- Vent cores whose firmware restarts and does not yet run (R489). -/
  ventWait : List Nat := []
  /-- Machine images: IMGSTATE, the running slot or boot slot, handover progress (R494, R495); the slots themselves are in
  the journal. -/
  imgstate : Nat := 0
  imgrun : Nat := 0
  /-- The image that runs, and the one it would revert to (R495). -/
  running : Option Image := .none
  previous : Option Image := .none
  /-- When the handover request or the trial began, in ns; the handover block's address. -/
  handAt : Option Nat := .none
  block : Nat := 0
  /-- The granule that the scrub reads next and the number of its pass; the scrub passes in which a row yielded corrected
  errors, with the latest of them; repair candidates (R487, R488). Rows and candidates are named 2 × row + controller. -/
  scrub : Nat := 0
  scrubPass : Nat := 0
  rowHits : SMap (Nat × Nat) := []
  candidates : List Nat := []
  deriving DecidableEq, Repr

/-- Reset and boot (chapter 21). -/
structure Boot where
  bootsel : Nat := 0
  bootsrc : Nat := 0xFF
  stat : Nat := 0
  err : Nat := 0
  rstkind : Nat := 1
  ms : Nat := 0
  /-- Waiting for a host load; the start kind that follows it (R509, R507). -/
  hostWait : Option Nat := .none
  /-- Power-on reset asserted (R543). -/
  held : Bool := false
  /-- The shadow of RAILSEQ, SAFEPEN and SAFEMASK in the caldera (R511). -/
  shadow : Option (List Nat × Nat × Nat) := .none
  /-- Clusters whose reset waits for a slot's next boundary, with the cores that will fail the self-test (R505). -/
  resets : List (Nat × List Nat) := []
  /-- Cores that take the new image's `MEN` at their next quiescent boundary (R495), and the image whose start context starts once they
  all have, with the A that it gets. -/
  menTodo : List Nat := []
  startTodo : Option (Image × Cell) := .none
  /-- Notices that wait for room in the notice ring (R519): code, tag, argument. -/
  notices : List (Nat × Nat × Nat) := []
  /-- No image that came from QSPI or a host load runs without a handover since: a restart tries the slot of IMGRUN first (R507). -/
  slotBoot : Bool := true
  /-- The tick of the latest CLURST of each cluster (R521). -/
  cluTick : SMap (Option Nat) := []
  /-- What the outside gave at the latest start: a start that no command carries it for finds the same (log entry 49). -/
  env : BootEnv := {}
  deriving DecidableEq, Repr

/-- An instruction of the JTAG port, a private one by its code (R532). -/
inductive Jtag where
  | idcode | samplePreload | extest | extestPulse | extestTrain | highz | clamp | bypass
  | priv (code : Nat)
  deriving DecidableEq, Repr

/-- Debug and test access (chapter 22). -/
structure Debug where
  scope : Nat := 0
  fails : Nat := 0
  obssel : SMap Nat := []
  bkaddr : SMap Nat := []
  bkctl : SMap Nat := []
  jtag : Jtag := .idcode
  /-- The balls whose cell of the boundary-scan update register holds 1 (R534). -/
  scanReg : List Ball := []
  /-- The value last captured by SAMPLE/PRELOAD or read out of the port. -/
  shifted : Nat := 0
  /-- When the OBSSEL of each pin was last written, in ns (R528). -/
  obsAt : SMap Nat := []
  deriving DecidableEq, Repr

end Sys2Proof.Machine
end

