-- ==== Sys2Proof/Machine/State.lean ====
section
/-! DEFINITION. The whole state of the device as plain data, the ways a step can stop, and the state right after
power-on reset. The structures of the units stand in StateCore, StateIo, StateHost and StateSys. -/

namespace Sys2Proof.Machine

/-- The state of the block. -/
structure State where
  /-- HBM (R249): bytes by physical address, in canonical form; an unlisted byte reads as `memDefault` (log entry 1). -/
  mem : List Host.Cell := []
  /-- Poisoned granules of HBM, by address ÷ 128 (R292). -/
  poison : SMap Bool := []
  /-- The value beneath a dirty object-cache sector, by granule: owning core and eight cells (R278, R287). -/
  ocUnder : SMap (Option Under) := []
  /-- The value in HBM beneath a dirty L2 granule (R278, R286). -/
  l2Under : SMap (Option Under) := []
  l2 : SMap L2Regs := []
  /-- The granules that each set of each L2 holds, the most recently used first, at most 16 (R267, R286); a granule is dirty
  there where `l2Under` has its cluster. -/
  l2Lines : SMap (List Nat) := []
  /-- The write-back queue of each L2 half, oldest first (R286). -/
  l2Queue : SMap (List Nat) := []
  /-- The directories of the homes, by set, at most 16 entries in each (R288). -/
  dir : SMap (List DirEntry) := []
  /-- The context store: cell c of context n at 32n + c (R190). -/
  ctxStore : SMap Cell := []
  aux : SMap CtxAux := []
  /-- Vent RAM, 128 KiB, by cell (R104). -/
  ventRam : SMap Cell := []
  cores : SMap Core := []
  /-- The dispatcher's order counter (R198). -/
  order : Nat := 0
  channels : SMap Channel := []
  /-- The collector's queue, oldest first, and the records that wait at each port (R211 to R213). -/
  collQ : List Record := []
  ports : SMap (List Record) := []
  /-- Acceptance cycles so far, and the cycle in which each port's waiting record was first presented (R213). -/
  collCycle : Nat := 0
  heads : SMap (Option Nat) := []
  /-- The link record that port 12 presents and that waits for admission (R213, R352). -/
  linkWait : Option Record := .none
  heap : Heap := {}
  geysers : SMap Geyser := []
  ingest : SMap Ingest := []
  links : SMap Link := []
  time : TimeUnit := {}
  jr : Journal := {}
  funcs : SMap Func := []
  /-- The DMA transfer under way and the commands that wait for it, in the order they were written (R400); with a command, the address of
  its block's mesh transfer that failed (R481). -/
  dma : Option Dma := .none
  dmaQ : List (Cell × Option Nat) := []
  dict : Dict := {}
  panel : Panel := {}
  power : Power := {}
  dep : Depend := {}
  boot : Boot := {}
  dbg : Debug := {}
  /-- What the device has sent out, oldest first. -/
  out : List Output := []
  /-- The model's own counter of free values drawn (log entry 2). -/
  freeCount : Nat := 0
  /-- The commands that wait, first in, first out. -/
  pending : List Instr := []
  deriving DecidableEq, Repr

/-- Why a step stops with a fault. No meaning of this model raises one: the spec gives every command an effect, and an
access to an address that does not exist is the BUS_ERROR that R249 describes. -/
inductive Fault where
  /-- Raised by no meaning; it stands for a stop of the device that the spec would not describe. Safe. -/
  | stopped
  deriving DecidableEq, Repr

/-- Why a command has no meaning here. -/
inductive Refusal where
  /-- Raised by an arm of `exec` whose command has no meaning yet. Safe: the model stops where the device goes on. -/
  | notModelled (mnemonic : String)
  deriving DecidableEq, Repr

/-- The state right after power-on reset (R7, R85, R195, R219, R503): every field at its reset value, nothing running.
Bring-up is the command POWER_ON_RESET (log entry 3). -/
def State.reset : State := {}

/-- A step's outcome. -/
abbrev Out := Host.Outcome State Fault Refusal

end Sys2Proof.Machine
end

