-- ==== Sys2Proof/Machine/Idle.lean ====
section
/-! DEFINITION. The advance of the global time counter (R356, R358). -/

namespace Sys2Proof.Machine

/-- The signed value of a correction register. -/
def TimeUnit.rateNow (t : TimeUnit) : Int := t.rate.toInt

/-- The advance of one source period, in units of 2^-32 ns (R356): 8 ns + `RATE` × 2^-32 ns, or one crystal tick of
30,517.578125 ns + `XTRIM` × 2^-12 ns. -/
def TimeUnit.period (t : TimeUnit) : Int :=
  if t.crystal then (30517 * 2 ^ 32 + 37 * 2 ^ 26 : Int) + t.xtrim.toInt * (2 ^ 20 : Int)
  else (8 * 2 ^ 32 : Int) + t.rateNow

/-- One source period passes, with a pending GTCSTEP applied (R356, R358). -/
def TimeUnit.tick (t : TimeUnit) : TimeUnit :=
  { t with gtc := t.gtc + t.period.toNat + t.step * 2 ^ 32, step := 0, osc := 0 }

/-- The smallest passage of time: a cycle of the 125 MHz path, or one of the 8 MHz oscillator between two crystal ticks, of which
32,768 fall on 8,000,000 cycles (R356, log entry 123). -/
def TimeUnit.advance (t : TimeUnit) : TimeUnit :=
  if t.crystal then
    let acc := t.oscAcc + 32768
    if 8000000 ≤ acc then { t.tick with oscAcc := acc - 8000000 } else { t with osc := t.osc + 1, oscAcc := acc }
  else t.tick

/-- The counter as it is read: whole ns, and between crystal ticks 125 ns for each cycle of the 8 MHz oscillator, at most 30,517 ns
(R356, R357). -/
def TimeUnit.ns (t : TimeUnit) : Nat := t.gtc / 2 ^ 32 + (if 30517 < 125 * t.osc then 30517 else 125 * t.osc)

/-- The crystal takes over at entry to PS3; the value goes on from where it stands. -/
def TimeUnit.toCrystal (t : TimeUnit) : TimeUnit := if t.crystal then t else { t with crystal := true, osc := 0, oscAcc := 0 }

/-- The 125 MHz path takes over at a crystal tick, from that tick's value (R357). -/
def TimeUnit.toQuartz (t : TimeUnit) : TimeUnit :=
  if t.crystal then { (if t.osc == 0 then t else t.tick) with crystal := false, osc := 0, oscAcc := 0 } else t

end Sys2Proof.Machine
end

