-- ==== Sys2Proof/Machine/Base.lean ====
section
/-! DEFINITION. Named access to the state: cores, slots, context records, dictionary values, completion records,
outputs, free values and error records. Every unit reads and writes these parts of the state through here. -/

namespace Sys2Proof.Machine

/-- A core and a slot: where an instruction executes. -/
structure Cx where
  core : Nat
  slot : Nat
  deriving DecidableEq, Repr

/-- Vent core VC0 to VC3 as a place of execution: after the 64 logical main cores, with one slot (R104). -/
def Cx.vent (v : Nat) : Cx := ⟨64 + v, 0⟩
def Cx.isVent (q : Cx) : Bool := 64 ≤ q.core

/-- The place where an instruction command executes. -/
def Cx.of (i : Issue) : Cx := if i.vent then Cx.vent (i.core.toNat % 4) else ⟨i.core.toNat, i.slot.toNat⟩

/-- The number under which the model keeps the one context of a vent core: none of the 16,384 of the context store (R104, log
entry 102). -/
def ventCtx (v : Nat) : Nat := 16384 + v

/-! ### Cores and slots -/

def State.core (s : State) (c : Nat) : Core := SMap.get {} s.cores c
def State.setCore (s : State) (c : Nat) (v : Core) : State := { s with cores := SMap.set {} s.cores c v }
def State.modCore (s : State) (c : Nat) (f : Core → Core) : State := s.setCore c (f (s.core c))
def Core.slot (k : Core) (n : Nat) : Slot := SMap.get {} k.slots n
def Core.setSlot (k : Core) (n : Nat) (v : Slot) : Core := { k with slots := SMap.set {} k.slots n v }
def State.slot (s : State) (q : Cx) : Slot := (s.core q.core).slot q.slot
def State.setSlot (s : State) (q : Cx) (v : Slot) : State := s.setCore q.core ((s.core q.core).setSlot q.slot v)
def State.modSlot (s : State) (q : Cx) (f : Slot → Slot) : State := s.setSlot q (f (s.slot q))
def State.regs (s : State) (q : Cx) : Regs := (s.slot q).regs
def State.setRegs (s : State) (q : Cx) (r : Regs) : State := s.setSlot q { s.slot q with regs := r }
def State.modRegs (s : State) (q : Cx) (f : Regs → Regs) : State := s.setRegs q (f (s.regs q))

/-- The logical cores (R10, R485): 64, less those that have become absent. -/
def State.coreActive (s : State) (c : Nat) : Bool := c < 64 && !s.dep.absent.contains c

def allCores : List Nat := List.range 64
def allSlots : List Nat := List.range 4

/-- The physical core, 9k + p, that carries logical core `c` (R13, R457): core c of the cluster c ÷ 8 unless moved. -/
def State.physOf (s : State) (c : Nat) : Nat :=
  match SMap.get none s.dep.phys c with
  | some p => p
  | none => 9 * (c / 8) + c % 8

/-- The spare physical core of cluster `k` (R483, R500). -/
def State.spareOf (s : State) (k : Nat) : Option Nat :=
  match SMap.get none s.dep.spare k with
  | some 0xFF => none
  | some p => some p
  | none => some 8

/-- Domain `d` is powered (R457). -/
def State.domainOn (s : State) (d : Nat) : Bool := s.power.domains.testBit d
/-- The domain of logical core `c` is powered. -/
def State.coreOn (s : State) (c : Nat) : Bool := s.domainOn (s.physOf c)

/-- While power-on reset is held the device takes no command (R543): `t` is what a command makes of `s` otherwise. -/
def State.unheld (s t : State) : State := if s.boot.held then s else t

/-- VC1, VC2 or VC3 runs or restarts: its slot holds its context, or will (R14, R489). -/
def State.ventsUp (s : State) : Bool :=
  [1, 2, 3].any (fun v => ((s.slot (Cx.vent v)).ctx).isSome || s.dep.ventWait.contains v)

/-- The vent core that has the duties of VC`d`: itself, or once it is retired the lowest-numbered of VC1 to VC3 that remains, or VC0
(R489). -/
def State.dutyCore (s : State) (d : Nat) : Nat :=
  if !s.dep.ventRetired.contains d then d else ([1, 2, 3].find? (fun v => !s.dep.ventRetired.contains v)).getD 0

/-- The duties of VC`d` wait for the restart of the core that has them (R489). -/
def State.dutyWaits (s : State) (d : Nat) : Bool := s.dep.ventWait.contains (s.dutyCore d)

/-- The vent core with the duties of VC`d` runs: its domain is on (R14) and it does not restart (R489); VC0 takes them over only while
the main side is up. -/
def State.dutyServed (s : State) (d : Nat) : Bool :=
  !s.dutyWaits d && (if s.dutyCore d == 0 then s.domainOn 96 && s.boot.stat == 0x40 else s.domainOn 110)

/-- VC1 serves the dictionary (R412, R459, R489): in PS0 to PS3, while the vent core with its duties runs. -/
def State.dictServed (s : State) : Bool := s.power.ps < 4 && s.dutyServed 1

/-- The cores of the main side, and of VC1 to VC3 where `vents`, lose what they hold; VC0 never does (R14). -/
def State.dropCores (s : State) (vents : Bool) : State :=
  { s with cores := s.cores.filter (fun e => e.1 == 64 || !vents && 64 < e.1) }

/-- VC1 to VC3 lose what they hold with their domain (R14). -/
def State.dropVents (s : State) : State := { s with cores := s.cores.filter (fun e => e.1 ≤ 64) }

/-- Switch a domain on or off (R457). -/
def State.setDomain (s : State) (d : Nat) (on : Bool) : State :=
  let bit := 2 ^ d
  let have_ := s.domainOn d
  { s with power := { s.power with domains :=
      if on && !have_ then s.power.domains + bit else if !on && have_ then s.power.domains - bit else s.power.domains } }

def State.modPower (s : State) (f : Power → Power) : State := { s with power := f s.power }

/-- A wake event that requires a state no deeper than `req` (R465, R478): an entry stops, an exit goes to the shallower state. -/
def State.wakeTo (s : State) (req : Nat) : State :=
  let p := s.power
  match p.trans with
  | .leaving t => s.modPower (fun p => { p with trans := .leaving (min t req) })
  | .entering q =>
    if q ≤ req then s
    else s.modPower (fun p => { p with trans := if p.ps ≤ req then .settled else .leaving req })
  | .settled => if req < p.ps then s.modPower (fun p => { p with trans := .leaving req }) else s

def bitsOf (f : Nat → Bool) (n : Nat) : Nat := (List.range n).foldl (fun v i => v + b2n (f i) * 2 ^ i) 0

/-- A PLL is needed (R454). -/
def State.pllNeeded (s : State) (i : Nat) : Bool :=
  let p := s.power
  if i < 8 then p.ps ≤ 1 && (List.range 9).any (fun k => s.domainOn (9 * i + k))
  else if i == 8 then p.ps ≤ 2 && (s.domainOn 96 || s.domainOn 98)
  else if i == 9 then p.ps ≤ 3 && s.domainOn 96
  else if i == 10 then p.ps ≤ 3 && s.domainOn 98
  else i == 11 && (p.ps == 3 || (p.ps ≤ 2 && (List.range 8).any (fun g => s.domainOn (88 + g))))

/-- The PLLs after a change of domains from those of `old`: a PLL that is needed now and was not has started and locked, one that is
no longer needed has stopped, and one that relocks goes on (R454). -/
def State.pllsAfter (s old : State) : State :=
  s.modPower (fun p => { p with
    plls := bitsOf (fun i => s.pllNeeded i && (!old.pllNeeded i || p.plls.testBit i)) 12 })

/-- The state that the device reports (R458, R462): PS1 while a core is gated and no deeper state holds. -/
def State.pstate (s : State) : Nat :=
  if s.power.ps ≤ 1 then b2n (s.cores.any (fun e => e.2.gated)) else s.power.ps

/-! ### ST (R89) -/

def stLVL : Nat := 63
def stESC : Nat := 62
def stRESUME : Nat := 61
def stFTRAP : Nat := 13
def stAFFOK : Nat := 12
def stUNCOFF : Nat := 11
def stUNCSAT : Nat := 10
def stLATE : Nat := 9
def stFNV : Nat := 7
def stFDZ : Nat := 6
def stFOF : Nat := 5
def stFUF : Nat := 4
def stFNX : Nat := 3
def stDZ : Nat := 2
def stV : Nat := 1
def stC : Nat := 0

/-- The mask level `ML`. -/
def mlOf (st : Word64) : Nat := field st 55 52
/-- `FRM` (R60). -/
def frmOf (st : Word64) : Nat := field st 15 14
/-- Machine level (R156). -/
def Regs.machine (r : Regs) : Bool := bit r.st stLVL

/-! ### Context records (R190 to R194) -/

def State.rcell (s : State) (n c : Nat) : Cell := SMap.get 0 s.ctxStore (32 * n + c)
def State.setRec (s : State) (n c : Nat) (v : Cell) : State :=
  { s with ctxStore := SMap.set 0 s.ctxStore (32 * n + c) (normalize v) }
def State.auxOf (s : State) (n : Nat) : CtxAux := SMap.get {} s.aux n
def State.setAux (s : State) (n : Nat) (v : CtxAux) : State := { s with aux := SMap.set {} s.aux n v }
def State.modAux (s : State) (n : Nat) (f : CtxAux → CtxAux) : State := s.setAux n (f (s.auxOf n))

/-- A field of cell 24 to 26 written by hardware: the cell is RAW (R190). -/
def hwField (c : Cell) (hi lo v : Nat) : Cell := normalize (setField (setField c hi lo v) 127 120 tagRAW)

def State.setRecField (s : State) (n c hi lo v : Nat) : State := s.setRec n c (hwField (s.rcell n c) hi lo v)

def State.ctxState (s : State) (n : Nat) : Nat := field (s.rcell n 24) 83 81
/-- The context is resident; a vent core's never leaves it. -/
def State.ctxRes (s : State) (n : Nat) : Bool := 16384 ≤ n || bit (s.rcell n 24) 80
/-- The slot that holds a resident context. -/
def State.ctxAt (s : State) (n : Nat) : Cx :=
  if 16384 ≤ n then Cx.vent (n - 16384) else ⟨field (s.rcell n 24) 79 74, field (s.rcell n 24) 73 72⟩
def State.ctxWake (s : State) (n : Nat) : Nat := field (s.rcell n 24) 63 0
def State.ctxAsid (s : State) (n : Nat) : Nat := field (s.rcell n 25) 115 104
def State.ctxPri (s : State) (n : Nat) : Nat := field (s.rcell n 25) 103 101
def State.ctxClu (s : State) (n : Nat) : Nat := field (s.rcell n 25) 100 93
def State.ctxTol (s : State) (n : Nat) : Nat := field (s.rcell n 25) 92 85
def State.ctxLast (s : State) (n : Nat) : Nat := field (s.rcell n 25) 51 48
def State.ctxEmask (s : State) (n : Nat) : Nat := field (s.rcell n 25) 47 32
def State.ctxBudget (s : State) (n : Nat) : Nat := field (s.rcell n 25) 31 0
def State.ctxWmark (s : State) (n : Nat) : Nat := field (s.rcell n 26) 115 64
def State.setCtxState (s : State) (n v : Nat) : State := s.setRecField n 24 83 81 v

/-- ST of a context: live in its slot, else in the record. -/
def State.ctxSt (s : State) (n : Nat) : Word64 :=
  if s.ctxRes n then (s.regs (s.ctxAt n)).st else (s.rcell n 8).payload

/-- The contexts of the context store that some cell of it names: every other context is free and empty. -/
def State.contexts (s : State) : List Nat :=
  (s.ctxStore.foldr (fun e l => if l.head? == some (e.1 / 32) then l else e.1 / 32 :: l) []).filter (· < 16384)

/-! ### Free values (log entry 2) -/

/-- The next free value and the state with the counter advanced. -/
def State.fresh (s : State) : Word64 × State := (Config.freeValue s.freeCount, { s with freeCount := s.freeCount + 1 })

/-! ### Outputs and completion records -/

def State.emit (s : State) (o : Output) : State := { s with out := s.out ++ [o] }

/-- Present a completion record on collector port `p` (R211, R212). -/
def State.present (s : State) (r : Record) : State :=
  { s with ports := SMap.modify [] s.ports r.port (fun l => l ++ [r]) }

/-- The global time counter in ns (R356). -/
def State.now (s : State) : Nat := s.time.ns

/-- How early a stamp may be, and its free error above that, of the mode in force (R363). -/
def State.early (s : State) : Nat := if s.time.xmode == 0 then 4 else 8
def State.stampError (s : State) : Nat × State :=
  (s.fresh.1.toNat % (if s.time.xmode == 0 then 9 else 41), s.fresh.2)

/-- A time stamp taken through a clock-domain crossing (R363): the GTC with an error from −4 to +4 ns in FIXED mode and from
−8 to +32 ns in BOUNDED mode. Which error within the bounds is not stated: it is free (log entry 65). -/
def State.stamp (s : State) : Nat × State :=
  let e := s.stampError
  (s.now + e.1 - s.early, e.2)

/-- A read of the counter by a core (R357): exact, and no later read is below it. -/
def State.readGtc (s : State) : Nat × State := (s.now, { s with time := { s.time with readMax := s.now } })

/-- A read of the counter by a geyser, through a crossing (R363): never below an earlier read, nor above what a core would read
(R357, log entry 65). -/
def State.stampRead (s : State) : Nat × State :=
  let (v, t) := s.stamp
  let w := if s.now < v then s.now else if v < s.time.readMax then s.time.readMax else v
  (w, { t with time := { t.time with readMax := w } })

/-! ### Dictionary values (R403), by 256 × index + subindex -/

def dkey (index sub : Nat) : Nat := 256 * index + sub

/-- The little-endian value of an entry's bytes, or `d` where it holds its default. -/
def State.dictNat (s : State) (index sub d : Nat) : Nat :=
  match SMap.get none s.dict.vals (dkey index sub) with
  | some b => leValue b
  | none => d

/-- Set an entry's current value to `n` little-endian bytes of `v`. -/
def State.setDict (s : State) (index sub n v : Nat) : State :=
  { s with dict := { s.dict with vals := SMap.set none s.dict.vals (dkey index sub) (some (leBytes n v)) } }

/-- Set a persistent entry's current and journaled value (R408). -/
def State.setDictP (s : State) (index sub n v : Nat) : State :=
  let t := s.setDict index sub n v
  { t with jr := { t.jr with entries := SMap.set none t.jr.entries (dkey index sub) (some (leBytes n v)) } }

/-- Add 1 to a persistent counter of `n` bytes; it saturates. -/
def State.countUp (s : State) (index sub n : Nat) : State :=
  s.setDictP index sub n (satAt (2 ^ (8 * n) - 1) (s.dictNat index sub 0 + 1))

/-! ### Error records (R497 to R499) -/

/-- Write an error record; with ERRCHEN = 1 it posts through port 14 (R499). -/
def State.logErr (s : State) (src unit code sev addr det : Nat) : State :=
  let q := s.dep.errseq + 1
  let r : ErrRecord := ⟨q, src, unit, code, sev, s.now, addr, det⟩
  let t := { s with dep := { s.dep with errseq := q, staged := s.dep.staged ++ [r] } }
  if t.dictNat 0x8001 1 0 == 1 then
    t.present ⟨14, false, 0, t.dictNat 0x8001 0 0, 0, q % 2 ^ 32⟩
  else t

/-- The record of a mesh transfer that failed four times (R481, R498). -/
def State.meshLost (s : State) (pa : Nat) : State := s.logErr 5 0 0x0C 2 pa 0

/-- Count an event of a coalesced code (R498): one record per unit per second, whose `EDET` is the count. -/
def State.logCoalesced (s : State) (src unit code sev addr : Nat) : State :=
  let key := 256 * code + unit
  let sec := s.now / 1000000000
  match s.dep.coalesce.find? (fun e => e.1 == key && e.2.1 == sec) with
  | some (_, _, q, n) =>
    { s with
      dep := { s.dep with
        coalesce := s.dep.coalesce.map (fun e => if e.1 == key && e.2.1 == sec then (key, sec, q, n + 1) else e)
        staged := s.dep.staged.map (fun r => if r.seq == q then { r with det := n + 1 } else r) } }
  | none =>
    let t := s.logErr src unit code sev addr 1
    { t with
      dep := { t.dep with
        coalesce := (key, sec, t.dep.errseq, 1) :: t.dep.coalesce.filter (fun e => e.1 != key) } }

end Sys2Proof.Machine
end

