-- ==== Sys2Proof/Machine/Mem.lean ====
section
/-! DEFINITION. HBM by bytes and cells, the address map, the object caches, the L2s, the merging and write-around buffers,
scratch and poison (R2, R3, R21, R37, R38, R249, R267 to R292). `State.mem` is the coherent view: what the latest visible
store left. The values beneath dirty copies stand in `ocUnder` and `l2Under` (log entry 8). -/

namespace Sys2Proof.Machine

/-! ### Bytes -/

/-- What a byte of HBM that nothing has written reads as (log entry 1, DESIGN CHOICE). -/
def memDefault : Byte := 0

/-- The byte at `a`. -/
def readByte (m : List Host.Cell) (a : Nat) : Byte := SMap.get memDefault m a
/-- Write one byte; the list keeps its canonical form. -/
def writeByte (m : List Host.Cell) (a : Nat) (b : Byte) : List Host.Cell := SMap.set memDefault m a b
/-- `n` bytes from `a` upward. -/
def readBytes (m : List Host.Cell) : Nat → Nat → List Byte
  | 0, _ => []
  | n + 1, a => readByte m a :: readBytes m n (a + 1)
/-- Write bytes from `a` upward. -/
def writeBytes (m : List Host.Cell) (a : Nat) : List Byte → List Host.Cell
  | [] => m
  | b :: bs => writeBytes (writeByte m a b) (a + 1) bs

/-- The canonical form of memory: strictly rising addresses, no entry equal to what an unlisted byte reads as. -/
def Memory.wf (m : List Host.Cell) : Bool := SMap.wf memDefault m

/-- The cell at the 16-byte-aligned address `pa` (R3). -/
def State.cell (s : State) (pa : Nat) : Cell := BitVec.ofNat 128 (leValue (readBytes s.mem 16 pa))
/-- Write the cell at `pa`, its parity recomputed (R21). -/
def State.setCell (s : State) (pa : Nat) (c : Cell) : State :=
  { s with mem := writeBytes s.mem pa (cellBytes (normalize c)) }
/-- `n` cells from `pa`. -/
def State.cellsAt (s : State) : Nat → Nat → List Cell
  | 0, _ => []
  | n + 1, pa => s.cell pa :: s.cellsAt n (pa + 16)
/-- Write cells from `pa` upward. -/
def State.setCells (s : State) (pa : Nat) : List Cell → State
  | [] => s
  | c :: cs => (s.setCell pa c).setCells (pa + 16) cs
/-- The eight cells of granule `g`. -/
def State.granule (s : State) (g : Nat) : List Cell := s.cellsAt 8 (128 * g)

/-! ### The physical address space (R249) -/

/-- What lies at a physical address. -/
inductive Region where
  | hbm | device | absent | ventRam | ventRom
  deriving DecidableEq, Repr

/-- End of HBM: 48 GiB. -/
def hbmEnd : Nat := 0x000C_0000_0000
/-- Start of the device range. -/
def deviceBase : Nat := 0xFE00_0000_0000

/-- The size of the assigned device region that begins at 2^36 × `n` (R202, R219, R293, R299, R354, R359, R367, R398,
R399, R400, R428, R450, R467, R519 as the chapters assign them). -/
def deviceSpan (n : Nat) : Nat :=
  match n with
  | 0xFE0 => 0x10_0000
  | 0xFE1 => 0x1000
  | 0xFE2 => 0x4_8000
  | 0xFE3 => 0x8_0000
  | 0xFE4 => 0x1_1000
  | 0xFE5 => 0x1000
  | 0xFE6 => 0x9000
  | 0xFE7 => 0x1000
  | 0xFE8 => 0x1000
  | 0xFE9 => 0x1000
  | 0xFEA => 0x1000
  | _ => 0

/-- Vent RAM and vent ROM have no physical address (R163): in the model they follow the 48-bit address space, where only a
vent core's access reaches them. -/
def ventRamAt : Nat := 2 ^ 48
def ventRomAt : Nat := 2 ^ 48 + 2 ^ 20

/-- The region of a physical address. -/
def regionOf (pa : Nat) : Region :=
  if ventRamAt ≤ pa && pa < ventRamAt + 0x2_0000 then .ventRam
  else if ventRomAt ≤ pa && pa < ventRomAt + 0x8_0000 then .ventRom
  else if pa < hbmEnd then .hbm
  else if pa % 2 ^ 36 < deviceSpan (pa / 2 ^ 36) then .device
  else .absent

/-- The address lies in the device range of R249. -/
def inDeviceRange (pa : Nat) : Bool := deviceBase ≤ pa && pa < 2 ^ 48

/-! ### Poison (R292) -/

def State.poisoned (s : State) (g : Nat) : Bool := SMap.get false s.poison g
def State.setPoison (s : State) (g : Nat) (b : Bool) : State := { s with poison := SMap.set false s.poison g b }

/-! ### Values beneath dirty copies -/

def State.ocU (s : State) (g : Nat) : Option Under := SMap.get none s.ocUnder g
def State.l2U (s : State) (g : Nat) : Option Under := SMap.get none s.l2Under g
def State.setOcU (s : State) (g : Nat) (u : Option Under) : State := { s with ocUnder := SMap.set none s.ocUnder g u }
def State.setL2U (s : State) (g : Nat) (u : Option Under) : State := { s with l2Under := SMap.set none s.l2Under g u }

/-! ### L2 and its write-back queues (R267, R286) -/

/-- The set of granule `g` in the L2 of cluster `k`: the half by address bit [7], then 1,024 sets by the next bits (log
entry 8). -/
def l2Key (k g : Nat) : Nat := 2048 * k + g % 2048
/-- The half of the L2 of cluster `k` that holds granule `g`. -/
def halfKey (k g : Nat) : Nat := 2 * k + g % 2

def State.l2Set (s : State) (k g : Nat) : List Nat := SMap.get [] s.l2Lines (l2Key k g)
def State.putL2Set (s : State) (k g : Nat) (l : List Nat) : State :=
  { s with l2Lines := SMap.set [] s.l2Lines (l2Key k g) l }
/-- The L2 of cluster `k` holds granule `g`. -/
def State.l2Has (s : State) (k g : Nat) : Bool := (s.l2Set k g).contains g
def State.wbQueue (s : State) (k g : Nat) : List Nat := SMap.get [] s.l2Queue (halfKey k g)
def State.putWb (s : State) (k g : Nat) (l : List Nat) : State :=
  { s with l2Queue := SMap.set [] s.l2Queue (halfKey k g) l }

/-- Granule `g` leaves every write-back queue. -/
def State.unqueue (s : State) (g : Nat) : State :=
  if s.l2Queue.isEmpty then s
  else (List.range 8).foldl (fun t k => t.putWb k g ((t.wbQueue k g).filter (· != g))) s

/-! ### Which clusters hold a copy (R288) -/

/-- The set of granule `g` in an instruction cache of 128 sets (log entry 8). -/
def icSet (g : Nat) : Nat := g % 128

/-- An object cache or instruction cache of the core holds granule `g`. -/
def Core.copyOf (k : Core) (g : Nat) : Bool :=
  k.oc.any (fun e => e.line == g / 4 && bit e.valid (g % 4)) || (SMap.get [] k.icache (icSet g)).contains g

/-- Cluster `k` holds a copy of granule `g`: a cache of one of its cores, its L2, or its write-back queue. -/
def State.clusterHolds (s : State) (k g : Nat) : Bool :=
  s.l2Has k g || (s.wbQueue k g).contains g || s.cores.any (fun e => e.1 < 64 && e.1 / 8 == k && e.2.copyOf g)

/-- The 8-bit mask of one cluster. -/
def clusterBit (k : Nat) : BitVec 8 := BitVec.ofNat 8 (2 ^ (k % 8))

/-- The directory set of granule `g`: the home by address bit [8], then 16,384 sets by the other bits (log entry 8). -/
def dirKey (g : Nat) : Nat := g / 2 % 2 * 16384 + (g / 4 * 2 + g % 2) % 16384

def State.dirSet (s : State) (g : Nat) : List DirEntry := SMap.get [] s.dir (dirKey g)
def State.putDirSet (s : State) (g : Nat) (l : List DirEntry) : State := { s with dir := SMap.set [] s.dir (dirKey g) l }
def State.dirAt (s : State) (g : Nat) : Option DirEntry := (s.dirSet g).find? (fun e => e.granule == g)

/-- No cluster holds a copy: the entry is free. -/
def State.dirDrop (s : State) (g : Nat) : State := s.putDirSet g ((s.dirSet g).filter (fun e => e.granule != g))

/-- What a directory entry records once caches have dropped their copies: the clusters that still hold one, and nothing where none
does. -/
def DirEntry.trim (e : DirEntry) (holds : Nat → Bool) : Option DirEntry :=
  match e.owner with
  | some o => if holds o then some e else none
  | none =>
    let m := (List.range 8).foldl (fun (m : BitVec 8) k => if bit e.mask k && holds k then m ||| clusterBit k else m) 0
    if m == 0 then none else some { e with mask := m }

/-- Caches have dropped copies of granule `g`: its directory entry follows. -/
def State.dirTrim (s : State) (g : Nat) : State :=
  match s.dirAt g with
  | none => s
  | some e => s.putDirSet g ((s.dirSet g).filterMap (fun x => if x == e then e.trim (fun k => s.clusterHolds k g) else some x))

/-- The same for the granules of a line, and for every granule. -/
def State.dirTrimLine (s : State) (line : Nat) : State := (List.range 4).foldl (fun t n => t.dirTrim (4 * line + n)) s
def State.dirSweep (s : State) : State := (s.dir.flatMap (fun e => e.2.map (·.granule))).foldl (fun t g => t.dirTrim g) s

/-- No dirty copy of the granule remains: HBM holds the coherent value. -/
def State.cleaned (s : State) (g : Nat) : State := ((s.setOcU g none).setL2U g none).unqueue g

/-- The `n` oldest entries of a write-back queue are written to HBM. -/
def State.drainWb (s : State) (k g n : Nat) : State :=
  let l := s.wbQueue k g
  (l.take n).foldl (fun t x => (t.setL2U x none).dirTrim x) (s.putWb k g (l.drop n))

/-- How far a write-back queue has drained since it was last looked at is not stated: a free number of its oldest entries has
reached HBM (log entry 9). -/
def State.settleWb (s : State) (k g : Nat) : State :=
  let n := (s.wbQueue k g).length
  if n == 0 then s
  else
    let (v, t) := s.fresh
    t.drainWb k g (v.toNat % (n + 1))

/-- A dirty L2 victim enters its half's queue of 32 entries; with none free the oldest is written first. -/
def State.queueVictim (s : State) (k g : Nat) : State :=
  let t := s.settleWb k g
  let u := t.drainWb k g ((t.wbQueue k g).length - 31)
  u.putWb k g (u.wbQueue k g ++ [g])

/-- Granule `g` is put into the L2 of cluster `k` as the most recently used of its set (R286). Pseudo-least-recently-used
order is not stated further: a full set replaces a free one of the granules other than the most recently used. -/
def State.l2Put (s : State) (k g : Nat) : State :=
  let s := s.unqueue g
  let l := s.l2Set k g
  if l.contains g then s.putL2Set k g (g :: l.filter (· != g))
  else if l.length < 16 then s.putL2Set k g (g :: l)
  else
    let (v, t) := s.fresh
    let victim := nthD g l (1 + v.toNat % 15)
    let u := t.putL2Set k g (g :: l.filter (· != victim))
    match u.l2U victim with
    | some x => if x.cluster == k then u.queueVictim k victim else u.dirTrim victim
    | none => u.dirTrim victim

/-- A request that hits L2 makes the granule the most recently used of its set (R286). -/
def State.l2Touch (s : State) (k g : Nat) : State :=
  let l := s.l2Set k g
  if l.contains g && l.head? != some g then s.putL2Set k g (g :: l.filter (· != g)) else s

/-- Granule `g` leaves the L2s of the clusters that `keep` does not name. -/
def State.l2Drop (s : State) (g : Nat) (keep : Nat → Bool) : State :=
  (List.range 8).foldl (fun t k =>
    if keep k || !t.l2Has k g then t else t.putL2Set k g ((t.l2Set k g).filter (· != g))) s

/-! ### Copies in the L1 caches -/

/-- Granule `g` leaves an instruction cache. -/
def Core.dropCode (k : Core) (g : Nat) : Core :=
  { k with icache := SMap.set [] k.icache (icSet g) ((SMap.get [] k.icache (icSet g)).filter (· != g)) }

/-- Clear, and for `valid` also invalidate, sector `g` in one object cache. -/
def OcEntry.drop (e : OcEntry) (g : Nat) (valid : Bool) : OcEntry :=
  if e.line == g / 4 then
    { e with dirty := setBit e.dirty (g % 4) false, valid := if valid then setBit e.valid (g % 4) false else e.valid }
  else e

/-- Sector `g` of core `k` becomes clean, and for `valid` invalid. -/
def Core.dropGranule (k : Core) (g : Nat) (valid : Bool) : Core := { k with oc := k.oc.map (·.drop g valid) }

/-- The same in every core but those that `keep` names. -/
def State.dropCopies (s : State) (g : Nat) (valid : Bool) (keep : Nat → Bool) : State :=
  { s with cores := s.cores.map (fun e => if keep e.1 then e else (e.1, e.2.dropGranule g valid)) }

/-- Granule `g` leaves every instruction cache (R289). -/
def State.dropCode (s : State) (g : Nat) : State := { s with cores := s.cores.map (fun e => (e.1, e.2.dropCode g)) }

/-- Every copy of granule `g`, in L1 caches and L2s, is invalidated. -/
def State.dropAll (s : State) (g : Nat) : State :=
  ((s.dropCopies g true (fun _ => false)).dropCode g).l2Drop g (fun _ => false)

/-- Core `k` holds granule `g` dirty. -/
def Core.dirtyAt (k : Core) (g : Nat) : Bool := k.oc.any (fun e => e.line == g / 4 && bit e.dirty (g % 4))

/-! ### The directories (R288) -/

/-- A directory entry that is replaced recalls its granule: dirty data is written to HBM and every copy is invalidated. -/
def State.recall (s : State) (g : Nat) : State := ((s.dropAll g).cleaned g).dirDrop g

/-- Record a granule's state at its home; a full set first replaces an entry, which one is not stated: a free value. -/
def State.dirPut (s : State) (e : DirEntry) : State :=
  let l := s.dirSet e.granule
  if l.any (fun x => x.granule == e.granule) then
    s.putDirSet e.granule (l.map (fun x => if x.granule == e.granule then e else x))
  else if l.length < 16 then s.putDirSet e.granule (l ++ [e])
  else
    let (v, t) := s.fresh
    let u := t.recall (nthD e l (v.toNat % 16)).granule
    u.putDirSet e.granule (u.dirSet e.granule ++ [e])

/-- Cluster `k` takes a copy: the granule is shared, or stays exclusive in the cluster that alone holds it (log entry 8). -/
def State.dirShare (s : State) (k g : Nat) : State :=
  match s.dirAt g with
  | some ⟨_, some o, _⟩ => if o == k then s else s.dirPut ⟨g, none, clusterBit o ||| clusterBit k⟩
  | some ⟨_, none, m⟩ => if m &&& clusterBit k == clusterBit k then s else s.dirPut ⟨g, none, m ||| clusterBit k⟩
  | none => s.dirPut ⟨g, none, clusterBit k⟩

/-- Cluster `k` holds the only copy. -/
def State.dirOwn (s : State) (k g : Nat) : State :=
  if s.dirAt g == some ⟨g, some k, 0⟩ then s else s.dirPut ⟨g, some k, 0⟩

/-- The exclusive copy of a granule becomes clean and shared (R289). -/
def State.dirCleaned (s : State) (g : Nat) : State :=
  match s.dirAt g with
  | some ⟨_, some o, _⟩ => s.dirPut ⟨g, none, clusterBit o⟩
  | _ => s

/-! ### Requests of the cores (R288, R289) -/

/-- The dirty object-cache copy of a granule goes to its cluster's L2 (R287). -/
def State.ocToL2 (s : State) (g : Nat) : State :=
  match s.ocU g with
  | none => s
  | some u => ((match s.l2U g with | none => s.setL2U g (some u) | some _ => s).setOcU g none).l2Put u.cluster g

/-- A dirty copy held by a cluster other than `k` is written to HBM (R289). -/
def State.recallFrom (s : State) (g k : Nat) : State :=
  let foreign := (match s.ocU g with | some u => u.cluster != k | none => false) ||
    (match s.l2U g with | some u => u.cluster != k | none => false)
  if foreign then ((s.dropCopies g false (fun _ => false)).cleaned g).dirCleaned g else s

/-- A load of granule `g` by core `c` (R288, R289): a dirty copy of another cluster is written to HBM and becomes shared;
a dirty copy of a sibling core goes to the L2 (log entry 8). -/
def State.shareFor (s : State) (c g : Nat) : State :=
  let t := (s.recallFrom g (c / 8)).l2Touch (c / 8) g
  if (t.core c).dirtyAt g || (t.ocU g).isNone then t else (t.ocToL2 g).dropCopies g false (fun n => n == c)

/-- A store to granule `g` by core `c` (R289): every other copy, instruction-cache copies included, is discarded, and the
cluster holds the granule exclusive. -/
def State.claimFor (s : State) (c g : Nat) : State :=
  let t := ((s.recallFrom g (c / 8)).dropCopies g true (fun n => n == c)).dropCode g
  (t.l2Drop g (fun k => k == c / 8)).dirOwn (c / 8) g

/-! ### Uncached agents (R289) -/

/-- The controller of a granule (R288). -/
def hcOf (g : Nat) : Nat := g / 2 % 2

/-- In PS3 the granule's controller leaves self-refresh to serve an access (R459). -/
def State.hbmServes (s : State) (g : Nat) : State :=
  if s.power.selfRefresh.contains (hcOf g) then
    s.modPower (fun p => { p with selfRefresh := p.selfRefresh.filter (· != hcOf g) })
  else s

/-- A read by an uncached agent: a dirty copy becomes clean and shared. -/
def State.agentClean (s : State) (g : Nat) : State :=
  if (s.ocU g).isNone && (s.l2U g).isNone then s
  else ((s.dropCopies g false (fun _ => false)).cleaned g).dirCleaned g

/-- Before a write by an uncached agent: every copy is invalidated and HBM holds the latest value. -/
def State.agentTake (s : State) (g : Nat) : State := s.recall g

/-- The granules that bytes `a` to `a + n − 1` touch. -/
def granulesOf (a n : Nat) : List Nat :=
  if n == 0 then [] else (List.range ((a + n - 1) / 128 + 1 - a / 128)).map (· + a / 128)

/-- An uncached read of one cell. -/
def State.agentRead (s : State) (pa : Nat) : Cell × State := (s.cell pa, (s.agentClean (pa / 128)).hbmServes (pa / 128))

/-- An uncached write of one cell. -/
def State.agentWrite (s : State) (pa : Nat) (c : Cell) : State := ((s.agentTake (pa / 128)).hbmServes (pa / 128)).setCell pa c

/-- An uncached read of `n` bytes. -/
def State.agentBytes (s : State) (a n : Nat) : List Byte × State :=
  (readBytes s.mem n a, (granulesOf a n).foldl (fun t g => (t.agentClean g).hbmServes g) s)

/-- Merge the bytes of `data`, which begin at `a`, into the cells they touch (R38), parity recomputed. -/
def mergeBytes (m : List Host.Cell) (a : Nat) (data : List Byte) : List Host.Cell :=
  let m1 := writeBytes m a data
  let first := a / 16
  let last := (a + data.length - 1) / 16
  if data.isEmpty then m
  else (List.range (last + 1 - first)).foldl
    (fun t i =>
      let pa := 16 * (first + i)
      writeBytes t pa (cellBytes (normalize (BitVec.ofNat 128 (leValue (readBytes t 16 pa)))))) m1

/-- An uncached write of bytes: every copy is invalidated, HBM is written, and a granule written whole loses its poison
(R38, R289, R292). -/
def State.agentPut (s : State) (a : Nat) (data : List Byte) : State :=
  let gs := granulesOf a data.length
  let t := gs.foldl (fun t g => (t.agentTake g).hbmServes g) s
  let t := gs.foldl (fun t g => if a ≤ 128 * g && 128 * g + 128 ≤ a + data.length then t.setPoison g false else t) t
  { t with mem := mergeBytes t.mem a data }

/-! ### L2 writes -/

/-- Cells written to the L2 of core `c`'s cluster as one write (R273, R274, R294): the granule is the cluster's own, the
writing core's own copy stays valid and clean, every other copy is discarded. -/
def State.l2Write (s : State) (c g : Nat) (cells : List (Nat × Cell)) : State :=
  let t := ((s.recallFrom g (c / 8)).ocToL2 g).claimFor c g
  let t := (t.dropCopies g false (fun n => n != c)).l2Put (c / 8) g
  let t := match t.l2U g with
    | some _ => t
    | none => t.setL2U g (some ⟨c / 8, t.granule g⟩)
  cells.foldl (fun u e => u.setCell e.1 e.2) t

/-- Drain one entry of a merging buffer (R274). -/
def State.drainEntry (s : State) (c : Nat) (e : MergeEntry) : State :=
  s.l2Write c e.granule (e.cells.map (fun p => (128 * e.granule + 16 * p.1, p.2)))

/-- Drain the whole merging buffer of core `c`, oldest first (R274). -/
def State.drainMerge (s : State) (c : Nat) : State :=
  let l := (s.core c).merge
  l.foldl (fun t e => t.drainEntry c e) (s.modCore c (fun k => { k with merge := [] }))

/-- The contents of a slot's write-around buffer are written to L2 (R273): a full sector claimed without fetch clears
poison, a part is merged. -/
def State.flushAround (s : State) (q : Cx) : State :=
  let d := (s.slot q).det
  match d.buf with
  | [] => s
  | (a, _) :: _ =>
    let g := a / 128
    let t := s.modSlot q (fun v => { v with det := { v.det with buf := [] } })
    let t := if d.buf.length == 8 then t.setPoison g false else t
    t.l2Write q.core g d.buf

/-- Write-around and any run end (R273 item 5). -/
def State.endAround (s : State) (q : Cx) : State :=
  let t := s.flushAround q
  if (t.slot q).det == {} then t else t.modSlot q (fun v => { v with det := {} })

/-! ### The object cache (R268 to R273, R287) -/

/-- Unlocked entries that core `k` has. -/
def Core.ocCapacity (k : Core) : Nat := 48 - k.lockn

def Core.ocFind (k : Core) (line : Nat) : Option OcEntry := k.oc.find? (fun e => e.line == line)

/-- Put an entry in front: the most recently used. -/
def Core.ocFront (k : Core) (e : OcEntry) : Core := { k with oc := e :: k.oc.filter (fun x => x.line != e.line) }

def Core.missFind (k : Core) (line : Nat) : Option MissReg := k.miss.find? (fun r => r.line == line)

/-- A replaced entry's sectors are offered to L2 (R287): a dirty one is accepted; a clean one is declined, and counted, where
L2 already holds the granule or the write-back queue of its half holds at least 24 entries, and else accepted. -/
def State.offer (s : State) (c : Nat) (e : OcEntry) : State :=
  (List.range 4).foldl (fun t n =>
    let g := 4 * e.line + n
    if bit e.dirty n then t.ocToL2 g
    else if bit e.valid n then
      let u := t.settleWb (c / 8) g
      if u.l2Has (c / 8) g || 24 ≤ (u.wbQueue (c / 8) g).length then
        { u with l2 := SMap.modify {} u.l2 (c / 8) (fun r => { r with decl := (r.decl + 1) % 2 ^ 64 }) }
      else u.l2Put (c / 8) g
    else t) s

/-- Take entry for a line: the least recently used among unlocked entries with no busy miss register (R269). -/
def State.allocEntry (s : State) (c line : Nat) (wt : Bool) : State :=
  let k := s.core c
  match k.ocFind line with
  | some e => s.setCore c (k.ocFront { e with wt := wt })
  | none =>
    if k.oc.length < k.ocCapacity then s.setCore c (k.ocFront ⟨line, 0, 0, wt⟩)
    else
      match k.oc.reverse.find? (fun e => (k.missFind e.line).isNone) with
      | none => s
      | some v =>
        let t := s.offer c v
        (t.modCore c (fun k =>
          { k with oc := ⟨line, 0, 0, wt⟩ :: k.oc.filter (fun x => x.line != v.line) })).dirTrimLine v.line

/-- The sector of `pa` is valid in core `c`'s object cache. -/
def Core.ocHit (k : Core) (pa : Nat) : Bool :=
  match k.ocFind (pa / 512) with | some e => bit e.valid (pa / 128 % 4) | none => false

/-- Why an access or a maintenance instruction waits (R270, R279, R282): every miss register is busy with other lines or the
line is held; the sector of a cell, missing or requested; a busy register of a line; busy registers in a window to be locked; the
next boundary of a context to be reset (R506). -/
inductive Wait where
  | sector (pa : Nat) (wt : Bool)
  | line (l : Nat)
  | window
  | boundary
  deriving DecidableEq, Repr

/-- An access to a valid sector makes its entry the most recently used; a store sets the dirty bit (R269, R273). -/
def State.ocTouch (s : State) (c pa : Nat) (store : Bool) : State :=
  let k := s.core c
  match k.ocFind (pa / 512) with
  | some e => s.setCore c (k.ocFront (if store then { e with dirty := setBit e.dirty (pa / 128 % 4) true } else e))
  | none => s

/-- A slot of the core holds on a line (R279). -/
def Core.holds (k : Core) (line : Nat) : Bool := k.slots.any (fun e => e.2.hold == some line)

/-- A miss is presented (R269, R270): it merges into the busy register of its line, or takes a free register and an entry;
with neither, or while a maintenance instruction holds on the line, it waits. -/
def State.presentMiss (s : State) (c pa : Nat) (wt : Bool) : State :=
  let line := pa / 512
  let sec := pa / 128 % 4
  let k := s.core c
  if k.ocHit pa || k.holds line then s
  else
    match k.missFind line with
    | some _ =>
      s.setCore c { k with miss := k.miss.map (fun x => if x.line == line then { x with mask := setBit x.mask sec true } else x) }
    | none =>
      if 8 ≤ k.miss.length then s
      else (s.allocEntry c line wt).modCore c (fun k => { k with miss := k.miss ++ [⟨line, setBit 0 sec true⟩] })

/-- The eight cells beneath a sector that becomes dirty are kept (log entry 8). -/
def State.noteDirty (s : State) (c g : Nat) : State :=
  match s.ocU g with
  | some _ => s
  | none => s.setOcU g (some ⟨c / 8, s.granule g⟩)

/-! ### Loads and stores of a core -/

/-- Release every locked entry of a core (R285). -/
def Core.unlock (k : Core) : Core := { k with lockn := 0, lbase := 0, scratch := [], scratchBad := [] }

/-- `pa` lies in the scratch window of core `k` (R282, R283). -/
def Core.inScratch (k : Core) (pa : Nat) : Bool := 0 < k.lockn && k.lbase ≤ pa && pa < k.lbase + 512 * k.lockn

/-- The object cache is enabled and was never invalidated since power-on reset (R294). -/
def Core.undefinedCache (k : Core) : Bool := k.den && !k.ocDefined

/-- The value that a slot's own buffers hold for a cell (R273, R274). -/
def State.buffered (s : State) (q : Cx) (pa : Nat) : Option Cell :=
  match (s.slot q).det.buf.find? (fun e => e.1 == pa) with
  | some e => some e.2
  | none =>
    match (s.core q.core).merge.find? (fun e => e.granule == pa / 128) with
    | some e => (e.cells.find? (fun p => p.1 == pa / 16 % 8)).map (·.2)
    | none => none

/-- The copy of a cell that waits in a slot's buffers becomes `n` (R226). -/
def State.healBuffered (s : State) (q : Cx) (pa : Nat) (n : Cell) : State :=
  if (s.slot q).det.buf.any (fun e => e.1 == pa) then
    s.modSlot q (fun v => { v with
      det := { v.det with buf := v.det.buf.map (fun e => if e.1 == pa then (e.1, n) else e) } })
  else
    s.modCore q.core (fun k => { k with merge := k.merge.map (fun e =>
      if e.granule == pa / 128 then
        { e with cells := e.cells.map (fun p => if p.1 == pa / 16 % 8 then (p.1, n) else p) }
      else e) })

/-- The cell that a load of HBM by a slot returns (R273 to R275, R283). -/
def State.loadValue (s : State) (q : Cx) (pa : Nat) : Cell :=
  if (s.core q.core).inScratch pa then SMap.get 0 (s.core q.core).scratch pa
  else (s.buffered q pa).getD (s.cell pa)

/-- What a load of HBM by a slot does to the caches (R269, R270, R274, R294), or why it waits. -/
def State.loadTouch (s : State) (q : Cx) (pa : Nat) (wt : Bool) : Except Wait State :=
  let k := s.core q.core
  if q.isVent then .ok ((s.agentClean (pa / 128)).hbmServes (pa / 128))
  else if k.inScratch pa then .ok s
  else if !k.den then .ok (if (s.buffered q pa).isSome then s else s.shareFor q.core (pa / 128))
  else if k.ocHit pa then .ok (s.ocTouch q.core pa false)
  else if (s.buffered q pa).isSome then .ok s
  else .error (.sector pa wt)

/-- Put a cell into the merging buffer of a core (R274). -/
def State.mergePut (s : State) (c pa : Nat) (v : Cell) : State :=
  let g := pa / 128
  let ix := pa / 16 % 8
  let k := s.core c
  if k.merge.any (fun e => e.granule == g) then
    s.setCore c { k with merge := k.merge.map (fun e =>
      if e.granule == g then { e with cells := e.cells.filter (fun p => p.1 != ix) ++ [(ix, v)] } else e) }
  else if k.merge.length < 8 then s.setCore c { k with merge := k.merge ++ [⟨g, [(ix, v)]⟩] }
  else
    match k.merge with
    | [] => s
    | e :: l => (s.setCore c { k with merge := l ++ [⟨g, [(ix, v)]⟩] }).drainEntry c e

/-- The detector's account of a store to the cell at `pa` (R273 items 1, 2 and 5). -/
def Detector.feed (d : Detector) (pa : Nat) : Detector :=
  if d.next == some pa then
    let runs := if pa % 128 == 112 then d.runs + 1 else d.runs
    { d with next := some (pa + 16), runs := runs, around := d.around || decide (4 ≤ runs) }
  else if pa % 128 == 0 then { next := some (pa + 16), runs := 0, around := false, buf := d.buf }
  else { next := .none, runs := 0, around := false, buf := d.buf }

/-- The store goes into the slot's write-around buffer (R273 item 3): it is the next one expected and misses the object
cache. -/
def State.goesAround (s : State) (q : Cx) (pa : Nat) (wt feeds : Bool) : Bool :=
  let k := s.core q.core
  let d := (s.slot q).det
  k.den && !k.inScratch pa && !wt && feeds && d.around && d.next == some pa && !k.ocHit pa

/-- A store into the write-around buffer, which a full sector writes to L2. -/
def State.storeAround (s : State) (q : Cx) (pa : Nat) (v : Cell) : State :=
  let s1 := if (s.slot q).det.buf.any (fun e => e.1 / 128 != pa / 128) then s.flushAround q else s
  let s2 := s1.modSlot q (fun w => { w with det := { w.det.feed pa with buf := w.det.buf ++ [(pa, v)] } })
  if (s2.slot q).det.buf.length == 8 then s2.flushAround q else s2

/-- A store to a write-back page (R273). `feeds` = the store feeds the stream detector; whether one that does not (MOVCD, and ZLINE
in `zeroLine`) breaks a run is not stated, and the detector stays as it was (log entry 132). What waits in the slot's buffer
is earlier in program order and becomes visible first (R275). -/
def State.storeBack (s : State) (q : Cx) (pa : Nat) (v : Cell) (feeds : Bool) : Except Wait State :=
  let c := q.core
  if s.goesAround q pa false feeds then .ok (s.storeAround q pa v)
  else if !(s.core c).den then .ok ((s.endAround q).l2Write c (pa / 128) [(pa, v)])
  else if !(s.core c).ocHit pa then .error (.sector pa false)
  else
    let s1 := ((s.flushAround q).claimFor c (pa / 128)).ocTouch c pa true
    let s2 := (s1.noteDirty c (pa / 128)).setCell pa v
    .ok (if feeds then s2.modSlot q (fun w => { w with det := w.det.feed pa }) else s2)

/-- A store by a slot to HBM (R273 to R275, R283), or why it waits. A store to scratch or to a write-through page is a store
to another cell than the run's next: the run ends. -/
def State.storeHbm (s : State) (q : Cx) (pa : Nat) (v : Cell) (wt feeds : Bool) : Except Wait State :=
  let k := s.core q.core
  if q.isVent then .ok (s.agentWrite pa v)
  else if k.inScratch pa then
    let t := s.endAround q
    .ok (t.modCore q.core (fun k =>
      { k with scratch := SMap.set 0 k.scratch pa (normalize v), scratchBad := k.scratchBad.filter (· != pa) }))
  else if wt then
    let t := s.endAround q
    .ok ((if k.ocHit pa then t.ocTouch q.core pa false else t).mergePut q.core pa (normalize v))
  else s.storeBack q pa (normalize v) feeds

/-- The access of XCHG, CAS and FENCE waits for every earlier store (R112, R274, R275): the core's merging buffer and the
slot's write-around buffer are written out. -/
def State.orderStores (s : State) (q : Cx) : State := (s.flushAround q).drainMerge q.core

/-! ### Maintenance (R278 to R285) -/

/-- An invalidation reaches a line in the scratch windows of the cores that hold it: `LKHIT` (R284). -/
def State.hitLocked (s : State) (line : Nat) : State :=
  { s with cores := s.cores.map (fun e =>
      if e.2.inScratch (512 * line) then (e.1, { e.2 with lkhit := true }) else e) }

/-- DINV of one granule: HBM keeps its value. -/
def State.invGranule (s : State) (g : Nat) : State :=
  let t := match s.l2U g, s.ocU g with
    | some u, _ => s.setCells (128 * g) (u.cells.take 8)
    | none, some u => s.setCells (128 * g) (u.cells.take 8)
    | none, none => s
  t.recall g

/-- DCLEAN of one granule: every dirty copy is written to HBM; the copies stay valid and clean. -/
def State.cleanGranule (s : State) (g : Nat) : State := (s.dropCopies g false (fun _ => false)).cleaned g

/-- Offer the valid sectors of a line that DCINV cleans and invalidates to their L2s (R287). -/
def State.offerLine (s : State) (line : Nat) : State :=
  s.cores.foldl (fun t e => match e.2.ocFind line with
    | some o => t.offer e.1 o
    | none => t) s

/-- What a device-wide maintenance instruction does to a granule: 0 invalidate, 1 clean, 2 clean and invalidate. -/
def State.maintGranule (s : State) (op g : Nat) : State :=
  if op == 0 then s.invGranule g
  else if op == 1 then s.cleanGranule g
  else s.recall g

/-- The same on the four granules of a line, with `LKHIT` for the invalidating ones (R278, R284). -/
def State.maintLine (s : State) (op line : Nat) : State :=
  let t := if op == 1 then s else s.hitLocked line
  let t := if op == 2 then t.offerLine line else t
  (List.range 4).foldl (fun u n => u.maintGranule op (4 * line + n)) t

/-- DINVALL on a core (R278, R281): every unlocked entry is invalidated without write-back. -/
def State.invalidateAll (s : State) (c : Nat) : State :=
  let k := s.core c
  let t := k.oc.foldl (fun t e => (List.range 4).foldl (fun u n =>
    let g := 4 * e.line + n
    if bit e.dirty n then
      match u.ocU g with
      | some x => (u.setCells (128 * g) (x.cells.take 8)).setOcU g none
      | none => u
    else u) t) s
  (t.modCore c (fun k => { k with oc := k.oc.map (fun e => { e with valid := 0, dirty := 0 }) })).dirSweep

/-- Write back and invalidate one entry of a core. R287 names the entries that are replaced and those of R278; that the clean
sectors of an entry written back for L1LOCK, `DEN` 0, PS2 or retirement are offered too is the model's choice (log entry
133). -/
def State.writeBackEntry (s : State) (c : Nat) (e : OcEntry) : State :=
  ((s.offer c e).modCore c (fun k =>
    { k with oc := k.oc.map (fun x => if x.line == e.line then { x with valid := 0, dirty := 0 } else x) })).dirTrimLine e.line

/-- Write back and invalidate every unlocked entry of a core (R294). -/
def State.writeBackAll (s : State) (c : Nat) : State :=
  (s.core c).oc.foldl (fun t e => t.writeBackEntry c e) s

/-- The entries of a core's merging buffer that lie in a line drain (R278). -/
def State.drainLine (s : State) (c line : Nat) : State :=
  let l := (s.core c).merge
  (l.filter (fun e => e.granule / 4 == line)).foldl (fun t e => t.drainEntry c e)
    (s.modCore c (fun k => { k with merge := l.filter (fun e => e.granule / 4 != line) }))

/-- ZLINE of a line by a slot (R40, R278, R284): claimed without fetch, every other copy discarded. The slot's earlier stores
become visible first (R275, R278). In the core's own scratch window every other copy is discarded and nothing is written. A vent
core has no cache: its write reaches HBM at the home (R289). -/
def State.zeroLine (s : State) (q : Cx) (line : Nat) : State :=
  let c := q.core
  let k := s.core c
  let gs := (List.range 4).map (fun n => 4 * line + n)
  let s1 := ((s.hitLocked line).flushAround q).drainLine c line
  let s2 := gs.foldl (fun u g => u.invGranule g) s1
  if q.isVent then
    (gs.foldl (fun u g => (u.setPoison g false).hbmServes g) s2).setCells (512 * line) (List.replicate 32 0)
  else if k.inScratch (512 * line) then s2
  else
    let s3 := gs.foldl (fun u g => u.setPoison g false) s2
    if !k.den then
      gs.foldl (fun u g => u.l2Write c g ((List.range 8).map (fun i => (128 * g + 16 * i, (0 : Cell))))) s3
    else
      let s4 := gs.foldl (fun u g => (u.claimFor c g).noteDirty c g) s3
      let s5 := s4.allocEntry c line false
      let s6 := s5.modCore c (fun k =>
        { k with oc := k.oc.map (fun e => if e.line == line then { e with valid := 0xF, dirty := 0xF } else e) })
      s6.setCells (512 * line) (List.replicate 32 0)

/-! ### The instruction cache (R267, R286, R294) -/

/-- A fetch of granule `g` by core `c`: with the instruction cache enabled a miss fills L2 and the cache, in whose set a free
one of four lines is replaced (the spec gives no order; log entry 8). -/
def State.fetchTouch (s : State) (c g : Nat) : State :=
  let k := s.core c
  let l := SMap.get [] k.icache (icSet g)
  if !k.ien then (if (s.ocU g).isNone && (s.l2U g).isNone then s.l2Touch (c / 8) g else s.shareFor c g)
  else if l.contains g then s
  else
    let t := ((s.shareFor c g).l2Put (c / 8) g).dirShare (c / 8) g
    let put := fun (u : State) (old : List Nat) =>
      u.modCore c (fun k => { k with icache := SMap.set [] k.icache (icSet g) (old ++ [g]) })
    let now := SMap.get [] (t.core c).icache (icSet g)
    if now.length < 4 then put t now
    else
      let (v, u) := t.fresh
      let old := nthD g now (v.toNat % 4)
      (put u (now.filter (· != old))).dirTrim old

/-- Before DINVALL the cache holds dirty state of its own making, which can be written back over any HBM address (R294):
whether it is, where and with what are free values. -/
def State.strayWrite (s : State) : State :=
  let (b, s0) := s.fresh
  if !bit b 0 then s0
  else
    let (a, s1) := s0.fresh
    foldUp (fun i t =>
      let (x, t1) := t.fresh
      let (y, t2) := t1.fresh
      t2.setCell (128 * (a.toNat % (hbmEnd / 128)) + 16 * i) (x ++ y)) 8 0 s1

end Sys2Proof.Machine
end

