-- ==== Sys2Proof/Machine/Context.lean ====
section
/-! DEFINITION. Contexts and causes: posts to channels, pending causes and their order, the progress that a stopped
instruction leaves, taking a cause (R165 to R178), eviction and fill, and the notices of vent firmware (chapters 08, 09
and R519). -/

namespace Sys2Proof.Machine

/-! ### Causes (R167 to R169) -/

def cTAG_MISMATCH : Nat := 0x01
def cTAG_RESERVED : Nat := 0x02
def cDIM_MISMATCH : Nat := 0x03
def cDIM_OVERFLOW : Nat := 0x04
def cAFFINE : Nat := 0x05
def cFIX_OVERFLOW : Nat := 0x06
def cDIV_ZERO : Nat := 0x07
def cCAP_BOUNDS : Nat := 0x08
def cCAP_RIGHTS : Nat := 0x09
def cCAP_SEALED : Nat := 0x0A
def cCAP_TAG : Nat := 0x0B
def cTLB_MISS_I : Nat := 0x0C
def cTLB_MISS_D : Nat := 0x0D
def cPAGE_PROT : Nat := 0x0E
def cUNDEF_OP : Nat := 0x10
def cRESERVED_FIELD : Nat := 0x11
def cPRIV : Nat := 0x12
def cMCALL : Nat := 0x13
def cBREAK : Nat := 0x14
def cSTACK_LIMIT : Nat := 0x15
def cPARITY_REPLAY_FAIL : Nat := 0x16
def cCACHE_DIRTY_PARITY : Nat := 0x17
def cBUS_ERROR : Nat := 0x18
def cWALK_DEVICE : Nat := 0x19
def cESCALATED : Nat := 0x1A
def cMICROCODE_CHECK : Nat := 0x1B
def cHEAP_LIMIT : Nat := 0x1C
def cINTERRUPT : Nat := 0x20
def cWATCHDOG : Nat := 0x22
def cPOWER_FAIL : Nat := 0x23
def cTHERMAL : Nat := 0x24
def cCORE_RETIRE : Nat := 0x25

/-- The level of a cause (R169); `sub` is the vector of an INTERRUPT. -/
def causeLevel (code sub : Nat) : Nat :=
  if code == cTLB_MISS_I || code == cTLB_MISS_D || code == cPAGE_PROT || code == cWALK_DEVICE then 8
  else if code == cBREAK then 9
  else if code == cPARITY_REPLAY_FAIL || code == cCACHE_DIRTY_PARITY || code == cMICROCODE_CHECK then 12
  else if code == cBUS_ERROR then 10
  else if code == cINTERRUPT then sub / 16
  else if code == cWATCHDOG then 6
  else if code == cPOWER_FAIL then 14
  else if code == cTHERMAL then 11
  else if code == cCORE_RETIRE then 3
  else 4

/-- A cause as it arises (R167, R168). -/
structure Trap where
  code : Nat
  sub : Nat := 0
  acc : Nat := 0
  opn : Nat := 0
  faddr : Nat := 0
  iword : Word32 := 0
  deriving DecidableEq, Repr

/-- The cell that a cause writes to `MCA` (R167). -/
def Trap.cell (t : Trap) : Cell :=
  mkCell tagRAW 0 (t.faddr / 16)
    (t.iword.toNat * 2 ^ 32 + (t.opn % 16) * 2 ^ 24 + (t.acc % 16) * 2 ^ 20 + (t.sub % 256) * 256 + t.code % 256)

def Trap.level (t : Trap) : Nat := causeLevel t.code t.sub

/-- `MCA` of an escalated entry (R171). -/
def escalatedCell : Cell := mkCell tagRAW 0 0 cESCALATED

/-! ### Slot addresses (R93) -/

/-- The slot after `a`. The spec does not say what follows the last slot of the 56-bit space: the model goes on at 0 (log entry
105). -/
def nextSlot (a : Nat) : Nat := if a.testBit 2 then (a + 12) % 2 ^ 56 else a + 4
/-- Slot number of a slot address. -/
def slotNumber (a : Nat) : Nat := 2 * (a / 16) + b2n (a.testBit 2)
/-- The slot address of a slot number. -/
def slotAddress (n : Nat) : Nat := 16 * (n / 2) + 4 * (n % 2)

/-! ### Event channels (R202 to R208) -/

def State.chan (s : State) (n : Nat) : Channel := SMap.get {} s.channels n
def State.setChan (s : State) (n : Nat) (c : Channel) : State := { s with channels := SMap.set {} s.channels n c }

/-! ### Microcode banks and gated cores (R462, R493) -/

def State.modDep (s : State) (f : Depend → Depend) : State := { s with dep := f s.dep }

/-- The activation of a microcode patch is over once no powered core has still to switch (R493). -/
def State.mcFinish (s : State) : State :=
  if s.dep.mcstate != 4 || !s.dep.mcTodo.isEmpty then s
  else
    (s.modDep (fun d => { d with mcstate := 5, mcActive := d.mcStaged, mcStaged := none })).logErr 12 0 0x16 0 0
      ((s.dep.mcStaged.map (·.level)).getD 0)

/-- Match register `r` of a patch image, and its bank word `w` (R513). -/
def McPatch.regAt (p : McPatch) (r : Nat) : Nat := leValue ((p.words.drop (16384 + 8 * r)).take 8)
def McPatch.word (p : McPatch) (w : Nat) : Nat := leValue ((p.words.drop (16 * w)).take 16)

/-- The banks with `active` in force: its match values are loaded (R493). -/
def PatchBanks.of (active idle : McPatch) : PatchBanks :=
  { active := active, idle := idle, regs := if active.words.isEmpty then [] else (List.range 32).map active.regAt }

/-- The bank word to which a valid match register redirects a ROM word address, if one does (R491, R513). -/
def PatchBanks.redirect (b : PatchBanks) (a : Nat) : Option Nat :=
  (b.regs.find? (fun r => r.testBit 63 && r % 16384 == a)).map (fun r => r / 16384 % 1024)

/-- The microcode word that a core runs at ROM word address `a`, 0 to 16,383 (R491). -/
def PatchBanks.fetch (b : PatchBanks) (a : Nat) : Nat :=
  match b.redirect a with
  | some w => b.active.word w
  | none => (Config.mcRom a).toNat

/-- A core exchanges its banks for a patch that is being activated, if it has not done so yet (R493). -/
def State.switchBanks (s : State) (c : Nat) : State :=
  if s.dep.mcstate != 4 || !s.dep.mcTodo.contains c then s
  else
    ((s.modCore c (fun k => { k with patch := .of k.patch.idle k.patch.active })).modDep (fun d => { d with
      mcTodo := d.mcTodo.filter (· != c) })).mcFinish

/-- A gated core resumes; it switches its banks before its next instruction (R462, R493). -/
def State.ungate (s : State) (c : Nat) : State :=
  if (s.core c).gated then (s.modCore c (fun k => { k with gated := false })).switchBanks c else s

/-! ### Readiness and sleep -/

/-- A context becomes ready: `STATE` 2, behind those that became placeable earlier (R198); a gated core that holds it
resumes (R462), and the device wakes (R465). -/
def State.makeReady (s : State) (n : Nat) : State :=
  let t := (s.setCtxState n 2).modAux n (fun a => { a with seq := s.order })
  let u := { t with order := s.order + 1 }
  (if s.ctxRes n then u.ungate (s.ctxAt n).core else u).wakeTo 1

/-- A context goes to sleep, parks or faults in `STATE` `v`: the order in which it did so is kept (R198 rule 2). -/
def State.sleepAs (s : State) (n v : Nat) : State :=
  let t := (s.setCtxState n v).modAux n (fun a => { a with seq := s.order })
  { t with order := s.order + 1 }

/-- The lines that WFE considers (R206): a subscription and an `EMASK` bit. -/
def State.considered (s : State) (n l : Nat) : Option Nat :=
  if s.ctxEmask n / 2 ^ l % 2 == 1 then SMap.get none (s.auxOf n).lines l else none

/-- The channel of a considered line, where it has a count. -/
def State.lineReady (s : State) (n l : Nat) : Option Nat :=
  match s.considered n l with
  | some ch => if 0 < (s.chan ch).count then some ch else none
  | none => none

/-- Wake a context in WFE if a considered line has a count (R206). -/
def State.checkEvents (s : State) (n : Nat) : State :=
  if s.ctxState n == 3 && (List.range 16).any (fun l => (s.lineReady n l).isSome) then s.makeReady n else s

/-- A vector or a sensor pending in a context above its mask level (R208, R474). -/
def State.wakingCause (s : State) (n : Nat) : Bool :=
  let ml := mlOf (s.ctxSt n)
  (s.auxOf n).vectors.any (fun v => ml < v / 16) || (!(s.auxOf n).thermal.isEmpty && ml < 11)

/-- An interrupt above `ML` ends a sleep in WFE or WAITT (R208); the instruction runs again after MRET. -/
def State.checkInterrupts (s : State) (n : Nat) : State :=
  if (s.ctxState n == 3 || s.ctxState n == 4) && s.wakingCause n then
    (s.makeReady n).modAux n (fun a => { a with resumePc := none, resumeBase := none })
  else s

/-- Put a number into a rising list without repeats. -/
def insertNat (n : Nat) : List Nat → List Nat
  | [] => [n]
  | m :: l => if n < m then n :: m :: l else if n == m then m :: l else m :: insertNat n l

/-- A vector becomes pending in a context; a second delivery merges (R170). -/
def State.deliver (s : State) (n v : Nat) : State :=
  (s.modAux n (fun a => { a with vectors := insertNat v a.vectors })).checkInterrupts n

/-- A post to a channel (R203, R208). -/
def State.post (s : State) (n : Nat) : State :=
  let c := s.chan n
  if c.ivec != 0 && c.sv then s.deliver c.subc c.ivec
  else
    let t := s.setChan n
      { c with count := satAt 0xFFFF (c.count + 1), ovf := c.ovf || decide (0xFFFF < c.count + 1) }
    if c.sv then t.checkEvents c.subc else t

/-! ### Notices of vent firmware (R519) -/

/-- The service area's start, 64 KiB below `LOADPA`, while an image runs (R517). -/
def State.serviceArea (s : State) : Option Nat := s.dep.running.map (fun i => i.loadpa - 0x10000)

/-- Write one ring entry of four cells at a ring's base, if it has room (R323, R324, R519). -/
def State.ringPut (s : State) (base : Nat) (cells : List Cell) : Option State :=
  let (p, s1) := s.agentRead base
  let (c, s2) := s1.agentRead (base + 16)
  if 256 - 4 < p.int - c.int then none
  else
    let at_ := base + 0x100 + 16 * (p.pay % 256)
    let s3 := foldUp (fun i u => u.agentWrite (at_ + 16 * i) (nthD 0 cells i)) 4 0 s2
    some (s3.agentWrite base (mkFIX (p.int + 4)))

/-- Write the waiting notices in order while the ring has room, each with a post to 0xFFF2 (R519). -/
def sendNotices : List (Nat × Nat × Nat) → State → State
  | [], s => { s with boot := { s.boot with notices := [] } }
  | (code, tag, arg) :: l, s =>
    match s.serviceArea with
    | none => { s with boot := { s.boot with notices := (code, tag, arg) :: l } }
    | some a =>
      match s.ringPut (a + 0x3000) [mkRAW (code * 2 ^ 32 + (tag % 65536) * 65536), mkRAW arg, mkRAW 0, mkRAW 0] with
      | none => { s with boot := { s.boot with notices := (code, tag, arg) :: l } }
      | some t => sendNotices l (t.post 0xFFF2)

/-- The notices that wait are written as far as there is room, by the vent core with the duties of VC1 (R489, R519). -/
def State.sendHeld (s : State) : State := if s.boot.notices.isEmpty || s.dutyWaits 1 then s else sendNotices s.boot.notices s

/-- Vent firmware writes a notice; a full ring, or a restart of the vent core that writes it, makes it wait (R489, R519). -/
def State.notice (s : State) (code tag arg : Nat) : State :=
  { s with boot := { s.boot with notices := s.boot.notices ++ [(code, tag, arg)] } }.sendHeld

/-! ### Asynchronous causes (R170, R174, R175) -/

/-- The asynchronous causes pending in a context. -/
def State.pendingAsync (s : State) (n : Nat) : List Trap :=
  let a := s.auxOf n
  a.vectors.map (fun v => ({ code := cINTERRUPT, sub := v } : Trap)) ++
  (if a.watchdog then [{ code := cWATCHDOG }] else []) ++
  (if a.powerFail then [{ code := cPOWER_FAIL }] else []) ++
  a.thermal.map (fun v => { code := cTHERMAL, sub := v }) ++
  (match a.coreRetire with | some p => [{ code := cCORE_RETIRE, sub := p }] | none => []) ++
  (match a.busErr with | some (pa, acc) => [{ code := cBUS_ERROR, sub := 1, acc := acc, faddr := pa }] | none => [])

/-- `a` is taken before `b` (R175). Of two THERMAL causes, which R175 does not order, the lower sensor number comes first (log
entry 135). -/
def Trap.before (a b : Trap) : Bool :=
  if a.level != b.level then b.level < a.level
  else if a.code != b.code then a.code < b.code
  else a.sub < b.sub

/-- The first of a list of causes in the order of R175. -/
def firstCause : List Trap → Option Trap
  | [] => none
  | a :: l => match firstCause l with
    | none => some a
    | some b => if b.before a then some b else some a

/-- The asynchronous cause that a boundary of context `n` at `ST` takes, if any (R174, R175). -/
def State.asyncDue (s : State) (n : Nat) (st : Word64) : Option Trap :=
  firstCause ((s.pendingAsync n).filter (fun t => mlOf st < t.level))

/-- A cause that is taken is no longer pending. -/
def CtxAux.clearCause (a : CtxAux) (t : Trap) : CtxAux :=
  if t.code == cINTERRUPT then { a with vectors := a.vectors.filter (· != t.sub) }
  else if t.code == cWATCHDOG then { a with watchdog := false }
  else if t.code == cPOWER_FAIL then { a with powerFail := false }
  else if t.code == cTHERMAL then { a with thermal := a.thermal.filter (· != t.sub) }
  else if t.code == cCORE_RETIRE then { a with coreRetire := none }
  else { a with busErr := none }

/-! ### Progress of a stopped instruction (R136, R137, R182, R183) -/

/-- The `PRG` of a long instruction stopped after `l.step` steps in context `n` (R182). -/
def prgOf (l : LongOp) (n : Nat) : Cell :=
  let rtn := Config.prgRtn l.word.op
  let step := BitVec.ofNat 32 l.step
  -- held inline: a state that no other stop of the context has, in a coding that is not stated
  let work := if l.work == 0 then Config.prgInline l.word.op ^^^ BitVec.ofNat 64 l.stopNo else BitVec.ofNat 64 l.work
  let chk := Config.prgChk l.word.op rtn step work n
  l.word.op ++ rtn ++ chk ++ step ++ work

/-- An instruction under way stops where it stands: K, `PRG` and `RESUME` take its progress (R137, R183). -/
def State.parkMid (s : State) (q : Cx) : State :=
  let v := s.slot q
  match v.mid, v.ctx with
  | .rep r, _ =>
    s.setSlot q { v with
      mid := .none
      regs := { v.regs with
        k := BitVec.ofNat 32 (r.count - r.done)
        st := setBit v.regs.st stRESUME true
        prg := match r.key with | some c => c | none => v.regs.prg } }
  | .long l, some n =>
    if l.step == 0 then s.setSlot q { v with mid := .none, regs := { v.regs with prg := 0 } }
    else
      let l := if l.work == 0 then { l with stopNo := (s.auxOf n).stops } else l
      let p := prgOf l n
      (s.setSlot q { v with mid := .none, regs := { v.regs with prg := p, st := setBit v.regs.st stRESUME true } }).modAux n
        (fun a => { a with
          progress := (p, l) :: a.progress.filter (fun e => e.1 != p)
          stops := if l.work == 0 then a.stops + 1 else a.stops })
  | _, _ => s.setSlot q { v with mid := .none }

/-- The boundary after the iterations completed is one at which the repeat takes an interrupt (R136). -/
def Repeat.atBoundary (r : Repeat) : Bool := bit r.pfx 24 || r.done % 64 == 0

/-- The slot stands at a boundary of R174, where its context can be evicted (R188, R199) and a pass carried out (R236). -/
def State.atBoundary (s : State) (q : Cx) : Bool :=
  match (s.slot q).mid with
  | .rep r => r.atBoundary
  | _ => true

/-- Every slot of the core stands at a boundary or is empty (R493). -/
def State.quiescent (s : State) (c : Nat) : Bool := allSlots.all (fun k => s.atBoundary ⟨c, k⟩)

/-! ### Eviction and fill (R188, R190, R199) -/

/-- Cells 0 to 20 of the record from live registers (R190). -/
def Regs.toCells (r : Regs) : List Cell :=
  [r.a, r.f, r.e, r.s, r.c, mkRAW r.x.toNat, mkRAW r.y.toNat, mkRAW r.pc.toNat, mkRAW r.st.toNat, mkRAW r.h.toNat,
   mkRAW r.hl.toNat, r.msc0, r.msc1, r.msc2, r.msc3, r.mca, r.mca2, mkRAW r.mra.toNat, mkRAW r.mst.toNat,
   mkRAW (field r.prg 63 0), mkRAW (field r.prg 127 64)]

/-- Bits [55:4] of an address register (R88). -/
def addrMask (w : Word64) : Word64 := w &&& 0x00FF_FFFF_FFFF_FFF0#64
/-- The bits of a slot address (R93). -/
def slotMask (w : Word64) : Word64 := w &&& 0x00FF_FFFF_FFFF_FFF4#64
/-- The defined bits of ST (R89). -/
def stMask (w : Word64) : Word64 := w &&& 0xE0F0_0000_0000_FEFF#64

/-- What `MCA` and `MCA2` hold of a cell written to them: a RAW cell of `EPOCH` 0 whose reserved bits [31:28] and [19:16] are 0
(R6, R167; log entry 106). -/
def mcaMask (c : Cell) : Cell :=
  mkCell tagRAW 0 c.spec (c.payload &&& 0xFFFF_FFFF_0FF0_FFFF#64).toNat

/-- Live registers from a record's cells (R190, R199). -/
def regsOfCells (c : Nat → Cell) (k : Word32) : Regs :=
  { a := c 0, f := c 1, e := c 2, s := c 3, c := c 4, x := (c 5).payload, y := (c 6).payload, k := k,
    pc := slotMask (c 7).payload, st := stMask (c 8).payload, h := addrMask (c 9).payload, hl := addrMask (c 10).payload,
    msc0 := c 11, msc1 := c 12, msc2 := c 13, msc3 := c 14, mca := mcaMask (c 15), mca2 := mcaMask (c 16), mra := (c 17).payload,
    mst := stMask (c 18).payload, prg := (c 20).payload ++ (c 19).payload }

/-- The registers of context `n`, live or in its record. -/
def State.ctxRegs (s : State) (n : Nat) : Regs :=
  if s.ctxRes n then s.regs (s.ctxAt n)
  else regsOfCells (s.rcell n) (BitVec.ofNat 32 (field (s.rcell n 24) 115 84))

/-- Write cells 0 to 20 of a record. -/
def State.setRecs (s : State) (n : Nat) : Nat → List Cell → State
  | _, [] => s
  | c, v :: l => (s.setRec n c v).setRecs n (c + 1) l

/-- Write the registers `r` into the record of `n`, K included (R199). -/
def State.saveRegs (s : State) (n : Nat) (r : Regs) : State :=
  (s.setRecs n 0 r.toCells).setRecField n 24 115 84 r.k.toNat

/-- `RES`, `CORE` and `SLOT` (R191). -/
def State.setResidence (s : State) (n : Nat) (q : Option Cx) : State :=
  match q with
  | some q => ((s.setRecField n 24 80 80 1).setRecField n 24 79 74 q.core).setRecField n 24 73 72 q.slot
  | none => s.setRecField n 24 80 72 0

/-- The slot is free; the walk flag and the mark go with the context that leaves it, since only TLBW and MRET clear them (R263, log
entry 115). -/
def State.freeSlot (s : State) (q : Cx) : State :=
  let v := s.slot q
  let t := s.setSlot q {}
  match v.ctx with
  | some n => if v.walk || v.stale then t.modAux n (fun a => { a with walk := v.walk, stale := v.stale }) else t
  | none => t

/-- Evict the context of a slot (R199, R273): progress parked, write-around ended, cells 0 to 26 written. A context that
was running becomes placeable again behind those that wait (R198). -/
def State.evict (s : State) (q : Cx) : State :=
  match (s.slot q).ctx with
  | none => s
  | some n =>
    let s1 := (s.parkMid q).endAround q
    let s2 := ((s1.saveRegs n (s1.regs q)).setResidence n none).freeSlot q
    if s2.ctxState n == 2 then s2.makeReady n else s2

/-- Fill a slot from the record of context `n` (R199). -/
def State.fill (s : State) (q : Cx) (n : Nat) : State :=
  let r := s.ctxRegs n
  let t := s.setResidence n (some q)
  let a := s.auxOf n
  let u := t.setSlot q { ctx := some n, regs := r, placedSeq := s.order, placedAt := s.now, walk := a.walk, stale := a.stale }
  let w := if a.walk || a.stale then u.modAux n (fun a => { a with walk := false, stale := false }) else u
  { w with order := s.order + 1 }

/-- Evict context `n` wherever it is resident. -/
def State.evictCtx (s : State) (n : Nat) : State := if s.ctxRes n then s.evict (s.ctxAt n) else s

/-- Change the registers of context `n`, live or in the record. -/
def State.modCtxRegs (s : State) (n : Nat) (f : Regs → Regs) : State :=
  if s.ctxRes n then s.modRegs (s.ctxAt n) f else s.saveRegs n (f (s.ctxRegs n))

/-! ### Taking a cause (R171 to R178) -/

/-- ST after an entry (R171 step 4). -/
def entrySt (st : Word64) (esc : Bool) : Word64 :=
  setBit (setField (setBit (setBit st stLVL true) stESC esc) 55 52 15) stRESUME false

/-- The registers after an entry (R171). -/
def Regs.enter (r : Regs) (men : Word64) (mra : Nat) (cause : Cell) (esc : Bool) : Regs :=
  { r with
    mra := BitVec.ofNat 64 mra
    mst := r.st
    mca := if esc then escalatedCell else cause
    mca2 := if esc then cause else r.mca2
    st := entrySt r.st esc
    pc := men }

/-- Entry in a slot: write-around ends (R273), and a TLB miss sets the walk flag (R263). -/
def State.enterSlot (s : State) (q : Cx) (t : Trap) (mra : Nat) (esc : Bool) : State :=
  let s1 := s.endAround q
  let s2 := s1.modRegs q (fun r => r.enter (s1.core q.core).men mra t.cell esc)
  if t.code == cTLB_MISS_I || t.code == cTLB_MISS_D then s2.modSlot q (fun v => { v with walk := true })
  else s2

/-- A context-fatal fault (R177, R178): the record and the fault record are written, the context is parked in `STATE` 6,
channel 0xFFF1 is posted, the slot is free, and VC1 passes the fault on by notice 0x0081 (R519). -/
def State.fatal (s : State) (q : Cx) (t : Trap) (mra : Nat) : State :=
  match (s.slot q).ctx with
  | none => s
  | some n =>
    let s1 := s.endAround q
    let r := s1.regs q
    let s2 := ((s1.saveRegs n r).setResidence n none).freeSlot q
    let s3 := s2.setRecs n 27 [t.cell, r.mca2, mkRAW mra, mkRAW r.st.toNat, mkTIME s.now]
    let s4 := (s3.sleepAs n 6).post 0xFFF1
    let (v, s5) := s4.fresh
    s5.notice 0x0081 (field v 15 0) n

/-- A fault or a call arises in a slot whose stopped progress has been parked (R176): taken, escalated, or fatal. -/
def State.takeTrap (s : State) (q : Cx) (t : Trap) (mra : Nat) : State :=
  let st := (s.regs q).st
  if bit st stESC then s.fatal q t mra
  else if mlOf st < t.level then s.enterSlot q t mra false
  else s.enterSlot q t mra true

/-- An asynchronous cause is taken at a boundary (R174, R176): never escalated, `ESC` cleared. -/
def State.takeAsync (s : State) (q : Cx) (n : Nat) (t : Trap) : State :=
  let s1 := (s.parkMid q).modAux n (fun a => a.clearCause t)
  s1.enterSlot q t (s1.regs q).pc.toNat false

/-- `S` or another capability register with `PAYLOAD` moved by `d` bytes (R101). -/
def movePay (c : Cell) (d : Int) : Cell := c.withPay (((c.pay : Int) + d) % ((2 ^ 64 : Nat) : Int)).toNat

/-- Move a base register by `d` bytes (R101). -/
def Regs.stepBase (r : Regs) (b : Nat) (d : Int) : Regs :=
  if b == 0 then { r with f := movePay r.f d }
  else if b == 1 then { r with e := movePay r.e d }
  else if b == 2 then { r with s := movePay r.s d }
  else if b == 3 then { r with c := movePay r.c d }
  else if b == 4 then { r with x := r.x + BitVec.ofInt 64 d }
  else if b == 5 then { r with y := r.y + BitVec.ofInt 64 d }
  else r

/-! ### Completion of a CKPT (R215) -/

/-- The record of a CKPT of context `n` is retired (R215). -/
def State.ckptComplete (s : State) (n status value : Nat) : State :=
  let a := if status == 0 then fixOfNat value else constFalse
  let s1 := if status == 0 then s.setRecField n 26 63 0 value else s
  let pc := (s.auxOf n).resumePc
  let s2 := s1.modCtxRegs n (fun r => { r with a := a, pc := match pc with | some p => BitVec.ofNat 64 p | none => r.pc })
  (s2.makeReady n).modAux n (fun x => { x with resumePc := none, ckptWait := false, durWait := false })

/-- `WAKE` is reached (R209): the WAITT completes, and the context continues at the instruction after it. -/
def State.wakeReached (s : State) (n : Nat) : State :=
  let a := s.auxOf n
  let s2 := match a.resumePc with
    | some p => s.modCtxRegs n (fun r =>
        let r := { r with pc := BitVec.ofNat 64 p }
        match a.resumeBase with | some (b, d) => r.stepBase b d | none => r)
    | none => s
  (s2.makeReady n).modAux n (fun x => { x with resumePc := none, resumeBase := none })

end Sys2Proof.Machine
end

