-- ==== Sys2Proof/Machine/Heap.lean ====
section
/-! DEFINITION. The heap: the block table, marking, forwarding, the load barrier, refill, and the collection cycle
(chapter 10). -/

namespace Sys2Proof.Machine

/-! ### The window and the block table (R216, R220, R221) -/

/-- `a` lies in the heap window while the heap is enabled. -/
def State.inWindow (s : State) (a : Nat) : Bool := s.heap.en && a / 2 ^ 36 == s.heap.vbase

/-- The block slot of a window address. -/
def blockOf (a : Nat) : Nat := a / 2 ^ 21 % 2 ^ 15
/-- The window address of a block slot. -/
def State.blockVa (s : State) (b : Nat) : Nat := s.heap.vbase * 2 ^ 36 + b * 2 ^ 21
/-- The physical address of entry `b`. -/
def State.entryPa (s : State) (b : Nat) : Nat := s.heap.btaddr * 2 ^ 19 + 16 * b
/-- Entry `b` of the block table. -/
def State.entry (s : State) (b : Nat) : Cell := s.cell (s.entryPa b)
/-- Write entry `b`, as the device does. -/
def State.setEntry (s : State) (b : Nat) (c : Cell) : State := s.agentWrite (s.entryPa b) c

def kABSENT : Nat := 0
def kFREE : Nat := 1
def kSILT : Nat := 2
def kCLAY : Nat := 3
def kBEDROCK : Nat := 4

/-- `KIND` as the device reads it: a reserved value, a tag other than RAW or a non-zero `EPOCH` is absent (R221). -/
def eKind (c : Cell) : Nat :=
  let k := field c 115 112
  if c.tag == tagRAW && c.epoch == 0 && k ≤ 4 then k else kABSENT
def eRel (c : Cell) : Bool := bit c 111
def eNew (c : Cell) : Bool := bit c 110
def eNorel (c : Cell) : Bool := bit c 109
def eLarge (c : Cell) : Bool := bit c 108
def ePin (c : Cell) : Nat := field c 107 96
def eChunk (c : Cell) : Nat := field c 95 90
def eRescan (c : Cell) : Bool := bit c 89
def eCont (c : Cell) : Bool := bit c 88
def eLive (c : Cell) : Nat := field c 87 70
def eCards (c : Cell) : Bool := bit c 64
def ePframe (c : Cell) : Nat := field c 47 21
def eTop (c : Cell) : Nat := field c 20 4
def eFull (c : Cell) : Bool := bit c 0

/-- Change a field of an entry. -/
def State.setE (s : State) (b hi lo v : Nat) : State := s.setEntry b (normalize (setField (s.entry b) hi lo v))

/-- What a write to entry `b` stores while `HWB.EN` = 1 (R221): absent to free with `PFRAME`, free to absent, `NOREL`;
every other field keeps the device's value, and so does all of it outside IDLE. No reserved `KIND` is written. -/
def State.filterEntry (s : State) (b : Nat) (new : Cell) : Cell :=
  let old := s.entry b
  if s.heap.phase != .idle then old
  else
    let k0 := eKind old
    let k1 := eKind new
    let c := setBit (if 4 < field old 115 112 then setField old 115 112 kABSENT else old) 109 (eNorel new)
    normalize (if k0 == kABSENT && k1 == kFREE then
        setField (setField (setField (setField c 127 120 tagRAW) 119 118 0) 115 112 kFREE) 47 21 (ePframe new)
      else if k0 == kFREE && k1 == kABSENT then setField c 115 112 kABSENT else c)

/-- The entry that a core's store to physical address `pa` reaches, if the table is in force. -/
def State.entryAt (s : State) (pa : Nat) : Option Nat :=
  let base := s.heap.btaddr * 2 ^ 19
  if s.heap.en && base ≤ pa && pa < base + 2 ^ 19 then some ((pa - base) / 16) else none

/-- The slots whose entry is not absent, rising: only a written entry can be (its tag is RAW). -/
def State.blocks (s : State) : List Nat :=
  let base := s.heap.btaddr * 2 ^ 19
  (s.mem.filterMap (fun e =>
    if base ≤ e.1 && e.1 < base + 2 ^ 19 && e.1 % 16 == 15 && e.2 == 0x3F#8 then some ((e.1 - base) / 16) else none)).filter
    (fun b => eKind (s.entry b) != kABSENT)

/-- The slots of a kind. -/
def State.blocksOf (s : State) (k : Nat) : List Nat := s.blocks.filter (fun b => eKind (s.entry b) == k)
/-- `HCNT` of a kind. -/
def State.hcnt (s : State) (k : Nat) : Nat := if s.heap.en then (s.blocksOf k).length else 0

/-- The physical address of a window address, through the block table (R216). -/
def State.heapPa (s : State) (a : Nat) : Nat := ePframe (s.entry (blockOf a)) * 2 ^ 21 + a % 2 ^ 21

/-- The cell of a window address, through the block table. -/
def State.heapCell (s : State) (a : Nat) : Cell := s.cell (s.heapPa a)

/-- The heap cell at `a` is in a bedrock block. -/
def State.inBedrock (s : State) (a : Nat) : Bool := s.inWindow a && eKind (s.entry (blockOf a)) == kBEDROCK

/-- A bedrock cell written by an engine or a barrier belongs to the cycle's commit (R241). -/
def State.noteEngine (s : State) (a : Nat) : State :=
  if s.inBedrock a then { s with heap := { s.heap with engineCards := insertNat (a / 512) s.heap.engineCards } } else s

/-- The cards of block `b` that have contents. -/
def State.cardsIn (s : State) (b : Nat) : List Nat :=
  let pa := ePframe (s.entry b) * 2 ^ 21
  (s.mem.filterMap (fun e => if pa ≤ e.1 && e.1 < pa + 2 ^ 21 then some ((s.blockVa b + (e.1 - pa)) / 512) else none)).foldl
    (fun l k => insertNat k l) []

/-- A block that becomes bedrock in place: all that it holds belongs to the cycle's commit (R241, log entry 107). -/
def State.noteBlock (s : State) (b : Nat) : State :=
  { s with heap := { s.heap with engineCards := (s.cardsIn b).foldl (fun l k => insertNat k l) s.heap.engineCards } }

/-- A bedrock cell at a physical address, healed by a core's load barrier in a cycle (R241). -/
def State.noteHeal (s : State) (pa : Nat) : State :=
  if s.heap.phase == .idle then s
  else match (s.blocksOf kBEDROCK).find? (fun b => ePframe (s.entry b) == pa / 2 ^ 21) with
    | some b => s.noteEngine (s.blockVa b + pa % 2 ^ 21)
    | none => s

/-- Write a heap cell, as an engine or the barrier's microcode does. -/
def State.putHeap (s : State) (a : Nat) (c : Cell) : State := (s.agentWrite (s.heapPa a) c).noteEngine a

/-! ### Objects -/

def State.modHeap (s : State) (f : Heap → Heap) : State := { s with heap := f s.heap }

/-- Note the start of an object: 1 headed, 2 cons. -/
def State.setStart (s : State) (a k : Nat) : State := s.modHeap (fun h => { h with starts := SMap.set 0 h.starts a k })

/-- The object starts in block `b`, rising. -/
def State.startsIn (s : State) (b : Nat) : List (Nat × Nat) :=
  let lo := s.blockVa b
  s.heap.starts.filter (fun e => lo ≤ e.1 && e.1 < lo + 2 ^ 21)

/-- The start of the object that contains `a`: the highest start at or below it. -/
def State.objectOf (s : State) (a : Nat) : Option Nat :=
  (s.heap.starts.foldl (fun (r : Option Nat) e => if e.1 ≤ a then some e.1 else r) none)

/-- A start is that of a cons: noted so, or named by a CONS. -/
def State.isConsAt (s : State) (a : Nat) : Bool := SMap.get 0 s.heap.starts a == 2

/-- The cells of the object at `a`. -/
def State.sizeAt (s : State) (a : Nat) : Nat := if s.isConsAt a then 2 else (s.heapCell a).hdrSize

/-- The `GOOD` of the running cycle's MARK (R228): after the relocate flip, the epoch before. -/
def Heap.markEpoch (h : Heap) : Nat :=
  match h.phase with
  | .relocate => if h.good == 1 then 3 else h.good - 1
  | .remap => if h.good == 1 then 3 else h.good - 1
  | _ => h.good

/-- The object at `a` is marked (R228). -/
def State.marked (s : State) (a : Nat) : Bool :=
  if s.isConsAt a then SMap.get 0 s.heap.consMark a == s.heap.markEpoch
  else (s.heapCell a).hdrMepoch == s.heap.markEpoch

/-- The object at `a` is marked durable (R240). -/
def State.durable (s : State) (a : Nat) : Bool := SMap.get false s.heap.durMark a

/-- `in_scope` of R230. -/
def State.inScope (s : State) (b : Nat) : Bool :=
  let e := s.entry b
  !eNew e && (if s.heap.major then 2 ≤ eKind e else eKind e == kSILT)

/-- The next slot of the table continues the run of block `b` (R224). -/
def State.goesOn (s : State) (b : Nat) : Bool := b < 32767 && eCont (s.entry (b + 1))

/-- Block `b` begins a run (R224): the next slot continues it, or its first object, which may have died, takes more than 4,096 cells,
as no object outside a run does. -/
def State.runHead (s : State) (b : Nat) : Bool :=
  let c := s.heapCell (s.blockVa b)
  !eCont (s.entry b) && (s.goesOn b || (c.tag == tagHDR && 4096 < c.hdrSize))

/-- The block belongs to a run (R224). -/
def State.inRun (s : State) (b : Nat) : Bool := eCont (s.entry b) || s.runHead b

/-- The first block of the run that block `b` continues, or `b`. -/
def State.headOf (s : State) : Nat → Nat
  | 0 => 0
  | b + 1 => if eCont (s.entry (b + 1)) then s.headOf b else b + 1

/-- Push an object onto the mark queue, or mark its block for a rescan when the queue is full (R228). -/
def State.pushMark (s : State) (a : Nat) (dur : Bool) : State :=
  if s.heap.queue.length < Config.markQueueDepth then s.modHeap (fun h => { h with queue := h.queue ++ [(a, dur)] })
  else (s.setE (blockOf a) 89 89 1).modHeap (fun h => { h with qovf := true })

/-- `mark(a)` of R228 on the object at start `a`, and durable marking for what durable roots reach; a bedrock object that they
reach is noted too, and traced as they are, though it stays in bedrock in any case (R240). -/
def State.mark (s : State) (a : Nat) (dur : Bool) : State :=
  let b := blockOf a
  let s1 :=
    if s.marked a then s
    else
      let t := if s.isConsAt a then s.modHeap (fun h => { h with consMark := SMap.set 0 h.consMark a h.good })
        else s.putHeap a (normalize (setField (s.heapCell a) 107 106 s.heap.good))
      let live := satAt 131072 (eLive (t.entry b) + t.sizeAt a)
      t.setE b 87 70 live
  let newDur := dur && !s.durable a
  let s2 := if newDur then s1.modHeap (fun h => { h with durMark := SMap.set false h.durMark a true }) else s1
  if !s.marked a || newDur then s2.pushMark a dur else s2

/-- The object that a pointer cell keeps alive: its target, or the object that contains L (R217). -/
def State.pointee (s : State) (v : Cell) : Option Nat :=
  if v.isCapOrSeal then s.objectOf v.capL.toNat else some v.pay

/-- Note that a CONS names a cons. -/
def State.learn (s : State) (v : Cell) : State :=
  if v.isRef && SMap.get 0 s.heap.starts v.pay == 0 then s.setStart v.pay (if v.tag == tagCONS then 2 else 1) else s

/-! ### Relocation chunks and forwarding (R232) -/

/-- Write a filler HDR over `n` cells from `a` (R27). -/
def State.filler (s : State) (a n : Nat) : State := if n == 0 then s else s.putHeap a (mkHDR 0x00 n 0)

/-- Who copies: a main core or an engine. -/
inductive Copier where
  | core (c : Nat)
  | engine (n : Nat)
  deriving DecidableEq, Repr

def State.chunkOf (s : State) (w : Copier) (bed : Bool) : Nat × Nat :=
  match w with
  | .core c => if bed then (s.core c).relBed else (s.core c).relClay
  | .engine n => nthD (0, 0) (if bed then s.heap.seBed else s.heap.seClay) n

def State.setChunk (s : State) (w : Copier) (bed : Bool) (v : Nat × Nat) : State :=
  match w with
  | .core c => s.modCore c (fun k => if bed then { k with relBed := v } else { k with relClay := v })
  | .engine n =>
    s.modHeap (fun h => if bed then { h with seBed := setNth h.seBed n v } else { h with seClay := setNth h.seClay n v })

/-- The lowest free block, if any. -/
def State.freeBlock (s : State) : Option Nat := (s.blocksOf kFREE).head?

/-- An entry taken from the free pool: fields as a fresh block has them, `NEW` as given; `NOREL` and `PFRAME` stay. -/
def takenEntry (c : Cell) (kind : Nat) (new : Bool) : Cell :=
  let c := setField c 115 110 (kind * 4 + b2n new)
  let c := setField c 108 64 0
  normalize (setField c 20 0 0)

/-- The destination block open for a kind (R232). -/
def State.openDest (s : State) (kind : Nat) : Option Nat :=
  (s.blocksOf kind).find? (fun b =>
    let e := s.entry b
    eNew e && !eFull e && !eLarge e && !eCont e && !s.heap.kept.contains b)

/-- A 64 KiB relocation chunk of a destination kind: from the destination block open for it, or a free block (R232); bedrock has at
most 2,048 blocks (R222). -/
def State.destChunk (s : State) (kind : Nat) : Option (Nat × State) :=
  let at_ := match s.openDest kind with
    | some b => some (b, s)
    | none =>
      if kind == kBEDROCK && 2048 ≤ s.hcnt kBEDROCK then none
      else match s.freeBlock with
        | none => none
        | some b => some (b, s.setEntry b (takenEntry (s.entry b) kind true))
  match at_ with
  | none => none
  | some (b, t) =>
    let top := eTop (t.entry b) * 16
    let next := top + 0x10000
    let u := if next < 2 ^ 21 then t.setE b 20 4 (next / 16) else t.setE b 0 0 1
    some (t.blockVa b + top, u)

/-- Storage for `n` cells at a copier's chunk; a cons is 32-byte aligned (R25). -/
def State.relocAlloc (s : State) (w : Copier) (bed cons : Bool) (n : Nat) : Option (Nat × State) :=
  let (p, l) := s.chunkOf w bed
  let pad := if cons && p % 32 == 16 then 16 else 0
  if p + pad + 16 * n ≤ l then
    let t := if pad == 16 then s.filler p 1 else s
    some (p + pad, t.setChunk w bed (p + pad + 16 * n, l))
  else
    match s.destChunk (if bed then kBEDROCK else kCLAY) with
    | none => none
    | some (a, t) =>
      let u := t.filler p ((l - p) / 16)
      some (a, u.setChunk w bed (a + 16 * n, a + 0x10000))

/-- Durable marking may still take `n` blocks for bedrock: once it could not, no more in that cycle (R242). -/
def State.bedRoom (s : State) (n : Nat := 1) : Bool := !s.heap.cycBrfull && s.hcnt kBEDROCK + n ≤ 2048

/-- `BRFULL` in the running cycle (R242). -/
def State.setBrfull (s : State) : State := s.modHeap (fun h => { h with brfull := true, cycBrfull := true })

/-- A durable object of `n` cells can go to bedrock: within what the copier or bedrock already has, or by a further block
(R242). -/
def State.bedFits (s : State) (w : Copier) (cons : Bool) (n : Nat) : Bool :=
  let (p, l) := s.chunkOf w true
  s.bedRoom || !s.heap.cycBrfull &&
    (p + (if cons && p % 32 == 16 then 16 else 0) + 16 * n ≤ l || (s.openDest kBEDROCK).isSome)

/-- The object at `a` goes to bedrock: it is in bedrock, or marked durable outside it (R232). -/
def State.goesToBed (s : State) (a : Nat) : Bool := eKind (s.entry (blockOf a)) == kBEDROCK || s.durable a

/-- Copy cells of an object. -/
def State.copyCells (s : State) (src dst : Nat) : Nat → State
  | 0 => s
  | n + 1 => (s.putHeap dst (s.heapCell src)).copyCells (src + 16) (dst + 16) n

/-- `forward(a)` of R232: the object's new address. Where no chunk can be had, for want of a free block or because bedrock is full, the
object stays in place (log entry 138). -/
def State.forward (s : State) (w : Copier) (a : Nat) : Nat × State :=
  let c := s.heapCell a
  if c.tag == tagFWD then (c.pay, s)
  else
    let cons := s.isConsAt a
    let n := s.sizeAt a
    let want := s.goesToBed a
    let bed := want && (eKind (s.entry (blockOf a)) == kBEDROCK || s.bedFits w cons n)
    let s0 := if want && !bed then s.setBrfull else s
    match s0.relocAlloc w bed cons n with
    | none => (a, s0)
    | some (d, t) =>
      let t1 := t.copyCells a d n
      let t2 := t1.putHeap a (mkCell tagFWD t1.heap.good 0 d)
      let t3 := t2.setStart d (if cons then 2 else 1)
      (d, t3.modHeap (fun h => { h with copies := h.copies ++ [d] }))

/-- `retarget` of R226: the pointer `v` to the object at `o`, moved to `d`, with the good epoch. -/
def retarget (v : Cell) (o d good : Nat) : Cell :=
  let disp : Int := (d : Int) - (o : Int)
  if d == o then v.withEpoch good
  else if v.isCapOrSeal then
    let lo := ((v.capL + disp) / 16 % 512).toNat
    let hi := ((v.capU + disp) / 16 % 512).toNat
    mkCap v.tag good v.rights v.otype 0 lo hi (((v.pay : Int) + disp) % ((2 ^ 64 : Nat) : Int)).toNat
  else (v.withPay (((v.pay : Int) + disp).toNat)).withEpoch good

/-! ### The barriers (R226, R229) -/

/-- The epoch in force for an instruction in progress on core `c`: until the core has carried out a flip's pass, the one before
the flip (R238). -/
def State.goodFor (s : State) (c : Nat) : Nat :=
  if (s.heap.pass == some .markFlip || s.heap.pass == some .relocFlip) && s.heap.unacked.contains c then
    if s.heap.good == 1 then 3 else s.heap.good - 1
  else s.heap.good

/-- The load barrier on a cell under the epoch `good`, without the heal: none = MICROCODE_CHECK `SUB` 0x03 (R226, R238). -/
def State.barrierAt (s : State) (w : Copier) (v : Cell) (dur : Bool) (good : Nat) : Option (Cell × State) :=
  if !s.heap.en || !v.isPointer || v.epoch == good then some (v, s)
  else if !s.inWindow v.pay then some (v.withEpoch good, s)
  else
    let e := s.entry (blockOf v.pay)
    if eKind e < kSILT then none
    else
      let s0 := s.learn v
      match s0.pointee v with
      | none => some (v.withEpoch good, s0)
      | some o =>
        let (d, s1) := if eRel e then s0.forward w o else (o, s0)
        let s2 := if s1.heap.phase == .mark && s1.inScope (blockOf o) then s1.mark d dur else s1
        some (retarget v o d good, s2)

/-- The load barrier under the good epoch of the heap (R226). -/
def State.barrierValue (s : State) (w : Copier) (v : Cell) (dur : Bool) : Option (Cell × State) :=
  s.barrierAt w v dur s.heap.good

/-- The healing swap at a physical address (R227): the slot takes `n` only where it still holds `v`, whole. -/
def State.heal (s : State) (pa : Nat) (v n : Cell) : State :=
  if v == n || s.cell pa != v then s else s.agentWrite pa n

/-- Set the card of a clay or bedrock slot that receives a pointer into silt (R229). -/
def State.setCard (s : State) (n : Cell) (slot : Nat) : State :=
  if n.isPointer && s.inWindow n.pay && s.inWindow slot then
    let k := eKind (s.entry (blockOf slot))
    if eKind (s.entry (blockOf n.pay)) == kSILT && (k == kCLAY || k == kBEDROCK) then
      let fresh := !SMap.get false s.heap.cards (slot / 512)
      let t := s.modHeap (fun h => { h with
        cards := SMap.set false h.cards (slot / 512) true
        -- a card set during the cycle belongs to the remap scope of a minor one (R234)
        scope := if fresh && h.phase == .remap && h.scopeMade && !h.major then
            ((List.range 32).map (fun i => RemapItem.slot (slot / 512 * 512 + 16 * i))).foldl
              (fun l x => if l.contains x then l else l ++ [x]) h.scope
          else h.scope })
      if eCards (t.entry (blockOf slot)) then t else t.setE (blockOf slot) 64 64 1
    else s
  else s

/-- The marking of the store barrier (R229). -/
def State.storeMark (s : State) (n : Cell) : State :=
  if s.heap.phase == .mark && n.isPointer && s.inWindow n.pay && s.inScope (blockOf n.pay) then
    let t := s.learn n
    match t.pointee n with
    | some o => t.mark o false
    | none => t
  else s

/-- An engine treats one heap slot: the barrier, with the heal and its card (R231, R234). A poisoned granule is left. -/
def State.engineSlot (s : State) (se : Nat) (a : Nat) (dur : Bool) : State :=
  let pa := s.heapPa a
  if s.poisoned (pa / 128) then s.modHeap (fun h => { h with cycPoison := true })
  else
    let (v, s1) := s.agentRead pa
    -- the trace marks through a pointer that already carries the good epoch as well: three flips ago it was healed to it
    let s2 := if v.epoch == s1.heap.good && v.isPointer && s1.inWindow v.pay && s1.heap.phase == .mark &&
        s1.inScope (blockOf v.pay) then
        (match (s1.learn v).pointee v with | some o => (s1.learn v).mark o dur | none => s1.learn v) else s1
    match s2.barrierValue (.engine se) v dur with
    | none => s2
    | some (n, t) => if n == v then t.setCard n a else ((t.heal pa v n).noteEngine a).setCard n a

/-- Engine treatment of `n` slots from `a`. -/
def State.engineSlots (s : State) (se : Nat) (dur : Bool) : Nat → Nat → State
  | 0, _ => s
  | n + 1, a => (s.engineSlot se a dur).engineSlots se dur n (a + 16)

/-- The first and the number of the cells of an object that hold pointers. -/
def State.pointerCells (s : State) (o : Nat) : Nat × Nat :=
  if s.isConsAt o then (o, 2)
  else
    let h := s.heapCell o
    if h.hdrKind == 0x11 || h.hdrKind == 0x14 || h.hdrKind == 0x15 || h.hdrKind == 0x16 then (o + 16, h.hdrSize - 1)
    else (o, 0)

/-! ### Refill (R223, R224) -/

/-- The open silt block of a cluster with a chunk left. -/
def State.openSilt (s : State) (k : Nat) : Option Nat :=
  match SMap.get none s.heap.openBlock k with
  | some b => if eKind (s.entry b) == kSILT && eChunk (s.entry b) < 32 then some b else none
  | none => none

/-- A chunk for cluster `k`: its virtual address (R223 steps 2 and 3). -/
def State.takeChunk (s : State) (k : Nat) : Option (Nat × State) :=
  if !s.heap.en then none
  else
    let got := match s.openSilt k with
      | some b => some (b, s)
      | none =>
        if s.hcnt kFREE ≤ s.heap.resv then none
        else match s.freeBlock with
          | none => none
          | some b =>
            let t := s.setEntry b (takenEntry (s.entry b) kSILT (s.heap.phase != Phase.idle))
            some (b, t.modHeap (fun h => { h with openBlock := SMap.set none h.openBlock k (some b) }))
    match got with
    | none => none
    | some (b, t) =>
      let ch := eChunk (t.entry b)
      let c := setField (t.entry b) 95 90 (ch + 1)
      let c := setField (setField c 20 4 ((ch + 1) * 4096)) 0 0 (b2n (ch + 1 == 32))
      some (t.blockVa b + ch * 0x10000, t.setEntry b (normalize c))

/-- The lowest run of `n` free slots at consecutive numbers. -/
def findRun (free : List Nat) (n : Nat) : Option Nat :=
  free.find? (fun b => (List.range n).all (fun i => free.contains (b + i)))

/-- A run for `cells` cells (R224): the start of the run. -/
def State.takeRun (s : State) (cells : Nat) : Option (Nat × State) :=
  let n := cdiv cells 131072
  if !s.heap.en || s.hcnt kFREE < s.heap.resv + n then none
  else match findRun (s.blocksOf kFREE) n with
    | none => none
    | some b =>
      let t := foldUp (fun i u =>
        let c := takenEntry (u.entry (b + i)) kSILT (u.heap.phase != Phase.idle)
        let c := setField (setBit c 108 true) 95 90 32
        let c := setBit (setBit c 88 (decide (0 < i))) 0 true
        u.setEntry (b + i) (normalize c)) n 0 s
      some (t.blockVa b, t)

/-- A refill that found no chunk requests a major cycle while the heap is enabled (R223, R239). -/
def State.refillFailed (s : State) : State := if s.heap.en then s.modHeap (fun h => { h with reqMaj := true }) else s

/-- An object of more than 64 cells sets `LARGE` in its block (R220). -/
def State.noteObject (s : State) (a cells : Nat) (cons : Bool) : State :=
  if s.inWindow a then
    let t := s.setStart a (if cons then 2 else 1)
    if 64 < cells && !eLarge (t.entry (blockOf a)) then t.setE (blockOf a) 108 108 1 else t
  else s

/-- `PIN` of the block of a work object (R186, R243). The spec does not say what a further hold does at 4,095: the model keeps
4,095 (log entry 108). -/
def State.pin (s : State) (a : Nat) (up : Bool) : State :=
  if a / 2 ^ 36 == s.heap.vbase then
    let b := blockOf a
    let p := ePin (s.entry b)
    s.setE b 107 96 (if up then satAt 4095 (p + 1) else p - 1)
  else s

/-- Context `n` holds the work object at `a`, or no longer holds it (R186). -/
def State.hold (s : State) (n a : Nat) : State :=
  (s.modAux n (fun x => { x with holds := a :: x.holds })).pin a true
def State.unhold (s : State) (n a : Nat) : State :=
  if (s.auxOf n).holds.contains a then
    (s.modAux n (fun x => { x with holds := x.holds.erase a })).pin a false
  else s

/-- Every hold recorded against context `n` ends (R186, R506). -/
def State.unholdAll (s : State) (n : Nat) : State := (s.auxOf n).holds.foldl (fun t a => t.unhold n a) s

/-- Some context holds the work object at `a`, which is therefore in use though it is unmarked (R186, R243). -/
def State.heldAt (s : State) (a : Nat) : Bool := s.aux.any (fun e => e.2.holds.contains a)

/-- HWB: a write of `EN` from 1 to 0 closes the open silt block of every cluster (R219). -/
def State.closeOpenBlocks (s : State) : State := s.modHeap (fun h => { h with openBlock := [] })

/-! ### Passes (R236) -/

/-- The nine cells that a pass treats. -/
def Regs.nine (r : Regs) : List Cell := [r.a, r.f, r.e, r.s, r.c, r.msc0, r.msc1, r.msc2, r.msc3]

def Regs.setNine (r : Regs) (l : List Cell) : Regs :=
  { r with
    a := nthD 0 l 0, f := nthD 0 l 1, e := nthD 0 l 2, s := nthD 0 l 3, c := nthD 0 l 4
    msc0 := nthD 0 l 5, msc1 := nthD 0 l 6, msc2 := nthD 0 l 7, msc3 := nthD 0 l 8 }

/-- Heal a list of cells that lie in no heap slot; a pointer into an absent or free block stays as it is. -/
def State.healList (s : State) (w : Copier) (dur : Bool) : List Cell → List Cell × State
  | [] => ([], s)
  | v :: l =>
    let (n, t) := match s.barrierValue w v dur with
      | some p => p
      | none => (v, s)
    let (m, u) := t.healList w dur l
    (n :: m, u)

/-- Mark the targets of a list of cells (mark-end pass; durable roots, R240). -/
def State.markList (s : State) (dur : Bool) : List Cell → State
  | [] => s
  | v :: l =>
    let t :=
      if v.isPointer && s.inWindow v.pay && s.inScope (blockOf v.pay) then
        (match (s.learn v).pointee v with | some o => (s.learn v).mark o dur | none => s.learn v)
      else s
    t.markList dur l

/-- Close a context's chunk: a filler over its tail, HL := H (R236). -/
def State.closeChunk (s : State) (h hl : Word64) : State :=
  if s.inWindow h.toNat && h.toNat + 16 ≤ hl.toNat then s.filler h.toNat ((hl.toNat - h.toNat) / 16) else s

/-- Every bedrock card with contents in HBM or in the bedrock image (R368 FULL). -/
def State.allBedrockCards (s : State) : List Nat :=
  ((s.blocksOf kBEDROCK).flatMap s.cardsIn ++
    s.jr.bed.filterMap (fun (e : Nat × Cell) => if s.inBedrock (16 * e.1) then some (e.1 / 32) else none)).foldl
    (fun l k => insertNat k l) []

/-- The cards that a commit of context `n` lists: its own, or all of bedrock where FULL has listed them (R368, R370). -/
def State.listed (s : State) (n : Nat) : List Nat := if s.jr.full then s.allBedrockCards else (s.auxOf n).changes

/-- The logged bedrock cells of context `n`: its listed cards as HBM holds them, and its spilled cards (R240, R371). -/
def State.loggedCells (s : State) (n : Nat) : List Cell :=
  (s.listed n).flatMap (fun k => s.cellsAt 32 (s.heapPa (512 * k))) ++
    (s.jr.spills.filter (fun e => e.1 == n)).flatMap (fun e => e.2.2)

/-- What a pass does to the registers of context `n` (R236); the mark flip of a durable cycle traces its durable roots (R240). -/
def State.passRegs (s : State) (w : Copier) (p : PassKind) (n : Nat) (r : Regs) : Regs × State :=
  let dur := s.heap.durq && s.heap.durRoots.contains n
  match p with
  | .markFlip =>
    let (l, t) := s.healList w dur r.nine
    let t := if dur then t.markList true (l ++ s.loggedCells n) else t
    ({ r.setNine l with hl := r.h }, t.closeChunk r.h r.hl)
  | .markEnd => (r, s.markList dur r.nine)
  | .relocFlip =>
    let (l, t) := s.healList w false r.nine
    (r.setNine l, t)

/-- What a pass does to the references that a long instruction keeps: as to the nine cells, so that none goes stale (R246, log
entry 139). -/
def State.passLong (s : State) (w : Copier) (p : PassKind) (l : LongOp) : LongOp × State :=
  let cells := l.refs.map (·.2)
  match p with
  | .markEnd => (l, s.markList false cells)
  | _ =>
    let (now, t) := s.healList w false cells
    ({ l with refs := (l.refs.map (·.1)).zip now }, t)

/-- The same for every long instruction that a context has stopped. -/
def State.passStopped (s : State) (w : Copier) (p : PassKind) : List (Cell × LongOp) → List (Cell × LongOp) × State
  | [] => ([], s)
  | (c, l) :: rest =>
    let (l', t) := s.passLong w p l
    let (rest', u) := t.passStopped w p rest
    ((c, l') :: rest', u)

/-- The long instructions of context `n`: those stopped, and the one under way in its slot. -/
def State.passKept (s : State) (w : Copier) (p : PassKind) (n : Nat) : State :=
  let stopped := (s.auxOf n).progress
  let s1 := if stopped.isEmpty then s
    else (let (l, t) := s.passStopped w p stopped; t.modAux n (fun a => { a with progress := l }))
  if !s1.ctxRes n then s1
  else match (s1.slot (s1.ctxAt n)).mid with
    | .long l =>
      let (l', t) := s1.passLong w p l
      t.modSlot (s1.ctxAt n) (fun v => { v with mid := .long l' })
    | _ => s1

/-- Treat a record that is not resident, or a context being filled (R236, R237). -/
def State.treatCtx (s : State) (w : Copier) (p : PassKind) (n : Nat) : State :=
  let (r, t) := s.passRegs w p n (s.ctxRegs n)
  ((t.modCtxRegs n (fun _ => r)).passKept w p n).modHeap (fun h => { h with treated := n :: h.treated })

/-- The cores that must acknowledge a pass: those active whose cluster is powered and has no reset running; another acknowledges at
once (R236, R505). -/
def State.passCores (s : State) : List Nat :=
  allCores.filter (fun c => s.coreActive c && s.coreOn c && !s.boot.resets.any (fun e => e.1 == c / 8))

/-- Broadcast a pass (R236). -/
def State.startPass (s : State) (p : PassKind) : State :=
  let l := s.passCores
  s.modHeap (fun h => { h with pass := if l.isEmpty then none else some p, unacked := l, treated := [] })

/-- A core that is switched off or stays absent acknowledges the pass under way (R236, R485, R505). -/
def State.dropFromPass (s : State) (c : Nat) : State :=
  s.modHeap (fun h =>
    let l := h.unacked.filter (· != c)
    { h with unacked := l, pass := if l.isEmpty then none else h.pass })

/-- `GOOD` := `GOOD` mod 3 + 1 (R236). -/
def State.flip (s : State) : State := s.modHeap (fun h => { h with good := h.good % 3 + 1 })

/-- A core carries out the pass that it has not acknowledged, at a boundary of its slots (R236). -/
def State.corePass (s : State) (c : Nat) : State :=
  match s.heap.pass with
  | none => s
  | some p =>
    if !s.heap.unacked.contains c || !allSlots.all (fun k => s.atBoundary ⟨c, k⟩) then s
    else
      let t := allSlots.foldl (fun u k =>
        match (u.slot ⟨c, k⟩).ctx with
        | none => u
        | some n =>
          if u.heap.treated.contains n then u
          else
            let v := u.orderStores ⟨c, k⟩
            let (r, w) := v.passRegs (.core c) p n (v.regs ⟨c, k⟩)
            ((w.setRegs ⟨c, k⟩ r).passKept (.core c) p n).modHeap (fun h => { h with treated := n :: h.treated })) s
      t.modHeap (fun h =>
        let l := h.unacked.filter (· != c)
        { h with unacked := l, pass := if l.isEmpty then none else h.pass })

/-! ### The cycle (R231 to R235, R239) -/

/-- What a start from IDLE would run: (major, durable), if anything is requested (R239). -/
def State.cycleDue (s : State) : Option (Bool × Bool) :=
  let h := s.heap
  let maj := h.reqMaj || h.reqDur || (h.auto && s.hcnt kFREE < h.freemin)
  let min := h.reqMin || (h.auto && h.siltmax ≤ s.hcnt kSILT)
  if maj then some (true, h.reqDur) else if min then some (false, false) else none

/-- Start a cycle: the mark flip (R236, R239); the sinter engines are off in PS3 to PS5 (R459). -/
def State.cycleStart (s : State) : State :=
  if !s.heap.en || s.heap.phase != .idle || 3 ≤ s.power.ps then s
  else match s.cycleDue with
    | none => s
    | some (maj, dur) =>
      let roots := s.contexts.filter (fun n => s.ctxState n == 5)
      let waiters := roots.filter (fun n => (s.auxOf n).durWait)
      let s1 := s.flip.modHeap (fun h => { h with
        phase := .mark, major := maj, durq := dur
        reqMin := false, reqMaj := false, reqDur := false
        openBlock := [], queue := [], durMark := [], durRoots := if dur then roots else []
        durWaiters := if dur then waiters else []
        todoCards := (h.cards.filter (·.2)).map (·.1), cycleCards := [], markEndDone := false, selected := false
        kept := [], copies := [], scope := [], scopeMade := false, cycBrfull := false, cycResvlow := false, cycPoison := false
        cycMesh := false
        engineCards := [] })
      let s2 := s1.blocks.foldl (fun u b => if u.inScope b then u.setE b 87 70 0 else u) s1
      (s2.modHeap (fun h => { h with toScan := s.contexts })).startPass .markFlip

/-- The pass of MARK whose treatment the records get: the mark-end pass once it has begun (R236). -/
def Heap.markPass (h : Heap) : PassKind := if h.markEndDone then .markEnd else .markFlip

/-- An engine scans a context record that is not resident: the treatment of the mark flip with the root scan, or that of the
mark-end pass (R231, R236). -/
def State.traceRecord (s : State) (se n : Nat) : State :=
  if !s.heap.toScan.contains n then s
  else
    let t := if s.ctxRes n || s.heap.treated.contains n then s else s.treatCtx (.engine se) s.heap.markPass n
    t.modHeap (fun h => { h with toScan := h.toScan.filter (· != n) })

/-- An engine scans a set card: clears it, then treats each of its cells as a root (R231, R234). -/
def State.traceCard (s : State) (se k : Nat) : State :=
  if !SMap.get false s.heap.cards k then s.modHeap (fun h => { h with todoCards := h.todoCards.filter (· != k) })
  else
    let a := 512 * k
    let t := s.modHeap (fun h => { h with
      cards := SMap.set false h.cards k false
      todoCards := h.todoCards.filter (· != k)
      cycleCards := insertNat k h.cycleCards })
    let b := blockOf a
    let any := t.heap.cards.any (fun e => e.2 && blockOf (512 * e.1) == b)
    let t := if any then t else t.setE b 64 64 0
    t.engineSlots se false 32 a

/-- An engine traces the oldest queued object (R231). -/
def State.traceObject (s : State) (se : Nat) : State :=
  match s.heap.queue with
  | [] => s
  | (o, dur) :: l =>
    let t := s.modHeap (fun h => { h with queue := l })
    let (a, n) := t.pointerCells o
    t.engineSlots se dur n a

/-- An engine rescans the marked objects of a block (R228). -/
def State.traceBlock (s : State) (se b : Nat) : State :=
  if !eRescan (s.entry b) || !s.heap.queue.isEmpty then s
  else
    (s.startsIn b).foldl (fun u e =>
      if u.marked e.1 then (let (a, n) := u.pointerCells e.1; u.engineSlots se (u.durable e.1) n a) else u)
      (s.setE b 89 89 0)

/-- Nothing is left to trace. -/
def State.traced (s : State) : Bool :=
  s.heap.queue.isEmpty && s.heap.toScan.isEmpty && s.heap.todoCards.isEmpty &&
    s.blocks.all (fun b => !eRescan (s.entry b))

/-- MARK_END: the mark-end pass, and then the end of MARK (R231, R236). -/
def State.markEnd (s : State) : State :=
  if !s.heap.en || s.heap.phase != .mark || s.heap.pass.isSome || !s.traced then s
  else if !s.heap.markEndDone then
    -- the records that are not resident are to be scanned again
    (s.modHeap (fun h => { h with markEndDone := true, toScan := s.contexts })).startPass .markEnd
  else s.modHeap (fun h => { h with phase := .select })

/-- The pass that the record of `n` still needs when it is filled (R237). -/
def State.passOwed (s : State) (n : Nat) : Option PassKind :=
  if s.heap.treated.contains n then none
  else match s.heap.phase with
    | .mark => if s.heap.toScan.contains n then some s.heap.markPass else none
    | .relocate => some .relocFlip
    | .remap => some .relocFlip
    | _ => none

/-- The filling core treats a record that the engines have not treated (R237). -/
def State.treatFill (s : State) (c n : Nat) : State :=
  match s.passOwed n with
  | some p => s.treatCtx (.core c) p n
  | none => s

/-- The conditions that keep a block out of the relocation set, the live count apart (R233). -/
def State.fixedInPlace (s : State) (b : Nat) : Bool :=
  let e := s.entry b
  eNorel e || eLarge e || 0 < ePin e || s.inRun b

/-- Some object of the block is marked durable; a block that continues a run holds a part of the run's one object. -/
def State.holdsDurable (s : State) (b : Nat) : Bool := (s.startsIn (s.headOf b)).any (fun e => s.durable e.1)

/-- Write fillers over the unmarked objects of a block that no context holds; `clear` empties their bodies too (R186, R233). -/
def State.sweepBlock (s : State) (b : Nat) (clear : Bool) : State :=
  (s.startsIn b).foldl (fun u e =>
    if u.marked e.1 || u.heldAt e.1 then u
    else
      let n := u.sizeAt e.1
      let t := if clear then foldUp (fun i x => x.putHeap (e.1 + 16 * (i + 1)) 0) (satAt 131072 (n - 1)) 0 u else u
      (t.filler e.1 n).setStart e.1 0) s

/-- The blocks of the run that begins at `b`. -/
def State.runFrom (s : State) (b : Nat) : Nat → List Nat
  | 0 => [b]
  | n + 1 => if s.goesOn b then b :: s.runFrom (b + 1) n else [b]

/-- A block that holds a durable object can become bedrock in place: a run does so whole, its first block deciding (R233, R242). -/
def State.bedInPlace (s : State) (b : Nat) : Bool :=
  if eCont (s.entry b) then eKind (s.entry (s.headOf b)) == kBEDROCK
  else s.bedRoom (s.runFrom b 32768).length

/-- Keep a condemned silt block in place (R233): it becomes clay, or bedrock if it holds a durable object. -/
def State.keepSilt (s : State) (b : Nat) : State :=
  let dur := s.holdsDurable b
  let bed := dur && s.bedInPlace b
  let s0 := if dur && !bed then s.setBrfull else s
  let s1 := s0.sweepBlock b false
  let ch := eChunk (s1.entry b)
  let s2 := if ch < 32 then s1.filler (s1.blockVa b + ch * 0x10000) ((32 - ch) * 4096) else s1
  let c := setField (s2.entry b) 115 112 (if bed then kBEDROCK else kCLAY)
  let s3 := s2.setEntry b (normalize (setBit c 0 true))
  let s4 := s3.modHeap (fun h => { h with kept := insertNat b h.kept })
  if bed then
    (s4.startsIn b).foldl (fun u e => u.modHeap (fun h => { h with durMark := SMap.set false h.durMark e.1 true })) (s4.noteBlock b)
  else s4

/-- Insert a block into a list rising in `LIVE`. -/
def insertLive (live b : Nat) : List (Nat × Nat) → List (Nat × Nat)
  | [] => [(live, b)]
  | (l, c) :: r => if live < l then (live, b) :: (l, c) :: r else (l, c) :: insertLive live b r

/-- Split candidates, rising in `LIVE`, into those that fit in `room` cells and the rest (R233). -/
def fitLive : Nat → List (Nat × Nat) → List Nat × List Nat
  | _, [] => ([], [])
  | room, (l, b) :: r =>
    if l ≤ room then (let (f, o) := fitLive (room - l) r; (b :: f, o)) else (let (f, o) := fitLive 0 r; (f, b :: o))

/-- SELECT (R233). -/
def State.select (s : State) : State :=
  if !s.heap.en || s.heap.phase != .select || s.heap.selected || s.heap.pass.isSome then s
  else
    let major := s.heap.major
    let silt := (s.blocksOf kSILT).filter (fun b => !eNew (s.entry b))
    let stays := fun b => s.fixedInPlace b || 114688 ≤ eLive (s.entry b)
    let old := if major then (s.blocksOf kCLAY ++ s.blocksOf kBEDROCK).filter (fun b => !eNew (s.entry b)) else []
    let pct := satAt 100 s.heap.relpct
    let movable := fun b => !s.fixedInPlace b && (eKind (s.entry b) == kCLAY || s.heap.brrel)
    let sparse := fun b => eLive (s.entry b) * 100 < pct * 131072
    let durClay := fun b => eKind (s.entry b) == kCLAY && s.holdsDurable b
    let cand := (silt.filter (fun b => !stays b)) ++ old.filter (fun b => movable b && sparse b)
    let sorted := cand.foldl (fun l b => insertLive (eLive (s.entry b)) b l) []
    let free := s.hcnt kFREE
    let reserve := (satAt free s.heap.resv) * 131072 - 64 * 8192
    let (inSet, out) := fitLive reserve sorted
    let keep := silt.filter (fun b => stays b || out.contains b)
    let s1 := if !out.isEmpty then s.modHeap (fun h => { h with resvlow := true, cycResvlow := true }) else s
    let s2 := keep.foldl (fun u b => u.keepSilt b) s1
    let s3 := inSet.foldl (fun u b => u.setE b 111 111 1) s2
    -- clay with a durable object that does not enter the set becomes bedrock in place
    let s4 := (old.filter (fun b => durClay b && !inSet.contains b)).foldl (fun u b =>
      if u.bedInPlace b then (u.setE b 115 112 kBEDROCK).noteBlock b else u.setBrfull) s3
    -- the major sweep outside the set; a run whose first block holds no marked object is freed whole, unless it is pinned
    let rest := old.filter (fun b => !inSet.contains b)
    let heads := rest.filter (fun b => s.runHead b && !((s.startsIn b).any (fun e => s.marked e.1)) &&
      (s.runFrom b 32768).all (fun k => ePin (s.entry k) == 0))
    let dead := (heads.map (fun b => s.runFrom b 32768)).flatten
    let s5 := (rest.filter (fun b => !dead.contains b)).foldl (fun u b => u.sweepBlock b true) s4
    s5.modHeap (fun h => { h with
      selected := true
      clearing := h.clearing ++ dead
      starts := h.starts.filter (fun e => !dead.contains (blockOf e.1)) })

/-- RELOCATE_FLIP (R231, R236). -/
def State.relocateFlip (s : State) : State :=
  if !s.heap.en || s.heap.phase != .select || !s.heap.selected || s.heap.pass.isSome then s
  else (s.flip.modHeap (fun h => { h with phase := .relocate })).startPass .relocFlip

/-- The live objects of the relocation set that are not yet copied. -/
def State.uncopied (s : State) : List Nat :=
  ((s.heap.starts.filter (fun e => eRel (s.entry (blockOf e.1)) && (s.heapCell e.1).tag != tagFWD && s.marked e.1)).map (·.1))

/-- An engine can copy the object: a chunk can be had (R232). -/
def State.copyable (s : State) (a : Nat) : Bool := [0, 1].any (fun se => (s.forward (.engine se) a).1 != a)

/-- ENGINE_COPY (R232). -/
def State.engineCopy (s : State) (se obj : Nat) : State :=
  if !s.heap.en || s.heap.phase != .relocate || s.heap.pass.isSome || !s.uncopied.contains obj then s
  else (s.forward (.engine se) obj).2

/-- The window addresses of the pointer-tagged cells in `n` bytes from `a`, inside one block. -/
def State.pointerSlots (s : State) (a n : Nat) : List Nat :=
  let pa := s.heapPa a
  s.mem.filterMap (fun e =>
    if pa ≤ e.1 && e.1 < pa + n && e.1 % 16 == 15 && (s.cell (e.1 - 15)).isPointer then some (a + (e.1 - 15 - pa)) else none)

/-- The remap scope (R234). -/
def State.remapScope (s : State) : List RemapItem :=
  let live := s.blocks.filter (fun b => 2 ≤ eKind (s.entry b))
  let news := (live.filter (fun b => eNew (s.entry b))).flatMap (fun b => s.pointerSlots (s.blockVa b) (2 ^ 21))
  let objs := fun (l : List Nat) => l.flatMap (fun o =>
    let p := s.pointerCells o
    (List.range p.2).map (fun i => p.1 + 16 * i))
  let copies := objs s.heap.copies
  let mine :=
    if s.heap.major then
      objs ((s.heap.starts.filter (fun e => !eRel (s.entry (blockOf e.1)) && s.marked e.1)).map (·.1))
    else
      let cards := s.heap.cycleCards ++ (s.heap.cards.filter (·.2)).map (·.1)
      cards.flatMap (fun k => (List.range 32).map (fun i => 512 * k + 16 * i)) ++
        s.heap.kept.flatMap (fun b => s.pointerSlots (s.blockVa b) (2 ^ 21))
  let slots := (news ++ copies ++ mine).foldl (fun l a => insertNat a l) []
  s.contexts.map RemapItem.record ++ slots.map RemapItem.slot

/-- REMAP begins once every live object that can be copied is (R231). -/
def State.remap (s : State) : State :=
  if !s.heap.en || s.heap.phase != .relocate || s.heap.pass.isSome || s.uncopied.any s.copyable then s
  else
    let t := s.modHeap (fun h => { h with phase := .remap })
    t.modHeap (fun h => { h with scope := t.remapScope, scopeMade := true })

/-- ENGINE_HEAL of one item of the scope (R234). -/
def State.engineHeal (s : State) (se : Nat) (it : RemapItem) : State :=
  if !s.heap.en || s.heap.phase != .remap || !s.heap.scope.contains it then s
  else
    let t := match it with
      | .record n =>
        if s.ctxRes n || s.heap.treated.contains n then s else s.treatCtx (.engine se) .relocFlip n
      | .slot a => s.engineSlot se a false
    t.modHeap (fun h => { h with scope := h.scope.erase it })

/-- A block of the relocation set that keeps an object for which no chunk could be had stays, and what has left it becomes fillers (log
entry 138). -/
def State.keepUncopied (s : State) (b : Nat) : State :=
  let t := (s.startsIn b).foldl (fun u e =>
    let c := u.heapCell e.1
    if c.tag == tagFWD then (u.filler e.1 (u.sizeAt c.pay)).setStart e.1 0
    else if s.marked e.1 || s.heldAt e.1 then u else (u.filler e.1 (u.sizeAt e.1)).setStart e.1 0) s
  let k := if eKind (t.entry b) == kSILT then kCLAY else eKind (t.entry b)
  ((t.setE b 115 112 k).setE b 0 0 1).modHeap (fun h => { h with resvlow := true, cycResvlow := true })

/-- Close a copier's chunk with a filler. -/
def State.closeReloc (s : State) (w : Copier) (bed : Bool) : State :=
  let (p, l) := s.chunkOf w bed
  if p == 0 && l == 0 then s else (s.filler p ((l - p) / 16)).setChunk w bed (0, 0)

/-- REMAP_END: the set is freed, `REL` and `NEW` cleared, `CYCLES` counted, the completion presented (R234, R239). The
commit of R241 and the CKPTs that wait on the cycle are the journal's part. A freed block keeps its `KIND` until it has been
cleared, since R235 makes it free only then; what the entry reads as meanwhile is not stated (log entry 109). -/
def State.remapEnd (s : State) : State :=
  if !s.heap.en || s.heap.phase != .remap || !s.heap.scopeMade || !s.heap.scope.isEmpty || s.heap.pass.isSome then s
  else
    let s1 := allCores.foldl (fun u c => (u.closeReloc (.core c) false).closeReloc (.core c) true) s
    let s2 := [0, 1].foldl (fun u n => (u.closeReloc (.engine n) false).closeReloc (.engine n) true) s1
    let rel := s2.blocks.filter (fun b => eRel (s2.entry b))
    let left := rel.filter (fun b => s2.uncopied.any (fun a => blockOf a == b))
    let set := rel.filter (fun b => !left.contains b)
    let s2 := left.foldl State.keepUncopied s2
    let s3 := s2.blocks.foldl (fun u b => u.setE b 111 110 0) s2
    let bad := s3.heap.cycBrfull || s3.heap.cycResvlow
    let s4 := s3.modHeap (fun h => { h with
      phase := .idle
      cycles := (h.cycles + 1) % 2 ^ 48
      clearing := h.clearing ++ set
      starts := h.starts.filter (fun e => !set.contains (blockOf e.1))
      consMark := h.consMark.filter (fun e => !set.contains (blockOf e.1))
      cards := h.cards.filter (fun e => !set.contains (blockOf (512 * e.1)))
      durMark := [], copies := [], kept := [], scopeMade := false })
    if !s4.heap.cen then s4
    else if s4.heap.cycMesh then s4.present ⟨8, false, 0x46, s4.heap.cchan, 0, s4.heap.cycles⟩
    else if s4.heap.cycPoison && !bad then
      let (v, u) := s4.fresh
      u.present ⟨8, false, v.toNat % 255 + 1, u.heap.cchan, 0, u.heap.cycles⟩
    else s4.present ⟨8, false, if bad then 1 else 0, s4.heap.cchan, 0, s4.heap.cycles⟩

/-- Clear `n` bytes of HBM from `a` to zero by whole-granule writes (R235, R292). -/
def State.zeroRange (s : State) (a n : Nat) : State :=
  let out := fun (g : Nat) => !(a ≤ 128 * g && 128 * g < a + n)
  { s with
    mem := s.mem.filter (fun e => !(a ≤ e.1 && e.1 < a + n))
    poison := s.poison.filter (fun e => out e.1)
    ocUnder := s.ocUnder.filter (fun e => out e.1)
    l2Under := s.l2Under.filter (fun e => out e.1)
    l2Lines := (s.l2Lines.map (fun e => (e.1, e.2.filter out))).filter (fun e => !e.2.isEmpty)
    l2Queue := (s.l2Queue.map (fun e => (e.1, e.2.filter out))).filter (fun e => !e.2.isEmpty)
    dir := (s.dir.map (fun e => (e.1, e.2.filter (fun d => out d.granule)))).filter (fun e => !e.2.isEmpty)
    cores := s.cores.map (fun e => (e.1, { e.2 with
      icache := (e.2.icache.map (fun i => (i.1, i.2.filter out))).filter (fun i => !i.2.isEmpty)
      oc := e.2.oc.map (fun o => if out (4 * o.line) then o else { o with valid := 0, dirty := 0 }) })) }

/-- BLOCK_CLEARED (R235): in IDLE a freed block is zero and becomes free. -/
def State.blockCleared (s : State) (b : Nat) : State :=
  if !s.heap.en || s.heap.phase != .idle || !s.heap.clearing.contains b then s
  else
    let e := s.entry b
    let t := s.zeroRange (ePframe e * 2 ^ 21) (2 ^ 21)
    (t.setEntry b (takenEntry e kFREE false)).modHeap (fun h => { h with clearing := h.clearing.filter (· != b) })

end Sys2Proof.Machine
end

