-- ==== Sys2Proof/Machine/Journal.lean ====
section
/-! DEFINITION. The tuff journal: change lists, commits and checkpoints, the sample ring, wear units, the power-fail
commit and restore (chapter 15). -/

namespace Sys2Proof.Machine

def State.modJr (s : State) (f : Journal → Journal) : State := { s with jr := f s.jr }

/-! ### Wear units (R366, R374, R375) -/

/-- Wear units outside the remap reserve. -/
def usedUnits : Nat := 116736

def Journal.wearMax (j : Journal) : Nat := j.wear.foldl (fun m e => if m < e.2 then e.2 else m) 0
def Journal.wearMean (j : Journal) : Nat := (j.wear.foldl (fun m e => m + e.2) 0) / 131072
def Journal.unitsLeft (j : Journal) : Nat := 14336 - (j.retired.length - j.unitsBase)

/-- Unit `p` holds the contents of a unit other than `u`. -/
def Journal.taken (j : Journal) (u p : Nat) : Bool :=
  (p != u && p < usedUnits && SMap.get p j.wearMap p == p) || j.wearMap.any (fun e => e.1 != u && e.2 == p)

/-- One more write keeps unit `p` within 1.05 × the mean + 2 × 10^6 (R374), and it is not retired. -/
def Journal.wearOk (j : Journal) (p : Nat) : Bool :=
  20 * (SMap.get 0 j.wear p + 1) ≤ 21 * j.wearMean + 40000000 && !j.retired.contains p

/-- Unit `v`, or where it may take no more writes the one written least of those that may. -/
def Journal.pickUnit (j : Journal) (v : Nat) : Nat :=
  if j.wearOk v then v
  else ((List.range 131072).filter j.wearOk).foldl (fun m p =>
    if !j.wearOk m || SMap.get 0 j.wear p < SMap.get 0 j.wear m then p else m) v

/-- A wear unit takes one more write; which one the controller uses is a free value (R374, log entry 11). -/
def State.wearOne (s : State) : State :=
  let (v, t) := s.fresh
  t.modJr (fun j => { j with wear := SMap.modify 0 j.wear (j.pickUnit (v.toNat % 131072)) (· + 1) })

/-- The writes of `bytes` bytes to the tuff die. -/
def State.wearBytes (s : State) (bytes : Nat) : State := foldUp (fun _ t => t.wearOne) (cdiv bytes 65536) 0 s

/-- Unit `p` is retired to the remap reserve; contents that lie in it move to a unit that is free (R375). -/
def Journal.retireUnit (j : Journal) (p : Nat) : Journal :=
  let k := { j with retired := insertNat p j.retired }
  let at_ := match j.wearMap.find? (fun e => e.2 == p) with
    | some e => some e.1
    | none => if p < usedUnits && SMap.get p j.wearMap p == p then some p else none
  match at_ with
  | none => k
  | some u => match (List.range 131072).find? (fun f => k.wearOk f && !k.taken u f) with
    | some f => { k with wearMap := SMap.set u k.wearMap u f, wear := SMap.modify 0 k.wear f (· + 1) }
    | none => k

/-- A write fails verify: its unit, which one is a free value, is retired, and the write is made again in another (R375). -/
def State.writeFails (s : State) : State :=
  let (v, t) := s.fresh
  (t.modJr (fun j => j.retireUnit (v.toNat % 131072))).wearOne

/-- `bytes` bytes are written to the tuff die, after at most 3 writes that fail verify: how many do is a free value (R375, log entry
11). -/
def State.tuffWrite (s : State) (bytes : Nat) : State :=
  if bytes == 0 then s
  else
    let (v, t) := (s.wearBytes bytes).fresh
    foldUp (fun _ u => u.writeFails) (v.toNat % 4) 0 t

/-- An uncorrectable tuff read, or a write that failed all retries: `MEDIA` and the record (R375); the unit is a free value. -/
def State.tuffError (s : State) : State :=
  let (u, t) := s.fresh
  (t.modJr (fun j => { j with media := true })).logErr 6 0 0x0D 2 0 (u.toNat % 131072)

/-- `bytes` bytes are written to the tuff die, or fail verify four times, which sets `MEDIA` (R375): free values say which, and the
answer says whether they were written. -/
def State.tuffTry (s : State) (bytes : Nat) : Bool × State :=
  let (v, t) := (s.tuffWrite bytes).fresh
  if bytes != 0 && bit v 0 then (false, t.writeFails.tuffError) else (true, t)

/-- WEAR_LEVEL_MOVE: a unit is rewritten at `dest`, its own or a free one. After `fails` failed verifies, each of which retires the unit
written, the contents lie in another; after four, `ok` = false, they stay where they were, and `MEDIA` is set. `unread` = they could
not be read. The controller makes no move that R374 does not allow; VC2 has the levelling (R489). -/
def State.wearMove (s : State) (unit dest : Nat) (fails : Nat) (ok unread : Bool) : State :=
  if usedUnits ≤ unit || s.jr.taken unit dest || !s.jr.wearOk dest || s.dutyWaits 2 then s
  else
    let count := fun (j : Journal) => { j with wear := SMap.modify 0 j.wear dest (· + 1) }
    let t :=
      if !ok then (foldUp (fun _ u => u.writeFails) 3 0 (s.modJr (fun j => (count j).retireUnit dest))).tuffError
      else
        let m := s.modJr (fun j => { count j with wearMap := SMap.set unit j.wearMap unit dest })
        if fails == 0 then m else foldUp (fun _ u => u.writeFails) (fails - 1) 0 (m.modJr (fun j => j.retireUnit dest))
    if unread then t.tuffError else t

/-! ### Change lists (R229, R371) -/

/-- The 32 cells of a bedrock card, by window address ÷ 512. -/
def State.cardCells (s : State) (k : Nat) : List Cell := s.cellsAt 32 (s.heapPa (512 * k))

/-- The controller claims the four granules of a card exclusively and copies it (R371). -/
def State.claimCard (s : State) (k : Nat) : State := (granulesOf (s.heapPa (512 * k)) 512).foldl (fun t g => t.agentTake g) s

/-- Every card of a list is claimed. -/
def State.claimCards (s : State) (l : List Nat) : State := l.foldl (fun t k => t.claimCard k) s

/-- A granule of the card is poisoned (R292). -/
def State.cardPoisoned (s : State) (k : Nat) : Bool := (granulesOf (s.heapPa (512 * k)) 512).any s.poisoned

/-- Bytes of open spills of context `n`. -/
def State.spilled (s : State) (n : Nat) : Nat := 512 * (s.jr.spills.filter (fun e => e.1 == n)).length

/-- `LOGFREE`, MiB (R367): the log area less the open spills. -/
def State.logFree (s : State) : Nat := (134217728 - 512 * s.jr.spills.length) / 1048576

/-- The contexts with open spills. -/
def State.spillers (s : State) : List Nat := s.jr.spills.foldl (fun l e => insertNat e.1 l) []

/-- The open checkpoint to abort (R371): the most spilled data, then the highest context number. -/
def State.abortChoice (s : State) : Option Nat :=
  s.spillers.foldl (fun (r : Option Nat) n => match r with
    | none => some n
    | some m => if s.spilled m ≤ s.spilled n then some n else some m) none

/-- Abort one open checkpoint while the log has less than 16 MiB free (R371). -/
def State.checkLog (s : State) : State :=
  if 16 * 1048576 ≤ 134217728 - 512 * s.jr.spills.length then s
  else match s.abortChoice with
    | none => s
    | some n =>
      (s.modJr (fun j => { j with spills := j.spills.filter (fun e => e.1 != n), abort := true })).modAux n
        (fun a => { a with aborted := true })

/-- Spill the listed cards of context `n` into the log (R371). -/
def State.spill (s : State) (n : Nat) : State :=
  let cards := (s.auxOf n).changes
  let s := s.claimCards cards
  let t := s.modJr (fun j => { j with
    spills := j.spills.filter (fun e => !(e.1 == n && cards.contains e.2.1)) ++ cards.map (fun k => (n, k, s.cardCells k)) })
  ((t.tuffWrite (512 * cards.length)).modAux n (fun a => { a with changes := [] })).checkLog

/-- A store of context `n` writes a bedrock cell of card `k` (R229, R371). -/
def State.noteCard (s : State) (n k : Nat) : State :=
  let l := (s.auxOf n).changes
  if l.contains k then s
  else
    let t := if 256 ≤ l.length then s.spill n else s
    t.modAux n (fun a => { a with changes := a.changes ++ [k] })

/-- The store barrier (R229) for a store of `v` by context `n` at virtual address `slot`, made after the store. -/
def State.storeBarrier (s : State) (n : Nat) (v : Cell) (slot : Nat) : State :=
  if !s.heap.en then s
  else
    let t := (s.setCard v slot).storeMark v
    if t.inBedrock slot then t.noteCard n (slot / 512) else t

/-! ### Durable marking (R240) -/

/-- A cell reaches a heap object outside bedrock. -/
def State.reachesOut (s : State) (v : Cell) : Bool :=
  v.isPointer && s.inWindow v.pay && eKind (s.entry (blockOf v.pay)) != kBEDROCK

/-- Cells 0 to 4 and 11 to 14 of the record, or a logged bedrock cell, reach an object outside bedrock (R240); the cards that FULL
listed count as the commit will hold them. -/
def State.needsDurable (s : State) (n : Nat) : Bool :=
  (s.ctxRegs n).nine.any s.reachesOut || (s.listed n).any (fun k => (s.cardCells k).any s.reachesOut) ||
    (s.jr.spills.filter (fun e => e.1 == n)).any (fun e => e.2.2.any s.reachesOut)

/-- A CKPT enters `STATE` 5 (R370 steps 2 and 3). -/
def State.ckptBegin (s : State) (n resume : Nat) : State :=
  let need := s.heap.en && s.needsDurable n
  let t := (s.sleepAs n 5).modAux n (fun a => { a with ckptWait := true, resumePc := some resume, durWait := need })
  if need then t.modHeap (fun h => { h with reqDur := true }) else t

/-! ### Commits (R369 to R372) -/

/-- `HWB`, `BTB` and `SAB` as registers read (R219). -/
def Heap.hwb (h : Heap) : Nat := h.vbase * 2 ^ 36 + b2n h.en
def Heap.btb (h : Heap) : Nat := h.btaddr * 2 ^ 19
def Heap.sab (h : Heap) : Nat := h.saaddr * 2 ^ 30

/-- A commit of what a party holds now. -/
def State.newCommit (s : State) (kind : CommitKind) (cps : List (Nat × Checkpoint)) (cards : List (Nat × List Cell))
    (entries : List (Nat × List Byte)) : Commit :=
  { seq := s.jr.nextSeq + 1, kind := kind, checkpoints := cps, cards := cards, entries := entries,
    window := (s.heap.hwb, s.heap.btb, s.heap.sab),
    blocks := (s.blocksOf kBEDROCK).map (fun b => (b, s.entry b)), staged := false }

/-- A commit's own bytes (R372); its spills are in the log already. -/
def Commit.size (c : Commit) : Nat := 832 + 512 * (c.cards.length - c.logged.length)

/-- Bytes of the open commits in the staging buffer (R367). -/
def Journal.staging (j : Journal) : Nat := satAt 1048576 (j.open_.foldl (fun n c => n + c.size) 0)

/-- A commit whose own failure its party meets by poison: a checkpoint; another party leaves poisoned cards out (log entry 100). -/
def CommitKind.failsOnPoison : CommitKind → Bool
  | .context _ => true
  | _ => false

/-- A commit with every bedrock card that FULL listed (R368). -/
def State.withFull (s : State) (c : Commit) : Commit :=
  if !s.jr.full then c
  else
    let more := s.allBedrockCards.filter (fun k => !c.cards.any (fun e => e.1 == k))
    let poisoned := more.any s.cardPoisoned && c.kind.failsOnPoison
    { c with
      cards := c.cards ++ (if c.kind.failsOnPoison then more else more.filter (fun k => !s.cardPoisoned k)).map (fun k => (k, s.cardCells k))
      bad := c.bad || poisoned, full := true }

/-- The controller accepts a commit: the next sequence number is taken, and each card is claimed as it is copied (R368, R369,
R371). -/
def State.accept (s : State) (c : Commit) : State :=
  let d := s.withFull c
  (s.claimCards (d.cards.map (·.1))).modJr (fun j => { j with nextSeq := d.seq, full := false, open_ := j.open_ ++ [d] })

/-- What the checkpoint of context `n` holds (R370 steps 4 and 5). -/
def State.checkpointOf (s : State) (n q : Nat) : Checkpoint :=
  let a := s.auxOf n
  let r := s.ctxRegs n
  let r := { r with a := fixOfNat q, pc := match a.resumePc with | some p => BitVec.ofNat 64 p | none => r.pc }
  let kst := setField (setField (hwField (s.rcell n 24) 115 84 r.k.toNat) 83 81 2) 80 72 0
  { seq := q, cells := r.toCells ++ [s.rcell n 21, s.rcell n 22, s.rcell n 23, normalize kst, s.rcell n 25, s.rcell n 26],
    lines := a.lines, vectors := a.vectors, progress := a.progress, stops := a.stops }

/-- CKPT_ACCEPTANCE (R370, R371): a commit that now reaches outside bedrock waits; an aborted checkpoint is refused; otherwise
the commit takes its number and holds the record, the listed cards and the spills. -/
def State.ckptAccept (s : State) (n : Nat) : State :=
  let a := s.auxOf n
  if s.ctxState n != 5 || !a.ckptWait || a.durWait || s.jr.pf != PfPhase.normal then s
  else if s.heap.en && s.needsDurable n then
    ((s.modAux n (fun x => { x with durWait := true })).modHeap (fun h => { h with reqDur := true })).wakeTo 2
  else if a.aborted then
    (s.modAux n (fun x => { x with aborted := false, ckptWait := false })).present ⟨11, true, 0x21, n, 0, 0⟩
  else
    let q := s.jr.nextSeq + 1
    let mine := (s.jr.spills.filter (fun e => e.1 == n && !a.changes.contains e.2.1)).map (·.2)
    let cards := mine ++ a.changes.map (fun k => (k, s.cardCells k))
    let c := { s.newCommit (.context n) [(n, s.checkpointOf n q)] cards [] with
      bad := a.changes.any s.cardPoisoned, listed := a.changes, logged := mine.map (·.1) }
    -- the core writes cells 0 to 20 of the record, PC and A as the checkpoint holds them
    let t := s.setRecs n 0 ((s.checkpointOf n q).cells.take 21)
    ((t.accept c).modJr (fun j => { j with spills := j.spills.filter (fun e => e.1 != n) })).modAux n
      (fun x => { x with ckptWait := false, changes := [] })

/-- Write a list of cells into the bedrock image from cell number `i`. -/
def bedWrite (m : SMap Cell) (i : Nat) : List Cell → SMap Cell
  | [] => m
  | c :: cs => bedWrite (SMap.set 0 m i c) (i + 1) cs

/-- The commit takes effect in the journal (R369, R379). -/
def Journal.apply (j : Journal) (c : Commit) (now : Nat) : Journal :=
  { j with
    seq := c.seq
    hwb := c.window.1
    btb := c.window.2.1
    sab := c.window.2.2
    bedEntries := c.blocks
    bed := c.cards.foldl (fun m e => bedWrite m (32 * e.1) e.2) j.bed
    checkpoints := match c.kind with
      | .drop n => SMap.erase j.checkpoints n
      | _ => c.checkpoints.foldl (fun m e => SMap.set none m e.1 (some e.2)) j.checkpoints
    entries := c.entries.foldl (fun m e => SMap.set none m e.1 (some e.2)) j.entries
    lastTime := now }

/-- What a failed commit held is left for the next attempt (R371, R372): the change list, the spills, what FULL listed; a context that has
been reset has no list (R506). -/
def State.putBack (s : State) (c : Commit) : State :=
  let t := s.modJr (fun j => { j with full := j.full || c.full })
  match c.kind with
  | .context n =>
    if t.ctxState n == 0 then t
    else
      let u := t.modJr (fun j => { j with
        spills := (c.cards.filter (fun e => c.logged.contains e.1)).map (fun e => (n, e.1, e.2)) ++ j.spills })
      (u.modAux n (fun a => { a with changes := c.listed ++ a.changes.filter (fun k => !c.listed.contains k) })).checkLog
  | _ => t

/-- COMMIT_COMPLETE (R370 step 6, R372, R375): the oldest open commit's marker is in the tuff die after `fails` writes that failed
verify, or all four writes failed. A commit that met poison ends with a non-zero `STATUS`, which one is a free value (R292, log
entry 100). -/
def State.commitComplete (s : State) (fails : Nat) (ok : Bool) : State :=
  match s.jr.open_ with
  | [] => s
  | c :: l =>
    let s0 := (s.modJr (fun j => { j with open_ := l })).wearBytes c.size
    let s1 := foldUp (fun _ t => t.writeFails) (if ok then fails else 4) 0 s0
    let good := ok && !c.bad && !c.mesh
    let s2 := if good then s1.modJr (fun j => j.apply c s1.now) else if ok then s1.putBack c else (s1.putBack c).tuffError
    match c.kind with
    | .context n =>
      if ok && c.mesh then s2.present ⟨11, true, 0x46, n, 0, c.seq⟩
      else if ok && c.bad then
        let (v, t) := s2.fresh
        t.present ⟨11, true, v.toNat % 255 + 1, n, 0, c.seq⟩
      else s2.present ⟨11, true, if ok then 0 else 0x22, n, 0, c.seq⟩
    | _ => s2

/-- The engines' commit after REMAP and the CKPTs that waited on the cycle (R240 to R242). -/
def State.afterCycle (s : State) : State :=
  let cards := s.heap.engineCards.filter (fun k => !s.cardPoisoned k)
  let s1 := if cards.isEmpty then s
    else s.accept (s.newCommit .engines [] (cards.map (fun k => (k, s.cardCells k))) [])
  let s2 := s1.heap.durWaiters.foldl (fun u n =>
    if u.ctxState n == 5 && (u.auxOf n).durWait then
      if u.heap.cycBrfull then
        let (v, t) := u.fresh
        (t.modAux n (fun a => { a with durWait := false, ckptWait := false })).present ⟨11, true, 0x20, n, 0, v.toNat⟩
      else u.modAux n (fun a => { a with durWait := false })
    else u) s1
  s2.modHeap (fun h => { h with engineCards := [], durRoots := [], durWaiters := [], durq := false, major := false })

/-- A pointer into the relocation set, kept outside memory, at its object's new address. -/
def State.afterMove (s : State) (v : Cell) : Cell :=
  if v.isPointer && s.inWindow v.pay && eRel (s.entry (blockOf v.pay)) then
    match s.pointee v with
    | some o =>
      let c := s.heapCell o
      if c.tag == tagFWD then retarget v o c.pay s.heap.good else v
    | none => v
  else v

/-- The spilled bedrock cells follow the objects that the cycle moved, so what is committed points into bedrock (R240). -/
def State.moveSpills (s : State) : State :=
  s.modJr (fun j => { j with spills := j.spills.map (fun e => (e.1, e.2.1, e.2.2.map s.afterMove)) })

/-- REMAP_END with the journal's part. -/
def State.cycleEnd (s : State) : State :=
  let t := s.moveSpills.remapEnd
  if s.heap.phase == .remap && t.heap.phase == .idle then t.afterCycle else s

/-! ### Commands (R367, R368) -/

/-- The cell of a JCMD or DMCMD command (R367, R400). -/
def JCmd.cell (c : JCmd) (cmd : Nat) : Cell :=
  mkCell c.tag.toNat c.epoch.toNat
    (cmd * 2 ^ 48 + b2n c.dk * 2 ^ 47 + c.dest.toNat * 2 ^ 31 + c.rtag.toNat * 2 ^ 15 + c.rsvd.toNat / 2 ^ 16)
    (c.rsvd.toNat % 2 ^ 16 * 2 ^ 48 + c.arg.toNat)

/-- The granules of a range that are poisoned and not written whole (R292). -/
def State.blockedPart (s : State) (a n : Nat) : Bool :=
  (granulesOf a n).any (fun g => s.poisoned g && !(a ≤ 128 * g && 128 * g + 128 ≤ a + n))

/-- Granules written whole lose their poison (R292). -/
def State.wholeWrites (s : State) (a n : Nat) : State :=
  { s with poison := s.poison.filter (fun e => !(a ≤ 128 * e.1 && 128 * e.1 + 128 ≤ a + n)) }

/-- RREAD: copy `n` ring cells from position `p` to HBM at `pa` (R368). -/
def State.ringCopy (s : State) (pa p : Nat) : Nat → State
  | 0 => s
  | n + 1 => (s.agentWrite pa (SMap.get 0 s.jr.ring (p % 2 ^ 27))).ringCopy (pa + 16) (p + 1) n

/-- What RREAD delivers of 64 B that the tuff die could not read, which of them, and its `STATUS` are not stated: free values (R375,
log entry 111). -/
def State.ringBad (s : State) (pa n : Nat) : State × Nat :=
  let (v, s1) := s.tuffError.fresh
  let (w, s2) := s1.fresh
  let at_ := pa + 64 * (v.toNat % cdiv n 4)
  (foldUp (fun i t =>
    let (a, t1) := t.fresh
    let (b, t2) := t1.fresh
    if at_ + 16 * i < pa + 16 * n then t2.agentWrite (at_ + 16 * i) (normalize (a ++ b)) else t2) 4 0 s2, w.toNat % 256)

/-- A write of a cell to JCMD (R367, R368); `unread` = the tuff die cannot read what RREAD copies (R375), `mesh` = the address of a mesh
transfer of RREAD that failed (R481). -/
def State.jcmd (s0 : State) (v : Cell) (unread : Bool) (mesh : Option Nat := none) : State :=
  if v.tag != tagRAW || v.epoch != 0 || s0.boot.held then s0
  else
    let s := s0.wakeTo 3
    let cmd := field v 115 112
    let arg := field v 47 0
    let done := fun (t : State) (status value : Nat) =>
      t.present ⟨11, bit v 111, status, field v 110 95, field v 94 79, value⟩
    let (x, sx) := s.fresh
    if 2 < cmd || field v 78 48 != 0 then done sx 0x47 x.toNat
    else if cmd != 1 then
      if arg != 0 then done sx 0x47 x.toNat
      else done (if cmd == 2 then sx.modJr (fun j => { j with full := true }) else sx) 0 x.toNat
    else if arg % 16 != 0 || hbmEnd < arg + 48 then done sx 0x47 x.toNat
    else if mesh.isSome then done (sx.meshLost (mesh.getD 0)) 0x46 x.toNat
    else
      let (c0, s1) := s.agentRead arg
      let (c1, s2) := s1.agentRead (arg + 16)
      let (c2, s3) := s2.agentRead (arg + 32)
      let ok := c0.tag == tagRAW && c1.tag == tagRAW && c2.tag == tagRAW && c0.pay % 16 == 0 && 1 ≤ c2.pay && c2.pay ≤ 65536 &&
        c0.pay + 16 * c2.pay ≤ hbmEnd
      if (granulesOf arg 48).any s.poisoned || (ok && s.blockedPart c0.pay (16 * c2.pay)) then
        let (v, t) := sx.fresh
        done t (v.toNat % 255 + 1) x.toNat
      else if ok then
        let t := (s3.wholeWrites c0.pay (16 * c2.pay)).ringCopy c0.pay c1.pay c2.pay
        if unread then (let (u, st) := t.ringBad c0.pay c2.pay; done u st t.jr.rpos) else done t 0 t.jr.rpos
      else done sx 0x47 x.toNat

/-! ### The sample ring (R373) -/

/-- Write cells into the ring at `RPOS`. -/
def Journal.ringPut (j : Journal) : List Cell → Journal
  | [] => j
  | c :: l => Journal.ringPut { j with ring := SMap.set 0 j.ring (j.rpos % 2 ^ 27) c, rpos := j.rpos + 1 } l

/-- Eight bytes to a RAW cell, the first byte in `PAYLOAD[7:0]`. -/
def packRaw : Nat → List Byte → List Cell
  | 0, _ => []
  | n + 1, l => mkRAW (leValue (l.take 8)) :: packRaw n (l.drop 8)

/-- A SAMPLES frame received on a tapped link is written as one ring entry (R373). -/
def State.ringFrame (s : State) (link time : Nat) (bytes : List Byte) : State :=
  if !s.jr.ren || s.jr.tap / 2 ^ link % 2 == 0 || s.jr.pf != PfPhase.normal then s
  else
    let n := 2 + cdiv bytes.length 8
    if 1048576 < s.jr.staging + 16 * n then s.modJr (fun j => { j with rdrop := true })
    else
      let left := 2 ^ 27 - s.jr.rpos % 2 ^ 27
      let fill := if left < n then mkRAW (0xFF * 2 ^ 56 + left * 2 ^ 48) :: List.replicate (left - 1) (mkRAW 0) else []
      (s.tuffWrite (16 * (fill.length + n))).modJr (fun j => j.ringPut (fill ++ mkRAW (link * 2 ^ 56 + n * 2 ^ 48) :: mkTIME time :: packRaw (n - 2) bytes))

/-! ### Power fail and restore (R376, R379) -/

/-- The longest part of a list of commits that fits in `room` bytes. -/
def fitCommits : Nat → List Commit → List Commit
  | _, [] => []
  | room, c :: l => if c.size ≤ room then c :: fitCommits (room - c.size) l else []

/-- The first `n` open commits lie wholly in the staging buffer, at most 1 MiB, or before it in the log, as the oldest may (R376); no
further commit is accepted, ring writes stop. -/
def State.stageCommits (s : State) (n : Nat) : State :=
  let keep := match s.jr.open_.take n with
    | [] => []
    | c :: l => c :: fitCommits 1048576 l
  s.modJr (fun j => { j with
    pf := .failing
    open_ := keep.map (fun c => { c with staged := true }) })

/-- PFDONE (R376): the staged commits are in the tuff die, if their writing did not fail every retry (R375). -/
def State.finishStage (s : State) : State :=
  let (took, t) := s.tuffTry ((s.jr.open_.filter (·.staged)).foldl (fun n c => n + c.size) 0)
  t.modJr (fun j =>
    let k := j.open_.foldl (fun k c => if took && c.staged && !c.bad then k.apply c s.now else k) j
    { k with open_ := [], spills := [], nextSeq := k.seq, pfdone := true, pf := .done })

/-- A context record's 32 cells become 0, and what the device keeps with it is gone, the holds apart (R186, R195, R506). -/
def State.wipeCtx (s : State) (n : Nat) : State :=
  { s with
    ctxStore := s.ctxStore.filter (fun e => e.1 / 32 != n)
    aux := SMap.set {} s.aux n { holds := (s.auxOf n).holds } }

/-- Every context of the context store is free; the holds on work objects outlast it (R186). -/
def State.wipeAll (s : State) : State :=
  { s with
    ctxStore := s.ctxStore.filter (fun e => 524288 ≤ e.1)
    aux := (s.aux.filter (fun e => 16384 ≤ e.1 || !e.2.holds.isEmpty)).map (fun e =>
      if 16384 ≤ e.1 then e else (e.1, { holds := e.2.holds })) }

/-- A context receives its latest commit (R379 step 3). `dormant` = an exit from PS5, which keeps `STATE` and `WAKE` and
raises no POWER_FAIL (R380). -/
def State.restoreCtx (s : State) (n : Nat) (c : Checkpoint) (dormant : Bool) : State :=
  let s1 := s.setRecs n 0 c.cells
  let s2 := (s1.setRec n 9 (mkRAW 0)).setRec n 10 (mkRAW 0)
  let s3 := (s2.setResidence n none).setRecField n 26 63 0 c.seq
  let s4 := if dormant then s3 else s3.setCtxState n 2
  let s5 := s4.setAux n { lines := c.lines, vectors := c.vectors, holds := (s4.auxOf n).holds, progress := c.progress, stops := c.stops, powerFail := !dormant, seq := s4.order,
                          resumePc := c.resumePc, resumeBase := c.resumeBase }
  let t := { s5 with order := s5.order + 1 }
  -- its subscriptions
  c.lines.foldl (fun u e => match e.2 with
    | some ch => u.setChan ch { (u.chan ch) with sv := true, subc := n, line := e.1 }
    | none => u) t

/-- The object starts of a block, found by walking its objects from `a` (R219: the bitmap). -/
def State.walkStarts (s : State) (stop : Nat) : Nat → Nat → State
  | 0, _ => s
  | k + 1, a =>
    if stop ≤ a then s
    else
      let c := s.heapCell a
      if c.tag == tagHDR then
        if c.hdrSize == 0 then s else (s.setStart a 1).walkStarts stop k (a + 16 * c.hdrSize)
      else (s.setStart a 2).walkStarts stop k (a + 32)

/-- The frames of the journaled bedrock blocks hold zeros, whatever HBM held there: the journal holds the cells that are not 0 (R379). -/
def State.zeroFrames (s : State) : State :=
  let inFrame := fun (a : Nat) => s.jr.bedEntries.any (fun e => ePframe e.2 == a / 2 ^ 21)
  { s with mem := s.mem.filter (fun c => !inFrame c.1), poison := s.poison.filter (fun e => !inFrame (128 * e.1)) }

/-- Bedrock, its block-table entries and the window registers from the journal (R379 step 2). -/
def State.restoreBedrock (s : State) : State :=
  let j := s.jr
  let s1 := s.modHeap (fun h => { h with
    vbase := j.hwb / 2 ^ 36, en := false, btaddr := j.btb / 2 ^ 19, saaddr := j.sab / 2 ^ 30 })
  let s2 := j.bedEntries.foldl (fun u e => u.setEntry e.1 e.2) s1.zeroFrames
  let base := s2.heap.vbase * 2 ^ 36
  let s3 := j.bed.foldl (fun u e =>
    let a := 16 * e.1
    match j.bedEntries.find? (fun x => base + x.1 * 2 ^ 21 ≤ a && a < base + (x.1 + 1) * 2 ^ 21) with
    | some x => u.agentWrite (ePframe x.2 * 2 ^ 21 + a % 2 ^ 21) e.2
    | none => u) s2
  j.bedEntries.foldl (fun u e => u.walkStarts (u.blockVa e.1 + 2 ^ 21) 131072 (u.blockVa e.1)) s3

/-- The GTC is stepped forward to the time of the last commit (R358, R379 step 5). -/
def State.gtcForward (s : State) : State :=
  if s.now < s.jr.lastTime then { s with time := { s.time with gtc := s.jr.lastTime * 2 ^ 32 } } else s

/-- Restore from the journal (R379; R380 where `dormant`: the contexts of the entry committed at PS5 entry). -/
def State.restore (s : State) (dormant : Bool) : State :=
  let s1 := { (s.wipeAll) with channels := [] }
  let s2 := s1.restoreBedrock
  let s3 := s2.jr.checkpoints.foldl (fun u e => match e.2 with
    | some c => if c.seq == 0 || (dormant && c.seq != s2.jr.seq) then u else u.restoreCtx e.1 c dormant
    | none => u) s2
  (s3.modJr (fun j => { j with restored := true })).gtcForward

/-- A journal entry that drops the checkpoint of context `n`, those of its open commits included, takes its number; it counts once
its marker is whole (R369, R381, R506 step 4). -/
def State.dropCheckpoint (s : State) (n : Nat) : State :=
  let t := s.modJr (fun j => { j with spills := j.spills.filter (fun e => e.1 != n) })
  t.accept (t.newCommit (.drop n) [] [] [])

end Sys2Proof.Machine
end

