-- ==== Sys2Proof/Machine/Dispatcher.lean ====
section
/-! DEFINITION. The dispatcher: placement of contexts in slots (R198 to R200), the charge of `BUDGET` (R201), `WAKE`
(R209), and the advance of global time. -/

namespace Sys2Proof.Machine

/-! ### Time and budget (R201, R356) -/

/-- Charge the context of one slot for a microsecond boundary (R201). -/
def State.chargeSlot (s : State) (q : Cx) : State :=
  match (s.slot q).ctx with
  | none => s
  | some n =>
    let b := s.ctxBudget n
    if s.ctxState n != 2 || b == 0 || b == 0xFFFFFFFF then s
    else
      let t := s.setRecField n 25 31 0 (b - 1)
      if b == 1 then t.modAux n (fun a => { a with watchdog := true }) else t

/-- Every slot of the logical cores. -/
def allPlaces : List Cx := allCores.flatMap (fun c => allSlots.map (fun k => ⟨c, k⟩))

/-- Charge every context that runs (R201). -/
def State.charge (s : State) : State := allPlaces.foldl (fun t q => t.chargeSlot q) s

/-! ### Placement (R198) -/

/-- Context `n` may be placed on core `c`: active, powered, in a cluster that `CLU` allows and that is not being reset (R505). -/
def State.mayHost (s : State) (n c : Nat) : Bool :=
  s.coreActive c && s.coreOn c && (s.ctxClu n).testBit (c / 8) && !s.boot.resets.any (fun e => e.1 == c / 8)

/-- The context is placeable. -/
def State.placeable (s : State) (n : Nat) : Bool := s.ctxState n == 2 && !s.ctxRes n && s.ctxClu n != 0

/-- `a` is placed before `b`. -/
def State.placedBefore (s : State) (a b : Nat) : Bool :=
  if s.ctxPri a != s.ctxPri b then s.ctxPri b < s.ctxPri a
  else if (s.auxOf a).seq != (s.auxOf b).seq then (s.auxOf a).seq < (s.auxOf b).seq
  else a < b

/-- Insert into a list in order of placement. -/
def State.insertPlace (s : State) (n : Nat) : List Nat → List Nat
  | [] => [n]
  | m :: l => if s.placedBefore n m then n :: m :: l else m :: s.insertPlace n l

/-- The placeable contexts in the order of R198. -/
def State.placeOrder (s : State) : List Nat :=
  (s.contexts.filter s.placeable).foldl (fun l n => s.insertPlace n l) []

/-- The best element of a list under a strict preference. -/
def bestOf {α : Type} (better : α → α → Bool) : List α → Option α
  | [] => none
  | a :: l => match bestOf better l with
    | none => some a
    | some b => if better b a then some b else some a

/-- The occupied slots that context `n` may take over, with their contexts. -/
def State.hosts (s : State) (n : Nat) : List (Cx × Nat) :=
  allPlaces.filterMap (fun q =>
    if s.mayHost n q.core then (s.slot q).ctx.map (fun m => (q, m)) else none)

/-- The dispatch quantum in ns (R198 rule 4, entry 0x4010:00). -/
def State.quantum (s : State) : Nat := 1000 * s.dictNat 0x4010 0 1000

/-- The slot for context `n`, and whether rule 4 gives it (R198). Which of the free slots of the lowest core it is, rule 1 does not
say: the model takes the lowest number (log entry 113). -/
def State.placeFor (s : State) (n : Nat) : Option (Cx × Bool) :=
  match allPlaces.find? (fun q => s.mayHost n q.core && (s.slot q).ctx.isNone) with
  | some q => some (q, false)
  | none =>
    let hs := s.hosts n
    let asleep := hs.filter (fun h => 3 ≤ s.ctxState h.2 && s.ctxState h.2 ≤ 5)
    match bestOf (fun a b => if s.ctxPri a.2 != s.ctxPri b.2 then s.ctxPri a.2 < s.ctxPri b.2
        else (s.auxOf a.2).seq < (s.auxOf b.2).seq) asleep with
    | some h => some (h.1, false)
    | none =>
      let running := hs.filter (fun h => s.ctxState h.2 == 2)
      let lower := running.filter (fun h => s.ctxPri h.2 < s.ctxPri n)
      match bestOf (fun a b => if s.ctxPri a.2 != s.ctxPri b.2 then s.ctxPri a.2 < s.ctxPri b.2
          else (s.slot b.1).placedSeq < (s.slot a.1).placedSeq) lower with
      | some h => some (h.1, false)
      | none =>
        let spent := running.filter (fun h => s.ctxPri h.2 == s.ctxPri n && s.quantum < s.now - (s.slot h.1).placedAt)
        (bestOf (fun a b => (s.slot a.1).placedSeq < (s.slot b.1).placedSeq) spent).map (fun h => (h.1, true))

/-- The first placement that R198 makes: context, slot, and whether rule 4 makes it. -/
def State.placement (s : State) : Option (Nat × Cx × Bool) :=
  (s.placeOrder.findSome? (fun n => (s.placeFor n).map (fun p => (n, p))))

/-- Place context `n` in slot `q`: eviction at the boundary, fill, and the treatment that a pass owes it (R198, R199,
R237). Placing a context ungates its core (R462). -/
def State.place (s : State) (n : Nat) (q : Cx) : State :=
  if !s.atBoundary q then s
  else
    let t := ((s.evict q).fill q n).ungate q.core
    t.treatFill q.core n

/-- CONTEXT_PLACEMENT (R198): the dispatcher makes its next placement. -/
def execContextPlacement (s : State) : Out :=
  .next (match s.placement with
    | some (n, q, _) => s.place n q
    | none => s)

/-- DISPATCH_QUANTUM_EXPIRY (R198 rule 4): the slot's context has held it longer than the quantum and gives way to a
peer. -/
def execDispatchQuantumExpiry (core : BitVec 6) (slot : BitVec 2) (s : State) : Out :=
  .next (match s.placement with
    | some (n, q, true) => if q == ⟨core.toNat, slot.toNat⟩ then s.place n q else s
    | _ => s)

/-- WAKE_REACHED (R209): global time has reached the `WAKE` of a context in `STATE` 4. -/
def execWakeReached (ctx : BitVec 14) (s : State) : Out :=
  let n := ctx.toNat
  .next (if s.ctxState n == 4 && s.ctxWake n ≤ s.now then s.wakeReached n else s)

end Sys2Proof.Machine
end

