-- ==== Sys2Proof/Machine/HostBase.lean ====
section
/-! DEFINITION. The PCIe functions' state and their MSI-X messages (R383, R384, R388), which several units send. -/

namespace Sys2Proof.Machine

def State.func (s : State) (f : Nat) : Func := SMap.get {} s.funcs f
def State.setFunc (s : State) (f : Nat) (v : Func) : State := { s with funcs := SMap.set {} s.funcs f v }
def State.modFunc (s : State) (f : Nat) (g : Func → Func) : State := s.setFunc f (g (s.func f))

/-- Change a function's configuration space. -/
def State.modCfg (s : State) (f : Nat) (g : PciConfig → PciConfig) : State := s.modFunc f (fun x => { x with cfg := g x.cfg })

/-- What an unwritten byte of an MSI-X table reads as: every vector is masked after reset (log entry 13). -/
def msixDefault (off : Nat) : Byte := if off % 16 == 12 then 1 else 0

/-- Vector `v` of function `f` is masked in its table. -/
def Func.masked (x : Func) (v : Nat) : Bool := bit (SMap.get (msixDefault (16 * v + 12)) x.msix (16 * v + 12)) 0

/-- Function `f` may send vector `v` now: it is a bus master, MSI-X is enabled, and neither the function nor the vector is masked (R382;
log entry 116). -/
def Func.sends (x : Func) (v : Nat) : Bool := x.bme && x.cfg.msixEn && !x.cfg.msixMask && !x.masked v

/-- Signal vector `v` of function `f`: sent where the function may send it, else pending. -/
def State.signal (s : State) (f v : Nat) : State :=
  let x := s.func f
  if x.sends v then s.emit (.msix f v)
  else s.setFunc f { x with pba := SMap.set 0 x.pba (v / 8) (setBit (SMap.get 0 x.pba (v / 8)) (v % 8) true) }

/-- AER logs an error of a function, by its bit in the uncorrectable error status, and reports it (R382, R386; log entry 116). -/
def State.aer (s : State) (f code : Nat) : State :=
  (s.modFunc f (fun x => { x with cfg := { x.cfg with aerStat := x.cfg.aerStat ||| (1#32 <<< code) } })).emit (.aer f code)

end Sys2Proof.Machine
end

