-- ==== Sys2Proof/Machine/Reals.lean ====
section
/-! DEFINITION. The real functions that the kernels compute (R317, R321, R331, R333): sine, cosine, arc tangent, exponential and
logarithm, in fixed point with 512 fraction bits. Such a value differs from the exact one by less than 2⁻⁴⁰⁰; what a geyser makes
of its last places is free (`Config.lastPlace`, log entry 6). -/

namespace Sys2Proof

/-- A real number as a multiple of 2⁻⁵¹². -/
abbrev Fx := Int

/-- The fraction bits of `Fx`. -/
def fxBits : Nat := 512
def fxOne : Fx := 2 ^ fxBits
def fxMul (a b : Fx) : Fx := a * b / fxOne
def fxRat (n : Int) (d : Nat) : Fx := n * fxOne / (d : Int)
def fxDiv (a b : Fx) : Fx := a * fxOne / b

/-- Σ over odd m from 2i + 1, `fuel` terms, of (±1)ⁿ · y^m ÷ m, where `p` is y^(2i+1) and `q` is y². -/
def fxOddSeries (alternating : Bool) (q : Fx) : Nat → Nat → Fx → Fx
  | 0, _, _ => 0
  | fuel + 1, i, p =>
    let t := p / ((2 * i + 1 : Nat) : Int)
    (if alternating && i % 2 == 1 then -t else t) + fxOddSeries alternating q fuel (i + 1) (fxMul p q)

/-- arctan y for |y| ≤ ½. -/
def fxAtanSmall (y : Fx) : Fx := fxOddSeries true (fxMul y y) 260 0 y
/-- π = 16 arctan(1/5) − 4 arctan(1/239). -/
def fxPi : Fx := 16 * fxAtanSmall (fxOne / 5) - 4 * fxAtanSmall (fxOne / 239)
/-- ln 2 = 2 artanh(1/3). -/
def fxLn2 : Fx := 2 * fxOddSeries false (fxOne / 9) 170 0 (fxOne / 3)

/-- 1 − y/(a(a+1))·(1 − y/((a+2)(a+3))·(1 − …)): the even or odd part of the sine series in y = x². -/
def fxTrig (y : Fx) : Nat → Nat → Fx
  | 0, _ => fxOne
  | fuel + 1, a => fxOne - fxMul (y / ((a * (a + 1) : Nat) : Int)) (fxTrig y fuel (a + 2))

/-- (sin x) ÷ x and cos x for |x| ≤ 2π. -/
def fxSinc (x : Fx) : Fx := fxTrig (fxMul x x) 90 2
def fxCos (x : Fx) : Fx := fxTrig (fxMul x x) 90 1
/-- cos(2π·n/d). -/
def fxCosTurn (n d : Nat) : Fx := fxCos (2 * fxPi * ((n % d : Nat) : Int) / (d : Int))

/-- 1 + x/a·(1 + x/(a+1)·(1 + …)). -/
def fxExpFrom (x : Fx) : Nat → Nat → Fx
  | 0, _ => fxOne
  | fuel + 1, a => fxOne + fxMul (x / (a : Int)) (fxExpFrom x fuel (a + 1))

/-- 2^x as m · 2^i with m in [1, 2); far outside the range of binary64 the exponent saturates. -/
def fxExp2 (x : Fx) : Fx × Int :=
  let i := x / fxOne
  (fxExpFrom (fxMul (x % fxOne) fxLn2) 110 1, if i < -2300 then -2300 else if 2300 < i then 2300 else i)

/-- e^x in fixed point. -/
def fxExp (x : Fx) : Fx :=
  let (m, i) := fxExp2 (fxDiv x fxLn2)
  if i < 0 then m / (2 ^ i.natAbs : Int) else m * (2 ^ i.toNat : Int)

/-- ln(n/d) of a positive rational. -/
def fxLn (n d : Nat) : Fx :=
  let k : Int := (Nat.log2 n : Int) - (Nat.log2 d : Int)
  -- m = n ÷ (d · 2^k), in (½, 2)
  let a : Int := if k < 0 then ((n * 2 ^ k.natAbs : Nat) : Int) else (n : Int)
  let b : Int := if k < 0 then (d : Int) else ((d * 2 ^ k.natAbs : Nat) : Int)
  let y := fxDiv (a - b) (a + b)
  k * fxLn2 + 2 * fxOddSeries false (fxMul y y) 170 0 y

/-- √(n/d) of a non-negative rational. -/
def fxSqrt (n d : Nat) : Fx := (isqrt (n * 2 ^ (2 * fxBits) / d) : Int)

/-- arctan y for 0 ≤ y ≤ 1: the angle is halved twice. -/
def fxAtan (y : Fx) : Fx :=
  let half := fun (z : Fx) => fxDiv z (fxOne + (isqrt ((fxOne * fxOne + z * z).toNat) : Int))
  4 * fxAtanSmall (half (half y))

/-- The angle of the point (x, y), neither coordinate's magnitude a fraction: in (−π, π]. Not both are 0. -/
def fxAtan2 (y x : Int) : Fx :=
  let ax : Int := x.natAbs
  let ay : Int := y.natAbs
  let first := if ay ≤ ax then fxAtan (fxDiv ay ax) else fxPi / 2 - fxAtan (fxDiv ax ay)
  let upper := if x < 0 then fxPi - first else first
  if y < 0 then -upper else upper

/-! ### Rounding to a format -/

/-- A real number num · 2^−bits rounded to format `f`, to nearest, ties to even. -/
def roundReal (f : Fmt) (num : Int) (bits : Nat) : Nat := (roundRat f 0 (decide (num < 0)) num.natAbs (2 ^ bits)).1

/-- An encoding moved by a free `e`: at most four places, within the finite numbers of its sign. -/
def nudge (f : Fmt) (x e : Nat) : Nat :=
  let m := x % f.signBit
  let top := f.emaxField * 2 ^ (f.p - 1)
  if m == 0 || top ≤ m then x
  else
    let k : Int := (m : Int) + ((e % 9 : Nat) : Int) - 4
    let v := if k < 0 then 0 else if (top : Int) ≤ k then top - 1 else k.toNat
    x - m + v

/-- The functions whose last places are free, as `Config.lastPlace` names them (log entry 6). -/
inductive RealOp where
  | phase | sine | cosine | angle | lowPass | sweep | reference | density | ramp
  deriving DecidableEq, Repr

def RealOp.code : RealOp → Nat
  | .phase => 0 | .sine => 1 | .cosine => 2 | .angle => 3 | .lowPass => 4 | .sweep => 5 | .reference => 6 | .density => 7
  | .ramp => 8

/-- The result of a real function: its value num · 2^−bits in format `f`, the last places free but determined by the operands
(R315: the same inputs give the same result). -/
def realResult (f : Fmt) (op : RealOp) (args : List (BitVec 64)) (num : Int) (bits : Nat) : Nat :=
  nudge f (roundReal f num bits) (Config.lastPlace op.code args)

/-- 2π as the largest binary64 number below it, and π and 1. -/
def twoPiBits : Nat := 0x401921FB54442D18
def piBits : Nat := 0x400921FB54442D18
def oneBits : Nat := 0x3FF0000000000000

/-- `x` with its magnitude at most that of `top`. -/
def capMag (x top : Nat) : Nat := if top < x % 2 ^ 63 then x - x % 2 ^ 63 + top else x

/-- (φ + 2π·f·T) mod 2π (R321, R331). -/
def phaseStep (phi f t : BitVec 64) : BitVec 64 :=
  match fpRat f64 phi.toNat, fpRat f64 f.toNat, fpRat f64 t.toNat with
  | some (a, p), some (b, q), some (c, r) =>
    -- the whole turns of f·T drop out exactly
    let turn := fxRat (b * c % ((q * r : Nat) : Int)) (q * r)
    let x := (fxRat a p + fxMul (2 * fxPi) turn) % (2 * fxPi)
    BitVec.ofNat 64 (capMag (realResult f64 .phase [phi, f, t] x fxBits) twoPiBits)
  | _, _, _ => BitVec.ofNat 64 ((nanOf2 f64 phi.toNat f.toNat).getD f64.defaultNaN)

/-- sin φ of a phase, which a `phaseStep` gave, in binary64; its magnitude is at most 1. -/
def sinPhase (phi : BitVec 64) : BitVec 64 :=
  match fpRat f64 phi.toNat with
  | some (a, p) =>
    let x := fxRat a p
    -- near 0 the factor φ keeps its own exponent
    let v := if x < fxOne then
        nudge f64 (roundRat f64 0 false (a.natAbs * (fxSinc x).natAbs) (p * 2 ^ fxBits)).1 (Config.lastPlace RealOp.sine.code [phi])
      else realResult f64 .sine [phi] (fxMul x (fxSinc x)) fxBits
    BitVec.ofNat 64 (capMag v oneBits)
  | none => BitVec.ofNat 64 ((nanOf2 f64 phi.toNat 0).getD f64.defaultNaN)

/-- cos φ of a phase, in binary64. -/
def cosPhase (phi : BitVec 64) : BitVec 64 :=
  match fpRat f64 phi.toNat with
  | some (a, p) => BitVec.ofNat 64 (capMag (realResult f64 .cosine [phi] (fxCos (fxRat a p)) fxBits) oneBits)
  | none => BitVec.ofNat 64 ((nanOf2 f64 phi.toNat 0).getD f64.defaultNaN)

/-- atan2(y, x) in (−π, π], in binary64 (R321). The angle of the point (0, 0), and of one with two infinite coordinates, is not
stated: a free eighth of a turn (log entry 6). -/
def angle64 (y x : BitVec 64) : BitVec 64 :=
  match nanOf2 f64 y.toNat x.toNat with
  | some n => BitVec.ofNat 64 n
  | none =>
    let infY := !fpIsFinite f64 y.toNat
    let infX := !fpIsFinite f64 x.toNat
    let sign := fun (neg : Bool) => if neg then (-1 : Int) else 1
    let at_ := fun (v : Fx) => BitVec.ofNat 64 (capMag (realResult f64 .angle [y, x] v fxBits) piBits)
    if infY && infX || fpIsZero f64 y.toNat && fpIsZero f64 x.toNat then
      let k : Int := ((Config.openAngle y x % 8 : Nat) : Int) - 3
      at_ (k * fxPi / 4)
    else if infY then at_ (fxAtan2 (sign (y.toNat.testBit 63)) 0)
    else if infX then at_ (fxAtan2 0 (sign (x.toNat.testBit 63)))
    else match fpRat f64 y.toNat, fpRat f64 x.toNat with
      | some (a, p), some (b, q) => at_ (fxAtan2 (a * (q : Int)) (b * (p : Int)))
      | _, _ => 0

end Sys2Proof
end

