-- ==== Sys2Proof/Machine/GeyserDesc.lean ====
section
/-! DEFINITION. Stream descriptors (R304 to R311): their fields, the checks of LOAD, regions of stream memory, rates and
costs (R316, R327, R329). -/

namespace Sys2Proof.Machine

/-! ### Access -/

def State.gy (s : State) (g : Nat) : Geyser := SMap.get {} s.geysers g
def State.setGy (s : State) (g : Nat) (v : Geyser) : State := { s with geysers := SMap.set {} s.geysers g v }
def State.modGy (s : State) (g : Nat) (f : Geyser → Geyser) : State := s.setGy g (f (s.gy g))
def Geyser.slot (y : Geyser) (n : Nat) : GySlot := SMap.get {} y.slots n
def State.gySlot (s : State) (g n : Nat) : GySlot := (s.gy g).slot n
def State.setGySlot (s : State) (g n : Nat) (v : GySlot) : State :=
  s.modGy g (fun y => { y with slots := SMap.set {} y.slots n v })
def State.modGySlot (s : State) (g n : Nat) (f : GySlot → GySlot) : State := s.setGySlot g n (f (s.gySlot g n))

/-- A descriptor: 32 cells. -/
abbrev Desc := List Cell

/-- The `PAYLOAD` of descriptor cell `i`. -/
def dcell (d : Desc) (i : Nat) : Word64 := (nthD 0 d i).payload

/-! ### Fields (R305 to R309) -/

def dVer (d : Desc) : Nat := field (dcell d 0) 63 56
def dNst (d : Desc) : Nat := field (dcell d 0) 55 52
def dNout (d : Desc) : Nat := field (dcell d 0) 51 48
def dClass (d : Desc) : Nat := field (dcell d 0) 47 47
def dPs3ok (d : Desc) : Bool := bit (dcell d 0) 46
def dAchan (d : Desc) : Nat := field (dcell d 0) 31 16
def dDl (d : Desc) : Nat := field (dcell d 0) 15 0
def dSkind (d : Desc) : Nat := field (dcell d 1) 63 60
def dFmt (d : Desc) : Nat := field (dcell d 1) 59 56
/-- Link and lane, function and ingest slot, or geyser and slot of the source. -/
def dSrcUnit (d : Desc) : Nat := if dSkind d == 2 then field (dcell d 1) 49 48 else field (dcell d 1) 50 48
def dSrcSub (d : Desc) : Nat := field (dcell d 1) 47 40
def dTaps (d : Desc) : Nat := field (dcell d 1) 39 37
def dSgen (d : Desc) : Nat := field (dcell d 1) 31 0
def dPeriod (d : Desc) : Nat := (dcell d 2).toNat
def dFdep (d : Desc) : Nat := field (dcell d 3) 63 48
def dFoff (d : Desc) : Nat := field (dcell d 3) 47 35
def dTmo (d : Desc) : Nat := field (dcell d 3) 31 16
def dRamp (d : Desc) : Nat := field (dcell d 3) 15 0
def dKcode (d : Desc) (i : Nat) : Nat := field (dcell d (4 + 2 * i)) 63 56
def dIn (d : Desc) (i : Nat) : Nat := field (dcell d (4 + 2 * i)) 55 53
def dSmoff (d : Desc) (i : Nat) : Nat := field (dcell d (4 + 2 * i)) 52 40
def dPar (d : Desc) (i : Nat) : Word32 := BitVec.ofNat 32 (field (dcell d (4 + 2 * i)) 31 0)
def dWoff (d : Desc) (i : Nat) : Nat := field (dcell d (5 + 2 * i)) 63 51
def dSpoff (d : Desc) (i : Nat) : Nat := field (dcell d (5 + 2 * i)) 50 38
def dSpv (d : Desc) (i : Nat) : Bool := bit (dcell d (5 + 2 * i)) 37
def oKind (d : Desc) (j : Nat) : Nat := field (dcell d (20 + 2 * j)) 63 60
def oTap (d : Desc) (j : Nat) : Nat := field (dcell d (20 + 2 * j)) 59 57
def oTs (d : Desc) (j : Nat) : Bool := bit (dcell d (20 + 2 * j)) 56
def oPol (d : Desc) (j : Nat) : Nat := field (dcell d (20 + 2 * j)) 55 54
def oAddr (d : Desc) (j : Nat) : Nat := field (dcell d (20 + 2 * j)) 47 0
def oLink (d : Desc) (j : Nat) : Nat := field (dcell d (20 + 2 * j)) 42 40
def oLane (d : Desc) (j : Nat) : Nat := field (dcell d (20 + 2 * j)) 39 32
def oFmt (d : Desc) (j : Nat) : Nat := field (dcell d (20 + 2 * j)) 31 28
def oRlen (d : Desc) (j : Nat) : Nat := field (dcell d (21 + 2 * j)) 63 40
def oNchan (d : Desc) (j : Nat) : Nat := field (dcell d (21 + 2 * j)) 31 16
def oNevery (d : Desc) (j : Nat) : Nat := field (dcell d (21 + 2 * j)) 15 0
def oStamp (d : Desc) (j : Nat) : Cell := nthD 0 d (28 + j)

/-! ### Kernels (R316) -/

def kCAL : Nat := 0x01
def kFIR : Nat := 0x02
def kDEC : Nat := 0x03
def kFFT : Nat := 0x04
def kPSD : Nat := 0x05
def kRMS : Nat := 0x06
def kMMM : Nat := 0x07
def kRFC : Nat := 0x08
def kTHR : Nat := 0x09
def kSTF : Nat := 0x0A
def kSINE : Nat := 0x0B
def kSHOCK : Nat := 0x0C
def kRAND : Nat := 0x0D

/-- The drive kernels. -/
def isDrive (k : Nat) : Bool := k == kSINE || k == kSHOCK || k == kRAND

/-- The stage whose output enters stage `i` > 0, or none for stage 0. -/
def stageSrc (d : Desc) (i : Nat) : Option Nat :=
  if i == 0 then none else if dIn d i == 0 then some (i - 1) else some (dIn d i - 1)

/-- Block length N of an FFT or RAND stage. -/
def pN (par : Word32) : Nat := 2 ^ (field par 3 0 + 6)
/-- Decimation D of FIR, DEC or STF; window W of RMS or MMM; M of PSD. -/
def pD (par : Word32) : Nat := field par 11 0 + 1
def pT (par : Word32) : Nat := field par 31 24 + 1
def pW (par : Word32) : Nat := field par 23 0
def pWindow (par : Word32) : Nat := field par 6 4
def pOv (par : Word32) : Nat := field par 8 7
def pComplex (par : Word32) : Bool := bit par 9
def pM (par : Word32) : Nat := field par 15 0
def pBins (par : Word32) : Nat := 16 * 2 ^ field par 1 0
def pNab (par : Word32) : Nat := field par 15 0
/-- N(1 − ov) of an FFT stage. -/
def pHop (par : Word32) : Nat := pN par / 2 ^ pOv par

/-- What a stage emits: single values, a power frame, or records that no kernel accepts. -/
inductive Emits where
  | single | power | record
  deriving DecidableEq, Repr

def kEmits (k : Nat) (par : Word32) : Emits :=
  if k == kFFT then (if pComplex par then .record else .power)
  else if k == kCAL || k == kFIR || k == kDEC || k == kRMS || isDrive k then .single
  else .record

/-- The FFT block length behind a PSD stage. -/
def psdN (d : Desc) (i : Nat) : Nat :=
  match stageSrc d i with
  | some j => pN (dPar d j)
  | none => 64

/-- Values per record of stage `i`, without the TIME cell. -/
def recValues (d : Desc) (i : Nat) : Nat :=
  let k := dKcode d i
  let p := dPar d i
  if k == kFFT then (if pComplex p then pN p + 2 else pN p / 2 + 1)
  else if k == kPSD then psdN d i / 2 + 1
  else if k == kMMM || k == kRFC then 3
  else if k == kTHR || k == kSTF then 2
  else 1

/-- Cells per record of output `j`. -/
def recCells (d : Desc) (j : Nat) : Nat := recValues d (oTap d j) + b2n (oTs d j)

/-- `PAR` of a stage lies in its range, with its unused bits 0 (R316, R317). -/
def parOk (d : Desc) (i : Nat) : Bool :=
  let p := dPar d i
  let n := p.toNat
  let k := dKcode d i
  if k == kCAL then n < 2
  else if k == kFIR then field p 23 12 == 0
  else if k == kDEC then field p 15 12 == 0 && field p 31 28 == 0 && 2 ≤ pD p && field p 27 16 < pD p
  else if k == kFFT then field p 3 0 ≤ 10 && pWindow p ≤ 3 && pOv p ≤ 2 && n < 2 ^ 10
  else if k == kPSD then n < 2 ^ 20 && (pM p != 0 || field p 19 16 != 0)
  else if k == kRMS || k == kMMM then n < 2 ^ 24 && pW p != 0
  else if k == kRFC then n ≤ 2
  else if k == kTHR then n == 0
  else if k == kSTF then
    n < 2 ^ 20 && field p 15 12 == 0 &&
      (if bit p 19 then field p 18 16 == 0
       else field p 18 16 < dNst d && dKcode d (field p 18 16) == kSINE)
  else if k == kSINE then
    field p 17 16 ≤ 1 && field p 23 18 == 0 && field p 31 27 == 0 && field p 26 24 < dNst d &&
      dKcode d (field p 26 24) == kSTF
  else if k == kSHOCK then n < 2 ^ 16
  else if k == kRAND then n ≤ 10
  else false

/-- The kernel of stage `i` accepts what enters it (R311). -/
def feedOk (d : Desc) (i : Nat) : Bool :=
  let k := dKcode d i
  match stageSrc d i with
  | none => k != kPSD && ((k == kRAND) == (dSkind d == 4))
  | some j =>
    if k == kRAND then false
    else if k == kPSD then dKcode d j == kFFT && kEmits (dKcode d j) (dPar d j) == .power
    else kEmits (dKcode d j) (dPar d j) == .single

/-- The cell is RAW with `SPEC` and `EPOCH` 0. -/
def isPlainRaw (c : Cell) : Bool := c.tag == tagRAW && c.epoch == 0 && c.spec == 0

/-! ### Regions of stream memory (R308, R311, R316) -/

/-- Bytes of the parameter block of a stage. The count P or L of a SINE or SHOCK table stands in the block itself, which
LOAD precedes: how much LOAD reserves is open (log entry 14). -/
def blockBytes (d : Desc) (i : Nat) : Nat :=
  let k := dKcode d i
  let p := dPar d i
  if k == kCAL || k == kRFC || k == kTHR || k == kSTF then 16
  else if k == kFIR then 4 * pT p
  else if k == kSINE then 72 + 32 * (Config.tableLength k (dSmoff d i) % 64 + 1)
  else if k == kSHOCK then 32 + 4 * (Config.tableLength k (dSmoff d i) % 65536 + 1)
  else if k == kRAND then 16 + 4 * (pN p / 2 + 1)
  else 0

/-- Bytes of the work area of a stage. -/
def workBytes (d : Desc) (i : Nat) : Nat :=
  let k := dKcode d i
  let p := dPar d i
  if k == kFIR then 4 * pT p
  else if k == kFFT then 4 * pN p + 4 * (pN p - pHop p)
  else if k == kPSD then 8 * (psdN d i / 2 + 1)
  else if k == kRFC then 512 + 4 * pBins p ^ 2
  else if k == kRAND then 6 * pN p
  else 0

/-- A region of a stage: its offset and length in 64 B units. -/
def stageRegions (d : Desc) (i : Nat) : List (Nat × Nat) :=
  let b := cdiv (blockBytes d i) 64
  let w := cdiv (workBytes d i) 64
  (if b == 0 then [] else [(dSmoff d i, b)]) ++
  (if b == 0 || !dSpv d i then [] else [(dSpoff d i, b)]) ++
  (if w == 0 then [] else [(dWoff d i, w)])

/-- The regions of a stream: the FIFO (a generator has none), blocks, spares and work areas. -/
def regions (d : Desc) : List (Nat × Nat) :=
  (if dSkind d == 4 then [] else [(dFoff d, cdiv (4 * dFdep d) 64)]) ++
  (List.range (dNst d)).flatMap (stageRegions d)

def regionsMeet (a b : Nat × Nat) : Bool := a.1 < b.1 + b.2 && b.1 < a.1 + a.2

/-- No two regions of a list meet. -/
def apart : List (Nat × Nat) → Bool
  | [] => true
  | a :: l => l.all (fun b => !regionsMeet a b) && apart l

/-- Bytes `off` to `off + n − 1` of stream memory lie in regions of the stream. -/
def inRegions (d : Desc) (off n : Nat) : Bool :=
  let rs := regions d
  (List.range (cdiv (off % 64 + n) 64)).all (fun i =>
    let u := off / 64 + i
    rs.any (fun r => r.1 ≤ u && u < r.1 + r.2))

/-! ### Rates and costs (R316, R327) -/

/-- A non-negative rational. -/
abbrev Rate := Nat × Nat

def Rate.mul (a : Rate) (n m : Nat) : Rate := (a.1 * n, a.2 * m)
def Rate.add (a b : Rate) : Rate := if a.2 == b.2 then (a.1 + b.1, a.2) else (a.1 * b.2 + b.1 * a.2, a.2 * b.2)
def Rate.le (a : Rate) (n : Nat) : Bool := a.1 ≤ n * a.2
def Rate.ceilDiv (a : Rate) (n : Nat) : Nat := cdiv a.1 (a.2 * n)

/-- Samples per second at the source: 10⁹ ÷ `PERIOD`. -/
def sourceRate (d : Desc) : Rate :=
  match fpRat f64 (dPeriod d) with
  | some (n, m) => (1000000000 * m, n.natAbs)
  | none => (0, 1)

/-- Values per second leaving stage `i` of kernel `k` at input rate `r`. -/
def rateAfter (d : Desc) (i : Nat) (r : Rate) : Rate :=
  let k := dKcode d i
  let p := dPar d i
  if k == kFIR || k == kDEC then r.mul 1 (pD p)
  else if k == kRMS then r.mul 1 (pW p)
  else if k == kFFT then r.mul (pN p / 2 + 1) (pHop p)
  else r

/-- Values per second entering stage `i`; `fuel` bounds the path. -/
def rateIn (d : Desc) : Nat → Nat → Rate
  | 0, _ => sourceRate d
  | fuel + 1, i => match stageSrc d i with
    | none => sourceRate d
    | some j => rateAfter d j (rateIn d fuel j)

/-- binary32 and binary64 operations per second of stage `i` (R316). -/
def stageCost (d : Desc) (i : Nat) : Rate × Rate :=
  let k := dKcode d i
  let p := dPar d i
  let r := rateIn d 8 i
  let lg := field p 3 0 + 6
  if k == kCAL then (if bit p 0 then ((0, 1), r) else (r, (0, 1)))
  else if k == kFIR then (r.mul (pT p) (pD p), (0, 1))
  else if k == kFFT then (r.mul ((1 + 3 * lg) * 2 ^ pOv p) 1, (0, 1))
  else if k == kPSD || k == kRMS then ((0, 1), r)
  else if k == kMMM then (r.mul 2 1, r)
  else if k == kRFC then (r.mul 4 1, (0, 1))
  else if k == kTHR then (r.mul 2 1, (0, 1))
  else if k == kSTF then (r.mul 8 1, r.mul 2 1)
  else if k == kSINE then (r.mul 4 1, r.mul 6 1)
  else if k == kSHOCK then (r.mul 2 1, (0, 1))
  else if k == kRAND then (r.mul (2 * (1 + 3 * lg)) 1, (0, 1))
  else ((0, 1), (0, 1))

/-- Both costs of a stream. -/
def streamCost (d : Desc) : Rate × Rate :=
  (List.range (dNst d)).foldl (fun a i => (a.1.add (stageCost d i).1, a.2.add (stageCost d i).2)) ((0, 1), (0, 1))

/-- The ingest of a stream: kinds 1 and 2 only (R312). -/
def ingestRate (d : Desc) : Rate := if dSkind d == 1 || dSkind d == 2 then sourceRate d else (0, 1)

/-- F of R329 in tenths of a nanosecond, over the path that ends at stage `i`. -/
def pathF (d : Desc) : Nat → Nat → Nat
  | 0, _ => 0
  | fuel + 1, i =>
    let k := dKcode d i
    let p := dPar d i
    let own := if k == kFFT || k == kRAND then 2 * pN p * (field p 3 0 + 6) else if k == kPSD then psdN d i else 0
    own + (match stageSrc d i with | some j => pathF d fuel j | none => 0)

/-- `DL` is 0 or not less than the bound of R329 for every output. -/
def dlOk (d : Desc) : Bool :=
  dDl d == 0 || (List.range (dNout d)).all (fun j =>
    let k := dKcode d (oTap d j)
    let bound := if oKind d j == 3 && (k == kSINE || k == kSHOCK) then 80000
      else (if dClass d == 0 then 60000 else 100000) + pathF d 9 (oTap d j)
    bound ≤ 10000 * dDl d)

/-! ### The checks of LOAD (R311, R312) -/

/-- HEAD, SRC, PERIOD and LIMITS hold no reserved value. -/
def headOk (d : Desc) : Bool :=
  let src := dcell d 1
  dVer d == 1 && 1 ≤ dNst d && dNst d ≤ 8 && 1 ≤ dNout d && dNout d ≤ 4 && field (dcell d 0) 45 32 == 0 &&
  (if dSkind d == 1 then dFmt d ≤ 3 && field src 55 51 == 0 && field src 39 0 == 0
   else if dSkind d == 2 then dFmt d ≤ 3 && field src 55 50 == 0 && field src 39 0 == 0
   else if dSkind d == 3 then dFmt d == 0 && field src 55 51 == 0 && field src 36 32 == 0
   else dSkind d == 4 && field src 59 0 == 0) &&
  (match fpRat f64 (dPeriod d) with | some (n, _) => decide (0 < n) | none => false) &&
  field (dcell d 3) 34 32 == 0 && (dSkind d == 4 || 16 ≤ dFdep d)

/-- Stage `i` holds no reserved or inconsistent value. -/
def stageOk (d : Desc) (i : Nat) : Bool :=
  let a := dcell d (4 + 2 * i)
  let b := dcell d (5 + 2 * i)
  field a 39 32 == 0 && field b 36 0 == 0 && dIn d i ≤ i && parOk d i && feedOk d i &&
  !(isDrive (dKcode d i) && dClass d == 1)

/-- Output `j` holds no reserved or inconsistent value, memory apart. -/
def outputOk (d : Desc) (j : Nat) : Bool :=
  let a := dcell d (20 + 2 * j)
  let b := dcell d (21 + 2 * j)
  let st := oStamp d j
  let ring := oKind d j == 1 || oKind d j == 4
  1 ≤ oKind d j && oKind d j ≤ 4 && oTap d j < dNst d && oPol d j ≤ 2 && field a 53 48 == 0 && field b 39 32 == 0 &&
  !(dClass d == 0 && oPol d j == 2) && st.epoch == 0 && (st.tag == tagQTY || (st.tag == tagFLO && st.spec == 0)) &&
  (if ring then oAddr d j % 16 == 0 && 0 < oRlen d j && oRlen d j % recCells d j == 0
   else if oKind d j == 2 then oAddr d j == 0 && oRlen d j == 0
   else field a 47 43 == 0 && field a 27 0 == 0 && oFmt d j ≤ 3 && oRlen d j == 0)

/-- The cells of unused stages and outputs, and their stamps, are RAW 0. -/
def unusedOk (d : Desc) : Bool :=
  (List.range 8).all (fun i => i < dNst d || (nthD 0 d (4 + 2 * i) == mkRAW 0 && nthD 0 d (5 + 2 * i) == mkRAW 0)) &&
  (List.range 4).all (fun j => j < dNout d ||
    (nthD 0 d (20 + 2 * j) == mkRAW 0 && nthD 0 d (21 + 2 * j) == mkRAW 0 && oStamp d j == mkRAW 0))

/-- A descriptor that R311 accepts, memory and other streams apart. -/
def descOk (d : Desc) : Bool :=
  (d.take 28).all isPlainRaw && headOk d && (List.range (dNst d)).all (stageOk d) &&
  (List.range (dNout d)).all (outputOk d) && unusedOk d && !(dClass d == 0 && dPs3ok d)

/-- The loaded streams: geyser, slot and slot state. -/
def State.loaded (s : State) : List (Nat × Nat × GySlot) :=
  s.geysers.flatMap (fun y => (y.2.slots.filter (fun p => p.2.state != .free)).map (fun p => (y.1, p.1, p.2)))

def GySlot.running (v : GySlot) : Bool := v.state == .running

/-- The link-transmit lanes of a stream: (link, lane). -/
def txLanes (d : Desc) : List (Nat × Nat) :=
  ((List.range (dNout d)).filter (fun j => oKind d j == 3)).map (fun j => (oLink d j, oLane d j))

/-- No entry occurs twice. -/
def distinct {α : Type} [DecidableEq α] : List α → Bool
  | [] => true
  | a :: l => !l.contains a && distinct l

/-- The stage of the source stream that `TAPS` names exists and gives what stage 0 accepts (R311); nothing is known of a source that
is not loaded. -/
def State.tapOk (s : State) (d : Desc) : Bool :=
  let v := s.gySlot (dSrcUnit d) (dSrcSub d)
  dSkind d != 3 || v.state == .free || v.gen != dSgen d ||
    (dTaps d < dNst v.desc && kEmits (dKcode v.desc (dTaps d)) (dPar v.desc (dTaps d)) == .single)

/-- The source and the destinations are available (R312): STATUS 0x45 otherwise. -/
def State.available (s : State) (g : Nat) (d : Desc) : Bool :=
  let ls := s.loaded
  let same := ls.filter (fun e =>
    dSkind e.2.2.desc == dSkind d && dSrcUnit e.2.2.desc == dSrcUnit d && dSrcSub e.2.2.desc == dSrcSub d &&
    -- a stream output is one stage of one load of its slot
    (dSkind d != 3 || dSgen e.2.2.desc == dSgen d && dTaps e.2.2.desc == dTaps d))
  let lanes := ls.flatMap (fun e => txLanes e.2.2.desc)
  let ing := (ls.filter (fun e => e.1 == g)).foldl (fun r e => r.add (ingestRate e.2.2.desc)) (ingestRate d)
  (if dSkind d == 1 then same.length < 4
   else if dSkind d == 2 then same.isEmpty
   else if dSkind d == 3 then
     let v := s.gySlot (dSrcUnit d) (dSrcSub d)
     v.state != .free && v.gen == dSgen d && same.length < 8
   else true) &&
  distinct (txLanes d) && (txLanes d).all (fun l => !lanes.contains l) && ing.le 125000000

/-- The ring or DMA descriptor of output `j` is what R311 and R401 require; its cells if a DMA ring's. None = the memory
read failed. -/
def State.ringOk (s : State) (d : Desc) (j : Nat) : Option (Bool × List Cell) :=
  let a := oAddr d j
  if oKind d j == 1 then
    if hbmEnd < a + 16 || s.poisoned (a / 128) then none
    else
      let h := s.cell a
      some (h.tag == tagHDR && h.hdrKind == 0x11 && oRlen d j + 2 ≤ h.pay && hbmEnd ≥ a + 16 * (oRlen d j + 3), [])
  else if oKind d j == 4 then
    if hbmEnd < a + 48 || s.poisoned (a / 128) || s.poisoned ((a + 47) / 128) then none
    else
      let l := [s.cell a, s.cell (a + 16), s.cell (a + 32)]
      let c := (nthD 0 l 2).payload
      some (l.all isPlainRaw && (nthD 0 l 0).pay % 16 == 0 && (nthD 0 l 1).pay % 16 == 0 && field c 61 43 == 0 &&
        field c 31 1 == 0, l)
  else some (true, [])

end Sys2Proof.Machine
end

