-- ==== Sys2Proof/Machine/GeyserKernels.lean ====
section
/-! DEFINITION. The kernels (R315 to R321, R331 to R333): what one value, frame or generated sample does to a stage. -/

namespace Sys2Proof.Machine

/-! ### Arithmetic of the lanes (R315) -/

/-- A binary32 result and the number of subnormal results flushed on the way. -/
abbrev FV := Nat × Nat

/-- A subnormal binary32 encoding. -/
def isSub32 (x : Nat) : Bool := x / 2 ^ 23 % 256 == 0 && x % 2 ^ 23 != 0
/-- An operand as a lane reads it. -/
def in32 (x : Nat) : Nat := if isSub32 x then x / 2 ^ 31 * 2 ^ 31 else x
/-- A result as a lane writes it. -/
def out32 (x : Nat) : FV := if isSub32 x then (x / 2 ^ 31 * 2 ^ 31, 1) else (x, 0)

def mul32 (a b : Nat) : FV := out32 (fpMul f32 0 (in32 a) (in32 b)).1
def add32 (a b : Nat) : FV := out32 (fpAdd f32 0 (in32 a) (in32 b)).1
def sub32 (a b : Nat) : FV := out32 (fpSub f32 0 (in32 a) (in32 b)).1
def fma32 (a b c : Nat) : FV := out32 (fpFma f32 0 (in32 a) (in32 b) (in32 c)).1
def lt32 (a b : Nat) : Bool := fpCompare f32 (in32 a) (in32 b) == .less
def le32 (a b : Nat) : Bool :=
  let r := fpCompare f32 (in32 a) (in32 b)
  r == .less || r == .equal
def nan32 (a : Nat) : Bool := fpIsNaN f32 a

/-- binary64 bits rounded to binary32, and a binary32 value exactly as binary64 (R322). -/
def to32 (w : Word64) : Nat := (fpConvert f64 f32 0 w.toNat).1
def to64 (x : Nat) : Word64 := BitVec.ofNat 64 (fpConvert f32 f64 0 x).1

def w64 (n : Nat) : Word64 := BitVec.ofNat 64 n
def add64 (a b : Word64) : Word64 := w64 (fpAdd f64 0 a.toNat b.toNat).1
def sub64 (a b : Word64) : Word64 := w64 (fpSub f64 0 a.toNat b.toNat).1
def mul64 (a b : Word64) : Word64 := w64 (fpMul f64 0 a.toNat b.toNat).1
def div64 (a b : Word64) : Word64 := w64 (fpDiv f64 0 a.toNat b.toNat).1
def fma64 (a b c : Word64) : Word64 := w64 (fpFma f64 0 a.toNat b.toNat c.toNat).1
def sqrt64 (a : Word64) : Word64 := w64 (fpSqrt f64 0 a.toNat).1
def lt64 (a b : Word64) : Bool := fpCompare f64 a.toNat b.toNat == .less
def nan64 (a : Word64) : Bool := fpIsNaN f64 a.toNat
/-- A natural number as binary64. -/
def nat64 (n : Nat) : Word64 := w64 (ratToF64 0 n 1).1
/-- A rational as binary64. -/
def rate64 (r : Rate) : Word64 := w64 (ratToF64 0 r.1 r.2).1
/-- +1.0 and −1.0. -/
def plusOne64 : Word64 := 0x3FF0_0000_0000_0000
def minusOne64 : Word64 := 0xBFF0_0000_0000_0000
/-- The quiet NaN of R314. -/
def qnan32 : Nat := 0x7FC0_0000

/-! ### What a kernel sees and gives -/

/-- What a kernel works with: its `PAR`, the bytes of stream memory, its block and work area by byte offset, the interval
T between entering values and its rate, and a reference phase or the FFT behind it. -/
structure KIn where
  par : Word32
  mem : SMap Byte
  blk : Nat
  spare : Nat
  work : Nat
  t : Word64
  fs : Word64
  phi : Word64 := 0
  n : Nat := 0
  window : Nat := 0
  deriving DecidableEq, Repr

/-- What a kernel gives: its state, the records that it emits, counts, posts, an abort, and 32-bit words of its work area
that it writes. -/
structure KRes where
  st : StageState
  recs : List (List Word64) := []
  ftz : Nat := 0
  sat : Nat := 0
  posts : List Nat := []
  abort : Option Nat := none
  writes : List (Nat × Nat) := []
  deriving DecidableEq, Repr

/-- `n` bytes of stream memory at `off`, little-endian. -/
def smemNat (m : SMap Byte) (off n : Nat) : Nat :=
  leValue ((List.range n).map (fun i => SMap.get 0 m (off + i)))

/-- Word `i` and double word `i` of the work area. -/
def KIn.word (k : KIn) (i : Nat) : Nat := smemNat k.mem (k.work + 4 * i) 4
def KIn.dword (k : KIn) (i : Nat) : Word64 := w64 (smemNat k.mem (k.work + 8 * i) 8)
/-- The writes that put words into the work area, from word `i`. -/
def KIn.put (k : KIn) (i : Nat) (l : List Nat) : List (Nat × Nat) :=
  (List.range l.length).map (fun j => (k.work + 4 * (i + j), nthD 0 l j))

def KIn.p64 (k : KIn) (off : Nat) : Word64 := w64 (smemNat k.mem (k.blk + off) 8)
def KIn.p32 (k : KIn) (off : Nat) : Nat := smemNat k.mem (k.blk + off) 4

/-! ### Measuring kernels -/

/-- CAL: a·x + b, one fused operation. -/
def runCal (k : KIn) (st : StageState) (x : Word64) : KRes :=
  if bit k.par 0 then { st := st, recs := [[fma64 (k.p64 0) x (k.p64 8)]] }
  else
    let (y, f) := fma32 (to32 (k.p64 0)) (to32 x) (to32 (k.p64 8))
    { st := st, recs := [[to64 y]], ftz := f }

/-- y + Σ h_i·x_i, each step fused, from coefficient `i`. -/
def firSum (k : KIn) : List Nat → Nat → FV → FV
  | [], _, y => y
  | x :: l, i, (y, c) =>
    let (z, f) := fma32 (k.p32 (4 * i)) x y
    firSum k l (i + 1) (z, c + f)

/-- FIR: one output per D inputs, at every D-th (log entry 15). The history is a ring of T words in the work area, at position `m`
(log entry 43). -/
def runFir (k : KIn) (st : StageState) (x : Word64) : KRes :=
  let t := pT k.par
  let v := to32 x
  let pos := st.m % t
  let st1 := { st with n := st.n + 1, m := (pos + 1) % t }
  let ws := k.put pos [v]
  if (st.n + 1) % pD k.par != 0 then { st := st1, writes := ws }
  else
    let (z, g) := firSum k ((List.range (t - 1)).map (fun i => k.word ((pos + t - (i + 1)) % t))) 1 (mul32 (k.p32 0) v)
    { st := st1, recs := [[to64 z]], ftz := g, writes := ws }

/-- DEC emits the value itself (R316). -/
def runDec (k : KIn) (st : StageState) (x : Word64) : KRes :=
  { st := { st with n := st.n + 1 },
    recs := if st.n % pD k.par == field k.par 27 16 then [[x]] else [] }

/-! ### The transform (R317) and power density (R318) -/

/-- a₀, a₁, … of a window, times 10⁹. -/
def windowCoeffs (w : Nat) : List Nat :=
  if w == 0 then [1000000000]
  else if w == 1 then [500000000, 500000000]
  else if w == 2 then [215578950, 416631580, 277263158, 83578947, 6947368]
  else [358750000, 488290000, 141280000, 11680000]

/-- Σ a_i·(−1)^i·cos(2π·i·j ÷ n) from coefficient `i`, times 10⁹. -/
def windowSum (n j : Nat) : List Nat → Nat → Fx
  | [], _ => 0
  | a :: l, i => (if i % 2 == 1 then -1 else 1) * (a : Int) * fxCosTurn (i * j) n + windowSum n j l (i + 1)

/-- w_j of the periodic window of N = `n` points. -/
def windowFx (w n j : Nat) : Fx := windowSum n j (windowCoeffs w) 0 / 1000000000

/-- A finite binary32 operand as a multiple of 2⁻¹⁴⁹. -/
def operandInt (x : Nat) : Int :=
  match fpRat f32 (in32 x) with
  | some (n, d) => n * 2 ^ 149 / (d : Int)
  | none => 0

def infinite32 (x : Nat) : Bool := !nan32 x && !fpIsFinite f32 x

/-- A free number between −1 and 1 as a multiple of 2⁻¹⁶. -/
def unitError (e : Nat) : Int := ((e % (2 ^ 17 + 1) : Nat) : Int) - 2 ^ 16

/-- The error that R317 allows a component: |e| ≤ 1 times 2·log₂N·2⁻²⁴·norm. -/
def transformSlack (lg : Nat) (norm e : Int) : Int := e * norm * 2 * (lg : Int) / 2 ^ 40

/-- Σ p_i·cos(2π·(k·i ÷ n + turn ÷ 4)) over the weighted inputs, from input `i`. -/
def binSum (n k turn : Nat) : List Int → Nat → Int
  | [], _ => 0
  | p :: l, i => fxMul p (fxCosTurn (4 * k * i + turn * n) (4 * n)) + binSum n k turn l (i + 1)

/-- Bin `k` of a frame of N = 2^lg inputs, oldest first, as Re and Im over S₁ or as power (R317). The exact transform with an error
within the bound; the result is rounded to binary32 after it (log entry 6). -/
def fftBin (w lg : Nat) (complex : Bool) (xs : List Nat) (ps : List Int) (norm : Int) (k : Nat) : List FV :=
  let n := 2 ^ lg
  let inputs := xs.map (fun x => BitVec.ofNat 32 x)
  let err := fun (part : Nat) => transformSlack lg norm (unitError (Config.transformError inputs w k part))
  -- Re is the sum with cos, Im with −sin = cos(· + a quarter turn)
  let re := binSum n k 0 ps 0 + err 0
  let im := binSum n k 1 ps 0 + err 1
  let den := 2 ^ (fxBits + 149) * n * nthD 0 (windowCoeffs w) 0
  if complex then
    [re, im].map (fun v => out32 (roundRat f32 0 (decide (v < 0)) (v.natAbs * 1000000000) den).1)
  else [out32 (roundRat f32 0 false ((re.natAbs ^ 2 + im.natAbs ^ 2) * 1000000000 ^ 2) (den ^ 2)).1]

/-- A frame: a NaN input makes every component a NaN; with an infinite one the components are free among NaN and the infinities (log
entry 6). -/
def fftFrame (w lg : Nat) (complex : Bool) (xs : List Nat) : List FV :=
  let n := 2 ^ lg
  let bins := List.range (n / 2 + 1)
  let each := fun (f : Nat → Nat → Nat) => bins.flatMap (fun k => if complex then [(f k 0, 0), (f k 1, 0)] else [(f k 2, 0)])
  if xs.any nan32 then each (fun _ _ => qnan32)
  else if xs.any infinite32 then
    each (fun k part =>
      let e := Config.openTransform (xs.map (fun x => BitVec.ofNat 32 x)) k part % (if complex then 3 else 2)
      if e == 0 then qnan32 else f32.infBits (e == 2))
  else
    let ps := (List.range n).map (fun i => windowFx w n i * operandInt (nthD 0 xs i))
    let norm : Int := (isqrt (ps.foldl (fun a p => a + p.natAbs ^ 2) 0) : Int)
    bins.flatMap (fftBin w lg complex xs ps norm)

/-- FFT: a frame once N values have arrived, then one every N(1 − ov) (R317). The work area is a ring of the newest N(1 + ov) values
(log entry 43). -/
def runFft (k : KIn) (st : StageState) (x : Word64) : KRes :=
  let n := pN k.par
  let len := n + (n - pHop k.par)
  let v := to32 x
  let c := st.n + 1
  let st1 := { st with n := c }
  let ws := k.put (st.n % len) [v]
  if c < n || (c - n) % pHop k.par != 0 then { st := st1, writes := ws }
  else
    let xs := (List.range (n - 1)).map (fun i => k.word ((c - n + i) % len)) ++ [v]
    let out := fftFrame (pWindow k.par) (field k.par 3 0 + 6) (pComplex k.par) xs
    { st := st1, recs := [out.map (fun y => to64 y.1)], ftz := (out.map (·.2)).sum, writes := ws }

/-- 2^(−k) as binary64. -/
def halves (k : Nat) : Word64 := w64 ((1023 - k) * 2 ^ 52)

/-- G_k of R318 from the sum (or running average) of power values over `m` frames: c_k·P̄·S₁² ÷ (f_s·S₂), where S₁² ÷ S₂ =
2N·a₀² ÷ (2a₀² + Σ a_i²). -/
def density (sum : Word64) (m n window k : Nat) (fs : Word64) : Word64 :=
  match fpRat f64 sum.toNat, fpRat f64 fs.toNat with
  | some (p, q), some (f, r) =>
    let a := windowCoeffs window
    let a0 := nthD 0 a 0
    let c := if k == 0 || k == n / 2 then 1 else 2
    let num := c * p.natAbs * 2 * n * a0 ^ 2 * r
    let den := q * m * f.natAbs * (2 * a0 ^ 2 + ((a.drop 1).map (fun x => x ^ 2)).sum)
    if den == 0 then sum
    else w64 (nudge f64 (roundRat f64 0 (decide (p < 0)) num den).1 (Config.lastPlace RealOp.density.code [sum, fs, w64 m, w64 k]))
  | _, _ => sum

/-- The 32-bit halves of double words, lower half first. -/
def halfWords (l : List Word64) : List Nat := l.flatMap (fun a => [a.toNat % 2 ^ 32, a.toNat / 2 ^ 32])

/-- PSD: averages power frames (R318). The averages stand in the work area by bin, `m` frames deep (log entry 43). -/
def runPsd (k : KIn) (st : StageState) (frame : List Word64) : KRes :=
  let m := pM k.par
  let old := (List.range frame.length).map k.dword
  let out := fun (acc : List Word64) (d : Nat) =>
    (List.range acc.length).map (fun i => density (nthD 0 acc i) d k.n k.window i k.fs)
  if m == 0 then
    let acc := if st.m == 0 then frame
      else List.zipWith (fun p x => add64 p (mul64 (halves (field k.par 19 16)) (sub64 x p))) old frame
    { st := { st with m := 1 }, recs := [out acc 1], writes := k.put 0 (halfWords acc) }
  else
    let acc := if st.m == 0 then frame else List.zipWith add64 old frame
    let last := st.m + 1 == m
    { st := { st with m := if last then 0 else st.m + 1 }, recs := if last then [out acc m] else []
      writes := k.put 0 (halfWords acc) }

/-- RMS: √(Σx² ÷ W), with the squares exact in binary64. -/
def runRms (k : KIn) (st : StageState) (x : Word64) : KRes :=
  let w := pW k.par
  let sum := if st.m == 0 then mul64 x x else fma64 x x st.f0
  if st.m + 1 == w then { st := { st with m := 0, f0 := 0 }, recs := [[sqrt64 (div64 sum (nat64 w))]] }
  else { st := { st with m := st.m + 1, f0 := sum } }

/-- MMM: minimum, maximum and mean; minimum and maximum ignore NaN inputs (R316). -/
def runMmm (k : KIn) (st : StageState) (x : Word64) : KRes :=
  let w := pW k.par
  let v := to32 x
  -- minimum and maximum are binary32 operations, the mean is binary64 (R315, R316)
  let z := to64 (in32 v)
  let isN := nan32 v
  let first := st.m == 0
  let some_ := !first && st.b1
  let lo := if isN then st.f0 else if !some_ || lt64 z st.f0 then z else st.f0
  let hi := if isN then st.f1 else if !some_ || lt64 st.f1 z then z else st.f1
  let sum := if first then x else add64 st.f2 x
  let has := some_ || !isN
  if st.m + 1 == w then
    let nan := to64 qnan32
    { st := { st with m := 0, b1 := false },
      recs := [[if has then lo else nan, if has then hi else nan, div64 sum (nat64 w)]] }
  else { st := { st with m := st.m + 1, f0 := lo, f1 := hi, f2 := sum, b1 := has } }

/-! ### Rainflow (R319) -/

/-- A counted cycle: range, mean, and whether it is a full cycle. -/
structure Cycle where
  range : Nat
  mean : Nat
  full : Bool
  deriving DecidableEq, Repr

def absDiff (a b : Nat) : FV :=
  let (d, f) := sub32 a b
  (fpAbs f32 d, f)

/-- The cycle between two points. -/
def cycleOf (a b : Nat) (full : Bool) : Cycle × Nat :=
  let (r, f) := absDiff a b
  let (s, g) := add32 a b
  let (m, h) := mul32 s 0x3F00_0000
  ({ range := r, mean := m, full := full }, f + g + h)

/-- Four-point counting on a stack, newest first. -/
def rainReduce : Nat → List Nat → List Cycle → Nat → List Nat × List Cycle × Nat
  | 0, l, cs, f => (l, cs, f)
  | fuel + 1, s4 :: s3 :: s2 :: s1 :: l, cs, f =>
    let (r, f1) := absDiff s2 s3
    let (a, f2) := absDiff s1 s2
    let (b, f3) := absDiff s3 s4
    if le32 r a && le32 r b then
      let (c, f4) := cycleOf s2 s3 true
      rainReduce fuel (s4 :: s1 :: l) (cs ++ [c]) (f + f1 + f2 + f3 + f4)
    else (s4 :: s3 :: s2 :: s1 :: l, cs, f + f1 + f2 + f3)
  | _, l, cs, f => (l, cs, f)

/-- Accept a turning point: a full stack first sheds its oldest point as a half cycle. -/
def rainPush (stack : List Nat) (p : Nat) : List Nat × List Cycle × Nat :=
  match stack.length == 128, stack.reverse with
  | true, o :: o2 :: _ =>
    let (c, f) := cycleOf o o2 false
    rainReduce 64 (p :: stack.dropLast) [c] f
  | _, _ => rainReduce 64 (p :: stack) [] 0

/-- The bin of a value between two limits (R319): exact arithmetic; a value outside, an infinite one too, falls into the edge bin. -/
def rainBin (v lo hi bins : Nat) : Nat :=
  let open_ := Config.rainflowBin (BitVec.ofNat 32 v) (BitVec.ofNat 32 lo) (BitVec.ofNat 32 hi) bins % bins
  match fpRat f32 (in32 lo), fpRat f32 (in32 hi) with
  | some (b, q), some (c, r) =>
    let span : Int := c * (q : Int) - b * (r : Int)
    if span ≤ 0 then open_
    else match fpOf f32 (in32 v), fpRat f32 (in32 v) with
      | .inf neg, _ => if neg then 0 else bins - 1
      | _, some (a, p) =>
        -- (v − lo) · bins ÷ (hi − lo) over a common denominator
        let num : Int := (a * (q : Int) - b * (p : Int)) * (r : Int) * (bins : Int)
        if num < 0 then 0 else satAt (bins - 1) (num / (span * (p : Int))).toNat
      | _, none => open_
  | _, _ => open_

/-- The matrix words that cycles write: range bin by row, mean bin by column (log entry 16). -/
def rainCount (k : KIn) : List Cycle → List (Nat × Nat) → List (Nat × Nat)
  | [], w => w
  | c :: l, w =>
    let b := pBins k.par
    let i := rainBin c.range 0 (k.p32 0) b * b + rainBin c.mean (k.p32 4) (k.p32 8) b
    let off := k.work + 512 + 4 * i
    let old := match w.find? (fun e => e.1 == off) with
      | some e => e.2
      | none => smemNat k.mem off 4
    rainCount k l ((off, satAt 0xFFFFFFFF (old + (if c.full then 2 else 1))) :: w.filter (fun e => e.1 != off))

/-- The stack in the work area, newest first; it is stored oldest first (log entry 16). -/
def rainStack (k : KIn) (n : Nat) : List Nat := ((List.range n).map (fun i => smemNat k.mem (k.work + 4 * i) 4)).reverse

/-- RFC. `f0` holds the current extremum, `b0` whether there is one, `m` the points on the stack; `runLow` is 1 while the
signal rises from the latest turning point and 2 while it falls. -/
def runRfc (k : KIn) (st : StageState) (x : Word64) : KRes :=
  let v := to32 x
  let e := to32 st.f0
  let h := k.p32 12
  let keep (w : Nat) (dir : Nat) : KRes := { st := { st with f0 := to64 w, b0 := true, runLow := dir } }
  let accept (dir f : Nat) : KRes :=
    let (stack, cs, g) := rainPush (rainStack k st.m) e
    let points := stack.reverse
    let ws := (List.range points.length).map (fun i => (k.work + 4 * i, nthD 0 points i))
    { st := { st with f0 := to64 v, b0 := true, runLow := dir, m := stack.length }
      recs := cs.map (fun c => [to64 c.range, to64 c.mean, if c.full then plusOne64 else w64 0x3FE0_0000_0000_0000])
      ftz := f + g
      writes := ws ++ rainCount k cs [] }
  if nan32 v then { st := st }
  else if !st.b0 then keep v 0
  else
    let (d, f) := absDiff v e
    let far := le32 h d && fpCompare f32 (in32 v) (in32 e) != .equal
    if st.runLow == 0 then (if far then accept (if lt32 e v then 1 else 2) f else { st := st, ftz := f })
    else if st.runLow == 1 then
      if le32 e v then keep v 1 else if far then accept 2 f else { st := st, ftz := f }
    else if le32 v e then keep v 2 else if far then accept 1 f else { st := st, ftz := f }

/-- THR (R320): `b0` = x has been at or below U − h, `b1` = x has been at or above LW + h. -/
def runThr (k : KIn) (st : StageState) (x : Word64) : KRes :=
  let v := to32 x
  if nan32 v then { st := st }
  else
    let u := k.p32 0
    let l := k.p32 4
    let (ul, f) := sub32 u (k.p32 8)
    let (lh, g) := add32 l (k.p32 8)
    let up := st.b0 && le32 u v
    let down := st.b1 && le32 v l
    { st := { st with b0 := le32 v ul || (st.b0 && !up), b1 := le32 lh v || (st.b1 && !down) }
      recs := (if up then [[to64 v, plusOne64]] else []) ++ (if down then [[to64 v, minusOne64]] else [])
      ftz := f + g }

/-- The pole e^(−2π·B·T) of a low-pass section (R321). -/
def poleFx (b t : Word64) : Option Fx :=
  match fpRat f64 b.toNat, fpRat f64 t.toNat with
  | some (n, d), some (m, e) => some (fxExp (-(fxMul (2 * fxPi) (fxRat (n * m) (d * e)))))
  | _, _ => if nan64 b || bit b 63 then none else some 0

/-- A one-pole low-pass section of unit gain at 0 Hz (R321, log entry 6): y := p·y + (1 − p)·x. A bandwidth that gives no pole
makes it a NaN. -/
def lowPass (b t : Word64) (y x : Nat) : FV :=
  match poleFx b t with
  | none => (qnan32, 0)
  | some p =>
    if nan32 y || nan32 x then (((nanOf2 f32 y x).getD qnan32), 0)
    else if infinite32 y || infinite32 x then
      let part := fun (c : Fx) (v : Nat) => (fpMul f32 0 (roundReal f32 c fxBits) (in32 v)).1
      out32 (fpAdd f32 0 (part p y) (part (fxOne - p) x)).1
    else
      out32 (realResult f32 .lowPass [b, t, w64 y, w64 x] (p * operandInt y + (fxOne - p) * operandInt x) (fxBits + 149))

/-- STF (R321). `hist` holds the two sections of I and of Q; `f0` the fixed-frequency phase. -/
def runStf (k : KIn) (st : StageState) (x : Word64) : KRes :=
  let phi := if bit k.par 19 then phaseStep st.f0 (k.p64 0) k.t else k.phi
  let v := to32 x
  let (i0, f0) := mul32 v (to32 (cosPhase phi))
  let (q0, f1) := mul32 v (to32 (sinPhase phi))
  let h := fun j => (nthD 0 st.hist j).toNat
  let (i1, f2) := lowPass (k.p64 8) k.t (h 0) i0
  let (i2, f3) := lowPass (k.p64 8) k.t (h 1) i1
  let (q1, f4) := lowPass (k.p64 8) k.t (h 2) q0
  let (q2, f5) := lowPass (k.p64 8) k.t (h 3) q1
  let st1 := { st with
    n := st.n + 1, hist := [i1, i2, q1, q2].map (fun y => BitVec.ofNat 32 y), f0 := if bit k.par 19 then phi else st.f0 }
  let i64 := to64 i2
  let q64 := to64 q2
  { st := st1, ftz := f0 + f1 + f2 + f3 + f4 + f5
    recs := if (st.n + 1) % pD k.par != 0 then []
      else [[mul64 (nat64 2) (sqrt64 (fma64 q64 q64 (mul64 i64 i64))), angle64 i64 q64]] }

/-! ### Drive kernels (R331 to R333) -/

/-- Clip a binary32 drive to ±DMAX; a clip counts. -/
def clip32 (v dmax : Nat) : Nat × Nat :=
  if lt32 dmax (fpAbs f32 v) then (if v.testBit 31 then fpNeg f32 dmax else dmax, 1) else (v, 0)

/-- Table point `j` of a SINE block: f, REF, LO, HI. -/
def sinePoint (k : KIn) (j part : Nat) : Word64 := k.p64 (8 * (9 + 4 * j + part))

/-- The number of table points P. -/
def sineP (k : KIn) : Nat :=
  match fpRat f64 (k.p64 64).toNat with
  | some (n, d) => let p := n.toNat / d; if p < 1 then 1 else satAt 64 p
  | none => 1

/-- A positive finite binary64 number as a rational. -/
def posRat (w : Word64) : Option (Nat × Nat) :=
  match fpRat f64 w.toNat with
  | some (n, d) => if 0 < n then some (n.toNat, d) else none
  | none => none

/-- num ÷ den times m · 2^i rounded to binary64, the last places free. -/
def scaledReal (op : RealOp) (args : List Word64) (neg : Bool) (num den : Nat) (p : Fx × Int) : Word64 :=
  let a := num * p.1.natAbs * (if p.2 < 0 then 1 else 2 ^ p.2.toNat)
  let b := den * 2 ^ fxBits * (if p.2 < 0 then 2 ^ p.2.natAbs else 1)
  w64 (nudge f64 (roundRat f64 0 neg a b).1 (Config.lastPlace op.code args))

/-- REF at `f` between the table points (f₁, r₁) and (f₂, r₂): linear in log f and log REF; none where a logarithm does not
exist (R331). -/
def logInterpolate (f1 r1 f2 r2 f : Word64) : Option Word64 :=
  match posRat f1, posRat r1, posRat f2, posRat r2, posRat f with
  | some a, some r, some b, some q, some x =>
    let span := fxLn (b.1 * a.2) (b.2 * a.1)
    if span ≤ 0 then none
    else
      let y := fxMul (fxDiv (fxLn (x.1 * a.2) (x.2 * a.1)) span) (fxLn (q.1 * r.2) (q.2 * r.1))
      some (scaledReal .reference [f1, r1, f2, r2, f] false r.1 r.2 (fxExp2 (fxDiv y fxLn2)))
  | _, _, _, _, _ => none

/-- REF (1), LO (2) or HI (3) at frequency `f` (R331); LO and HI between table points are not stated (log entry 6). -/
def sineAt (k : KIn) (f : Word64) (part : Nat) : Word64 :=
  let p := sineP k
  let open_ := Config.sineLimit ((List.range (4 * p)).map (fun i => k.p64 (8 * (9 + i)))) f (part - 1)
  if !lt64 (sinePoint k 0 0) f then sinePoint k 0 part
  else if !lt64 f (sinePoint k (p - 1) 0) then sinePoint k (p - 1) part
  else match (List.range p).find? (fun j => sinePoint k j 0 == f) with
    | some j => sinePoint k j part
    | none =>
      if part != 1 then open_
      else match (List.range (p - 1)).find? (fun j => lt64 (sinePoint k j 0) f && lt64 f (sinePoint k (j + 1) 0)) with
        | some j => (logInterpolate (sinePoint k j 0) (sinePoint k j 1) (sinePoint k (j + 1) 0) (sinePoint k (j + 1) 1) f).getD open_
        | none => open_

/-- f₀·2^(±rate·t ÷ 60) with t = n·T (R331). -/
def sweepFreq (f0 rate t : Word64) (up : Bool) (n : Nat) : Word64 :=
  match fpRat f64 f0.toNat, fpRat f64 rate.toNat, fpRat f64 t.toNat with
  | some (a, d), some (r, q), some (c, e) =>
    let x := fxRat (r * c * (n : Int)) (q * e * 60)
    scaledReal .sweep [f0, rate, t, w64 n] (decide (a < 0)) a.natAbs d (fxExp2 (if up then x else -x))
  | some _, none, _ => if nan64 rate then rate else if bit rate 63 == up then 0 else w64 (f64.infBits false)
  | _, _, _ => f0

/-- SINE at an entering value. `f0` f, `f1` A, `f2` φ, `f3` the latest STF phase; `b0` = 0x60 posted, `b1` = started. -/
def runSine (k : KIn) (st0 : StageState) : KRes :=
  let fa := k.p64 0
  let fb := k.p64 8
  let rate := k.p64 16
  let st := if st0.b1 then st0 else { st0 with b1 := true, f0 := fa, f1 := k.p64 24, f2 := 0, f3 := 0, n := 0, b0 := false }
  let up := lt64 fa fb
  let (f, ended) :=
    if field k.par 17 16 == 0 then
      if fpIsZero f64 rate.toNat then (fa, false)
      else
        let f := if st.n == 0 then fa else sweepFreq fa rate k.t up st.n
        if st.b0 || (if up then !lt64 f fb else !lt64 fb f) then (fb, true) else (f, false)
    else
      let f := add64 st.f0 (mul64 (mul64 (k.p64 56) (sub64 st.f3 (k.p64 48))) k.t)
      let lo := if up then fa else fb
      let hi := if up then fb else fa
      (if lt64 f lo then lo else if lt64 hi f then hi else f, false)
  let phi := phaseStep st.f2 f k.t
  let (v, fl) := out32 (to32 (mul64 st.f1 (sinPhase phi)))
  { st := { st with n := st.n + 1, f0 := f, f2 := phi, b0 := st.b0 || ended }
    recs := [[to64 v]]
    ftz := fl
    posts := if ended && !st.b0 then [0x60] else [] }

/-- A SINE stage takes an output M, θ of its measuring STF stage: amplitude and abort limits (R331). An amplitude that the drive
limit holds down counts as a clip (log entry 118). -/
def sineMeasure (k : KIn) (st : StageState) (m theta : Word64) : KRes :=
  let nab := pNab k.par
  let st := { st with f3 := theta }
  if nan64 m then
    let c := st.runNan + 1
    { st := { st with runNan := c, runLow := 0 }, abort := if 0 < nab && nab ≤ c then some 0x53 else none }
  else
    let ref := sineAt k st.f0 1
    let a := add64 st.f1 (div64 (mul64 (mul64 (k.p64 40) st.f1) (sub64 ref m)) ref)
    let a := if lt64 a 0 then 0 else a
    let above := lt64 (k.p64 32) a
    let a := if above then k.p64 32 else a
    let bad := lt64 m (mul64 (sineAt k st.f0 2) ref) || lt64 (mul64 (sineAt k st.f0 3) ref) m
    let c := if bad then st.runLow + 1 else 0
    { st := { st with f1 := a, runNan := 0, runLow := c }, sat := b2n above, abort := if 0 < nab && nab ≤ c then some 0x50 else none }

/-- SHOCK at an entering value `r` (none during a ramp). `b0` = a pulse plays, `m` = its position. -/
def runShock (k : KIn) (st : StageState) (r : Option Word64) : KRes :=
  let nab := pNab k.par
  let (isN, big) := match r with
    | some r => let v := to32 r; (nan32 v, lt32 (to32 (k.p64 16)) (fpAbs f32 v))
    | none => (false, false)
  let low := if big then st.runLow + 1 else 0
  let nans := if isN then st.runNan + 1 else 0
  let stop := if nab == 0 then none else if nab ≤ low then some 0x50 else if nab ≤ nans then some 0x53 else none
  let st := { st with runLow := low, runNan := nans }
  if !st.b0 then { st := st, recs := [[0]], abort := stop }
  else
    let len := match fpRat f64 (k.p64 24).toNat with
      | some (n, d) => satAt 65536 (n.toNat / d)
      | none => 1
    let (v, f) := mul32 (to32 (k.p64 0)) (k.p32 (32 + 4 * st.m))
    let (w, c) := clip32 v (to32 (k.p64 8))
    let last := len ≤ st.m + 1
    { st := { st with b0 := !last, m := if last then 0 else st.m + 1 }
      recs := [[to64 w]], ftz := f, sat := c, posts := if last then [0x61] else [], abort := stop }

/-- One step of the phase generator: the state, and the 24-bit phase (R333). -/
def phaseGen (s : Word64) : Word64 × Nat :=
  let a := s ^^^ (s >>> 12)
  let b := a ^^^ (a <<< 25)
  let c := b ^^^ (b >>> 27)
  (c, (c * 0x2545_F491_4F6C_DD1D#64).toNat / 2 ^ 40)

/-- `n` phases from state `s`. -/
def phaseList : Nat → Word64 → List Nat × Word64
  | 0, s => ([], s)
  | n + 1, s =>
    let (c, p) := phaseGen s
    let (l, t) := phaseList n c
    (p :: l, t)

/-- |X_k| = √(D_k·N·f_s ÷ 1.5) (R333). -/
def randMagnitude (n : Nat) (fs : Word64) (d : Nat) : Fx :=
  match fpRat f32 (in32 d), fpRat f64 fs.toNat with
  | some (a, p), some (f, q) => fxSqrt (a.natAbs * n * f.natAbs * 2) (p * q * 3)
  | _, _ => 0

/-- A D_k that has no finite magnitude: negative, infinite or a NaN. -/
def badDensity (d : Nat) : Bool := !fpIsFinite f32 d || (d.testBit 31 && !fpIsZero f32 (in32 d))

/-- Σ |X_k|·cos(2π·(r_k ÷ 2²⁴ + k·j ÷ n)) from k, over magnitudes and phases. -/
def waveSum (n j : Nat) : List Fx → List Nat → Nat → Fx
  | a :: l, r :: m, k => fxMul a (fxCosTurn (r * n + k * j * 2 ^ 24) (2 ^ 24 * n)) + waveSum n j l m (k + 1)
  | _, _, _ => 0

/-- Values 0 to N − 1 of a frame of RAND (R333): the real inverse transform of the spectrum under the periodic Hann window, with an
error as R317 allows a transform (log entry 6). -/
def randFrame (lg : Nat) (fs : Word64) (spec : List Nat) (phases : List Nat) : List FV :=
  let n := 2 ^ lg
  let inner := (spec.drop 1).take (n / 2 - 1)
  let words := spec.map (fun d => BitVec.ofNat 32 d)
  if inner.any badDensity then
    (List.range n).map (fun j => if inner.any nan32 || inner.any (fun d => d.testBit 31) then (qnan32, 0)
      else let e := Config.openTransform words j 3 % 3
           (if e == 0 then qnan32 else f32.infBits (e == 2), 0))
  else
    let mags := inner.map (randMagnitude n fs)
    let norm : Int := (isqrt (2 * mags.foldl (fun a m => a + m.natAbs ^ 2) 0) : Int)
    (List.range n).map (fun j =>
      let x := (2 * waveSum n j mags phases 1 + transformSlack lg norm (unitError (Config.randError words phases j))) / (n : Int)
      out32 (roundReal f32 (fxMul x (fxOne - fxCosTurn j n) / 2) fxBits))

/-- A frame computed from the block at `off` and generator state `s`. -/
def randFrameOf (k : KIn) (off : Nat) (s : Word64) : List FV × Word64 :=
  let n := pN k.par
  let (ph, t) := phaseList (n / 2 - 1) s
  (randFrame (field k.par 3 0 + 6) k.fs ((List.range (n / 2 + 1)).map (fun i => smemNat k.mem (off + 16 + 4 * i) 4)) ph, t)

/-- The generator state that SEED of the block at `off` gives at RUN and CLEAR (R333). -/
def seedOf (k : KIn) : Word64 := if k.p64 8 == 0 then 1 else k.p64 8

/-- Overlap-add: sums and flushes. -/
def overlap : List Nat → List FV → List FV
  | p :: l, c :: m =>
    let (v, f) := add32 p c.1
    (v, f + c.2) :: overlap l m
  | _, _ => []

/-- RAND generates a value (R333). The work area holds the N/2 values being output, then the frame computed ahead with the second
half of the one before it already added (log entry 43); `m` is the position in the output, `f0` the generator state, `b0` = started.
Where a block of output begins, the exchange of a RELOAD comes before the frame that is computed then. -/
def runRand (k : KIn) (st : StageState) : KRes :=
  let half := pN k.par / 2
  let give := fun (blk v : Nat) => clip32 v (to32 (w64 (smemNat k.mem blk 8)))
  if st.b0 && st.m != 0 then
    let (w, c) := give k.blk (k.word st.m)
    { st := { st with n := st.n + 1, m := (st.m + 1) % half }, recs := [[to64 w]], sat := c }
  else
    let blk := if st.reload then k.spare else k.blk
    let (cur, s1) := if st.b0 then ((List.range (2 * half)).map (fun i => (k.word (half + i), 0)), st.f0) else randFrameOf k blk st.f0
    let (nxt, s2) := randFrameOf k blk s1
    let out := (cur.take half).map (·.1)
    let ahead := overlap ((cur.drop half).map (·.1)) (nxt.take half) ++ nxt.drop half
    let (w, c) := give blk (nthD 0 out 0)
    { st := { st with
        n := st.n + 1, m := 1 % half, b0 := true, f0 := s2, reload := false, swapped := if st.reload then !st.swapped else st.swapped }
      recs := [[to64 w]]
      ftz := (cur.map (·.2)).sum + (ahead.map (·.2)).sum
      sat := c
      writes := k.put 0 (out ++ ahead.map (·.1)) }

/-- One value or frame through a measuring kernel, or one entering value of a drive kernel. -/
def runKernel (code : Nat) (k : KIn) (st : StageState) (x : GyItem) : KRes :=
  let v := nthD 0 x.vals 0
  if code == kCAL then runCal k st v
  else if code == kFIR then runFir k st v
  else if code == kDEC then runDec k st v
  else if code == kFFT then runFft k st v
  else if code == kPSD then runPsd k st x.vals
  else if code == kRMS then runRms k st v
  else if code == kMMM then runMmm k st v
  else if code == kRFC then runRfc k st v
  else if code == kTHR then runThr k st v
  else if code == kSTF then runStf k st v
  else if code == kSINE then runSine k st
  else if code == kSHOCK then runShock k st (some v)
  else runRand k st

end Sys2Proof.Machine
end

