-- ==== Sys2Proof/Machine/GeyserRun.lean ====
section
/-! DEFINITION. Streams at work (R312 to R314, R322 to R326, R328, R329, R334, R335): samples entering, values passing
through stages, outputs, posts, ramps, aborts and the emergency stop. -/

namespace Sys2Proof.Machine

/-! ### Samples (R314) -/

/-- Bytes of a sample in `FMT`. -/
def fmtBytes (fmt : Nat) : Nat := if fmt == 0 then 2 else if fmt == 1 then 3 else 4

/-- A sample's bits in `FMT` as binary32 (R314). -/
def sampleValue (fmt v : Nat) : Nat :=
  let conv := fun (w : Nat) => let i := signedOf w v; (roundRat f32 0 (decide (i < 0)) i.natAbs 1).1
  if fmt == 0 then conv 16
  else if fmt == 1 then conv 24
  else if fmt == 2 then conv 32
  else if nan32 (v % 2 ^ 32) then f32.quiet (v % 2 ^ 32) else v % 2 ^ 32

/-- A write of 32-bit words of stream memory. -/
def putWords (m : SMap Byte) (ws : List (Nat × Nat)) : SMap Byte :=
  ws.foldl (fun m e => ((List.range 4).foldl
    (fun m k => SMap.set 0 m (e.1 + k) (BitVec.ofNat 8 (e.2 / 256 ^ k))) m)) m

/-- Where sample `i` of a stream stands in its input FIFO, a ring of `FDEP` words at `FOFF` (R307, log entry 43). -/
def fifoByte (d : Desc) (i : Nat) : Nat := 64 * dFoff d + 4 * (i % dFdep d)

/-- A value arrives at a stream's input: binary32 bits, whether invalid, and its time. -/
def State.gyInput (s : State) (g n v : Nat) (invalid : Bool) (time : Nat) : State :=
  let y := s.gySlot g n
  if !y.running then s
  else
    let st := nthD {} y.stages 0
    if dFdep y.desc ≤ st.inbox.length then
      s.setGySlot g n { y with inovr := satAt 0xFFFF (y.inovr + 1), lastInput := s.now }
    else
      let w := if invalid then qnan32 else v
      let st1 := { st with inbox := st.inbox ++ [{ vals := [], time := time, arr := s.now }] }
      let at_ := fifoByte y.desc (y.fifoPos + st.inbox.length)
      (s.setGySlot g n { y with
        stages := setNth y.stages 0 st1, lastInput := s.now
        inval := if invalid then satAt 0xFF (y.inval + 1) else y.inval }).modGy g
          (fun z => { z with smem := putWords z.smem [(at_, w)] })

/-- The loaded streams fed by a source of kind `kind` (R306). -/
def State.fedBy (s : State) (kind unit sub : Nat) : List (Nat × Nat × GySlot) :=
  s.loaded.filter (fun e =>
    dSkind e.2.2.desc == kind && dSrcUnit e.2.2.desc == unit && dSrcSub e.2.2.desc == sub)

/-- A link sample reaches its streams (R343, R349): `fmt` is the frame's. -/
def State.linkSample (s : State) (link lane fmt v : Nat) (valid : Bool) (time : Nat) : State :=
  (s.fedBy 1 link lane).foldl
    (fun t e => t.gyInput e.1 e.2.1 (sampleValue fmt v) (!valid || dFmt e.2.2.desc != fmt) time) s

/-! ### Completion buffer (R325) -/

/-- The completion buffer keeps 8 of its 64 entries for stream posts. -/
def Geyser.full (y : Geyser) : Bool := 56 ≤ y.compl.length

/-- A stream post (R302, R334): the buffer always has room for it; its `VALUE` is not stated (log entry 40). -/
def State.gyStreamPost (s : State) (g n code : Nat) : State :=
  let (w, t) := s.fresh
  let y := t.gySlot g n
  let t := t.setGySlot g n { y with last := code }
  t.modGy g (fun z => { z with compl := z.compl ++ [(false, ⟨g, false, code, dAchan y.desc, n, w.toNat⟩)] })

/-- The completion record of a command (R303, R325); a failed command's `VALUE` is not stated (log entry 40). -/
def State.gyComplete (s : State) (g : Nat) (c : Cell) (status value : Nat) : State :=
  let (v, t) := if status == 0 then (value, s) else let (w, t) := s.fresh; (w.toNat, t)
  let r : Record := ⟨g, bit c 103, status, field c 102 87, field c 86 79, v⟩
  t.modGy g (fun z => { z with compl := z.compl ++ [(false, r)] })

/-- A notification post of output `j`, merged where the buffer is full; false = it must wait (log entry 41). -/
def Geyser.notify (z : Geyser) (r : Record) : Geyser × Bool :=
  if !z.full then ({ z with compl := z.compl ++ [(true, r)] }, true)
  else if z.compl.any (fun x => x.1 && x.2.dest == r.dest) then
    ({ z with
       compl := z.compl.map (fun x => if x.1 && x.2.dest == r.dest
         then (true, { x.2 with value := r.value, status := if x.2.status < r.status then r.status else x.2.status }) else x) }, true)
  else (z, false)

/-! ### Outputs (R322 to R326) -/

/-- A stamped value: the stamp's head over the value (R322). -/
def stamped (st : Cell) (w : Word64) : Cell := cellOfHead st.head w

/-- The cells of a record of output `j` (R319 to R322), with its TIME cell under `TS`. -/
def recordOf (d : Desc) (j : Nat) (x : GyItem) : List Cell :=
  let st := oStamp d j
  let k := dKcode d (oTap d j)
  let v := fun i => nthD 0 x.vals i
  let body :=
    if k == kTHR then [stamped st (v 0), mkFIX (if v 1 == plusOne64 then 1 else -1)]
    else if k == kRFC then [stamped st (v 0), stamped st (v 1), mkFLO (v 2)]
    else if k == kSTF then [stamped st (v 0), mkQTY 0 0 0 0 (v 1)]
    else x.vals.map (stamped st)
  body ++ (if oTs d j then [mkTIME x.time] else [])

def GySlot.modOut (y : GySlot) (j : Nat) (f : OutState → OutState) : GySlot :=
  { y with outs := setNth y.outs j (f (nthD {} y.outs j)) }

/-- Output `j` ends a record, delivered or lost, and posts after every `NEVERY` (R324, R325); `prod` is its `PROD`. -/
def State.recordDone (s : State) (g n j prod arr : Nat) (lost failed delivered : Bool) : State :=
  let y := s.gySlot g n
  let d := y.desc
  let late := delivered && dDl d != 0 && arr + 1000 * dDl d < s.now
  let y1 := { y with
    lost := if lost then satAt 0xFFFF (y.lost + 1) else y.lost
    late := if late then satAt 0xFFFF (y.late + 1) else y.late }
  let o := nthD ({} : OutState) y1.outs j
  let o1 := { o with
    records := o.records + 1, sincePost := o.sincePost + 1, lost := o.lost || lost, failed := o.failed || failed }
  let s1 := s.setGySlot g n (y1.modOut j (fun _ => o1))
  if oNevery d j == 0 || o1.sincePost < oNevery d j then s1
  else
    -- a link output has no PROD, and its VALUE is not stated (log entry 40)
    let (value, s2) := if oKind d j == 2 then (o1.records, s1) else if oKind d j == 3 then
      (let (w, t) := s1.fresh; (w.toNat, t)) else (prod, s1)
    let status := if o1.failed then 0x46 else if o1.lost then 0x01 else 0
    let (z, sent) := (s2.gy g).notify ⟨g, false, status, oNchan d j, 0, value⟩
    let s3 := s2.setGy g z
    if sent then s3.modGySlot g n (fun y => y.modOut j (fun o => { o with sincePost := 0, lost := false, failed := false }))
    else s3

/-- The bytes from `a` lie in HBM, and no granule that they touch in part is poisoned (R292). -/
def State.canPut (s : State) (a n : Nat) : Bool :=
  a + n ≤ hbmEnd && (granulesOf a n).all (fun g =>
    !s.poisoned g || (a ≤ 128 * g && 128 * g + 128 ≤ a + n))

/-- The bytes from `a` lie in HBM, unpoisoned. -/
def State.canGet (s : State) (a n : Nat) : Bool := a + n ≤ hbmEnd && (granulesOf a n).all (fun g => !s.poisoned g)

/-- Write cells as an uncached agent. -/
def State.agentCells (s : State) (a : Nat) (l : List Cell) : State := s.agentPut a (l.flatMap cellBytes)

/-- A ring is full for a record of `r` cells (R324). -/
def ringFull (prod cons : Int) (rlen r : Nat) : Bool := (rlen : Int) - (r : Int) < prod - cons

/-- RING_RECORD_WRITE (R323): the record's cells, then `PROD`. -/
def State.ringWrite (s : State) (g n j : Nat) (x : GyItem) (lateRec : Bool) : State :=
  let d := (s.gySlot g n).desc
  let cells := recordOf d j x
  let a := oAddr d j
  let prod := (s.cell (a + 16)).int
  let data := a + 48 + 16 * (prod % (oRlen d j : Int)).toNat
  if !s.canGet (a + 16) 16 || !s.canPut data (16 * cells.length) || !s.canPut (a + 16) 16 then
    s.recordDone g n j (s.cell (a + 16)).pay x.arr true true false
  else
    let p := mkFIX (prod + cells.length)
    let s1 := (s.agentCells data cells).agentWrite (a + 16) p
    s1.recordDone g n j p.pay x.arr lateRec false true

/-- A record meets its heap ring (R324). -/
def State.ringRecord (s : State) (g n j : Nat) (x : GyItem) : State :=
  let d := (s.gySlot g n).desc
  let a := oAddr d j
  -- a record behind one that waits keeps its place
  if !(nthD {} (s.gySlot g n).outs j).held.isEmpty then s.modGySlot g n (fun y => y.modOut j (fun o => { o with held := o.held ++ [x] }))
  else if (s.gy g).ringFails || !s.canGet (a + 16) 32 then s.recordDone g n j (s.cell (a + 16)).pay x.arr true true false
  else
    let (pc, s1) := s.agentRead (a + 16)
    let (cc, s2) := s1.agentRead (a + 32)
    if !ringFull pc.int cc.int (oRlen d j) (recCells d j) then s2.ringWrite g n j x false
    else if oPol d j == 0 then s2.ringWrite g n j x true
    else if oPol d j == 1 then s2.recordDone g n j pc.pay x.arr true false false
    else s2.modGySlot g n (fun y => y.modOut j (fun o => { o with held := o.held ++ [x] }))

/-- Round a rational to the nearest integer, ties to even. -/
def nearestInt (n : Int) (d : Nat) : Int :=
  let q := n / (d : Int)
  let r := n % (d : Int)
  if 2 * r < (d : Int) || (2 * r == (d : Int) && q % 2 == 0) then q else q + 1

/-- The sample bits that a link-transmit output sends for a value, and its clips (R326). -/
def linkBits (fmt : Nat) (w : Word64) : Nat × Nat :=
  if fmt == 3 then (to32 w, 0)
  else
    let b := 8 * fmtBytes fmt
    let top : Int := ((2 ^ (b - 1) : Nat) : Int)
    match fpRat f64 w.toNat with
    | some (n, d) =>
      let i := nearestInt (n * top) d
      if i < -top then (wrapInt b (-top), 1) else if top ≤ i then (wrapInt b (top - 1), 1) else (wrapInt b i, 0)
    | none => if nan64 w then (0, 1) else if bit w 63 then (wrapInt b (-top), 1) else (wrapInt b (top - 1), 1)

/-- Queue a sample for a link transmit lane; the emergency stop makes it 0 (R335). A link that is not UP takes no value (log
entry 45). -/
def State.linkQueue (s : State) (link lane fmt bits time : Nat) : State :=
  let l := SMap.get {} s.links link
  if l.state != .up then s else
  let e := (lane, fmt, if s.panel.eforce then 0 else bits, time, true)
  { s with links := SMap.set {} s.links link { l with txq := l.txq ++ [e] } }

/-- A record reaches output `j` of a stream. -/
def State.gyOutput (s : State) (g n j : Nat) (x : GyItem) : State :=
  let d := (s.gySlot g n).desc
  if oKind d j == 1 then s.ringRecord g n j x
  else if oKind d j == 2 then s.recordDone g n j 0 x.arr false false true
  else if oKind d j == 3 then
    let s1 := x.vals.foldl (fun t w =>
      let (b, c) := linkBits (oFmt d j) w
      (t.linkQueue (oLink d j) (oLane d j) (oFmt d j) b x.time).modGySlot g n
        (fun y => { y with sat := satAt 0xFF (y.sat + c) })) s
    s1.recordDone g n j 0 x.arr false false true
  else s.modGySlot g n (fun y => y.modOut j (fun o => { o with held := o.held ++ [x] }))

/-- The link-transmit outputs of a stream that `sel` selects emit 0. -/
def State.zeroSome (s : State) (g n : Nat) (sel : Nat → Bool) : State :=
  let d := (s.gySlot g n).desc
  (List.range (dNout d)).foldl
    (fun t j => if oKind d j == 3 && sel j then t.stampRead.2.linkQueue (oLink d j) (oLane d j) (oFmt d j) 0 t.stampRead.1 else t) s

/-- Every link-transmit output of a stream emits 0 (R297 ABORTED, R335). -/
def State.zeroLinks (s : State) (g n : Nat) : State := s.zeroSome g n (fun _ => true)

/-- The outputs of its drive stages emit 0: the end of a ramp, or a `RAMP` of 0 (R297 PAUSED, R334). -/
def State.zeroDrives (s : State) (g n : Nat) : State :=
  s.zeroSome g n (fun j => isDrive (dKcode (s.gySlot g n).desc (oTap (s.gySlot g n).desc j)))

/-! ### Ramps and aborts (R334, R335) -/

def hasDrive (d : Desc) : Bool := (List.range (dNst d)).any (fun i => isDrive (dKcode d i))
def hasLinkOut (d : Desc) : Bool := (List.range (dNout d)).any (fun j => oKind d j == 3)

/-- The length of a drive ramp in ns. -/
def rampNs (d : Desc) : Nat := 10000 * dRamp d

/-- The scale of a ramp of `len` ns, as numerator and denominator: linear from where it began to 0. -/
def Ramp.scale (r : Ramp) (len now : Nat) : Nat × Nat := (r.num * (len - (now - r.t0)), r.den * len)

/-- A ramp that begins now from the stream's present scale (R334). -/
def GySlot.rampFrom (y : GySlot) (now : Nat) (e : RampEnd) : Ramp :=
  match y.ramp with
  | some r => let (n, d) := r.scale (rampNs y.desc) now; { t0 := now, num := n, den := d, fin := e }
  | none => { t0 := now, fin := e }

/-- Free a slot: its descriptor, stages and regions go; the generation and the counters stay. -/
def GySlot.freed (y : GySlot) : GySlot := { y with state := .free, desc := [], stages := [], outs := [], ramp := none }

/-- What the end of a drive ramp completes (R303, R334). -/
def State.finishRamp (s : State) (g n : Nat) (e : RampEnd) : State :=
  let gen := (s.gySlot g n).gen
  let s0 := s.modGySlot g n (fun y => { y with ramp := none })
  let s1 := s0.zeroDrives g n
  match e with
  | .abort => s0.zeroLinks g n
  | .pause c => s1.gyComplete g c 0 gen
  | .stop c => (s1.modGySlot g n GySlot.freed).gyComplete g c 0 gen

/-- The latency tolerance of a stream, in ns (R330). -/
def streamTolerance (d : Desc) : Nat :=
  if dClass d == 0 then 1000 else if dDl d == 0 then 32000000 else 500 * dDl d

/-- The smallest tolerance among the RUNNING streams with a DMA output, if there is one (R399). -/
def State.dmaTolerance (s : State) : Option Nat :=
  (s.loaded.filter (fun e => e.2.2.running && (List.range (dNout e.2.2.desc)).any (fun j => oKind e.2.2.desc j == 4))).foldl
    (fun m e => match m with
      | some t => some (min t (streamTolerance e.2.2.desc))
      | none => some (streamTolerance e.2.2.desc)) none

/-- Where the host has enabled LTR, the endpoint states a tolerance that has changed (R399). -/
def State.ltrUpdate (s : State) : State :=
  (List.range 4).foldl (fun t f =>
    let c := (t.func f).cfg
    if c.ltr && c.ltrSent != some t.dmaTolerance then
      (t.modCfg f (fun c => { c with ltrSent := some t.dmaTolerance })).emit (.ltr f t.dmaTolerance)
    else t) s

/-- STREAM_ABORT (R334): ABORTED, the post, and the ramp of the drive stages. -/
def State.gyAbort (s : State) (g n code : Nat) : State :=
  let y := s.gySlot g n
  let s1 := ((s.setGySlot g n { y with state := .aborted }).gyStreamPost g n code).ltrUpdate
  match y.ramp with
  | some r => s1.modGySlot g n (fun y => { y with ramp := some (y.rampFrom s.now r.fin) })
  | none =>
    if hasDrive y.desc && dRamp y.desc != 0 then
      s1.modGySlot g n (fun y => { y with ramp := some (y.rampFrom s.now .abort) })
    else s1.zeroLinks g n

/-- The emergency stop acts on a stream (R335): a drive stage aborts with no ramp; a ramp under way ends at 0. -/
def State.gyEmergencyOne (s : State) (g n : Nat) : State :=
  let y := s.gySlot g n
  if y.state == .free || !hasDrive y.desc then s
  else
    let s1 := if y.state == .running || y.state == .paused || y.state == .loaded
      then (s.setGySlot g n { y with state := .aborted }).gyStreamPost g n 0x52 else s
    match y.ramp with
    | some r => s1.finishRamp g n r.fin
    | none => s1

/-- The emergency stop comes into force for the geysers (R335). -/
def State.gyEmergency (s : State) : State :=
  s.loaded.foldl
    (fun t e => if hasLinkOut e.2.2.desc then (t.gyEmergencyOne e.1 e.2.1).zeroLinks e.1 e.2.1 else t.gyEmergencyOne e.1 e.2.1)
    s |>.ltrUpdate

/-! ### Stages (R328) -/

/-- A held record of `POL` 2 stops stage `i`, and a stopped stage stops the stage that feeds it (R324). -/
def blocked (y : GySlot) : Nat → Nat → Bool
  | 0, _ => false
  | fuel + 1, i =>
    (List.range (dNout y.desc)).any (fun j =>
      oTap y.desc j == i && oPol y.desc j == 2 && !(nthD {} y.outs j).held.isEmpty) ||
    (List.range (dNst y.desc)).any (fun k => stageSrc y.desc k == some i && blocked y fuel k)

/-- What a kernel of stage `i` works with. -/
def State.kin (s : State) (g n i : Nat) : KIn :=
  let y := s.gySlot g n
  let d := y.desc
  let st := nthD {} y.stages i
  let p := dPar d i
  let r := rateIn d 8 i
  let src := (stageSrc d i).getD 0
  { par := p
    mem := (s.gy g).smem
    blk := 64 * (if st.swapped then dSpoff d i else dSmoff d i)
    spare := 64 * (if st.swapped then dSmoff d i else dSpoff d i)
    work := 64 * dWoff d i
    t := rate64 (r.2, r.1)
    fs := rate64 (if dKcode d i == kPSD then rateIn d 8 src else r)
    phi := (nthD {} y.stages (field p 18 16)).f2
    n := psdN d i
    window := pWindow (dPar d src) }

def State.setStage (s : State) (g n i : Nat) (st : StageState) : State :=
  s.modGySlot g n (fun y => { y with stages := setNth y.stages i st })

/-- The SINE stages that STF stage `i` measures for take its output (R331): the state and an abort, if any. -/
def State.measure (s : State) (g n i : Nat) (x : GyItem) : State × Option Nat :=
  let d := (s.gySlot g n).desc
  (List.range (dNst d)).foldl (fun (t, ab) k =>
    if dKcode d i == kSTF && dKcode d k == kSINE && field (dPar d k) 26 24 == i then
      let r := sineMeasure (t.kin g n k) (nthD {} (t.gySlot g n).stages k) (nthD 0 x.vals 0) (nthD 0 x.vals 1)
      ((t.setStage g n k r.st).modGySlot g n (fun y => { y with sat := satAt 0xFF (y.sat + r.sat) }), ab.or r.abort)
    else (t, ab)) (s, none)

/-- A record leaves stage `i`: to the stages, the streams and the outputs that take it. -/
def State.gyDeliver (s : State) (g n i : Nat) (x : GyItem) : State × Option Nat :=
  let y := s.gySlot g n
  let d := y.desc
  let s1 := (List.range (dNst d)).foldl (fun t k =>
    if stageSrc d k == some i then
      let st := nthD {} (t.gySlot g n).stages k
      t.setStage g n k { st with inbox := st.inbox ++ [x] }
    else t) s
  let (s2, ab) := s1.measure g n i x
  let s3 := (s2.fedBy 3 g n).foldl (fun t e =>
    if dTaps e.2.2.desc == i && dSgen e.2.2.desc == y.gen then
      t.gyInput e.1 e.2.1 (to32 (nthD 0 x.vals 0)) false x.time
    else t) s2
  ((List.range (dNout d)).foldl (fun t j => if oTap d j == i then t.gyOutput g n j x else t) s3, ab)

/-- A drive value under a ramp (R334): the value times the scale, the last places free (log entry 6). -/
def rampValue (y : GySlot) (now : Nat) (w : Word64) : Word64 × Nat :=
  match y.ramp with
  | none => (w, 0)
  | some r =>
    let (num, den) := r.scale (rampNs y.desc) now
    if num == 0 then (0, 0)
    else match fpRat f32 (in32 (to32 w)) with
      | none => (w, 0)
      | some (a, d) =>
        let e := Config.lastPlace RealOp.ramp.code [w, w64 num, w64 den]
        let (v, f) := out32 (nudge f32 (roundRat f32 0 (decide (a < 0)) (a.natAbs * num) (d * den)).1 e)
        (to64 v, f)

/-- Apply what a kernel gave: state, counts, stream memory, records, posts, abort. -/
def State.gyResult (s : State) (g n i : Nat) (r : KRes) (time arr : Nat) : State :=
  let y := s.gySlot g n
  let s1 := (s.setStage g n i r.st).modGySlot g n (fun y => { y with sat := satAt 0xFF (y.sat + r.sat) })
  let ramped := if isDrive (dKcode y.desc i) then r.recs.map (fun l => l.map (rampValue y s.now)) else r.recs.map (fun l => l.map (·, 0))
  let flushed := (ramped.map (fun l => (l.map (·.2)).sum)).sum
  let s2 := s1.modGy g (fun z => { z with
    ftz := satAt (2 ^ 64 - 1) (z.ftz + r.ftz + flushed), smem := putWords z.smem r.writes })
  let recs := ramped.map (fun l => l.map (·.1))
  let (s3, ab) := recs.foldl (fun (t, ab) l =>
    let (u, a) := t.gyDeliver g n i { vals := l, time := time, arr := arr }
    (u, ab.or a)) (s2, none)
  let s4 := r.posts.foldl (fun t c => t.gyStreamPost g n c) s3
  match (r.abort.or ab) with
  | some c => if (s4.gySlot g n).running then s4.gyAbort g n c else s4
  | none => s4

/-- One entering value (none: a drive stage during a ramp, or a generator) through stage `i`. -/
def State.stageRun (s : State) (g n i : Nat) (x : Option GyItem) : State :=
  let y := s.gySlot g n
  let k := dKcode y.desc i
  let st0 := nthD {} y.stages i
  let st1 := { st0 with inbox := match x with | some _ => st0.inbox.drop 1 | none => st0.inbox }
  let st := if st1.reload && k != kRAND then { st1 with reload := false, swapped := !st1.swapped } else st1
  let pos := if i == 0 && x.isSome then (y.fifoPos + 1) % dFdep y.desc else y.fifoPos
  let s1 := (s.setGySlot g n { y with fifoPos := pos }).setStage g n i st
  let kin := s1.kin g n i
  match x with
  | some x => s1.gyResult g n i (runKernel k kin st x) x.time x.arr
  | none =>
    let (at_, s2) := s1.stampRead
    let r := if k == kSHOCK then runShock kin st none else runKernel k kin st { vals := [0], time := at_, arr := s.now }
    s2.gyResult g n i r at_ s.now

/-- The value that stage `i` of a stream takes next: one that stands in the input FIFO, for stage 0. -/
def State.headItem (s : State) (g n i : Nat) : Option GyItem :=
  let y := s.gySlot g n
  match (nthD {} y.stages i).inbox with
  | [] => none
  | x :: _ => some (if i == 0 then { x with vals := [to64 (smemNat (s.gy g).smem (fifoByte y.desc y.fifoPos) 4)] } else x)

/-- When a generator's next value falls due: one per `PERIOD` from RUN or CLEAR on (R333). -/
def GySlot.dueAt (y : GySlot) (i : Nat) : Nat :=
  match fpRat f64 (dPeriod y.desc) with
  | some (p, q) => y.lastInput + (nthD {} y.stages i).n * p.toNat / q
  | none => y.lastInput

/-- The work that waits at stage `i` of a running stream: its `CLASS` and its deadline, arrival + `DL` or 65.536 ms (R328). -/
def State.workAt (s : State) (g n i : Nat) : Option (Nat × Nat) :=
  let y := s.gySlot g n
  let arrival := if dKcode y.desc i == kRAND then (if y.dueAt i ≤ s.now then some (y.dueAt i) else none)
    else ((nthD {} y.stages i).inbox.head?).map (·.arr)
  if !y.running || dNst y.desc ≤ i || blocked y 9 i then none
  else arrival.map (fun a => (dClass y.desc, a + (if dDl y.desc == 0 then 65536000 else 1000 * dDl y.desc)))

/-- Work of a geyser that comes before work (`class`, `deadline`): a `CLASS` 0 value before any of `CLASS` 1, and of one class the
earliest deadline first (R328). -/
def State.earlierWork (s : State) (g cls deadline : Nat) : Bool :=
  (s.gy g).slots.any (fun p => (List.range (dNst p.2.desc)).any (fun i =>
    match s.workAt g p.1 i with
    | some (c, t) => c < cls || (c == cls && t < deadline)
    | none => false))

/-- STAGE_VALUE_PROCESSED (R297, R328): the lanes serve a value that waits at this stage. While other work of the geyser comes
before it, and while nothing waits there, nothing happens (log entry 119). -/
def State.stageValue (s : State) (g n i : Nat) : State :=
  let y := s.gySlot g n
  let k := dKcode y.desc i
  if dNst y.desc ≤ i then s
  else if y.state == .running then
    match s.workAt g n i with
    | some (c, t) =>
      if s.earlierWork g c t then s
      else if k == kRAND then s.stageRun g n i none
      else match s.headItem g n i with
        | some x => s.stageRun g n i (some x)
        | none => s
    | none => if isDrive k && k != kRAND && y.ramp.isSome then s.stageRun g n i none else s
  else if (y.state == .paused || y.state == .aborted) && isDrive k then
    if y.ramp.isSome then s.stageRun g n i none
    else (s.stampRead.2.gyDeliver g n i { vals := [0], time := s.stampRead.1, arr := s.now }).1
  else s

/-- RING_FULL_RECHECK (R324): a waiting record reads `CONS` again. -/
def State.ringRecheck (s : State) (g n j : Nat) : State :=
  let y := s.gySlot g n
  if oKind y.desc j != 1 then s
  else
    -- the records that wait meet the ring in their order; the first that finds it full keeps those behind it waiting
    (nthD {} y.outs j).held.foldl (fun t x => t.ringRecord g n j x)
      (s.setGySlot g n (y.modOut j (fun o => { o with held := [] })))

/-- DMA_RING_RECORD (R401): the oldest record that waits meets its host ring; `cons` is the count read from host memory,
none if the read failed. `VEC` follows every `NEVERY` records, lost ones included. -/
def State.dmaRecord (s : State) (g n j : Nat) (cons : Option Word64) : State :=
  let y := s.gySlot g n
  let d := y.desc
  let o := nthD {} y.outs j
  match o.held with
  | [] => s
  | x :: rest =>
    if oKind d j != 4 then s
    else
      let base := (nthD 0 o.dma 0).pay
      let idx := (nthD 0 o.dma 1).pay
      let c := (nthD 0 o.dma 2).payload
      let f := field c 63 62
      let s1 := s.setGySlot g n (y.modOut j (fun o => { o with held := rest }))
      let done := fun (t : State) (prod : Nat) (lost failed delivered : Bool) =>
        let u := t.recordDone g n j prod x.arr lost failed delivered
        if bit c 0 && oNevery d j != 0 && ((nthD {} (u.gySlot g n).outs j).records % oNevery d j == 0)
        then u.signal f (field c 42 32) else u
      let write := fun (lateRec : Bool) =>
        let cells := recordOf d j x
        let s2 := s1.emit (.hostWrite f ((base + 16 * (o.prod % oRlen d j)) % 2 ^ 64) (cells.flatMap cellBytes))
        let p := o.prod + cells.length
        let s3 := (s2.emit (.hostWrite f idx (leBytes 8 p))).modGySlot g n (fun y => y.modOut j (fun o => { o with prod := p }))
        done s3 p lateRec false true
      match cons with
      | none => done s1 o.prod true true false
      | some w =>
        if !(s.func f).bme then done s1 o.prod true true false
        else if !ringFull (o.prod : Int) (w.toNat : Int) (oRlen d j) (recCells d j) then write false
        else if oPol d j == 0 then write true
        else if oPol d j == 1 then done s1 o.prod true false false
        else s

/-- SOURCE_TIMEOUT (R334): `TMO` µs without input abort a `CLASS` 0 stream. -/
def State.sourceTimeout (s : State) (g n : Nat) : State :=
  let y := s.gySlot g n
  if y.running && dClass y.desc == 0 && dTmo y.desc != 0 && dSkind y.desc != 4 && y.lastInput + 1000 * dTmo y.desc ≤ s.now
  then s.gyAbort g n 0x51 else s

end Sys2Proof.Machine
end

