-- ==== Sys2Proof/Machine/GeyserCmd.lean ====
section
/-! DEFINITION. The geyser command port (R298 to R303, R311, R312, R327, R332, R335, R336) and the values of the geyser
registers (R299). -/

namespace Sys2Proof.Machine

/-! ### Command cells (R299) -/

def gcCmd (c : Cell) : Nat := field c 115 112
def gcSlot (c : Cell) : Nat := field c 111 104
def gcCtx (c : Cell) : Nat := field c 77 64
def gcGen (c : Cell) : Nat := field c 63 32

/-- The cell that spells a command (R299). -/
def gyCell (cmd : Nat) (c : GyCmd) : Cell :=
  let s := cmd * 2 ^ 48 + c.slot.toNat * 2 ^ 40 + b2n c.dk * 2 ^ 39 + c.dest.toNat * 2 ^ 23 + c.rtag.toNat * 2 ^ 15 +
    b2n c.chk * 2 ^ 14 + c.ctx.toNat
  mkCell c.tag.toNat c.epoch.toNat s c.arg.toNat

/-- `CMD` and `ARG` hold nothing reserved (R301). -/
def argOk (c : Cell) : Bool :=
  let k := gcCmd c
  if k == 0 then c.pay == 0
  else if k == 1 then c.pay % 512 == 0 && c.pay < 2 ^ 48
  else if k == 2 || k == 3 || k == 4 || k == 6 then field c 31 0 == 0
  else if k == 5 || k == 7 then field c 31 3 == 0
  else if k == 8 || k == 9 then c.pay % 16 == 0 && c.pay < 2 ^ 48
  else false

/-- The authority of `CHK` (R155, R302 step 2): the STATUS that refuses, or 0. -/
def State.gyAuth (s : State) (g : Nat) (c : Cell) : Nat :=
  if !bit c 78 then 0
  else
    let cap := s.rcell (gcCtx c) 22
    if cap.tag != tagCAP || cap.reserved then 0x0B
    else if !cap.coversName (256 * g + gcSlot c) then 0x08
    else if !cap.has rSTRMCTL then 0x09
    else 0

/-- `CMD` is accepted in a slot state (R301). -/
def acceptedIn (k : Nat) (st : SlotState) : Bool :=
  if k == 0 then true
  else if k == 1 then st == .free
  else if k == 2 then st == .loaded || st == .paused || st == .aborted
  else if k == 3 || k == 7 then st == .running
  else st != .free

/-! ### LOAD (R304, R311, R312) -/

/-- The next generation: 0 is skipped (R298). -/
def nextGen (gen : Nat) : Nat := if gen + 1 == 2 ^ 32 then 1 else gen + 1

/-- The STATUS of a LOAD whose descriptor stands at `a`, and the slot that it makes (R311); the order among these checks is that of
log entry 148. -/
def State.gyLoadCheck (s : State) (g n a : Nat) : Except Nat GySlot :=
  if !s.canGet a 512 then .error 0x46
  else
    let d := s.cellsAt 32 a
    if !descOk d || !s.tapOk d then .error 0x44
    else
      let rings := (List.range (dNout d)).map (s.ringOk d)
      if rings.any (fun r => r.isNone) then .error 0x46
      else if rings.any (fun r => match r with | some (ok, _) => !ok | none => true) then .error 0x44
      else
        let mine := regions d
        let others := (s.gy g).slots.flatMap (fun p => regions p.2.desc)
        if !apart mine || mine.any (fun r => 8192 < r.1 + r.2) || mine.any (fun r => others.any (regionsMeet r)) then
          .error 0x43
        else if !s.available g d then .error 0x45
        else
          let y := s.gySlot g n
          .ok { y with
            state := .loaded
            gen := nextGen y.gen
            desc := d
            stages := List.replicate (dNst d) {}
            outs := rings.map (fun r => { dma := match r with | some (_, l) => l | none => [] })
            ramp := none }

/-- A command's memory access fails in the mesh at `pa` (R302, R481). -/
def State.gyMeshFail (s : State) (g : Nat) (c : Cell) (pa : Nat) : State := (s.meshLost pa).gyComplete g c 0x46 0

def State.gyLoadCmd (s : State) (g : Nat) (c : Cell) (mesh : Option Nat) : State :=
  match mesh, s.gyLoadCheck g (gcSlot c) c.pay with
  | some pa, _ => s.gyMeshFail g c pa
  | none, .error e => s.gyComplete g c e 0
  | none, .ok y => ((s.setGySlot g (gcSlot c) y).agentBytes c.pay 512).2.gyComplete g c 0 y.gen

/-! ### RUN and CLEAR (R301, R316, R327, R333) -/

/-- A stage at RUN: windows, frames and averages begin anew; histories and the rainflow stack stay (R316). A SINE or SHOCK stage goes
back to its start from LOADED and ABORTED; from PAUSED it keeps its amplitude and phase, or its place in the waveform, and the time
of a sweep begins anew (R301, R331, log entry 120). -/
def runReset (paused : Bool) (k : Nat) (st : StageState) : StageState :=
  if k == kFIR || k == kSTF then { st with inbox := [], n := 0 }
  else if k == kRFC || k == kTHR then { st with inbox := [] }
  else if paused && k == kSINE then { st with inbox := [], n := 0, b0 := false }
  else if paused && k == kSHOCK then { st with inbox := [] }
  else { reload := st.reload, swapped := st.swapped }

/-- A stage at CLEAR: histories go too; a sweep and a pulse go on (R301, R333). -/
def clearReset (k : Nat) (st : StageState) : StageState :=
  if k == kSINE || k == kSHOCK then st
  else { inbox := st.inbox, reload := st.reload, swapped := st.swapped }

/-- The generator states of RAND stages are set from SEED, at RUN and CLEAR (R333). -/
def State.seedStages (s : State) (g n : Nat) : State :=
  (List.range (dNst (s.gySlot g n).desc)).foldl (fun t i =>
    if dKcode (t.gySlot g n).desc i == kRAND
    then t.setStage g n i { nthD {} (t.gySlot g n).stages i with f0 := seedOf (t.kin g n i) } else t) s

def mapStages (d : Desc) (f : Nat → StageState → StageState) (l : List StageState) : List StageState :=
  (List.range l.length).map (fun i => f (dKcode d i) (nthD {} l i))

/-- The running streams of a geyser. -/
def Geyser.runners (y : Geyser) : List GySlot := (y.slots.map (·.2)).filter (fun v => v.running)

/-- The admitted loads of a set of streams: binary32, binary64, ingest. -/
def loadsOf (l : List GySlot) : Rate × Rate × Rate :=
  l.foldl (fun a v =>
    let c := streamCost v.desc
    (a.1.add c.1, a.2.1.add c.2, a.2.2.add (ingestRate v.desc))) ((0, 1), (0, 1), (0, 1))

/-- RUN is admitted (R327). -/
def admits (y : Geyser) (d : Desc) : Bool :=
  let l := y.runners
  let t := loadsOf l
  let c := streamCost d
  (t.1.add c.1).le 23040000000 && (t.2.1.add c.2).le 5760000000 &&
    (dClass d != 0 || (l.filter (fun v => dClass v.desc == 0)).length < 32) && dlOk d

/-- RUN: what the outputs count and hold since the latest post stays (R324, R325); a host ring starts at 0 (R401). -/
def State.gyRunCmd (s : State) (g : Nat) (c : Cell) : State :=
  let n := gcSlot c
  let y := s.gySlot g n
  if s.panel.eforce && (hasDrive y.desc || hasLinkOut y.desc) then s.gyComplete g c 0x48 0
  else if !admits (s.gy g) y.desc then s.gyComplete g c 0x42 0
  else
    ((s.setGySlot g n { y with
      state := .running
      stages := mapStages y.desc (runReset (y.state == .paused)) y.stages
      outs := y.outs.map (fun o => { o with prod := 0 })
      lastInput := s.now
      ramp := none }).seedStages g n).gyComplete g c 0 y.gen

/-- Stream memory with `n` bytes from `off` zero. -/
def zeroBytes (m : SMap Byte) (off n : Nat) : SMap Byte := m.filter (fun e => e.1 < off || off + n ≤ e.1)

/-- CLEAR resets windows, averages, histories, the rainflow stack and the matrix: the work areas become 0 (R301, R319). -/
def State.gyClearCmd (s : State) (g : Nat) (c : Cell) : State :=
  let n := gcSlot c
  let y := s.gySlot g n
  let last := if dSkind y.desc == 4 then s.now else y.lastInput
  let s1 := s.setGySlot g n { y with stages := mapStages y.desc clearReset y.stages, lastInput := last }
  let wipe := fun (m : SMap Byte) (i : Nat) => zeroBytes m (64 * dWoff y.desc i) (workBytes y.desc i)
  let s2 := s1.modGy g (fun z => { z with smem := (List.range (dNst y.desc)).foldl wipe z.smem })
  (s2.seedStages g n).gyComplete g c 0 y.gen

/-! ### PAUSE and STOP (R303, R334) -/

/-- PAUSE or STOP of a stream whose drive must ramp: its completion waits for the end of the ramp. -/
def State.gyEndCmd (s : State) (g : Nat) (c : Cell) (e : RampEnd) (st : SlotState) : State :=
  let n := gcSlot c
  let y := s.gySlot g n
  let s1 := s.setGySlot g n { y with state := st }
  if y.ramp.isSome || y.running && hasDrive y.desc && dRamp y.desc != 0 then
    s1.modGySlot g n (fun y => { y with ramp := some (y.rampFrom s.now e) })
  else s1.finishRamp g n e

/-! ### RELOAD and TRIG (R308, R332) -/

def State.gyReloadCmd (s : State) (g : Nat) (c : Cell) : State :=
  let n := gcSlot c
  let y := s.gySlot g n
  let i := field c 2 0
  if dNst y.desc ≤ i || !dSpv y.desc i then s.gyComplete g c 0x44 0
  else
    let st := nthD {} y.stages i
    (s.setStage g n i { st with reload := !st.reload }).gyComplete g c 0 y.gen

/-- TRIG of a stage that is not SHOCK is an inconsistent value (log entry 42). -/
def State.gyTrigCmd (s : State) (g : Nat) (c : Cell) : State :=
  let n := gcSlot c
  let y := s.gySlot g n
  let i := field c 2 0
  if dNst y.desc ≤ i || dKcode y.desc i != kSHOCK then s.gyComplete g c 0x44 0
  else
    let st := nthD {} y.stages i
    (s.setStage g n i { st with b0 := true, m := 0 }).gyComplete g c 0 y.gen

/-! ### LOADSM and READSM (R301) -/

/-- 16-byte unit `u` of stream memory. -/
def smUnit (m : SMap Byte) (u : Nat) : List Byte := (List.range 16).map (fun i => SMap.get 0 m (16 * u + i))

/-- READSM: units from `u` to HBM at `a`. -/
def State.readUnits (s : State) (g : Nat) (pk : Bool) (u a : Nat) : Nat → State
  | 0 => s
  | k + 1 =>
    let bs := smUnit (s.gy g).smem u
    if pk then
      let put := fun (t : State) (x : Nat) (l : List Byte) => t.agentPut x (cellBytes (mkRAW (leValue l)))
      State.readUnits (put (put s a (bs.take 8)) (a + 16) (bs.drop 8)) g pk (u + 1) (a + 32) k
    else State.readUnits (s.agentPut a bs) g pk (u + 1) (a + 16) k

/-- The bytes that LOADSM takes for `k` units from HBM at `a`. -/
def State.takeUnits (s : State) (pk : Bool) (a k : Nat) : List Byte :=
  if pk then (List.range (2 * k)).flatMap (fun i => leBytes 8 (s.cell (a + 16 * i)).pay) else readBytes s.mem (16 * k) a

/-- Write bytes into stream memory. -/
def putSmem (m : SMap Byte) (off : Nat) : List Byte → SMap Byte
  | [] => m
  | b :: l => putSmem (SMap.set 0 m off b) (off + 1) l

/-- The bytes of HBM that the transfer block at `a` names (R301). -/
def State.smSpan (s : State) (a : Nat) : Nat × Nat :=
  let n := field (s.cell (a + 16)) 18 0
  (field (s.cell a) 63 4 * 16, if bit (s.cell a) 0 then 32 * n else 16 * n)

/-- LOADSM and READSM after the authority check: the transfer block holds the generation (R301). A reserved bit [3:1], a length that
is none, and cells that are not RAW give 0x44, which R302 states for descriptor values only (log entry 121). -/
def State.gySmCmd (s : State) (g : Nat) (c : Cell) (read : Bool) (mesh : Option Nat) : State :=
  let n := gcSlot c
  let y := s.gySlot g n
  if mesh.isSome then s.gyMeshFail g c (mesh.getD 0)
  else if !s.canGet c.pay 32 then s.gyComplete g c 0x46 0
  else
    let b0 := s.cell c.pay
    let b1 := s.cell (c.pay + 16)
    let s := (s.agentRead c.pay).2
    let gen := field b1 63 32
    let off := field b1 31 19
    let len := field b1 18 0
    let pk := bit b0 0
    let a := field b0 63 4 * 16
    let span := if pk then 32 * len else 16 * len
    if gen != y.gen || y.gen == 0 then s.gyComplete g c 0x40 0
    else if y.state == .free then s.gyComplete g c 0x41 0
    else if field b0 3 1 != 0 || len == 0 || 32768 < len || b0.tag != tagRAW || b1.tag != tagRAW then s.gyComplete g c 0x44 0
    else if !inRegions y.desc (64 * off) (16 * len) then s.gyComplete g c 0x43 0
    else if read then
      if !s.canPut a span then s.gyComplete g c 0x46 0
      else (s.readUnits g pk (4 * off) a len).gyComplete g c 0 (16 * len)
    else if !s.canGet a span then s.gyComplete g c 0x46 0
    else
      let bs := s.takeUnits pk a len
      ((s.agentBytes a span).2.modGy g (fun z => { z with smem := putSmem z.smem (64 * off) bs })).gyComplete g c 0 (16 * len)

/-! ### Commands in order (R300, R302, R303) -/

/-- A command acts: the checks of R302 in order, then its effect. -/
def State.gyExec (s : State) (g : Nat) (c : Cell) (mesh : Option Nat) : State :=
  let k := gcCmd c
  let y := s.gySlot g (gcSlot c)
  let auth := s.gyAuth g c
  if !argOk c then s.gyComplete g c 0x47 0
  else if auth != 0 then s.gyComplete g c auth 0
  else if k == 8 then s.gySmCmd g c false mesh
  else if k == 9 then s.gySmCmd g c true mesh
  else if 2 ≤ k && (gcGen c != y.gen || y.gen == 0) then s.gyComplete g c 0x40 0
  else if !acceptedIn k y.state then s.gyComplete g c 0x41 0
  else if k == 0 then s.gyComplete g c 0 0
  else if k == 1 then s.gyLoadCmd g c mesh
  else if k == 2 then s.gyRunCmd g c
  else if k == 3 then s.gyEndCmd g c (.pause c) .paused
  else if k == 4 then s.gyEndCmd g c (.stop c) y.state
  else if k == 5 then s.gyReloadCmd g c
  else if k == 6 then s.gyClearCmd g c
  else s.gyTrigCmd g c

/-- A command waits on this slot: a PAUSE or STOP whose ramp is under way (R303). -/
def GySlot.waits (y : GySlot) : Bool :=
  match y.ramp with
  | some ⟨_, _, _, .pause _⟩ => true
  | some ⟨_, _, _, .stop _⟩ => true
  | _ => false

/-- The geyser's domain is on while a slot is loaded, in PS0 to PS3 (R330, R459). -/
def State.gyPower (s : State) (g : Nat) : State :=
  (s.setDomain (88 + g) (s.power.ps < 4 && (s.gy g).slots.any (fun e => e.2.state != .free))).pllsAfter s

/-- Take the commands of the FIFO that may act, in order; those held back stay in it (R303, R325). -/
def State.gyTake (s : State) (g : Nat) : List (Cell × Option Nat) → List (Cell × Option Nat) → State
  | [], kept => ((s.modGy g (fun z => { z with fifo := kept })).gyPower g).ltrUpdate
  | c :: l, kept =>
    if (s.gy g).full || (s.gySlot g (gcSlot c.1)).waits || kept.any (fun k => gcSlot k.1 == gcSlot c.1) then
      State.gyTake s g l (kept ++ [c])
    else State.gyTake (s.gyExec g c.1 c.2) g l kept

def State.gyDrain (s : State) (g : Nat) : State := s.gyTake g (s.gy g).fifo []

/-- A write to GYCMD (R299, R300); `mesh` = the address of a mesh transfer of it that fails. -/
def State.gyWrite (s : State) (g : Nat) (c : Cell) (mesh : Option Nat := none) : State :=
  let z := s.gy g
  if s.boot.held then s
  else if c.tag != tagRAW || c.epoch != 0 then s.setGy g { z with crej := true }
  else if 64 ≤ z.fifo.length then s.setGy g { z with cdrop := true }
  else (s.setGy g { z with fifo := z.fifo ++ [(c, mesh)] }).gyDrain g

/-- RAMP_END (R334): the ramp has reached 0. -/
def State.rampEnd (s : State) (g n : Nat) : State :=
  let y := s.gySlot g n
  match y.ramp with
  | some r => if r.t0 + rampNs y.desc ≤ s.now then (s.finishRamp g n r.fin).gyDrain g else s
  | none => s

/-! ### Register values (R299) -/

/-- `GYSTAT.CLK`: 0 off, 1 1.6 GHz, 2 200 MHz in PS3 where every running stream may (R330). -/
def State.gyClk (s : State) (g : Nat) : Nat :=
  if !s.domainOn (88 + g) then 0
  else if s.power.ps == 3 then
    if (s.gy g).runners.all (fun v => dPs3ok v.desc) then 2 else 0
  else 1

def State.gyStat (s : State) (g : Nat) : Nat :=
  let z := s.gy g
  (64 - z.fifo.length) * 2 ^ 56 + (z.slots.filter (fun p => p.2.state != .free)).length * 2 ^ 32 +
    z.runners.length * 2 ^ 16 + b2n s.panel.eforce * 2 ^ 7 + s.gyClk g * 2 ^ 5 + b2n z.cdrop * 4 + b2n z.crej * 2

def State.gyAdm (s : State) (g : Nat) : Nat :=
  let t := loadsOf (s.gy g).runners
  satAt (2 ^ 20 - 1) (t.2.2.ceilDiv 1000) * 2 ^ 44 + satAt (2 ^ 20 - 1) (t.1.ceilDiv 1000000) * 2 ^ 24 +
    satAt (2 ^ 24 - 1) (t.2.1.ceilDiv 1000000)

def SlotState.code : SlotState → Nat
  | .free => 0 | .loaded => 1 | .running => 2 | .paused => 3 | .aborted => 4

def GySlot.slsta (y : GySlot) : Nat := y.gen * 2 ^ 32 + y.state.code * 2 ^ 29 + y.last
def GySlot.slcnt (y : GySlot) : Nat :=
  y.inovr * 2 ^ 48 + y.lost * 2 ^ 32 + y.late * 2 ^ 16 + y.inval * 2 ^ 8 + y.sat

/-- Read a geyser register at offset `off`; the counters clear when read. -/
def State.gyRead (s : State) (g off : Nat) : Nat × State :=
  if off == 0x10 then (s.gyStat g, s)
  else if off == 0x20 then (s.gyAdm g, s)
  else if off == 0x30 then ((s.gy g).ftz, s.modGy g (fun z => { z with ftz := 0 }))
  else if 0x1000 ≤ off && off < 0x3000 then
    let n := (off - 0x1000) / 0x20
    let y := s.gySlot g n
    if off % 0x20 == 0 then (y.slsta, s)
    else if off % 0x20 == 0x10 then
      (y.slcnt, s.setGySlot g n { y with inovr := 0, lost := 0, late := 0, inval := 0, sat := 0 })
    else (0, s)
  else (0, s)

/-- Write a geyser register at offset `off`: GYCMD takes the whole cell, GYSTAT clears its sticky bits. -/
def State.gyPut (s : State) (g off : Nat) (v : Cell) : State :=
  if off == 0 then s.gyWrite g v none
  else if off == 0x10 then
    s.modGy g (fun z => { z with cdrop := z.cdrop && !bit v 2, crej := z.crej && !bit v 1 })
  else s

end Sys2Proof.Machine
end

