-- ==== Sys2Proof/Machine/Links.lean ====
section
/-! DEFINITION. Sample links and the global time counter (chapter 14): frames, training, credits, events, registers, and
the IEEE 1588 servo. -/

namespace Sys2Proof.Machine

/-! ### Access -/

def State.link (s : State) (n : Nat) : Link := SMap.get {} s.links n
def State.setLink (s : State) (n : Nat) (l : Link) : State := { s with links := SMap.set {} s.links n l }
def State.modLink (s : State) (n : Nat) (f : Link → Link) : State := s.setLink n (f (s.link n))

def LinkState.code : LinkState → Nat
  | .down => 0 | .align => 1 | .train => 2 | .up => 3 | .nover => 4

/-- The version offered: 0 and 3 act as 2 (R354). -/
def Link.offer (l : Link) : Nat := if l.vmax == 1 then 1 else 2

def Link.slsta (l : Link) : Nat :=
  l.delay * 2 ^ 48 + l.txcred * 2 ^ 40 + l.pvmax * 2 ^ 36 + l.ver * 2 ^ 32 + b2n l.cbusy * 2 ^ 7 + l.state.code

def Link.slerr (l : Link) : Nat := l.code * 2 ^ 48 + l.crc * 2 ^ 32 + l.lost * 2 ^ 16 + l.ovr * 2 ^ 8 + l.rsvd

def Link.slctl (l : Link) : Nat :=
  l.echan * 2 ^ 32 + l.v1lat * 2 ^ 16 + l.tper * 2 ^ 8 + l.vmax * 2 ^ 4 + b2n l.en

/-! ### Supplies (R539, R542) -/

/-- The level of a PEN pin (R444, R471): the safe set overrides the power manager while the stop is in force. -/
def State.penLevel (s : State) (p : Nat) : Bool :=
  if s.panel.eforce && (s.dictNat 0x6100 1 0).testBit p then (s.dictNat 0x6100 0 0).testBit p else s.power.pen.testBit p

/-- VDD_PHY and VDD_IO are on: by the wiring of R542, PEN2 and PEN3 enable them (log entry 144). -/
def State.vddPhy (s : State) : Bool := s.penLevel 2
def State.vddIo (s : State) : Bool := s.penLevel 3

/-! ### Events (R352) -/

/-- The event record of code `code` for link `n`. -/
def Link.event (l : Link) (n code value status : Nat) : Record :=
  ⟨12, false, status, l.echan, code * 256 + n, value⟩

/-- A record of codes 0x01 to 0x03 waits in the buffer. -/
def Link.waiting (l : Link) : Bool := l.events.any (fun r => r.rtag / 256 ≤ 3)

def Link.post (l : Link) (n code value status : Nat) : Link :=
  { l with events := l.events ++ [l.event n code value status] }

/-- With `EN` = 1, a link leaves DOWN for ALIGN once its event records have been presented, and not in PS4 or PS5 or without its supplies
(R346, R352, R355, R539). -/
def State.linkKick (s : State) (n : Nat) : State :=
  let l := s.link n
  if l.state == .down && l.en && !l.waiting && s.power.ps < 4 && s.vddIo && s.vddPhy then
    s.setLink n { l with state := .align, gotTrain := false, sentAck := false, t1Late := 0 }
  else s

/-- The CTRL request ends (R353). -/
def Link.ctrlEnd (l : Link) (n value status : Nat) : Link :=
  { l with ctrl := .none, ctrlHeld := false }.post n 4 value status

/-- A link goes DOWN (R346, R351): an UP link reports it, and a CTRL request outstanding is abandoned. -/
def State.linkFall (s : State) (n : Nat) : State :=
  let l := s.link n
  let d := { l with state := .down, ver := 0, txcred := 0, txq := [], gotTrain := false, sentAck := false, t1Late := 0 }
  let d1 := if l.state == .up then d.post n 2 d.slsta 0 else d
  let d2 := match d1.ctrl with
    | some (p, _) => d1.ctrlEnd n p 0x03
    | none => d1
  (s.setLink n d2).linkKick n

/-- Links that are DOWN with `EN` = 1 train again, at exit from PS4 or PS5 (R355). -/
def State.kickLinks (s : State) : State := (List.range 8).foldl (fun t n => t.linkKick n) s

/-- Every link goes DOWN, on entry to PS4 or PS5 (R355). -/
def State.linksDown (s : State) : State :=
  (List.range 8).foldl (fun t n => if (t.link n).state == .down then t else t.linkFall n) s

/-- Test-logic reset (R532): IDCODE stands; the boundary-scan register holds nothing. -/
def State.jtagReset (s : State) : State := { s with dbg := { s.dbg with jtag := .idcode, shifted := 0, scanReg := [] } }

/-- What follows at once a change of PEN levels (R539): without VDD_IO the JTAG port is reset; without VDD_IO or VDD_PHY no link is up,
and with both a link may train. -/
def State.ioWatch (s : State) : State :=
  let t := if s.vddIo then s else s.jtagReset
  if s.vddIo && s.vddPhy then t.kickLinks else t.linksDown

/-! ### Frames (R340 to R344) -/

/-- One byte of the IEEE 802.3 frame check sequence. -/
def crcByte (c : Word32) (b : Byte) : Word32 :=
  (List.range 8).foldl (fun c _ => if bit c 0 then (c >>> 1) ^^^ 0xEDB88320 else c >>> 1) (c ^^^ b.setWidth 32)

/-- The frame check sequence of bytes. -/
def crc32 (l : List Byte) : Word32 := ~~~ (l.foldl crcByte 0xFFFFFFFF)

/-- A header (R341). -/
def linkHeader (valid seq first cnt fmt type : Nat) : Nat :=
  valid * 2 ^ 32 + seq * 2 ^ 24 + first * 2 ^ 16 + cnt * 2 ^ 8 + fmt * 2 ^ 4 + type

/-- Pad to a multiple of 4 bytes. -/
def pad4 (l : List Byte) : List Byte := l ++ List.replicate ((4 - l.length % 4) % 4) 0

/-- The bytes of a frame between SOF and EOF: header, stamp and padded payload, then the CRC over them (R340). -/
def frameBytes (l : List Byte) : List Byte := l ++ leBytes 4 (crc32 l).toNat

/-- After a power failure the transmitters send IDLE only, until the main side has started again (R376, R378). -/
def State.idleOnly (s : State) : Bool := s.jr.pf != PfPhase.normal

/-- Send a frame other than TRAIN: it costs a credit and takes the next `SEQ` (R344, R348). -/
def State.linkSend (s : State) (n type valid first cnt fmt : Nat) (payload : List Byte) (time : Nat) : State :=
  let l := s.link n
  let head := leBytes 8 (linkHeader valid l.seqTx first cnt fmt type)
  let ts := if l.ver == 2 && (type == 1 || type == 2) then leBytes 8 time else []
  (s.setLink n { l with txcred := l.txcred - 1, seqTx := (l.seqTx + 1) % 256 }).emit
    (.linkFrame n type l.seqTx (frameBytes (head ++ ts ++ pad4 payload)) time)

/-- A held CTRL request leaves once a credit is there (R348). -/
def State.ctrlSend (s : State) (n : Nat) : State :=
  let l := s.link n
  match l.ctrl with
  | some (p, _) =>
    if l.ctrlHeld && 0 < l.txcred && l.state == .up && !s.idleOnly then
      (s.setLink n { l with ctrlHeld := false }).linkSend n 3 0 0 0 0 (leBytes 8 p) s.now
    else s
  | none => s

/-! ### Sending -/

/-- TRAIN_SEND (R345, R346). -/
def State.trainSend (s : State) (n : Nat) : State :=
  let l := s.link n
  if l.state != .train || s.idleOnly then s
  else
    let (e, s1) := s.stampError
    let t1 := s.now + e - s.early
    let p := leBytes 8 t1 ++ leBytes 4 0 ++ leBytes 1 l.offer ++ leBytes 1 1 ++ leBytes 1 (b2n l.gotTrain) ++ leBytes 1 64
    (s1.setLink n { l with sentAck := l.sentAck || l.gotTrain, t1Late := if l.t1Late < e then e else l.t1Late }).emit
      (.linkFrame n 8 0 (frameBytes (leBytes 8 (linkHeader 0 0 0 0 0 8) ++ p)) t1)

/-- The values that share a frame with the first: the lanes that follow it, of its format and time. -/
def frameRun (fmt time : Nat) : Nat → Nat → List (Nat × Nat × Nat × Nat × Bool) → List (Nat × Nat × Nat × Nat × Bool)
  | 0, _, _ => []
  | _, _, [] => []
  | k + 1, lane, (a, f, b, t, v) :: q =>
    if a == lane && f == fmt && t == time && a < 256 then (a, f, b, t, v) :: frameRun fmt time k (lane + 1) q else []

/-- SAMPLES_FRAME_SENT (R326, R348, R355): values of the queue in one frame; zeros under the emergency stop. -/
def State.samplesSend (s : State) (n : Nat) : State :=
  let l := s.link n
  match l.txq with
  | [] => s
  | (lane, fmt, _, time, _) :: _ =>
    if l.state != .up || l.txcred == 0 || s.idleOnly then s
    else
      let run := frameRun fmt time 32 lane l.txq
      let k := run.length
      let valid := (List.range k).foldl (fun v i =>
        match run[i]? with
        | some (_, _, _, _, true) => v + 2 ^ i
        | _ => v) 0
      let bytes := run.flatMap (fun e => leBytes (fmtBytes fmt) (if s.panel.eforce then 0 else e.2.2.1))
      (s.setLink n { l with txq := l.txq.drop k }).linkSend n 1 valid lane (k - 1) fmt bytes time

/-- TIME_FRAME (R347): a TIME frame falls due at each multiple of the period on the counter, and leaves at the first gap after it (log
entry 124). -/
def State.timeSend (s : State) (n : Nat) : State :=
  let l := s.link n
  let period := 100000 * l.tper
  if l.state != .up || l.ver != 2 || l.tper == 0 || l.txcred == 0 || s.idleOnly || s.now / period ≤ l.timeAt / period then s
  else
    let (at_, s1) := s.stamp
    (s1.setLink n { l with timeAt := s.now }).linkSend n 2 0 0 0 0 (leBytes 8 l.delay) at_

/-- CREDIT (R348): credits beyond the width of `TXCRED` are not kept (log entry 46). -/
def State.creditIn (s : State) (n k : Nat) : State :=
  let l := s.link n
  if l.state != .up || k == 0 then s
  else (s.setLink n { l with txcred := satAt 255 (l.txcred + k) }).ctrlSend n

/-! ### Receiving (R350) -/

/-- The receiver frees buffer space and returns credits (R348): how many of those not yet returned is free (log entry 44). -/
def State.creditOut (s : State) (n : Nat) : State :=
  let l := s.link n
  if l.state != .up || 64 ≤ l.rxcred || s.idleOnly then s
  else
    let (w, t) := s.fresh
    let k := w.toNat % (65 - l.rxcred)
    if k == 0 then t else (t.setLink n { l with rxcred := l.rxcred + k }).emit (.credit n k)

/-- The header holds nothing reserved, and the payload length agrees with it (R341, R342, R350). -/
def headerOk (l : Link) (b : List Byte) : Bool :=
  let h := leValue (b.take 8)
  let type := h % 16
  let fmt := h / 16 % 4
  let cnt := h / 256 % 32
  let first := h / 2 ^ 16 % 256
  let ts := if l.ver == 2 then 8 else 0
  h / 64 % 4 == 0 && h / 2 ^ 13 % 8 == 0 &&
    (if type == 1 then first + cnt ≤ 255 && b.length == 8 + ts + cdiv (fmtBytes fmt * (cnt + 1)) 4 * 4
     else
       fmt == 0 && cnt == 0 && first == 0 && h / 2 ^ 32 == 0 &&
       (if type == 3 then b.length == 16 && leValue ((b.drop 8).take 2) / 2 % 2 ^ 15 == 0
        else if type == 4 then b.length == 16
        else type == 8 && b.length == 24 && h / 2 ^ 24 % 256 == 0 && leValue ((b.drop 22).take 1) < 2))

/-- The samples of a frame, from lane `lane` on. -/
def State.takeSamples (s : State) (n fmt valid time : Nat) : Nat → Nat → List Byte → State
  | 0, _, _ => s
  | k + 1, lane, b =>
    let w := fmtBytes fmt
    State.takeSamples (s.linkSample n lane fmt (leValue (b.take w)) (valid % 2 == 1) time) n fmt (valid / 2) time k
      (lane + 1) (b.drop w)

/-- A SAMPLES frame (R343, R349): its ring entry (R373), then its samples. -/
def State.samplesIn (s : State) (n : Nat) (b : List Byte) : State :=
  let l := s.link n
  let h := leValue (b.take 8)
  let v2 := l.ver == 2
  -- in version 1 the time is that of the arrival, stamped through a crossing (R349, R363)
  let (time, s0) := if v2 then (leValue ((b.drop 8).take 8), s) else (s.stamp.1 - l.v1lat, s.stamp.2)
  let body := b.drop (if v2 then 16 else 8)
  let s1 := s0.ringFrame n time b
  s1.takeSamples n (h / 16 % 4) (h / 2 ^ 32) time (h / 256 % 32 + 1) (h / 2 ^ 16 % 256) body

/-- The delay that a TRAIN frame with `T1` and `HOLD` gives when its SOF arrives at `t4` (R346). -/
def linkDelay (t1 hold t4 : Nat) : Int := ((t4 : Int) - (t1 : Int) - (hold : Int) + 1) / 2

/-- A TRAIN frame (R345, R346). -/
def State.trainIn (s : State) (n : Nat) (b : List Byte) : State :=
  let l := s.link n
  let p := b.drop 8
  let byte := fun i => leValue ((p.drop i).take 1)
  let vmax := byte 12
  let l1 := { l with pvmax := vmax % 16, gotTrain := true, trainAt := s.now }
  if l.state != .train then s.setLink n { l with pvmax := vmax % 16 }
  else if byte 14 % 2 == 1 && l.sentAck then
    let v := if l.offer < vmax then l.offer else vmax
    if v < byte 13 || v == 0 then
      let d := { l1 with state := .nover }
      s.setLink n (d.post n 3 d.slsta 1)
    else
      let t1 := leValue (p.take 8)
      let hold := leValue ((p.drop 8).take 4)
      -- the crossings leave DELAY the error of one stamp: T4 is not earlier against T1 than that allows (R363, log entry 65)
      let (e, s0) := s.stampError
      let t4 := s.now + (if e < l.t1Late - 2 * s.early then l.t1Late - 2 * s.early else e) - s.early
      let x := linkDelay t1 hold t4
      -- a delay outside the width of DELAY is not stated (log entry 46)
      let (delay, s1) := if v == 1 then (0, s) else if 0 ≤ x && x < 65536 then (x.toNat, s0) else
        (s0.fresh.1.toNat % 65536, s0.fresh.2)
      let d := { l1 with
        state := .up, ver := v, delay := delay, txcred := byte 15, rxcred := 64, seqTx := 0, seqRx := 0, timeAt := s.now }
      s1.setLink n (d.post n 1 d.slsta 0)
  else s.setLink n l1

/-- A CTRL reply (R352): used while a request is outstanding. -/
def State.ctrlIn (s : State) (n : Nat) (b : List Byte) : State :=
  let l := s.link n
  match l.ctrl with
  | some _ => s.setLink n (l.ctrlEnd n (leValue ((b.drop 8).take 8)) 0)
  | none => s

/-- A STAT frame (R352): it replaces a STAT record not yet presented. -/
def State.statIn (s : State) (n : Nat) (b : List Byte) : State :=
  let l := s.link n
  let r := l.event n 5 (leValue ((b.drop 8).take 8)) (if l.stat.isSome then 1 else 0)
  s.setLink n { l with stat := some r }

/-- A received frame (R350): checked in order, then used by its `TYPE`. -/
def State.linkReceive (s : State) (n : Nat) (fr : RxFrame) : State :=
  let l := s.link n
  let b := fr.bytes
  let type := leValue (b.take 1) % 16
  let reject := fun (l : Link) => (s.setLink n { l with rxcred := l.rxcred - 1 }).creditOut n
  if l.state == .down || l.state == .align then s
  else if fr.codeErr then reject { l with code := satAt 0xFFFF (l.code + 1) }
  else if 148 < b.length + 4 || !fr.eof || b.length % 4 != 0 || b.length < 8 || fr.crc != crc32 b then
    reject { l with crc := satAt 0xFFFF (l.crc + 1) }
  else if !headerOk l b then reject { l with rsvd := satAt 0xFF (l.rsvd + 1) }
  else if type == 8 then s.trainIn n b
  else if l.state != .up then s
  else if l.rxcred == 0 then s.setLink n { l with ovr := satAt 0xFF (l.ovr + 1) }
  else
    let seq := leValue ((b.drop 3).take 1)
    let gap := (seq + 256 - l.seqRx) % 256
    let s1 := s.setLink n { l with rxcred := l.rxcred - 1, seqRx := (seq + 1) % 256, lost := satAt 0xFFFF (l.lost + gap) }
    let s2 := if type == 1 then s1.samplesIn n b else if type == 3 then s1.ctrlIn n b else s1.statIn n b
    s2.creditOut n

/-! ### Timers and losses -/

/-- LINK_DOWN (R351): four code errors within 256 characters, or 1 ms of silence. -/
def State.linkLoss (s : State) (n : Nat) (c : LinkLoss) : State :=
  let l := s.link n
  if l.state == .down then s
  else match c with
    | .codeErrors k =>
      let t := s.setLink n { l with code := satAt 0xFFFF (l.code + k) }
      if 4 ≤ k then t.linkFall n else t
    | .silence => s.linkFall n

/-- TRAIN_TIMEOUT (R346): no TRAIN within 10 ms. -/
def State.trainTimeout (s : State) (n : Nat) : State :=
  let l := s.link n
  if l.state == .train && l.trainAt + 10000000 ≤ s.now then s.linkFall n else s

/-- NOVER_RETRAIN (R346, R352). -/
def State.noverRetrain (s : State) (n : Nat) : State :=
  let l := s.link n
  if l.state == .nover && l.trainAt + 10000000 ≤ s.now && !l.waiting then
    s.setLink n { l with state := .train, trainAt := s.now, gotTrain := false, sentAck := false, t1Late := 0 }
  else s

/-- ALIGNED (R346). -/
def State.aligned (s : State) (n : Nat) : State :=
  let l := s.link n
  if l.state == .align then
    s.setLink n { l with state := .train, trainAt := s.now, gotTrain := false, sentAck := false, t1Late := 0 }
  else s

/-- CTRL_TIMEOUT (R352). -/
def State.ctrlTimeout (s : State) (n : Nat) : State :=
  let l := s.link n
  match l.ctrl with
  | some (p, t) => if t + 1000000 ≤ s.now then s.setLink n (l.ctrlEnd n p 0x02) else s
  | none => s

/-! ### Registers (R354, R356) -/

/-- A write of SLCTL: `EN` 0 and `RETR` force DOWN; `EN` 1 leaves it. -/
def State.slctlWrite (s : State) (n : Nat) (v : Word64) : State :=
  let en := bit v 0
  let t := s.modLink n (fun l => { l with
    echan := field v 47 32, v1lat := field v 31 16, tper := field v 15 8, vmax := field v 5 4, en := en })
  if (!en || bit v 1) && (t.link n).state != .down then t.linkFall n else t.linkKick n

/-- A write of SLCMB (R353): one CTRL request; on a link that is not UP it ends at once. -/
def State.slcmbWrite (s : State) (n : Nat) (v : Word64) : State :=
  let l := s.link n
  if l.cbusy then s
  else
    let p := field v 63 24 * 2 ^ 24 + field v 0 0
    let l1 := { l with cbusy := true, ctrl := some (p, s.now), ctrlHeld := true }
    if l.state != .up then s.setLink n (l1.ctrlEnd n p 0x03) else (s.setLink n l1).ctrlSend n

def State.linkRead (s : State) (n off : Nat) : Nat × State :=
  let l := s.link n
  if off == 0 then (l.slctl, s)
  else if off == 0x10 then (l.slsta, s)
  else if off == 0x20 then (l.slerr, s.setLink n { l with code := 0, crc := 0, lost := 0, ovr := 0, rsvd := 0 })
  else (0, s)

def State.linkPut (s : State) (n off : Nat) (v : Word64) : State :=
  if off == 0 then s.slctlWrite n v else if off == 0x30 then s.slcmbWrite n v else s

/-- `RATE` clamped to ±500 ppm (R356). -/
def clampRate (i : Int) : Word32 := BitVec.ofInt 32 (if i < -17179869 then -17179869 else if 17179869 < i then 17179869 else i)

/-- A step waits for the next advance (R356, R358). -/
def State.stepGtc (s : State) (v : Nat) : State :=
  if 2 ^ 63 ≤ v then s else { s with time := { s.time with step := s.time.step + v } }

/-- The port of the IEEE 1588 discipline; 0xFF = off. -/
def State.ptpPort (s : State) : Nat := s.dictNat 0x2410 0 0xFF

/-- A write of a GTC register; under the discipline of IEEE 1588 only vent firmware's has effect (R359). -/
def State.gtcPut (s : State) (vent : Bool) (off : Nat) (v : Word64) : State :=
  if s.ptpPort != 0xFF && !vent then s
  else if off == 0 then
    { s with time := { s.time with rate := clampRate (signedOf 32 (field v 31 0)), xtrim := BitVec.ofNat 16 (field v 47 32) } }
  else if off == 0x10 then s.stepGtc v.toNat
  else s

def State.gtcRead (s : State) (off : Nat) : Nat :=
  if off == 0 then s.time.xtrim.toNat * 2 ^ 32 + s.time.rate.toNat else 0

/-! ### IEEE 1588 (R360, R361) -/

def State.modTime (s : State) (f : TimeUnit → TimeUnit) : State := { s with time := f s.time }

/-- The servo acts on an offset (R361): the rate that it sets is not stated (log entry 47). -/
def State.servo (s : State) (o : Int) : State :=
  let s1 := s.modTime (fun t => { t with ptpOffs := o })
  if o < -10000000 then s1.modTime (fun t => { t with ptpState := 3 })
  else
    let (w, s2) := s1.fresh
    let s3 := s2.modTime (fun t => { t with rate := clampRate (signedOf 32 w.toNat), ptpState := 2 })
    if 1000000 < o then s3.stepGtc o.toNat else s3

/-- A Sync is complete: the offset, and a Delay_Req. -/
def State.syncDone (s : State) (port t1 t2 : Nat) : State :=
  let s1 := s.servo ((t1 : Int) + s.time.pathDelay - (t2 : Int))
  let q := s1.time.delaySeq
  let (t3, s2) := s1.stamp
  (s2.modTime (fun t => { t with
    sync := some (t1, t2), syncWait := none, delayReq := some (q, t3), delaySeq := (q + 1) % 65536 })).emit
    (.ptpDelayReq port q)

/-- The port and domain of a PTP message are the ones under discipline, and the vent core that runs the servo runs (R360, R459, R489). -/
def State.ptpHears (s : State) (port domain : Nat) : Bool :=
  port == s.ptpPort && domain == s.dictNat 0x2411 0 0 && s.domainOn (102 + port) && s.dutyServed 1

/-- A PTP message of the selected master. -/
def State.ptpTakes (s : State) (port domain source : Nat) : Bool :=
  s.ptpHears port domain &&
    (match s.time.master with | some (m, _) => m == source | none => false)

/-- PTP_EVENT_MESSAGE: a Sync, stamped with the counter at its start-frame delimiter, crossed (R360, R363). -/
def State.ptpSync (s : State) (port : Nat) (m : PtpEvent) : State :=
  if !s.ptpTakes port m.domain.toNat m.source.toNat then s
  else
    let (at_, t) := s.stamp
    if m.twoStep then t.modTime (fun t => { t with syncWait := some (m.seq.toNat, at_) }) else t.syncDone port m.origin.toNat at_

/-- PTP_GENERAL_MESSAGE (R360): Announce selects the best master; Follow_Up completes a two-step Sync; Delay_Resp gives
the path delay. -/
def State.ptpGeneral (s : State) (port : Nat) : PtpGeneral → State
  | .announce domain source rank =>
    if !s.ptpHears port domain.toNat then s
    else match s.time.master with
      | some (m, r) =>
        if m == source.toNat then s.modTime (fun t => { t with master := some (source.toNat, rank.toNat), heardAt := s.now })
        else if rank.toNat < r then
          -- what was exchanged with the master before goes (log entry 125)
          s.modTime (fun t => { t with
            master := some (source.toNat, rank.toNat), heardAt := s.now
            sync := none, syncWait := none, delayReq := none, pathDelay := 0 })
        else s
      | none => s.modTime (fun t => { t with master := some (source.toNat, rank.toNat), heardAt := s.now, ptpState := 1 })
  | .followUp domain source seq origin =>
    if !s.ptpTakes port domain.toNat source.toNat then s
    else match s.time.syncWait with
      | some (q, t2) => if q == seq.toNat then s.syncDone port origin.toNat t2 else s
      | none => s
  | .delayResp domain source seq received =>
    if !s.ptpTakes port domain.toNat source.toNat then s
    else match s.time.delayReq, s.time.sync with
      | some (q, t3), some (t1, t2) =>
        if q == seq.toNat then
          s.modTime (fun t => { t with
            delayReq := none
            pathDelay := (((t2 : Int) - (t1 : Int)) + ((received.toNat : Int) - (t3 : Int))) / 2 })
        else s
      | _, _ => s

/-- The discipline is turned off, or moved to another port or domain (R360). -/
def State.ptpConfig (s : State) : State :=
  s.modTime (fun t => { t with
    master := none, sync := none, syncWait := none, delayReq := none, pathDelay := 0
    ptpState := if s.ptpPort == 0xFF then 0 else 1 })

/-- How long a selected master may be silent: three of the 2 s announce intervals of the default profile of IEEE 1588-2019 (R360, log
entry 125). -/
def announceLimit : Nat := 6000000000

/-- A master whose Announce has stopped is no longer selected: the servo listens for another (R360). -/
def State.ptpExpire (s : State) : State :=
  if s.time.master.isSome && s.time.heardAt + announceLimit < s.now then s.ptpConfig else s

/-- Received frames leave the buffers of the links that are UP, as time passes (R348). -/
def State.linksDrain (s : State) : State := s.links.foldl (fun t e => t.creditOut e.1) s

end Sys2Proof.Machine
end

