-- ==== Sys2Proof/Machine/Quantities.lean ====
section
/-! DEFINITION. Dimensions, points and differences, and the uncertainty field of quantities (R66 to R81), and the exact
values of numbers (R41). -/

namespace Sys2Proof

/-! ### Dimension (R66 to R69) -/

/-- Exponent `i` of `DIM`, the least significant digit first. -/
def dimDigit (dim i : Nat) : Int := signedOf 4 (dim / 16 ^ i)

/-- `DIM` from its exponents. -/
def dimMake (f : Nat → Int) : Nat := foldUp (fun i n => n + wrapInt 4 (f i) * 16 ^ i) 7 0 0

/-- All seven exponents lie in −8 to +7. -/
def dimFits (f : Nat → Int) : Bool := (List.range 7).all (fun i => -8 ≤ f i && f i ≤ 7)

/-- Some exponent is odd (R69). -/
def dimOdd (dim : Nat) : Bool := (List.range 7).any (fun i => dimDigit dim i % 2 != 0)

/-! ### Uncertainty (R74, R75) -/

/-- The value of a code in units of 2^−57; the saturated code stands for 65,504 (R74). -/
def uncUnits (code : Nat) : Nat :=
  let e := code / 1024 % 64
  let f := code % 1024
  if e == 0 then f else (1024 + f) * 2 ^ (e - 1)

def uncMax : Nat := 65504 * 2 ^ 57

/-- The number of codes below 0xFFFF that satisfy `below`, which holds of a lower part of them: the smallest code that
does not. -/
def leastCode (below : Nat → Bool) : Nat → Nat → Nat
  | 0, c => c
  | n + 1, c => leastCode below n (if below (c + 2 ^ n - 1) then c + 2 ^ n else c)

/-- The smallest code whose value is not less than p/q, in units of 2^−57 (R75). -/
def uncEncode (p q : Nat) : Nat := if uncMax * q < p then 0xFFFF else leastCode (fun c => uncUnits c * q < p) 16 0

/-- The smallest code whose value squared is not less than p/q, in units of 2^−114. -/
def uncEncodeSq (p q : Nat) : Nat :=
  if uncMax * uncMax * q < p then 0xFFFF else leastCode (fun c => uncUnits c * uncUnits c * q < p) 16 0

/-! ### Exact values (R41) -/

/-- n/d as a canonical rational: denominator positive, no common factor. -/
def canonRat (n d : Int) : Int × Nat :=
  let g := Nat.gcd n.natAbs d.natAbs
  let m := n.natAbs / g
  (if (n < 0) != (d < 0) then -(m : Int) else (m : Int), d.natAbs / g)

/-- An integer that a FIX holds. -/
def fitsFix (i : Int) : Bool := -9223372036854775808 ≤ i && i ≤ 9223372036854775807

/-- Bits of a magnitude. -/
def bitLen (n : Nat) : Nat := if n == 0 then 0 else Nat.log2 n + 1

/-- 64-bit limbs of a magnitude. -/
def limbCount (n : Nat) : Nat := cdiv (bitLen n) 64

/-- Bits of the largest BIG that the limb count of R27 allows (R44). -/
def bigBits : Nat := 64 * 4294967295

/-- Round the rational n/d, d > 0, to an integer under a rounding mode (R60, R114). -/
def roundInt (rm : Nat) (n : Int) (d : Nat) : Int :=
  let q := n.natAbs / d
  let r := n.natAbs % d
  let m := if roundsUp rm (decide (n < 0)) q r d then q + 1 else q
  if n < 0 then -(m : Int) else (m : Int)

/-! ### Operands of generic instructions -/

/-- An operand: its cell, and for an exact tag its value n/d (1 where d = 0 would be). -/
structure Arg where
  c : Cell
  n : Int := 0
  d : Int := 1
  deriving DecidableEq, Repr

def Cell.isInt (c : Cell) : Bool := c.tag == tagFIX || c.tag == tagBIG
def Cell.isExact (c : Cell) : Bool := c.isInt || c.tag == tagRATIO
def Cell.isInexact (c : Cell) : Bool := c.tag == tagFLO || c.tag == tagQTY
def Cell.isNumber (c : Cell) : Bool := c.isExact || c.isInexact
/-- The operand's value lies in a heap object. -/
def Cell.isBoxed (c : Cell) : Bool := c.tag == tagBIG || c.tag == tagRATIO

/-- Head fields of an operand; a non-QTY acts as a dimensionless exact difference (R46). -/
def Cell.dimOf (c : Cell) : Nat := if c.tag == tagQTY then c.qDim else 0
def Cell.uncOf (c : Cell) : Nat := if c.tag == tagQTY then c.qUnc else 0
def Cell.ptOf (c : Cell) : Bool := c.tag == tagQTY && c.qAbs == 1
def Cell.hintOf (c : Cell) : Nat := if c.tag == tagQTY then c.qHint else 0

/-- The binary64 value of an operand and the flags of its conversion (R45): FNX where it is inexact, FOF where it overflows; a
conversion is no tiny result, so it sets no FUF (R61). -/
def Arg.conv (x : Arg) : Nat × FpFlags :=
  if x.c.isExact then
    let (n, d) := canonRat x.n x.d
    let (z, fl) := ratToF64 0 n d
    (z, { fl with uf := false })
  else (x.c.pay, {})

/-- A binary64 payload of ±0 after the conversion of R45. -/
def Arg.isZero (y : Arg) : Bool := fpIsZero f64 y.conv.1

/-- The result of a generic instruction. -/
inductive GRes where
  | cell (c : Cell)
  /-- An exact value n/d, delivered in canonical form (R41). -/
  | exact (n d : Int)
  /-- An integer too large for any BIG (R44, R56). -/
  | tooBig
  | stop (code sub opn : Nat)
  deriving DecidableEq, Repr

/-- The result needs a heap object (R41, R47), or is one that no BIG holds. -/
def GRes.boxed : GRes → Bool
  | .exact n d =>
    let (p, q) := canonRat n d
    !(q == 1 && fitsFix p)
  | .tooBig => true
  | _ => false

def GRes.stops : GRes → Bool
  | .stop _ _ _ => true
  | .tooBig => true
  | _ => false

/-- What a generic instruction does: its result, floating flags, and whether it sets UNCSAT and V. -/
structure GOut where
  res : GRes
  fl : FpFlags := {}
  sat : Bool := false
  v : Bool := false
  deriving DecidableEq, Repr

/-! ### Heads of QTY results (R70, R71, R76, R77, R81) -/

/-- The generic operations that R76 names. -/
inductive QOp where
  | add | sub | mul | div | pow (n : Int) | root | neg | abs
  deriving DecidableEq, Repr

/-- The exponents of a result. -/
def QOp.dim (op : QOp) (dx dy : Nat) (i : Nat) : Int :=
  match op with
  | .mul => dimDigit dx i + dimDigit dy i
  | .div => dimDigit dx i - dimDigit dy i
  | .pow n => dimDigit dx i * n
  | .root => dimDigit dx i / 2
  | _ => dimDigit dx i

/-- The QTY faults of R73, items 1 to 3, in their order: the cause (R67 to R72). -/
def QOp.fault (op : QOp) (affok : Bool) (x y : Cell) : Option Nat :=
  let mismatch := match op with
    | .add => x.dimOf != y.dimOf
    | .sub => x.dimOf != y.dimOf
    | .root => dimOdd x.dimOf
    | _ => false
  let tooBig := match op with
    | .mul => !dimFits (op.dim x.dimOf y.dimOf)
    | .div => !dimFits (op.dim x.dimOf y.dimOf)
    | .pow _ => !dimFits (op.dim x.dimOf 0)
    | _ => false
  let affine := match op with
    | .add => x.ptOf && y.ptOf
    | .sub => !x.ptOf && y.ptOf
    | .mul => (x.ptOf || y.ptOf) && !affok
    | .div => (x.ptOf || y.ptOf) && !affok
    | .abs => false
    | _ => x.ptOf && !affok
  if mismatch then some 0x03 else if tooBig then some 0x04 else if affine then some 0x05 else none

/-- `ABS` of a result (R71). -/
def QOp.pt (op : QOp) (x y : Cell) : Bool :=
  match op with
  | .add => x.ptOf || y.ptOf
  | .sub => x.ptOf && !y.ptOf
  | .abs => x.ptOf
  | _ => false

/-- `HINT` of a result of dimension `dim` (R81). -/
def QOp.hint (op : QOp) (x y : Cell) (dim : Nat) : Nat :=
  let xq := x.tag == tagQTY
  let yq := y.tag == tagQTY
  match op with
  | .add => if xq then x.hintOf else y.hintOf
  | .sub => if xq then x.hintOf else y.hintOf
  | .pow n => if n == 1 then x.hintOf else 0
  | .root => 0
  | .neg => x.hintOf
  | .abs => x.hintOf
  | _ =>
    if xq && yq then (if dim == x.dimOf then x.hintOf else if dim == y.dimOf then y.hintOf else 0)
    else if xq then x.hintOf else y.hintOf

/-- The square of the relative uncertainty of R76 as p/q in units of 2^−114: `x`, `y`, `z` are binary64 payloads. None =
not a number, or infinite. -/
def QOp.uncSq (op : QOp) (ux uy x y z : Nat) : Option (Nat × Nat) :=
  let linear : Option (Nat × Nat) :=
    match fpRat f64 x, fpRat f64 y, fpRat f64 z with
    | some (xn, xd), some (yn, yd), some (zn, zd) =>
      if zn == 0 then none
      else
        let a := xn.natAbs * ux * yd
        let b := yn.natAbs * uy * xd
        some ((a * a + b * b) * zd * zd, (xd * yd) * (xd * yd) * (zn.natAbs * zn.natAbs))
    | _, _, _ => none
  match op with
  | .add => linear
  | .sub => linear
  | .mul => some (ux * ux + uy * uy, 1)
  | .div => some (ux * ux + uy * uy, 1)
  | .pow n => some ((n.natAbs * ux) * (n.natAbs * ux), 1)
  | .root => some (ux * ux, 4)
  | _ => some (ux * ux, 1)

/-- `UNC` of a result and whether UNCSAT is set (R77). -/
def QOp.unc (op : QOp) (off : Bool) (cx cy x y z : Nat) : Nat × Bool :=
  if off then (0, false)
  else if cx == 0xFFFF || cy == 0xFFFF then (0xFFFF, true)
  else if cx == 0 && cy == 0 then (0, false)
  else match op.uncSq (uncUnits cx) (uncUnits cy) x y z with
    | none => (0xFFFF, true)
    | some (p, q) => if uncMax * uncMax * q < p then (0xFFFF, true) else (uncEncodeSq p q, false)

/-- A FLO or QTY result of payload `z` from the operand payloads `x` and `y` (R46, R70). -/
def QOp.deliver (op : QOp) (uncoff : Bool) (a b : Cell) (x y z : Nat) (fl : FpFlags) : GOut :=
  if a.tag == tagQTY || b.tag == tagQTY then
    let dim := dimMake (op.dim a.dimOf b.dimOf)
    let u := op.unc uncoff a.uncOf b.uncOf x y z
    { res := .cell (mkQTY dim u.1 (b2n (op.pt a b)) (op.hint a b dim) (BitVec.ofNat 64 z)), fl := fl, sat := u.2 }
  else { res := .cell (mkFLO (BitVec.ofNat 64 z)), fl := fl }

end Sys2Proof
end

