-- ==== Sys2Proof/Machine/Catalogue.lean ====
section
/-! DEFINITION. The catalogue of the object dictionary (R403 to R407, R431 and the tables of the chapters): each entry's
type, access right, default, persistence and range, and the present value of every entry. -/

namespace Sys2Proof.Machine

/-! ### Types and rights (R404, R407) -/

def tyBOOL : Nat := 0x01
def tyU8 : Nat := 0x02
def tyU16 : Nat := 0x03
def tyU32 : Nat := 0x04
def tyU64 : Nat := 0x05
def tyF32 : Nat := 0x0A
def tyF64 : Nat := 0x0B
def tyQTY : Nat := 0x0C
def tyTIME : Nat := 0x0D
def tySTR : Nat := 0x0E
def tyOCTETS : Nat := 0x0F
def tyHANDLE : Nat := 0x10

def acCONST : Nat := 0
def acRO : Nat := 1
def acRW : Nat := 2
def acWO : Nat := 3
def acOW : Nat := 4

/-- Bytes of a scalar in its natural width. -/
def tyWidth (ty : Nat) : Nat :=
  if ty == 0x01 || ty == 0x02 || ty == 0x06 then 1
  else if ty == 0x03 || ty == 0x07 then 2
  else if ty == 0x04 || ty == 0x08 || ty == 0x0A || ty == 0x10 then 4
  else if ty == 0x0C then 16
  else 8

/-- STR and OCTETS. -/
def tyBytes (ty : Nat) : Bool := ty == tySTR || ty == tyOCTETS

/-- One entry. -/
structure Entry where
  ty : Nat
  acc : Nat
  persist : Bool := false
  /-- The default in message form, without the zero-extension of scalars. -/
  dflt : List Byte := []
  /-- Limit of STR and OCTETS in bytes. -/
  limit : Nat := 0
  dim : Nat := 0
  abs : Nat := 0
  deriving DecidableEq, Repr

/-- A row of a table: subindexes `lo` to `hi` of `index`. -/
structure Row where
  index : Nat
  lo : Nat
  hi : Nat
  entry : Nat → Entry

def scalar (index lo hi ty acc : Nat) (persist : Bool) (d : Nat → Nat) : Row :=
  ⟨index, lo, hi, fun s => { ty := ty, acc := acc, persist := persist, dflt := leBytes (tyWidth ty) (d s) }⟩

def octets (index lo hi acc : Nat) (persist : Bool) (limit : Nat) (d : List Byte) : Row :=
  ⟨index, lo, hi, fun _ =>
    { ty := tyOCTETS, acc := acc, persist := persist, dflt := leBytes 2 d.length ++ d, limit := limit }⟩

def zeros (n : Nat) : List Byte := List.replicate n 0

/-- A QTY entry with a default in thousandths. -/
def quantity (index lo hi acc : Nat) (persist : Bool) (dim abs hint milli : Nat) : Row :=
  ⟨index, lo, hi, fun _ =>
    { ty := tyQTY, acc := acc, persist := persist, dim := dim, abs := abs
      dflt := cellBytes (mkQTY dim 0 abs hint (BitVec.ofNat 64 (ratToF64 0 milli 1000).1)) }⟩

def k0 : Nat → Nat := fun _ => 0

/-- The default of RAILSEQ (R477). -/
def railDefault (p : Nat) : Nat := if p < 7 then 0x80800A14 + 0x01010000 * p else 0

/-- "GV-6416-BA". -/
def partName : List Byte := [0x47, 0x56, 0x2D, 0x36, 0x34, 0x31, 0x36, 0x2D, 0x42, 0x41]

/-- R431: identity, versions, field network. -/
def rows1 : List Row := [
  scalar 0x1000 0 0 tyU16 acCONST false (fun _ => 0x1E9B),
  scalar 0x1000 1 1 tyU16 acCONST false (fun _ => 0x6416),
  ⟨0x1001, 0, 0, fun _ => { ty := tySTR, acc := acCONST, dflt := leBytes 2 10 ++ partName, limit := 16 }⟩,
  scalar 0x1002 0 0 tyU8 acCONST false (fun _ => 0xB1),
  scalar 0x1003 0 0 tyU64 acCONST false k0,
  scalar 0x1004 0 0 tyU32 acRO false k0,
  scalar 0x1010 0 0 tyU64 acRO false k0,
  scalar 0x1011 0 0 tyBOOL acOW false k0,
  scalar 0x1012 0 0 tyBOOL acOW false k0,
  scalar 0x1013 0 0 tyU8 acOW false (fun _ => 0xFF),
  scalar 0x1020 1 1 tyU8 acCONST false (fun _ => 0x07),
  scalar 0x1020 2 2 tyU8 acCONST false (fun _ => 2),
  scalar 0x1020 3 4 tyU8 acCONST false (fun _ => 1),
  scalar 0x1030 0 0 tyU8 acRO false k0,
  scalar 0x1031 0 0 tyU8 acRO false (fun _ => 0xFF),
  scalar 0x1032 0 0 tyU8 acRO false k0,
  scalar 0x1033 0 0 tyU8 acRO false k0,
  scalar 0x1034 0 0 tyU8 acRO false (fun _ => 1),
  scalar 0x1035 0 0 tyU32 acRO false k0,
  scalar 0x1041 1 4 tyU8 acOW true (fun _ => 2)]

def rows2 : List Row := [
  octets 0x1100 0 3 acCONST false 6 (zeros 6),
  scalar 0x1101 0 3 tyBOOL acOW true k0,
  scalar 0x1102 0 3 tyU8 acOW true k0,
  scalar 0x1103 0 3 tyU8 acOW true k0,
  scalar 0x1104 0 3 tyU8 acOW true (fun _ => 8),
  scalar 0x1200 0 1 tyBOOL acOW true k0,
  scalar 0x1201 0 1 tyU32 acOW true (fun _ => 500000),
  scalar 0x1202 0 1 tyU32 acOW true (fun _ => 2000000),
  scalar 0x1203 0 0 tyU8 acOW true (fun _ => 0x1A)]

/-- R477: power. -/
def rows3 : List Row := [
  scalar 0x2000 0 0 tyU8 acRO false k0,
  scalar 0x2001 0 0x9F tyU32 acRW false (fun _ => 0xFFFFFFFF),
  scalar 0x2002 0 0 tyU8 acOW true (fun _ => 5),
  scalar 0x2003 0 0 tyU32 acRO false (fun _ => 0xFFFFFFFF),
  scalar 0x2004 0 0 tyU8 acRO false k0,
  scalar 0x2010 0 7 tyU16 acOW true (fun _ => 2400),
  scalar 0x2020 0 5 tyBOOL acOW true k0,
  quantity 0x2100 0 0xF acRO false 0x100 1 0x08 298150,
  quantity 0x2101 0 0 acOW true 0x100 1 0 373150,
  quantity 0x2102 0 0 acOW true 0x100 1 0 378150,
  scalar 0x2200 0 0xF tyU32 acOW true railDefault,
  scalar 0x2210 0 0xF tyU32 acOW true k0,
  quantity 0x2211 0 0xF acRO false 0x21DF000 0 0 0,
  quantity 0x2212 0 0xF acRO false 0x1000 0 0 0,
  scalar 0x2213 0 0 tyU8 acOW true k0,
  scalar 0x2300 0 0 tyU32 acRO true k0,
  scalar 0x2301 0 0 tyU32 acRO true k0,
  scalar 0x2302 0 0 tyU32 acRO true k0]

/-- R360, R413, R431: time, ownership, contexts. -/
def rows4 : List Row := [
  scalar 0x2400 0 0 tyU8 acOW true k0,
  scalar 0x2410 0 0 tyU8 acOW true (fun _ => 0xFF),
  scalar 0x2411 0 0 tyU8 acOW true k0,
  scalar 0x2412 0 0 tyU8 acRO false k0,
  scalar 0x2413 0 0 0x09 acRO false k0,
  scalar 0x3000 0 0 tyU8 acRW false (fun _ => 0xFF),
  scalar 0x3001 0 0 tyU32 acRO false k0,
  scalar 0x3002 0 0 tyU8 acOW false (fun _ => 0xFF),
  scalar 0x3003 0 0 tyU16 acOW true (fun _ => 2000),
  scalar 0x3004 0 0 tyU8 acRO false (fun _ => 0xFF),
  scalar 0x3005 0 0 tyBOOL acRO false k0,
  scalar 0x3006 0 0 tyU8 acRO false k0,
  scalar 0x3010 0 0x9F tyU8 acOW true (fun s => if 1 ≤ s && s ≤ 4 then 0x80 else 0x40),
  octets 0x3200 0 0x7F acOW true 6 (zeros 6),
  scalar 0x3201 0 0 tyBOOL acOW true k0,
  scalar 0x3210 0 0xF tyBOOL acOW true k0,
  scalar 0x4000 0 0 tyU16 acRO false k0,
  scalar 0x4010 0 0 tyU32 acOW true (fun _ => 1000)]

/-- R451: panel. -/
def rows5 : List Row := [
  scalar 0x6000 0 3 tyU8 acOW true (fun g => if g == 0 then 20 else if g == 1 then 10 else 50),
  scalar 0x6001 0 3 tyU16 acOW true (fun _ => 1000),
  scalar 0x6002 0 3 tyU8 acOW true (fun _ => 8),
  scalar 0x6003 0 3 tyU16 acOW true (fun g => if g < 2 then 30 else 0),
  scalar 0x6004 0 3 tyU16 acOW true k0,
  scalar 0x6005 0 3 tyU8 acOW true k0,
  scalar 0x6006 0 0xF tyU16 acOW true (fun _ => 1000),
  scalar 0x6007 0 0 tyBOOL acOW true k0,
  scalar 0x6010 0 4 tyU32 acRO false k0,
  scalar 0x6011 0 0 tyU32 acRO false k0,
  octets 0x6020 0 3 acRO false 16 (zeros 16),
  octets 0x6021 0 3 acRO false 16 (zeros 16),
  octets 0x6022 0 3 acRO false 16 (zeros 16),
  scalar 0x6100 0 1 tyU16 acOW true k0,
  scalar 0x6101 0 0 tyU8 acRO false k0,
  scalar 0x6102 0 0 tyBOOL acRO false k0,
  scalar 0x6103 0 0 tyBOOL acOW false k0,
  scalar 0x6104 0 0 tyU8 acOW true (fun _ => 0xFF),
  scalar 0x6200 0 0x1F tyU8 acOW false k0,
  scalar 0x6201 0 0x1F tyU8 acOW true (fun _ => 100),
  scalar 0x6210 0 0 tyU16 acOW true (fun _ => 2700),
  scalar 0x6211 0 0 tyU16 acOW false k0]

/-- R375, R500, R520: journal, dependability, boot. -/
def rows6 : List Row := [
  scalar 0x7000 0 0 tyU64 acRO true k0,
  scalar 0x7010 0 0 tyU64 acRO true k0,
  scalar 0x7011 0 0 tyU64 acRO true k0,
  scalar 0x7012 0 0 tyU32 acRO true (fun _ => 14336),
  scalar 0x7020 0 0 tyBOOL acOW true (fun _ => 1),
  scalar 0x8000 0 0 tyU64 acRO true k0,
  scalar 0x8001 0 0 tyU16 acOW true k0,
  scalar 0x8001 1 1 tyBOOL acOW true k0,
  octets 0x8002 0 0x3F acRO true 4096 [],
  scalar 0x8010 0 7 tyU16 acRO true k0,
  scalar 0x8011 0 7 tyU8 acRO true (fun _ => 8),
  scalar 0x8012 0 0 tyU8 acOW false (fun _ => 0xFF),
  scalar 0x8013 0 0x3F tyU32 acRO false k0,
  scalar 0x8014 0 0x3F tyU32 acRO false k0,
  scalar 0x8020 0 1 tyU64 acRO true k0,
  scalar 0x8021 0 1 tyU32 acRO true k0,
  scalar 0x8022 0 0 tyU16 acOW true (fun _ => 24),
  scalar 0x8023 0 1 tyU16 acRO true k0,
  scalar 0x8030 0 3 tyU32 acRO true k0]

def rows7 : List Row := [
  octets 0x8100 0 0 acOW false 65535 [],
  scalar 0x8101 0 0 tyU8 acRO false k0,
  scalar 0x8102 0 0 tyU32 acRO true k0,
  scalar 0x8102 1 2 tyU32 acRO false k0,
  scalar 0x8103 0 0 tyU8 acOW false k0,
  octets 0x8104 0 0 acOW false 32768 [],
  scalar 0x8105 0 3 tyU32 acRO false k0,
  scalar 0x8106 0 0 tyBOOL acOW false k0,
  scalar 0x8110 0 0 tyU64 acOW false k0,
  scalar 0x8110 1 1 tyU32 acOW false k0,
  scalar 0x8111 0 0 tyU8 acOW false k0,
  scalar 0x8112 0 0 tyU8 acRO false k0,
  scalar 0x8112 1 1 tyU8 acRO true k0,
  scalar 0x8113 0 0 tyU32 acOW true (fun _ => 10000),
  scalar 0x8114 0 0 tyBOOL acOW false k0,
  octets 0x9000 0 0 acWO false 112 [],
  scalar 0x9001 0 0 tyU8 acRO false k0,
  scalar 0x9002 0 0 tyBOOL acWO false k0,
  scalar 0x9003 0 0 tyU8 acRO false k0,
  scalar 0x9010 0 0x1F tyU32 acOW false k0,
  scalar 0x9011 0 0 tyU32 acRO false k0,
  scalar 0x9020 0 7 tyU64 acOW false k0,
  scalar 0x9021 0 7 tyU32 acOW false k0]

def allRows : List Row := rows1 ++ rows2 ++ rows3 ++ rows4 ++ rows5 ++ rows6 ++ rows7

/-- An index that some row or published entry has (R421: 0x0602_0011). -/
def fixedIndex (index : Nat) : Bool := allRows.any (fun r => r.index == index)

/-- A fixed entry. -/
def fixedEntry (index sub : Nat) : Option Entry :=
  (allRows.find? (fun r => r.index == index && r.lo ≤ sub && sub ≤ r.hi)).map (fun r => r.entry sub)

def Published.entry (p : Published) : Entry :=
  { ty := p.type, acc := p.access, persist := p.persist, dflt := p.default, limit := p.limit, dim := p.dim, abs := p.abs }

def State.published (s : State) (index sub : Nat) : Option Published := SMap.get none s.dict.published (dkey index sub)

/-- The entry at index:subindex, if any (R403). -/
def State.entryOf (s : State) (index sub : Nat) : Option Entry :=
  match fixedEntry index sub with
  | some e => some e
  | none => (s.published index sub).map Published.entry

def State.indexExists (s : State) (index : Nat) : Bool :=
  fixedIndex index || s.dict.published.any (fun e => e.1 / 256 == index)

/-! ### Ranges (R404 and the tables) -/

/-- A RAILSEQ word holds nothing reserved, and no `OFFAT` 4 where R468 refuses it. -/
def railOk (v : Nat) : Bool :=
  let off := v / 2 ^ 28 % 8
  let rail := v / 2 ^ 20 % 8
  (off == 0 || off == 4 || off == 5) &&
    !(v.testBit 23 && v % 256 == 0) && !(off == 4 && (rail == 0 || rail == 1 || rail == 2 || rail == 3 || rail == 4 || rail == 5))

/-- An observation address holds no reserved value (R526, R527). -/
def obsOk (v : Nat) : Bool :=
  let die := v / 2 ^ 30
  let clu := v / 2 ^ 26 % 16
  let unit := v / 2 ^ 20 % 64
  if die != 0 then clu == 0
  else if clu ≤ 7 then unit ≤ 10
  else if clu == 8 then unit ≤ 4
  else clu ≤ 10 && unit ≤ 16

/-- A BKCTL word holds no reserved value (R530). -/
def bkOk (v : Nat) : Bool :=
  let kind := v / 2 ^ 28 % 8
  v / 2 ^ 7 % 2 ^ 8 == 0 && 1 ≤ kind && kind ≤ 5

/-- The entry's range, where its row states one: a scalar value, BOOL included. -/
def inRange (ty index v : Nat) : Bool :=
  let within := fun (lo hi : Nat) => lo ≤ v && v ≤ hi
  if ty == tyBOOL then v ≤ 1
  else if index == 0x1013 then v ≤ 7
  else if index == 0x1041 then v ≤ 6
  else if index == 0x1102 then v ≤ 2
  else if index == 0x1103 then v ≤ 31
  else if index == 0x1104 then within 1 32
  else if index == 0x1201 then [125000, 250000, 500000, 1000000].contains v
  else if index == 0x1202 then [1000000, 2000000, 4000000, 5000000, 8000000].contains v
  else if index == 0x1203 then v ≤ 0x1F
  else if index == 0x2002 then v ≤ 5
  else if index == 0x2010 then within 400 2400 && v % 100 == 0
  else if index == 0x2200 then railOk v
  else if index == 0x2210 then v / 2 ^ 23 % 2 ^ 8 == 0 && v / 2 ^ 4 % 8 == 0
  else if index == 0x2213 then v ≤ 1
  else if index == 0x2400 then v ≤ 1
  else if index == 0x2410 then v ≤ 3 || v == 0xFF
  else if index == 0x3003 then within 100 60000
  else if index == 0x4010 then within 10 1000000
  else if index == 0x6000 || index == 0x6002 then within 1 255
  else if index == 0x6001 then within 10 60000
  else if index == 0x6003 then v ≤ 3600
  else if index == 0x6005 then v ≤ 3
  else if index == 0x6006 then within 100 10000
  else if index == 0x6104 then v ≤ 31 || v == 0xFF
  else if index == 0x6200 then v ≤ 3
  else if index == 0x6201 then within 1 100
  else if index == 0x6210 then within 200 8000
  else if index == 0x8012 then v ≤ 63
  else if index == 0x8022 then within 1 168
  else if index == 0x8103 then v ≤ 2
  else if index == 0x8113 then within 100 600000
  else if index == 0x9010 then obsOk v
  else if index == 0x9020 then v / 2 ^ 56 == 0 && v % 16 == 0
  else if index == 0x9021 then bkOk v
  else true

/-- A temperature level within the limits of its row, in K (R477). -/
def tempInRange (index : Nat) (w : Word64) : Bool :=
  match fpRat f64 w.toNat with
  | some (n, d) =>
    let lo : Int := if index == 0x2101 then 32315 else 33315
    decide (lo * (d : Int) ≤ 100 * n) && decide (100 * n ≤ 38315 * (d : Int))
  | none => false

/-! ### Present values -/

/-- One byte of a bitmap of a panel group (R451). -/
def bitmapByte (f : Nat → Bool) (i : Nat) : Byte :=
  BitVec.ofNat 8 ((List.range 8).foldl (fun v b => v + b2n (f (8 * i + b)) * 2 ^ b) 0)

def panelMap (f : Nat → Bool) : List Byte := leBytes 2 16 ++ (List.range 16).map (bitmapByte f)

def State.panelInput (s : State) (g i : Nat) : PanelInput := SMap.get {} s.panel.inputs (256 * g + i)

/-- The state of an input: 0 while stuck (R439). -/
def State.inputState (s : State) (g i : Nat) : Bool := let x := s.panelInput g i; x.state && !x.stuck

/-- A temperature reading as a QTY (R473, R477): 1.2 K of uncertainty. -/
def tempCell (mk : Nat) : Cell :=
  mkQTY 0x100 (uncEncode 1200 mk) 1 0x08 (BitVec.ofNat 64 (ratToF64 0 mk 1000).1)

/-- The 64 bytes of an error record (R497). -/
def ErrRecord.bytes (r : ErrRecord) : List Byte :=
  cellBytes (mkRAW (r.seq % 2 ^ 32 * 2 ^ 32 + r.src * 2 ^ 24 + r.unit * 2 ^ 16 + r.code * 2 ^ 8 + r.sev)) ++
    cellBytes (mkTIME r.time) ++ cellBytes (mkRAW r.addr) ++ cellBytes (mkRAW r.det)

/-- ERRLOG subindex `k`: 64 records of the ring (R500). -/
def State.errLog (s : State) (k : Nat) : List Byte :=
  leBytes 2 4096 ++ (List.range 64).flatMap (fun i =>
    match SMap.get none s.dep.log (64 * k + i) with
    | some r => r.bytes
    | none => zeros 64)

/-- The domain of an observed unit (R457, R526): none for what is not switched. The signals of the tuff die and of an HBM stack are
those at their interfaces (log entry 5). -/
def obsDomain (v : Nat) : Option Nat :=
  let die := v / 2 ^ 30
  let clu := v / 2 ^ 26 % 16
  let u := v / 2 ^ 20 % 64
  if die == 1 then some 111
  else if die != 0 then some (97 + 2 * (die - 2))
  else if clu ≤ 7 then some (if u ≤ 8 then 9 * clu + u else 72 + 2 * clu + (u - 9))
  else if clu == 8 then (if 1 ≤ u && u ≤ 3 then some 110 else none)
  else if clu == 9 then
    if u == 3 then some 109 else if 4 ≤ u && u ≤ 11 then some (84 + u) else if u == 12 || u == 13 then some (95 + u)
    else if u == 14 || u == 15 then some (68 + 2 * u) else if u == 16 then some 111 else none
  else if u == 0 then some 100
  else if 9 ≤ u && u ≤ 12 then some (93 + u)
  else if u == 13 then some 106
  else none

/-- An observed signal is unassigned or unpowered (R527). -/
def State.obsDark (s : State) (n : Nat) : Bool :=
  let a := SMap.get 0 s.dbg.obssel n
  a != 0 && (!Config.obsInCatalogue (BitVec.ofNat 32 a) || (obsDomain a).any (fun d => !s.domainOn d))

/-- A value of `n` bytes. -/
def num (n v : Nat) : Option (List Byte) := some (leBytes n v)

/-- The value of an entry that the device itself keeps, in message form; none for an ordinary entry. -/
def State.liveValue (s : State) (index sub : Nat) : Option (List Byte) :=
  let d := s.dict
  let p := s.power
  if index == 0x1003 then num 8 Config.serial.toNat
  else if index == 0x1004 then num 4 Config.vromVer.toNat
  else if index == 0x1010 then num 8 d.tick
  else if index == 0x1030 then num 1 s.boot.bootsel
  else if index == 0x1031 then num 1 s.boot.bootsrc
  else if index == 0x1032 then num 1 s.boot.stat
  else if index == 0x1033 then num 1 s.boot.err
  else if index == 0x1034 then num 1 s.boot.rstkind
  else if index == 0x1035 then num 4 s.boot.ms
  else if index == 0x1100 then some (leBytes 2 6 ++ (List.range 6).map (Config.t1sMac sub))
  else if index == 0x2000 then num 1 s.pstate
  else if index == 0x2003 then num 4 p.tol
  else if index == 0x2004 then num 1 p.tsrc
  else if index == 0x2100 then some (cellBytes (tempCell (SMap.get 298150 p.temp sub)))
  else if index == 0x2211 then some (cellBytes (mkQTY 0x21DF000 0 0 0 (SMap.get 0 p.vout sub)))
  else if index == 0x2212 then some (cellBytes (mkQTY 0x1000 0 0 0 (SMap.get 0 p.iout sub)))
  else if index == 0x2412 then num 1 s.time.ptpState
  else if index == 0x2413 then num 8 (wrapInt 64 s.time.ptpOffs)
  else if index == 0x3000 then num 1 d.owner
  else if index == 0x3001 then num 4 (d.ownseq % 2 ^ 32)
  else if index == 0x3002 then num 1 d.designee
  else if index == 0x3004 then num 1 d.ownprev
  else if index == 0x3005 then num 1 (b2n d.loc)
  else if index == 0x3006 then num 1 d.why
  else if index == 0x4000 then num 2 ((s.contexts.filter (fun n => s.ctxState n != 0)).length)
  else if index == 0x6010 then num 4 (SMap.get 0 s.panel.glitch sub)
  else if index == 0x6011 then num 4 (satAt (2 ^ 32 - 1) s.panel.lostAll)
  else if index == 0x6020 then some (panelMap (s.inputState sub))
  else if index == 0x6021 then some (panelMap (fun i => (s.panelInput sub i).stuck))
  else if index == 0x6022 then some (panelMap (fun i => (s.panelInput sub i).chat))
  else if index == 0x6101 then num 1 (if !s.panel.eforce then 0 else if s.panel.erel then 2 else 1)
  else if index == 0x6102 then num 1 (b2n s.panel.edisc)
  else if index == 0x7000 then num 8 s.jr.seq
  else if index == 0x7010 then num 8 s.jr.wearMax
  else if index == 0x7011 then num 8 s.jr.wearMean
  else if index == 0x7012 then num 4 s.jr.unitsLeft
  else if index == 0x8000 then num 8 s.dep.errseq
  else if index == 0x8002 then some (s.errLog sub)
  else if index == 0x8010 then num 2 ((List.range 9).foldl (fun v i => v + b2n (s.dep.retired.contains (9 * sub + i)) * 2 ^ i) 0)
  else if index == 0x8011 then num 1 ((s.spareOf sub).getD 0xFF)
  else if index == 0x8013 then num 4 (SMap.get 0 s.dep.replayOk sub)
  else if index == 0x8014 then num 4 (SMap.get 0 s.dep.replayFail sub)
  else if index == 0x8101 then num 1 s.dep.mcstate
  else if index == 0x8102 then
    num 4 (if sub == 0 then (s.dep.mcActive.map (·.level)).getD 0
           else if sub == 1 then (s.dep.mcStaged.map (·.level)).getD 0
           else s.dep.mcMinRaise.getD Config.mcMinFuse)
  else if index == 0x8105 then num 4 (SMap.get 0 s.dep.vplevel sub)
  else if index == 0x8112 then num 1 (if sub == 0 then s.dep.imgstate else s.dep.imgrun)
  else if index == 0x9001 then num 1 s.dbg.scope
  else if index == 0x9003 then num 1 s.dbg.fails
  else if index == 0x9010 then num 4 (SMap.get 0 s.dbg.obssel sub)
  else if index == 0x9011 then num 4 ((List.range 32).foldl (fun v i => v + b2n (s.obsDark i) * 2 ^ i) 0)
  else if index == 0x9020 then num 8 (SMap.get 0 s.dbg.bkaddr sub)
  else if index == 0x9021 then num 4 (SMap.get 0 s.dbg.bkctl sub)
  else none

/-- The present value of an entry in message form. -/
def State.entryValue (s : State) (index sub : Nat) (e : Entry) : List Byte :=
  match s.liveValue index sub with
  | some b => b
  | none => (SMap.get none s.dict.vals (dkey index sub)).getD e.dflt

/-- The present value of a scalar entry as a number. -/
def State.entryNat (s : State) (index sub : Nat) : Nat :=
  match s.entryOf index sub with
  | some e => leValue (s.entryValue index sub e)
  | none => 0

/-- A QTY entry's value in millikelvin, rounded down. -/
def State.entryMilli (s : State) (index sub : Nat) : Nat :=
  match fpRat f64 (s.entryNat index sub % 2 ^ 64) with
  | some (n, d) => (1000 * n).toNat / d
  | none => 0

end Sys2Proof.Machine
end

