-- ==== Sys2Proof/Machine/Panel.lean ====
section
/-! DEFINITION. The operator panel (chapter 18): scans, events, the emergency stop and the buzzer. -/

namespace Sys2Proof.Machine

def State.modPanel (s : State) (f : Panel → Panel) : State := { s with panel := f s.panel }

/-- Inputs of a group (R434). -/
def groupSize (g : Nat) : Nat := if g == 0 then 128 else if g == 1 then 16 else if g == 2 then 64 else 1

def State.setPanelInput (s : State) (g i : Nat) (x : PanelInput) : State :=
  s.modPanel (fun p => { p with inputs := SMap.set {} p.inputs (256 * g + i) x })

/-! ### Events (R441 to R443) -/

/-- An event word (R441). -/
def eventWord (code group input : Nat) (st : Bool) (count : Nat) : Nat :=
  code * 2 ^ 40 + group * 2 ^ 32 + input * 2 ^ 24 + b2n st * 2 ^ 23 + satAt 0xFFFF count

/-- Append an event, with its completion record where `EVCFG` bit 0 is set; bit 1 makes it a wake event, which events 7 and 9 always
are (R443, R465). -/
def State.eventIn (s : State) (w time : Nat) : State :=
  let g := w / 2 ^ 32 % 256
  let code := w / 2 ^ 40 % 256
  let input := w / 2 ^ 24 % 256
  let cfg := if g < 4 then s.entryNat 0x6005 g else 0
  let t := s.modPanel (fun p => { p with
    fifo := p.fifo ++ [(w, time)]
    posts := if cfg.testBit 0 then p.posts ++ [⟨13, false, 0, s.entryNat 0x6004 g, code * 256 + input, w⟩] else p.posts })
  if cfg.testBit 1 || code == 7 || code == 9 then t.wakeTo 3 else t

/-- An event occurs (R442): four entries are kept for codes 7 to 9. -/
def State.panelEvent (s : State) (code group input : Nat) (st : Bool) (count time : Nat) : State :=
  let w := eventWord code group input st count
  if 7 ≤ code && code ≤ 9 then s.eventIn w time
  else if 251 ≤ s.panel.fifo.length then
    s.modPanel (fun p => { p with
      lostNow := p.lostNow + 1, lostAll := p.lostAll + 1
      lostFirst := if p.lostNow == 0 then (w, time) else p.lostFirst })
  else s.eventIn w time

/-- A read of PNEVT (R441, R450): the oldest event leaves; a code 10 event takes the place of what was discarded. -/
def State.pnevtRead (s : State) : Nat × State :=
  match s.panel.fifo with
  | [] => (0, s)
  | (w, t) :: rest =>
    let s1 := s.modPanel (fun p => { p with fifo := rest, evtTime := t })
    if 0 < s1.panel.lostNow && rest.length < 251 then
      let (f, ft) := s1.panel.lostFirst
      let v := 10 * 2 ^ 40 + f % 2 ^ 40 / 2 ^ 16 * 2 ^ 16 + satAt 0xFFFF s1.panel.lostNow
      (w, (s1.modPanel (fun p => { p with lostNow := 0 })).eventIn v ft)
    else (w, s1)

/-! ### Scans (R435 to R440) -/

/-- GLITCH(g), saturating. -/
def State.addGlitch (s : State) (g : Nat) : State :=
  s.modPanel (fun p => { p with glitch := SMap.modify 0 p.glitch g (fun n => satAt 0xFFFFFFFF (n + 1)) })

/-- The accepted change of R437. -/
def State.acceptChange (s : State) (g i : Nat) (r : Bool) (time : Nat) : State :=
  let x := s.panelInput g i
  let y := { x with state := r, run := 0, held := 0 }
  if x.stuck then (s.setPanelInput g i { y with stuck := false }).panelEvent 4 g i r 0 time
  else
    let c := x.cnt + 1
    let z := { y with cnt := c }
    if !x.chat && s.entryNat 0x6002 g < c then (s.setPanelInput g i { z with chat := true }).panelEvent 5 g i r 0 time
    else if !x.chat then (s.setPanelInput g i z).panelEvent 1 g i r 0 time
    else s.setPanelInput g i z

/-- A scan finds an active input active (R437). -/
def State.holdInput (s : State) (g i time : Nat) : State :=
  let x := s.panelInput g i
  let h := x.held + 1
  let lim := s.entryNat 0x6003 g
  if lim != 0 && h == 1000 * lim then (s.setPanelInput g i { x with held := h, stuck := true }).panelEvent 3 g i true 0 time
  else s.setPanelInput g i { x with held := h }

/-- The end of a chatter window for one input (R437); a stuck input gives no event (R439). -/
def State.windowEnd (s : State) (g i time : Nat) : State :=
  let x := s.panelInput g i
  let calm := x.cnt ≤ s.entryNat 0x6002 g
  let s1 := s.setPanelInput g i { x with cnt := 0, chat := x.chat && !calm }
  if !x.chat || x.stuck then s1
  else if calm then s1.panelEvent 6 g i x.state 0 time
  else s1.panelEvent 2 g i x.state x.cnt time

/-- One input of one scan (R437). -/
def State.scanInput (s : State) (g i : Nat) (r latch : Bool) (last : Bool) (time : Nat) : State :=
  let x := s.panelInput g i
  let s1 := if latch && r == x.prev then s.addGlitch g else s
  let run := if r == x.state then 0 else x.run + 1
  let s2 := s1.setPanelInput g i { x with prev := r, run := run }
  let s3 := if run == s.entryNat 0x6000 g && run != 0 then s2.acceptChange g i r time
    else if x.state && !x.stuck then s2.holdInput g i time
    else s2
  if last then s3.windowEnd g i time else s3

/-- The sample of an input in a scan (R434, R435): a pad between its two thresholds reads as before. -/
def State.sampleOf (s : State) (p : PanelSample) (g i : Nat) : Bool :=
  if g == 0 then bit p.keys i
  else if g == 1 then
    let c := nthD 0 p.pads i
    let thr := s.entryNat 0x6006 i
    if thr < c then true else if 4 * c < 3 * thr then false else (s.panelInput g i).prev
  else if g == 2 then bit p.plg i
  else p.keysw == (s.entryNat 0x6007 0 == 1)

def latchOf (p : PanelSample) (g i : Nat) : Bool :=
  if g == 0 then bit p.keyLatch i else if g == 2 then bit p.plgLatch i else g == 3 && p.keyswLatch

/-- The scan about to be processed is the last of a window of group `g` (R440). -/
def State.lastScan (s : State) (g : Nat) : Bool := (s.panel.scan + 1) % s.entryNat 0x6001 g == 0

/-- The debounced keyswitch reaches the dictionary (R419, R451). -/
def State.keyToDict (s : State) : State := { s with dict := { s.dict with keyLocal := s.inputState 3 0 } }

/-- PANEL_SCAN (R435, R437). -/
def State.panelScan (s : State) (p : PanelSample) : State :=
  let time := s.now
  let s1 := (List.range 4).foldl (fun t g =>
    (List.range (groupSize g)).foldl (fun t i =>
      t.scanInput g i (t.sampleOf p g i) (latchOf p g i) (s.lastScan g) time) t) s
  (s1.modPanel (fun q => { q with scan := q.scan + 1 })).keyToDict

/-- The differing sample that completes a run of DEB (R437). -/
def State.acceptedChange (s : State) (g i : Nat) : State :=
  let x := s.panelInput g i
  if i < groupSize g && x.run + 1 == s.entryNat 0x6000 g then ((s.setPanelInput g i { x with prev := !x.state }).acceptChange g i (!x.state) s.now).keyToDict
  else s

/-- The sample that completes STK seconds of holding (R437). -/
def State.stuckSet (s : State) (g i : Nat) : State :=
  let x := s.panelInput g i
  let lim := s.entryNat 0x6003 g
  if i < groupSize g && x.state && !x.stuck && lim != 0 && x.held + 1 == 1000 * lim then (s.holdInput g i s.now).keyToDict else s

/-- The last scan of a window of group `g` (R440). -/
def State.groupWindowEnd (s : State) (g : Nat) : State :=
  if s.lastScan g then (List.range (groupSize g)).foldl (fun t i => t.windowEnd g i s.now) s else s

/-! ### Emergency stop (R444 to R448) -/

/-- The emergency stop comes into force: event 7, and the geysers (R335). -/
def State.estopForce (s : State) (channel : Nat) : State :=
  if s.panel.eforce then s
  else ((s.modPanel (fun p => { p with eforce := true, erel := false })).panelEvent 7 4 channel true 0 s.now).gyEmergency.ioWatch

/-- ESTOP_SAMPLE (R444, R445). -/
def State.estopSample (s : State) (aHigh bHigh aPulse bPulse : Bool) : State :=
  let p := s.panel
  let s1 := if (aHigh && p.aLow == 1) || aPulse then s.addGlitch 4 else s
  let s2 := if (bHigh && p.bLow == 1) || bPulse then s1.addGlitch 4 else s1
  let aLow := if aHigh then 0 else p.aLow + 1
  let bLow := if bHigh then 0 else p.bLow + 1
  let both := if aHigh && bHigh then p.bothHigh + 1 else 0
  let seen := p.edisc && (p.bothLowSeen || (!aHigh && !bHigh))
  let clear := p.edisc && seen && 400 ≤ both
  let s3 := s2.modPanel (fun q => { q with
    aHigh := aHigh, bHigh := bHigh, aLow := aLow, bLow := bLow, bothHigh := both
    disagree := if aHigh == bHigh then 0 else q.disagree + 1
    erel := q.erel && aHigh && bHigh
    edisc := q.edisc && !clear
    bothLowSeen := seen && !clear })
  if 2 ≤ aLow then s3.estopForce 0 else if 2 ≤ bLow then s3.estopForce 1 else s3

/-- EREL (R446): both channels high in every sample for 50 ms. -/
def State.estopRelease (s : State) : State :=
  if s.panel.eforce && 400 ≤ s.panel.bothHigh then s.modPanel (fun p => { p with erel := true }) else s

/-- DISCREPANCY (R447): the channels have disagreed for 50 ms. -/
def State.discrepancy (s : State) : State :=
  if 400 ≤ s.panel.disagree && !s.panel.edisc then
    ((s.modPanel (fun p => { p with edisc := true, bothLowSeen := false })).panelEvent 9 4 0 s.panel.eforce 0 s.now).logErr 8 0 0x0F 2 0
      (b2n s.panel.aHigh * 2 + b2n s.panel.bHigh)
  else s

/-- An accepted ERESET (R446). -/
def State.estopReset (s : State) : State :=
  ((s.modPanel (fun p => { p with eforce := false, erel := false })).panelEvent 8 4 0 false 0 s.now).ioWatch

/-- Event 9 and code 8 name no channel: INPUT 0 (log entry 48). -/
def State.eresetOk (s : State) : Bool := s.panel.eforce && s.panel.erel && !s.panel.edisc

/-! ### LEDs and buzzer (R444, R449) -/

/-- LED `n` is lit, at the duty of LEDLVL, at the present GTC time; while the emergency stop is in force ESTLED blinks at 4 Hz. -/
def State.ledLit (s : State) (n : Nat) : Bool :=
  let fast := s.now % 250000000 < 125000000
  let mode := s.entryNat 0x6200 n
  if s.panel.eforce && s.entryNat 0x6104 0 == n then fast
  else if mode == 1 then true
  else if mode == 2 then s.now % 1000000000 < 500000000
  else mode == 3 && fast

/-- A write of `n` to BZON, in tick k: the buzzer sounds until tick k + n + 1, at least n ms. -/
def State.buzzer (s : State) (n : Nat) : State :=
  s.modPanel (fun p => { p with
    buzzOn := n != 0, buzzLeft := if n == 0xFFFF then none else some (s.dict.tick + n + 1) })

/-- BUZZER_EXPIRY. -/
def State.buzzerExpiry (s : State) : State :=
  match s.panel.buzzLeft with
  | some t => if s.panel.buzzOn && t ≤ s.dict.tick then s.modPanel (fun p => { p with buzzOn := false }) else s
  | none => s

/-! ### Registers (R450) -/

/-- PNSTA; `EVN` counts to 256 (log entry 128). -/
def State.pnsta (s : State) : Nat :=
  let p := s.panel
  satAt 256 p.fifo.length * 2 ^ 40 + b2n p.eforce * 2 ^ 31 + b2n p.erel * 2 ^ 30 + b2n p.edisc * 2 ^ 29 + b2n p.aHigh * 2 ^ 28 +
    b2n p.bHigh * 2 ^ 27 + b2n (s.inputState 3 0) * 2 ^ 26 + bitsOf (s.inputState 1) 16

def State.panelRead (s : State) (off : Nat) : Nat × State :=
  if off == 0 then s.pnevtRead
  else if off == 0x10 then (s.panel.evtTime, s)
  else if off == 0x20 then (bitsOf (s.inputState 0) 64, s)
  else if off == 0x30 then (bitsOf (fun i => s.inputState 0 (64 + i)) 64, s)
  else if off == 0x40 then (bitsOf (s.inputState 2) 64, s)
  else if off == 0x50 then (s.pnsta, s)
  else (0, s)

end Sys2Proof.Machine
end

