-- ==== Sys2Proof/Machine/Retire.lean ====
section
/-! DEFINITION. Parity replay, replay failures and core retirement (R479 to R485, R12, R13, R189). -/

namespace Sys2Proof.Machine

/-- A record of context `n` failed parity twice (R482): the context is faulted as R177 states from step 2 on. -/
def State.recordFault (s : State) (n : Nat) : State :=
  let r := s.ctxRegs n
  let t := (s.evictCtx n).setRecs n 27
    [({ code := cPARITY_REPLAY_FAIL } : Trap).cell, r.mca2, mkRAW r.pc.toNat, mkRAW r.st.toNat, mkTIME s.now]
  let u := ((t.sleepAs n 6).post 0xFFF1).logErr 4 0 0x0B 2 0 n
  let (v, w) := u.fresh
  w.notice 0x0081 (field v 15 0) n

/-- A dirty sector whose data is lost becomes a poisoned granule (R292). -/
def State.losePoison (s : State) (g : Nat) : State :=
  (s.recall g).setPoison g true

/-- The name of a granule's row among repair candidates (R488). -/
def rowName (g : Nat) : Nat := 2 * Config.hbmRow g + hcOf g

/-- HBM finds an error that it corrects (R486, R500). -/
def State.hbmCorrected (s : State) (g : Nat) : State :=
  (s.countUp 0x8020 (hcOf g) 8).logCoalesced 3 (hcOf g) 0x08 0 (128 * g)

/-- HBM finds an error that it cannot correct: the granule is poisoned (R292, R486); its row becomes a repair candidate
(R488). -/
def State.hbmLost (s : State) (g : Nat) : State :=
  (((s.losePoison g).countUp 0x8021 (hcOf g) 4).logErr 3 (hcOf g) 0x09 2 (128 * g) 0).modDep (fun d => { d with
    candidates := insertNat (rowName g) d.candidates })

/-- Change the counters of a cluster's L2. -/
def State.modL2 (s : State) (k : Nat) (f : L2Regs → L2Regs) : State := { s with l2 := SMap.modify {} s.l2 k f }

/-- What the ECC of L2 or HBM finds as granule `g` is read for cluster `k` (R291, R486): a fill, a fetch or an access past the
object cache. `UNCC` and `UNCD` saturate as `CORR` does (log entry 147). -/
def State.eccFound (s : State) (k g : Nat) (ev : EccEvent) : State :=
  let dirty := match s.l2U g with | some u => u.cluster == k | none => false
  match ev with
  | .none => s
  | .l2Corrected => (s.modL2 k (fun r => { r with corr := satAt 0xFFFF (r.corr + 1) })).logCoalesced 2 k 0x06 0 0
  | .l2Clean =>
    if s.l2Has k g && !dirty then
      ((s.l2Drop g (fun j => j != k)).modL2 k (fun r => { r with uncc := satAt 0xFFFF (r.uncc + 1) })).logErr 2 k 0x07 1 (128 * g) 0
    else s
  | .l2Dirty =>
    if dirty then
      ((s.modL2 k (fun r => { r with uncd := satAt 0xFFFF (r.uncd + 1) })).losePoison g).logErr 2 k 0x07 2 (128 * g) 1
    else s
  | .hbmCorrected => s.hbmCorrected g
  | .hbmUncorrectable => s.hbmLost g

/-- What the ECC finds as an agent reads granule `g`: in the L2 that holds it dirty, or in HBM (R291, R486). -/
def State.eccAgent (s : State) (g : Nat) (ev : EccEvent) : State :=
  match s.l2U g with
  | some u => s.eccFound u.cluster g ev
  | none => if ev == .hbmCorrected || ev == .hbmUncorrectable then s.eccFound 0 g ev else s

/-- The events of the granules among `gs`. -/
def State.eccIn (s : State) (gs : List Nat) (l : EccFinds) : State :=
  if s.boot.held then s else (l.filter (fun e => gs.contains e.1)).foldl (fun t e => t.eccAgent e.1 e.2) s

/-- The events of the granules that an access of `n` bytes at `pa` reads. -/
def State.eccFinds (s : State) (pa n : Nat) (l : EccFinds) : State :=
  if l.isEmpty then s else s.eccIn (granulesOf pa n) l

/-- Steps 1 to 3 of R484: every slot's instruction in flight is discarded, its context evicted, dirty data written back. -/
def State.stopCore (s : State) (c : Nat) (badCtx badSectors : List Nat) : State :=
  let s1 := allSlots.foldl (fun u k =>
    match (u.slot ⟨c, k⟩).ctx with
    | none => u
    | some n => if badCtx.contains n then u.recordFault n else u.evict ⟨c, k⟩) s
  let s2 := badSectors.foldl (fun u g =>
    if (u.core c).dirtyAt g then
      -- the context that the record of a write-back names is not stated: a free value (log entry 2)
      let (v, t) := ((u.modCore c (fun k => { k with dperr := satAt 0xFFFF (k.dperr + 1) })).losePoison g).fresh
      t.logErr 1 c 0x05 2 (g / 4 * 512) (field v 13 0)
    else u) s1
  (s2.writeBackAll c).drainMerge c

/-- Those of `l` that fail parity, where no command says which do: a free value for each (R484, log entry 2). -/
def State.pickBad (s : State) : List Nat → List Nat × State
  | [] => ([], s)
  | x :: l =>
    let (v, t) := s.fresh
    let (r, u) := t.pickBad l
    (if bit v 0 then x :: r else r, u)

/-- The dirty sectors of a core, as granules. -/
def Core.dirtySectors (k : Core) : List Nat :=
  k.oc.flatMap (fun e => ((List.range 4).filter (fun j => bit e.dirty j)).map (fun j => 4 * e.line + j))

/-- Retirement of logical core `c` (R484, R485). -/
def State.retireCore (s : State) (c : Nat) (badCtx badSectors : List Nat) : State :=
  if !s.coreActive c then s
  else
    let k := c / 8
    let p := s.physOf c
    let held := allSlots.filterMap (fun j => ((s.slot ⟨c, j⟩).ctx).map (fun n => (j, n)))
    let moved := held.filter (fun e => !badCtx.contains e.2)
    let s1 := s.stopCore c badCtx badSectors
    let s2 := moved.foldl (fun u e => u.modAux e.2 (fun a => { a with coreRetire := some p })) s1
    match s.spareOf k with
    | some x =>
      let q := 9 * k + x
      let s3 := s2.modCore c (fun r => { r with
        slots := [], oc := [], miss := [], merge := [], icache := [], gated := false, replayFails := [] })
      let s4 := (s3.modDep (fun d => { d with
        phys := SMap.set none d.phys c (some q)
        spare := SMap.set none d.spare k (some 0xFF)
        retired := insertNat p d.retired })).setDomain q true
      let s5 := moved.foldl (fun u e => (u.fill ⟨c, e.1⟩ e.2).treatFill c e.2) s4
      ((s5.setDomain p false).pllsAfter s).logErr 1 c 0x03 3 0 (256 * q + p)
    | none =>
      let s3 := s2.setCore c {}
      let s4 := (s3.modDep (fun d => { d with
        absent := insertNat c d.absent
        retired := insertNat p d.retired
        mcTodo := d.mcTodo.filter (· != c) })).dropFromPass c
      (((s4.setDomain p false).pllsAfter s).logErr 1 c 0x03 3 0 (256 * 0xFF + p)).mcFinish

/-- A retirement whose command names no failing cells (a third replay failure, RETIRE): which of the core's contexts and dirty sectors
fail parity on the way is free (R484). -/
def State.retire (s : State) (c : Nat) : State :=
  let (ctxs, t) := s.pickBad (allSlots.filterMap (fun k => (s.slot ⟨c, k⟩).ctx))
  let (secs, u) := t.pickBad (s.core c).dirtySectors
  u.retireCore c ctxs secs

/-- A replay that succeeds (R480): counted, with its coalesced record. -/
def State.replayGood (s : State) (c : Nat) : State :=
  (s.modDep (fun d => { d with
    replayOk := SMap.modify 0 d.replayOk c (fun n => satAt 0xFFFFFFFF (n + 1)) })).logCoalesced 1 c 0x01 0 0

/-- A replay failure on core `c` in context `n` (R480): counted; true where it is the third within 1 s. -/
def State.replayBad (s : State) (c n : Nat) : Bool × State :=
  let t := (s.modDep (fun d => { d with
    replayFail := SMap.modify 0 d.replayFail c (fun n => satAt 0xFFFFFFFF (n + 1)) })).logErr 1 c 0x02 1 0 n
  let recent := (t.core c).replayFails.filter (fun x => t.now ≤ x + 1000000000)
  (decide (2 ≤ recent.length), t.modCore c (fun k => { k with replayFails := t.now :: recent }))

/-- RECORD_PARITY_SCAN (R482): the records that are not resident and fail both reads become faulted. -/
def execRecordParityScan (bad : List (BitVec 14)) (s : State) : Out :=
  .next (bad.foldl (fun u b => if u.ctxRes b.toNat || u.ctxState b.toNat == 0 then u else u.recordFault b.toNat) s)

end Sys2Proof.Machine
end

