-- ==== Sys2Proof/Machine/PowerState.lean ====
section
/-! DEFINITION. The power manager (chapter 19): tolerance, the conditions of the power states, their entry and exit, the
domains and PLLs, the rails, PMBus and temperature; and the power-fail sequence of R376. -/

namespace Sys2Proof.Machine

/-- `m` with bit `i` set to `b`. -/
def maskSet (m i : Nat) (b : Bool) : Nat :=
  if b && !m.testBit i then m + 2 ^ i else if !b && m.testBit i then m - 2 ^ i else m

/-! ### Domains and PLLs (R454, R457, R459) -/

/-- A T1S port (0 to 3) or CAN controller (4, 5) is enabled. -/
def State.portEnabled (s : State) (i : Nat) : Bool :=
  if i < 4 then s.entryNat 0x1101 i == 1 else s.entryNat 0x1200 (i - 4) == 1

/-- The port has its supply (R539): VDD_AON for CAN, VDD_PHY for 10BASE-T1S. -/
def State.portSupplied (s : State) (i : Nat) : Bool := 4 ≤ i || s.vddPhy

/-- A port listens in PS4 and PS5 (R465, R539). -/
def State.portListens (s : State) (i : Nat) : Bool := s.portEnabled i && s.entryNat 0x2020 i == 1 && s.portSupplied i

/-- The port is powered in state `ps`. -/
def State.portOn (s : State) (ps i : Nat) : Bool := if ps < 4 then s.portEnabled i && s.portSupplied i else s.portListens i

/-- Domain `d` is on in state `ps` (R459); "retained" and "retention" count as on. -/
def State.domainIn (s : State) (ps d : Nat) : Bool :=
  if d < 72 then ps ≤ 1 && allCores.any (fun c => s.coreActive c && s.physOf c == d)
  else if d < 88 then ps ≤ 1
  else if d < 96 then ps < 4 && (s.gy (d - 88)).slots.any (fun e => e.2.state != .free)
  else if d == 96 || d == 98 then ps < 4
  else if d == 97 || d == 99 then ps < 5
  else if d < 102 then ps < 4
  else if d < 106 then s.portOn ps (d - 102)
  else if d == 106 then s.portOn ps 4 || s.portOn ps 5
  else if d < 109 then ps < 3
  else if d == 110 then ps < 4 && s.ventsUp
  else d < 112 && ps < 5

/-- The domains are those of state `ps`, with the PLLs that they need. -/
def State.setPs (s : State) (ps : Nat) : State :=
  (s.modPower (fun p => { p with ps := ps, domains := bitsOf (s.domainIn ps) 112 })).pllsAfter s

/-- The domains of the present state, and their PLLs. -/
def State.refreshDomains (s : State) : State := s.setPs s.power.ps

/-- PLL_LOCK (R454): a started PLL has locked. -/
def State.pllLock (s : State) (i : Nat) : State :=
  if s.pllNeeded i then s.modPower (fun p => { p with plls := maskSet p.plls i true }) else s

/-- The clock of cluster `k`, MHz: the lower of CLUFREQ and the throttled clock (R478), and 800 MHz while its PLL relocks (R455). -/
def State.clusterMHz (s : State) (k : Nat) : Nat :=
  let f := s.entryNat 0x2010 k
  let t := SMap.get 0 s.power.throttle k
  let g := if t == 0 then f else min f t
  if s.power.plls.testBit k then g else 800

/-! ### Tolerance (R461, R399, R330) -/

/-- Every source of tolerance, in µs, with its kind in `PMSTA.TSRC`. -/
def State.tolSources (s : State) : List (Nat × Nat) :=
  ((List.range 4).filterMap (fun f =>
    let x := s.func f
    if x.en then some (if x.tolus == 0 then 1 else x.tolus, 1) else none)) ++
  ((List.range 160).filterMap (fun m =>
    let v := s.dictNat 0x2001 m 0xFFFFFFFF
    if v == 0xFFFFFFFF then none else some (v, 2))) ++
  (s.contexts.filterMap (fun n =>
    let st := s.ctxState n
    if 2 ≤ st && st ≤ 5 && s.ctxTol n != 0 then some (2 ^ (s.ctxTol n - 1), 3) else none)) ++
  ((List.range 8).flatMap (fun g => (s.gy g).runners.map (fun y =>
    (if dClass y.desc == 0 then 1 else if dDl y.desc == 0 then 32000 else dDl y.desc / 2, 4)))) ++
  (if s.power.mtol == 0xFFFFFFFF then [] else [(s.power.mtol, 5)])

/-- The tolerance in force and its kind; none where there is no source. -/
def State.tolerance (s : State) : Option (Nat × Nat) :=
  bestOf (fun a b => if a.1 != b.1 then a.1 < b.1 else a.2 < b.2) s.tolSources

/-! ### Conditions and selection (R458, R462, R463) -/

/-- The exit latency of a state, µs (R458). -/
def State.exitLatency (s : State) (ps : Nat) : Nat :=
  if ps == 0 then 0 else if ps == 1 then 1 else if ps == 2 then 15 else if ps == 3 then 150 else if ps == 4 then 3000
  else 215000 + cdiv (s.hcnt kBEDROCK * 2097152) 2000

def dwellNs (ps : Nat) : Nat :=
  if ps == 2 then 50000 else if ps == 3 then 1000000 else if ps == 4 then 100000000 else 10000000000

/-- The core on which context `n` will run when it wakes: its own while it keeps a slot, else the one that R198 would choose (R466). -/
def State.wakeCore (s : State) (n : Nat) : Option Nat :=
  if s.ctxRes n then some (s.ctxAt n).core else (s.placeFor n).map (·.1.core)

/-- A context in `STATE` 4 whose wake has been prepared on core `c` in PS1 (R466). -/
def State.preparedOn (s : State) (c : Nat) : Bool :=
  s.contexts.any (fun n => s.ctxState n == 4 && s.ctxWake n ≤ s.now + 1008 && s.wakeCore n == some c)

/-- Core `c` may be gated (R462): the 2 µs are the event's. -/
def State.mayGate (s : State) (c : Nat) : Bool :=
  s.coreActive c && s.coreOn c &&
  !allSlots.any (fun k => match (s.slot ⟨c, k⟩).ctx with | some n => s.ctxState n == 2 | none => false) &&
  !s.contexts.any (fun n => s.placeable n && s.mayHost n c) && !s.preparedOn c

def State.noneRuns (s : State) : Bool := !s.contexts.any (fun n => s.ctxState n == 2)

/-- The conditions of R458 for a state. -/
def State.psOk (s : State) (ps : Nat) : Bool :=
  let c2 := s.noneRuns && (!s.power.scrk || s.cores.all (fun e => e.2.lockn == 0))
  let c3 := c2 && s.heap.phase == .idle && s.heap.clearing.isEmpty && s.dma.isNone && s.dmaQ.isEmpty &&
    (List.range 8).all (fun g =>
      -- only a geyser whose running streams may all run in PS3 runs there (R330)
      let t := loadsOf (if (s.gy g).runners.all (fun v => dPs3ok v.desc) then (s.gy g).runners else [])
      (Rate.mul t.1 8 1).le 23040000000 && (Rate.mul t.2.1 8 1).le 5760000000)
  let c4 := c3 && s.geysers.all (fun e => e.2.slots.all (fun y => y.2.state == .free)) &&
    !s.contexts.any (fun n => s.ctxState n == 5) &&
    (s.power.link == .l2 || s.power.link == .l3 || !s.power.trained)
  let c5 := c4 && s.contexts.all (fun n =>
    let st := s.ctxState n
    st == 0 || ((st == 1 || st == 3 || st == 4) && (s.auxOf n).changes.isEmpty && s.spilled n == 0 && !s.needsDurable n))
  if ps == 0 then true
  else if ps == 1 then s.cores.any (fun e => e.2.gated) || allCores.any s.mayGate
  else if ps == 2 then c2
  else if ps == 3 then c3
  else if ps == 4 then c4
  else c5

/-- PSMAX and the tolerance in force allow a state. -/
def State.tolAllows (s : State) (ps : Nat) : Bool :=
  ps ≤ s.entryNat 0x2002 0 && (match s.tolerance with
    | some (t, _) => s.exitLatency ps ≤ t
    | none => true)

def State.psAllowed (s : State) (ps : Nat) : Bool := s.tolAllows ps && s.psOk ps

/-- The deepest state that `f` holds of. -/
def deepest (f : Nat → Bool) : Nat := (findFrom (fun i => f (5 - i)) 6 0).elim 0 (fun i => 5 - i)

/-- A state that the tolerance or PSMAX now forbids is left for the deepest one still allowed, or not entered (R465). -/
def State.tolWake (s : State) : State :=
  let p := s.power
  match p.trans with
  | .leaving _ => s
  | _ =>
    if 2 ≤ p.ps && !s.tolAllows p.ps then s.modPower (fun p => { p with trans := .leaving (deepest s.tolAllows) })
    else match p.trans with
      | .entering q => if s.tolAllows q then s else s.modPower (fun p => { p with trans := .settled })
      | _ => s

/-- Evaluation (R463): the tolerance in force, the deepest state, since when each state is allowed. It waits for a restart of VC0
(R489). -/
def State.evaluate (s : State) : State :=
  if s.dep.ventWait.contains 0 then s else
  let sel := deepest s.psAllowed
  let t := s.modPower (fun p => { p with
    tol := match s.tolerance with | some (t, _) => satAt 0xFFFFFFFF t | none => 0xFFFFFFFF
    tsrc := match s.tolerance with | some (_, k) => k | none => 0
    since := [2, 3, 4, 5].foldl (fun m q =>
      if q ≤ sel then (if (SMap.get none m q).isSome then m else SMap.set none m q (some s.now)) else SMap.erase m q) p.since })
  t.tolWake

/-- DWELL_EXPIRY (R463): the deepest state whose dwell is over begins to be entered. -/
def State.dwellExpiry (s : State) : State :=
  let due := fun q => 2 ≤ q && s.power.ps < q && s.psAllowed q && (match SMap.get none s.power.since q with
    | some t => t + dwellNs q ≤ s.now
    | none => false)
  let q := deepest due
  if q != 0 && s.power.trans == .settled && s.jr.pf == .normal && !s.dep.ventWait.contains 0 then s.modPower (fun p => { p with trans := .entering q }) else s

/-! ### Rails (R468 to R470) -/

def railUsed (w : Nat) : Bool := w.testBit 31
def railOff (w : Nat) : Nat := w / 2 ^ 28 % 8
def railStep (w : Nat) : Nat := w / 2 ^ 24 % 16
def railHasPg (w : Nat) : Bool := w.testBit 23
def railPgd (w : Nat) : Nat := w / 2 ^ 16 % 16
def State.railWord (s : State) (p : Nat) : Nat := s.entryNat 0x2200 p
def pens : List Nat := List.range 16

/-- Lower the rails that `f` names, and a PEN whose entry has become unused (R468, R469, a sequence down). The steps of the descending
order differ only in time. -/
def State.lowerRails (s : State) (f : Nat → Bool) : State :=
  let l := pens.filter (fun p => s.power.pen.testBit p && (f (s.railWord p) || !railUsed (s.railWord p)))
  (s.modPower (fun w => { w with
    pen := l.foldl (fun m p => maskSet m p false) w.pen
    pgd := l.foldl (fun m p => if railHasPg (s.railWord p) then maskSet m (railPgd (s.railWord p)) false else m) w.pgd
    seq := .idle })).ioWatch

/-- A whole sequence up by the words `f`, none of whose steps meets a fault (R469): every used rail is high and good, every other PEN
low (R468). -/
def State.raiseRails (s : State) (f : Nat → Nat) : State :=
  let l := pens.filter (fun p => railUsed (f p))
  (s.modPower (fun w => { w with
    pen := pens.foldl (fun m p => maskSet m p (railUsed (f p))) w.pen
    pgd := l.foldl (fun m p => if railHasPg (f p) then maskSet m (railPgd (f p)) true else m) w.pgd
    seq := .idle })).ioWatch

/-- Continue a sequence up from step `k`: each step's rails are raised together, and the sequence waits where a PGD is not
yet good. -/
def State.seqGo : Nat → Nat → State → State
  | 0, _, s => s.modPower (fun w => { w with seq := .idle })
  | n + 1, k, s =>
    let l := pens.filter (fun p => railUsed (s.railWord p) && railStep (s.railWord p) == k && !s.power.pen.testBit p)
    let t := s.modPower (fun w => { w with pen := l.foldl (fun m p => maskSet m p true) w.pen })
    let wait := l.filter (fun p => railHasPg (s.railWord p) && !s.power.pgd.testBit (railPgd (s.railWord p)))
    if wait.isEmpty then State.seqGo n (k + 1) t else t.modPower (fun w => { w with seq := .up k wait })

/-- SEQUENCE_UP (R469). -/
def State.sequenceUp (s : State) : State :=
  if s.power.seq != .idle || s.power.allDown || s.boot.held || (4 ≤ s.power.ps && s.power.trans == .settled) then s
  else
    -- a PEN whose entry is not used is held low (R468)
    ((s.modPower (fun w => { w with
      pen := pens.foldl (fun m p => if railUsed (s.railWord p) then m else maskSet m p false) w.pen })).seqGo 16 0).ioWatch

/-- RAIL_GOOD (R469): a PGD input is good. -/
def State.railGood (s : State) (g : Nat) : State :=
  let t := s.modPower (fun w => { w with pgd := maskSet w.pgd g true })
  match s.power.seq with
  | .up k l =>
    let rest := l.filter (fun p => railPgd (s.railWord p) != g)
    if rest.isEmpty then (t.seqGo (15 - k) (k + 1)).ioWatch else t.modPower (fun w => { w with seq := .up k rest })
  | .idle => t

/-- SEQUENCE_DOWN (R469): the rails that the present state or a fault keeps off. -/
def State.sequenceDown (s : State) : State :=
  if s.power.allDown || s.power.restart then s.lowerRails (fun _ => true)
  else if s.power.ps == 5 then s.lowerRails (fun w => railOff w != 0)
  else if s.power.ps == 4 then s.lowerRails (fun w => railOff w == 4)
  else s

/-! ### Entry (R464) -/

/-- What a core keeps while its domain is off (R251, R285, R464): `MEN`, wired TLB entries, `L1CTL`, its counters. -/
def Core.powerOff (k : Core) : Core :=
  { k with
    slots := [], tlb := k.tlb.filter (fun e => e.1 < 16), slost := k.slost || decide (0 < k.lockn), lockn := 0
    scratch := [], scratchBad := [], oc := [], miss := [], merge := [], icache := [], gated := false }

/-- Evict, drain, write back, and switch off a core (R464 PS2, R505). -/
def State.coreDown (s : State) (c : Nat) : State := ((s.stopCore c [] []).modCore c Core.powerOff).dropFromPass c

def State.enterPs2 (s : State) : State :=
  let t := (allCores.filter s.coreActive).foldl State.coreDown s
  (({ t with ocUnder := [], l2Under := [], l2Lines := [], l2Queue := [], dir := [] }.modDep (fun d => { d with mcTodo := [] })).mcFinish).setPs 2

/-- Before PS3 the servo sets `XTRIM` from the measured rate of the crystal, which is a free value (R361, log entry 47); with
the discipline off it stays. -/
def State.trimCrystal (s : State) : State :=
  if s.dictNat 0x2410 0 0xFF == 0xFF then s
  else
    let (v, t) := s.fresh
    { t with time := { t.time with xtrim := BitVec.ofNat 16 v.toNat } }

def State.enterPs3 (s0 : State) : State :=
  let s := s0.trimCrystal
  ({ s with time := s.time.toCrystal }.modPower (fun p => { p with selfRefresh := [0, 1] })).setPs 3

/-- VC1 to VC3 go off with their domain (R14, R464); what the main cores keep while they are off stands in the caldera (R456). -/
def State.enterPs4 (s : State) : State :=
  let t := s.dropVents.modDep (fun d => { d with ventWait := d.ventWait.filter (· == 0) })
  ((t.setPs 4).linksDown).lowerRails (fun w => railOff w == 4)

/-- The checkpoint of a dormant context: cells 0 to 26 as they stand, `STATE` and `WAKE` included (R380). -/
def State.dormantPoint (s : State) (q n : Nat) : Checkpoint :=
  let a := s.auxOf n
  { seq := q, cells := (List.range 27).map (s.rcell n), lines := a.lines, vectors := a.vectors, resumePc := a.resumePc, resumeBase := a.resumeBase,
    progress := a.progress, stops := a.stops }

/-- Complete every open commit. -/
def State.finishCommits : Nat → State → State
  | 0, s => s
  | n + 1, s => State.finishCommits n (s.commitComplete 0 true)

/-- PS5 entry (R380): earlier commits end, all records are committed as one entry, and the rails go down. -/
def State.enterPs5 (s : State) : State :=
  let t := s.finishCommits s.jr.open_.length
  let q := t.jr.nextSeq + 1
  let live := t.contexts.filter (fun n => t.ctxState n != 0)
  let c := t.newCommit .dormant (live.map (fun n => (n, t.dormantPoint q n))) [] []
  let u := (t.accept c).finishCommits 1
  (u.setPs 5).lowerRails (fun w => railOff w != 0)

/-- One entry step: from the state above to `ps`. -/
def State.enterOne (s : State) (ps : Nat) : State :=
  if ps == 2 then s.enterPs2 else if ps == 3 then s.enterPs3 else if ps == 4 then s.enterPs4 else s.enterPs5

/-- Entry of state `n` as part of the transition under way (R464); a state no longer allowed is not entered. -/
def State.enterState (s : State) (n : Nat) : State :=
  match s.power.trans with
  | .entering q =>
    if q < n || n ≤ s.power.ps || s.dep.ventWait.contains 0 then s
    else if !s.psAllowed q then s.modPower (fun p => { p with trans := .settled })
    else
      let t := ([2, 3, 4, 5].filter (fun i => s.power.ps < i && i ≤ n)).foldl State.enterOne s
      if n == q then t.modPower (fun p => { p with trans := .settled }) else t
  | _ => s

/-! ### Exit from PS4, PS3 and PS2 (R464) -/

/-- The patch banks that a core has when it comes on (R492, R493). -/
def State.bankFor (s : State) : PatchBanks :=
  let a := s.dep.mcActive.getD {}
  let b := s.dep.mcStaged.getD {}
  if s.dep.mcstate == 4 then .of b a else .of a b

/-- The firmware of a vent core starts from vent ROM, at machine level (R104, R156): its one slot holds its context, which runs.
Where vent ROM places its entries is not stated; every other register is at its reset value. -/
def State.ventRun (s : State) (v : Nat) : State :=
  let r : Regs := { pc := Config.ventStart v, st := setField (setBit 0 stLVL true) 55 52 15 }
  let t := s.setCore (64 + v) { men := Config.ventEntry v, slots := [(0, { ctx := some (ventCtx v), regs := r })] }
  (t.setAux (ventCtx v) {}).setRecField (ventCtx v) 24 83 81 2

/-- VC1 to VC3 start, those that are not retired and do not run (R510 step 9, R489). -/
def State.startVents (s : State) : State :=
  [1, 2, 3].foldl (fun t v =>
    if t.dep.ventRetired.contains v || ((t.slot (Cx.vent v)).ctx).isSome then t else t.ventRun v)
    ((s.setDomain 110 true).modDep (fun d => { d with ventWait := d.ventWait.filter (· == 0) }))

/-- A rail that is used stands low: a state that lowered rails is being left (R469). -/
def State.railsLow (s : State) : Bool := pens.any (fun p => railUsed (s.railWord p) && !s.power.pen.testBit p)

/-- PS4 is left: rails, domains with VC1 to VC3, links, and WAKE_N if the PCIe link is in L2. -/
def State.leavePs4 (s : State) : State :=
  let t := ((s.raiseRails s.railWord).startVents).setPs 3
  let u := if s.power.link == .l2 then t.modPower (fun p => { p with wakeN := true }) else t
  u.kickLinks

def State.leavePs3 (s : State) : State :=
  ({ s with time := s.time.toQuartz }.modPower (fun p => { p with selfRefresh := [] })).setPs 2

/-- PS2 is left: cores on with invalidated caches, gated until a context is placed. -/
def State.leavePs2 (s : State) : State :=
  let t := s.setPs 0
  let cs := allCores.filter t.coreActive
  let u := cs.foldl (fun v c => v.modCore c (fun k => { k with ocDefined := true, icDefined := true, tlbPtr := 16, patch := v.bankFor })) t
  cs.foldl (fun v c => if u.mayGate c then v.modCore c (fun k => { k with gated := true }) else v) u

def State.leaveOne (s : State) (ps : Nat) : State :=
  if ps == 4 then s.leavePs4 else if ps == 3 then s.leavePs3 else s.leavePs2

/-- Leave the states deeper than `t`, from PS4 at the deepest, and settle. -/
def State.leaveTo (s : State) (t : Nat) : State :=
  (([4, 3, 2].filter (fun i => t < i && i ≤ s.power.ps)).foldl State.leaveOne s).modPower (fun p => { p with trans := .settled })

/-! ### Preparation of a wake (R466) -/

/-- WAKE_PREPARATION (R466). -/
def State.wakePrepare (s : State) (n : Nat) : State :=
  let ps := s.power.ps
  let lead := 1000 * s.exitLatency (if ps ≤ 1 then 1 else ps) + (if 3 ≤ ps then 30518 else 8)
  if s.ctxState n != 4 || s.now + lead < s.ctxWake n then s
  else if 2 ≤ ps then s.wakeTo 1
  else match s.wakeCore n with
    | some c => s.ungate c
    | none => s

/-- CORE_GATING (R462). -/
def State.gateCore (s : State) (c : Nat) : State :=
  if s.power.ps ≤ 1 && s.mayGate c then s.modCore c (fun k => { k with gated := true }) else s

/-! ### Power fail and rail faults (R376, R470, R476) -/

/-- Staged error records go to the log ring (R499), in the tuff die. -/
def State.commitErrors (s : State) : State :=
  (s.tuffWrite (64 * s.dep.staged.length)).modDep (fun d => { d with
    log := d.staged.foldl (fun m r => SMap.set none m (r.seq % 4096) (some r)) d.log
    staged := [] })

/-- A handover under way is abandoned (R496, R521). -/
def Depend.abandon (d : Depend) : Depend :=
  if d.handAt.isSome then { d with handAt := none, imgstate := 2, previous := none } else d

/-- The main side stops and is switched off (R376, R503): what it held is lost. -/
def State.mainDown (s : State) : State :=
  let t := { s.wipeAll with
    mem := [], poison := [], ocUnder := [], l2Under := [], l2 := [], l2Lines := [], l2Queue := [], dir := [], heap := {}, geysers := [], ingest := []
    collQ := [], ports := [], heads := [], linkWait := none, dma := none, dmaQ := []
    -- a window that the wait for a host load mapped goes with the wait (R509)
    funcs := if s.boot.hostWait.isSome then SMap.modify {} s.funcs 0 (fun f => { f with mw := SMap.erase f.mw 0 }) else s.funcs }
  let u := ({ t with boot := { t.boot with resets := [], menTodo := [], startTodo := none, hostWait := none } }.modDep (fun d => { d.abandon with
    running := none })).dropCores false
  ((List.range 102).foldl (fun (v : State) d => v.setDomain d false) u).modPower (fun p => { p with
    ps := 0, trans := .settled, since := [], plls := 0, throttle := [] })

/-- The sequence of R376 up to the writing of the staging buffer; `staged` open commits lie wholly in it. With every core off a patch
activation is over (R493). -/
def State.powerFail (s : State) (staged : Nat) : State :=
  ((((s.stageCommits staged).modDep (fun d => { d with mcTodo := [] })).mcFinish).commitErrors).mainDown

/-- The main side runs, or waits for a host load with HBM and PCIe on: the power-fail sequence has something to save (R376, R509, R543). -/
def State.mainRuns (s : State) : Bool := !s.boot.held && (s.jr.pf == PfPhase.normal || s.boot.hostWait.isSome)

/-- A fault that takes every rail down (R470, R476); a second one within 60 s, until power-on reset. -/
def State.railsFail (s : State) (staged : Nat) (trip : Bool) : State :=
  let t := if s.mainRuns then ((s.powerFail staged).countUp 0x2300 0 4).finishStage
    else if s.jr.pf == PfPhase.failing then s.finishStage else s
  let again := s.power.allDown || (match s.power.lastFault with | some x => decide (s.now ≤ x + 60000000000) | none => false)
  ((t.lowerRails (fun _ => true)).dropCores true).modPower (fun p => { p with
    pen := 0, pgd := 0, domains := 0, lastFault := some s.now, allDown := again, restart := !again, tripWait := trip || p.tripWait })

/-- PGD `g` confirms a rail that is meant to be on: its PEN is high and not in SAFEMASK (R470, R552). -/
def State.railMeant (s : State) (g : Nat) : Bool :=
  pens.any (fun p => railUsed (s.railWord p) && railHasPg (s.railWord p) && railPgd (s.railWord p) == g &&
    s.power.pen.testBit p && !(s.entryNat 0x6100 1).testBit p)

/-- A rail fault at PGD `g` (R470): the commit, the record and the count, every rail down. -/
def State.railDown (s : State) (g staged : Nat) : State :=
  (((s.railsFail staged false).countUp 0x2301 0 4).logErr 9 0 0x10 3 0 g).commitErrors

/-- RAIL_FAULT (R470). -/
def State.railFault (s : State) (g staged : Nat) : State := if !s.railMeant g then s else s.railDown g staged

/-- The temperature of a sensor in mK (R473). -/
def State.tempOf (s : State) (k : Nat) : Nat := SMap.get 298150 s.power.temp k

/-- THERMAL_TRIP (R476). After PFAIL_N, or with the rails down, only the trip's wait is added (R478); where every rail is down until
power-on reset there is nothing more to do. -/
def State.thermalTrip (s : State) (k staged : Nat) : State :=
  if s.tempOf k < 393150 || s.power.allDown then s
  else if !s.mainRuns then
    if s.power.tripWait then s
    else (((s.countUp 0x2302 0 4).logErr 10 k 0x12 3 0 k).commitErrors).modPower (fun p => { p with tripWait := true })
  else (((s.railsFail staged true).countUp 0x2302 0 4).logErr 10 k 0x12 3 0 k).commitErrors

/-- Every sensor reads below TWARN − 10 K (R476). -/
def State.cooled (s : State) : Bool := (List.range 16).all (fun k => s.tempOf k + 10000 < s.entryMilli 0x2101 0)

/-! ### Temperature (R473 to R475) -/

/-- One sensor's reading. -/
def State.sensor (s : State) (k mk : Nat) : State :=
  let warn := s.entryMilli 0x2101 0
  let t := s.modPower (fun p => { p with
    temp := SMap.set 298150 p.temp k mk
    warned := if mk + 5000 < warn then p.warned.filter (· != k) else if warn ≤ mk then insertNat k p.warned else p.warned })
  if warn ≤ mk && !s.power.warned.contains k && s.power.ten then
    (t.modAux s.power.tctx (fun a => { a with thermal := insertNat k a.thermal })).checkInterrupts s.power.tctx
  else t

def State.sensorRead (s : State) (mk : List Nat) : State :=
  foldUp (fun k t => match mk[k]? with | some v => t.sensor k v | none => t) 16 0 s

/-- The throttled clock of cluster `k` is `v` MHz, 0 = CLUFREQ: its PLL relocks (R455). -/
def State.throttleTo (s : State) (k v : Nat) : State :=
  s.modPower (fun p => { p with throttle := SMap.set 0 p.throttle k v, plls := maskSet p.plls k false })

/-- THROTTLE_STEP (R475). -/
def State.throttleStep (s : State) (k : Nat) : State :=
  let f := s.entryNat 0x2010 k
  let level := s.entryMilli 0x2102 0
  let v := SMap.get 0 s.power.throttle k
  let now := if v == 0 then f else min f v
  if level ≤ s.tempOf k then (if 800 < now then s.throttleTo k (max 800 (now - 100)) else s)
  else if s.tempOf k + 3000 < level && now < f then s.throttleTo k (if f ≤ now + 100 then 0 else now + 100)
  else if f ≤ now then s.modPower (fun p => { p with throttle := SMap.erase p.throttle k })
  else s

/-! ### PMBus (R472) -/

/-- m × 2^e as binary64. -/
def scaled (m e : Int) : Word64 :=
  BitVec.ofNat 64 (if 0 ≤ e then (ratToF64 0 (m * ((2 ^ e.toNat : Nat) : Int)) 1).1 else (ratToF64 0 m (2 ^ (-e).toNat)).1)

/-- LINEAR11 and LINEAR16 values. -/
def linear11 (w : Nat) : Word64 := scaled (signedOf 11 w) (signedOf 5 (w / 2 ^ 11))
def linear16 (mode w : Nat) : Word64 := scaled w (signedOf 5 mode)

/-- One device's answer to a poll. -/
def State.pmbPoll (s : State) (r : PmbReading) : State :=
  let d := r.dev.toNat
  let w := s.entryNat 0x2210 d
  if !w.testBit 31 then s
  else if r.ack then
    s.modPower (fun p => { p with
      missed := SMap.erase p.missed d
      vout := if r.voutMode.toNat / 32 == 0 then SMap.set 0 p.vout d (linear16 r.voutMode.toNat r.vout.toNat) else p.vout
      iout := SMap.set 0 p.iout d (linear11 r.iout.toNat) })
  else
    let t := s.modPower (fun p => { p with missed := SMap.modify 0 p.missed d (fun n => satAt 3 (n + 1)) })
    if SMap.get 0 s.power.missed d == 2 then
      let (v, u) := t.fresh
      u.logErr 9 0 0x11 1 0 (w / 2 ^ 16 % 128 * 2 ^ 16 + v.toNat % 2 ^ 16)
    else t

/-- One device's STATUS_WORD on an alert: a record, and a rail fault for an output fault on a device that names a PEN; how
much of the open commits is then staged is a free value. -/
def State.pmbFault (s : State) (r : PmbStatus) : State :=
  let w := s.entryNat 0x2210 r.dev.toNat
  if !w.testBit 31 || r.word == 0 then s
  else
    let t := s.logErr 9 0 0x11 1 0 (w / 2 ^ 16 % 128 * 2 ^ 16 + r.word.toNat)
    if r.output && w.testBit 7 && !t.power.allDown then
      let (v, u) := t.fresh
      u.railDown (railPgd (s.railWord (w % 16))) (v.toNat % (t.jr.open_.length + 1))
    else t

/-! ### Registers (R467) -/

/-- The hottest sensor: the lowest number of those that read highest. -/
def State.hottest (s : State) : Nat :=
  (bestOf (fun a b => if s.tempOf a != s.tempOf b then s.tempOf b < s.tempOf a else a < b) (List.range 16)).getD 0

def State.throttled (s : State) : Bool := s.power.throttle.any (fun e => e.2 != 0)

def State.pmsta (s : State) : Nat :=
  let p := s.power
  let tgt := match p.trans with | .settled => s.pstate | .entering q => q | .leaving q => q
  s.pstate * 2 ^ 61 + tgt * 2 ^ 58 + s.hottest * 2 ^ 36 + b2n s.throttled * 2 ^ 35 + p.tsrc * 2 ^ 32 + p.tol

def State.powerRead (s : State) (off : Nat) : Nat :=
  let p := s.power
  if off == 0 then b2n p.scrk * 2 ^ 47 + b2n p.ten * 2 ^ 46 + p.tctx * 2 ^ 32 + p.mtol
  else if off == 0x10 then s.pmsta
  else if off == 0x20 then p.domains % 2 ^ 64
  else if off == 0x30 then p.domains / 2 ^ 64
  else 0

/-- A write of PMCTL; the other registers are read-only. -/
def State.powerPut (s : State) (off : Nat) (v : Word64) : State :=
  if off == 0 then
    (s.modPower (fun p => { p with scrk := bit v 47, ten := bit v 46, tctx := field v 45 32, mtol := field v 31 0 })).tolWake
  else s

end Sys2Proof.Machine
end

