-- ==== Sys2Proof/Machine/Tlb.lean ====
section
/-! DEFINITION. TLB entries as TLBW and the wired pairs of an image spell them, and how an entry is written (R252 to
R255, R512). -/

namespace Sys2Proof.Machine

def TlbEntry.size (t : TlbEntry) : Nat := if t.sz == 0 then 2 ^ 14 else if t.sz == 1 then 2 ^ 21 else 2 ^ 30

/-- The entry that X and Y describe. -/
def tlbEntryOf (x y : Word64) : TlbEntry :=
  { sz := field x 62 61, g := bit x 60, vpn := field x 55 14, asid := field x 11 0
    pfn := field y 47 14, dev := bit y 5, wt := bit y 4, u := bit y 3, x := bit y 2, w := bit y 1, r := bit y 0 }

/-- A, X and Y hold values that R255 allows. -/
def tlbwOk (a : Nat) (x y : Word64) : Bool :=
  let t := tlbEntryOf x y
  let pages := t.size / 2 ^ 14
  let pa := t.pfn * 2 ^ 14
  a < 2 ^ 8 && field x 59 56 == 0 && field x 13 12 == 0 && field y 63 48 == 0 && field y 13 6 == 0 &&
  t.sz != 3 && t.vpn % pages == 0 && t.pfn % pages == 0 &&
  (if a.testBit 7 then a % 128 == 0 else a < 96) &&
  t.dev == inDeviceRange pa && !(t.dev && (t.x || t.u || t.wt)) &&
  !(bit x 63 && hbmEnd < pa + t.size && pa < deviceBase)

/-- Both entries would match some address (R255). -/
def TlbEntry.overlaps (t u : TlbEntry) : Bool :=
  let a := t.vpn * 2 ^ 14
  let b := u.vpn * 2 ^ 14
  (t.g || u.g || t.asid == u.asid) && a < b + u.size && b < a + t.size

/-- Write a valid entry: overlapping entries go first, then the index is chosen. -/
def Core.tlbWrite (k : Core) (auto : Bool) (ix : Nat) (t : TlbEntry) : Core :=
  let l := k.tlb.filter (fun p => match p.2 with
    | some u => !t.overlaps u || (!auto && p.1 == ix)
    | none => false)
  if !auto then { k with tlb := SMap.set none l ix (some t) }
  else match findFrom (fun i => (SMap.get none l i).isNone) 80 16 with
    | some i => { k with tlb := SMap.set none l i (some t) }
    | none => { k with
        tlb := SMap.set none l k.tlbPtr (some t)
        tlbPtr := if k.tlbPtr == 95 then 16 else k.tlbPtr + 1 }

end Sys2Proof.Machine
end

