-- ==== Sys2Proof/Machine/Boot.lean ====
section
/-! DEFINITION. Reset and boot (chapter 21): image checks, image sources, bring-up, the start of the machine image, and the
five kinds of reset. -/

namespace Sys2Proof.Machine

def State.modBoot (s : State) (f : Boot → Boot) : State := { s with boot := f s.boot }
def State.modDict (s : State) (f : Dict → Dict) : State := { s with dict := f s.dict }

/-! ### The Smithar image (R512 to R514) -/

/-- The little-endian field of `n` bytes at `off`. -/
def leAt (l : List Byte) (off n : Nat) : Nat := leValue ((l.drop off).take n)

def imageMagic : Nat := 0x4D534B47

/-- The X and Y of wired pair `i`. -/
def wiredPair (l : List Byte) (i : Nat) : Word64 × Word64 :=
  (BitVec.ofNat 64 (leAt l (64 + 16 * i) 8), BitVec.ofNat 64 (leAt l (72 + 16 * i) 8))

/-- Reserved fields and values of the header and, for a patch, of the match values; `WIRED` under R255. -/
def imageFieldsOk (l : List Byte) (kind : Nat) : Bool :=
  let nw := leAt l 7 1
  let load := leAt l 24 8
  leAt l 50 14 == 0 && leAt l 16 8 % 16 == 0 &&
  (if kind == 1 then
    1 ≤ nw && nw ≤ 16 && leAt l 12 4 == 0 && load % 0x10000 == 0 && 0x10000 ≤ load &&
    slotForm (leAt l 32 8) && slotForm (leAt l 40 8) && leAt l 48 2 / 4096 == 0 &&
    (List.range 16).all (fun i =>
      let (x, y) := wiredPair l i
      if i < nw then tlbwOk i x y else x == 0 && y == 0)
   else nw == 0 && load == 0 && (List.range 16).all (fun i => wiredPair l i == (0, 0)) &&
    (kind != 2 || (List.range 32).all (fun i => leAt l (512 + 16384 + 8 * i) 8 / 2 ^ 24 % 2 ^ 39 == 0)))

/-- The image as the device holds it after the check. -/
def imageOf (l : List Byte) : Image :=
  { level := leAt l 8 4, loadpa := leAt l 24 8, entry := BitVec.ofNat 64 (leAt l 32 8)
    startpc := BitVec.ofNat 64 (leAt l 40 8), sasid := leAt l 48 2 % 4096
    wired := (List.range (leAt l 7 1)).map (wiredPair l), body := l.drop 512 }

/-- The lowest microcode level accepted (R492, R500). -/
def State.mcMin (s : State) : Nat := s.dep.mcMinRaise.getD Config.mcMinFuse

/-- The check of R514 of an image expected to be of `kind`: the image, or the BOOTERR code of the first failure. -/
def State.checkImage (s : State) (kind : Nat) (f : ImageFile) : Except Nat Image :=
  let l := f.bytes
  let n := leAt l 16 8
  let sizeOk := if kind == 1 then l.length ≤ 2 ^ 28 else if kind == 2 then l.length == 17152 else l.length ≤ 32768
  let load := leAt l 24 8
  if l.length < 512 || leAt l 0 4 != imageMagic || leAt l 4 2 != 1 || l.length != 512 + n || !sizeOk then .error 0x01
  else if leAt l 6 1 != kind || !imageFieldsOk l kind then .error 0x02
  else if !f.chk.keyOk then .error 0x03
  else if !f.chk.sigOk then .error 0x04
  else if kind == 1 && hbmEnd < load + n then .error 0x05
  else if kind == 2 && (leAt l 12 4 != Config.mcRomId.toNat || leAt l 8 4 < s.mcMin) then .error 0x06
  else if kind == 3 && leAt l 12 4 != Config.vromVer.toNat then .error 0x06
  else .ok (imageOf l)

/-- The results of an image's or a token's signature checks, where no command carries them: free values (log entry 2). -/
def State.freshChk (s : State) : SigCheck × State :=
  let (v, t) := s.fresh
  ({ keyOk := bit v 0, sigOk := bit v 1 }, t)

/-! ### Sources (R507) -/

/-- A slot's image, checked; an empty slot fails as no image. -/
def State.slotImage (s : State) (k : Nat) : Except Nat Image := s.checkImage 1 ⟨SMap.get [] s.jr.images k, {}⟩

/-- A QSPI copy, checked; a flash without SFDP gives 0x0A. -/
def State.qspiImage (s : State) : Option ImageFile → Except Nat Image
  | some f => s.checkImage 1 f
  | none => .error 0x0A

/-- The sources of a BOOTSEL code, in order, with their BOOTSRC code. -/
def State.codeSources (s : State) (env : BootEnv) (code : Nat) : List (Nat × Except Nat Image) :=
  let q := [(0, s.qspiImage env.qspi0), (1, s.qspiImage env.qspi1)]
  let k := s.dep.imgrun % 2
  if code == 0 then q
  else if code == 1 then []
  else if code == 2 then [(3 + k, s.slotImage k)]
  else if code == 3 then [(3 + k, s.slotImage k), (4 - k, s.slotImage (1 - k))] ++ q
  else [(0xFF, .error 0x09)]

/-- Take the first source that passes; BOOTERR keeps the latest failure. -/
def State.firstImage : List (Nat × Except Nat Image) → State → Option (Nat × Image) × State
  | [], s => (none, s)
  | (src, .ok img) :: _, s => (some (src, img), s)
  | (_, .error e) :: l, s => State.firstImage l (s.modBoot (fun b => { b with err := e }))

/-! ### Installing and starting an image (R515 to R519) -/

/-- The image's body is written at `LOADPA`. -/
def State.loadBody (s : State) (i : Image) : State := (s.agentPut i.loadpa i.body).modDep (fun d => { d with running := some i })

/-- A core's wired entries from the image; every other entry has `V` = 0. -/
def Core.wire (k : Core) (i : Image) : Core :=
  let l := (List.range i.wired.length).foldl (fun (c : Core) n =>
    let (x, y) := nthD (0, 0) i.wired n
    if bit x 63 then c.tlbWrite false n (tlbEntryOf x y) else c) { k with tlb := [] }
  { l with tlbPtr := 16 }

/-- Every active core at the image's first instruction (R515). -/
def State.installCores (s : State) (i : Image) : State :=
  (allCores.filter s.coreActive).foldl (fun t c =>
    t.setCore c (({ men := i.entry, patch := t.bankFor : Core }).wire i)) s

/-- The start block's address. -/
def Image.service (i : Image) : Nat := i.loadpa - 0x10000

/-- The A of the start context. -/
def startA (addr kind : Nat) (revert : Bool) : Cell := mkRAW (addr / 16 % 2 ^ 44 * 16 + kind * 2 + b2n revert)

/-- Start block and service rings (R517, R519). -/
def State.writeService (s : State) (i : Image) (kind : Nat) : State :=
  let a := i.service
  let block := [startA a kind false, mkRAW Config.serial.toNat, mkRAW s.jr.seq, mkRAW s.now, mkRAW s.boot.bootsrc,
    mkRAW (bitsOf s.coreActive 64), mkRAW s.dep.imgrun] ++ List.replicate 9 (mkRAW 0)
  let t := foldUp (fun k u => u.agentWrite (a + 16 * k) (nthD 0 block k)) 16 0 s
  [0x1000, 0x1010, 0x3000, 0x3010].foldl (fun u o => u.agentWrite (a + o) (mkFIX 0)) t

/-- The subscriptions of context `n` end (R205, R506): `COUNT` and `OVF` stay. -/
def State.dropSubs (s : State) (n : Nat) : State :=
  (s.auxOf n).lines.foldl (fun t e => match e.2 with
    | some ch => t.setChan ch { t.chan ch with sv := false }
    | none => t) s

/-- The entries that context `n` has published are withdrawn (R430, R506). -/
def State.withdrawOf (s : State) (n : Nat) : State :=
  s.modDict (fun d =>
    let mine := d.published.filter (fun e => match e.2 with | some p => p.owner == n | none => false)
    { d with
      published := d.published.filter (fun e => !mine.any (fun m => m.1 == e.1))
      vals := d.vals.filter (fun e => !mine.any (fun m => m.1 == e.1)) })

/-- A context becomes free and empty for a start context; what it published stays until a WITHDRAW or a per-context reset (R430,
R503). -/
def State.clearCtx (s : State) (n : Nat) : State := (((s.evictCtx n).dropSubs n).unholdAll n).wipeCtx n

/-- ST at the first instruction: `LVL` 1, `ML` 15 (R89). -/
def startSt : Word64 := BitVec.ofNat 64 (2 ^ 63 + 15 * 2 ^ 52)

/-- The start context's registers (R515). -/
def startRegs (i : Image) (a : Cell) : Regs :=
  let none_ := mkCap tagCAP 0 0 0 0 0 0 0
  { a := a, f := none_, e := none_, s := none_, c := none_, pc := i.startpc, st := startSt }

/-- The start context (R515): context 0, `CLU` 1, `PRI` 7, placed on logical core 0. -/
def State.startContext (s : State) (i : Image) (a : Cell) : State :=
  let t := (s.clearCtx 0).saveRegs 0 (startRegs i a)
  let u := ((t.setRec 0 25 (mkRAW 0)).setRec 0 26 (mkRAW 0)).setRecField 0 25 115 104 i.sasid
  let v := ((u.setRecField 0 25 103 101 7).setRecField 0 25 100 93 1).makeReady 0
  -- a context in that slot gives way only at a boundary (R188); until then the dispatcher places context 0
  if v.coreActive 0 && v.atBoundary ⟨0, 0⟩ then (v.evict ⟨0, 0⟩).fill ⟨0, 0⟩ 0 else v

/-- R518: the journal's checkpoints are discarded by one commit, which leaves the bedrock image and the registers journaled with it. -/
def State.discardPoints (s : State) : State :=
  if s.jr.checkpoints.isEmpty then s
  else ((s.modJr (fun j => { j with checkpoints := [] })).accept
    { s.newCommit .dormant [] [] [] with window := (s.jr.hwb, s.jr.btb, s.jr.sab), blocks := s.jr.bedEntries }).finishCommits 1

/-- Restore (R518): after a power-on reset only where RESUMEEN and a checkpoint allow it. The start kind follows. -/
def State.restoreFor (s : State) (kind : Nat) : Nat × State :=
  if kind == 1 then
    if s.entryNat 0x7020 0 == 1 && !s.jr.checkpoints.isEmpty then (2, s.restore false) else (1, s.discardPoints)
  else (kind, s.restore (kind == 4))

/-- Steps 8 to 11 of R510 with an image that has passed: restore, cores, service area, start context. -/
def State.startImage (s : State) (src : Nat) (i : Image) (kind : Nat) : State :=
  let s1 := (s.modJr (fun j => { j with pf := .normal, restored := false })).loadBody i
  let (k, s2) := s1.restoreFor kind
  let s3 := ((s2.installCores i).startVents.setPs 0).modPower (fun p => { p with restart := false, tripWait := false, trans := .settled })
  let slot := src == 3 || src == 4
  let s4 := s3.modDep (fun d => { d with imgrun := if slot then src - 3 else d.imgrun })
  let s5 := s4.modBoot (fun b => { b with bootsrc := src, stat := 0x40, rstkind := k, hostWait := none, slotBoot := slot })
  let s6 := s5.writeService i k
  sendNotices s6.boot.notices (s6.startContext i (startA i.service k false))

/-- R509: vent firmware waits for a host load, with unit 0 of function 0's memory window on HBM from 0. -/
def State.waitHost (s : State) (kind : Nat) : State :=
  (s.modFunc 0 (fun f => { f with mw := SMap.set {} f.mw 0 { hbase := 0, wr := true, rd := true, v := true } })).modBoot
    (fun b => { b with stat := 0x20, hostWait := some kind })

/-- Read an image from the sources `l` and start it, or wait for a host load (R507, R509). -/
def State.bootFrom (s : State) (l : List (Nat × Except Nat Image)) (kind : Nat) : State :=
  match State.firstImage l (s.setPs 0) with
  | (some (src, i), t) => t.startImage src i kind
  | (none, t) => t.waitHost kind

/-- A DBAPP of value `v` while the boot waits (R509): the image at HBM 0, `v` × 16 bytes long. -/
def State.hostLoaded (s : State) (v : Nat) (chk : SigCheck) : State :=
  match s.boot.hostWait with
  | none => s
  | some kind =>
    let (bs, t) := s.agentBytes 0 (16 * v)
    match t.checkImage 1 ⟨bs, chk⟩ with
    | .error e => t.modBoot (fun b => { b with err := e })
    | .ok i => (t.modFunc 0 (fun f => { f with mw := SMap.erase f.mw 0 })).startImage 2 i kind

/-! ### Power-on reset (R502, R503, R510, R511) -/

/-- What outlasts power-on reset: the tuff die, the fuses, the caldera's shadow. Everything else is at its reset value. -/
def State.cold (s : State) : State :=
  let j := s.jr
  { State.reset with
    jr := { entries := j.entries, pubTypes := j.pubTypes, defaults := j.defaults, images := j.images, ring := j.ring, rpos := j.rpos
            bed := j.bed, bedEntries := j.bedEntries, hwb := j.hwb, btb := j.btb, sab := j.sab, checkpoints := j.checkpoints
            lastTime := j.lastTime, seq := j.seq, nextSeq := j.seq, wear := j.wear, wearMap := j.wearMap, retired := j.retired, unitsBase := j.unitsBase }
    dep := { errseq := s.dep.errseq, log := s.dep.log, mcActive := s.dep.mcActive, mcStaged := s.dep.mcStaged, mcstate := if s.dep.mcStaged.isSome then 2 else 0
             mcMinRaise := s.dep.mcMinRaise
             mcRaises := s.dep.mcRaises, vpatch := s.dep.vpatch, imgrun := s.dep.imgrun, rowHits := s.dep.rowHits
             candidates := s.dep.candidates }
    boot := { shadow := s.boot.shadow }
    out := s.out
    freeCount := s.freeCount
    pending := s.pending }

/-- The rail table of step 3 (R511): the shadow, else the fused table, else the defaults. -/
def State.bootRail (s : State) (p : Nat) : Nat :=
  match s.boot.shadow with
  | some (rails, _, _) => nthD 0 rails p
  | none => match Config.fusedRail p with
    | some w => w.toNat
    | none => railDefault p

/-- SAFEPEN and SAFEMASK from the shadow (R510 step 2). -/
def State.shadowSafe (s : State) : State :=
  match s.boot.shadow with
  | some (_, sp, sm) => (s.setDict 0x6100 0 2 sp).setDict 0x6100 1 2 sm
  | none => s

/-- The bring-up stops in a step with every rail down (R510). -/
def State.stopBoot (s : State) (step err : Nat) : State :=
  (s.modBoot (fun b => { b with stat := step, err := err })).modPower (fun p => { p with pen := 0, pgd := 0, allDown := true })

/-- Repairs of step 4 (R488): a candidate of `spares` has a spare row in its bank; `2 × row + controller` names one. -/
def State.repairRows (s : State) (spares : List Nat) : State :=
  s.dep.candidates.foldl (fun t c =>
    if spares.contains c then
      ((t.modDep (fun d => { d with
        candidates := d.candidates.filter (· != c), rowHits := SMap.erase d.rowHits c })).countUp 0x8023 (c % 2) 2).logErr
        3 (c % 2) 0x0A 1 (c / 2) 0
    else t.logErr 3 (c % 2) 0x0A 1 (c / 2) 1) s

/-- CAN controller `c` takes CBASE as it is enabled (R431). -/
def State.latchBase (s : State) (c : Nat) : State :=
  if s.portEnabled (4 + c) then s.modDict (fun d => { d with canBase := SMap.set 0x1A d.canBase c (s.entryNat 0x1203 0) }) else s

/-- The caldera's shadow follows a commit of RAILSEQ, SAFEPEN or SAFEMASK (R511). -/
def State.setShadow (s : State) : State :=
  s.modBoot (fun b => { b with
    shadow := some ((List.range 16).map s.railWord, s.entryNat 0x6100 0, s.entryNat 0x6100 1) })

/-- Every persistent entry returns to its default (R408), those that the device itself keeps too (log entry 141). -/
def State.restoreDefaults (s : State) : State :=
  (s.modJr (fun j => { j with
    entries := [], pubTypes := [], defaults := false, wear := [], unitsBase := j.retired.length })).modDep (fun d => { d with
    errseq := 0, log := [], mcActive := none, imgrun := 0 })

/-- The persistent entries are read from the journal (step 5), or return to their defaults (R408). -/
def State.readEntries (s : State) : State :=
  let t := if s.jr.defaults then s.restoreDefaults else s
  let t := t.modDict (fun d => { d with vals := t.jr.entries })
  let t := if s.jr.defaults && s.boot.shadow.isSome then t.setShadow else t
  let u := ((t.latchBase 0).latchBase 1).ptpConfig
  u.modTime (fun t => { t with xmode := u.dictNat 0x2400 0 0 })

/-- The self-test of cluster `k` (step 6, R12, R483, R485); `bad` holds failing physical cores as 9k + p. -/
def State.clusterTest (s : State) (bad : List Nat) (k : Nat) : State :=
  let spareBad := bad.contains (9 * k + 8)
  let s1 := if spareBad then
      (s.modDep (fun d => { d with spare := SMap.set none d.spare k (some 0xFF) })).logErr 1 0 0x15 3 0 (9 * k + 8)
    else s
  foldUp (fun j t =>
    let c := 8 * k + j
    let p := 9 * k + j
    if !bad.contains p then t
    else match t.spareOf k with
      | some x => (t.modDep (fun d => { d with
          phys := SMap.set none d.phys c (some (9 * k + x)), spare := SMap.set none d.spare k (some 0xFF)
          retired := insertNat p d.retired })).logErr 1 c 0x03 3 0 (256 * (9 * k + x) + p)
      | none => (t.modDep (fun d => { d with absent := insertNat c d.absent, retired := insertNat p d.retired })).logErr 1 c 0x03 3 0
          (256 * 0xFF + p)) 8 0 s1

/-- Each function's memory window takes the size of its entry (R387). -/
def State.sizeWindows (s : State) : State :=
  foldUp (fun f t => t.modFunc f (fun x => { x with mwsize := t.entryNat 0x1041 (f + 1) })) 4 0 s

/-- POWER_ON_RESET (R510). -/
def State.powerOn (s : State) (env : BootEnv) : State :=
  let s1 := (s.cold.modBoot (fun b => { b with
    bootsel := env.bootsel.toNat, ms := env.ms.toNat, stat := 1, env := env })).shadowSafe
  let s2 := ((s1.ventRun 0).estopSample env.estop1.1 env.estop1.2 false false).estopSample env.estop2.1 env.estop2.2 false false
  if env.railFault.isSome then s2.stopBoot 3 7
  else if !env.hbmOk then s2.stopBoot 4 8
  else
    let s3 := (s2.raiseRails s2.bootRail).readEntries
    let s4 := (if env.tuffBad then s3.tuffError else s3).repairRows env.spareRows
    let s5 := foldUp (fun k t => t.clusterTest env.selfTestFail k) 8 0 s4
    let lvl := (s5.dep.vpatch.map (·.1)).getD 0
    let s6 := (s5.modDep (fun d => { d with vplevel := (List.range 4).foldl (fun m v => SMap.set 0 m v lvl) [] })).sizeWindows
    s6.bootFrom (s6.codeSources env env.bootsel.toNat) 1

/-- POWER_ON_RESET_ASSERTION (R543, R552): the device stops; VDD_AON has left its operating conditions, so the shadow is
lost. -/
def State.powerOff (s : State) : State := s.cold.modBoot (fun b => { b with held := true, shadow := none })

/-! ### Restart, warm reset and exit from PS5 (R378, R504, R507, R380) -/

/-- The sources of a restart (R507). -/
def State.restartSources (s : State) (env : BootEnv) : List (Nat × Except Nat Image) :=
  let k := s.dep.imgrun % 2
  let first := if s.boot.slotBoot && SMap.get [] s.jr.images k != [] then [(3 + k, s.slotImage k)] else []
  first ++ s.codeSources env s.boot.bootsel

/-- The main side starts again (R378, R504, R380). -/
def State.restartMain (s : State) (env : BootEnv) (kind : Nat) : State :=
  let t := ({ s with time := s.time.toQuartz }.modPower (fun p => { p with selfRefresh := [] })).modBoot
    (fun b => { b with env := env })
  (if env.tuffBad then t.tuffError else t).bootFrom (t.restartSources env) kind

/-- WARMRST (R504): R376 without its count, then R378 at once. What is wholly staged is a matter of the moment. -/
def State.warmReset (s : State) (env : BootEnv) : State :=
  if !s.mainRuns then s else ((s.powerFail s.jr.open_.length).finishStage).restartMain env 3

/-- POWER_RETURN_RESTART (R378, R478): PFAIL_N has been high for 10 ms; after a thermal trip the sensors must have cooled. -/
def State.powerReturn (s : State) (env : BootEnv) : State :=
  if s.jr.pf == PfPhase.normal || s.power.restart || s.power.allDown || (s.power.tripWait && !s.cooled) then s
  else (if s.jr.pf == PfPhase.failing then s.finishStage else s).restartMain env 3

/-- RAIL_FAULT_RESTART (R470, R476). -/
def State.railRestart (s : State) (env : BootEnv) : State :=
  let due := match s.power.lastFault with | some x => x + 1000000000 ≤ s.now | none => false
  if !s.power.restart || s.power.allDown || !due || (s.power.tripWait && !s.cooled) then s
  else match env.railFault with
    | some g => (((s.powerFail 0).countUp 0x2300 0 4).finishStage).railDown g.toNat 0
    | none => ((s.raiseRails s.railWord).modPower (fun p => { p with restart := false })).restartMain env 3

/-- Exit from PS5 (R464, R380): rails up, HBM trained, restore. -/
def State.leavePs5 (s : State) (env : BootEnv) : State :=
  ((({ s.mainDown with mem := [] }.raiseRails s.railWord).modPower (fun p => { p with trans := .settled })).restartMain env 4).kickLinks

/-- A rail fault in the sequence up of an exit (R469, R478): how much of the open commits is then staged is a free value. -/
def State.exitFault (s : State) (g : Nat) : State :=
  let (v, t) := s.fresh
  t.railDown g (v.toNat % (t.jr.open_.length + 1))

/-- STATE_EXIT (R464); VC0 carries it out (R489). -/
def State.stateExit (s : State) (env : BootEnv) : State :=
  match s.power.trans with
  | .leaving t =>
    if s.dep.ventWait.contains 0 then s
    else match env.railFault with
      | some g => if s.railsLow then s.exitFault g.toNat else if s.power.ps == 5 then s.leavePs5 env else s.leaveTo t
      | none => if s.power.ps == 5 then s.leavePs5 env else s.leaveTo t
  | _ => s

/-! ### Per-cluster and per-context reset (R505, R506) -/

/-- The reset of a cluster whose slots stand at boundaries (R505): dirty data of its caches is written back, its L2 included; `bad`
holds the cluster's logical cores that fail the self-test. -/
def State.resetCluster (s : State) (k : Nat) (bad : List Nat) : State :=
  let cs := (List.range 8).map (fun j => 8 * k + j)
  let down := (cs.filter s.coreActive).foldl State.coreDown s
  let here := fun (e : Nat × Option Under) => match e.2 with | some u => u.cluster == k | none => false
  let clean := { down with
    ocUnder := down.ocUnder.filter (fun e => !here e), l2Under := down.l2Under.filter (fun e => !here e)
    l2Lines := down.l2Lines.filter (fun e => e.1 / 2048 != k), l2Queue := down.l2Queue.filter (fun e => e.1 / 2 != k) }
  let tested := (cs.filter (fun c => bad.contains c)).foldl (fun t c => t.retireCore c [] []) clean.dirSweep
  (cs.filter tested.coreActive).foldl (fun t c => t.modCore c (fun x => { x with ocDefined := true, icDefined := true })) tested

/-- The places of cluster `k` on its active cores. -/
def State.placesOf (s : State) (k : Nat) : List Cx := allPlaces.filter (fun q => q.core / 8 == k && s.coreActive q.core)

/-- CLURST (R505): every resident context is evicted at its next boundary, and the reset follows the last; the cluster acknowledges a
heap pass at once. -/
def State.clusterReset (s : State) (k : Nat) (bad : List Nat) : State :=
  let t := ((s.placesOf k).filter s.atBoundary).foldl State.evict s
  if (s.placesOf k).all s.atBoundary then t.resetCluster k bad
  else ((List.range 8).foldl (fun u j => u.dropFromPass (8 * k + j)) t).modBoot (fun b => { b with
    resets := b.resets.filter (fun e => e.1 != k) ++ [(k, bad)] })

/-- A write of CLURST: two for one cluster in one tick are one reset (R521). -/
def State.clusterWrite (s : State) (k : Nat) (bad : List Nat) : State :=
  if SMap.get none s.boot.cluTick k == some s.dict.tick then s
  else (s.modBoot (fun b => { b with cluTick := SMap.set none b.cluTick k (some s.dict.tick) })).clusterReset k bad

/-- A core takes an image (R495, R515): its `MEN` and wired entries, every other entry invalid, its caches off, their dirty data written
back first (R294). -/
def State.takeImage (s : State) (c : Nat) (i : Image) : State :=
  ((s.writeBackAll c).drainMerge c).modCore c (fun k => ({ k with men := i.entry, ien := false, den := false }).wire i)

/-- The cores that now stand at a quiescent boundary take the new image (R495 step 3). -/
def State.finishMen (s : State) : State :=
  match s.boot.startTodo with
  | none => s
  | some (i, _) =>
    s.boot.menTodo.foldl (fun t c =>
      if t.coreActive c && !t.quiescent c then t
      else ((if t.coreActive c then t.takeImage c i else t).modBoot (fun b => { b with menTodo := b.menTodo.filter (· != c) }))) s

/-- Once every active core has the image, and context 0 stands at a boundary (R188), the heap is off and the start context starts (R495
step 4, R515). -/
def State.finishStart (s : State) : State :=
  match s.boot.startTodo with
  | none => s
  | some (i, a) =>
    if !s.boot.menTodo.isEmpty || (s.ctxRes 0 && !s.atBoundary (s.ctxAt 0)) then s
    else
      let t := s.modBoot (fun b => { b with startTodo := none })
      let u := if t.heap.en then (t.modHeap (fun h => { h with en := false })).closeOpenBlocks else t
      u.startContext i a

/-- The waiting resets of clusters whose slots now stand at boundaries (R505). -/
def State.finishResets (s : State) : State :=
  s.boot.resets.foldl (fun t e => (t.modBoot (fun b => { b with resets := b.resets.filter (fun x => x.1 != e.1) })).clusterReset e.1 e.2) s

/-- What waited for slots to stand at boundaries and now can happen (R495, R505). -/
def State.atBoundaries (s : State) : State := s.finishResets.finishMen.finishStart

/-- CTXRST (R506). -/
def State.ctxReset (s : State) (n : Nat) : State :=
  (((((s.evictCtx n).dropSubs n).unholdAll n).withdrawOf n).dropCheckpoint n).wipeCtx n

end Sys2Proof.Machine
end

