-- ==== Sys2Proof/Machine/Host.lean ====
section
/-! DEFINITION. The host interface (chapter 16): the control window, version negotiation, doorbells, the memory and ingest
windows, DMA, and the resets of the PCIe functions. The mailbox messages stand in Dict. -/

namespace Sys2Proof.Machine

/-! ### Functions -/

/-- Protocol versions as `OHPVER` gives them (R388). -/
def ver12 : Nat := 0x0102
def ver21 : Nat := 0x0201
def ver30 : Nat := 0x0300

/-- Mailbox slots in use at the negotiated version (R390). -/
def Func.depth (x : Func) : Nat := if x.ver == ver12 then 1 else 32

/-- DBAPP and HIRQ are served (R390). -/
def Func.signals (x : Func) : Bool := x.en && x.ver != ver12

/-- Set `VERR` or `MERR`; a change of either signals vector 1 (R388). -/
def State.setErrs (s : State) (f : Nat) (verr merr : Bool) : State :=
  let x := s.func f
  let t := s.setFunc f { x with verr := verr, merr := merr }
  if x.verr != verr || x.merr != merr then t.signal f 1 else t

/-- A request of function `f`. -/
def DictReq.ofFunc (f : Nat) (r : DictReq) : Bool := match r.src with | .ohp g _ => g == f | _ => false

/-- Unanswered requests are discarded and the counts become 0 (R396). -/
def State.mailboxReset (s : State) (f : Nat) : State :=
  (s.modFunc f (fun x => { x with reqpc := 0, rspcc := 0, rsppc := 0, taken := 0 })).modDict (fun d => { d with
    queue := d.queue.filter (fun r => !r.ofFunc f) })

/-- The mailbox service ends (R389, R396). -/
def State.stopMailbox (s : State) (f : Nat) : State :=
  (s.mailboxReset f).modFunc f (fun x => { x with en := false, fen := false, rdy := false, ver := 0 })

/-- Negotiation (R389). -/
def State.negotiate (s : State) (f : Nat) : State :=
  let x := s.func f
  let set := if x.offer == 0 then 1 else x.offer % 8
  let v := if set.testBit 2 then ver30 else if set.testBit 1 then ver21 else if set.testBit 0 then ver12 else 0
  if v == 0 then (s.modFunc f (fun x => { x with fen := false })).setErrs f true x.merr
  else (s.mailboxReset f).modFunc f (fun x => { x with ver := v, en := true, fen := true, rdy := false })

/-- A write of OHPCTL (R388, R389, R396). -/
def State.ohpctl (s : State) (f : Nat) (v : Word64) : State :=
  let t := s.modFunc f (fun x => { x with offer := field v 6 4 })
  let t := if bit v 1 then t.mailboxReset f else t
  if bit v 0 then (if (t.func f).en then t else t.negotiate f) else t.stopMailbox f

/-- A write of DBREQ (R390), a wake event (R465); with no version in force the count is stored and serves nothing. -/
def State.dbreq (s : State) (f : Nat) (v : Word64) : State :=
  let x := s.func f
  let n := field v 15 0
  let ahead := fun (c : Nat) => (c + 65536 - x.rspcc) % 65536
  if !x.en then s.setFunc f { x with reqpc := n }
  else if x.depth < ahead n || ahead n < ahead x.reqpc then s.setErrs f x.verr true
  else (s.setFunc f { x with reqpc := n }).wakeTo 3

/-- A write of DBAPP (R388, R390, R509): version 1.2 discards it, a host load's included; with no version in force it serves only the wait
for a host load (log entry 75). -/
def State.dbapp (s : State) (f : Nat) (v : Word64) (chk : SigCheck) : State :=
  let x := s.func f
  let n := field v 31 0
  let t := if !x.signals then s
    else
      let u := s.setFunc f { x with appval := n }
      if x.acen then u.post x.appch else u
  if f == 0 && !(x.en && x.ver == ver12) then t.hostLoaded n chk else t

/-- HFSIG (R390, R398): a new bit signals vector 2 (R388), and `VEC` is sent after it (log entry 126). -/
def State.hfsig (s : State) (f : Nat) (v : Word64) : State :=
  let x := s.func f
  if !x.signals then s
  else
    let t := s.setFunc f { x with hirq := setBit x.hirq (field v 5 0) true }
    (if !bit x.hirq (field v 5 0) && field v 42 32 != 2 then t.signal f 2 else t).signal f (field v 42 32)

/-- Send the pending vectors that may now be sent. -/
def State.flushMsix (s : State) (f : Nat) : State :=
  ((s.func f).pba.flatMap (fun e => (List.range 8).filterMap (fun b => if bit e.2 b then some (8 * e.1 + b) else none))).foldl
    (fun t v =>
      let x := t.func f
      if x.sends v then
        (t.setFunc f { x with pba := SMap.set 0 x.pba (v / 8) (setBit (SMap.get 0 x.pba (v / 8)) (v % 8) false) }).emit (.msix f v)
      else t) s

/-- The bits of the uncorrectable error status: Unsupported Request, ECRC Error and Poisoned TLP Received. -/
def aerUnsupported : Nat := 20
def aerEcrc : Nat := 19
def aerPoisoned : Nat := 12

/-- A write's TLP that is discarded and logged: a poisoned one (R386), or one whose ECRC does not hold while the function checks ECRC (R382,
log entry 116). -/
def State.tlpLost (s : State) (f : Nat) (poisoned ecrcBad : Bool) : Option State :=
  if poisoned then some (s.aer f aerPoisoned)
  else if ecrcBad && (s.func f).cfg.ecrcCheck then some (s.aer f aerEcrc)
  else none

/-! ### The control window (R388) -/

/-- A control-window register as the host reads it. `HIRQ` reads 0 at version 1.2, and also where no version is in force, which the spec
does not say; its bits stay (R390, log entry 75). -/
def State.ohpReg (s : State) (f off : Nat) : Nat :=
  let x := s.func f
  if off == 0x00 then 0x6416 * 2 ^ 48 + 0xB1 * 2 ^ 40 + 7 * 2 ^ 32 + f
  else if off == 0x10 then x.offer * 16 + b2n x.fen
  else if off == 0x18 then
    x.rsppc * 2 ^ 32 + b2n (s.dict.owner == f + 1) * 128 + b2n x.verr * 16 + b2n x.merr * 8 +
      b2n (match s.power.trans with | .leaving _ => true | _ => false) * 4 + b2n x.rdy * 2 + b2n x.en
  else if off == 0x40 then x.ver
  else if off == 0x80 then x.reqpc
  else if off == 0x88 then x.rspcc
  else if off == 0xA0 then x.tolus
  else if off == 0xA8 then (if x.signals then x.hirq.toNat else 0)
  else 0

/-- A register write by the host: `v` in place, `hi` where only bits [63:32] are written. -/
def State.ohpPut (s : State) (f off : Nat) (v : Word64) (hi : Bool) : State :=
  let x := s.func f
  if off == 0xA8 then s.setFunc f { x with hirq := x.hirq &&& ~~~v }
  else if hi then s
  else if off == 0x10 then s.ohpctl f v
  else if off == 0x18 then s.setErrs f (x.verr && !bit v 4) (x.merr && !bit v 3)
  else if off == 0x80 then s.dbreq f v
  else if off == 0x88 then s.setFunc f { x with rspcc := field v 15 0 }
  else if off == 0x90 then
    let (c, t) := s.freshChk
    t.dbapp f v c
  else if off == 0xA0 then (s.setFunc f { x with tolus := field v 31 0 }).tolWake
  else s

/-- One byte of a host write beyond the registers: mailbox slots and the MSI-X table take it. -/
def Func.putByte (x : Func) (a : Nat) (b : Byte) : Func :=
  if 0x2000 ≤ a && a < 0x4000 then { x with req := SMap.set 0 x.req (a - 0x2000) b }
  else if 0x4000 ≤ a && a < 0x6000 then { x with rsp := SMap.set 0 x.rsp (a - 0x4000) b }
  else if 0x8000 ≤ a && a < 0x10000 then { x with msix := SMap.set (msixDefault (a - 0x8000)) x.msix (a - 0x8000) b }
  else x

def Func.putBytes (x : Func) : Nat → List Byte → Func
  | _, [] => x
  | a, b :: l => (x.putByte a b).putBytes (a + 1) l

/-- A host write to the control window; a poisoned TLP is discarded (R386). With PCIe off after a power failure nothing arrives
(R376). A window is open while Memory Space Enable is set. -/
def State.controlWrite (s : State) (f off : Nat) (w : WireData) : State :=
  let data := w.bytes
  let n := data.length
  if !s.mainRuns then s
  else match s.tlpLost f w.poisoned w.ecrcBad with
  | some t => t
  | none =>
  if !(s.func f).mse then s
  else if off < 0x100 then
    if (n == 4 || n == 8) && off % n == 0 then
      s.ohpPut f (off / 8 * 8) (BitVec.ofNat 64 (leValue data * (if off % 8 == 4 then 2 ^ 32 else 1))) (off % 8 == 4)
    else s
  else (s.modFunc f (fun x => x.putBytes off data)).flushMsix f

/-! ### The memory window (R384, R386, R387) -/

/-- The HBM address of window offset `off` where the unit is mapped with the right that `write` needs. -/
def State.windowPa (s : State) (f off : Nat) (write : Bool) : Option Nat :=
  let x := s.func f
  let u := off / 2 ^ 30
  let e := SMap.get {} x.mw u
  if x.mse && u < 2 ^ x.mwsize && e.v && (if write then e.wr else e.rd) then some (e.hbase * 2 ^ 30 + off % 2 ^ 30) else none

/-- The parts of an access of `n` bytes at `off`, cut at unit boundaries: offset and length. -/
def unitParts (off n : Nat) : List (Nat × Nat) :=
  if n == 0 then []
  else (List.range ((off + n - 1) / 2 ^ 30 + 1 - off / 2 ^ 30)).map (fun i =>
    let lo := max off ((off / 2 ^ 30 + i) * 2 ^ 30)
    (lo, min (off + n) ((off / 2 ^ 30 + i + 1) * 2 ^ 30) - lo))

/-- One part of a host read; one whose mesh transfer failed has the poisoned indication (R481, log entry 143). -/
def State.windowRead (s : State) (f off n : Nat) (mesh : Bool) : State :=
  match s.windowPa f off false with
  | none => (s.emit (.unsupported f)).aer f aerUnsupported
  | some pa =>
    let (bs, t) := s.agentBytes pa n
    if mesh then ((t.meshLost pa).emit (.poisoned f bs)).aer f aerPoisoned
    else if (granulesOf pa n).any s.poisoned then (t.emit (.poisoned f bs)).aer f aerPoisoned else t.emit (.readData f bs)

/-- A host read through the memory window. -/
def State.memRead (s : State) (f off : Nat) (r : ReadRun) : State :=
  (unitParts off r.len).foldl (fun t p =>
    (match t.windowPa f p.1 false with | some pa => t.eccFinds pa p.2 r.ecc | none => t).windowRead f p.1 p.2 r.meshFailed) s

/-- A read that no window serves: Unsupported Request (R384, R386). -/
def State.refuseRead (s : State) (f : Nat) : State := (s.emit (.unsupported f)).aer f aerUnsupported

/-- A byte of the control window as the host reads it, the registers apart (R388). -/
def Func.byteAt (x : Func) (a : Nat) : Byte :=
  if a < 0x100 then 0xFF#8
  else if 0x1000 ≤ a && a < 0x1100 then SMap.get 0 x.pba (a - 0x1000)
  else if 0x2000 ≤ a && a < 0x4000 then SMap.get 0 x.req (a - 0x2000)
  else if 0x4000 ≤ a && a < 0x6000 then SMap.get 0 x.rsp (a - 0x4000)
  else if 0x8000 ≤ a && a < 0x10000 then SMap.get (msixDefault (a - 0x8000)) x.msix (a - 0x8000)
  else 0

/-- A host read of the control window (R385, R388): whole after every earlier write of the function, as commands are. -/
def State.controlRead (s : State) (f off n : Nat) : State :=
  if !(s.func f).mse then s.refuseRead f
  else if off < 0x100 && (n == 4 || n == 8) && off % n == 0 then
    s.emit (.readData f (((leBytes 8 (s.ohpReg f (off / 8 * 8))).drop (off % 8)).take n))
  else s.emit (.readData f ((List.range n).map (fun i => (s.func f).byteAt (off + i))))

/-- The size of a window (R384). -/
def Func.windowSize (x : Func) (w : Nat) : Nat :=
  if w == 0 then 2 ^ 16 else if w == 1 then 2 ^ (30 + x.mwsize) else 2 ^ 28

/-- A doubleword of the header of the configuration space (R383; log entry 116): identifiers, command, class code, base addresses. The
spec gives no other of its contents, and not where the registers of R382 stand: their held bits show there, every other bit is a free
value. -/
def State.configDword (s : State) (f off : Nat) : Nat × State :=
  let x := s.func f
  if off == 0 then (0x6416 * 2 ^ 16 + 0x1E9B, s)
  else if off == 4 then (b2n x.bme * 4 + b2n x.mse * 2, s)
  else if off == 8 then (0x118000 * 2 ^ 8 + 0xB1, s)
  else if 0x10 ≤ off && off < 0x28 then
    let w := (off - 0x10) / 8
    let base := SMap.get 0 x.cfg.bars w + (if w == 0 then 4 else 12)
    ((if off % 8 == 0 then base else base / 2 ^ 32) % 2 ^ 32, s)
  else
    let (v, t) := s.fresh
    let c := x.cfg
    let w := v.setWidth 64
    let shown := match (List.range 7).find? (fun r => Config.capOffset r / 4 * 4 == off) with
      | some 0 => setField (setField w 7 5 c.mps) 14 12 c.mrrs
      | some 1 => setBit w 10 c.ltr
      | some 2 => setBit w 1 c.l1
      | some 3 => setBit (setBit w 0 c.l12) 1 c.l11
      | some 4 => setField (setBit (setBit w 31 c.msixEn) 30 c.msixMask) 26 16 2047
      | some 5 => c.aerStat.setWidth 64
      | some 6 => setBit (setBit w 6 c.ecrcGen) 8 c.ecrcCheck
      | _ => w
    (shown.toNat % 2 ^ 32, t)

/-- A host read of any window, or of a doubleword of configuration space (R383 to R386). After a power failure PCIe is off and answers
nothing (R376). -/
def State.hostRead (s : State) (f off : Nat) (r : ReadRun) (w : HostWindow) : State :=
  if !s.mainRuns then s
  else match w with
  | .memory => s.memRead f off r
  | .control => s.controlRead f off r.len
  | .ingest => s.refuseRead f
  | .config => let (v, t) := s.configDword f (off / 4 * 4); t.emit (.readData f (leBytes 4 v))

def State.countDrop (s : State) (f : Nat) : State :=
  s.modFunc f (fun x => { x with mwdrop := satAt 0xFFFFFFFF (x.mwdrop + 1) })

/-- The bytes of a write that fall in granule `g`; a partial write of a poisoned granule is discarded. -/
def State.putGranule (s : State) (f pa : Nat) (data : List Byte) (g : Nat) : State :=
  let lo := max pa (128 * g)
  let hi := min (pa + data.length) (128 * g + 128)
  if s.poisoned g && hi - lo < 128 then s.countDrop f
  else s.agentPut lo ((data.drop (lo - pa)).take (hi - lo))

/-- One part of a host write. -/
def State.windowWrite (s : State) (f off : Nat) (data : List Byte) : State :=
  match s.windowPa f off true with
  | none => (s.countDrop f).aer f aerUnsupported
  | some pa => (granulesOf pa data.length).foldl (fun t g => t.putGranule f pa data g) s

/-- A host or peer write through the memory window; a poisoned TLP is discarded. With PCIe off after a power failure nothing arrives
(R376). -/
def State.memWrite (s : State) (f off : Nat) (data : List Byte) (m : TlpMark) : State :=
  if !s.mainRuns then s
  else match s.tlpLost f (m == .poison) (m == .ecrcBad) with
  | some t => t
  | none => (unitParts off data.length).foldl (fun t p => t.windowWrite f p.1 ((data.drop (p.1 - off)).take p.2)) s

/-! ### The ingest window (R312, R313, R397) -/

def State.ingestOf (s : State) (k : Nat) : Ingest := SMap.get {} s.ingest k
def State.setIngest (s : State) (k : Nat) (v : Ingest) : State := { s with ingest := SMap.set {} s.ingest k v }

/-- The sample bytes of a slot. -/
def ingestEnd : Nat := 0xFFFF0

/-- The time of the `k`-th sample after an anchor (R313): rounded to nearest. -/
def ingestTime (anchor k : Nat) (d : Desc) : Nat :=
  match fpRat f64 (dPeriod d) with
  | some (n, m) => (anchor + (2 * k * n.toNat + m) / (2 * m)) % 2 ^ 64
  | none => anchor

/-- Samples enter the stream. -/
def State.ingestSamples (s : State) (g n key : Nat) (y : GySlot) : List Byte → Nat → State
  | _, 0 => s
  | l, k + 1 =>
    let fb := fmtBytes (dFmt y.desc)
    let i := s.ingestOf key
    let t := s.gyInput g n (sampleValue (dFmt y.desc) (leValue (l.take fb))) false (ingestTime i.anchor i.since y.desc)
    (t.setIngest key { i with since := i.since + 1 }).ingestSamples g n key y (l.drop fb) k

/-- Add to a slot's `INVAL`. -/
def State.addInval (s : State) (g n k : Nat) : State := s.modGySlot g n (fun y => { y with inval := satAt 0xFF (y.inval + k) })

/-- `k` skipped samples: each enters as the quiet NaN and counts in `INVAL` (R312, R314). -/
def State.ingestGap (s : State) (g n key : Nat) (y : GySlot) : Nat → State
  | 0 => s
  | k + 1 =>
    let i := s.ingestOf key
    let t := (s.gyInput g n qnan32 false (ingestTime i.anchor i.since y.desc)).addInval g n 1
    (t.setIngest key { i with since := i.since + 1 }).ingestGap g n key y k

/-- A write of sample bytes at slot offset `o`: skipped samples and a trailing part count as `INVAL`. -/
def State.ingestData (s : State) (g n key : Nat) (y : GySlot) (o : Nat) (data : List Byte) : State :=
  let fb := fmtBytes (dFmt y.desc)
  let i := s.ingestOf key
  let skip := (o + ingestEnd - i.next) % ingestEnd / fb
  let s1 := (s.ingestGap g n key y skip).addInval g n (if data.length % fb == 0 then 0 else 1)
  let s2 := s1.setIngest key { s1.ingestOf key with next := (o + data.length) % ingestEnd }
  s2.ingestSamples g n key y data (data.length / fb)

/-- A write to one slot, which lies wholly in it. -/
def State.ingestSlot (s : State) (f slot o : Nat) (data : List Byte) : State :=
  let key := 256 * f + slot
  match (s.fedBy 2 f slot).filter (fun e => e.2.2.running) with
  | [] => s.modFunc f (fun x => { x with idrop := satAt 0xFFFFFFFF (x.idrop + 1) })
  | (g, n, y) :: _ =>
    if ingestEnd ≤ o then
      if o == ingestEnd && data.length == 8 then s.setIngest key { s.ingestOf key with anchor := leValue data, since := 0 } else s
    else s.ingestData g n key y o (data.take (ingestEnd - o))

/-- A host or peer write to the ingest window, cut at slot boundaries. -/
def State.ingestWrite (s : State) (f off : Nat) (w : WireData) : State :=
  let data := w.bytes
  let n := data.length
  if !s.mainRuns then s
  else match s.tlpLost f w.poisoned w.ecrcBad with
  | some t => t
  | none =>
  if !(s.func f).mse || n == 0 then s
  else (List.range ((off + n - 1) / 2 ^ 20 + 1 - off / 2 ^ 20)).foldl (fun t i =>
    let k := off / 2 ^ 20 + i
    let lo := max off (k * 2 ^ 20)
    let hi := min (off + n) ((k + 1) * 2 ^ 20)
    t.ingestSlot f (k % 256) (lo % 2 ^ 20) ((data.drop (lo - off)).take (hi - lo))) s

/-! ### DMA (R400) -/

/-- The completion record of a DMA command on port 10. -/
def State.dmaDone (s : State) (v : Cell) (status value : Nat) : State :=
  s.present ⟨10, bit v 111, status, field v 110 95, field v 94 79, value⟩

/-- The transfer that a command's block describes, if nothing in it is reserved. -/
def State.dmaBlock (s : State) (v : Cell) : Option Dma :=
  let a := field v 47 0
  let c0 := s.cell a
  let c1 := s.cell (a + 16)
  let c2 := s.cell (a + 32)
  let len := field c2 31 0
  if a % 16 != 0 || hbmEnd < a + 48 || c0.tag != tagRAW || c1.tag != tagRAW || c2.tag != tagRAW then none
  else if c0.pay % 16 != 0 || c1.pay % 16 != 0 || len % 16 != 0 || len == 0 || field c2 61 32 != 0 || hbmEnd < c0.pay + len then none
  else some ⟨v, field v 115 112 == 1, c0.pay, c1.pay, field c2 63 62, len⟩

/-- Begin the waiting commands in order until one transfers. -/
def State.dmaNext (s : State) : List (Cell × Option Nat) → State
  | [] => { s with dmaQ := [] }
  | (v, mesh) :: l =>
    let cmd := field v 115 112
    let arg := field v 47 0
    if 2 < cmd || field v 78 48 != 0 || (cmd == 0 && arg != 0) then (s.dmaDone v 0x47 0).dmaNext l
    else if cmd == 0 then (s.dmaDone v 0 0).dmaNext l
    else if mesh.isSome then ((s.meshLost (mesh.getD 0)).dmaDone v 0x46 0).dmaNext l
    else if arg % 16 == 0 && (granulesOf arg 48).any s.poisoned then (s.dmaDone v 0x46 0).dmaNext l
    else match s.dmaBlock v with
      | none => (s.dmaDone v 0x47 0).dmaNext l
      | some d =>
        let t := (s.agentBytes arg 48).2
        if !(s.func d.func).bme then (t.dmaDone v 0x46 0).dmaNext l else { t with dma := some d, dmaQ := l }

/-- A write of a cell to DMCMD; `mesh` = the address of a mesh transfer of its block that failed (R481). -/
def State.dmcmd (s : State) (v : Cell) (mesh : Option Nat := none) : State :=
  if v.tag != tagRAW || v.epoch != 0 || s.boot.held then s
  else
    let t := s.wakeTo 3
    if t.dma.isSome then { t with dmaQ := t.dmaQ ++ [(v, mesh)] } else t.dmaNext [(v, mesh)]

/-- The transfer under way ends. -/
def State.dmaEnd (s : State) (d : Dma) (status value : Nat) : State :=
  let t := { s with dma := none }.dmaDone d.cmd status value
  t.dmaNext t.dmaQ

/-- DMA_TRANSFER_COMPLETE: all of it, or what moved before the failure; a mesh transfer that failed is recorded (R481). -/
def State.dmaComplete (s0 : State) (r : DmaResult) : State :=
  match s0.dma with
  | none => s0
  | some d =>
    let bad := r.failed || r.meshAt.isSome
    let s := match r.meshAt with | some pa => s0.meshLost pa.toNat | none => s0
    if d.toHost then
      let s := s.eccFinds d.hbm d.len r.ecc
      let want := if bad then min r.moved d.len else d.len
      let n := match (granulesOf d.hbm want).find? s.poisoned with
        | some g => min want (128 * g - d.hbm)
        | none => want
      let (bs, t) := s.agentBytes d.hbm n
      (t.emit (.hostWrite d.func d.bus bs)).dmaEnd d (if bad || n < want then 0x46 else 0) n
    else
      let got := r.data.take (if bad then min r.moved d.len else d.len)
      -- a poisoned granule that is not written whole ends the transfer (R292, R400)
      let bs := match (granulesOf d.hbm got.length).find? (fun g =>
          s.poisoned g && !(d.hbm ≤ 128 * g && 128 * g + 128 ≤ d.hbm + got.length)) with
        | some g => got.take (128 * g - d.hbm)
        | none => got
      (s.agentPut d.hbm bs).dmaEnd d (if bad || bs.length < d.len then 0x46 else 0) bs.length

/-- `n` bytes from `pa` on are written by an agent with values that the outside gave and no command carries: free values. -/
def State.freePut (s : State) (pa : Nat) : Nat → State
  | 0 => s
  | n + 1 =>
    let (v, t) := s.fresh
    (t.agentPut pa [v.setWidth 8]).freePut (pa + 1) n

/-- The transfer to function `f` is cut off (R396, R402): how much had moved, and what the host had sent, are free values. -/
def State.dmaCut (s : State) (f : Nat) : State :=
  match s.dma with
  | none => s
  | some d =>
    if d.func != f then s
    else
      let (v, t) := s.fresh
      let n := v.toNat % (d.len + 1)
      let u := if d.toHost then (let (bs, u) := t.agentBytes d.hbm n; u.emit (.hostWrite d.func d.bus bs)) else t.freePut d.hbm n
      u.dmaEnd d 0x46 n

/-! ### Resets of the functions (R396, R502) -/

/-- A function-level reset (R396): machine-side registers are kept. -/
def State.flr (s : State) (f : Nat) : State :=
  ((s.stopMailbox f).modFunc f (fun x => { x with
    offer := 0, tolus := 0, hirq := 0, bme := false, mse := false, cfg := {}, msix := [], pba := [] })).dmaCut f

/-- What a host load has written to HBM, at most 256 MiB from 0, is gone (R513, R521). -/
def State.dropLoaded (s : State) : State :=
  { s with mem := s.mem.filter (fun c => 2 ^ 28 ≤ c.1), poison := s.poison.filter (fun e => 2 ^ 28 ≤ 128 * e.1) }

/-- PERST_N (R387, R396, R502, R465): low resets the endpoint; rising is a wake event. -/
def State.perst (s : State) (high : Bool) : State :=
  if high then (s.modPower (fun p => { p with perstLow := false })).wakeTo 3
  else
    let t := foldUp (fun f u => u.flr f) 4 0 s
    -- a host load under way: the window stays mapped, the partial image is discarded (R521)
    let u := if s.boot.hostWait.isSome then t.dropLoaded else t
    u.sizeWindows.modPower (fun p => { p with link := .down, trained := false, perstLow := true })

/-- A configuration write (R382, R383, R396). A size code that R382 does not support changes nothing. -/
def State.configWrite (s : State) (f : Nat) (v : Word64) : ConfigReg → State
  | .command =>
    let t := s.modFunc f (fun x => { x with bme := bit v 2, mse := bit v 1 })
    if bit v 2 then t.flushMsix f else t.dmaCut f
  | .bar w =>
    if w.toNat == 3 then s
    else
      let z := (s.func f).windowSize w.toNat
      s.modCfg f (fun c => { c with bars := SMap.set 0 c.bars w.toNat (v.toNat / z * z) })
  | .deviceControl => s.modCfg f (fun c => { c with
      mps := if field v 7 5 ≤ 2 then field v 7 5 else c.mps, mrrs := if field v 14 12 ≤ 5 then field v 14 12 else c.mrrs })
  | .deviceControl2 => (s.modCfg f (fun c => { c with ltr := bit v 10, ltrSent := none })).ltrUpdate
  | .linkControl => s.modCfg f (fun c => { c with l1 := bit v 1 })
  | .l1Control => s.modCfg f (fun c => { c with l12 := bit v 0, l11 := bit v 1 })
  | .msixControl => (s.modCfg f (fun c => { c with msixEn := bit v 15, msixMask := bit v 14 })).flushMsix f
  | .aerStatus => s.modCfg f (fun c => { c with aerStat := c.aerStat &&& ~~~v.setWidth 32 })
  | .aerControl => s.modCfg f (fun c => { c with ecrcGen := bit v 6, ecrcCheck := bit v 8 })

/-- CLKREQ_N stands low, asking for the clock, while the link is in L0 or L1; it is released in L1.1 and L1.2 and where there is no link
(R382, log entry 116). -/
def State.clkreqLow (s : State) : Bool := s.power.link == .l0 || s.power.link == .l1

/-- PCIE_LINK_STATE_CHANGE (R458, R464). -/
def State.linkChange (s : State) (st : PcieLink) : State :=
  s.modPower (fun p => { p with
    link := st, trained := p.trained || st == .l0, wakeN := p.wakeN && st != .l0 })

/-! ### Machine-side registers (R398) -/

def MwEntry.word (e : MwEntry) : Nat := e.hbase * 2 ^ 30 + b2n e.wr * 4 + b2n e.rd * 2 + b2n e.v

/-- A read of a machine-side register of function `f`; HFCNT is cleared by it. -/
def State.hfRead (s : State) (f off : Nat) : Nat × State :=
  let x := s.func f
  if off == 0 then (b2n x.acen * 2 ^ 48 + x.appch * 2 ^ 32 + x.appval, s)
  else if off == 0x20 then (x.idrop * 2 ^ 32 + x.mwdrop, s.setFunc f { x with idrop := 0, mwdrop := 0 })
  else if 0x100 ≤ off && off < 0x500 then ((SMap.get {} x.mw ((off - 0x100) / 16)).word, s)
  else (0, s)

/-- A MWMAP value that R398 refuses. -/
def mwmapBad (v : Word64) : Bool := field v 63 48 != 0 || field v 29 3 != 0 || (bit v 0 && 48 ≤ field v 47 30)

/-- A write to a machine-side register: RESERVED_FIELD where MWMAP refuses it. -/
def State.hfPut (s : State) (f off : Nat) (v : Word64) : Except Nat State :=
  let x := s.func f
  if off == 0 then .ok (s.setFunc f { x with acen := bit v 48, appch := field v 47 32 })
  else if off == 0x10 then .ok (s.hfsig f v)
  else if 0x100 ≤ off && off < 0x500 then
    if mwmapBad v then .error cRESERVED_FIELD
    else .ok (s.setFunc f { x with
      mw := SMap.set {} x.mw ((off - 0x100) / 16) { hbase := field v 47 30, wr := bit v 2, rd := bit v 1, v := bit v 0 } })
  else .ok s

end Sys2Proof.Machine
end

