-- ==== Sys2Proof/Machine/Depend.lean ====
section
/-! DEFINITION. Live change and self-care (chapter 20) and debug access (chapter 22): patches, machine images, vent cores,
the scrub, the service rings, the unlock and the boundary scan. A function that answers a dictionary write gives an abort
code of R421, 0 for success, with the state. -/

namespace Sys2Proof.Machine

/-- `value valid but refused in the device's present state` (R421). -/
def abState : Nat := 0x08000026

/-! ### Microcode patches (R491 to R493) -/

/-- MCPATCH: the image is checked and staged, or refused and recorded (R492); refused while an activation is under way, which takes
the staged patch (log entry 93). -/
def State.mcPatch (s : State) (bytes : List Byte) (chk : SigCheck) : Nat × State :=
  if s.dep.mcstate == 4 then (abState, s)
  else match s.checkImage 2 ⟨bytes, chk⟩ with
  | .error e =>
    (abState, ((s.modDep (fun d => { d with mcstate := 3 })).modBoot (fun b => { b with err := e })).logErr 12 0 0x16 1 0
      (leAt bytes 8 4))
  | .ok i =>
    let t := (s.tuffWrite bytes.length).modDep (fun d => { d with mcstate := 2, mcStaged := some ⟨i.level, i.body⟩ })
    (0, (allCores.filter (fun c => t.coreActive c && t.coreOn c)).foldl (fun u c =>
      u.modCore c (fun k => { k with patch := { k.patch with idle := ⟨i.level, i.body⟩ } })) t)

/-- MCACT (R493): 1 activates the staged patch; 2 raises MCMIN too, at most 32 times; refused while an activation
is under way (log entry 93). -/
def State.mcAct (s : State) (v : Nat) : Nat × State :=
  match s.dep.mcStaged with
  | none => (if v == 0 then 0 else abState, s)
  | some p =>
    if v == 0 then (0, s)
    else if s.dep.mcstate == 4 || v == 2 && 32 ≤ s.dep.mcRaises then (abState, s)
    else
      let t := s.modDep (fun d => { d with
        mcstate := 4, mcTodo := allCores.filter (fun c => s.coreActive c && s.coreOn c)
        mcMinRaise := if v == 2 then some p.level else d.mcMinRaise
        mcRaises := if v == 2 then d.mcRaises + 1 else d.mcRaises })
      (0, t.mcFinish)

/-- PATCH_SWITCH (R493): a core at a quiescent boundary exchanges its banks. -/
def State.patchSwitch (s : State) (c : Nat) : State :=
  if s.quiescent c then s.switchBanks c else s

/-! ### Vent cores and the vent patch (R489, R490) -/

/-- VPATCH: checked under R492 and kept in the journal. -/
def State.vPatch (s : State) (bytes : List Byte) (chk : SigCheck) : Nat × State :=
  match s.checkImage 3 ⟨bytes, chk⟩ with
  | .error e => (abState, (s.modBoot (fun b => { b with err := e })).logErr 12 0 0x16 1 0 (leAt bytes 8 4))
  | .ok i => (0, (s.tuffWrite bytes.length).modDep (fun d => { d with vpatch := some (i.level, i.body) }))

/-- VPACT: VC3, VC2 and VC1 are to restart, one at a time. -/
def State.vpAct (s : State) (v : Nat) : State :=
  if v == 1 then s.modDep (fun d => { d with ventTodo := [3, 2, 1].filter (fun c => !d.ventRetired.contains c) }) else s

/-- A vent core's firmware starts again, which ends its restart; VC1 to VC3 take up the vent patch. -/
def State.ventStart (s : State) (v : Nat) : State :=
  let t := (s.ventRun v).modDep (fun d => { d with ventWait := d.ventWait.filter (· != v) })
  if v == 0 then t
  else t.modDep (fun d => { d with vplevel := SMap.set 0 d.vplevel v ((d.vpatch.map (·.1)).getD 0) })

/-- A failure of a vent core that runs: counted and recorded, and its restart begins, which VENT_RESTART ends; the third within 60 s
retires VC1 to VC3. -/
def State.ventFail (s : State) (v : Nat) : State :=
  if s.dep.ventRetired.contains v || (s.slot (Cx.vent v)).ctx.isNone then s
  else
    let recent := (SMap.get [] s.dep.ventTimes v).filter (fun t => s.now ≤ t + 60000000000)
    let t := ((s.countUp 0x8030 v 4).logErr 11 v 0x13 1 0 v).modDep (fun d => { d with
      ventTimes := SMap.set [] d.ventTimes v (s.now :: recent) })
    if v != 0 && 2 ≤ recent.length then
      ((t.setCore (64 + v) {}).modDep (fun d => { d with ventRetired := insertNat v d.ventRetired, ventTodo := d.ventTodo.filter (· != v) })).logErr
        11 v 0x14 3 0 v
    else (t.setCore (64 + v) {}).modDep (fun d => { d with ventWait := insertNat v d.ventWait })

/-- VENT_RESTART: the end of a restart that a failure began; else the next restart that VPACT ordered, one core at a time; else one
after a failure that no other command brought, from its beginning to its end. -/
def State.ventRestart (s : State) (v : Nat) : State :=
  if s.dep.ventWait.contains v then (if v == 0 || s.domainOn 110 then s.ventStart v else s)
  else
    let ordered := match s.dep.ventTodo with
      | w :: _ => w == v && s.domainOn 110 && s.dep.ventWait.isEmpty
      | [] => false
    if ordered then (s.modDep (fun d => { d with ventTodo := d.ventTodo.drop 1 })).ventStart v
    else
      let t := s.ventFail v
      if t.dep.ventWait.contains v then t.ventStart v else t

/-! ### Machine images (R494 to R496, R519) -/

/-- The slot that does not hold the running image. -/
def State.idleSlot (s : State) : Nat := 1 - s.dep.imgrun % 2

/-- An image slot is written, or its writing fails every retry: what it then holds is not stated, and the model leaves no image (R375,
R494, log entry 11). -/
def State.setSlotImage (s : State) (k : Nat) (l : List Byte) : State :=
  let (took, t) := s.tuffTry l.length
  t.modJr (fun j => { j with images := SMap.set [] j.images k (if took then l else []) })

/-- IMGCMD 1: IMGLEN bytes from IMGSRC are checked once and written to the idle slot. -/
def State.imgLoad (s : State) (chk : SigCheck) : Nat × State :=
  let st := s.dep.imgstate
  if st == 2 || st == 4 then (abState, s)
  else
    let src := s.dictNat 0x8110 0 0
    let len := s.dictNat 0x8110 1 0
    -- what does not lie in HBM, or is poisoned there, cannot be read: no image (log entry 129)
    let s := if src + len ≤ hbmEnd then s.eccFinds src len chk.ecc else s
    let (bs, t) := if s.canGet src len then s.agentBytes src len else ([], s)
    match t.checkImage 1 ⟨bs, chk⟩ with
    | .ok _ => (0, (t.setSlotImage s.idleSlot bs).modDep (fun d => { d with imgstate := 2 }))
    | .error e =>
      (0, ((t.modDep (fun d => { d with imgstate := 3 })).modBoot (fun b => { b with err := e })).logErr 13 0 0x17 1 0 3)

/-- IMGCMD 2: the handover request goes to the running image (R495 step 1). -/
def State.imgHandOver (s : State) : Nat × State :=
  if s.dep.imgstate != 2 || s.dep.handAt.isSome || s.dep.running.isNone then (abState, s)
  else
    let (v, t) := s.fresh
    (0, (t.modDep (fun d => { d with handAt := some s.now })).notice 0x0082 (field v 15 0) (s.dictNat 0x8110 0 0))

/-- IMGCMD 3: the idle slot is marked empty. -/
def State.imgCancel (s : State) : Nat × State :=
  if s.dep.imgstate != 2 then (abState, s)
  else (0, (s.setSlotImage s.idleSlot []).modDep (fun d => { d with imgstate := 0, handAt := none }))

/-- A write of IMGCMD. -/
def State.imgCmd (s : State) (v : Nat) (chk : SigCheck) : Nat × State :=
  if v == 1 then s.imgLoad chk else if v == 2 then s.imgHandOver else if v == 3 then s.imgCancel else (abState, s)

/-- The next entry of the request ring (R519): code, tag and cell 1, consumed. -/
def State.nextRequest (s : State) : Option (Nat × Nat × Nat × State) :=
  match s.serviceArea with
  | none => none
  | some a =>
    let p := s.cell (a + 0x1000)
    let c := s.cell (a + 0x1010)
    if p.int ≤ c.int then none
    else
      let at_ := a + 0x1100 + 16 * (c.pay % 256)
      let (c0, s1) := s.agentRead at_
      let (c1, s2) := s1.agentRead (at_ + 16)
      some (field c0 47 32, field c0 31 16, c1.pay, s2.agentWrite (a + 0x1010) (mkFIX (c.int + 4)))

/-- SERVICE_NOP (R519): request 0x0001 is answered; a code with no meaning is read and has no effect, as has an answer
that nothing asked for. -/
def State.serviceNop (s0 : State) : State :=
  if !s0.dictServed then s0 else
  -- the image may have made room in the notice ring
  let s := s0.sendHeld
  match s.nextRequest with
  | none => s
  | some (code, tag, _, t) =>
    if code == 2 && s.dep.imgstate == 2 && s.dep.handAt.isSome then s
    else if code == 1 then t.notice 0x0001 tag 0 else t

/-- IMGTMO has passed since the handover request or the start of the trial (R495). -/
def State.imgLate (s : State) : Bool :=
  match s.dep.handAt with
  | none => false
  | some t0 => t0 + 1000000 * s.entryNat 0x8113 0 ≤ s.now

/-- Each active core takes an image at its next quiescent boundary, and its start context starts with `a` once they all have (R495
steps 3 and 4). -/
def State.takeOver (s : State) (i : Image) (a : Cell) : State :=
  (s.modBoot (fun b => { b with menTodo := allCores.filter s.coreActive, startTodo := some (i, a) })).finishMen.finishStart

/-- Every active core has the old image's `MEN` back at once (R495 step 6). -/
def State.takeBack (s : State) (i : Image) (a : Cell) : State :=
  ((allCores.filter s.coreActive).foldl (fun t c => t.takeImage c i)
    (s.modBoot (fun b => { b with menTodo := [], startTodo := some (i, a) }))).finishStart

/-- HANDOVER_ANSWER (R495 steps 2 to 4): request 0x0002 brings the handover block; the new image starts in trial. -/
def State.handoverAnswer (s : State) : State :=
  if s.dep.imgstate != 2 || s.dep.handAt.isNone || s.imgLate || !s.dictServed then s
  else match s.nextRequest with
    | none => s
    | some (code, _, block, t) =>
      if code != 2 then s
      else match t.checkImage 1 ⟨SMap.get [] t.jr.images t.idleSlot, {}⟩ with
        | .error _ => t
        | .ok i =>
          let old := t.dep.running
          let u := ((t.loadBody i).modDep (fun d => { d with
            previous := old, imgstate := 4, handAt := some s.now, block := block })).modBoot (fun b => { b with rstkind := 0 })
          (u.writeService i 0).takeOver i (startA block 0 false)

/-- IMGCONF written 1 by a program (R495 step 5): the new image's slot becomes the boot slot. -/
def State.imgConf (s : State) (v : Nat) (program : Bool) : Nat × State :=
  if v == 0 then (0, s)
  else if s.dep.imgstate != 4 || !program || s.imgLate then (abState, s)
  else (0, ((s.modDep (fun d => { d with imgrun := s.idleSlot, imgstate := 5, handAt := none, previous := none })).modBoot
    (fun b => { b with slotBoot := true })).logErr 13 0 0x17 0 0 5)

/-- IMGTMO_EXPIRY (R495 steps 2 and 6): the handover is abandoned, or the trial is reverted, also where the new start
context is faulted first. -/
def State.imgTimeout (s : State) : State :=
  if !s.dictServed then s else
  match s.dep.handAt with
  | none => s
  | some _ =>
    let late := s.imgLate
    if s.dep.imgstate == 2 then
      if late then (s.modDep (fun d => { d with handAt := none })).logErr 13 0 0x17 1 0 2 else s
    else if !(late || s.boot.startTodo.isNone && s.ctxState 0 == 6) then s
    else
      let t := (s.modDep (fun d => { d with imgstate := 6, handAt := none, running := d.previous, previous := none })).logErr
        13 0 0x17 1 0 6
      match s.dep.previous with
      | some i => t.takeBack i (startA s.dep.block 0 true)
      | none => t

/-! ### Spares and the scrub (R483, R487, R488) -/

/-- SPARE_SELF_TEST (R483), in PS0 and PS1. -/
def State.spareTest (s : State) (k : Nat) (ok : Bool) : State :=
  match s.spareOf k with
  | none => s
  | some x =>
    if ok || 1 < s.power.ps then s
    else (s.modDep (fun d => { d with spare := SMap.set none d.spare k (some 0xFF) })).logErr 1 0 0x15 3 0 (9 * k + x)

/-- The scrub goes on to the next granule. -/
def State.scrubOn (s : State) : State :=
  s.modDep (fun d =>
    if d.scrub + 1 == hbmEnd / 128 then { d with scrub := 0, scrubPass := d.scrubPass + 1 } else { d with scrub := d.scrub + 1 })

/-- A scrub read that corrects data counts for its row, once in a pass; at four passes the row is a candidate. -/
def State.scrubHit (s : State) (g : Nat) : State :=
  s.modDep (fun d =>
    let (n, p) := SMap.get (0, 0) d.rowHits (rowName g)
    if p == d.scrubPass + 1 then d
    else { d with
      rowHits := SMap.set (0, 0) d.rowHits (rowName g) (n + 1, d.scrubPass + 1)
      candidates := if 4 ≤ n + 1 then insertNat (rowName g) d.candidates else d.candidates })

/-- HBM_SCRUB (R487), whose read leaves self-refresh (R459): `newer` = a write to the granule has been ordered at the home since
the read, and stands. -/
def State.scrub (s0 : State) (r : ScrubResult) (newer : Bool) : State :=
  let g := s0.dep.scrub
  let s := s0.hbmServes g
  if 3 < s.power.ps || s.dutyWaits 2 then s0
  else match r with
    | .clean => s.scrubOn
    | .corrected => ((s.hbmCorrected g).scrubHit g).scrubOn
    | .uncorrectable => (if newer then s else s.hbmLost g).scrubOn

/-! ### Debug unlock (R522 to R525) -/

/-- DBGSCOPE changes: what a scope no longer allows is cleared (R524). -/
def State.setScope (s : State) (v : Nat) : State :=
  { s with dbg := { s.dbg with
    scope := v
    obssel := if v.testBit 0 then s.dbg.obssel else []
    bkctl := if v.testBit 1 then s.dbg.bkctl else
      s.dbg.bkctl.foldl (fun m e => SMap.set 0 m e.1 (e.2 % 2 ^ 31)) s.dbg.bkctl } }

/-- A token is as R522 states, apart from its signature. -/
def tokenOk (l : List Byte) : Bool :=
  l.length == 112 && leAt l 0 8 == Config.serial.toNat && leAt l 8 1 < 8 && leAt l 9 1 ≤ 1 && leAt l 10 6 == 0

/-- UNLOCK (R523). -/
def State.unlock (s : State) (l : List Byte) (chk : SigCheck) : Nat × State :=
  if s.dbg.fails < 16 && tokenOk l && chk.keyOk && chk.sigOk then (0, s.setScope (s.dbg.scope ||| leAt l 8 1))
  else (abState, { s with dbg := { s.dbg with fails := satAt 0xFF (s.dbg.fails + 1) } })

/-- LOCK (R524). -/
def State.lock (s : State) (v : Nat) : State := if v == 1 then s.setScope 0 else s

/-- The scope bit that an entry of 0x9000 to 0x9FFF needs is 0 (R525). -/
def State.scopeShut (s : State) (index : Nat) : Bool :=
  if index == 0x9010 || index == 0x9011 then !s.dbg.scope.testBit 0
  else if index == 0x9020 || index == 0x9021 then !s.dbg.scope.testBit 1
  else false

end Sys2Proof.Machine
end

