-- ==== Sys2Proof/Machine/DictWrite.lean ====
section
/-! DEFINITION. Values and writes of dictionary entries (R404 to R408, R421): the two forms of a value, the checks of a write
in the order of R421, and what a write of each entry does. -/

namespace Sys2Proof.Machine

/-! ### Abort codes (R421) -/

def abMalformed : Nat := 0x05040001
def abSegment : Nat := 0x05040002
def abResource : Nat := 0x05040003
def abIndex : Nat := 0x06020011
def abSub : Nat := 0x06020012
def abAuthority : Nat := 0x08000025
def abReadWO : Nat := 0x06010010
def abWriteRO : Nat := 0x06010011
def abScope : Nat := 0x08000028
def abNotOwner : Nat := 0x08000024
def abClaim : Nat := 0x08000020
def abDesignate : Nat := 0x08000021
def abRemote : Nat := 0x08000022
def abType : Nat := 0x06060001
def abDim : Nat := 0x06060002
def abRange : Nat := 0x06090030
def abCommit : Nat := 0x08000027

/-- Who writes: a master, or a program that a context submits (R407, R429). -/
inductive Writer where
  | master (m : Nat)
  | program (ctx : Nat)
  deriving DecidableEq, Repr

/-! ### Forms of a value (R404 to R406) -/

/-- A continuation byte of UTF-8. -/
def utf8Tail (b : Byte) : Bool := b.toNat / 64 == 2

/-- Valid UTF-8; the first argument bounds the number of characters. -/
def utf8Ok : Nat → List Byte → Bool
  | _, [] => true
  | 0, _ => false
  | n + 1, a :: l =>
    let x := a.toNat
    if x < 0x80 then utf8Ok n l
    else match l with
      | b :: l1 =>
        let y := b.toNat
        if 0xC2 ≤ x && x ≤ 0xDF then utf8Tail b && utf8Ok n l1
        else match l1 with
          | c :: l2 =>
            if 0xE0 ≤ x && x ≤ 0xEF then
              utf8Tail b && utf8Tail c && !(x == 0xE0 && y < 0xA0) && !(x == 0xED && 0x9F < y) && utf8Ok n l2
            else match l2 with
              | d :: l3 =>
                0xF0 ≤ x && x ≤ 0xF4 && utf8Tail b && utf8Tail c && utf8Tail d && !(x == 0xF0 && y < 0x90) &&
                  !(x == 0xF4 && 0x8F < y) && utf8Ok n l3
              | [] => false
          | [] => false
      | [] => false

/-- CAP-handle `v` still names what it was issued for (R406): held in the table, or as the free value of log entry 142 says. -/
def State.handleLive (s : State) (v : Nat) : Bool :=
  (SMap.get none s.dict.handles v).isSome || Config.handleLive s.dict.tick v

/-- A scalar value of the entry, in its natural width. -/
def State.scalarForm (s : State) (index : Nat) (e : Entry) (v : Nat) : Except Nat (List Byte) :=
  if e.ty == tyHANDLE && v != 0 && !s.handleLive v then .error abRange
  else if !inRange e.ty index v then .error abRange
  else .ok (leBytes (tyWidth e.ty) v)

/-- A QTY value (R405). -/
def qtyForm (index : Nat) (e : Entry) (c : Cell) : Except Nat (List Byte) :=
  if c.tag != tagQTY then .error abType
  else if c.qDim != e.dim || c.qAbs != e.abs then .error abDim
  else if c.epoch != 0 then .error abRange
  else if (index == 0x2101 || index == 0x2102) && !tempInRange index c.payload then .error abRange
  else .ok (cellBytes (normalize c))

/-- A STR or OCTETS value of bytes `l`. -/
def bytesForm (e : Entry) (l : List Byte) : Except Nat (List Byte) :=
  if e.limit < l.length || (e.ty == tySTR && !utf8Ok l.length l) then .error abRange
  else .ok (leBytes 2 l.length ++ l)

/-- A value in message form (R393). -/
def State.messageForm (s : State) (index : Nat) (l : List Byte) (e : Entry) : Except Nat (List Byte) :=
  if e.ty == tyQTY then
    if l.length != 16 then .error abType else qtyForm index e (BitVec.ofNat 128 (leValue l))
  else if tyBytes e.ty then
    if l.length < 2 || l.length != 2 + leAt l 0 2 then .error abType else bytesForm e (l.drop 2)
  else if l.length != 8 then .error abType
  else if 256 ^ tyWidth e.ty ≤ leValue l then .error abRange
  else s.scalarForm index e (leValue l)

/-- The bytes of a program's string: L, then 8 bytes to a RAW cell; a reserved field of any of them is refused (R404, R421). -/
def stringOfCells (c : Cell) (rest : List Cell) : Except Nat (List Byte) :=
  let n := c.pay
  let k := cdiv n 8
  if c.tag != tagRAW || (rest.take k).length != k || !(rest.take k).all (fun x => x.tag == tagRAW) then .error abType
  else if c.reserved || (rest.take k).any Cell.reserved then .error abRange
  else .ok (((rest.take k).flatMap (fun x => leBytes 8 x.pay)).take n)

/-- A binary32 word as a FLO's payload, exactly (R404): a NaN keeps its sign and fraction. -/
def widenF32 (w : Nat) : Nat :=
  if fpIsNaN f32 w then (w / 2 ^ 31 % 2) * 2 ^ 63 + 0x7FF * 2 ^ 52 + (w % 2 ^ 23) * 2 ^ 29 else (fpConvert f32 f64 0 w).1

/-- The binary32 word that a FLO's payload is exactly, if there is one (R404). -/
def narrowF32 (x : Nat) : Option Nat :=
  let w := if fpIsNaN f64 x then (x / 2 ^ 63 % 2) * 2 ^ 31 + 0xFF * 2 ^ 23 + x / 2 ^ 29 % 2 ^ 23 else (fpConvert f64 f32 0 x).1
  if widenF32 w == x then some w else none

/-- A value in program form (R404): its cells from the request block. -/
def State.programForm (s : State) (index : Nat) (cells : List Cell) (e : Entry) : Except Nat (List Byte) :=
  let c := nthD 0 cells 0
  let t := c.tag
  let ty := e.ty
  if ty == tyQTY then qtyForm index e c
  else if tyBytes ty then
    if t == tagRAW && e.limit < c.pay then .error abRange
    else match stringOfCells c (cells.drop 1) with
      | .ok l => bytesForm e l
      | .error x => .error x
  else
    let tagOk :=
      if ty == tyBOOL then t == tagCONST
      else if ty == tyF32 || ty == tyF64 then t == tagFLO
      else if ty == tyTIME then t == tagTIME
      else if ty == tyHANDLE then t == tagRAW
      else if 0x06 ≤ ty then t == tagFIX
      else t == tagFIX || t == tagRAW
    if !tagOk then .error abType
    else if c.reserved then .error abRange
    else if ty == tyBOOL then (if c.pay == 1 || c.pay == 2 then s.scalarForm index e (2 - c.pay) else .error abRange)
    else if ty == tyF32 then
      match narrowF32 c.pay with
      | some w => s.scalarForm index e w
      | none => .error abRange
    else if 0x06 ≤ ty && ty ≤ 0x09 then
      let n := 8 * tyWidth ty
      if signedOf n c.pay == c.int then s.scalarForm index e (wrapInt n c.int) else .error abRange
    else if 256 ^ tyWidth ty ≤ c.pay then .error abRange
    else s.scalarForm index e c.pay

/-- Message bytes as the cells of the program form (R404). -/
def toProgram (e : Entry) (l : List Byte) : List Cell :=
  let v := leValue l
  let n := 8 * tyWidth e.ty
  if e.ty == tyQTY then [BitVec.ofNat 128 v]
  else if tyBytes e.ty then mkRAW (leAt l 0 2) :: packRaw (cdiv (l.length - 2) 8) (l.drop 2)
  else if e.ty == tyBOOL then [constBool (v == 1)]
  else if e.ty == tyF32 then [mkFLO (BitVec.ofNat 64 (widenF32 v))]
  else if e.ty == tyF64 then [mkFLO (BitVec.ofNat 64 v)]
  else if e.ty == tyTIME then [mkTIME v]
  else if e.ty == tyHANDLE then [mkRAW v]
  else if 0x06 ≤ e.ty then [mkFIX (signedOf n v)]
  else if v < 2 ^ 63 then [fixOfNat v]
  else [mkRAW v]

/-! ### The checks of a write (R407, R421) -/

/-- The ID of a master that can own: none reserved. -/
def masterId (m : Nat) : Bool := m ≤ 4 || (0x10 ≤ m && m ≤ 0x9F)

/-- A designation that is refused (R417): the owner itself, a reserved ID, or master 0x00 in remote mode; 0xFF cancels. -/
def State.badDesignee (s : State) (v : Nat) : Bool :=
  v != 0xFF && (!masterId v || v == s.dict.owner || (v == 0 && !s.dict.loc))

/-- The checks of a write to index:subindex by `who`, in the order of R421: the entry and the value's bytes, or the code. -/
def State.judgeWrite (s : State) (who : Writer) (index sub : Nat) (auth : Bool) (form : Entry → Except Nat (List Byte)) :
    Except Nat (Entry × List Byte) :=
  match s.entryOf index sub with
  | none => .error (if s.indexExists index then abSub else abIndex)
  | some e =>
    let closed := match who with
      | .master m => e.acc == acRO || (index == 0x2001 && sub != m)
      | .program c => (e.acc == acRO && !((s.published index sub).any (fun p => p.owner == c))) ||
          (0x3000 ≤ index && index ≤ 0x30FF) || index == 0x6103
    let stranger := match who with
      | .master m => e.acc == acOW && m != s.dict.owner
      | .program _ => false
    if !auth then .error abAuthority
    else if e.acc == acCONST || closed then .error abWriteRO
    else if s.scopeShut index then .error abScope
    else if stranger then .error abNotOwner
    else match form e with
      | .error x => .error x
      | .ok b => if index == 0x3002 && s.badDesignee (leValue b) then .error abDesignate else .ok (e, b)

/-! ### What a write does -/

/-- The value of a QTY entry's first word compared: `a` below `b`. -/
def ltF64 (a b : Nat) : Bool := fpCompare f64 (a % 2 ^ 64) (b % 2 ^ 64) == Rel.less

/-- A value that is refused in the present state before anything happens (R446, R451, R477, R500). -/
def State.stateRefuses (s : State) (index v : Nat) : Bool :=
  if index == 0x2101 then ltF64 (s.entryNat 0x2102 0) v
  else if index == 0x2102 then ltF64 v (s.entryNat 0x2101 0)
  else if index == 0x6100 || index == 0x6104 then s.panel.eforce
  else if index == 0x6103 then v == 1 && !s.eresetOk
  else if index == 0x8012 then !s.coreActive v || (s.spareOf (v / 8)).isNone
  else false

/-- Keep a value; a persistent one is committed to the journal before it is answered (R408, R369). `fails` writes of the commit fail
verify; where all four do, the entry keeps its old value (R375, R421). -/
def State.keepValue (s : State) (index sub : Nat) (e : Entry) (b : List Byte) (fails : Nat) : Nat × State :=
  let hold := fun (t : State) => t.modDict (fun d => { d with vals := SMap.set none d.vals (dkey index sub) (some b) })
  if !e.persist then (0, hold s)
  else if s.jr.pf != PfPhase.normal then (abCommit, s)
  else
    let t := s.finishCommits s.jr.open_.length
    let u := (t.accept (t.newCommit .dictionary [] [] [(dkey index sub, b)])).commitComplete fails (fails < 4)
    if 4 ≤ fails then (abCommit, u)
    else
      let v := if (s.published index sub).isSome then
          (hold u).modJr (fun j => { j with pubTypes := SMap.set 0 j.pubTypes (dkey index sub) e.ty })
        else hold u
      (0, if index == 0x2200 || index == 0x6100 then v.setShadow else v)

/-- What follows at once a value that was kept in state `old`: PTP, ports, cluster clocks, tolerances (R465). -/
def State.afterValue (s old : State) (index sub : Nat) : State :=
  if index == 0x2410 || index == 0x2411 then s.ptpConfig
  else if index == 0x1200 then (if old.portEnabled (4 + sub) then s else s.latchBase sub).refreshDomains
  else if index == 0x1101 || index == 0x2020 then s.refreshDomains
  else if index == 0x2001 || index == 0x2002 then s.tolWake
  else if index == 0x2010 then s.modPower (fun p => { p with plls := maskSet p.plls sub false })
  else s

/-- DESIGNEE is written (R417, R420): a designation opens, or the open one is cancelled. -/
def State.designate (s : State) (v : Nat) : State :=
  if v == 0xFF && s.dict.designee == 0xFF then s
  else s.modDict (fun d => { d with
    designee := v, desTick := if v == 0xFF then none else some d.tick, why := if v == 0xFF then 8 else 7, changed := true })

/-- A master's write of a published entry posts to its channel (R430). -/
def State.publishedPost (s : State) (who : Writer) (index sub : Nat) : State :=
  match who, s.published index sub with
  | .master _, some p => s.post p.nchan
  | _, _ => s

/-- The effect of a write that has passed the checks: an abort code, 0 for success, and the state. -/
def State.writeEntry (s : State) (who : Writer) (index sub : Nat) (e : Entry) (b : List Byte) (x : WriteEnv) : Nat × State :=
  let v := leValue b
  let prog := match who with | .program _ => true | .master _ => false
  let keep := fun (r : Nat × State) =>
    if r.1 == 0 then (0, r.2.modDict (fun d => { d with vals := SMap.set none d.vals (dkey index sub) (some b) })) else r
  if s.stateRefuses index v then (abState, s)
  else if index == 0x1011 then (0, if v == 1 then s.modJr (fun j => { j with defaults := true }) else s)
  else if index == 0x1012 then (0, if v == 1 then s.warmReset x.env else s)
  else if index == 0x1013 then (0, s.clusterWrite v x.bad)
  else if index == 0x3002 then (0, s.designate v)
  else if index == 0x6103 then (0, if v == 1 then s.estopReset else s)
  else if index == 0x6211 then keep (0, s.buzzer v)
  else if index == 0x8012 then (0, (s.retire v).atBoundaries)
  else if index == 0x8100 then keep (s.mcPatch (b.drop 2) x.chk)
  else if index == 0x8103 then s.mcAct v
  else if index == 0x8104 then keep (s.vPatch (b.drop 2) x.chk)
  else if index == 0x8106 then keep (0, s.vpAct v)
  else if index == 0x8111 then s.imgCmd v x.chk
  else if index == 0x8114 then keep (s.imgConf v prog)
  else if index == 0x9000 then s.unlock (b.drop 2) x.chk
  else if index == 0x9002 then keep (0, s.lock v)
  else if index == 0x9010 then (0, { s with dbg := { s.dbg with 
    obssel := SMap.set 0 s.dbg.obssel sub v, obsAt := SMap.set 0 s.dbg.obsAt sub s.now } })
  else if index == 0x9020 then (0, { s with dbg := { s.dbg with bkaddr := SMap.set 0 s.dbg.bkaddr sub v } })
  else if index == 0x9021 then (0, { s with dbg := { s.dbg with bkctl := SMap.set 0 s.dbg.bkctl sub v } })
  else
    let (code, t) := s.keepValue index sub e b x.fails
    (code, if code == 0 then (t.afterValue s index sub).publishedPost who index sub else t)

/-- A write, checked and made: its abort code and the state. -/
def State.write (s : State) (who : Writer) (index sub : Nat) (auth : Bool) (form : Entry → Except Nat (List Byte))
    (x : WriteEnv) : Nat × State :=
  match s.judgeWrite who index sub auth form with
  | .error c => (c, s)
  | .ok (e, b) => s.writeEntry who index sub e b x

/-- The outside of a write that no command gives (log entry 49): free results of signature and self-test, the surroundings
of the latest start. -/
def State.freshEnv (s : State) : WriteEnv × State :=
  let (c, t) := s.freshChk
  let (v, u) := t.fresh
  ({ chk := c, env := s.boot.env, bad := (List.range 64).filter (fun i => bit v i) }, u)

/-- The writer of a command that is a dictionary write; 0xFE is a program. -/
def writerOf (w : DictWrite) : Writer := if w.master == 0xFE#8 then .program 0 else .master w.master.toNat

/-- A request of master `m` is its heartbeat (R411, R414). -/
def State.heartbeat (s : State) (m : Nat) : State :=
  s.modDict (fun d => { d with lastReq := SMap.set none d.lastReq m (some d.tick) })

/-- A dictionary write given as a command, of an entry with a row of its own, served in a tick of its own: the heartbeat, the
write and its answer (R411, R414, R421; log entry 140). -/
def State.direct (s : State) (w : DictWrite) (index : Nat) (x : WriteEnv) : State :=
  let t := match writerOf w with | .master m => s.heartbeat m | .program _ => s
  let (code, u) := t.write (writerOf w) index 0 true (t.messageForm index w.data) x
  u.emit (.answered w.master.toNat code)

end Sys2Proof.Machine
end

