-- ==== Sys2Proof/Machine/DictTick.lean ====
section
/-! DEFINITION. Dictionary messages and the dictionary tick (R391 to R394, R409 to R430, R433): how a request arrives through
the mailbox, a DFP frame or the dictionary port, and the fixed order in which the end of a tick applies its work. -/

namespace Sys2Proof.Machine

/-! ### Messages (R392, R393, R422) -/

/-- The message types. -/
def mNOP : Nat := 0x01
def mIDENT : Nat := 0x02
def mDREAD : Nat := 0x10
def mDWRITE : Nat := 0x11
def mDREADSEG : Nat := 0x12
def mDWRITESEG : Nat := 0x13
def mDMREAD : Nat := 0x14
def mHBEAT : Nat := 0x30
/-- The dictionary port's requests, beside them: 0x100 + `CMD`. -/
def mPort : Nat := 0x100

/-- A message type that exists at all. -/
def knownType (t : Nat) : Bool := [mNOP, mIDENT, mDREAD, mDWRITE, mDREADSEG, mDWRITESEG, mDMREAD, mHBEAT].contains t

/-- The types allowed at an OHP version (R390). -/
def typeAt (ver t : Nat) : Bool :=
  if t == mDREADSEG || t == mDWRITESEG then ver == ver21 || ver == ver30 else if t == mDMREAD then ver == ver30 else knownType t

/-- An entry specifier's reserved bytes are 0 (R393). -/
def specOk (p : List Byte) (o : Nat) : Bool := o + 8 ≤ p.length && leAt p (o + 3) 5 == 0

/-- The entry that a specifier names. -/
def specIndex (p : List Byte) : Nat := leAt p 0 2
def specSub (p : List Byte) : Nat := leAt p 2 1

/-- The payload of a request agrees with its type (R393, R394); whether a value's length agrees with its entry is a check of the write
(R421). -/
def msgFits (t : Nat) (p : List Byte) : Bool :=
  let n := p.length
  if t == mNOP || t == mIDENT || t == mHBEAT then n == 0
  else if t == mDREAD then n == 8 && specOk p 0
  else if t == mDWRITE then specOk p 0
  else if t == mDREADSEG then n == 12 && specOk p 0
  else if t == mDWRITESEG then 16 ≤ n && specOk p 0
  else if t == mDMREAD then n % 8 == 0 && 8 ≤ n && n ≤ 160 && (List.range (n / 8)).all (fun i => specOk p (8 * i))
  else false

/-- A message as VC1 takes it; `bad` = malformed as R394 says. -/
structure Msg where
  req : DictReq
  bad : Bool
  deriving DecidableEq, Repr

/-- The next request in the mailbox of function `f` (R391, R392). -/
def State.nextOhp (s : State) (f : Nat) : Option Msg :=
  let x := s.func f
  if !x.en || x.taken == x.reqpc then none
  else
    let b := fun (o n : Nat) => leValue ((List.range n).map (fun i => SMap.get 0 x.req (256 * (x.taken % x.depth) + o + i)))
    let t := b 0 1
    let len := b 6 2
    let p := leBytes (min len 240) (b 16 (min len 240))
    let bad := b 1 1 != 0 || b 4 2 != 0 || b 12 4 != 0 || (if x.ver == ver12 then 48 else 240) < len || !typeAt x.ver t ||
      !msgFits t p
    some ⟨{ src := .ohp f x.taken, master := f + 1, mtype := t, mtag := b 2 2, payload := p, time := s.now }, bad⟩

/-- A DFP message (R422): its fields, and whether `LEN` is over `lim`. -/
def State.dfpMsg (s : State) (src : Source) (lim : Nat) (m : List Byte) : Msg :=
  let len := leAt m 4 2
  let p := (m.drop 12).take len
  let t := leAt m 1 1
  ⟨{ src := src, master := leAt m 6 1, mtype := t, mtag := leAt m 2 2, payload := p, time := s.now },
    lim < len || p.length != len || !knownType t || !msgFits t p⟩

/-- A MAC address in the order that IEEE 802.3 fixes. -/
def macBytes (mac : Nat) : List Byte := (leBytes 6 mac).reverse
/-- The bytes of an OCTETS entry. -/
def State.octetsOf (s : State) (index sub : Nat) : List Byte :=
  match s.entryOf index sub with
  | some e => (s.entryValue index sub e).drop 2
  | none => []

/-- The header of a DFP request is accepted: `VER`, `DST`, and on T1S the source (R422, R425). -/
def State.t1sOk (s : State) (port mac : Nat) (m : List Byte) : Bool :=
  let src := leAt m 6 1
  12 ≤ m.length && leAt m 0 1 == 1 && leAt m 7 1 == 0xFE && 0x10 + 32 * port ≤ src && src ≤ 0x2F + 32 * port &&
    (s.entryNat 0x3201 0 == 1 || s.octetsOf 0x3200 (src - 0x10) == macBytes mac)

/-- The same on CAN (R427). -/
def State.canOk (s : State) (m : List Byte) : Bool :=
  let src := leAt m 6 1
  12 ≤ m.length && leAt m 0 1 == 1 && leAt m 7 1 == 0xFE && 0x90 ≤ src && src ≤ 0x9F && s.entryNat 0x3210 (src - 0x90) == 1

/-- The identifier of a frame from or to the device on CAN controller `c`, by the CBASE it was enabled with (R427, R431). -/
def State.canIdent (s : State) (c kind src dst : Nat) : Nat :=
  SMap.get 0x1A s.dict.canBase c * 2 ^ 24 + kind * 2 ^ 22 + src * 256 + dst

/-- A frame is accepted, and its port: 0 to 3 T1S, 4 and 5 CAN, with the source MAC and the message (R424 to R427). -/
def State.frameOk (s : State) : Via → Option (Nat × Nat × List Byte)
  | .ohp _ => none
  | .t1s port dst src et vlan fcs m =>
    let p := port.toNat
    if s.portOn s.power.ps p && fcs && !vlan && et == 0x88B5 && s.octetsOf 0x1100 p == macBytes dst.toNat &&
        s.t1sOk p src.toNat m then some (p, src.toNat, m)
    else none
  | .can c ident data =>
    let p := 4 + c.toNat
    if s.portOn s.power.ps p && data.length ≤ 64 && s.canOk data &&
        ident.toNat == s.canIdent c.toNat 2 (leAt data 6 1) (leAt data 7 1) then some (p, 0, data)
    else none

/-- The message of an accepted frame. -/
def State.frameMsg (s : State) (port mac : Nat) (m : List Byte) : Msg :=
  if port < 4 then s.dfpMsg (.t1s port mac) 1024 m else s.dfpMsg (.can (port - 4)) 52 m

/-! ### Answers (R391, R422, R428) -/

def putMap {α : Type} [DecidableEq α] (d : α) (m : SMap α) : Nat → List α → SMap α
  | _, [] => m
  | k, x :: l => putMap d (SMap.set d m k x) (k + 1) l

/-- A DFP message from the device. -/
def dfpBytes (mtype mtag dst status : Nat) (p : List Byte) : List Byte :=
  leBytes 1 1 ++ leBytes 1 mtype ++ leBytes 2 mtag ++ leBytes 2 p.length ++ leBytes 1 0xFE ++ leBytes 1 dst ++ leBytes 4 status ++ p

/-- Padding with zeros to the first of the lengths that holds the message. -/
def padTo (sizes : List Nat) (m : List Byte) : List Byte :=
  m ++ zeros ((sizes.find? (fun n => m.length ≤ n)).getD m.length - m.length)

def canSizes : List Nat := [12, 16, 20, 24, 32, 48, 64]

/-- Payload bytes that a response can hold. -/
def Source.room : Source → Nat
  | .ohp _ _ => 240
  | .t1s _ _ => 1024
  | .can _ => 52
  | .port _ => 0

/-- Send a response through the interface of its request. -/
def State.respond (s : State) (r : DictReq) (code : Nat) (p : List Byte) : State :=
  match r.src with
  | .ohp f _ =>
    let x := s.func f
    if !x.en then s
    else
      let n := x.rsppc
      let head := leBytes 2 r.mtype ++ leBytes 2 r.mtag ++ leBytes 2 0 ++ leBytes 2 p.length ++ leBytes 4 code ++ leBytes 4 0
      let y := { x with rsp := putMap 0 x.rsp (256 * (n % x.depth)) (head ++ p), rsppc := (n + 1) % 65536 }
      ((s.setFunc f y).emit (.ohpResponse f n code)).signal f 0
  | .t1s port mac => s.emit (.dfp false port mac (padTo [46] (dfpBytes r.mtype r.mtag r.master code p)))
  | .can c => s.emit (.dfp true c (s.canIdent c 1 0xFE r.master) (padTo canSizes (dfpBytes r.mtype r.mtag r.master code p)))
  | .port v => s.present ⟨14, bit v 111, b2n (code != 0), field v 110 95, field v 94 79, code⟩

/-- The payload of IDENT (R393). -/
def State.identBytes (s : State) (r : DictReq) : List Byte :=
  let (id, ver) := match r.src with
    | .ohp f _ => (s.ohpReg f 0, s.ohpReg f 0x40)
    | _ => (s.ohpReg 0 0, 0)
  leBytes 8 id ++ leBytes 8 ver ++ leBytes 8 (s.entryNat 0x1003 0)

/-! ### Arrival (R394, R411, R422) -/

/-- A request waits for the end of the tick. -/
def State.enqueue (s : State) (r : DictReq) : State := s.modDict (fun d => { d with queue := d.queue ++ [r] })

/-- A request that step 8 of the tick answers with `code`, without dictionary work (R411). -/
def State.answerWith (s : State) (r : DictReq) (code : Nat) : State := s.enqueue { r with code := code, payload := [] }

/-- The request came in a DFP frame. -/
def DictReq.isDfp (r : DictReq) : Bool := match r.src with | .t1s _ _ => true | .can _ => true | _ => false

/-- The master has 4 DFP or CAN requests outstanding already (R422). -/
def State.crowded (s : State) (r : DictReq) : Bool :=
  r.isDfp && 4 ≤ (s.dict.queue.filter (fun q => q.isDfp && q.master == r.master)).length

/-- A segment of a value (R393, R394): a break in the order discards the partial value; a fifth request leaves it (R421, R422). -/
def State.segment (s : State) (r : DictReq) : State :=
  let p := r.payload
  let key := 2 ^ 24 * r.master + dkey (specIndex p) (specSub p)
  let off := leAt p 8 4
  let total := leAt p 12 4
  let have_ := match SMap.get none s.dict.segs key with
    | some (t, l) => if off == 0 then some [] else if t == total && l.length == off then some l else none
    | none => if off == 0 then some [] else none
  let put := fun (x : Option (Nat × List Byte)) => s.modDict (fun d => { d with segs := SMap.set none d.segs key x })
  match have_ with
  | none => (put none).answerWith r abSegment
  | some l =>
    let got := l ++ p.drop 16
    if total < got.length then (put none).answerWith r abSegment
    else if s.crowded r then s.answerWith r abResource
    else if got.length < total then (put (some (total, got))).answerWith r 0
    else (put none).enqueue { r with payload := p.take 8 ++ got }

/-- A message arrives: every one is its master's heartbeat; a malformed one, or a fifth outstanding one of a master in DFP or CAN
frames, is refused and has no other effect (R394, R411, R414, R422). -/
def State.arrive (s : State) (m : Msg) : State :=
  let r := m.req
  let t := s.heartbeat r.master
  if m.bad then t.answerWith r abMalformed
  else if r.mtype == mDWRITESEG then t.segment r
  else if t.crowded r then t.answerWith r abResource
  else t.enqueue r

/-- A frame on a listening port in PS4 or PS5 is kept, up to 4 of a port, and wakes the device (R465). -/
def State.holdFrame (s : State) (port mac : Nat) (m : List Byte) : State :=
  let t := if (s.power.held.filter (fun h => h.1 == port)).length < 4 then
      s.modPower (fun p => { p with held := p.held ++ [(port, mac, m)] })
    else s
  t.wakeTo 3

/-- An accepted frame; while the vent core that serves the dictionary restarts it waits (R489). -/
def State.frameIn (s : State) (port mac : Nat) (m : List Byte) : State :=
  if s.dictServed then s.arrive (s.frameMsg port mac m)
  else if 4 ≤ s.power.ps then s.holdFrame port mac m
  else if s.dutyWaits 1 then s.modPower (fun p => { p with held := p.held ++ [(port, mac, m)] }) else s

/-- The frames kept in PS4 and PS5, or during a restart of the vent core, are served after it (R465, R489). -/
def State.serveHeld (s : State) : State :=
  if s.dictServed then
    s.power.held.foldl (fun t h => t.arrive (t.frameMsg h.1 h.2.1 h.2.2)) (s.modPower (fun p => { p with held := [] }))
  else s

/-- VC1 takes the next request of a mailbox. -/
def State.takeOhp (s : State) (f : Nat) (m : Msg) : State :=
  (s.modFunc f (fun x => { x with taken := (x.taken + 1) % 65536, rdy := true })).arrive m

/-- A command for messages of type `t` meets a message of that type, or of no type. -/
def typeIs (t : Nat) (m : Msg) : Bool := m.req.mtype == t || !knownType m.req.mtype

/-- A message of type `t` reaches VC1 through `via`. -/
def State.message (s : State) (t : Nat) : Via → State
  | .ohp f => match s.nextOhp f.toNat with
    | some m => if s.dictServed && typeIs t m then s.takeOhp f.toNat m else s
    | none => s
  | v => match s.frameOk v with
    | some (port, mac, m) => if typeIs t (s.frameMsg port mac m) then s.frameIn port mac m else s
    | none => s

/-! ### The dictionary port (R428 to R430) -/

/-- The cell that a DXCMD command writes. -/
def dxCell (c : DxCmd) (cmd : Nat) : Cell :=
  mkCell c.tag.toNat c.epoch.toNat
    (cmd * 2 ^ 48 + b2n c.dk * 2 ^ 47 + c.dest.toNat * 2 ^ 31 + c.rtag.toNat * 2 ^ 15 + b2n c.chk * 2 ^ 14 + c.ctx.toNat)
    (c.mid.toNat * 2 ^ 56 + c.rsvd.toNat * 2 ^ 48 + c.arg.toNat)

def dxCtx (v : Cell) : Nat := field v 77 64
def dxArg (v : Cell) : Nat := field v 47 0

/-- Cell `i` of a request block held as bytes. -/
def blockCell (p : List Byte) (i : Nat) : Cell := BitVec.ofNat 128 (leAt p (16 * i) 16)
def blockCells (p : List Byte) : List Cell := (List.range (p.length / 16)).map (blockCell p)
/-- The entry that the block names. -/
def blockIndex (p : List Byte) : Nat := field (blockCell p 0) 23 8
def blockSub (p : List Byte) : Nat := field (blockCell p 0) 7 0

/-- Cells of a value of type `ty` whose first cell is `c`: one, or a string's length and bytes. -/
def valueCells (ty limit : Nat) (c : Cell) : Nat :=
  if tyBytes ty && c.tag == tagRAW && c.pay ≤ limit then 1 + cdiv c.pay 8 else 1

/-- How many cells of the block at `a` a command needs (R429, R430). -/
def State.blockSize (s : State) (cmd a : Nat) : Nat :=
  let c0 := s.cell a
  let index := field c0 23 8
  if cmd == 2 then
    match s.entryOf index (field c0 7 0) with
    | some e => 1 + valueCells e.ty e.limit (s.cell (a + 16))
    | none => 1 + valueCells (if 0xA000 ≤ index && index < 0xC000 then tySTR else 0) 4096 (s.cell (a + 16))
  else if cmd == 3 then
    let c1 := s.cell (a + 16)
    let ty := field c1 7 0
    let first := if ty == tyQTY then 3 else 2
    first + valueCells ty (field c1 27 12) (s.cell (a + 16 * first))
  else 1

/-- A write of a cell to DXCMD (R428): the request joins the tick, whole, with its block. -/
def State.dxcmd (s : State) (v : Cell) : State :=
  if v.tag != tagRAW || v.epoch != 0 || s.boot.held then s
  else
    let cmd := field v 115 112
    let mid := field v 63 56
    let a := dxArg v
    let n := if cmd == 0 then 0 else s.blockSize cmd a
    let fieldsOk := cmd ≤ 4 && (mid == 0xFE || mid == 0) && field v 55 48 == 0 && a % 16 == 0
    let ok := fieldsOk && (cmd == 0 || (s.canGet a (16 * n) && (s.cell a).tag == tagRAW && !(s.cell a).reserved && field (s.cell a) 63 24 == 0))
    let (bytes, t) := if ok then s.agentBytes a (16 * n) else ([], s)
    let t := if mid == 0 then t.heartbeat 0 else t
    (t.enqueue { src := .port v, master := mid, mtype := mPort + cmd, mtag := 0, payload := bytes,
                 code := if ok then 0 else abMalformed, time := s.now }).wakeTo 3

/-- The authority of a program request (R155, R429): 1 = a master's, or unchecked. -/
def State.dxAuth (s : State) (v : Cell) (index sub : Nat) (write : Bool) : Bool :=
  if field v 63 56 == 0 || !bit v 78 then true
  else
    let c := s.rcell (dxCtx v) 23
    c.tag == tagCAP && !c.reserved && c.coversName (dkey index sub) && (!write || c.has rDICTW)

/-- The checks of PUBLISH (R421, R430). -/
def State.judgePublish (s : State) (v : Cell) (p : List Byte) : Except Nat Published :=
  let index := blockIndex p
  let sub := blockSub p
  let c1 := blockCell p 1
  let c2 := blockCell p 2
  let ty := field c1 7 0
  let e : Entry := { ty := ty, acc := field c1 10 8, persist := bit c1 11, limit := field c1 27 12, dim := c2.qDim, abs := c2.qAbs }
  if c1.tag != tagRAW then .error abMalformed
  else if 4096 ≤ s.dict.published.length then .error abResource
  else if !s.dxAuth v index sub true then .error abAuthority
  else if ty == tyQTY && c2.tag != tagQTY then .error abType
  else
    let d := s.programForm index ((blockCells p).drop (if ty == tyQTY then 3 else 2)) e
    match d with
    | .error x =>
      if x == abType || x == abDim then .error x else .error abRange
    | .ok b =>
      if c1.reserved || field c1 63 48 != 0 || field c1 31 28 != 0 || ty == 0 || 0x10 < ty || 4 < e.acc || (ty == tyQTY && c2.epoch != 0) ||
          (tyBytes ty && (e.limit == 0 || 4096 < e.limit)) || index < 0xA000 || 0xBFFF < index ||
          (s.entryOf index sub).isSome then .error abRange
      else .ok { owner := dxCtx v, type := ty, access := e.acc, persist := e.persist, limit := e.limit, nchan := field c1 47 32,
                 dim := e.dim, abs := e.abs, default := b }

/-- PUBLISH creates the entry; a persistent one of the same type keeps its journaled value (R430). -/
def State.publish (s : State) (key : Nat) (x : Published) : State :=
  let old := SMap.get none s.jr.entries key
  let keep := x.persist && SMap.get 0 s.jr.pubTypes key == x.type
  let t := s.modDict (fun d => { d with
    published := SMap.set none d.published key (some x), vals := SMap.set none d.vals key (if keep then old else none) })
  if keep || !x.persist then t
  else t.modJr (fun j => { j with entries := SMap.set none j.entries key none, pubTypes := SMap.set 0 j.pubTypes key 0 })

/-- WITHDRAW by the context that owns the entry (R430): the code and the state. -/
def State.withdraw (s : State) (v : Cell) (p : List Byte) : Nat × State :=
  let index := blockIndex p
  let sub := blockSub p
  if (s.entryOf index sub).isNone then (if s.indexExists index then abSub else abIndex, s)
  else if !s.dxAuth v index sub true then (abAuthority, s)
  else match s.published index sub with
    | none => (abRange, s)
    | some x =>
      if x.owner != dxCtx v then (abWriteRO, s)
      else (0, s.modDict (fun d => { d with
        published := SMap.set none d.published (dkey index sub) none, vals := SMap.set none d.vals (dkey index sub) none }))

/-! ### Requests in the tick -/

/-- The request is a program's (R407, R411). -/
def DictReq.program (r : DictReq) : Bool := match r.src with | .port v => field v 63 56 == 0xFE || mPort + 2 < r.mtype | _ => false

/-- The request writes an entry. -/
def DictReq.writes (r : DictReq) : Bool :=
  r.code == 0 && (r.mtype == mDWRITE || (r.mtype == mDWRITESEG && !r.payload.isEmpty) || r.mtype == mPort + 2)

/-- The entry that a write names. -/
def DictReq.index (r : DictReq) : Nat := match r.src with | .port _ => blockIndex r.payload | _ => specIndex r.payload
def DictReq.sub (r : DictReq) : Nat := match r.src with | .port _ => blockSub r.payload | _ => specSub r.payload

/-- Who makes the request. -/
def DictReq.writer (r : DictReq) : Writer :=
  match r.src with
  | .port v => if r.program then .program (dxCtx v) else .master 0
  | _ => .master r.master

/-- The authority of a request that writes or reads. -/
def State.reqAuth (s : State) (r : DictReq) (index sub : Nat) (write : Bool) : Bool :=
  match r.src with
  | .port v => s.dxAuth v index sub write
  | _ => true

/-- The value that a write carries, in the form of its interface. -/
def State.valueOf (s : State) (r : DictReq) : Entry → Except Nat (List Byte) :=
  match r.src with
  | .port _ => s.programForm r.index ((blockCells r.payload).drop 1)
  | _ => s.messageForm r.index (r.payload.drop 8)

/-- Rank of an interface among requests of one arrival time (R411). -/
def Source.rank : Source → Nat
  | .ohp f _ => f
  | .t1s p _ => 4 + p
  | .can c => 8 + c
  | .port _ => 10

/-- In order of arrival. -/
def insertReq (r : DictReq) : List DictReq → List DictReq
  | [] => [r]
  | q :: l =>
    if r.time < q.time || (r.time == q.time && r.src.rank < q.src.rank) then r :: q :: l else q :: insertReq r l

def sortReqs (l : List DictReq) : List DictReq := l.foldl (fun m r => insertReq r m) []

/-- The tick's requests, numbered, with the abort codes judged so far: unlisted = none. -/
structure Tick where
  s : State
  codes : SMap Nat
  deriving DecidableEq, Repr

def Tick.refuse (t : Tick) (i code : Nat) : Tick := { t with codes := SMap.set 0 t.codes i code }

/-! ### Ownership (R413 to R419) -/

/-- The owner changes: `OWNSEQ`, the open designation and `OWNWHY` follow (R413, R418, R420). -/
def State.setOwner (s : State) (m why : Nat) : State :=
  if m == s.dict.owner then s
  else s.modDict (fun d => { d with
    owner := m, ownseq := (d.ownseq + 1) % 2 ^ 32, designee := 0xFF, desTick := none, why := why, changed := true })

/-- Ticks since the latest request of master `m`. -/
def State.silence (s : State) (m : Nat) : Nat := s.dict.tick - (SMap.get none s.dict.lastReq m).getD 0

/-- Step 2 (R419): the keyswitch mode that the tick finds. -/
def State.keyswitch (s : State) : State :=
  let d := s.dict
  if d.keyLocal == d.loc then s
  else if d.keyLocal then s.modDict (fun d => { d with loc := true, why := 9, changed := true })
  else
    let back := if d.ownprev != 0xFF && s.silence d.ownprev < s.entryNat 0x3003 0 then d.ownprev else 0xFF
    let t := s.modDict (fun d => { d with loc := false, ownprev := 0xFF, why := 9, changed := true })
    if d.owner == 0 then t.setOwner back 6 else t

/-- Step 3, first half (R414): the owner's heartbeat lapses. -/
def State.lapse (s : State) : State :=
  let d := s.dict
  if d.owner != 0xFF && !(d.owner == 0 && d.loc) && s.entryNat 0x3003 0 ≤ s.silence d.owner then s.setOwner 0xFF 3 else s

/-- Step 3, second half (R417): a designation not accepted by the end of the 500th tick after it opened expires. -/
def State.desExpiry (s : State) : State :=
  match s.dict.desTick with
  | some k =>
    if k + 501 ≤ s.dict.tick then
      s.modDict (fun d => { d with designee := 0xFF, desTick := none, why := 8, changed := true })
    else s
  | none => s

/-- A valid write of OWNER: the master and whether it releases (R413). -/
structure Claim where
  i : Nat
  m : Nat
  release : Bool
  deriving DecidableEq, Repr

/-- The writes of OWNER that pass the checks; the others are refused. -/
def claimsOf (t : Tick) : List (Nat × DictReq) → Tick × List Claim
  | [] => (t, [])
  | (i, r) :: l =>
    let m := match r.writer with | .master m => m | .program _ => 0xFE
    match t.s.judgeWrite r.writer 0x3000 0 true (t.s.valueOf r) with
    | .error c => claimsOf (t.refuse i c) l
    | .ok (_, b) =>
      let v := leValue b
      if v != 0xFF && v != m then claimsOf (t.refuse i abRange) l
      else
        let (u, cs) := claimsOf t l
        (u, ⟨i, m, v == 0xFF⟩ :: cs)

/-- The releases (R413, R415). -/
def releaseAll (t : Tick) (l : List Claim) : Tick :=
  l.foldl (fun (t : Tick) c => if c.m == t.s.dict.owner then { t with s := t.s.setOwner 0xFF 2 } else t.refuse c.i abNotOwner) t

/-- A claim by master 0x00 in local mode; the owner that it displaces is kept (R415, R419). Where master 0x00 is the designee its
claim is the acceptance (log entry 127). -/
def State.panelClaim (s : State) (l : List Claim) : State :=
  let o := s.dict.owner
  if !s.dict.loc || o == 0 || s.dict.designee == 0 || !l.any (fun c => c.m == 0) then s
  else if o == 0xFF then s.setOwner 0 1
  else (s.modDict (fun d => { d with ownprev := o })).setOwner 0 5

/-- Master 0x00 owns in local mode and claims: its claim, judged before every other, keeps it the owner (R415, R433). -/
def State.panelKeeps (s : State) (l : List Claim) : Bool := s.dict.loc && s.dict.owner == 0 && l.any (fun c => c.m == 0)

/-- The designee's claim accepts the handover (R417); master 0x00's only in local mode (R410). -/
def State.acceptance (s : State) (l : List Claim) : State :=
  let d := s.dict.designee
  if d != 0xFF && (d != 0 || s.dict.loc) && !s.panelKeeps l && l.any (fun c => c.m == d) then s.setOwner d 4 else s

/-- A claim that wins over another: higher CLAIMPRI, then the lower ID (R415). -/
def State.claimBefore (s : State) (a b : Nat) : Bool :=
  let p := s.entryNat 0x3010 a
  let q := s.entryNat 0x3010 b
  decide (q < p) || (p == q && decide (a < b))

/-- With no owner, the best claim wins. -/
def State.grant (s : State) (l : List Claim) : State :=
  if s.dict.owner != 0xFF then s
  else match bestOf s.claimBefore ((l.map Claim.m).filter (fun m => m != 0 || s.dict.loc)) with
    | some m => s.setOwner m 1
    | none => s

/-- Every claim not by the owner that results is refused; master 0x00's in remote mode, with no owner or with its designation open, by
its own code (R410, R421). -/
def refuseClaims (t : Tick) (l : List Claim) : Tick :=
  l.foldl (fun (t : Tick) c =>
    let d := t.s.dict
    if c.m == d.owner then t
    else t.refuse c.i (if c.m == 0 && !d.loc && (d.owner == 0xFF || d.designee == 0) then abRemote else abClaim)) t

/-- Step 4 (R411, R415). -/
def ownership (t : Tick) (l : List (Nat × DictReq)) : Tick :=
  let (t1, cs) := claimsOf t l
  let t2 := releaseAll t1 (cs.filter Claim.release)
  let claims := cs.filter (fun c => !c.release)
  refuseClaims { t2 with s := ((t2.s.panelClaim claims).acceptance claims).grant claims } claims

/-! ### Writes, reads and answers (R411 steps 5 to 8) -/

/-- What the outside adds to a write that a message makes: only entries that need it draw on it. How many tuff writes of a persistent
entry's commit fail is a free value. -/
def State.envFor (s : State) (index sub : Nat) : WriteEnv × State :=
  if [0x1012, 0x1013, 0x8100, 0x8104, 0x8111, 0x9000].contains index then s.freshEnv
  else if (s.entryOf index sub).any (·.persist) then (let (v, t) := s.fresh; ({ fails := v.toNat % 5 }, t))
  else ({}, s)

/-- One write. -/
def writeReq (t : Tick) (e : Nat × DictReq) : Tick :=
  let r := e.2
  let (x, s) := t.s.envFor r.index r.sub
  let (code, u) := s.write r.writer r.index r.sub (s.reqAuth r r.index r.sub true) (s.valueOf r) x
  ({ t with s := u } : Tick).refuse e.1 code

/-- One request of step 6: a program's write, PUBLISH or WITHDRAW. -/
def programReq (t : Tick) (e : Nat × DictReq) : Tick :=
  let r := e.2
  match r.src with
  | .port v =>
    if r.mtype == mPort + 3 then
      match t.s.judgePublish v r.payload with
      | .error c => t.refuse e.1 c
      | .ok x => { t with s := t.s.publish (dkey (blockIndex r.payload) (blockSub r.payload)) x }
    else if r.mtype == mPort + 4 then
      let (c, s) := t.s.withdraw v r.payload
      ({ t with s := s } : Tick).refuse e.1 c
    else writeReq t e
  | _ => t

/-- The checks of a read, in the order of R421. -/
def State.judgeRead (s : State) (index sub : Nat) (auth : Bool) : Except Nat Entry :=
  match s.entryOf index sub with
  | none => .error (if s.indexExists index then abSub else abIndex)
  | some e =>
    if !auth then .error abAuthority
    else if e.acc == acWO then .error abReadWO
    else if s.scopeShut index then .error abScope
    else .ok e

/-- An entry's value in message form (R393): scalars are zero-extended. -/
def State.messageValue (s : State) (index sub : Nat) (e : Entry) : List Byte :=
  let b := s.entryValue index sub e
  if tyBytes e.ty || e.ty == tyQTY then b else leBytes 8 (leValue b)

/-- One specifier of DMREAD: status and value. -/
def State.multiRead (s : State) (p : List Byte) : List Byte :=
  match s.judgeRead (specIndex p) (specSub p) true with
  | .error c => leBytes 4 c ++ zeros 8
  | .ok e =>
    if tyBytes e.ty || e.ty == tyQTY then leBytes 4 abRange ++ zeros 8
    else leBytes 4 0 ++ s.messageValue (specIndex p) (specSub p) e

/-- The answer to a message: code and payload. -/
def State.messageAnswer (s : State) (r : DictReq) : Nat × List Byte :=
  let p := r.payload
  if r.mtype == mIDENT then (0, s.identBytes r)
  else if r.mtype == mDMREAD then (0, (List.range (p.length / 8)).flatMap (fun i => s.multiRead (p.drop (8 * i))))
  else if r.mtype == mDREAD || r.mtype == mDREADSEG then
    match s.judgeRead (specIndex p) (specSub p) true with
    | .error c => (c, [])
    | .ok e => (0, (s.messageValue (specIndex p) (specSub p) e).drop (if r.mtype == mDREADSEG then leAt p 8 4 else 0))
  else (0, [])

/-- The answer to READ (R429): the value is written into the block from cell 1 onward. -/
def State.portRead (s : State) (v : Cell) (p : List Byte) : Nat × State :=
  let index := blockIndex p
  let sub := blockSub p
  match s.judgeRead index sub (s.dxAuth v index sub false) with
  | .error c => (c, s)
  | .ok e =>
    let cells := toProgram e (s.entryValue index sub e)
    if s.canGet (dxArg v + 16) (16 * cells.length) then (0, s.agentCells (dxArg v + 16) cells) else (abMalformed, s)

/-- Steps 7 and 8 for one request. -/
def answerReq (codes : SMap Nat) (s : State) (e : Nat × DictReq) : State :=
  let r := e.2
  let c := SMap.get 0 codes e.1
  if c != 0 then s.respond r c []
  else match r.src with
    | .port v =>
      if r.mtype == mPort + 1 then
        let (code, t) := s.portRead v r.payload
        t.respond r code []
      else s.respond r 0 []
    | _ =>
      let (code, p) := s.messageAnswer r
      s.respond r code (p.take r.src.room)

/-- The notification of a change (R420); its `MTAG`, which answers no request, is a free value. -/
def State.notify (s : State) : State :=
  if !s.dict.changed then s
  else
    let d := s.dict
    let (tag, t) := (s.modDict (fun d => { d with changed := false })).fresh
    let m := dfpBytes 0x20 (tag.toNat % 65536) 0xFF 0
      (leBytes 1 d.owner ++ leBytes 1 d.ownprev ++ leBytes 1 d.designee ++ leBytes 1 d.why ++ leBytes 4 d.ownseq)
    let t := (List.range 4).foldl (fun (u : State) p =>
      if u.portEnabled p then u.emit (.dfp false p (2 ^ 48 - 1) (padTo [46] m)) else u) t
    let t := (List.range 2).foldl (fun (u : State) c =>
      if u.portEnabled (4 + c) then u.emit (.dfp true c (u.canIdent c 0 0xFE 0xFF) (padTo canSizes m)) else u) t
    (List.range 4).foldl (fun (u : State) f => if (u.func f).en then u.signal f 1 else u) t

/-- Steps 2 to 8 of R411 over the tick's requests. -/
def State.serveTick (s : State) : State :=
  let l := sortReqs s.dict.queue
  let es := (List.range l.length).zip l
  let s1 := (((s.modDict (fun d => { d with queue := [] })).keyswitch).lapse).desExpiry
  let t1 : Tick := ⟨s1, (es.filter (fun e => e.2.code != 0)).foldl (fun m e => SMap.set 0 m e.1 e.2.code) []⟩
  let live := es.filter (fun e => e.2.code == 0)
  let masters := live.filter (fun e => e.2.writes && !e.2.program)
  let isOwner := fun (e : Nat × DictReq) => e.2.index == 0x3000 && e.2.sub == 0
  let t4 := ownership t1 (masters.filter isOwner)
  let t5 := (masters.filter (fun e => !isOwner e)).foldl writeReq t4
  let t6 := (live.filter (fun e => e.2.program && (e.2.writes || mPort + 2 < e.2.mtype))).foldl programReq t5
  (es.foldl (answerReq t6.codes) t6.s).notify

/-- The writes given as commands that waited are served (R412). -/
def State.serveRows (s : State) : State :=
  s.dict.rows.foldl (fun t r => t.direct r.1 r.2.1 r.2.2) (s.modDict (fun d => { d with rows := [] }))

/-- DICTIONARY_TICK (R411, R412): the end of a 1 ms tick; a notice that waited is written as soon as its ring has room (R519). While the
dictionary is not served, every heartbeat counts afresh. -/
def State.dictTick (s0 : State) : State :=
  let s := s0.sendHeld
  if s.dictServed then
    let t := ((List.range 4).foldl (fun (u : State) f =>
      if (u.func f).en then u.modFunc f (fun x => { x with rdy := true }) else u) s.serveHeld.serveRows).serveTick
    t.modDict (fun d => { d with tick := d.tick + 1 })
  else s.modDict (fun d => { d with
    tick := d.tick + 1, lastReq := d.lastReq.map (fun (e : Nat × Option Nat) => (e.1, e.2.map (fun _ => d.tick + 1))) })

end Sys2Proof.Machine
end

