-- ==== Sys2Proof/Machine/Device.lean ====
section
/-! DEFINITION. The device range of R249: reads and writes of device registers by their physical address. A read gives a RAW
cell; a write takes the `PAYLOAD` of a FIX or RAW cell, and the four command ports take whole cells (R219). -/

namespace Sys2Proof.Machine

/-! ### Event channels (R202) -/

def Channel.word (c : Channel) : Nat :=
  c.ivec * 2 ^ 52 + c.line * 2 ^ 48 + b2n c.sv * 2 ^ 47 + c.subc * 2 ^ 32 + b2n c.ovf * 2 ^ 16 + c.count

/-- A channel cell that PST may not write: a reserved bit, or a reserved `IVEC`. -/
def chanBad (v : Word64) : Bool :=
  field v 63 60 != 0 || bit v 46 || field v 31 17 != 0 || (1 ≤ field v 59 52 && field v 59 52 ≤ 0x0F)

def State.chanPut (s : State) (n : Nat) (v : Word64) : Except Nat State :=
  if chanBad v then .error cRESERVED_FIELD
  else
    let c := { s.chan n with ivec := field v 59 52, ovf := bit v 16, count := field v 15 0 }
    let t := s.setChan n c
    .ok (if c.sv then t.checkEvents c.subc else t)

/-! ### Heap control (R219) -/

def Phase.code : Phase → Nat
  | .idle => 0 | .mark => 1 | .select => 2 | .relocate => 3 | .remap => 4

/-- A read of a heap control register. `HCTL.MAJ` and `HCTL.MIN` (W1S) read 0 while a request is held: the spec does not say when
they clear (log entry 114). -/
def State.heapReg (s : State) (off : Nat) : Nat :=
  let h := s.heap
  if off == 0x00 then h.hwb
  else if off == 0x10 then h.btb
  else if off == 0x20 then h.sab
  else if off == 0x30 then
    h.cycles % 2 ^ 48 * 2 ^ 16 + b2n (!h.unacked.isEmpty) * 128 + b2n h.durq * 64 + b2n h.major * 32 + h.phase.code * 4 + h.good
  else if off == 0x40 then h.resv * 2 ^ 32 + h.relpct * 2 ^ 24 + b2n h.brrel * 16 + b2n h.auto * 8
  else if off == 0x50 then h.siltmax * 2 ^ 16 + h.freemin
  else if off == 0x60 then
    s.hcnt kFREE * 2 ^ 48 + s.hcnt kSILT * 2 ^ 32 + s.hcnt kCLAY * 2 ^ 16 + s.hcnt kBEDROCK
  else if off == 0x70 then b2n h.brfull * 4 + b2n h.resvlow * 2 + b2n h.qovf
  else if off == 0x80 then b2n h.cen * 2 ^ 16 + h.cchan
  else 0

/-- HWB: `VBASE` changes only while `EN` = 0; `EN` from 1 to 0 closes the open silt blocks. -/
def State.hwbPut (s : State) (v : Word64) : State :=
  let t := s.modHeap (fun h => { h with en := bit v 0, vbase := if h.en then h.vbase else field v 55 36 })
  if s.heap.en && !bit v 0 then t.closeOpenBlocks else t

/-- HCTL: its fields, and the requests of R239, which wake the device (R465). -/
def State.hctlPut (s : State) (v : Word64) : State :=
  let t := s.modHeap (fun h => { h with
    resv := field v 47 32, relpct := field v 31 24, brrel := bit v 4, auto := bit v 3
    reqMin := h.reqMin || bit v 1, reqMaj := h.reqMaj || bit v 2 })
  if bit v 1 || bit v 2 then t.wakeTo 2 else t

def State.heapRegPut (s : State) (off : Nat) (v : Word64) : State :=
  if off == 0x00 then s.hwbPut v
  else if off == 0x10 then s.modHeap (fun h => if h.en then h else { h with btaddr := field v 47 19 })
  else if off == 0x20 then s.modHeap (fun h => if h.en then h else { h with saaddr := field v 47 30 })
  else if off == 0x40 then s.hctlPut v
  else if off == 0x50 then s.modHeap (fun h => { h with siltmax := field v 31 16, freemin := field v 15 0 })
  else if off == 0x70 then s.modHeap (fun h => { h with
    brfull := h.brfull && !bit v 2, resvlow := h.resvlow && !bit v 1, qovf := h.qovf && !bit v 0 })
  else if off == 0x80 then s.modHeap (fun h => { h with cen := bit v 16, cchan := field v 15 0 })
  else s

/-! ### Caches (R293, R294) -/

def State.l1Read (s : State) (c off : Nat) : Nat × State :=
  let k := s.core c
  if off == 0x00 then (b2n k.ien * 2 + b2n k.den, s)
  else if off == 0x10 then
    (k.cperr * 2 ^ 48 + k.dperr * 2 ^ 32 + k.lockn * 2 ^ 16 + b2n k.slost * 8 + b2n k.lkhit * 4 + b2n (!k.merge.isEmpty) * 2,
      s.setCore c { k with cperr := 0, dperr := 0 })
  else if off == 0x20 then (if 0 < k.lockn then k.lbase else 0, s)
  else (0, s)

/-- L1CTL: writing 0 to `DEN` drains the merging buffer (R274) and, from 1, writes back and invalidates every unlocked entry;
writing 0 to `IEN` invalidates the instruction cache (R294). -/
def State.l1ctlPut (s : State) (c : Nat) (v : Word64) : State :=
  let t := if bit v 0 then s else s.drainMerge c
  let u := if (s.core c).den && !bit v 0 then t.writeBackAll c else t
  let w := u.modCore c (fun k => { k with den := bit v 0, ien := bit v 1, icache := if bit v 1 then k.icache else [] })
  if bit v 1 then w else w.dirSweep

/-- A write to a core's block: from another core it has no effect. -/
def State.l1Put (s : State) (q : Cx) (c off : Nat) (v : Word64) : State :=
  if q.core != c then s
  else if off == 0x00 then s.l1ctlPut c v
  else if off == 0x10 then s.modCore c (fun k => { k with slost := k.slost && !bit v 3, lkhit := k.lkhit && !bit v 2 })
  else s

def State.l2Read (s : State) (k off : Nat) : Nat × State :=
  let x := SMap.get {} s.l2 k
  if off == 0x00 then
    (x.corr * 2 ^ 48 + x.uncc * 2 ^ 32 + x.uncd * 2 ^ 16,
      { s with l2 := SMap.set {} s.l2 k { x with corr := 0, uncc := 0, uncd := 0 } })
  else if off == 0x10 then (x.decl, { s with l2 := SMap.set {} s.l2 k { x with decl := 0 } })
  else (0, s)

/-! ### The journal (R367) -/

def State.jstat (s : State) : Nat :=
  let j := s.jr
  cdiv j.staging 1024 * 2 ^ 48 + s.logFree * 2 ^ 32 + b2n j.restored * 16 + b2n j.pfdone * 8 + b2n j.abort * 4 + b2n j.rdrop * 2 +
    b2n j.media

def State.journalRead (s : State) (off : Nat) : Nat :=
  if off == 0x00 then s.jr.tap * 256 + b2n s.jr.ren
  else if off == 0x10 then s.jstat
  else if off == 0x20 then s.jr.rpos
  else if off == 0x30 then s.jr.seq
  else 0

def State.journalPut (s : State) (off : Nat) (v : Word64) : State :=
  if off == 0x00 then s.modJr (fun j => { j with tap := field v 15 8, ren := bit v 0 })
  else if off == 0x10 then s.modJr (fun j => { j with
    pfdone := j.pfdone && !bit v 3, abort := j.abort && !bit v 2, rdrop := j.rdrop && !bit v 1, media := j.media && !bit v 0 })
  else s

/-! ### Per-context reset (R506) -/

/-- CTXRST: RESERVED_FIELD for a reserved bit, or for the executing context itself. -/
def State.ctxrstPut (s : State) (q : Cx) (v : Word64) : Except Nat State :=
  let n := field v 13 0
  if field v 63 14 != 0 || (s.slot q).ctx == some n then .error cRESERVED_FIELD else .ok (s.ctxReset n)

/-- The cell written at `pa` resets a context that is resident and not yet at its next boundary (R506). -/
def State.resetWaits (s : State) (pa : Nat) (v : Cell) : Bool :=
  let n := field v.payload 13 0
  pa / 16 == 0xFEA000000000 / 16 && s.ctxRes n && !s.atBoundary (s.ctxAt n)

/-! ### The map -/

/-- The offset of a cell in its region, and the region: 2^36 bytes apart from 0xFE0. -/
def devOff (pa : Nat) : Nat := pa % 2 ^ 36 / 16 * 16
def devRegion (pa : Nat) : Nat := pa / 2 ^ 36

/-- The value of the register at `pa`, and the state after the read; a command port and a reserved place read 0. -/
def State.devValue (s : State) (pa : Nat) : Nat × State :=
  let o := devOff pa
  let r := devRegion pa
  if r == 0xFE0 then ((s.chan (o / 16)).word, s)
  else if r == 0xFE1 then (s.heapReg o, s)
  else if r == 0xFE2 then (if o < 0x4_0000 then s.l1Read (o / 0x1000) (o % 0x1000) else s.l2Read (o / 0x1000 - 64) (o % 0x1000))
  else if r == 0xFE3 then s.gyRead (o / 0x1_0000) (o % 0x1_0000)
  else if r == 0xFE4 then
    (if o < 0x8000 then s.linkRead (o / 0x1000) (o % 0x1000) else if o < 0x1_0000 then (0, s) else (s.gtcRead (o - 0x1_0000), s))
  else if r == 0xFE5 then (s.journalRead o, s)
  else if r == 0xFE6 then (if o < 0x4000 then s.hfRead (o / 0x1000) (o % 0x1000) else (0, s))
  else if r == 0xFE8 then s.panelRead o
  else if r == 0xFE9 then (s.powerRead o, s)
  else (0, s)

/-- Read the device register at a physical address of an assigned region (R219, R258). -/
def State.devRead (s : State) (_q : Cx) (pa : Nat) : Cell × State :=
  let (v, t) := s.devValue pa
  (mkRAW v, t)

/-- A command port takes the whole cell (R299, R367, R400, R428): the next state, where `pa` is one. -/
def State.portPut (s : State) (pa : Nat) (v : Cell) : Option State :=
  let o := devOff pa
  let r := devRegion pa
  if r == 0xFE3 && o % 0x1_0000 == 0 then some (s.gyPut (o / 0x1_0000) 0 v)
  else if r == 0xFE5 && o == 0x40 then some (s.jcmd v false)
  else if r == 0xFE6 && o == 0x8000 then some (s.dmcmd v)
  else if r == 0xFE7 && o == 0 then some (s.dxcmd v)
  else none

/-- The next state of a register write of `v`, or the cause that refuses it. -/
def State.regPut (s : State) (q : Cx) (pa : Nat) (v : Cell) : Except Nat State :=
  let o := devOff pa
  let r := devRegion pa
  let w := v.payload
  if r == 0xFE0 then s.chanPut (o / 16) w
  else if r == 0xFE1 then .ok (s.heapRegPut o w)
  else if r == 0xFE2 then .ok (if o < 0x4_0000 then s.l1Put q (o / 0x1000) (o % 0x1000) w else s)
  else if r == 0xFE3 then .ok (s.gyPut (o / 0x1_0000) (o % 0x1_0000) v)
  else if r == 0xFE4 then
    .ok (if o < 0x8000 then s.linkPut (o / 0x1000) (o % 0x1000) w else if o < 0x1_0000 then s else s.gtcPut q.isVent (o - 0x1_0000) w)
  else if r == 0xFE5 then .ok (s.journalPut o w)
  else if r == 0xFE6 then (if o < 0x4000 then s.hfPut (o / 0x1000) (o % 0x1000) w else .ok s)
  else if r == 0xFE9 then .ok (s.powerPut o w)
  else if r == 0xFEA then (if o == 0 then s.ctxrstPut q w else .ok s)
  else .ok s

/-- What a write of a cell to a device register does: a cause code where it is refused, else the next state. The panel's
registers are read only and follow the cell form alone (R450). -/
def State.devWrite (s : State) (q : Cx) (pa : Nat) (v : Cell) : Except Nat State :=
  match s.portPut pa v with
  | some t => .ok t
  | none =>
    if devRegion pa == 0xFE8 then .ok s
    else if v.tag != tagFIX && v.tag != tagRAW then .error cTAG_MISMATCH
    else s.regPut q pa v

end Sys2Proof.Machine
end

