-- ==== Sys2Proof/Machine/Ops.lean ====
section
/-! DEFINITION. The instruction monad and the accesses of a main core: faults, translation (R251 to R258), authority
(R145, R146, R157), loads and stores of one cell with the barriers (R110), pushes and pops, allocation (R122, R223 to
R225), and the shared step of taking a cause or going on (R171). -/

namespace Sys2Proof.Machine

/-- Where an instruction executes and what a fault of it records. -/
structure Env where
  q : Cx
  /-- The executing context. -/
  n : Nat
  user : Bool
  iword : Word32
  /-- The slot address of the instruction's first word, and of the slot that follows the instruction. -/
  pc : Nat
  next : Nat
  deriving DecidableEq, Repr

/-- Why an instruction ends early: a cause with no effect before it; a cause after which `s` keeps what a refill, an
allocation or the release of a work object left (R44, R186), `major` = a failed refill asks for a major cycle (R223); a cause in
step 1 of a long instruction, which also leaves `PRG` 0 (R183); or a wait, after which the instruction is issued again
(R270, R279, R282; log entry 10). -/
inductive Stop where
  | trap (t : Trap)
  | kept (t : Trap) (major : Bool) (s : State)
  | first (t : Trap)
  | stall (w : Wait)
  deriving DecidableEq, Repr

/-- An instruction's body: from a state to a result and the next state, or an early end. -/
abbrev M := StateT State (Except Stop)

/-- What follows an instruction: the next slot, another slot address, or the same instruction again. -/
inductive Flow where
  | next
  | goto (a : Nat)
  | stay
  deriving DecidableEq, Repr

/-- Raise a cause. -/
def fault {α : Type} (e : Env) (code : Nat) (sub : Nat := 0) (opn : Nat := 0) (acc : Nat := 0) (faddr : Nat := 0) : M α :=
  fun _ => .error (.trap { code := code, sub := sub, acc := acc, opn := opn, faddr := faddr, iword := e.iword })

/-- HEAP_LIMIT for a refill that found no chunk (R223): it requests a major cycle. -/
def heapLimit {α : Type} (e : Env) : M α :=
  fun s => .error (.kept { code := cHEAP_LIMIT, iword := e.iword } true s)

/-- The instruction waits and is issued again. -/
def stall {α : Type} (w : Wait) : M α := fun _ => .error (.stall w)

/-- Go on from the state that an access leaves, or wait. -/
def orWait (f : State → Except Wait State) : M Unit := fun s =>
  match f s with
  | .ok t => .ok ((), t)
  | .error w => .error (.stall w)

/-- Change the state. -/
def act (f : State → State) : M Unit := fun s => .ok ((), f s)

/-- Read the state. -/
def look {α : Type} (f : State → α) : M α := fun s => .ok (f s, s)


/-- Draw a result and a next state. -/
def takeM {α : Type} (f : State → α × State) : M α := fun s => .ok (f s)

/-- The registers of the executing context. -/
def regsM (e : Env) : M Regs := look (fun s => s.regs e.q)
def modRegsM (e : Env) (f : Regs → Regs) : M Unit := act (fun s => s.modRegs e.q f)
def setA (e : Env) (c : Cell) : M Unit := modRegsM e (fun r => { r with a := normalize c })

/-- An address in 56 bits, as `FADDR` holds it. -/
def addr56 (a : Int) : Nat := (a % ((2 ^ 56 : Nat) : Int)).toNat

/-! ### Translation (R251 to R258) -/

/-- The entry matches virtual address `va` in address space `asid` (R256). -/
def TlbEntry.hits (t : TlbEntry) (asid va : Nat) : Bool :=
  (t.g || t.asid == asid) && va / t.size == t.vpn * 2 ^ 14 / t.size

def TlbEntry.pa (t : TlbEntry) (va : Nat) : Nat := t.pfn * 2 ^ 14 / t.size * t.size + va % t.size

def Core.tlbFind (k : Core) (asid va : Nat) : Option TlbEntry :=
  (k.tlb.filterMap (·.2)).find? (fun t => t.hits asid va)

/-- The kinds of access of R257. -/
inductive Access where
  | fetch | load | store | rmw
  deriving DecidableEq, Repr

/-- `ACC` of R168. -/
def Access.acc : Access → Nat
  | .fetch => 1 | .load => 2 | .store => 3 | .rmw => 4

/-- The `SUB` with which PAGE_PROT refuses an access, if it does (R257). -/
def TlbEntry.refuses (t : TlbEntry) (user : Bool) (k : Access) : Option Nat :=
  let first := match k with | .fetch => 3 | .load => 1 | .store => 2 | .rmw => 1
  if user && !t.u then some first
  else match k with
    | .fetch => if t.x then none else some 3
    | .load => if t.r then none else some 1
    | .store => if t.w then none else some 2
    | .rmw => if !t.r then some 1 else if !t.w then some 2 else none

/-! ### Breakpoints (R530, R531) -/

/-- Comparator `i` is enabled for kinds in `kinds` and matches context `n` on logical core `q.core` (R530). -/
def State.bkMatches (s : State) (q : Cx) (n i : Nat) (kinds : List Nat) : Bool :=
  let c := SMap.get 0 s.dbg.bkctl i
  !q.isVent && c.testBit 31 && kinds.contains (c / 2 ^ 28 % 8) && (c.testBit 15 || c / 2 ^ 16 % 4096 == s.ctxAsid n) &&
    (c.testBit 6 || c % 64 == q.core)

/-- The lowest-numbered comparator that matches an access to the `cells` cells from that of `va`. -/
def State.bkAt (s : State) (q : Cx) (n : Nat) (kinds : List Nat) (va : Nat) (cells : Nat := 1) : Option Nat :=
  if s.dbg.bkctl.isEmpty then none
  else (List.range 8).find? (fun i =>
    let a := SMap.get 0 s.dbg.bkaddr i / 16
    s.bkMatches q n i kinds && va / 16 ≤ a && a < va / 16 + cells)

/-- The comparator kinds that an access can match. -/
def Access.kinds : Access → List Nat
  | .fetch => [1] | .load => [2, 4] | .store => [3, 4] | .rmw => [2, 3, 4]

/-- The place that a vent core reaches at `va` (R104, R247): vent RAM, vent ROM, or a physical address. An address above the 48-bit
physical space reaches nothing, which is the model's choice (log entry 102). -/
def ventPlace (va : Nat) : Nat :=
  if Config.ventRamBase ≤ va && va < Config.ventRamBase + 0x2_0000 then ventRamAt + (va - Config.ventRamBase) / 16 * 16
  else if Config.ventRomBase ≤ va && va < Config.ventRomBase + 0x8_0000 then ventRomAt + (va - Config.ventRomBase) / 16 * 16
  else if va < 2 ^ 48 then va / 16 * 16
  else 2 ^ 48 - 16

/-- A vent core has no TLB: every address has every right. -/
def ventPage (va : Nat) : TlbEntry :=
  { sz := 0, g := true, vpn := va / 2 ^ 14, asid := 0, pfn := va / 2 ^ 14, dev := inDeviceRange va, wt := false, u := true,
    x := true, w := true, r := true }

/-- Translate `va` for an access: the entry and the physical address of the cell; a data access to `cells` cells from that of
`bva` that a comparator matches raises BREAK after the checks (R531). -/
def translateSpan (e : Env) (k : Access) (va opn bva cells : Nat) : M (TlbEntry × Nat) := do
  let s ← look id
  if e.q.isVent then pure (ventPage va, ventPlace va)
  else match (s.core e.q.core).tlbFind (s.ctxAsid e.n) va with
  | none => fault e (if k == .fetch then cTLB_MISS_I else cTLB_MISS_D) 0 opn k.acc va
  | some t =>
    match t.refuses e.user k with
    | some sub => fault e cPAGE_PROT sub opn k.acc va
    | none =>
      if k == .fetch then pure (t, t.pa va / 16 * 16)
      else match s.bkAt e.q e.n k.kinds bva cells with
        | some i => fault e cBREAK i opn k.acc (SMap.get 0 s.dbg.bkaddr i / 16 * 16)
        | none => pure (t, t.pa va / 16 * 16)

/-- Translate `va` for an access to its cell. -/
def translate (e : Env) (k : Access) (va opn : Nat) : M (TlbEntry × Nat) := translateSpan e k va opn va 1

/-! ### Authority (R145, R146, R157) -/

/-- What an access may reach: everything (machine level, and MODE 10 under page rights alone), or bounds with rights;
`viaFS` = through F or S by a mode of R146, `hdr` = the HDR cell of the referenced object. -/
inductive Auth where
  | all
  | within (lo hi : Int) (rights : Nat) (viaFS : Bool) (hdr : Option Nat)
  deriving DecidableEq, Repr

/-- The rights that a reference grants over its object (R145). -/
def refRights : Nat := 0x80F

/-- The bounds check of R145 step 5, for `len` bytes from the cell of `va` (R3). A fault of authority or of a tag on a memory
operand comes before any access is made, so it records `ACC` 0 (log entry 103). -/
def checkBounds (e : Env) (u : Auth) (va len opn : Nat) : M Unit :=
  match u with
  | .all => pure ()
  | .within lo hi _ _ _ =>
    let at_ := va / 16 * 16
    if lo ≤ (at_ : Int) && ((at_ + len : Nat) : Int) ≤ hi then pure () else fault e cCAP_BOUNDS 0 opn 0 va

/-- The rights check of R145 step 6. -/
def checkRights (e : Env) (u : Auth) (va need opn : Nat) : M Unit :=
  match u with
  | .all => pure ()
  | .within _ _ r _ _ => if r &&& need == need then pure () else fault e cCAP_RIGHTS 0 opn 0 va

/-- What R145 and R146 require of a store of cell `v`. -/
def checkStore (e : Env) (u : Auth) (va opn : Nat) (v : Cell) : M Unit :=
  match u with
  | .all => pure ()
  | .within _ _ r viaFS hdr =>
    let need := 2 ^ rSTORE + (if v.isCapOrSeal then 2 ^ rSTCAP else 0)
    if r &&& need != need then fault e cCAP_RIGHTS 0 opn 0 va
    else if v.isCapOrSeal && !v.has rGLOBAL && !viaFS then fault e cCAP_RIGHTS 0 opn 0 va
    else if hdr == some (va / 16 * 16) then fault e cCAP_RIGHTS 0 opn 0 va
    else pure ()

/-! ### Cells in memory -/

/-- The FADDR of a line: CACHE_DIRTY_PARITY names the line (R169). -/
def lineOf (va : Nat) : Nat := va / 512 * 512

/-- What an access reaches: a vent core reaches a home of HBM only while its controller's domain is on (R104, R457); that an access
to one that is off ends as at an absent address is the model's choice (log entry 102). -/
def State.reached (s : State) (q : Cx) (pa : Nat) : Region :=
  if q.isVent && regionOf pa == .hbm && !s.domainOn (96 + 2 * (pa / 256 % 2)) then .absent else regionOf pa

/-- Read the cell at a translated address, without a barrier. -/
def readCell (e : Env) (t : TlbEntry) (pa va opn acc : Nat) : M Cell := do
  let s ← look id
  match s.reached e.q pa with
  | .absent => fault e cBUS_ERROR 0 opn acc pa
  | .ventRam => pure (SMap.get 0 s.ventRam ((pa - ventRamAt) / 16))
  | .ventRom => pure (normalize (Config.ventRom ((pa - ventRomAt) / 16)))
  | .device => takeM (fun s => s.devRead e.q pa)
  | .hbm =>
    let k := s.core e.q.core
    let bad := if k.inScratch pa then k.scratchBad.contains pa else s.poisoned (pa / 128) && (s.buffered e.q pa).isNone
    if bad then fault e cCACHE_DIRTY_PARITY 0 opn acc (lineOf va)
    else if k.undefinedCache && !k.inScratch pa then
      -- R294: the cache was enabled and never invalidated
      takeM (fun s =>
        let (a, s1) := s.strayWrite.fresh
        let (b, s2) := s1.fresh
        (normalize (a ++ b), s2))
    else do
      orWait (fun s => s.loadTouch e.q pa t.wt)
      look (fun s => s.loadValue e.q pa)

/-- The heal of a slot, made only where the page grants `W` (R226, R257): of the scratch cell, of the copy that waits in a
buffer, or of the cell in vent RAM or in the caches and HBM, whichever the load took. -/
def State.healSlot (s : State) (q : Cx) (t : TlbEntry) (pa : Nat) (v n : Cell) : State :=
  if !t.w || v == n then s
  else if regionOf pa == .ventRam then
    (if SMap.get 0 s.ventRam ((pa - ventRamAt) / 16) == v then
      { s with ventRam := SMap.set 0 s.ventRam ((pa - ventRamAt) / 16) n } else s)
  else if regionOf pa != .hbm then s
  else
    let k := s.core q.core
    if k.inScratch pa then
      (if SMap.get 0 k.scratch pa == v then s.setCore q.core { k with scratch := SMap.set 0 k.scratch pa n } else s)
    else if (s.buffered q pa).isSome then s.healBuffered q pa n
    else (s.heal pa v n).noteHeal pa

/-- The load barrier on a cell read from a slot (R226, R238). -/
def passBarrier (e : Env) (t : TlbEntry) (pa opn : Nat) (v : Cell) : M Cell := do
  let s ← look id
  match s.barrierAt (.core e.q.core) v false (s.goodFor e.q.core) with
  | none => fault e cMICROCODE_CHECK 3 opn
  | some (n, s1) => fun _ => .ok (n, s1.healSlot e.q t pa v n)

/-- A load of the cell at `va` under an authority whose bounds hold `va` (R107, R110, R145). -/
def loadCell (e : Env) (u : Auth) (va opn : Nat) : M Cell := do
  checkBounds e u va 16 opn
  checkRights e u va (2 ^ rLOAD) opn
  let (t, pa) ← translate e .load va opn
  let v ← readCell e t pa va opn 2
  if v.isCapOrSeal then checkRights e u va (2 ^ rLOAD + 2 ^ rLDCAP) opn
  passBarrier e t pa opn v

/-- A store of context `n` fails on the bus: the first failing address is kept (R169). -/
def State.failStore (s : State) (n pa acc : Nat) : State :=
  s.modAux n (fun a => { a with busErr := match a.busErr with | some b => some b | none => some (pa / 16 * 16, acc) })

/-- Write the cell at a physical address: the block-table filter, the caches, then `after`, or a device register; a store
that fails on the bus is reported later (R169). `fa` is the address whose line a fault records; a cell that a device
register refuses comes from a register, so `FADDR` is 0. -/
def writePhys (e : Env) (wt : Bool) (pa fa opn acc : Nat) (v : Cell) (feeds : Bool) (after : State → State) : M Unit := do
  let s ← look id
  match s.reached e.q pa with
  | .absent => act (fun s => (s.endAround e.q).failStore e.n pa acc)
  | .ventRom => act (fun s => s.failStore e.n pa acc)
  | .ventRam => act (fun s => { s with ventRam := SMap.set 0 s.ventRam ((pa - ventRamAt) / 16) (normalize v) })
  | .device =>
    match (s.endAround e.q).devWrite e.q pa v with
    | .ok s1 => if s.resetWaits pa v then stall .boundary else act (fun _ => s1)
    | .error code => fault e code 0 opn acc
  | .hbm =>
    let k := s.core e.q.core
    if !k.inScratch pa && s.poisoned (pa / 128) && !s.goesAround e.q pa wt feeds then
      fault e cCACHE_DIRTY_PARITY 0 opn acc (lineOf fa)
    else do
      if k.undefinedCache && !k.inScratch pa then act State.strayWrite
      let w := match s.entryAt pa with | some b => s.filterEntry b v | none => normalize v
      orWait (fun s => s.storeHbm e.q pa w wt feeds)
      act after

/-- Write the cell at a translated address, with the store barrier (R229). -/
def writeCell (e : Env) (t : TlbEntry) (pa va opn : Nat) (v : Cell) (feeds : Bool) : M Unit :=
  writePhys e t.wt pa va opn 3 v feeds (fun s => s.storeBarrier e.n v va)

/-- A store of `v` at `va` (R107, R110, R145, R146); R34 refuses FWD and HDR at user level. `formed` = a header or filler
that an allocation forms itself. -/
def storeCell (e : Env) (u : Auth) (va opn : Nat) (v : Cell) (feeds : Bool := true) (formed : Bool := false) : M Unit := do
  checkBounds e u va 16 opn
  checkStore e u va opn v
  let (t, pa) ← translate e .store va opn
  if e.user && !formed && (v.tag == tagFWD || v.tag == tagHDR) then fault e cPRIV 0 opn
  writeCell e t pa va opn v feeds

/-- The exact effective address must lie in 0 to 2^56 − 16 (R100). -/
def checkRange (e : Env) (va : Int) (opn : Nat) : M Nat :=
  if 0 ≤ va && va ≤ ((2 ^ 56 - 16 : Nat) : Int) then pure va.toNat
  else if e.user then fault e cCAP_BOUNDS 0 opn 0 (addr56 va) else fault e cPAGE_PROT 4 opn 0 (addr56 va)

/-! ### Headers (R553) -/

/-- Judge the cell at a reference of tag `kind` (R553). -/
def judgeHdr (e : Env) (c : Cell) (kind opn va : Nat) : M Unit :=
  if !Cell.tagDefined c.tag || (c.tag == tagHDR && c.reserved) then fault e cTAG_RESERVED 0 opn 0 va
  else if c.tag != tagHDR || c.hdrKind != kind then fault e cTAG_MISMATCH 0 opn 0 va
  else pure ()

/-- The HDR cell of the object that reference `c` names, read and judged. -/
def readHdr (e : Env) (c : Cell) (opn : Nat) : M Cell := do
  let (t, pa) ← translate e .load c.pay opn
  let h ← readCell e t pa c.pay opn 2
  judgeHdr e h c.tag opn c.pay
  pure h

/-- The authority that a capability or reference cell gives at user level: steps 1 to 4 of R145. In `MODE` 9 (`nine`) the
tag checks hold at machine level too (R100). -/
def authOf (e : Env) (c : Cell) (opn : Nat) (nine viaFS : Bool) : M Auth := do
  if e.user || nine then
    if (Cell.tagDefined c.tag == false) || c.reserved then fault e cTAG_RESERVED 0 opn
    if !(c.isCapOrSeal || (nine && c.isRef)) then fault e cCAP_TAG 0 opn
    if c.tag == tagSEAL then fault e cCAP_SEALED 0 opn
  if !e.user then pure .all
  else if c.tag == tagCAP then pure (.within c.capL c.capU c.rights viaFS none)
  else if c.tag == tagCONS then pure (.within c.pay (c.pay + 32) refRights false none)
  else
    let h ← readHdr e c opn
    pure (.within c.pay ((c.pay + 16 * h.hdrSize : Nat) : Int) refRights false (some c.pay))

/-- A load of the cell at `i` cells from a reference or capability's object, as the list and object instructions make. -/
def loadAt (e : Env) (u : Auth) (va : Int) (opn : Nat) : M Cell := do
  let a ← checkRange e va opn
  loadCell e u a opn

def storeAt (e : Env) (u : Auth) (va : Int) (opn : Nat) (v : Cell) (feeds : Bool := true) : M Unit := do
  let a ← checkRange e va opn
  storeCell e u a opn v feeds

/-! ### The stack (R101, R128, R193) -/

/-- Push a cell through S as in `MODE` 8; STACK_LIMIT below the watermark (R169, R193). -/
def push (e : Env) (v : Cell) : M Unit := do
  let r ← regsM e
  let u ← authOf e r.s 5 false true
  let a ← checkRange e ((r.s.pay : Int) - 16) 5
  checkBounds e u a 16 5
  checkStore e u a 5 v
  let (t, pa) ← translate e .store a 5
  let w ← look (fun s => s.ctxWmark e.n)
  if w != 0 && a < 16 * w then fault e cSTACK_LIMIT 0 5 0 a
  writeCell e t pa a 5 v true
  modRegsM e (fun r => { r with s := movePay r.s (-16) })

/-- Pop a cell through S as in `MODE` 7. -/
def pop (e : Env) : M Cell := do
  let r ← regsM e
  let u ← authOf e r.s 5 false true
  let c ← loadAt e u r.s.pay 5
  modRegsM e (fun r => { r with s := movePay r.s 16 })
  pure c

/-- The smallest `LE` whose granule covers b to b + n − 1 in at most 447 granules (R147 step 2), and `LB`, `LT`. -/
def encodeLen (b n : Nat) : Nat × Nat × Nat :=
  let fits := fun le => cdiv (b + n) (2 ^ (le + 4)) - b / 2 ^ (le + 4) ≤ 447
  let le := (findFrom fits 45 0).getD 44
  let g := 2 ^ (le + 4)
  (le, b / g % 512, cdiv (b + n) g % 512)

/-- A CAP with the given bounds and rights, its `PAYLOAD` at `p`. -/
def capOver (epoch rights b n p : Nat) : Cell :=
  let l := encodeLen b n
  mkCap tagCAP epoch rights 0 l.1 l.2.1 l.2.2 p

/-- The return capability for the slot that follows the instruction (R128). -/
def returnCap (e : Env) : M Cell := look (fun s => capOver s.heap.good (2 ^ rEXEC) (e.next / 16 * 16) 16 e.next)

/-! ### Allocation (R122, R223 to R225) -/

/-- Store a cell that an allocation forms. `claim` = no allocation has touched its line, which is then claimed as zero first (R225):
the line of a cell in the middle of a line holds an earlier object's cells, which a claim would destroy (log entry 110). -/
def allocStore (e : Env) (claim : Bool) (va : Nat) (v : Cell) : M Unit := do
  let (t, pa) ← translate e .store va 0
  if claim && !t.dev && regionOf pa == .hbm then act (fun s => s.zeroLine e.q (pa / 512))
  writeCell e t pa va 0 v true

/-- A filler over `n` cells at `va`, stored by the core (R223 step 1, R225). -/
def fillerAt (e : Env) (va n : Nat) : M Unit :=
  if n == 0 then pure ()
  else allocStore e (va % 512 == 0) va (mkHDR 0 n 0)

/-- The tail of the context's chunk becomes a filler (R223 step 1). -/
def closeTail (e : Env) : M Unit := do
  let r ← regsM e
  fillerAt e r.h.toNat ((r.hl.toNat - r.h.toNat) / 16)

/-- Set H and HL. -/
def setH (e : Env) (h hl : Nat) : M Unit :=
  modRegsM e (fun r => { r with h := BitVec.ofNat 64 h, hl := BitVec.ofNat 64 hl })

/-- Make room for `cells` cells at H, refilling where the request would carry H past HL: the address, aligned for a cons
(R25, R122). An object of more than 4,096 cells takes a run (R224). -/
def reserve (e : Env) (cells : Nat) (cons : Bool) : M Nat := do
  let r ← regsM e
  let h := r.h.toNat
  let pad := if cons && h % 32 == 16 then 16 else 0
  if h + pad + 16 * cells ≤ r.hl.toNat then
    if pad == 16 then allocStore e false h (mkHDR 0 1 0)
    setH e (h + pad + 16 * cells) r.hl.toNat
    pure (h + pad)
  else if 4096 < cells then
    let s ← look id
    match s.takeRun cells with
    | none => heapLimit e
    | some (a, s1) =>
      act (fun _ => s1)
      closeTail e
      let stop := a + 16 * cells
      let rest := (cdiv cells 131072 * 131072 - cells)
      if 0 < rest then allocStore e true stop (mkHDR 0 rest 0)
      setH e stop stop
      pure a
  else
    let s ← look id
    match s.takeChunk (e.q.core / 8) with
    | none => heapLimit e
    | some (a, s1) =>
      act (fun _ => s1)
      closeTail e
      setH e (a + 16 * cells) (a + 0x10000)
      pure a

/-- Allocate a headed object of `cells` cells with header `h`; body cells read as they stand (R40, R221). -/
def allocObject (e : Env) (cells : Nat) (h : Cell) : M Nat := do
  let a ← reserve e cells false
  allocStore e (a % 512 == 0) a h
  act (fun s => s.noteObject a cells false)
  pure a

/-- Allocate a cons of two cells (R122): R146 and R34 have been judged. -/
def allocCons (e : Env) (x y : Cell) : M Nat := do
  let a ← reserve e 2 true
  allocStore e (a % 512 == 0) a x
  allocStore e false (a + 16) y
  act (fun s => s.noteObject a 2 true)
  pure a

/-- A reference of tag `t` to a new object, with the good epoch (R227). -/
def refTo (t a : Nat) : M Cell := look (fun s => mkCell t s.heap.good 0 a)

/-! ### Control transfer (R93, R96, R128) -/

/-- The form of a target slot address (R93). -/
def checkTarget (e : Env) (a : Nat) : M Unit :=
  if 2 ^ 56 ≤ a then fault e cPAGE_PROT 4 0 0 (a % 2 ^ 56)
  else if a % 4 != 0 || a.testBit 3 then fault e cRESERVED_FIELD
  else pure ()

/-- The checks on a target capability, at either level (R128, R145, R152, R157): its slot address. -/
def checkExec (e : Env) (c : Cell) (opn faddr : Nat) : M Nat := do
  if !Cell.tagDefined c.tag || c.reserved then fault e cTAG_RESERVED 0 opn 0 faddr
  if c.tag != tagCAP then fault e cTAG_MISMATCH 0 opn 0 faddr
  if !c.covers c.pay 4 then fault e cCAP_BOUNDS 0 opn 0 c.pay
  if !c.has rEXEC then fault e cCAP_RIGHTS 0 opn 0 c.pay
  checkTarget e c.pay
  pure c.pay

/-! ### Taking a cause or going on (R171, R176, R185) -/

/-- PC := the slot address `a`. -/
def State.moveTo (s : State) (q : Cx) (a : Nat) : State := s.modRegs q (fun r => { r with pc := BitVec.ofNat 64 a })

/-- `PRG` := 0. -/
def State.clearPrg (s : State) (q : Cx) : State := s.modRegs q (fun r => { r with prg := 0 })

/-- `RESUME` is cleared by an instruction that starts (R185). -/
def State.clearResume (s : State) (q : Cx) : State :=
  if bit (s.regs q).st stRESUME then s.modRegs q (fun r => { r with st := setBit r.st stRESUME false }) else s

/-- A cause arises in a slot whose stopped progress has been parked. On a vent core the emulable UNDEF_OP is taken at every `ML`
with `ESC` unchanged (R176), and a fault that would be fatal restarts the vent core's firmware (R177, R489). -/
def State.trapIn (s : State) (q : Cx) (t : Trap) (mra : Nat) : State :=
  let esc := bit (s.regs q).st stESC
  if !q.isVent then s.takeTrap q t mra
  else if t.code == cUNDEF_OP && t.sub == 1 then
    (s.enterSlot q t mra false).modRegs q (fun r => { r with st := setBit r.st stESC esc })
  else if esc then s.ventFail (q.core - 64)
  else s.takeTrap q t mra

/-- What a wait leaves of the state before the instruction (R270, R279, R282): the miss presented, the line on which the slot
holds, or the locked entries released. -/
def State.waitOn (s : State) (q : Cx) : Wait → State
  | .sector pa wt => s.presentMiss q.core pa wt
  | .line l => s.modSlot q (fun v => { v with hold := some l })
  | .window => s.modCore q.core Core.unlock
  | .boundary => s

/-- The outcome of an instruction body in a slot: the next state with PC moved on, or the state before it with the cause
taken. A call returns after the instruction (R169). -/
def settle (s0 : State) (e : Env) : Except Stop (Flow × State) → State
  | .ok (.next, t) => t.moveTo e.q e.next
  | .ok (.goto a, t) => t.moveTo e.q a
  | .ok (.stay, t) => t
  | .error (.stall w) => s0.waitOn e.q w
  | .error (.trap t) =>
    -- MCALL executes normally, so it has cleared RESUME (R185)
    let s1 := (if t.code == cMCALL then s0.clearResume e.q else s0).parkMid e.q
    s1.trapIn e.q t (if t.code == cMCALL then e.next else (s1.regs e.q).pc.toNat)
  | .error (.first t) =>
    let s1 := (s0.clearPrg e.q).parkMid e.q
    s1.trapIn e.q t (if t.code == cMCALL then e.next else (s1.regs e.q).pc.toNat)
  | .error (.kept t major u) =>
    -- H, HL and PRG as the early part left them; every other register as before
    let s1 := u.modRegs e.q (fun r => { s0.regs e.q with h := r.h, hl := r.hl, prg := r.prg })
    let s2 := (if major then s1.refillFailed else s1).parkMid e.q
    s2.trapIn e.q t (s2.regs e.q).pc.toNat

/-- Judge the parity event that an instruction, iteration or step meets (R479 to R481, R291): the state after it, and a
cause or a retirement in place of the instruction. -/
inductive ParityEnd where
  | go (s : State)
  | fail (code sub : Nat) (s : State)
  | retired (s : State)

def State.meetParity (s : State) (q : Cx) (n : Nat) (p : ParityEvent) : ParityEnd :=
  let lost (code sub : Nat) : ParityEnd :=
    if q.isVent then .retired (s.ventFail (q.core - 64)) else
    let (third, t) := s.replayBad q.core n
    if third then .retired (t.retire q.core) else .fail code sub t
  match p with
  | .none => .go s
  | .replayed => .go (s.replayGood q.core)
  | .failed => lost cPARITY_REPLAY_FAIL 0
  | .checkFailed => lost cMICROCODE_CHECK 2
  | .ecc g ev => .go (s.eccFound (q.core / 8) g.toNat ev)
  | .meshFailed pa =>
    if q.isVent then .retired ((s.meshLost pa.toNat).ventFail (q.core - 64)) else
    let (third, t) := (s.meshLost pa.toNat).replayBad q.core n
    if third then .retired (t.retire q.core) else .fail cPARITY_REPLAY_FAIL 0 t
  | .cleanSector g =>
    .go ((s.modCore q.core (fun k => { k with cperr := satAt 0xFFFF (k.cperr + 1) })).logCoalesced 1 q.core 0x04 0
      (g.toNat / 4 * 512))
  | .dirtySector g =>
    if (s.core q.core).dirtyAt g.toNat then
      .go (((s.modCore q.core (fun k => { k with dperr := satAt 0xFFFF (k.dperr + 1) })).losePoison g.toNat).logErr
        1 q.core 0x05 2 (g.toNat / 4 * 512) n)
    else .go s
  | .scratchCell c =>
    let pa := 16 * c.toNat
    if (s.core q.core).inScratch pa then
      .go ((s.modCore q.core (fun k => { k with
        dperr := satAt 0xFFFF (k.dperr + 1), scratchBad := insertNat pa k.scratchBad })).logErr 1 q.core 0x05 2
        (pa / 512 * 512) n)
    else .go s

/-- The slot can issue for its context: a running context, no wait for an eviction, no pass to carry out and no patch to take; an
instruction in progress goes on to its boundary (R199, R236, R238, R493). -/
def State.issuable (s : State) (q : Cx) (n : Nat) : Bool :=
  s.ctxState n == 2 && !(q.isVent && s.dep.ventRetired.contains (q.core - 64)) && (s.slot q).waits.isNone &&
  !(s.heap.pass.isSome && s.heap.unacked.contains q.core && s.atBoundary q) &&
  !(s.dep.mcstate == 4 && s.dep.mcTodo.contains q.core && s.atBoundary q)

/-- The slot holds on no line (R279). -/
def State.release (s : State) (q : Cx) : State :=
  if (s.slot q).hold.isSome then s.modSlot q (fun v => { v with hold := .none }) else s

/-- Run `body` in the slot after the parity event: what an iteration, a step or an instruction shares. -/
def runIn (s : State) (i : Issue) (e : Env) (body : M Flow) : State :=
  match (s.release e.q).meetParity e.q e.n i.parity with
  | .go t => settle t e (body t)
  | .fail code sub t =>
    settle t e (.error (.trap { code := code, sub := sub, iword := e.iword }))
  | .retired t => t

/-- A fetch or step comparator matches the instruction at `pc`; the lowest-numbered of them is raised (R531). -/
def State.bkFetch (s : State) (e : Env) : Option Trap :=
  if s.dbg.bkctl.isEmpty then none
  else
    let fetches := fun i => s.bkMatches e.q e.n i [1] && SMap.get 0 s.dbg.bkaddr i / 16 == e.pc / 16
    let steps := fun i => e.user && s.bkMatches e.q e.n i [5]
    ((List.range 8).find? (fun i => fetches i || steps i)).map (fun i =>
      if fetches i then { code := cBREAK, sub := i, acc := 1, faddr := e.pc / 16 * 16, iword := e.iword }
      else { code := cBREAK, sub := i, iword := e.iword })

/-- The environment of an instruction of `slots` slots whose first word is `word` at PC (R93, R95). -/
def State.envAt (s : State) (q : Cx) (n : Nat) (word : Word32) (slots : Nat) : Env :=
  let pc := (s.regs q).pc.toNat
  { q := q, n := n, user := !(s.regs q).machine, iword := word, pc := pc,
    next := if slots == 1 then nextSlot pc else if slots == 2 then nextSlot (nextSlot pc)
            else nextSlot (nextSlot (nextSlot pc)) }

/-- The fetch of the first word (R102 step 1): the command brings the word, and the caches take its granule. Where no entry
translates the address the command is INSTRUCTION_FETCH_FAULT (log entry 10). -/
def State.fetchFirst (s : State) (e : Env) : State :=
  let k := s.core e.q.core
  if e.q.isVent then s
  else match k.tlbFind (s.ctxAsid e.n) e.pc with
  | none => s
  | some t =>
    let pa := t.pa e.pc
    if regionOf pa == .hbm && !k.inScratch pa then s.fetchTouch e.q.core (pa / 128) else s

/-- Issue one instruction (R102, R174): `word` is its first word, `slots` the slots it and its extension take. A pending
cause is taken first. `body` begins with the decode checks. `came` = step 1 of R102 has succeeded, after which a comparator
can match the fetch (R531). -/
def issueIf (came : Env → State → Bool) (i : Issue) (word : Word32) (slots : Nat) (body : Env → M Flow) (s : State) : State :=
  let q := Cx.of i
  match (s.slot q).ctx with
  | none => s
  | some n =>
    if !s.issuable q n || (s.slot q).mid != Mid.none then s
    else
      match s.asyncDue n (s.regs q).st with
      | some t => s.takeAsync q n t
      | none =>
        let e := s.envAt q n word slots
        let s1 := s.fetchFirst e
        match (if came e s1 then s1.bkFetch e else none) with
        | some t => settle s1 e (.error (.trap t))
        | none => runIn s1 i e (body e)

/-- Issue one instruction whose first word has been fetched. -/
def issue (i : Issue) (word : Word32) (slots : Nat) (body : Env → M Flow) (s : State) : State :=
  issueIf (fun _ _ => true) i word slots body s

end Sys2Proof.Machine
end

