-- ==== Sys2Proof/Machine/Operands.lean ====
section
/-! DEFINITION. The instruction formats, their decode checks in the order of R102, and every operand form (R92 to R101). -/

namespace Sys2Proof

/-! ### Fields of an M-format word -/

/-- The instruction has an extension word (R95). -/
def MOp.hasExt (o : MOp) : Bool := o.mode == 5 || o.mode == 6
/-- The slots that the instruction takes. -/
def MOp.slots (o : MOp) : Nat := if o.hasExt then 2 else 1

/-- `MODE`, `BASE` and `DISP16` hold values that R98 and R99 allow; an operand that is written excludes `MODE` 4, 5 and
10. -/
def MOp.fieldsOk (o : MOp) (writes : Bool) : Bool :=
  let b := o.base.toNat
  match o.mode.toNat with
  | 0 => b ≤ 6 && o.disp == 0
  | 1 => b ≤ 5
  | 2 => b ≤ 5
  | 3 => b ≤ 5
  | 4 => b == 0 && !writes
  | 5 => b == 0 && o.disp == 0 && !writes
  | 6 => b ≤ 5 && o.disp == 0
  | 7 => b ≤ 5 && o.disp == 0
  | 8 => b ≤ 5 && o.disp == 0
  | 9 => b == 0 || b == 4 || b == 5
  | 10 => b == 8 && !writes
  | _ => false

/-- `MODE`, `BASE` and `DISP16` are 0, as an instruction without operand requires. -/
def MOp.zero (o : MOp) : Bool := o.mode == 0 && o.base == 0 && o.disp == 0

/-- `BASE` 4 or 5 as a base address: machine level only (R99). -/
def MOp.privBase (o : MOp) : Bool :=
  (o.base == 4 || o.base == 5) && (1 ≤ o.mode.toNat && o.mode.toNat ≤ 8) && o.mode != 4 && o.mode != 5

/-- `DISP16` sign-extended. -/
def MOp.d (o : MOp) : Int := o.disp.toInt
/-- The extension word sign-extended. -/
def MOp.e (o : MOp) : Int := o.ext.toInt

/-- FIX or RAW (R87). -/
def Cell.isWordTag (c : Cell) : Bool := c.tag == tagFIX || c.tag == tagRAW

end Sys2Proof

namespace Sys2Proof.Machine

/-! ### Formats (R94 to R97) -/

/-- The first word of an M-format instruction. -/
def mWord (op : BitVec 8) (o : MOp) : Word32 := op ++ o.mode ++ o.base ++ o.disp
/-- The word of a B-format instruction. -/
def bWord (op : BitVec 8) (off : BitVec 24) : Word32 := op ++ off
/-- The word of an S-format instruction. -/
def sWord (op sub : BitVec 8) (opnd : BitVec 16) : Word32 := op ++ sub ++ opnd

/-- The cell checks of R92 on a fetched cell. -/
def judgeCode (e : Env) (c : Cell) (opn va : Nat) : M Unit :=
  if c.reserved then fault e cTAG_RESERVED 0 opn 1 va
  else if c.tag != tagRAW && c.tag != tagEMPTY then fault e cTAG_MISMATCH 0 opn 1 va
  else pure ()

/-- Fetch the cell of slot address `a` (R92, R102 steps 1, 2 and 7). -/
def fetchCell (e : Env) (a opn : Nat) : M Cell := do
  let (_, pa) ← translate e .fetch a opn
  let s ← look id
  match s.reached e.q pa with
  | .ventRam =>
    let c := SMap.get 0 s.ventRam ((pa - ventRamAt) / 16)
    judgeCode e c opn (a / 16 * 16)
    pure c
  | .ventRom =>
    let c := normalize (Config.ventRom ((pa - ventRomAt) / 16))
    judgeCode e c opn (a / 16 * 16)
    pure c
  | .hbm =>
    let k := s.core e.q.core
    if (if k.inScratch pa then k.scratchBad.contains pa else s.poisoned (pa / 128)) then
      fault e cCACHE_DIRTY_PARITY 0 opn 1 (lineOf a)
    let c := if k.inScratch pa then SMap.get 0 k.scratch pa else s.cell pa
    act (fun s => if e.q.isVent then (s.agentClean (pa / 128)).hbmServes (pa / 128) else if (s.core e.q.core).inScratch pa then s
      else s.fetchTouch e.q.core (pa / 128))
    judgeCode e c opn (a / 16 * 16)
    pure c
  | _ => fault e cBUS_ERROR 0 opn 1 pa

/-- Fetch the cell of a further instruction's first word: a fetch comparator matches it after its translation (R531). -/
def fetchWord (e : Env) (a opn : Nat) : M Cell := do
  let _ ← translate e .fetch a opn
  match ← look (fun s => s.bkAt e.q e.n [1] a) with
  | some i => fault e cBREAK i opn 1 (a / 16 * 16)
  | none => fetchCell e a opn

/-- The extension word's cell, where it is not the cell of the first word (R95, R102 step 7). -/
def fetchExt (e : Env) (at_ : Nat) : M Unit :=
  if nextSlot at_ / 16 == at_ / 16 then pure ()
  else do let _ ← fetchCell e (nextSlot at_) 4

/-- Steps 5 to 7 of R102 for an M-format instruction whose first word is at slot `at_`. -/
def checkM (e : Env) (at_ : Nat) (o : MOp) (ok : Bool) : M Unit := do
  if !ok then fault e cRESERVED_FIELD
  if e.user && o.privBase then fault e cPRIV
  if o.hasExt then fetchExt e at_

/-- An M-format instruction (R94): `priv` = a machine-level opcode, `ok` = its fields hold allowed values. -/
def mForm (i : Issue) (op : BitVec 8) (o : MOp) (priv ok : Bool) (body : Env → M Flow) (s : State) : State :=
  issue i (mWord op o) o.slots (fun e => do
    if priv && e.user then fault e cPRIV
    checkM e e.pc o ok
    act (fun s => s.clearResume e.q)
    body e) s

/-- An M-format instruction that reads its operand. -/
def mRead (i : Issue) (op : BitVec 8) (o : MOp) (body : Env → M Unit) (s : State) : State :=
  mForm i op o false (o.fieldsOk false) (fun e => do body e; pure .next) s

/-- An M-format instruction that writes its operand. -/
def mWrite (i : Issue) (op : BitVec 8) (o : MOp) (body : Env → M Unit) (s : State) : State :=
  mForm i op o false (o.fieldsOk true) (fun e => do body e; pure .next) s

/-- An M-format instruction without operand: `MODE`, `BASE` and `DISP16` must be 0. -/
def mNone (i : Issue) (op : BitVec 8) (o : MOp) (body : Env → M Flow) (s : State) : State :=
  mForm i op o false o.zero body s

/-- A B-format instruction (R96). -/
def bForm (i : Issue) (op : BitVec 8) (off : BitVec 24) (body : Env → M Flow) (s : State) : State :=
  issue i (bWord op off) 1 (fun e => do
    act (fun s => s.clearResume e.q)
    body e) s

/-- An S-format instruction (R97): an undefined `SUB`, then the level, then reserved `OPND` bits. -/
def sForm (i : Issue) (op sub : BitVec 8) (opnd : BitVec 16) (priv subOk opndOk : Bool) (body : Env → M Flow) (s : State) :
    State :=
  issue i (sWord op sub opnd) 1 (fun e => do
    if !subOk then fault e cUNDEF_OP
    if priv && e.user then fault e cPRIV
    if !opndOk then fault e cRESERVED_FIELD
    act (fun s => s.clearResume e.q)
    body e) s

/-! ### Operands (R98 to R101) -/

/-- An operand that `MODE` and `BASE` select: a register, an immediate, or a cell in memory with its authority and the
move of its base register (R101). -/
inductive Opd where
  | reg (b : Nat)
  | imm (c : Cell)
  | mem (va : Nat) (u : Auth) (step : Option (Nat × Int))
  deriving DecidableEq, Repr

/-- `FADDR` of an operand: its cell, or 0 for a register or an immediate (R169). -/
def Opd.faddr : Opd → Nat
  | .mem va _ _ => va
  | _ => 0

/-- The capability in register `b` (R99). -/
def Regs.capReg (r : Regs) (b : Nat) : Cell := if b == 0 then r.f else if b == 1 then r.e else if b == 2 then r.s else r.c

/-- The cell that a register gives as an operand (R87, R98). -/
def Regs.read (r : Regs) (b : Nat) : Cell :=
  if b < 4 then r.capReg b else if b == 4 then fixOfNat r.x.toNat else if b == 5 then fixOfNat r.y.toNat else r.a

/-- The base address of a `BASE` register and the authority that it gives. -/
def baseOf (e : Env) (r : Regs) (b opn : Nat) : M (Int × Auth) :=
  if b < 4 then do
    let c := r.capReg b
    let u ← authOf e c opn false (b == 0 || b == 2)
    pure ((c.pay : Int), u)
  else pure ((if b == 4 then r.x.toInt else r.y.toInt), Auth.all)

/-- Form the operand (R98 to R100). `opn` is the operand's place in the instruction (R168). -/
def formOpd (e : Env) (o : MOp) (opn : Nat) : M Opd := do
  let r ← regsM e
  let b := o.base.toNat
  match o.mode.toNat with
  | 0 => pure (.reg b)
  | 4 => pure (.imm (mkFIX o.d))
  | 5 => pure (.imm (mkFIX o.e))
  | 9 =>
    let u ← authOf e r.a 1 true false
    let ix : Int := if b == 4 then r.x.toInt else if b == 5 then r.y.toInt else 0
    let va ← checkRange e ((r.a.pay : Int) + 16 * (ix + o.d)) opn
    pure (.mem va u none)
  | 10 =>
    let va ← checkRange e (((e.pc / 16 * 16 : Nat) : Int) + 16 * o.d) opn
    pure (.mem va .all none)
  | m =>
    let (base, u) ← baseOf e r b opn
    let off : Int := if m == 1 then 16 * o.d else if m == 2 then 16 * (r.x.toInt + o.d)
      else if m == 3 then 16 * (r.y.toInt + o.d) else if m == 6 then 16 * o.e else if m == 8 then -16 else 0
    let va ← checkRange e (base + off) opn
    pure (.mem va u (if m == 7 then some (b, 16) else if m == 8 then some (b, -16) else none))

/-- The base register that the operand steps, and by how much. -/
def Opd.stepOf : Opd → Option (Nat × Int)
  | .mem _ _ d => d
  | _ => none

/-- The update of `MODE` 7 and 8, once the access has completed (R101). -/
def stepOpd (e : Env) (p : Opd) : M Unit :=
  match p with
  | .mem _ _ (some (b, d)) => modRegsM e (fun r => r.stepBase b d)
  | _ => pure ()

/-- The cell of an operand; memory goes through the load barrier (R110). -/
def loadOpd (e : Env) (p : Opd) (opn : Nat) : M Cell :=
  match p with
  | .reg b => look (fun s => (s.regs e.q).read b)
  | .imm c => pure c
  | .mem va u _ => loadCell e u va opn

/-- Form, load and step an operand: its cell and its `FADDR`. -/
def readOpd (e : Env) (o : MOp) (opn : Nat) : M (Cell × Nat) := do
  let p ← formOpd e o opn
  let c ← loadOpd e p opn
  stepOpd e p
  pure (c, p.faddr)

/-- TAG_RESERVED for a cell that an instruction interprets (R31 step 1). -/
def checkReserved (e : Env) (c : Cell) (opn faddr : Nat) : M Unit :=
  if c.reserved then fault e cTAG_RESERVED 0 opn 0 faddr else pure ()

/-- TAG_MISMATCH where the tag is not accepted (R31 step 2). -/
def checkTag (e : Env) (ok : Bool) (opn faddr : Nat) : M Unit :=
  if ok then pure () else fault e cTAG_MISMATCH 0 opn 0 faddr

/-- Write a cell to the register that an operand names (R86, R87), as a move (R30). A refusal names the cell written, operand `vopn` of the
instruction, which comes from a register or, for CAS, from the cell at `vfa`. -/
def writeReg (e : Env) (b vopn vfa : Nat) (v : Cell) : M Unit := do
  if b == 6 then setA e v
  else
    if b < 4 then
      if v.tag != tagCAP then fault e cCAP_TAG 0 vopn
      modRegsM e (fun r =>
        if b == 0 then { r with f := v } else if b == 1 then { r with e := v }
        else if b == 2 then { r with s := v } else { r with c := v })
    else
      checkTag e v.isWordTag vopn vfa
      modRegsM e (fun r => if b == 4 then { r with x := v.payload } else { r with y := v.payload })

/-- Store a cell, operand `vopn`, to a formed operand, operand `opn`, then step its base. -/
def storeOpd (e : Env) (p : Opd) (opn vopn vfa : Nat) (v : Cell) : M Unit :=
  match p with
  | .reg b => writeReg e b vopn vfa v
  | .imm _ => fault e cRESERVED_FIELD
  | .mem va u _ => do
    storeCell e u va opn v
    stepOpd e p

end Sys2Proof.Machine
end

