-- ==== Sys2Proof/Machine/Flags.lean ====
section
/-! DEFINITION. The flags of ST that instructions write: the sticky floating flags (R61), and C, V and DZ of the RAW group
(R63 to R65). -/

namespace Sys2Proof.Machine

/-- Set ST bit `n` where `b` holds; a set bit stays (the sticky flags). -/
def stick (st : Word64) (n : Nat) (b : Bool) : Word64 := if b then setBit st n true else st

/-- The floating flags of an operation are or-ed into ST (R61). -/
def orFlags (st : Word64) (f : FpFlags) : Word64 :=
  stick (stick (stick (stick (stick st stFNV f.nv) stFDZ f.dz) stFOF f.ovf) stFUF f.uf) stFNX f.nx

def stickM (e : Env) (n : Nat) (b : Bool) : M Unit := modRegsM e (fun r => { r with st := stick r.st n b })

/-- The outcome of a RAW instruction (R64): the result, C and V, and whether DZ is set. -/
structure RawRes where
  v : Nat
  c : Bool := false
  o : Bool := false
  dz : Bool := false
  deriving DecidableEq, Repr

/-- ST after a RAW instruction (R64). -/
def RawRes.flags (r : RawRes) (st : Word64) : Word64 := stick (setBit (setBit st stC r.c) stV r.o) stDZ r.dz

/-- The signed value is outside −2^63 to 2^63 − 1. -/
def offRange (i : Int) : Bool := i < -9223372036854775808 || 9223372036854775807 < i

/-- The value of a 64-bit pattern read as signed. -/
def s64 (n : Nat) : Int := signedOf 64 n

def rawAdd (a b : Nat) : RawRes := { v := (a + b) % 2 ^ 64, c := 2 ^ 64 ≤ a + b, o := offRange (s64 a + s64 b) }
def rawSub (a b : Nat) : RawRes := { v := (a + 2 ^ 64 - b) % 2 ^ 64, c := a < b, o := offRange (s64 a - s64 b) }
def rawMul (a b : Nat) : RawRes := { v := (a * b) % 2 ^ 64, c := 2 ^ 64 ≤ a * b, o := offRange (s64 a * s64 b) }

/-- Unsigned division: quotient, or the remainder where `rem`. -/
def rawDivU (rem : Bool) (a b : Nat) : RawRes :=
  if b == 0 then { v := if rem then a else 2 ^ 64 - 1, dz := true }
  else { v := if rem then a % b else a / b }

/-- Signed division, truncating; the remainder has the dividend's sign. -/
def rawDivS (rem : Bool) (a b : Nat) : RawRes :=
  if b == 0 then { v := if rem then a else 2 ^ 64 - 1, dz := true }
  else
    let q := (s64 a).tdiv (s64 b)
    { v := wrapInt 64 (if rem then (s64 a).tmod (s64 b) else q), o := offRange q }

def rawLogic (v : Nat) : RawRes := { v := v }

/-- Logical left shift by `n` (R64, R65). -/
def rawShl (a n : Nat) : RawRes :=
  if n == 0 then { v := a }
  else if 64 < n then { v := 0 }
  else { v := (a * 2 ^ n) % 2 ^ 64, c := a.testBit (64 - n) }

/-- Logical right shift. -/
def rawShr (a n : Nat) : RawRes :=
  if n == 0 then { v := a }
  else if 64 < n then { v := 0 }
  else { v := a / 2 ^ n, c := a.testBit (n - 1) }

/-- Arithmetic right shift. -/
def rawSar (a n : Nat) : RawRes :=
  if n == 0 then { v := a }
  else
    let k := if 64 < n then 64 else n
    { v := wrapInt 64 (s64 a / ((2 ^ k : Nat) : Int)), c := if 64 < n then a.testBit 63 else a.testBit (n - 1) }

end Sys2Proof.Machine
end

