-- ==== Sys2Proof/Machine/Numbers.lean ====
section
/-! DEFINITION. Generic arithmetic on values (R41 to R62, R113 to R115): what each instruction accepts, its result and its
own faults. -/

namespace Sys2Proof.Machine

/-- Own faults of a pairing with a QTY operand (R73), named on operand `opn`. -/
def qStop (op : QOp) (st : Word64) (a b : Cell) (opn : Nat) : Option GRes :=
  if a.tag == tagQTY || b.tag == tagQTY then (op.fault (bit st stAFFOK) a b).map (fun c => .stop c 0 opn) else none

/-- A binary64 operation on two operands, after R45, with the head of the result. -/
def floatOp (op : QOp) (f : Nat → Nat → Nat → Nat × FpFlags) (st : Word64) (x y : Arg) : GOut :=
  match qStop op st x.c y.c 2 with
  | some r => { res := r }
  | none =>
    let (a, fa) := x.conv
    let (b, fb) := y.conv
    let (z, fz) := f (frmOf st) a b
    op.deliver (bit st stUNCOFF) x.c y.c a b z ((fa.or fb).or fz)

/-- A TIME of `t` nanoseconds, saturated (R57). -/
def timeOut (t : Int) : GOut :=
  if t < 0 then { res := .cell (mkTIME 0), v := true }
  else if 18446744073709551615 < t then { res := .cell (mkTIME 18446744073709551615), v := true }
  else { res := .cell (mkTIME t.toNat) }

/-- ADD or SUB (R50, R57). -/
def evalAdd (sub : Bool) (st : Word64) (x y : Arg) : GOut :=
  let s : Int := if sub then -1 else 1
  if x.c.tag == tagTIME && y.c.tag == tagTIME then { res := .exact ((x.c.pay : Int) - (y.c.pay : Int)) 1 }
  else if x.c.tag == tagTIME then timeOut ((x.c.pay : Int) + s * y.n)
  else if y.c.tag == tagTIME then timeOut ((y.c.pay : Int) + x.n)
  else if x.c.isExact && y.c.isExact then { res := .exact (x.n * y.d + s * (y.n * x.d)) (x.d * y.d) }
  else floatOp (if sub then .sub else .add) (if sub then fpSub f64 else fpAdd f64) st x y

/-- MUL (R51). -/
def evalMul (st : Word64) (x y : Arg) : GOut :=
  if x.c.isExact && y.c.isExact then { res := .exact (x.n * y.n) (x.d * y.d) }
  else floatOp .mul (fpMul f64) st x y

/-- DIV (R52, R61). -/
def evalDiv (st : Word64) (x y : Arg) : GOut :=
  if x.c.isExact && y.c.isExact then
    if y.n == 0 then { res := .stop 0x07 0 2 } else { res := .exact (x.n * y.d) (x.d * y.n) }
  else
    match qStop .div st x.c y.c 2 with
    | some r => { res := r }
    | none =>
      if y.isZero && bit st stFTRAP then { res := .stop 0x07 1 2 } else floatOp .div (fpDiv f64) st x y

/-- QUOT or REM (R53). -/
def evalQuot (rem : Bool) (_ : Word64) (x y : Arg) : GOut :=
  if y.n == 0 then { res := .stop 0x07 0 2 }
  else { res := .exact (if rem then x.n.tmod y.n else x.n.tdiv y.n) 1 }

/-- ASH (R56). A BIG count that fits a FIX, which is not canonical, counts as the value it denotes (R42; log entry 101). -/
def evalAsh (_ : Word64) (x y : Arg) : GOut :=
  let bl := bitLen x.n.natAbs
  if x.n == 0 then { res := .exact 0 1 }
  else if 0 ≤ y.n then
    (if ((bigBits - bl : Nat) : Int) < y.n then { res := .tooBig } else { res := .exact (x.n * ((2 ^ y.n.toNat : Nat) : Int)) 1 })
  else if (bl : Int) < -y.n then { res := .exact (if x.n < 0 then -1 else 0) 1 }
  else { res := .exact (x.n / ((2 ^ (-y.n).toNat : Nat) : Int)) 1 }

/-- Square-and-multiply over the bits of `m`, least significant first (R115). -/
def fpPow (rm : Nat) : Nat → Nat → Nat → Nat → FpFlags → Nat × FpFlags
  | 0, _, _, acc, fl => (acc, fl)
  | k + 1, m, p, acc, fl =>
    if m == 0 then (acc, fl)
    else
      let (acc1, f1) := if m % 2 == 1 then fpMul f64 rm acc p else (acc, {})
      if m / 2 == 0 then (acc1, fl.or f1)
      else
        let (p1, f2) := fpMul f64 rm p p
        fpPow rm k (m / 2) p1 acc1 ((fl.or f1).or f2)

/-- 1.0 in binary64. -/
def one64 : Nat := 0x3FF0000000000000

/-- IPOW of a FLO or QTY base (R115). -/
def powFloat (st : Word64) (x : Arg) (n : Int) (boxed : Bool) : GOut :=
  match qStop (.pow n) st x.c x.c 2 with
  | some r => { res := r }
  | none =>
    let m := fpAbs f64 x.c.pay
    if boxed && m != 0 && m != one64 then { res := .tooBig }
    else
      let rm := frmOf st
      let opn := if x.c.tag == tagQTY then 2 else 1
      let (p, fl) :=
        if n == 0 then (one64, {})
        else if m == 0 || m == one64 then
          (if n % 2 == 0 then m else x.c.pay, {})
        else fpPow rm 64 n.natAbs x.c.pay one64 {}
      if n < 0 then
        if fpIsZero f64 p && bit st stFTRAP then { res := .stop 0x07 1 opn }
        else
          let (z, fz) := fpDiv f64 rm one64 p
          (QOp.pow n).deliver (bit st stUNCOFF) x.c x.c x.c.pay x.c.pay z (fl.or fz)
      else (QOp.pow n).deliver (bit st stUNCOFF) x.c x.c x.c.pay x.c.pay p fl

/-- IPOW (R115). -/
def evalPow (st : Word64) (x y : Arg) : GOut :=
  let boxed := y.c.tag == tagBIG
  let n := y.n
  if x.c.isExact then
    let (b, d) := canonRat x.n x.d
    if d == 1 && b.natAbs ≤ 1 then
      if b == 0 then
        (if n < 0 then { res := .stop 0x07 0 1 } else { res := .exact (if n == 0 then 1 else 0) 1 })
      else { res := .exact (if n % 2 == 0 then 1 else b) 1 }
    else if boxed then { res := .tooBig }
    else
      let bl := if bitLen b.natAbs < bitLen d then bitLen d else bitLen b.natAbs
      if bigBits ≤ (bl - 1) * n.natAbs then { res := .tooBig }
      else
        let p : Int := b ^ n.natAbs
        let q : Int := ((d ^ n.natAbs : Nat) : Int)
        { res := if n < 0 then .exact q p else .exact p q }
  else powFloat st x n boxed

/-- NEG and ABS (R54). -/
def evalSign (neg : Bool) (st : Word64) (x : Arg) : GOut :=
  if x.c.isExact then { res := .exact (if neg || x.n * x.d < 0 then -x.n else x.n) x.d }
  else
    let op : QOp := if neg then .neg else .abs
    match qStop op st x.c x.c 1 with
    | some r => { res := r }
    | none =>
      let z := if neg then fpNeg f64 x.c.pay else fpAbs f64 x.c.pay
      op.deliver (bit st stUNCOFF) x.c x.c x.c.pay x.c.pay z {}

/-- SQRT (R69, R113). -/
def evalSqrt (st : Word64) (x : Arg) : GOut :=
  match qStop .root st x.c x.c 1 with
  | some r => { res := r }
  | none =>
    let (a, fa) := x.conv
    let (z, fz) := fpSqrt f64 (frmOf st) a
    QOp.root.deliver (bit st stUNCOFF) x.c x.c a a z (fa.or fz)

/-- TOFLO (R45); a NaN is delivered quiet (R62). -/
def evalToflo (_ : Word64) (x : Arg) : GOut :=
  let (a, fa) := x.conv
  { res := .cell (mkFLO (BitVec.ofNat 64 (if fpIsNaN f64 a then f64.quiet a else a))), fl := fa }

/-- CONST nil with `ST.FNV`, for a value that has no exact form (R114). -/
def noExact : GOut := { res := .cell constNil, fl := { nv := true } }

/-- RNDI (R114). -/
def evalRndi (st : Word64) (x : Arg) : GOut :=
  let rm := frmOf st
  let go (n : Int) (d : Nat) : GOut :=
    let r := roundInt rm n d
    { res := .exact r 1, fl := { nx := decide (r * (d : Int) ≠ n) } }
  if x.c.isExact then (let (n, d) := canonRat x.n x.d; go n d)
  else match fpRat f64 x.c.pay with
    | some (n, d) => go n d
    | none => noExact

/-- TONS (R114). -/
def evalTons (_ : Word64) (x : Arg) : GOut :=
  if x.c.qDim != 0x0010000 then { res := .stop 0x03 0 1 }
  else if x.c.qAbs == 1 then { res := .stop 0x05 0 1 }
  else match fpRat f64 x.c.pay with
    | some (n, d) =>
      let m := n * 1000000000
      let r := roundInt 0 m d
      { res := .exact r 1, fl := { nx := decide (r * (d : Int) ≠ m) } }
    | none => noExact

/-- TOSEC (R113). -/
def evalTosec (st : Word64) (x : Arg) : GOut :=
  let (z, f) := ratToF64 (frmOf st) x.n 1000000000
  { res := .cell (mkQTY 0x0010000 0 0 0 (BitVec.ofNat 64 z)), fl := f }

/-- TOTIME (R57, R113). -/
def evalTotime (_ : Word64) (x : Arg) : GOut :=
  if x.c.tag == tagRAW then { res := .cell (mkTIME x.c.pay) } else timeOut x.n

/-- TOINT (R113). -/
def evalToint (_ : Word64) (x : Arg) : GOut := { res := .exact (x.c.pay : Int) 1 }

/-- The relation of two operands (R55), or their own fault (R67, R71). -/
def relate (x y : Arg) : Except GRes (Rel × FpFlags) :=
  if x.c.tag == tagTIME || x.c.tag == tagCHR then .ok (relInt (x.c.pay : Int) (y.c.pay : Int), {})
  else if (x.c.tag == tagQTY || y.c.tag == tagQTY) && x.c.dimOf != y.c.dimOf then .error (.stop 0x03 0 2)
  else if x.c.ptOf != y.c.ptOf then .error (.stop 0x05 0 2)
  else if x.c.isExact && y.c.isExact then
    let (a, b) := canonRat x.n x.d
    let (c, d) := canonRat y.n y.d
    .ok (relInt (a * (d : Int)) (c * (b : Int)), {})
  else
    let (a, fa) := x.conv
    let (b, fb) := y.conv
    .ok (fpCompare f64 a b, fa.or fb)

/-- A compare instruction (R55, R117): `holds` = the relations that make it true. -/
def evalCmp (holds : Rel → Bool) (_ : Word64) (x y : Arg) : GOut :=
  match relate x y with
  | .error r => { res := r }
  | .ok (r, f) => { res := .cell (constBool (holds r)), fl := f }

/-! ### What each instruction accepts (R50 to R58, R113) -/

/-- A generic instruction: its operand tags and its value. A one-operand instruction has its operand in the first
place. -/
structure GenOp where
  two : Bool
  /-- Tags accepted in the first place with some second operand, and in the second with the first (R31). -/
  ok1 : Cell → Bool
  ok2 : Cell → Cell → Bool
  eval : Word64 → Arg → Arg → GOut
  /-- First operands whose every pairing is computed in microcode (R115). -/
  micro : Cell → Bool := fun _ => false

def oneOp (ok : Cell → Bool) (f : Word64 → Arg → GOut) : GenOp :=
  { two := false, ok1 := ok, ok2 := fun _ _ => true, eval := fun st x _ => f st x }

def numTime (c : Cell) : Bool := c.isNumber || c.tag == tagTIME

/-- Second operands of ADD and SUB (R50). -/
def addOk2 (sub : Bool) (a b : Cell) : Bool :=
  if a.tag == tagTIME then b.tag == tagFIX || (sub && b.tag == tagTIME)
  else if b.tag == tagTIME then !sub && a.tag == tagFIX
  else b.isNumber

def cmpOp (holds : Rel → Bool) : GenOp :=
  { two := true
    ok1 := fun a => a.isNumber || a.tag == tagTIME || a.tag == tagCHR
    ok2 := fun a b => if a.tag == tagTIME || a.tag == tagCHR then b.tag == a.tag else b.isNumber
    eval := evalCmp holds }

def intPair : (Word64 → Arg → Arg → GOut) → GenOp := fun f =>
  { two := true, ok1 := Cell.isInt, ok2 := fun _ b => b.isInt, eval := f }

def numPair : (Word64 → Arg → Arg → GOut) → GenOp := fun f =>
  { two := true, ok1 := Cell.isNumber, ok2 := fun _ b => b.isNumber, eval := f }

def relEq (r : Rel) : Bool := r == .equal
def relNe (r : Rel) : Bool := r != .equal
def relLt (r : Rel) : Bool := r == .less
def relLe (r : Rel) : Bool := r == .less || r == .equal
def relGt (r : Rel) : Bool := r == .greater
def relGe (r : Rel) : Bool := r == .greater || r == .equal

def genAdd : GenOp := { two := true, ok1 := numTime, ok2 := addOk2 false, eval := evalAdd false }
def genSub : GenOp := { two := true, ok1 := numTime, ok2 := addOk2 true, eval := evalAdd true }
def genMul : GenOp := numPair evalMul
def genDiv : GenOp := numPair evalDiv
def genQuot : GenOp := intPair (evalQuot false)
def genRem : GenOp := intPair (evalQuot true)
def genNeg : GenOp := oneOp Cell.isNumber (evalSign true)
def genAbs : GenOp := oneOp Cell.isNumber (evalSign false)
def genAsh : GenOp := intPair evalAsh
def genIpow : GenOp := { two := true, ok1 := Cell.isNumber, ok2 := fun _ b => b.isInt, eval := evalPow, micro := Cell.isExact }
def genSqrt : GenOp := oneOp Cell.isNumber evalSqrt
def genToflo : GenOp := oneOp (fun c => c.isExact || c.tag == tagFLO) evalToflo
def genRndi : GenOp := oneOp (fun c => c.isExact || c.tag == tagFLO) evalRndi
def genTons : GenOp := oneOp (fun c => c.tag == tagQTY) evalTons
def genTosec : GenOp := oneOp Cell.isInt evalTosec
def genTotime : GenOp := oneOp (fun c => c.isInt || c.tag == tagRAW) evalTotime
def genToint : GenOp := oneOp (fun c => c.tag == tagCHR || c.tag == tagTIME) evalToint
def genCeq : GenOp := cmpOp relEq
def genCne : GenOp := cmpOp relNe
def genClt : GenOp := cmpOp relLt
def genCle : GenOp := cmpOp relLe
def genCgt : GenOp := cmpOp relGt
def genCge : GenOp := cmpOp relGe

/-- The instructions whose latency includes µ (R113, R117, R180), by opcode. -/
def genOp (op : BitVec 8) : Option GenOp :=
  match op.toNat with
  | 0x20 => some genAdd
  | 0x21 => some genSub
  | 0x22 => some genMul
  | 0x23 => some genDiv
  | 0x24 => some genQuot
  | 0x25 => some genRem
  | 0x26 => some genNeg
  | 0x27 => some genAbs
  | 0x28 => some genAsh
  | 0x29 => some genIpow
  | 0x2A => some genSqrt
  | 0x38 => some genToflo
  | 0x3A => some genRndi
  | 0x3B => some genTons
  | 0x3C => some genTosec
  | 0x3E => some genTotime
  | 0x3F => some genToint
  | 0x50 => some genCeq
  | 0x51 => some genCne
  | 0x52 => some genClt
  | 0x53 => some genCle
  | 0x54 => some genCgt
  | 0x55 => some genCge
  | _ => none

/-- A non-promoting variant (R58): its operands are never boxed. -/
def plainOp (g : GenOp) : GenOp :=
  { g with ok1 := fun a => g.ok1 a && !a.isBoxed, ok2 := fun a b => g.ok2 a b && !b.isBoxed }

end Sys2Proof.Machine
end

