-- ==== Sys2Proof/Machine/Generic.lean ====
section
/-! DEFINITION. Long instructions (R180 to R187), and the generic instructions in a slot: the fast path, the microcode
routine on BIG and RATIO operands, and delivery of results (R41, R44, R47 to R49, R553). -/

namespace Sys2Proof.Machine

/-! ### Long instructions -/

/-- The word of a long instruction under way, with its extension word. -/
def mwordOf (op : BitVec 8) (o : MOp) : MWord := { op := op, mode := o.mode, base := o.base, disp := o.disp, ext := o.ext }
def MWord.opd (w : MWord) : MOp := { mode := w.mode, base := w.base, disp := w.disp, ext := w.ext }
def MWord.word (w : MWord) : Word32 := w.op ++ w.mode ++ w.base ++ w.disp

def setMid (e : Env) (m : Mid) : M Unit := act (fun s => s.modSlot e.q (fun v => { v with mid := m }))

/-- A step of a long instruction ends and more follow (R181). -/
def goOn (e : Env) (l : LongOp) : M Flow := do
  setMid e (.long { l with step := l.step + 1 })
  pure .stay

/-- The last step: `PRG` := 0 and the hold on the work object ends (R186). -/
def endLong (e : Env) (l : LongOp) : M Unit := do
  setMid e Mid.none
  act (fun s => (if l.work == 0 then s else s.unhold e.n l.work).modRegs e.q (fun r => { r with prg := 0 }))

/-- Step 1 of a long instruction: a fault in it leaves nothing held, with `PRG` 0 (R183). -/
def stepOne (e : Env) (body : M Flow) : M Flow := fun s =>
  match body s with
  | .error (.trap t) => .error (.first t)
  | .error (.kept t major u) => .error (.kept t major (u.clearPrg e.q))
  | x => x

/-- A long instruction ends in its first step (R186). -/
def endAtOnce (e : Env) : M Flow := do
  act (fun s => s.clearPrg e.q)
  pure .next

/-- R185 at an instruction with `ST.RESUME` = 1: the progress that `PRG` names, or MICROCODE_CHECK 0x01; where the check
field holds the hold ends (R186). -/
def resumeLong (e : Env) (op : BitVec 8) : M LongOp := do
  let s ← look id
  let prg := (s.regs e.q).prg
  match ((s.auxOf e.n).progress.find? (fun p => p.1 == prg)).map (·.2) with
  | some l =>
    act (fun s => s.modAux e.n (fun a => { a with progress := a.progress.filter (fun p => p.1 != prg) }))
    if l.word.op == op then
      act (fun s => s.clearResume e.q)
      setMid e (.long l)
      pure l
    else
      act (fun s => (if l.work == 0 then s else s.unhold e.n l.work).modRegs e.q (fun r => { r with prg := 0 }))
      fun s => .error (.kept { code := cMICROCODE_CHECK, sub := 1, iword := e.iword } false s)
  | none => fault e cMICROCODE_CHECK 1

/-- `ST.RESUME` = 1. -/
def resuming (e : Env) : M Bool := look (fun s => bit (s.regs e.q).st stRESUME)

/-! ### Cells of operand objects (R49, R553) -/

/-- Read a cell of an operand object in a microcode step, once, and judge it: cells already read are in `got`, by the address
`key` that the object had in step 1; it is read at its present address `va`. -/
def objRead (e : Env) (judge : Cell → M Unit) (va key : Nat) (got : List (Nat × Cell)) : M (Cell × List (Nat × Cell)) := do
  match got.find? (fun p => p.1 == key) with
  | some p =>
    judge p.2
    pure (p.2, got)
  | none => do
    let (t, pa) ← translate e .load va 6
    let v ← readCell e t pa va 6 2
    let c ← passBarrier e t pa 6 v
    judge c
    pure (c, (key, c) :: got)

/-- A cell of an operand object of a tag that R27 allows there (R31). -/
def objCell (e : Env) (ok : Cell → Bool) (va key : Nat) (got : List (Nat × Cell)) : M (Cell × List (Nat × Cell)) :=
  objRead e (fun c => do
    if c.reserved then fault e cTAG_RESERVED 0 6 0 va
    if !ok c then fault e cTAG_MISMATCH 0 6 0 va) va key got

/-- The header of a BIG or RATIO of tag `kind` (R553). -/
def objHeader (e : Env) (kind va : Nat) (got : List (Nat × Cell)) : M (Cell × List (Nat × Cell)) :=
  objRead e (fun c => judgeHdr e c kind 6 va) va va got

/-- A reference that a long instruction read as `c`, as the core passes since have healed it (R236, R246). -/
def LongOp.refNow (l : LongOp) (c : Cell) : Cell := match l.refs.find? (fun p => p.1 == c.pay) with
  | some p => p.2
  | none => c

/-- The references among cells that a long instruction keeps. -/
def keptRefs (l : List Cell) : List (Nat × Cell) := (l.filter Cell.isPointer).map (fun c => (c.pay, c))

/-- A reference that a long instruction keeps goes through the load barrier in each step that uses it (R226, R246). -/
def passRef (e : Env) (l : LongOp) (c : Cell) : M Cell := do
  let s ← look id
  match s.barrierValue (.core e.q.core) (l.refNow c) false with
  | none => fault e cMICROCODE_CHECK 3
  | some (n, s1) => fun _ => .ok (n, s1)

/-- Limb count of a bignum header. -/
def hdrLimbs (h : Cell) : Nat := h.pay % 2 ^ 32

/-- Step 1 of a routine on a BIG: its header, and the limbs that it counts (R48). -/
def scanBig (e : Env) (c : Cell) (got : List (Nat × Cell)) : M (Nat × List (Nat × Cell)) := do
  if c.tag != tagBIG then pure (1, got)
  else
    let (h, got) ← objHeader e tagBIG c.pay got
    pure (hdrLimbs h, got)

/-- Step 1 of a routine on an operand: the cells that give its size, and its limb count (R48). -/
def scanArg (e : Env) (c : Cell) (got : List (Nat × Cell)) : M (Nat × List (Nat × Cell)) := do
  if c.tag == tagRATIO then
    let (_, got) ← objHeader e tagRATIO c.pay got
    let (n, got) ← objCell e Cell.isInt (c.pay + 16) (c.pay + 16) got
    let (d, got) ← objCell e Cell.isInt (c.pay + 32) (c.pay + 32) got
    let (ln, got) ← scanBig e n got
    let (ld, got) ← scanBig e d got
    pure (ln + ld, got)
  else scanBig e c got

/-- The cell at `va` among those read. -/
def gotCell (got : List (Nat × Cell)) (va : Nat) : Cell := match got.find? (fun p => p.1 == va) with
  | some p => p.2
  | none => 0

/-- The integers that an operand consists of: a RATIO's numerator and denominator, or the operand. -/
def partsOf (got : List (Nat × Cell)) (c : Cell) : List Cell :=
  if c.tag == tagRATIO then [gotCell got (c.pay + 16), gotCell got (c.pay + 32)] else [c]

/-- The limbs of an operand that a routine reads: the BIG and the limb's number, in order (R27). -/
def limbList (got : List (Nat × Cell)) (c : Cell) : List (Cell × Nat) :=
  ((partsOf got c).filter (fun p => p.tag == tagBIG)).flatMap (fun p =>
    (List.range (hdrLimbs (gotCell got p.pay))).map (fun i => (p, i)))

/-- Read limbs, each at the present address of its BIG and kept under the address that it had in step 1. -/
def readLimbs (e : Env) (l : LongOp) : List (Cell × Nat) → List (Nat × Cell) → M (List (Nat × Cell))
  | [], got => pure got
  | (c, i) :: rest, got => do
    let now ← passRef e l c
    let (_, got) ← objCell e (fun c => c.tag == tagRAW) (now.pay + 16 * (i + 1)) (c.pay + 16 * (i + 1)) got
    readLimbs e l rest got

/-- The magnitude of `n` limbs from `va`, least significant first (R27). -/
def limbValue (got : List (Nat × Cell)) : Nat → Nat → Nat
  | 0, _ => 0
  | n + 1, va => (gotCell got va).pay + 2 ^ 64 * limbValue got n (va + 16)

/-- The integer that a FIX or BIG denotes (R27, R42). -/
def intOf (got : List (Nat × Cell)) (c : Cell) : Int :=
  if c.tag == tagBIG then
    let h := gotCell got c.pay
    signedMag (h.pay.testBit 63) (limbValue got (hdrLimbs h) (c.pay + 16))
  else c.int

/-- An operand with its value. A RATIO's denominator may be 0, which its use refuses (R42). -/
def argOf (got : List (Nat × Cell)) (c : Cell) : Arg :=
  if c.tag == tagRATIO then { c := c, n := intOf got (gotCell got (c.pay + 16)), d := intOf got (gotCell got (c.pay + 32)) }
  else if c.isInt then { c := c, n := intOf got c } else { c := c }

/-- A value that stands for a boxed operand not yet read: it meets no fault of R73 that the object's value could lift. -/
def boxedArg (c : Cell) : Arg := if c.tag == tagBIG then { c := c, n := 18446744073709551616 } else { c := c, n := 3, d := 2 }

/-! ### Results (R41, R44) -/

/-- Store the limbs of a magnitude. -/
def storeLimbs (e : Env) : Nat → Nat → Nat → M Unit
  | 0, _, _ => pure ()
  | n + 1, va, m => do
    allocStore e (va % 512 == 0) va (mkRAW (m % 2 ^ 64))
    storeLimbs e n (va + 16) (m / 2 ^ 64)

/-- An integer as a FIX, or a new BIG. -/
def boxInt (e : Env) (i : Int) : M Cell :=
  if fitsFix i then pure (mkFIX i)
  else do
    let n := limbCount i.natAbs
    let a ← allocObject e (n + 1) (mkHDR tagBIG (n + 1) (b2n (decide (i < 0)) * 2 ^ 63 + n))
    storeLimbs e n (a + 16) i.natAbs
    refTo tagBIG a

/-- An exact result in canonical form: numerator, then denominator, then the ratio are allocated. -/
def boxRat (e : Env) (n d : Int) : M Cell :=
  let (p, q) := canonRat n d
  if bigBits < bitLen p.natAbs || bigBits < bitLen q then fault e cHEAP_LIMIT
  else if q == 1 then boxInt e p
  else do
    let cn ← boxInt e p
    let cd ← boxInt e (q : Int)
    let a ← allocObject e 3 (mkHDR tagRATIO 3 0)
    allocStore e ((a + 16) % 512 == 0) (a + 16) cn
    allocStore e ((a + 32) % 512 == 0) (a + 32) cd
    refTo tagRATIO a

/-- Deliver a result to A with the flags it sets (R44, R61, R77, R57), or raise its fault; `f1` and `f2` are the addresses
of the operands. `promote` = false: FIX_OVERFLOW in place of a BIG (R58). -/
def deliver (e : Env) (promote : Bool) (f1 f2 : Nat) (g : GOut) : M Unit := do
  let c ← match g.res with
    | .stop code sub opn => fault e code sub opn 0 (if opn == 2 then f2 else f1)
    | .cell c => pure c
    | .exact n d =>
      if promote then boxRat e n d
      else
        let (p, q) := canonRat n d
        if q == 1 && fitsFix p then pure (mkFIX p) else fault e cFIX_OVERFLOW
    | .tooBig => if promote then fault e cHEAP_LIMIT else fault e cFIX_OVERFLOW
  modRegsM e (fun r =>
    { r with
      a := normalize c
      st := stick (stick (orFlags r.st g.fl) stUNCSAT g.sat) stV g.v })

/-- A RATIO operand whose denominator is 0 (R42, R169). -/
def checkDen (e : Env) (x : Arg) (opn faddr : Nat) : M Unit :=
  if x.c.tag == tagRATIO && x.d == 0 then fault e cDIV_ZERO 2 opn 0 faddr else pure ()

/-- Faults of a one-operand instruction name its operand in the first place, at its own address. -/
def GenOp.faddr1 (g : GenOp) (faddr : Nat) : Nat := if g.two then 0 else faddr

/-- Evaluate on values: the first operand is A, or the only operand. -/
def evalGen (e : Env) (g : GenOp) (promote : Bool) (x y : Arg) (faddr : Nat) : M Unit := do
  checkDen e x 1 (g.faddr1 faddr)
  checkDen e y 2 faddr
  let st ← look (fun s => (s.regs e.q).st)
  deliver e promote (g.faddr1 faddr) faddr (g.eval st x y)

/-- The faults of R73 that need no object, judged in step 1 before anything else. -/
def earlyGen (e : Env) (g : GenOp) (x y : Arg) (faddr : Nat) : M Unit := do
  let st ← look (fun s => (s.regs e.q).st)
  match (g.eval st x y).res with
  | .stop code sub opn =>
    if code == cDIM_MISMATCH || code == cDIM_OVERFLOW || code == cAFFINE || (code == cDIV_ZERO && sub == 1) then
      fault e code sub opn 0 (if opn == 2 then faddr else g.faddr1 faddr)
    else pure ()
  | _ => pure ()

/-! ### The microcode routine -/

/-- Step 1: sizes, and the work object of 1 + 2(n + m) cells (R184, R186; log entries 21 and 22). It stands before the result's size is
known, so a result that is too large raises HEAP_LIMIT with no allocation of its own but with the work object made (R44, log
entry 136). -/
def microFirst (e : Env) (op : BitVec 8) (o : MOp) (g : GenOp) (x y : Cell) (faddr : Nat) : M Flow := do
  let (n, got) ← scanArg e x []
  let (m, got) ← if g.two then scanArg e y got else pure (0, got)
  let cells := 1 + 2 * (n + m)
  let w ← allocObject e cells (mkHDR tagSTR cells 0)
  act (fun s => s.hold e.n w)
  goOn e { word := mwordOf op o, step := 0, work := w, routine := .micro x y faddr got
           refs := keptRefs (x :: y :: got.map (·.2)) }

/-- The limb count of an operand whose headers have been read, as R48 counts it. -/
def limbsIn (got : List (Nat × Cell)) (c : Cell) : Nat :=
  ((partsOf got c).map (fun p => if p.tag == tagBIG then hdrLimbs (gotCell got p.pay) else 1)).foldl (· + ·) 0

/-- The bound of R48 on the routine that computes `r` from operands of `n` and `m` limbs. -/
def microBound (op : BitVec 8) (ratio : Bool) (n m : Nat) (r : GRes) : Nat :=
  let (num, den) : Nat × Nat := match r with
    | .exact a d => (let (p, q) := canonRat a d; (p.natAbs, q))
    | _ => (1, 1)
  if ratio || den != 1 then 80 + 12 * ((n + m) * (n + m))
  else if op == 0x22 then 24 + 3 * (n * m)
  else if op == 0x23 || op == 0x24 || op == 0x25 then 40 + 8 * (n * m)
  else if op == 0x28 then 20 + 2 * (limbCount num + n)
  else if op == 0x38 then 30 + 2 * n
  else 20 + 2 * (n + m)

/-- The further steps: eight limbs a step until all are read, then the computing, a step for each 64 cycles of the bound of R48; the
last one delivers the result (R181, R184; log entry 21). -/
def microNext (e : Env) (l : LongOp) (x y : Cell) (faddr : Nat) (got : List (Nat × Cell)) : M Flow :=
  match genOp l.word.op with
  | none => pure .next
  | some g => do
    let limbs := limbList got x ++ (if g.two then limbList got y else [])
    let now := (limbs.drop (8 * (l.step - 1))).take 8
    if !now.isEmpty then
      let got ← readLimbs e l now got
      goOn e { l with routine := .micro x y faddr got }
    else do
      let st ← look (fun s => (s.regs e.q).st)
      let r := (g.eval st (argOf got x) (argOf got y)).res
      let ratio := x.tag == tagRATIO || (g.two && y.tag == tagRATIO)
      let bound := microBound l.word.op ratio (limbsIn got x) (if g.two then limbsIn got y else 0) r
      if !r.stops && l.step - cdiv limbs.length 8 < cdiv bound 64 then goOn e l
      else do
        evalGen e g true (argOf got x) (argOf got y) faddr
        endLong e l
        pure .next

/-- Start a generic instruction whose operands have been read and judged. Operands outside the heap go to microcode where the
instruction computes in it, or hand over to it where the result needs a BIG or RATIO (R47, R180); their own faults arise
first. A comparison of two CHR stands in no fast row of R47 and in no row of R48: it runs at once (log entry 137). -/
def startGen (e : Env) (op : BitVec 8) (o : MOp) (g : GenOp) (x y : Cell) (faddr : Nat) : M Flow :=
  if x.isBoxed || (g.two && y.isBoxed) then stepOne e (do
    earlyGen e g (if x.isBoxed then boxedArg x else argOf [] x) (if y.isBoxed then boxedArg y else argOf [] y) faddr
    microFirst e op o g x y faddr)
  else do
    let st ← look (fun s => (s.regs e.q).st)
    let r := (g.eval st (argOf [] x) (argOf [] y)).res
    let plainly : M Flow := do
      evalGen e g true (argOf [] x) (argOf [] y) faddr
      pure .next
    if g.micro x || r.boxed then stepOne e (if r.stops then plainly else microFirst e op o g x y faddr)
    else plainly

/-- Read the operands of a generic instruction and judge their tags in the order of R31. -/
def readGen (e : Env) (o : MOp) (g : GenOp) : M (Cell × Cell × Nat) := do
  if g.two then
    let (c, fa) ← readOpd e o 2
    let r ← regsM e
    checkReserved e r.a 1 0
    checkReserved e c 2 fa
    checkTag e (g.ok1 r.a) 1 0
    checkTag e (g.ok2 r.a c) 2 fa
    pure (r.a, c, fa)
  else
    let (c, fa) ← readOpd e o 1
    checkReserved e c 1 fa
    checkTag e (g.ok1 c) 1 fa
    pure (c, c, fa)

/-- A generic instruction that may take the microcode path: with `ST.RESUME` = 1 it is judged under R185 (log entry 23). -/
def genForm (i : Issue) (op : BitVec 8) (o : MOp) (g : GenOp) (s : State) : State :=
  issue i (mWord op o) o.slots (fun e => do
    checkM e e.pc o (o.fieldsOk false)
    if ← resuming e then
      let l ← resumeLong e op
      match l.routine with
      | .micro x y fa got => microNext e l x y fa got
      | _ => fault e cMICROCODE_CHECK 1
    else
      let (x, y, fa) ← readGen e o g
      startGen e op o g x y fa) s

/-- A non-promoting variant (R58): never boxed, never microcode. -/
def plainForm (i : Issue) (op : BitVec 8) (o : MOp) (g : GenOp) (s : State) : State :=
  mRead i op o (fun e => do
    let (x, y, fa) ← readGen e o (plainOp g)
    evalGen e (plainOp g) false (argOf [] x) (argOf [] y) fa) s

end Sys2Proof.Machine
end

