-- ==== Sys2Proof/Machine/Arithmetic.lean ====
section
/-! DEFINITION. The generic arithmetic and comparison instructions (R50 to R58, R113 to R117). -/

namespace Sys2Proof.Machine

/-- ADD (R50). -/
def execAdd (i : Issue) (o : MOp) (s : State) : Out := .next (genForm i 0x20 o genAdd s)
/-- SUB (R50). -/
def execSub (i : Issue) (o : MOp) (s : State) : Out := .next (genForm i 0x21 o genSub s)
/-- MUL (R51). -/
def execMul (i : Issue) (o : MOp) (s : State) : Out := .next (genForm i 0x22 o genMul s)
/-- DIV (R52). -/
def execDiv (i : Issue) (o : MOp) (s : State) : Out := .next (genForm i 0x23 o genDiv s)
/-- QUOT (R53). -/
def execQuot (i : Issue) (o : MOp) (s : State) : Out := .next (genForm i 0x24 o genQuot s)
/-- REM (R53). -/
def execRem (i : Issue) (o : MOp) (s : State) : Out := .next (genForm i 0x25 o genRem s)
/-- NEG (R54). -/
def execNeg (i : Issue) (o : MOp) (s : State) : Out := .next (genForm i 0x26 o genNeg s)
/-- ABS (R54). -/
def execAbs (i : Issue) (o : MOp) (s : State) : Out := .next (genForm i 0x27 o genAbs s)
/-- ASH (R56). -/
def execAsh (i : Issue) (o : MOp) (s : State) : Out := .next (genForm i 0x28 o genAsh s)
/-- IPOW (R115). -/
def execIpow (i : Issue) (o : MOp) (s : State) : Out := .next (genForm i 0x29 o genIpow s)
/-- SQRT (R69). -/
def execSqrt (i : Issue) (o : MOp) (s : State) : Out := .next (genForm i 0x2A o genSqrt s)
/-- TOFLO (R45). -/
def execToflo (i : Issue) (o : MOp) (s : State) : Out := .next (genForm i 0x38 o genToflo s)
/-- RNDI (R114). -/
def execRndi (i : Issue) (o : MOp) (s : State) : Out := .next (genForm i 0x3A o genRndi s)
/-- TONS (R114). -/
def execTons (i : Issue) (o : MOp) (s : State) : Out := .next (genForm i 0x3B o genTons s)
/-- TOSEC (R113). -/
def execTosec (i : Issue) (o : MOp) (s : State) : Out := .next (genForm i 0x3C o genTosec s)
/-- TOTIME (R57). -/
def execTotime (i : Issue) (o : MOp) (s : State) : Out := .next (genForm i 0x3E o genTotime s)
/-- TOINT (R113). -/
def execToint (i : Issue) (o : MOp) (s : State) : Out := .next (genForm i 0x3F o genToint s)
/-- ADDN (R58). -/
def execAddn (i : Issue) (o : MOp) (s : State) : Out := .next (plainForm i 0x30 o genAdd s)
/-- SUBN (R58). -/
def execSubn (i : Issue) (o : MOp) (s : State) : Out := .next (plainForm i 0x31 o genSub s)
/-- MULN (R58). -/
def execMuln (i : Issue) (o : MOp) (s : State) : Out := .next (plainForm i 0x32 o genMul s)
/-- QUOTN (R58). -/
def execQuotn (i : Issue) (o : MOp) (s : State) : Out := .next (plainForm i 0x33 o genQuot s)
/-- NEGN (R58). -/
def execNegn (i : Issue) (o : MOp) (s : State) : Out := .next (plainForm i 0x34 o genNeg s)
/-- ABSN (R58). -/
def execAbsn (i : Issue) (o : MOp) (s : State) : Out := .next (plainForm i 0x35 o genAbs s)
/-- ASHN (R58). -/
def execAshn (i : Issue) (o : MOp) (s : State) : Out := .next (plainForm i 0x36 o genAsh s)
/-- CEQ (R55, R117). -/
def execCeq (i : Issue) (o : MOp) (s : State) : Out := .next (genForm i 0x50 o genCeq s)
/-- CNE (R55, R117). -/
def execCne (i : Issue) (o : MOp) (s : State) : Out := .next (genForm i 0x51 o genCne s)
/-- CLT (R55, R117). -/
def execClt (i : Issue) (o : MOp) (s : State) : Out := .next (genForm i 0x52 o genClt s)
/-- CLE (R55, R117). -/
def execCle (i : Issue) (o : MOp) (s : State) : Out := .next (genForm i 0x53 o genCle s)
/-- CGT (R55, R117). -/
def execCgt (i : Issue) (o : MOp) (s : State) : Out := .next (genForm i 0x54 o genCgt s)
/-- CGE (R55, R117). -/
def execCge (i : Issue) (o : MOp) (s : State) : Out := .next (genForm i 0x55 o genCge s)

/-- TOEX (R114): an exact operand passes through; a finite FLO gives its exact value. -/
def execToex (i : Issue) (o : MOp) (s : State) : Out :=
  .next (mRead i 0x39 o (fun e => do
    let (c, fa) ← readOpd e o 1
    checkReserved e c 1 fa
    checkTag e (c.isExact || c.tag == tagFLO) 1 fa
    if c.isExact then setA e c
    else match fpRat f64 c.pay with
      | some (n, d) => deliver e true fa fa { res := .exact n (d : Int) }
      | none => deliver e true fa fa noExact) s)

/-- TOCHR (R113): a value outside the scalar ranges of R23 raises TAG_MISMATCH. -/
def execTochr (i : Issue) (o : MOp) (s : State) : Out :=
  .next (mRead i 0x3D o (fun e => do
    let (c, fa) ← readOpd e o 1
    checkReserved e c 1 fa
    checkTag e (c.tag == tagFIX) 1 fa
    checkTag e (c.pay < 0xD800 || (0xE000 ≤ c.pay && c.pay ≤ 0x10FFFF)) 1 fa
    setA e (plain tagCHR c.pay)) s)

end Sys2Proof.Machine
end

