-- ==== Sys2Proof/Machine/QuantityOps.lean ====
section
/-! DEFINITION. The quantity group, 0x40 to 0x4A (R83, R116). -/

namespace Sys2Proof.Machine

/-- Judge A and the operand in the order of R31. -/
def judge2 (e : Env) (a c : Cell) (fa : Nat) (ok1 ok2 : Bool) : M Unit := do
  checkReserved e a 1 0
  checkReserved e c 2 fa
  checkTag e ok1 1 0
  checkTag e ok2 2 fa

/-- A quantity instruction with an operand. -/
def qForm (i : Issue) (op : BitVec 8) (o : MOp) (ok1 ok2 : Cell → Bool) (f : Env → Cell → Cell → Nat → M Unit) (s : State) :
    State :=
  mRead i op o (fun e => do
    let (c, fa) ← readOpd e o 2
    let r ← regsM e
    judge2 e r.a c fa (ok1 r.a) (ok2 c)
    f e r.a c fa) s

/-- A quantity instruction without operand. -/
def qNone (i : Issue) (op : BitVec 8) (o : MOp) (ok : Cell → Bool) (f : Cell → Cell) (s : State) : State :=
  mNone i op o (fun e => do
    let r ← regsM e
    checkReserved e r.a 1 0
    checkTag e (ok r.a) 1 0
    setA e (f r.a)
    pure .next) s

def isQTY (c : Cell) : Bool := c.tag == tagQTY

/-- `SPEC` of a QTY with one field replaced. -/
def withUnc (c : Cell) (u : Nat) : Cell := normalize (setField c 87 72 u)

/-- The decoded u of a code as binary64; +∞ for 0xFFFF (R83). -/
def uncFlo (code : Nat) : Nat := if code == 0xFFFF then f64.infBits false else (roundRat f64 0 false (uncUnits code) (2 ^ 57)).1

/-- A binary64 magnitude as a code (R75). -/
def uncOfFlo (b : Nat) : Nat := match fpRat f64 b with
  | some (n, d) => uncEncode (n.natAbs * 2 ^ 57) d
  | none => 0xFFFF

/-- QMK: the payload of A under R45, the head from the operand's bits [51:0]; a FLO NaN is not made quiet (log entry 146). -/
def execQmk (i : Issue) (o : MOp) (s : State) : Out :=
  .next (qForm i 0x40 o (fun a => a.tag == tagFIX || a.tag == tagFLO) (fun c => c.tag == tagRAW) (fun e a c _ => do
    let (p, f) := Arg.conv { c := a, n := a.int }
    modRegsM e (fun r => { r with a := mkCell tagQTY 0 (c.pay % 2 ^ 52) p, st := orFlags r.st f })) s)

def execQstrip (i : Issue) (o : MOp) (s : State) : Out :=
  .next (qNone i 0x41 o (fun a => isQTY a || a.tag == tagFLO) (fun a => mkFLO a.payload) s)

/-- QDIMEQ: FIX and FLO count as dimensionless. -/
def execQdimeq (i : Issue) (o : MOp) (s : State) : Out :=
  .next (qForm i 0x42 o (fun a => a.tag == tagFIX || a.isInexact) (fun c => isQTY c || c.tag == tagRAW) (fun e a c _ =>
    setA e (constBool (a.dimOf == (if isQTY c then c.qDim else c.pay % 2 ^ 28)))) s)

def execQgetu (i : Issue) (o : MOp) (s : State) : Out :=
  .next (qNone i 0x43 o isQTY (fun a => plain tagFLO (uncFlo a.qUnc)) s)

def execQsetu (i : Issue) (o : MOp) (s : State) : Out :=
  .next (qForm i 0x44 o isQTY (fun c => c.tag == tagFLO || c.tag == tagRAW) (fun e a c _ => do
    let u := if c.tag == tagFLO then uncOfFlo c.pay else c.pay % 65536
    modRegsM e (fun r => { r with a := withUnc a u, st := stick r.st stUNCSAT (u == 0xFFFF) })) s)

/-- QGETUA: |p| × u in binary64, to nearest; no flag. -/
def execQgetua (i : Issue) (o : MOp) (s : State) : Out :=
  .next (qNone i 0x45 o isQTY (fun a =>
    mkQTY a.qDim 0 0 a.qHint (BitVec.ofNat 64 (fpMul f64 0 (fpAbs f64 a.pay) (uncFlo a.qUnc)).1)) s)

/-- The code of |operand| ÷ |p|, computed in binary64 to nearest (R83). -/
def uncAbs (p c : Nat) : Nat := if fpIsZero f64 c then 0 else uncOfFlo (fpDiv f64 0 (fpAbs f64 c) (fpAbs f64 p)).1

/-- QSETUA: a difference of `DIM` raises DIM_MISMATCH, a point AFFINE. A zero payload with a non-zero operand
sets UNCSAT, and nothing else does. -/
def execQsetua (i : Issue) (o : MOp) (s : State) : Out :=
  .next (qForm i 0x46 o isQTY isQTY (fun e a c fa => do
    if a.qDim != c.qDim then fault e cDIM_MISMATCH 0 2 0 fa
    if c.qAbs == 1 then fault e cAFFINE 0 2 0 fa
    let zeroDiv := fpIsZero f64 a.pay && !fpIsZero f64 c.pay
    modRegsM e (fun r => { r with a := withUnc a (uncAbs a.pay c.pay), st := stick r.st stUNCSAT zeroDiv })) s)

def execQgeth (i : Issue) (o : MOp) (s : State) : Out := .next (qNone i 0x47 o isQTY (fun a => fixOfNat a.qHint) s)

def execQseth (i : Issue) (o : MOp) (s : State) : Out :=
  .next (qForm i 0x48 o isQTY (fun c => c.tag == tagFIX) (fun e a c fa => do
    checkTag e (c.pay ≤ 127) 2 fa
    setA e (normalize (setField a 70 64 c.pay))) s)

def execQgeta (i : Issue) (o : MOp) (s : State) : Out := .next (qNone i 0x49 o isQTY (fun a => constBool (a.qAbs == 1)) s)

def execQseta (i : Issue) (o : MOp) (s : State) : Out :=
  .next (qForm i 0x4A o isQTY (fun c => c.tag == tagCONST && (c.pay == 1 || c.pay == 2)) (fun e a c _ =>
    setA e (normalize (setField a 71 71 (b2n (c.pay == 1))))) s)

end Sys2Proof.Machine
end

