-- ==== Sys2Proof/Machine/Lists.lean ====
section
/-! DEFINITION. The list group but ASTEP (R121, R122), and the object and vector group (R124, R125, R553). -/

namespace Sys2Proof.Machine

/-! ### List -/

/-- CAR or CDR of an operand that has been read: the cell at `off` of the cons, or nil for nil (R121). -/
def consCell (e : Env) (c : Cell) (off opn : Nat) : M Cell :=
  if c.tag == tagCONST then pure constNil else loadCell e .all (c.pay + off) opn

/-- A CONS or CONST nil. -/
def isList (c : Cell) : Bool := c.tag == tagCONS || (c.tag == tagCONST && c.pay == 0)

def carForm (i : Issue) (op : BitVec 8) (o : MOp) (off : Nat) (s : State) : State :=
  mRead i op o (fun e => do
    let (c, fa) ← readOpd e o 1
    checkReserved e c 1 fa
    checkTag e (isList c) 1 fa
    let v ← consCell e c off 1
    setA e v) s

def execCar (i : Issue) (o : MOp) (s : State) : Out := .next (carForm i 0x80 o 0 s)
def execCdr (i : Issue) (o : MOp) (s : State) : Out := .next (carForm i 0x81 o 16 s)

/-- R146 for a cell that an instruction stores into a heap object, at user level. -/
def checkGlobal (e : Env) (c : Cell) (opn : Nat) : M Unit :=
  if e.user && c.isCapOrSeal && !c.has rGLOBAL then fault e cCAP_RIGHTS 0 opn else pure ()

/-- R34 for a cell that an instruction stores. -/
def checkSystem (e : Env) (c : Cell) (opn : Nat) : M Unit :=
  if e.user && (c.tag == tagFWD || c.tag == tagHDR) then fault e cPRIV 0 opn else pure ()

/-- CONS (R121, R122): the cons is reserved, then the cells are judged and stored. -/
def execCons (i : Issue) (o : MOp) (s : State) : Out :=
  .next (mRead i 0x82 o (fun e => do
    let (c, _) ← readOpd e o 2
    let r ← regsM e
    checkGlobal e r.a 1
    checkGlobal e c 2
    let a ← reserve e 2 true
    let _ ← translate e .store a 0
    checkSystem e r.a 1
    checkSystem e c 2
    allocStore e (a % 512 == 0) a r.a
    allocStore e false (a + 16) c
    act (fun s => s.noteObject a 2 true)
    let v ← refTo tagCONS a
    setA e v) s)

/-- The authority of a cons reference at user level (R145). -/
def consAuth (e : Env) (c : Cell) : Auth :=
  if e.user then .within c.pay ((c.pay + 32 : Nat) : Int) refRights false none else .all

def setCarForm (i : Issue) (op : BitVec 8) (o : MOp) (off : Nat) (s : State) : State :=
  mRead i op o (fun e => do
    let (c, fa) ← readOpd e o 2
    let r ← regsM e
    checkReserved e c 2 fa
    checkTag e (c.tag == tagCONS) 2 fa
    storeCell e (consAuth e c) (c.pay + off) 2 r.a) s

def execSetcar (i : Issue) (o : MOp) (s : State) : Out := .next (setCarForm i 0x83 o 0 s)
def execSetcdr (i : Issue) (o : MOp) (s : State) : Out := .next (setCarForm i 0x84 o 16 s)

/-! ### Allocation -/

/-- The largest count of elements, fields or captured cells. -/
def maxCount : Nat := 2 ^ 40 - 2

/-- A count within its range, or HEAP_LIMIT before any allocation (R124). -/
def checkCount (e : Env) (c : Cell) (limit : Nat) : M Nat :=
  if 0 ≤ c.int && c.int ≤ (limit : Int) then pure c.pay else fault e cHEAP_LIMIT

def execValloc (i : Issue) (o : MOp) (s : State) : Out :=
  .next (mRead i 0x90 o (fun e => do
    let (c, fa) ← readOpd e o 1
    checkReserved e c 1 fa
    checkTag e (c.tag == tagFIX) 1 fa
    let n ← checkCount e c maxCount
    let a ← allocObject e (n + 1) (mkHDR tagVEC (n + 1) n)
    let v ← refTo tagVEC a
    setA e v) s)

def execRalloc (i : Issue) (o : MOp) (s : State) : Out :=
  .next (mRead i 0x92 o (fun e => do
    let (c, fa) ← readOpd e o 2
    let r ← regsM e
    judge2 e r.a c fa r.a.isWordTag (c.tag == tagFIX)
    let n ← checkCount e c maxCount
    let a ← allocObject e (n + 1) (mkHDR tagREC (n + 1) r.a.pay)
    let v ← refTo tagREC a
    setA e v) s)

/-- CLALLOC: the code entry is `BASE` of A, which needs the execute right at either level (R124, R157). -/
def execClalloc (i : Issue) (o : MOp) (s : State) : Out :=
  .next (mRead i 0x93 o (fun e => do
    let (c, fa) ← readOpd e o 2
    let r ← regsM e
    judge2 e r.a c fa (r.a.tag == tagCAP) (c.tag == tagFIX)
    if !r.a.has rEXEC then fault e cCAP_RIGHTS 0 1 0 r.a.pay
    let n ← checkCount e c maxCount
    let a ← allocObject e (n + 1) (mkHDR tagCLO (n + 1) r.a.pay)
    let v ← refTo tagCLO a
    setA e v) s)

/-- Store RAW 0 in `n` body cells of a string from `va` (R122). -/
def zeroBody (e : Env) : Nat → Nat → M Unit
  | 0, _ => pure ()
  | n + 1, va => do
    allocStore e (va % 512 == 0) va (mkRAW 0)
    zeroBody e n (va + 16)

/-- A further step of SALLOC: eight body cells; the last one delivers A (R124; log entry 21). -/
def sallocNext (e : Env) (l : LongOp) (a bytes done : Nat) : M Flow := do
  let left := cdiv bytes 8 - done
  let n := if left < 8 then left else 8
  zeroBody e n (a + 16 + 16 * done)
  if left ≤ 8 then
    let v ← refTo tagSTR a
    setA e v
    endLong e l
    pure .next
  else goOn e { l with routine := .salloc a bytes (done + n) }

/-- SALLOC: step 1 allocates the string, which is the work object (R124, R186). -/
def execSalloc (i : Issue) (o : MOp) (s : State) : Out :=
  .next (issue i (mWord 0x91 o) o.slots (fun e => do
    checkM e e.pc o (o.fieldsOk false)
    if ← resuming e then
      let l ← resumeLong e 0x91
      match l.routine with
      | .salloc a bytes done => sallocNext e l a bytes done
      | _ => fault e cMICROCODE_CHECK 1
    else stepOne e (do
      let (c, fa) ← readOpd e o 1
      checkReserved e c 1 fa
      checkTag e (c.tag == tagFIX) 1 fa
      let n ← checkCount e c (8 * maxCount)
      let cells := 1 + cdiv n 8
      let a ← allocObject e cells (mkHDR tagSTR cells n)
      if cells == 1 then
        let v ← refTo tagSTR a
        setA e v
        endAtOnce e
      else
        act (fun s => s.hold e.n a)
        goOn e { word := mwordOf 0x91 o, step := 0, work := a, routine := .salloc a n 0 })) s)

/-! ### Objects -/

/-- Read an object operand of a tag that `ok` accepts, and its header (R553). -/
def objOpd (e : Env) (o : MOp) (opn : Nat) (ok : Cell → Bool) : M (Cell × Cell) := do
  let (c, fa) ← readOpd e o opn
  checkReserved e c opn fa
  checkTag e (ok c) opn fa
  let h ← readHdr e c opn
  pure (c, h)

/-- The element count, byte length, field count or captured count (R124). -/
def objLen (c h : Cell) : Nat := if c.tag == tagVEC || c.tag == tagSTR then h.pay else h.hdrSize - 1

def execOlen (i : Issue) (o : MOp) (s : State) : Out :=
  .next (mRead i 0x94 o (fun e => do
    let (c, h) ← objOpd e o 1 (fun c => c.tag == tagVEC || c.tag == tagSTR || c.tag == tagREC || c.tag == tagCLO)
    setA e (fixOfNat (objLen c h))) s)

def execRtype (i : Issue) (o : MOp) (s : State) : Out :=
  .next (mRead i 0x98 o (fun e => do
    let (_, h) ← objOpd e o 1 (fun c => c.tag == tagREC)
    setA e (mkRAW h.pay)) s)

/-- The cell of byte `x` of a string, checked against its length and judged RAW (R124, R553). -/
def stringCell (e : Env) (c h : Cell) (x opn : Nat) : M (Nat × Cell) := do
  let va := c.pay + 16 * (1 + x / 8)
  if h.pay ≤ x then fault e cCAP_BOUNDS 0 opn 0 (va % 2 ^ 56)
  let v ← loadCell e .all va opn
  if v.reserved then fault e cTAG_RESERVED 0 opn 0 va
  if v.tag != tagRAW then fault e cTAG_MISMATCH 0 opn 0 va
  pure (va, v)

def execSldb (i : Issue) (o : MOp) (s : State) : Out :=
  .next (mRead i 0x96 o (fun e => do
    let (c, h) ← objOpd e o 1 (fun c => c.tag == tagSTR)
    let r ← regsM e
    let (_, v) ← stringCell e c h r.x.toNat 1
    setA e (fixOfNat (v.pay / 256 ^ (r.x.toNat % 8) % 256))) s)

/-- SSTB: a FIX outside 0 to 255 is not accepted (log entry 31). -/
def execSstb (i : Issue) (o : MOp) (s : State) : Out :=
  .next (mRead i 0x97 o (fun e => do
    let (c, fa) ← readOpd e o 2
    let r ← regsM e
    judge2 e r.a c fa (r.a.tag == tagFIX && r.a.pay ≤ 255) (c.tag == tagSTR)
    let h ← readHdr e c 2
    let x := r.x.toNat
    let (va, v) ← stringCell e c h x 2
    let k := x % 8
    storeCell e .all va 2 (mkRAW (field (setField v (8 * k + 7) (8 * k) r.a.pay) 63 0))) s)

/-! ### VCOPY (R125) -/

/-- The element copied in the step that has `done` before it: descending where source and destination are one object and
Y > X, so that each source cell is read before it is written. -/
def vcopyIndex (src dst : Cell) (x y : Int) (k done : Nat) : Nat :=
  if src.pay == dst.pay && x < y then k - 1 - done else done

/-- A step of VCOPY that copies one element (log entry 21). -/
def vcopyNext (e : Env) (l : LongOp) (dst src : Cell) (x y : Int) (k done : Nat) : M Flow := do
  let j := vcopyIndex src dst x y k done
  let src' ← passRef e l src
  let dst' ← passRef e l dst
  let v ← loadCell e .all (src'.pay + 16 * (1 + x.toNat + j)) 6
  let u : Auth := if e.user then .within 0 ((2 ^ 56 : Nat) : Int) refRights false none else .all
  storeCell e u (dst'.pay + 16 * (1 + y.toNat + j)) 1 v
  if done + 1 == k then
    endLong e l
    pure .next
  else goOn e { l with routine := .vcopy dst src x y k (done + 1) }

/-- X + K, or Y + K, against an element count. -/
def checkSpan (e : Env) (c h : Cell) (x : Int) (k opn : Nat) : M Unit :=
  if 0 ≤ x && x + (k : Int) ≤ (h.pay : Int) then pure ()
  else fault e cCAP_BOUNDS 0 opn 0 (addr56 ((c.pay : Int) + 16 * (x + (k : Int))))

/-- VCOPY: step 1 reads the registers and the headers and makes both checks. -/
def execVcopy (i : Issue) (o : MOp) (s : State) : Out :=
  .next (issue i (mWord 0x95 o) o.slots (fun e => do
    checkM e e.pc o (o.fieldsOk false)
    if ← resuming e then
      let l ← resumeLong e 0x95
      match l.routine with
      | .vcopy dst src x y k done => vcopyNext e l dst src x y k done
      | _ => fault e cMICROCODE_CHECK 1
    else stepOne e (do
      let (c, fa) ← readOpd e o 2
      let r ← regsM e
      judge2 e r.a c fa (r.a.tag == tagVEC) (c.tag == tagVEC)
      let hd ← readHdr e r.a 6
      let hs ← readHdr e c 6
      checkSpan e c hs r.x.toInt r.k.toNat 2
      checkSpan e r.a hd r.y.toInt r.k.toNat 1
      if r.k == 0 then endAtOnce e
      else goOn e { word := mwordOf 0x95 o, step := 0, work := 0,
                    routine := .vcopy r.a c r.x.toInt r.y.toInt r.k.toNat 0, refs := keptRefs [r.a, c] })) s)

end Sys2Proof.Machine
end

