-- ==== Sys2Proof/Machine/Capabilities.lean ====
section
/-! DEFINITION. The capability group, 0xA0 to 0xA9 (R126, R147 to R153). -/

namespace Sys2Proof.Machine

/-- A capability instruction on A and the operand. -/
def capForm (i : Issue) (op : BitVec 8) (o : MOp) (ok1 ok2 : Cell → Bool) (f : Env → Cell → Cell → M Cell) (s : State) :
    State :=
  mRead i op o (fun e => do
    let (c, fa) ← readOpd e o 2
    let r ← regsM e
    judge2 e r.a c fa (ok1 r.a) (ok2 c)
    let v ← f e r.a c
    setA e v) s

/-- A capability instruction without operand. -/
def capNone (i : Issue) (op : BitVec 8) (o : MOp) (f : Cell → Cell) (s : State) : State :=
  qNone i op o Cell.isCapOrSeal f s

def isCAP (c : Cell) : Bool := c.tag == tagCAP

/-- CBOUND (R147): the new cell, if its bounds lie within those of `a`. -/
def cbound (a : Cell) (b n : Int) : Option Cell :=
  if b < 0 || n < 0 || ((2 ^ 56 : Nat) : Int) < b + n then none
  else
    let (le, lb, lt) := encodeLen b.toNat n.toNat
    let g := 2 ^ (le + 4)
    let lo : Int := ((b.toNat / g * g : Nat) : Int)
    let hi : Int := ((cdiv (b.toNat + n.toNat) g * g : Nat) : Int)
    if a.capL ≤ lo && hi ≤ a.capU && lo ≤ a.capU then some (mkCap a.tag a.epoch a.rights a.otype le lb lt b.toNat) else none

def execCbound (i : Issue) (o : MOp) (s : State) : Out :=
  .next (capForm i 0xA0 o isCAP (fun c => c.tag == tagFIX) (fun e a c => do
    let r ← regsM e
    let b : Int := (a.pay : Int) + 16 * r.x.toInt
    match cbound a b c.int with
    | some v => pure v
    | none => fault e cCAP_BOUNDS 0 1 0 (addr56 b)) s)

def execCrights (i : Issue) (o : MOp) (s : State) : Out :=
  .next (capForm i 0xA1 o isCAP Cell.isWordTag (fun _ a c => pure (normalize (setField a 115 104 (a.rights &&& c.pay)))) s)

/-- The type that a type-space capability names (R149): CAP_BOUNDS outside 1 to 65,535 or outside its bounds, then
CAP_RIGHTS without the right. -/
def namedType (e : Env) (c : Cell) (right : Nat) : M Nat := do
  let t := c.pay / 16
  if !(1 ≤ t && t ≤ 65535 && c.coversName t) then fault e cCAP_BOUNDS 0 2 0 c.pay
  if !c.has right then fault e cCAP_RIGHTS 0 2 0 c.pay
  pure t

def execCseal (i : Issue) (o : MOp) (s : State) : Out :=
  .next (capForm i 0xA2 o isCAP isCAP (fun e a c => do
    let t ← namedType e c rSEAL
    pure (normalize (setField (setField a 127 120 tagSEAL) 103 88 t))) s)

def execCunseal (i : Issue) (o : MOp) (s : State) : Out :=
  .next (capForm i 0xA3 o (fun a => a.tag == tagSEAL) isCAP (fun e a c => do
    let t ← namedType e c rUNSEAL
    if t != a.otype then fault e cCAP_SEALED 0 2
    let v := setField (setField a 127 120 tagCAP) 103 88 0
    pure (normalize (if c.has rGLOBAL then v else setField v 115 115 0))) s)

def execCgetb (i : Issue) (o : MOp) (s : State) : Out := .next (capNone i 0xA5 o (fun a => mkRAW a.pay) s)
def execCgetl (i : Issue) (o : MOp) (s : State) : Out := .next (capNone i 0xA6 o (fun a => fixOfNat a.capLen) s)
def execCgetr (i : Issue) (o : MOp) (s : State) : Out := .next (capNone i 0xA7 o (fun a => mkRAW a.rights) s)
def execCgett (i : Issue) (o : MOp) (s : State) : Out := .next (capNone i 0xA8 o (fun a => fixOfNat a.otype) s)

/-- The authority of `a` lies within that of `c` (R148). -/
def capWithin (a c : Cell) : Bool :=
  a.rights &&& c.rights == a.rights && (a.capLen == 0 || (c.capL ≤ a.capL && a.capU ≤ c.capU))

def execCsub (i : Issue) (o : MOp) (s : State) : Out :=
  .next (capForm i 0xA9 o isCAP isCAP (fun _ a c => pure (constBool (capWithin a c))) s)

/-- Push C, then the return capability (R128, R153). -/
def pushCall (e : Env) : M Unit := do
  let r ← regsM e
  push e r.c
  let v ← returnCap e
  push e v

/-- INVOKE (R153). -/
def execInvoke (i : Issue) (o : MOp) (s : State) : Out :=
  .next (mForm i 0xA4 o false (o.fieldsOk false) (fun e => do
    let (c, fa) ← readOpd e o 1
    checkReserved e c 1 fa
    checkTag e (c.tag == tagSEAL) 1 fa
    if !c.has rINVOKE then fault e cCAP_RIGHTS 0 1 0 c.pay
    if !c.covers c.pay 32 then fault e cCAP_BOUNDS 0 1 0 c.pay
    let entry ← loadAt e .all c.pay 1
    let data ← loadAt e .all (c.pay + 16) 3
    checkReserved e entry 1 c.pay
    checkReserved e data 3 (c.pay + 16)
    if entry.tag != tagCAP then fault e cCAP_TAG 0 1
    if !entry.has rEXEC then fault e cCAP_RIGHTS 0 1 0 entry.pay
    if !entry.covers entry.pay 4 then fault e cCAP_BOUNDS 0 1 0 entry.pay
    if data.tag != tagCAP then fault e cCAP_TAG 0 3
    checkTarget e entry.pay
    pushCall e
    modRegsM e (fun r => { r with c := data })
    pure (.goto entry.pay)) s)

end Sys2Proof.Machine
end

