-- ==== Sys2Proof/Machine/Collector.lean ====
section
/-! DEFINITION. The completion collector (R211 to R215): what each port presents, acceptance and retirement. -/

namespace Sys2Proof.Machine

/-- Records that the queue holds (R213). -/
def collDepth : Nat := 1024

/-- The record of a link that port 12 presents: an event before the STAT record (R352). -/
def Link.head (l : Link) : Option (Bool × Record) :=
  match l.events with
  | r :: _ => some (true, r)
  | [] => l.stat.map (fun r => (false, r))

/-- The link whose record port 12 presents next, that of the lowest link, whether it is an event, and the record (R352). -/
def State.linkHead (s : State) : Option (Nat × Bool × Record) :=
  (List.range 8).findSome? (fun n => (s.link n).head.map (fun h => (n, h)))

/-- The record that port `p` presents (R211). -/
def State.portHead (s : State) (p : Nat) : Option Record :=
  if p < 8 then (s.gy p).compl.head?.map (·.2)
  else if p == 12 then s.linkWait
  else if p == 13 then s.panel.posts.head?
  else (SMap.get [] s.ports p).head?

/-- A link's record has been presented and leaves the link's buffer: the end of a CTRL request frees the mailbox, and a link whose records are gone may
train (R346, R352, R353). -/
def State.linkPop (s : State) (n : Nat) (event : Bool) : State :=
  let l := s.link n
  match (if event then l.events else []) with
  | r :: rest => (s.setLink n { l with events := rest, cbusy := l.cbusy && r.rtag / 256 != 4 }).linkKick n
  | [] => s.setLink n { l with stat := .none }

/-- Port 12, when no record waits there, presents the next record of the links: that one is no longer replaced (R213, R352). -/
def State.linkPresent (s : State) : State :=
  match s.linkWait, s.linkHead with
  | none, some (n, ev, r) => { s.linkPop n ev with linkWait := some r }
  | _, _ => s

/-- Port `p`'s record has been admitted. -/
def State.portPop (s : State) (p : Nat) : State :=
  if p < 8 then (s.modGy p (fun z => { z with compl := z.compl.drop 1 })).gyDrain p
  else if p == 12 then { s with linkWait := none }
  else if p == 13 then s.modPanel (fun q => { q with posts := q.posts.drop 1 })
  else { s with ports := SMap.modify [] s.ports p (List.drop 1) }

/-- A presented record: port, and the cycle in which it was first presented. -/
structure Waiting where
  port : Nat
  since : Nat
  rec_ : Record
  deriving DecidableEq, Repr

/-- What the ports present in this cycle, in order of port. -/
def State.presented (s : State) : List Waiting :=
  (List.range 16).filterMap (fun p =>
    (s.portHead p).map (fun r => ⟨p, (SMap.get none s.heads p).getD s.collCycle, r⟩))

/-- In order of admission when the queue cannot take all (R213). -/
def insertWaiting (w : Waiting) : List Waiting → List Waiting
  | [] => [w]
  | x :: l =>
    if w.since < x.since || (w.since == x.since && w.port < x.port) then w :: x :: l else x :: insertWaiting w l

/-- Those of the presented records that are admitted. -/
def admitted (l : List Waiting) (room : Nat) : List Waiting :=
  if l.length ≤ room then l else (l.foldl (fun m w => insertWaiting w m) []).take room

/-- COMPLETION_RECORD_ACCEPTED (R213): one mesh cycle's acceptance; the records of a cycle are placed in order of port. -/
def State.collAccept (s0 : State) : State :=
  let s := s0.linkPresent
  let l := s.presented
  let yes := admitted l (collDepth - s.collQ.length)
  let inPorts := l.filter (fun w => yes.any (fun y => y.port == w.port))
  let t : State := { s with
    collQ := s.collQ ++ inPorts.map Waiting.rec_
    collCycle := s.collCycle + 1
    heads := l.foldl (fun m w =>
      SMap.set none m w.port (if yes.any (fun y => y.port == w.port) then none else some w.since)) s.heads }
  inPorts.foldl (fun u w => u.portPop w.port) t

/-- Bits [127:64] of a completion record (R212). -/
def Record.head (r : Record) : Nat :=
  r.port * 2 ^ 60 + b2n r.dk * 2 ^ 59 + r.status * 2 ^ 48 + r.dest * 2 ^ 16 + r.rtag

/-- The error log's copy of a record (R214, R498). -/
def State.logRecord (s : State) (r : Record) : State := s.logErr 7 0 0x0E 1 r.head r.value

/-- COMPLETION_RECORD_RETIRED (R214, R215): the oldest record posts, completes a CKPT, or is an orphan. -/
def State.collRetire (s : State) : State :=
  match s.collQ with
  | [] => s
  | r :: rest =>
    let t := { s with collQ := rest }
    let orphan := r.dk && s.ctxState r.dest != 5
    let u := if orphan then t else if r.dk then t.ckptComplete r.dest r.status r.value else t.post r.dest
    if orphan || r.status != 0 then u.logRecord r else u

/-- The collector is off in PS4 and PS5 (R443, R459). -/
def execCompletionRecordAccepted (s : State) : Out := .next (s.unheld (if s.power.ps < 4 then s.collAccept else s))
def execCompletionRecordRetired (s : State) : Out := .next (if s.power.ps < 4 then s.collRetire else s)

end Sys2Proof.Machine
end

