-- ==== Sys2Proof/Machine/Control.lean ====
section
/-! DEFINITION. Branches, calls and returns, 0xB0 to 0xBC (R96, R127, R128). -/

namespace Sys2Proof.Machine

/-- A taken branch: the target slot number is the branch's own plus the offset (R96). -/
def branchTo (e : Env) (off : BitVec 24) : M Flow :=
  let n : Int := ((slotNumber e.pc : Nat) : Int) + off.toInt
  if 0 ≤ n && n < ((2 ^ 53 : Nat) : Int) then pure (.goto (slotAddress n.toNat))
  else fault e cPAGE_PROT 4 0 0 (addr56 (16 * (n / 2) + 4 * (n % 2)))

/-- A branch on a condition that may judge A. -/
def branchForm (i : Issue) (op : BitVec 8) (off : BitVec 24) (cond : Env → M Bool) (s : State) : State :=
  bForm i op off (fun e => do
    if ← cond e then branchTo e off else pure .next) s

/-- A is the CONST of the given payload; another tag is refused (R127). -/
def constCond (p : Nat) (e : Env) : M Bool := do
  let r ← regsM e
  checkReserved e r.a 1 0
  checkTag e (r.a.tag == tagCONST) 1 0
  pure (r.a.pay == p)

/-- A is CONST nil; every tag is accepted. -/
def nilCond (e : Env) : M Bool := do
  let r ← regsM e
  pure (r.a.tag == tagCONST && r.a.pay == 0)

def execBr (i : Issue) (off : BitVec 24) (s : State) : Out := .next (branchForm i 0xB0 off (fun _ => pure true) s)
def execBt (i : Issue) (off : BitVec 24) (s : State) : Out := .next (branchForm i 0xB1 off (constCond 1) s)
def execBf (i : Issue) (off : BitVec 24) (s : State) : Out := .next (branchForm i 0xB2 off (constCond 2) s)
def execBnil (i : Issue) (off : BitVec 24) (s : State) : Out := .next (branchForm i 0xB3 off nilCond s)
def execBnnil (i : Issue) (off : BitVec 24) (s : State) : Out :=
  .next (branchForm i 0xB4 off (fun e => do pure (!(← nilCond e))) s)

/-- BKNZ: K = 0 stays 0 and does not branch. -/
def execBknz (i : Issue) (off : BitVec 24) (s : State) : Out :=
  .next (branchForm i 0xB5 off (fun e => do
    let r ← regsM e
    if r.k == 0 then pure false
    else
      modRegsM e (fun r => { r with k := r.k - 1 })
      pure (r.k != 1)) s)

/-- A target operand, checked (R128). -/
def targetOpd (e : Env) (o : MOp) : M Nat := do
  let (c, fa) ← readOpd e o 1
  checkExec e c 1 fa

def execJmp (i : Issue) (o : MOp) (s : State) : Out :=
  .next (mForm i 0xB8 o false (o.fieldsOk false) (fun e => do
    let a ← targetOpd e o
    pure (.goto a)) s)

/-- CALL: the target is checked before anything is pushed. -/
def execCall (i : Issue) (o : MOp) (s : State) : Out :=
  .next (mForm i 0xB9 o false (o.fieldsOk false) (fun e => do
    let a ← targetOpd e o
    let v ← returnCap e
    push e v
    pure (.goto a)) s)

/-- CALLC: C becomes a capability over the closure object with the load right only. -/
def execCallc (i : Issue) (o : MOp) (s : State) : Out :=
  .next (mForm i 0xBA o false (o.fieldsOk false) (fun e => do
    let (c, h) ← objOpd e o 1 (fun c => c.tag == tagCLO)
    checkTarget e h.pay
    pushCall e
    let v ← look (fun s => capOver s.heap.good (2 ^ rLOAD) c.pay (16 * h.hdrSize) c.pay)
    modRegsM e (fun r => { r with c := v })
    pure (.goto h.pay)) s)

/-- The popped target of RET and RETC, checked (R128). -/
def popTarget (e : Env) : M Nat := do
  let r ← regsM e
  let c ← pop e
  checkExec e c 5 r.s.pay

/-- RET. Its operand fields have no use (log entry 27). -/
def execRet (i : Issue) (o : MOp) (s : State) : Out :=
  .next (mForm i 0xBB o false (o.fieldsOk false) (fun e => do
    let a ← popTarget e
    pure (.goto a)) s)

/-- RETC: as RET, then pops C. -/
def execRetc (i : Issue) (o : MOp) (s : State) : Out :=
  .next (mForm i 0xBC o false (o.fieldsOk false) (fun e => do
    let a ← popTarget e
    let r ← regsM e
    let c ← pop e
    checkReserved e c 5 r.s.pay
    if c.tag != tagCAP then fault e cCAP_TAG 0 5
    modRegsM e (fun r => { r with c := c })
    pure (.goto a)) s)

end Sys2Proof.Machine
end

