-- ==== Sys2Proof/Machine/Pins.lean ====
section
/-! DEFINITION. The pins: observation, the JTAG port and boundary scan, and the level that each output ball shows (R527, R528, R532 to
R535, R539, R552). -/

namespace Sys2Proof.Machine

/-! ### The JTAG port (R532, R533) -/

/-- IDCODE's register (R533). -/
def idcodeValue : Nat := 0x264167B3

/-- The instruction that an 8-bit code selects (R532): a private one only under scope bit 2, every other code is BYPASS. -/
def jtagOf (code : Nat) (priv : Bool) : Jtag :=
  if code == 0x01 then .idcode
  else if code == 0x02 then .samplePreload
  else if code == 0x03 then .extest
  else if code == 0x04 then .extestPulse
  else if code == 0x05 then .extestTrain
  else if code == 0x06 then .highz
  else if code == 0x07 then .clamp
  else if 0x80 ≤ code && code ≤ 0xFE && priv then .priv code
  else .bypass

/-- The port works (R539, R543): VDD_IO is on, and no power-on reset is held. -/
def State.jtagLive (s : State) : Bool := s.vddIo && !s.boot.held

/-- Load the instruction of `code`: IDCODE captures the identification register, BYPASS 0. -/
def State.jtagLoad (s : State) (code : Nat) : State :=
  if !s.jtagLive then s
  else
    let j := jtagOf code (s.dbg.scope.testBit 2)
    let x := if j == .idcode then idcodeValue else if j == .bypass then 0 else s.dbg.shifted
    { s with dbg := { s.dbg with jtag := j, shifted := x } }

/-- SAMPLE/PRELOAD: the captured balls are shifted out, the boundary-scan register takes the preloaded values. -/
def State.samplePreload (s : State) (captured : Nat) (preload : List (Ball × Bool)) : State :=
  if !s.jtagLive then s
  else
    let put := fun (m : List Ball) (e : Ball × Bool) => (m.filter (· != e.1)) ++ (if e.2 then [e.1] else [])
    { s with dbg := { s.dbg with jtag := .samplePreload, shifted := captured, scanReg := preload.foldl put s.dbg.scanReg } }

/-- The instruction in force: a private one whose scope bit has gone acts as BYPASS. -/
def State.jtagNow (s : State) : Jtag :=
  match s.dbg.jtag with
  | .priv c => if s.dbg.scope.testBit 2 then .priv c else .bypass
  | j => j

/-- The functional outputs are replaced by the boundary-scan register, or float. What a private instruction does to them is not stated
(log entry 145). -/
def Jtag.replaces : Jtag → Bool
  | .extest | .extestPulse | .extestTrain | .highz | .clamp => true
  | .idcode | .samplePreload | .bypass | .priv _ => false

/-! ### Observation pins (R526 to R528) -/

/-- How long a pin stays low after its OBSSEL was written, in ns: until the first resampled value (R528). -/
def State.obsLatency (s : State) : Nat := if s.power.ps < 3 then 16 else 250

/-- The level of OBS pin `n` while VDD_IO is on (R527, R528, R535). -/
def State.obsLevel (s : State) (n : Nat) : Bool :=
  let a := SMap.get 0 s.dbg.obssel n
  a != 0 && !s.obsDark n && SMap.get 0 s.dbg.obsAt n + s.obsLatency ≤ s.now && Config.obsSignal a s.now

/-! ### Balls (R534, R539) -/

/-- What an output ball shows: a level, nothing that drives it, a differential 0 or electrical idle, or the signal of its protocol. -/
inductive Level where
  | low | high | z | zero | active
  deriving DecidableEq, Repr

def Level.of (b : Bool) : Level := if b then .high else .low

/-- The direction column of R539 says out, or in and out. -/
def ballOut : Ball → Bool
  | .pcieTx .. | .clkreq | .wake | .slTx .. | .tp .. | .cfTx _ | .kso _ | .led _ | .bz | .pen _ | .pmbClk | .pmbDat | .qspiClk
  | .qspiCs | .qspiIo _ | .tdo | .obs _ => true
  | .pcieRx .. | .perst | .hostwk | .slRx .. | .cfRx _ | .ksi _ | .tch _ | .plg _ | .estopA | .estopB | .keysw | .pgd _ | .pmbAlert
  | .pfail | .xtalIn | .xtalOut | .refclk | .bootsel _ | .tck | .tms | .tdi | .trst | .testMode => false

/-- An open-drain output: a 1 releases it. -/
def ballOpenDrain : Ball → Bool
  | .clkreq | .wake | .kso _ | .led _ | .pmbClk | .pmbDat => true
  | _ => false

/-- The ball has a cell in the boundary-scan chain (R534); the balls of the port itself carry the chain (log entry 145). -/
def ballChain : Ball → Bool
  | .xtalIn | .xtalOut | .refclk | .tp .. | .tck | .tms | .tdi | .tdo | .trst => false
  | _ => true

/-- The cell only observes (R534): the emergency-stop, PFAIL_N and PGD inputs, and under the stop the PEN pins of SAFEMASK. -/
def State.observeOnly (s : State) : Ball → Bool
  | .estopA | .estopB | .pfail | .pgd _ => true
  | .pen p => s.panel.eforce && (s.dictNat 0x6100 1 0).testBit p.toNat
  | _ => false

/-- The supply of an output ball is on (R539). -/
def State.supplied (s : State) : Ball → Bool
  | .slTx .. => s.vddIo && s.vddPhy
  | .pcieTx .. | .tp .. => s.vddPhy
  | .qspiClk | .qspiCs | .qspiIo _ | .tdo | .obs _ => s.vddIo
  | _ => true

/-- What the device itself drives (R539): until a unit drives its ball, the state of the last column; QSPI and PMBus are idle between
commands. -/
def State.ballFunc (s : State) : Ball → Level
  | .pen p => .of (s.penLevel p.toNat)
  | .bz => if s.panel.buzzOn then .active else .low
  | .led n => if s.boot.held || !s.ledLit n.toNat then .z else if s.entryNat 0x6201 n.toNat == 100 then .low else .active
  | .kso _ => if s.boot.held then .z else .active
  | .tch _ => if s.boot.held then .low else .active
  | .clkreq => if s.clkreqLow then .low else .z
  | .wake => if s.power.wakeN then .low else .z
  | .cfTx n => if s.portOn s.power.ps (4 + n.toNat) then .active else .high
  | .tp n _ => if s.portOn s.power.ps n.toNat then .active else .z
  | .slTx n _ => if (s.link n.toNat).state == .down then .zero else .active
  | .pcieTx .. => if s.power.link == .l0 then .active else .zero
  | .qspiClk => .low
  | .qspiCs => .high
  | .obs n => .of (s.obsLevel n.toNat)
  | _ => .z

/-- The level that a ball shows (R534, R535): without its supply nothing drives it; an instruction that replaces the functional outputs
does so at every cell that does not only observe. -/
def State.ballLevel (s : State) (b : Ball) : Level :=
  if !s.supplied b then .z
  else if s.jtagNow.replaces && ballOut b && ballChain b && !s.observeOnly b then
    if s.jtagNow == .highz then .z
    else if s.dbg.scanReg.contains b then (if ballOpenDrain b then .z else .high) else .low
  else s.ballFunc b

end Sys2Proof.Machine
end

