-- ==== Sys2Proof/Machine/DependRows.lean ====
section
/-! DEFINITION. What happens in dependability and live change (chapter 20), the service rings (R519) and the JTAG port
(R532 to R534). -/

namespace Sys2Proof.Machine

/-- CORE_RETIREMENT (R484): core `core` is retired, with the contexts and sectors that fail parity; a reset that waited for its slots
follows (R521). -/
def execCoreRetirement (core : BitVec 6) (badCtx badSectors : List Nat) (s : State) : Out :=
  .next (s.unheld (s.retireCore core.toNat badCtx badSectors).atBoundaries)

def execSpareSelfTest (cluster : BitVec 3) (ok : Bool) (s : State) : Out := .next (s.unheld (s.spareTest cluster.toNat ok))
def execHbmScrub (r : ScrubResult) (newer : Bool) (s : State) : Out := .next (s.unheld (s.scrub r newer))
def execVentWatchdog (vc : BitVec 2) (s : State) : Out := .next (s.ventFail vc.toNat)
def execVentRestart (vc : BitVec 2) (s : State) : Out := .next (s.ventRestart vc.toNat)
def execPatchSwitch (core : BitVec 6) (s : State) : Out := .next (s.patchSwitch core.toNat)
def execHandoverAnswer (s : State) : Out := .next s.handoverAnswer
def execImgtmoExpiry (s : State) : Out := .next s.imgTimeout
/-- ERROR_LOG_COMMIT (R499): the work of VC3; in PS4 and PS5, while VC3 is off, the records stay staged. -/
def execErrorLogCommit (s : State) : Out := .next (if s.power.ps < 4 && s.dutyServed 3 then s.commitErrors else s)
def execServiceNop (s : State) : Out := .next s.serviceNop

/-! ### JTAG (R532 to R534) -/

def execIdcode (s : State) : Out := .next (s.jtagLoad 0x01)
def execSamplePreload (captured : Nat) (preload : List (Ball × Bool)) (s : State) : Out := .next (s.samplePreload captured preload)
def execExtest (s : State) : Out := .next (s.jtagLoad 0x03)
def execExtestPulse (s : State) : Out := .next (s.jtagLoad 0x04)
def execExtestTrain (s : State) : Out := .next (s.jtagLoad 0x05)
def execHighz (s : State) : Out := .next (s.jtagLoad 0x06)
def execClamp (s : State) : Out := .next (s.jtagLoad 0x07)
def execBypass (s : State) : Out := .next (s.jtagLoad 0xFF)

end Sys2Proof.Machine
end

