-- ==== Sys2Proof/Machine/DictRows.lean ====
section
/-! DEFINITION. The commands of the object dictionary (R391 to R394, R411 to R430), and the entries whose write is a command
of its own (R446, R449, R483, R490 to R496, R504, R505, R522 to R524). -/

namespace Sys2Proof.Machine

/-! ### Messages -/

def execOhpNop (via : Via) (s : State) : Out := .next (s.message mNOP via)
def execIdent (via : Via) (s : State) : Out := .next (s.message mIDENT via)
def execDread (via : Via) (s : State) : Out := .next (s.message mDREAD via)
def execDwrite (via : Via) (s : State) : Out := .next (s.message mDWRITE via)
def execDreadseg (via : Via) (s : State) : Out := .next (s.message mDREADSEG via)
def execDwriteseg (via : Via) (s : State) : Out := .next (s.message mDWRITESEG via)
def execDmread (via : Via) (s : State) : Out := .next (s.message mDMREAD via)
def execHbeat (via : Via) (s : State) : Out := .next (s.message mHBEAT via)

/-! ### The tick and its third step -/

def execDictionaryTick (s : State) : Out := .next (s.unheld s.dictTick)
def execHeartbeatLapse (s : State) : Out := .next (if s.dictServed then s.lapse else s)
def execDesignationExpiry (s : State) : Out := .next (if s.dictServed then s.desExpiry else s)

/-! ### The dictionary port -/

def execDxcmdNop (c : DxCmd) (s : State) : Out := .next (s.dxcmd (dxCell c 0))
def execDxRead (c : DxCmd) (s : State) : Out := .next (s.dxcmd (dxCell c 1))
def execDxWrite (c : DxCmd) (s : State) : Out := .next (s.dxcmd (dxCell c 2))
def execPublish (c : DxCmd) (s : State) : Out := .next (s.dxcmd (dxCell c 3))
def execWithdraw (c : DxCmd) (s : State) : Out := .next (s.dxcmd (dxCell c 4))

/-! ### Entries with a command of their own -/

/-- A write of an entry as a command; one that comes in PS4 or PS5, or while the vent core that serves the dictionary restarts, waits
until it is served (R412, R489). -/
def State.entryRow (s : State) (w : DictWrite) (index : Nat) (x : WriteEnv := {}) : State :=
  if s.dictServed then s.direct w index x
  else if 4 ≤ s.power.ps || s.dutyWaits 1 then s.modDict (fun d => { d with rows := d.rows ++ [(w, index, x)] })
  else s

/-- A command of IMGCMD, for its own value. -/
def State.imgRow (s : State) (w : DictWrite) (v : Nat) (x : WriteEnv := {}) : State :=
  if leValue w.data == v then s.entryRow w 0x8111 x else s

def execEreset (w : DictWrite) (s : State) : Out := .next (s.entryRow w 0x6103)
def execBzon (w : DictWrite) (s : State) : Out := .next (s.entryRow w 0x6211)
def execRetire (w : DictWrite) (s : State) : Out := .next (s.entryRow w 0x8012)
def execVpatch (w : DictWrite) (chk : SigCheck) (s : State) : Out := .next (s.entryRow w 0x8104 { chk := chk })
def execVpact (w : DictWrite) (s : State) : Out := .next (s.entryRow w 0x8106)
def execMcpatch (w : DictWrite) (chk : SigCheck) (s : State) : Out := .next (s.entryRow w 0x8100 { chk := chk })
def execMcact (w : DictWrite) (s : State) : Out := .next (s.entryRow w 0x8103)
def execImgLoad (w : DictWrite) (chk : SigCheck) (s : State) : Out := .next (s.imgRow w 1 { chk := chk })
def execImgHandOver (w : DictWrite) (s : State) : Out := .next (s.imgRow w 2)
def execImgCancel (w : DictWrite) (s : State) : Out := .next (s.imgRow w 3)
def execImgconf (w : DictWrite) (s : State) : Out := .next (s.entryRow w 0x8114)
def execWarmrst (w : DictWrite) (env : BootEnv) (s : State) : Out := .next (s.entryRow w 0x1012 { env := env })
def execClurst (w : DictWrite) (bad : List Nat) (s : State) : Out := .next (s.entryRow w 0x1013 { bad := bad })
def execUnlock (w : DictWrite) (chk : SigCheck) (s : State) : Out := .next (s.entryRow w 0x9000 { chk := chk })
def execLock (w : DictWrite) (s : State) : Out := .next (s.entryRow w 0x9002)

end Sys2Proof.Machine
end

