-- ==== Sys2Proof/Machine/Events.lean ====
section
/-! DEFINITION. Events and time, 0xC0 to 0xC7 (R129, R155, R203 to R209, R370). -/

namespace Sys2Proof.Machine

/-- A name-space check of R155 at user level: CAP_TAG, CAP_BOUNDS, CAP_RIGHTS. The cell is no operand (log entry 32: `OPN` 0;
`FADDR` the address 16 × name). -/
def checkName (e : Env) (cell name : Nat) (right : Option Nat) : M Unit := do
  if e.user then
    let c ← look (fun s => s.rcell e.n cell)
    if c.tag != tagCAP || c.reserved then fault e cCAP_TAG
    if !c.coversName name then fault e cCAP_BOUNDS 0 0 0 (16 * name)
    match right with
    | some b => if !c.has b then fault e cCAP_RIGHTS 0 0 0 (16 * name)
    | none => pure ()

/-- An EVCH operand: its channel. -/
def evOpd (e : Env) (o : MOp) : M Nat := do
  let (c, fa) ← readOpd e o 1
  checkReserved e c 1 fa
  checkTag e (c.tag == tagEVCH) 1 fa
  pure (c.pay % 65536)

/-- The line that WFE takes: the first with a count from `LAST` + 1 upward modulo 16, and its channel (R206). -/
def State.takeLine (s : State) (n : Nat) : Option (Nat × Nat) :=
  (List.range 16).findSome? (fun i =>
    let l := (s.ctxLast n + 1 + i) % 16
    (s.lineReady n l).map (fun ch => (l, ch)))

/-- WFE (R206): takes an event, or sleeps in `STATE` 3 and runs again once woken. -/
def execWfe (i : Issue) (o : MOp) (s : State) : Out :=
  .next (mNone i 0xC0 o (fun e => do
    match ← look (fun s => s.takeLine e.n) with
    | some (l, ch) =>
      act (fun s => (s.setChan ch { s.chan ch with count := (s.chan ch).count - 1 }).setRecField e.n 25 51 48 l)
      setA e (mkEVCH ch)
      pure .next
    | none =>
      act (fun s => s.sleepAs e.n 3)
      pure .stay) s)

/-- SEV (R203). -/
def execSev (i : Issue) (o : MOp) (s : State) : Out :=
  .next (mRead i 0xC1 o (fun e => do
    let ch ← evOpd e o
    checkName e 21 ch (some rEVSEND)
    act (fun s => s.post ch)) s)

/-- WAITT (R209): completes with `ST.LATE` where the time is past, else sleeps in `STATE` 4. The step of a `MODE` 7 or 8 base is made
when it completes, since an interrupt is taken before the WAITT executes (R101, R208). -/
def execWaitt (i : Issue) (o : MOp) (s : State) : Out :=
  .next (mForm i 0xC2 o false (o.fieldsOk false) (fun e => do
    let p ← formOpd e o 1
    let c ← loadOpd e p 1
    checkReserved e c 1 p.faddr
    checkTag e (c.tag == tagTIME) 1 p.faddr
    if (← look State.now) < c.pay then
      act (fun s => ((s.setRecField e.n 24 63 0 c.pay).sleepAs e.n 4).modAux e.n (fun a => { a with
        resumePc := some e.next, resumeBase := p.stepOf }))
      pure .stay
    else
      stepOpd e p
      stickM e stLATE true
      pure .next) s)

/-- CKPT (R370 steps 1 to 3): earlier stores are ordered, and the context sleeps in `STATE` 5. -/
def execCkpt (i : Issue) (o : MOp) (s : State) : Out :=
  .next (mNone i 0xC3 o (fun e => do
    act (fun s => (s.orderStores e.q).ckptBegin e.n e.next)
    pure .stay) s)

def execRdtime (i : Issue) (o : MOp) (s : State) : Out :=
  .next (mNone i 0xC4 o (fun e => do
    let t ← takeM State.readGtc
    setA e (mkTIME t)
    pure .next) s)

/-- EVSUB by context `n` on channel `ch` (R205). -/
def State.evsub (s : State) (n ch : Nat) : Cell × State :=
  let c := s.chan ch
  let free := (List.range 16).find? (fun l => (SMap.get none (s.auxOf n).lines l).isNone)
  if c.sv then (if c.subc == n then fixOfNat c.line else constFalse, s)
  else match free with
    | none => (constFalse, s)
    | some l =>
      let t := (s.setChan ch { c with sv := true, subc := n, line := l }).modAux n
        (fun a => { a with lines := SMap.set none a.lines l (some ch) })
      (fixOfNat l, t.setRecField n 25 47 32 (t.ctxEmask n ||| 2 ^ l))

/-- EVUNSUB (R205). -/
def State.evunsub (s : State) (n ch : Nat) : Cell × State :=
  let c := s.chan ch
  if c.sv && c.subc == n then
    let t := (s.setChan ch { c with sv := false }).modAux n
      (fun a => { a with lines := SMap.erase a.lines c.line })
    (constTrue, t.setRecField n 25 47 32 (t.ctxEmask n &&& (65535 - 2 ^ c.line)))
  else (constFalse, s)

def execEvsub (i : Issue) (o : MOp) (s : State) : Out :=
  .next (mRead i 0xC5 o (fun e => do
    let ch ← evOpd e o
    checkName e 21 ch none
    let v ← takeM (fun s => s.evsub e.n ch)
    setA e v) s)

def execEvunsub (i : Issue) (o : MOp) (s : State) : Out :=
  .next (mRead i 0xC6 o (fun e => do
    let ch ← evOpd e o
    let v ← takeM (fun s => s.evunsub e.n ch)
    setA e v) s)

/-- EVPEND (R207). -/
def execEvpend (i : Issue) (o : MOp) (s : State) : Out :=
  .next (mRead i 0xC7 o (fun e => do
    let ch ← evOpd e o
    checkName e 21 ch none
    let c ← look (fun s => s.chan ch)
    act (fun s => s.setChan ch { c with count := 0, ovf := false })
    setA e (fixOfNat (b2n c.ovf * 65536 + c.count))) s)

end Sys2Proof.Machine
end

