-- ==== Sys2Proof/Machine/GeyserRows.lean ====
section
/-! DEFINITION. The geyser commands of the table, as writes of GYCMD, and what happens in a geyser (chapter 13). -/

namespace Sys2Proof.Machine

/-- GY_NOP (R301). -/
def execGyNop (g : BitVec 3) (c : GyCmd) (s : State) : Out := .next (s.gyWrite g.toNat (gyCell 0 c))

/-- A command that reads HBM at `span`, with what meets its accesses (R291, R481, R486). -/
def State.gyMeets (s : State) (g cmd : Nat) (c : GyCmd) (span : List (Nat × Nat)) : State :=
  let t := if c.hit.ecc.isEmpty || c.tag != 0x3F#8 || c.epoch != 0 then s
    else s.eccIn (span.flatMap (fun p => granulesOf p.1 p.2)) c.hit.ecc
  t.gyWrite g (gyCell cmd c) (c.hit.meshAt.map (·.toNat))

/-- GY_LOAD (R301, R311). -/
def execGyLoad (g : BitVec 3) (c : GyCmd) (s : State) : Out := .next (s.gyMeets g.toNat 1 c [(c.arg.toNat, 512)])

/-- GY_RUN (R301, R327). -/
def execGyRun (g : BitVec 3) (c : GyCmd) (s : State) : Out := .next (s.gyWrite g.toNat (gyCell 2 c))

/-- GY_PAUSE (R301, R334). -/
def execGyPause (g : BitVec 3) (c : GyCmd) (s : State) : Out := .next (s.gyWrite g.toNat (gyCell 3 c))

/-- GY_STOP (R301, R334). -/
def execGyStop (g : BitVec 3) (c : GyCmd) (s : State) : Out := .next (s.gyWrite g.toNat (gyCell 4 c))

/-- GY_RELOAD (R301, R308). -/
def execGyReload (g : BitVec 3) (c : GyCmd) (s : State) : Out := .next (s.gyWrite g.toNat (gyCell 5 c))

/-- GY_CLEAR (R301). -/
def execGyClear (g : BitVec 3) (c : GyCmd) (s : State) : Out := .next (s.gyWrite g.toNat (gyCell 6 c))

/-- GY_TRIG (R301, R332). -/
def execGyTrig (g : BitVec 3) (c : GyCmd) (s : State) : Out := .next (s.gyWrite g.toNat (gyCell 7 c))

/-- LOADSM (R301). -/
def execLoadsm (g : BitVec 3) (c : GyCmd) (s : State) : Out := 
  .next (s.gyMeets g.toNat 8 c [(c.arg.toNat, 32), s.smSpan c.arg.toNat])

/-- READSM (R301). -/
def execReadsm (g : BitVec 3) (c : GyCmd) (s : State) : Out := .next (s.gyMeets g.toNat 9 c [(c.arg.toNat, 32)])

/-- STAGE_VALUE_PROCESSED (R328); a geyser that is stopped in PS3 processes nothing (R330). -/
def execStageValueProcessed (g : BitVec 3) (slot : BitVec 8) (stage : StageStep) (s : State) : Out :=
  .next (if s.gyClk g.toNat == 0 then s
    else match stage.meshAt with
      | none => s.stageValue g.toNat slot.toNat stage.stage.toNat
      | some pa =>
        (((s.meshLost pa.toNat).modGy g.toNat (fun z => { z with ringFails := true })).stageValue g.toNat slot.toNat
          stage.stage.toNat).modGy g.toNat (fun z => { z with ringFails := false }))

/-- RING_FULL_RECHECK (R324). -/
def execRingFullRecheck (g : BitVec 3) (slot : BitVec 8) (out : BitVec 2) (s : State) : Out :=
  .next (s.ringRecheck g.toNat slot.toNat out.toNat)

/-- DMA_RING_RECORD (R401). -/
def execDmaRingRecord (g : BitVec 3) (slot : BitVec 8) (out : BitVec 2) (cons : Option Word64) (s : State) : Out :=
  .next (s.dmaRecord g.toNat slot.toNat out.toNat cons)

/-- SOURCE_TIMEOUT (R334). -/
def execSourceTimeout (g : BitVec 3) (slot : BitVec 8) (s : State) : Out := .next (s.sourceTimeout g.toNat slot.toNat)

/-- RAMP_END (R334). -/
def execRampEnd (g : BitVec 3) (slot : BitVec 8) (s : State) : Out := .next (s.rampEnd g.toNat slot.toNat)

end Sys2Proof.Machine
end

