-- ==== Sys2Proof/Machine/HeapRows.lean ====
section
/-! DEFINITION. The commands of the collection cycle (R228 to R243) and of the tuff journal in normal running (R368 to
R374). A command whose precondition does not hold leaves the state as it is (log entry 36). -/

namespace Sys2Proof.Machine

/-! ### The cycle -/

def execCycleStart (s : State) : Out := .next s.cycleStart
def execCorePass (core : BitVec 6) (s : State) : Out := .next (s.corePass core.toNat)
def execMarkEnd (s : State) : Out := .next s.markEnd
def execSelect (s : State) : Out := .next s.select
def execRelocateFlip (s : State) : Out := .next s.relocateFlip
/-- A step of an engine: what ECC finds is met (R486); where a mesh transfer fails the step is not done, and the cycle's completion says so
(R481). -/
def State.engineStep (s : State) (h : AgentFault) (f : State → State) : State :=
  if !s.heap.en || s.heap.phase == .idle then f s
  else
    let t := s.eccIn (h.ecc.map (·.1)) h.ecc
    match h.meshAt with
    | some pa => (t.meshLost pa.toNat).modHeap (fun x => { x with cycMesh := true })
    | none => f t

def execEngineCopy (se : BitVec 1) (step : CopyStep) (s : State) : Out :=
  .next (s.engineStep step.hit (fun t => t.engineCopy se.toNat step.obj.toNat))
def execRemap (s : State) : Out := .next s.remap
def execRemapEnd (s : State) : Out := .next s.cycleEnd
def execBlockCleared (block : BitVec 15) (s : State) : Out := .next (s.blockCleared block.toNat)

/-- ENGINE_TRACE (R231): in MARK, while no pass awaits a core (R236). -/
def State.engineTrace (s : State) (se : Nat) (item : TraceItem) : State :=
  if !s.heap.en || s.heap.phase != .mark || s.heap.pass.isSome then s
  else match item with
    | .record n => s.traceRecord se n.toNat
    | .card k => s.traceCard se k.toNat
    | .object => s.traceObject se
    | .rescan b => s.traceBlock se b.toNat

def execEngineTrace (se : BitVec 1) (step : TraceStep) (s : State) : Out :=
  .next (s.engineStep step.hit (fun t => t.engineTrace se.toNat step.item))

def execEngineHeal (se : BitVec 1) (step : HealStep) (s : State) : Out :=
  .next (s.engineStep step.hit (fun t => t.engineHeal se.toNat (match step.item with
    | .record n => .record n.toNat
    | .slot a => .slot a.toNat)))

/-! ### The journal -/

def execCkptAcceptance (ctx : BitVec 14) (s : State) : Out := .next (s.ckptAccept ctx.toNat)
/-- The reads of the oldest commit's cards meet `h` (R292, R481, R486): a card that is lost, or a transfer that failed, fails it. -/
def State.commitHit (s : State) (h : AgentFault) : State :=
  match s.jr.open_ with
  | [] => s
  | c :: l =>
    let gs := c.cards.flatMap (fun k => granulesOf (s.heapPa (512 * k.1)) 512)
    let t := s.eccIn gs h.ecc
    let u := match h.meshAt with | some pa => t.meshLost pa.toNat | none => t
    u.modJr (fun j => { j with open_ := { c with bad := c.bad || gs.any t.poisoned, mesh := h.meshAt.isSome } :: l })

def execCommitComplete (e : CommitEnd) (s : State) : Out :=
  .next ((if e.hit == {} then s else s.commitHit e.hit).commitComplete e.fails.toNat e.ok)
def execWearLevelMove (unit dest : BitVec 17) (e : MoveEnd) (s : State) : Out :=
  .next (s.wearMove unit.toNat dest.toNat e.fails.toNat e.ok e.unread)

def execJcmdNop (c : JCmd) (s : State) : Out := .next (s.jcmd (JCmd.cell c 0) false)
def execRread (c : JCmd) (s : State) : Out := .next 
  ((if c.tag == 0x3F#8 && c.epoch == 0 then s.eccFinds c.arg.toNat 48 c.hit.ecc else s).jcmd (JCmd.cell c 1) c.unread
    (c.hit.meshAt.map (·.toNat)))
def execFull (c : JCmd) (s : State) : Out := .next (s.jcmd (JCmd.cell c 2) false)

end Sys2Proof.Machine
end

