-- ==== Sys2Proof/Machine/HostRows.lean ====
section
/-! DEFINITION. The commands of the host interface (chapter 16): writes of the control window, the memory and ingest windows,
DMA, and the resets and configuration of the PCIe functions. -/

namespace Sys2Proof.Machine

/-- A host write reaches a window while PCIe is on and Memory Space Enable is set (R376, R384). -/
def State.ifOpen (s : State) (f : Nat) (t : State) : State := if s.mainRuns && (s.func f).mse then t else s

/-- FEN_NEGOTIATE (R389): a write of OHPCTL with `FEN` = 1. -/
def execFenNegotiate (f : BitVec 2) (v : Word64) (s : State) : Out :=
  .next (if bit v 0 then s.ifOpen f.toNat (s.ohpctl f.toNat v) else s)

/-- FUNCTION_DISABLE (R396): a write of OHPCTL with `FEN` = 0. -/
def execFunctionDisable (f : BitVec 2) (v : Word64) (s : State) : Out :=
  .next (if bit v 0 then s else s.ifOpen f.toNat (s.ohpctl f.toNat v))

/-- MRST (R396): a write of OHPCTL with `MRST` = 1. -/
def execMrst (f : BitVec 2) (v : Word64) (s : State) : Out :=
  .next (if bit v 1 then s.ifOpen f.toNat (s.ohpctl f.toNat v) else s)

def execDbreq (f : BitVec 2) (v : Word64) (s : State) : Out := .next (s.ifOpen f.toNat (s.dbreq f.toNat v))
def execDbapp (f : BitVec 2) (v : Word64) (chk : SigCheck) (s : State) : Out :=
  .next (s.ifOpen f.toNat (s.dbapp f.toNat v chk))
def execFlr (f : BitVec 2) (s : State) : Out := .next (s.flr f.toNat)
def execPerstN (high : Bool) (s : State) : Out := .next (s.perst high)
def execPcieLinkStateChange (st : PcieLink) (s : State) : Out := .next (s.unheld (s.linkChange st))
def execPcieConfigurationWrite (f : BitVec 2) (r : ConfigReg) (v : Word64) (s : State) : Out :=
  .next (s.unheld (s.configWrite f.toNat v r))

/-- HOST_MEMORY_READ: a memory read request of the host, of any of a function's windows, or a read of its configuration space (log
entry 117). -/
def execHostMemoryRead (f : BitVec 2) (at_ : ReadAt) (run : ReadRun) (s : State) : Out :=
  .next (s.hostRead f.toNat at_.off.toNat run at_.window)
def execHostMemoryWrite (f : BitVec 2) (off : BitVec 36) (data : List Byte) (poisoned : TlpMark) (s : State) : Out :=
  .next (s.memWrite f.toNat off.toNat data poisoned)
def execIngestWrite (f : BitVec 2) (off : BitVec 28) (data : WireData) (s : State) : Out :=
  .next (s.ingestWrite f.toNat off.toNat data)

/-! ### DMA (R400) -/

/-- A DMA command with what meets the read of its block (R291, R481, R486). -/
def State.dmaCmd (s : State) (c : JCmd) (cmd : Nat) : State :=
  let t := if c.tag == 0x3F#8 && c.epoch == 0 then s.eccFinds c.arg.toNat 48 c.hit.ecc else s
  t.dmcmd (JCmd.cell c cmd) (c.hit.meshAt.map (·.toNat))

def execDmcmdNop (c : JCmd) (s : State) : Out := .next (s.dmcmd (JCmd.cell c 0))
def execTohost (c : JCmd) (s : State) : Out := .next (s.dmaCmd c 1)
def execFromhost (c : JCmd) (s : State) : Out := .next (s.dmaCmd c 2)
def execDmaTransferComplete (r : DmaResult) (s : State) : Out := .next (s.dmaComplete r)

end Sys2Proof.Machine
end

