-- ==== Sys2Proof/Machine/LinkRows.lean ====
section
/-! DEFINITION. What happens on the sample links and to the global time counter (chapter 14). -/

namespace Sys2Proof.Machine

/-- ALIGNED (R346). -/
def execAligned (n : BitVec 3) (s : State) : Out := .next (s.aligned n.toNat)

/-- TRAIN_SEND (R346). -/
def execTrainSend (n : BitVec 3) (s : State) : Out := .next (s.trainSend n.toNat)

/-- TRAIN_RECEIVED (R346). -/
def execTrainReceived (n : BitVec 3) (fr : RxFrame) (s : State) : Out := .next (s.linkReceive n.toNat fr)

/-- TRAIN_TIMEOUT (R346). -/
def execTrainTimeout (n : BitVec 3) (s : State) : Out := .next (s.trainTimeout n.toNat)

/-- NOVER_RETRAIN (R346). -/
def execNoverRetrain (n : BitVec 3) (s : State) : Out := .next (s.noverRetrain n.toNat)

/-- LINK_DOWN (R351). -/
def execLinkDown (n : BitVec 3) (cause : LinkLoss) (s : State) : Out := .next (s.linkLoss n.toNat cause)

/-- SAMPLES_FRAME_RECEIVED (R343, R350). -/
def execSamplesFrameReceived (n : BitVec 3) (fr : RxFrame) (s : State) : Out := .next (s.linkReceive n.toNat fr)

/-- SAMPLES_FRAME_SENT (R326, R348). -/
def execSamplesFrameSent (n : BitVec 3) (s : State) : Out := .next (s.samplesSend n.toNat)

/-- TIME_FRAME (R347). -/
def execTimeFrame (n : BitVec 3) (s : State) : Out := .next (s.timeSend n.toNat)

/-- CREDIT (R348). -/
def execCredit (n : BitVec 3) (count : BitVec 8) (s : State) : Out := .next (s.creditIn n.toNat count.toNat)

/-- CTRL_REPLY (R352). -/
def execCtrlReply (n : BitVec 3) (fr : RxFrame) (s : State) : Out := .next (s.linkReceive n.toNat fr)

/-- CTRL_TIMEOUT (R352). -/
def execCtrlTimeout (n : BitVec 3) (s : State) : Out := .next (s.ctrlTimeout n.toNat)

/-- STAT_FRAME (R352). -/
def execStatFrame (n : BitVec 3) (fr : RxFrame) (s : State) : Out := .next (s.linkReceive n.toNat fr)

/-- PTP_EVENT_MESSAGE (R361). -/
def execPtpEventMessage (port : BitVec 2) (m : PtpEvent) (s : State) : Out := .next (s.ptpSync port.toNat m)

/-- PTP_GENERAL_MESSAGE (R360). -/
def execPtpGeneralMessage (port : BitVec 2) (m : PtpGeneral) (s : State) : Out := .next (s.ptpGeneral port.toNat m)

/-- CROSSING_MODE_CHANGE (R364). -/
def execCrossingModeChange (s : State) : Out :=
  .next (s.modTime (fun t => { t with xmode := s.dictNat 0x2400 0 0 }))

end Sys2Proof.Machine
end

