-- ==== Sys2Proof/Machine/Repeats.lean ====
section
/-! DEFINITION. The repeatable instructions and the REP and REPI prefixes (R123, R130, R133 to R138). -/

namespace Sys2Proof

/-- The index register of a one-index operand is X, or else Y. -/
def MOp.indexIsX (o : MOp) : Bool := o.mode == 2 || (o.mode == 9 && o.base == 4)
def MOp.indexIsY (o : MOp) : Bool := o.mode == 3 || (o.mode == 9 && o.base == 5)

/-- The operand indexed by Y that goes with an operand indexed by X. -/
def MOp.byY (o : MOp) : MOp := if o.mode == 2 then { o with mode := 3 } else { o with base := 5 }

end Sys2Proof

namespace Sys2Proof.Machine

/-! ### The repeatable set -/

def opMOVC : BitVec 8 := 0x13
def opMOVCD : BitVec 8 := 0x14
def opFILLC : BitVec 8 := 0x15
def opCMPC : BitVec 8 := 0x57
def opTSCANE : BitVec 8 := 0x5A
def opTSCANN : BitVec 8 := 0x5B
def opASTEP : BitVec 8 := 0x85
def opZLINE : BitVec 8 := 0xD0

/-- The instructions that a prefix may govern (R133). -/
def repeatable (op : BitVec 8) : Bool :=
  [opMOVC, opMOVCD, opFILLC, opCMPC, opTSCANE, opTSCANN, opASTEP, opZLINE].contains op

/-- `MODE` 2, or `MODE` 9 with `BASE` 4: the instructions with two indices (R135). -/
def twoIndexOk (o : MOp) : Bool := o.fieldsOk false && (o.mode == 2 || (o.mode == 9 && o.base == 4))
/-- `MODE` 2, 3, or `MODE` 9 with `BASE` 4 or 5: the instructions with one index (R135). -/
def oneIndexOk (o : MOp) : Bool :=
  o.fieldsOk false && (o.mode == 2 || o.mode == 3 || (o.mode == 9 && (o.base == 4 || o.base == 5)))
/-- The modes of an unprefixed ZLINE (R130). -/
def zlineOk (o : MOp) : Bool :=
  o.fieldsOk false && (o.mode == 1 || o.mode == 2 || o.mode == 3 || o.mode == 6 || o.mode == 9)

/-- The fields that a repeatable instruction allows under a prefix (R135). -/
def repeatOk (op : BitVec 8) (o : MOp) : Bool :=
  if op == opASTEP then o.fieldsOk false
  else if op == opMOVC || op == opMOVCD || op == opCMPC then twoIndexOk o
  else oneIndexOk o

/-! ### One iteration (R135) -/

/-- Move the index register of an operand by `d`. -/
def stepIndex (e : Env) (o : MOp) (d : Int) : M Unit :=
  modRegsM e (fun r =>
    if o.indexIsX then { r with x := r.x + BitVec.ofInt 64 d }
    else if o.indexIsY then { r with y := r.y + BitVec.ofInt 64 d } else r)

/-- Move X and Y by `d`. -/
def stepBoth (e : Env) (d : Int) : M Unit :=
  modRegsM e (fun r => { r with x := r.x + BitVec.ofInt 64 d, y := r.y + BitVec.ofInt 64 d })

/-- MOVC or MOVCD: one cell (R135). Only MOVC feeds the stream detector (R273). R107 orders the checks of one operand; that the source is
formed, checked and read wholly before the destination is formed is the model's choice, here and in CMPC (log entry
134). -/
def moveCell (e : Env) (o : MOp) (d : Int) (feeds : Bool) : M Bool := do
  let src ← formOpd e o 1
  let v ← loadOpd e src 1
  let dst ← formOpd e o.byY 2
  match dst with
  | .mem va u _ => storeCell e u va 2 v feeds
  | _ => pure ()
  stepBoth e d
  pure false

/-- FILLC: one cell. -/
def fillCell (e : Env) (o : MOp) : M Bool := do
  let p ← formOpd e o 2
  let r ← regsM e
  storeOpd e p 2 1 0 r.a
  stepIndex e o 1
  pure false

/-- CMPC: one pair of cells; the search ends where they differ. -/
def compareCell (e : Env) (o : MOp) : M Bool := do
  let p ← formOpd e o 1
  let a ← loadOpd e p 1
  let q ← formOpd e o.byY 2
  let b ← loadOpd e q 2
  if eqCell a b then
    stepBoth e 1
    pure false
  else pure true

/-- The tag that a scan seeks; no scan raises TAG_RESERVED (R32): from A, or in `MODE` 9 from the index register that the mode does not use. -/
def scanTag (e : Env) (o : MOp) : M Nat := do
  let r ← regsM e
  if o.mode == 9 then pure ((if o.base == 4 then r.y else r.x).toNat % 256)
  else
    checkTag e r.a.isWordTag 1 0
    pure (r.a.pay % 256)

/-- TSCANE (`same`) or TSCANN: one cell. -/
def scanCell (e : Env) (o : MOp) (same : Bool) : M Bool := do
  let p ← formOpd e o 2
  let v ← loadOpd e p 2
  let t ← scanTag e o
  if (v.tag == t) == same then pure true
  else
    stepIndex e o 1
    pure false

/-- Zero the cell of vent RAM that a vent core reaches at `va` (R40, R104). -/
def State.zeroVent (s : State) (va : Nat) : State :=
  let pa := ventPlace va
  if regionOf pa == .ventRam then { s with ventRam := SMap.set 0 s.ventRam ((pa - ventRamAt) / 16) 0 } else s

/-- ZLINE: one line (R40, R130, R145, R278, R279). A user-level line that covers the HDR of the object that A names is a
store to that HDR. -/
def zeroOne (e : Env) (o : MOp) : M Bool := do
  let p ← formOpd e o 1
  match p with
  | .mem va u _ => do
    let line := va / 512
    checkBounds e u (512 * line) 512 1
    checkRights e u (512 * line) (2 ^ rSTORE) 1
    match u with
    | .within _ _ _ _ (some h) => if h / 512 == line then fault e cCAP_RIGHTS 0 1 0 h
    | _ => pure ()
    let (t, pa) ← translateSpan e .store va 1 (512 * line) 32
    let r ← look (fun s => s.reached e.q pa)
    if r == .ventRam then
      act (fun s => (List.range 32).foldl (fun t i => t.zeroVent (512 * line + 16 * i)) s)
    if !t.dev && (r == .absent || r == .ventRom) then
      act (fun s => s.failStore e.n (pa / 512 * 512) 3)
    if !t.dev && r == .hbm then
      let s ← look id
      if ((s.core e.q.core).missFind (pa / 512)).isSome then stall (.line (pa / 512))
      let kept := (List.range 32).map (fun i =>
        match s.entryAt (pa / 512 * 512 + 16 * i) with
        | some b => s.filterEntry b 0
        | none => (0 : Cell))
      let own := (s.core e.q.core).inScratch (pa / 512 * 512)
      act (fun s =>
        let s1 := s.zeroLine e.q (pa / 512)
        let s2 := if own || kept.all (· == 0) then s1 else s1.setCells (pa / 512 * 512) kept
        s2.storeBarrier e.n 0 (512 * line))
  | _ => pure ()
  stepIndex e o 32
  pure false

/-- ASTEP: one step (R123); the key is read unless it is held. The search ends where the answer is true. -/
def searchStep (e : Env) (o : MOp) (held : Option Cell) : M (Bool × Cell) := do
  let key ← match held with
    | some k => pure k
    | none => do
      let (k, _) ← readOpd e o 2
      pure k
  let r ← regsM e
  checkReserved e r.a 1 0
  checkTag e (isList r.a) 1 0
  if r.a.tag == tagCONST then pure (true, key)
  else
    let entry ← loadCell e .all r.a.pay 1
    checkReserved e entry 1 r.a.pay
    checkTag e (entry.tag == tagCONS) 1 r.a.pay
    let k ← loadCell e .all entry.pay 1
    if eqCell k key then
      setA e entry
      pure (true, key)
    else
      let d ← loadCell e .all (r.a.pay + 16) 1
      setA e d
      pure (false, key)

/-- One iteration of a repeatable instruction: whether it ends the repeat, and the ASTEP key. -/
def iterate (e : Env) (op : BitVec 8) (o : MOp) (key : Option Cell) : M (Bool × Option Cell) := do
  if op == opASTEP then
    let (b, k) ← searchStep e o key
    pure (b, some k)
  else
    let b ← if op == opMOVC then moveCell e o 1 true
      else if op == opMOVCD then moveCell e o (-1) false
      else if op == opFILLC then fillCell e o
      else if op == opCMPC then compareCell e o
      else if op == opTSCANE then scanCell e o true
      else if op == opTSCANN then scanCell e o false
      else zeroOne e o
    pure (b, none)

/-- A at the end (R135). -/
def endIterations (e : Env) (op : BitVec 8) (ended : Bool) : M Unit :=
  if op == opCMPC then setA e (constBool (!ended))
  else if op == opTSCANE || op == opTSCANN then setA e (constBool ended)
  else pure ()

/-! ### Without a prefix -/

/-- One iteration, K unchanged (R135). -/
def onceForm (i : Issue) (op : BitVec 8) (o : MOp) (ok : Bool) (s : State) : State :=
  mForm i op o false ok (fun e => do
    let (b, _) ← iterate e op o none
    endIterations e op b
    pure .next) s

def execMovc (i : Issue) (o : MOp) (s : State) : Out := .next (onceForm i opMOVC o (twoIndexOk o) s)
def execMovcd (i : Issue) (o : MOp) (s : State) : Out := .next (onceForm i opMOVCD o (twoIndexOk o) s)
def execFillc (i : Issue) (o : MOp) (s : State) : Out := .next (onceForm i opFILLC o (oneIndexOk o) s)
def execCmpc (i : Issue) (o : MOp) (s : State) : Out := .next (onceForm i opCMPC o (twoIndexOk o) s)
def execTscane (i : Issue) (o : MOp) (s : State) : Out := .next (onceForm i opTSCANE o (oneIndexOk o) s)
def execTscann (i : Issue) (o : MOp) (s : State) : Out := .next (onceForm i opTSCANN o (oneIndexOk o) s)
def execAstep (i : Issue) (o : MOp) (s : State) : Out := .next (onceForm i opASTEP o (o.fieldsOk false) s)
def execZline (i : Issue) (o : MOp) (s : State) : Out := .next (onceForm i opZLINE o (zlineOk o) s)

/-! ### Under a prefix -/

/-- Iteration `rp.done` + 1 of a repeat: the repeat goes on, or ends with K as R138 states. -/
def repeatOnce (e : Env) (rp : Repeat) : M Flow := do
  let (b, key) ← iterate e rp.word.op rp.word.opd rp.key
  let n := rp.done + 1
  if b || rp.count ≤ n then
    setMid e Mid.none
    modRegsM e (fun r => { r with k := BitVec.ofNat 32 (rp.count - n) })
    endIterations e rp.word.op b
    pure .next
  else
    setMid e (.rep { rp with done := n, key := key })
    pure .stay

/-- `PRG` where iteration 1 of ASTEP faulted before its key was read. Its value is not stated: it is free, but its parity is
that of no cell, so it is no key (log entry 38). -/
def noKey : Cell := normalize Config.prgNoKey ^^^ (1#128 <<< 117)

/-- The first iteration of a start of the prefix: a fault in it holds the whole count, and the ASTEP key once it has been read
(R123, R137). -/
def firstIteration (e : Env) (rp : Repeat) : M Flow := fun s =>
  let s1 := s.modSlot e.q (fun v => { v with mid := .rep rp })
  match repeatOnce e rp s1 with
  | .error (.trap t) =>
    let s2 := if rp.word.op == opASTEP && rp.key.isNone then
        s1.modRegs e.q (fun r => { r with prg := match readOpd e rp.word.opd 2 s1 with
          | .ok ((k, _), _) => k
          | .error _ => noKey })
      else s1
    .error (.kept t false s2)
  | x => x

/-- The environment of the governed instruction: its own slot and word. -/
def Env.governed (e : Env) (w : MWord) : Env := { e with pc := nextSlot e.pc, iword := w.word }

/-- A prefix with the instruction that it governs (R133, R134): the checks of the pair, the count, and iteration 1. -/
def prefixBody (e : Env) (pop : BitVec 8) (pm pb : BitVec 4) (disp : BitVec 16) (gop : BitVec 8) (o : MOp) : M Flow := do
  if pm != 0 || pb != 0 then fault e cRESERVED_FIELD
  let gpc := nextSlot e.pc
  if gpc / 16 != e.pc / 16 then
    let _ ← fetchWord e gpc 0
  if !repeatable gop then fault e cUNDEF_OP 2
  let w := mwordOf gop o
  let g := e.governed w
  checkM g gpc o (repeatOk gop o)
  let r ← regsM e
  let res := bit r.st stRESUME
  let count := if res then r.k.toNat else if disp == 0 then r.k.toNat else disp.toNat
  let key := if res && gop == opASTEP && normalize r.prg == r.prg then some r.prg else none
  act (fun s => s.clearResume e.q)
  if count == 0 then
    modRegsM e (fun r => { r with k := 0 })
    pure .next
  else firstIteration g { pfx := pop ++ pm ++ pb ++ disp, word := w, count := count, done := 0, key := key }

def prefixForm (i : Issue) (pop : BitVec 8) (pm pb : BitVec 4) (disp : BitVec 16) (gop : BitVec 8) (o : MOp) (s : State) :
    State :=
  issue i (pop ++ pm ++ pb ++ disp) (1 + o.slots) (fun e => prefixBody e pop pm pb disp gop o) s

def execRep (i : Issue) (mode base : BitVec 4) (disp : BitVec 16) (gop : BitVec 8) (o : MOp) (s : State) : Out :=
  .next (prefixForm i 0xF0 mode base disp gop o s)
def execRepi (i : Issue) (mode base : BitVec 4) (disp : BitVec 16) (gop : BitVec 8) (o : MOp) (s : State) : Out :=
  .next (prefixForm i 0xF1 mode base disp gop o s)

/-- The environment of an instruction under way in a slot. -/
def State.midEnv (s : State) (q : Cx) (n : Nat) (w : MWord) (pair : Bool) : Env :=
  let r := s.regs q
  let pc := r.pc.toNat
  let first := if pair then nextSlot pc else pc
  let after := if w.opd.hasExt then nextSlot (nextSlot first) else nextSlot first
  { q := q, n := n, user := !r.machine, iword := w.word, pc := first, next := after }

/-- REPEAT_ITERATION (R135, R136): a due cause is taken at a boundary that takes one; otherwise one further iteration. -/
def execRepeatIteration (i : Issue) (s : State) : Out :=
  let q := Cx.of i
  let v := s.slot q
  .next (match v.ctx, v.mid with
    | some n, .rep rp =>
      if !s.issuable q n then s
      else match (if rp.atBoundary then s.asyncDue n v.regs.st else none) with
        | some t => (s.takeAsync q n t).atBoundaries
        | none =>
          let e := s.midEnv q n rp.word true
          (runIn s i e (repeatOnce e rp)).atBoundaries
    | _, _ => s)

end Sys2Proof.Machine
end

