-- ==== Sys2Proof/Machine/Maintenance.lean ====
section
/-! DEFINITION. Cache and TLB maintenance, 0xD1 to 0xD9 (R130, R251, R261 to R263, R278 to R285), and the events of the
object cache (R270, R274, R291, R486). -/

namespace Sys2Proof.Machine

/-! ### Lines (R278, R279) -/

/-- An operand that is an address: no register and no immediate (R98, log entry 33). -/
def addressOk (o : MOp) : Bool := o.fieldsOk false && o.mode != 0 && o.mode != 4 && o.mode != 5

/-- Treat the line of a translated address: nothing on a `DEV` page; a busy miss register of the executing core makes the
instruction wait (R279). The slot's earlier stores to the line are ordered before it: they leave the buffers first (R278). -/
def treatLine (e : Env) (t : TlbEntry) (pa op : Nat) : M Unit := do
  if !t.dev && regionOf pa == .hbm then
    let s ← look id
    if ((s.core e.q.core).missFind (pa / 512)).isSome then stall (.line (pa / 512))
    act (fun s => ((s.flushAround e.q).drainLine e.q.core (pa / 512)).maintLine op (pa / 512))

/-- DINV (0), DCLEAN (1) and DCINV (2) of one line. -/
def lineForm (i : Issue) (op : BitVec 8) (o : MOp) (kind : Nat) (s : State) : State :=
  mForm i op o true (addressOk o) (fun e => do
    let p ← formOpd e o 1
    match p with
    | .mem va _ _ => do
      let (t, pa) ← translate e .load va 1
      treatLine e t pa kind
      stepOpd e p
    | _ => pure ()
    pure .next) s

def execDinv (i : Issue) (o : MOp) (s : State) : Out := .next (lineForm i 0xD1 o 0 s)
def execDclean (i : Issue) (o : MOp) (s : State) : Out := .next (lineForm i 0xD2 o 1 s)
def execDcinv (i : Issue) (o : MOp) (s : State) : Out := .next (lineForm i 0xD3 o 2 s)

/-! ### DRANGE (R280) -/

/-- One step: the line at `next`; the last step ends the instruction. -/
def drangeNext (e : Env) (l : LongOp) (next stop sub : Nat) : M Flow := do
  let (t, pa) ← translate e .load next 1
  treatLine e t pa sub
  if stop ≤ next + 512 then
    endLong e l
    pure .next
  else goOn e { l with routine := .drange (next + 512) stop sub }

/-- DRANGE of a `SUB`: every line that overlaps X to X + Y − 1, in ascending order, one a step. -/
def drangeForm (i : Issue) (sub : Nat) (opnd : BitVec 16) (s : State) : State :=
  let subw := BitVec.ofNat 8 sub
  issue i (sWord 0xD4 subw opnd) 1 (fun e => do
    if e.user then fault e cPRIV
    if opnd != 0 then fault e cRESERVED_FIELD
    let w : MWord := { op := 0xD4, mode := 0, base := BitVec.ofNat 4 sub, disp := opnd, ext := 0 }
    if ← resuming e then
      let l ← resumeLong e 0xD4
      match l.routine with
      | .drange next stop k => drangeNext e l next stop k
      | _ => fault e cMICROCODE_CHECK 1
    else stepOne e (do
      let r ← regsM e
      let x := r.x.toNat
      let y := r.y.toNat
      if 2 ^ 56 < x + y then fault e cPAGE_PROT 4 0 0 (x % 2 ^ 56)
      if y == 0 then endAtOnce e
      else
        let first := x / 512 * 512
        drangeNext e { word := w, step := 0, work := 0, routine := .drange first (x + y) sub } first (x + y) sub)) s

def execDrangeInvalidate (i : Issue) (opnd : BitVec 16) (s : State) : Out := .next (drangeForm i 0 opnd s)
def execDrangeClean (i : Issue) (opnd : BitVec 16) (s : State) : Out := .next (drangeForm i 1 opnd s)
def execDrangeCleanInvalidate (i : Issue) (opnd : BitVec 16) (s : State) : Out := .next (drangeForm i 2 opnd s)

/-! ### The executing core (R281 to R285) -/

/-- What an instruction does to the executing core's own caches and TLB: a vent core has none (R247, R267). -/
def onCore (e : Env) (f : State → State) : M Unit := if e.q.isVent then pure () else act f

/-- A machine-level S-format instruction with `SUB` 0 only (R97, R131). -/
def machineForm (i : Issue) (op sub : BitVec 8) (opnd : BitVec 16) (opndOk : Bool) (body : Env → M Flow) (s : State) :
    State :=
  sForm i op sub opnd true (sub == 0) opndOk body s

/-- DINVALL also leaves the bit cells of the cache defined (R294). -/
def execDinvall (i : Issue) (sub : BitVec 8) (opnd : BitVec 16) (s : State) : Out :=
  .next (machineForm i 0xD5 sub opnd (opnd == 0) (fun e => do
    onCore e (fun s => (s.invalidateAll e.q.core).modCore e.q.core (fun k => { k with ocDefined := true }))
    pure .next) s)

/-- IINV (R278, R281, R294): every line of the core's instruction cache is invalidated; no word is fetched ahead. -/
def execIinv (i : Issue) (sub : BitVec 8) (opnd : BitVec 16) (s : State) : Out :=
  .next (machineForm i 0xD6 sub opnd (opnd == 0) (fun e => do
    onCore e (fun s => s.modCore e.q.core (fun k => { k with icache := [], icDefined := true }) |>.dirSweep)
    pure .next) s)

/-- Write back, invalidate and take out of the cache the least recently used entries beyond `keep` (R282 step 4). -/
def State.shrinkCache (s : State) (c keep : Nat) : State :=
  ((s.core c).oc.drop keep).foldl (fun t e =>
    (t.writeBackEntry c e).modCore c (fun k => { k with oc := k.oc.filter (fun x => x.line != e.line) })) s

/-- L1LOCK of `n` entries at window base `x` (R282). -/
def State.lockEntries (s : State) (c n x : Nat) : State :=
  let inWin := fun (l : Nat) => x ≤ 512 * l && 512 * l < x + 512 * n
  let s1 := s.modCore c Core.unlock
  let s2 := ((s1.core c).oc.filter (fun e => inWin e.line)).foldl (fun t e => t.writeBackEntry c e) s1
  (s2.shrinkCache c (48 - n)).modCore c (fun k => { k with lockn := n, lbase := x, scratch := [], scratchBad := [] })

def execL1lock (i : Issue) (sub : BitVec 8) (opnd : BitVec 16) (s : State) : Out :=
  let n := field opnd 4 0
  .next (machineForm i 0xD7 sub opnd (field opnd 15 5 == 0 && 1 ≤ n && n ≤ 24) (fun e => do
    let r ← regsM e
    let x := r.x.toNat
    if 2 ^ 48 ≤ x || x % 2 ^ 14 != 0 || hbmEnd < x + 512 * n then fault e cRESERVED_FIELD
    let k ← look (fun s => s.core e.q.core)
    if k.miss.any (fun m => x ≤ 512 * m.line && 512 * m.line < x + 512 * n) then stall .window
    onCore e (fun s => s.lockEntries e.q.core n x)
    pure .next) s)

def execL1unlock (i : Issue) (sub : BitVec 8) (opnd : BitVec 16) (s : State) : Out :=
  .next (machineForm i 0xD8 sub opnd (opnd == 0) (fun e => do
    onCore e (fun s => s.modCore e.q.core Core.unlock)
    pure .next) s)

/-! ### TLBI (R261 to R263) -/

/-- Invalidate the entries that `sel` selects, by index, and mark every walk in progress on the core stale. -/
def Core.tlbi (k : Core) (sel : Nat → TlbEntry → Bool) : Core :=
  { k with
    tlb := k.tlb.filter (fun p => match p.2 with
      | some t => !sel p.1 t
      | none => false)
    slots := k.slots.map (fun p => (p.1, if p.2.walk then { p.2 with stale := true } else p.2)) }

/-- A TLBI reaches every main core, and marks the walk of a context that holds no slot as well (R263, log entry 115). -/
def State.tlbi (s : State) (sel : Nat → TlbEntry → Bool) : State :=
  let t := s.cores.foldl (fun t c => t.modCore c.1 (fun k => k.tlbi sel)) s
  { t with aux := t.aux.map (fun e => (e.1, if e.2.walk then { e.2 with stale := true } else e.2)) }

/-- TLBI of a `SUB`; the selection may refuse its operands. -/
def tlbiForm (i : Issue) (sub : BitVec 8) (opnd : BitVec 16) (ok : Regs → Bool) (sel : Regs → Nat → TlbEntry → Bool)
    (s : State) : State :=
  sForm i 0xD9 sub opnd true true (opnd == 0) (fun e => do
    let r ← regsM e
    if !ok r then fault e cRESERVED_FIELD
    act (fun s => s.tlbi (sel r))
    pure .next) s

/-- `SUB` 0: every replaceable entry. -/
def execTlbiAll (i : Issue) (opnd : BitVec 16) (s : State) : Out :=
  .next (tlbiForm i 0 opnd (fun _ => true) (fun _ ix _ => 16 ≤ ix) s)
/-- `SUB` 1: every entry of one address space that is not global. -/
def execTlbiAsid (i : Issue) (opnd : BitVec 16) (s : State) : Out :=
  .next (tlbiForm i 1 opnd (fun _ => true) (fun r _ t => !t.g && t.asid == r.x.toNat % 4096) s)
/-- `SUB` 2: every entry that would hit X in address space Y[11:0]. -/
def execTlbiAddress (i : Issue) (opnd : BitVec 16) (s : State) : Out :=
  .next (tlbiForm i 2 opnd (fun r => r.x.toNat < 2 ^ 56) (fun r _ t => t.hits (r.y.toNat % 4096) r.x.toNat) s)

/-! ### Events of the object cache -/

/-- OBJECT_CACHE_FILL (R270): a requested sector is written into its entry; the register is free once its mask is empty. A
poisoned granule fills nothing, and the access that waits for it finds the poison (R292). -/
def State.fillSector (s : State) (c line sec : Nat) (ev : EccEvent) : State :=
  match (s.core c).missFind line with
  | none => s
  | some r0 =>
    if !bit r0.mask sec then s
    else
      let g := 4 * line + sec
      let s1 := (s.shareFor c g).eccFound (c / 8) g ev
      let good := !s1.poisoned g
      (if good then s1.dirShare (c / 8) g else s1).modCore c (fun k => { k with
        oc := k.oc.map (fun e => if e.line == line && good then { e with valid := setBit e.valid sec true } else e)
        miss := (k.miss.map (fun r => if r.line == line then { r with mask := setBit r.mask sec false } else r)).filter
          (fun r => r.mask != 0) })

def execObjectCacheFill (core : BitVec 6) (line : BitVec 39) (sector : BitVec 2) (ecc : EccEvent) (s : State) : Out :=
  .next (s.fillSector core.toNat line.toNat sector.toNat ecc)

/-- MERGING_BUFFER_DRAIN (R274): 64 cycles have passed with no store entering the buffer. -/
def execMergingBufferDrain (core : BitVec 6) (s : State) : Out := .next (s.drainMerge core.toNat)

end Sys2Proof.Machine
end

