-- ==== Sys2Proof/Machine/MachineLevel.lean ====
section
/-! DEFINITION. The machine level, 0xE0 to 0xEB (R131, R132, R156 to R161, R196, R197, R250 to R255), the steps of long
instructions (R181), and the events at instruction boundaries (R92, R139, R169, R174). -/

namespace Sys2Proof.Machine

/-! ### Calls, returns and the mask level (R131, R160, R161, R186) -/

/-- MCALL: the cause, with `MRA` at the next instruction. -/
def execMcall (i : Issue) (sub : BitVec 8) (opnd : BitVec 16) (s : State) : Out :=
  .next (sForm i 0xE0 sub opnd false (sub == 0) true (fun e => fault e cMCALL) s)

/-- MRET with `MST.RESUME` = 0 ends the hold that `PRG` names, and `PRG` := 0 (R186). -/
def State.abandon (s : State) (q : Cx) (n : Nat) : State :=
  let prg := (s.regs q).prg
  if field prg 127 120 == 0 then s
  else
    let t := match ((s.auxOf n).progress.find? (fun p => p.1 == prg)).map (·.2) with
      | some l => (if l.work == 0 then s else s.unhold n l.work).modAux n
          (fun a => { a with progress := a.progress.filter (fun p => p.1 != prg) })
      | none => s
    t.modRegs q (fun r => { r with prg := 0 })

/-- MRET: the target's form is checked as a control transfer's is (log entry 34). A vent core never enters the user level (R156), so
its `LVL` stays 1 whatever `MST` holds (log entry 102). -/
def execMret (i : Issue) (sub : BitVec 8) (opnd : BitVec 16) (s : State) : Out :=
  .next (machineForm i 0xE1 sub opnd (opnd == 0) (fun e => do
    let r ← regsM e
    checkTarget e r.mra.toNat
    if !bit r.mst stRESUME then act (fun s => s.abandon e.q e.n)
    modRegsM e (fun r => { r with st := if e.q.isVent then setBit r.mst stLVL true else r.mst })
    act (fun s => s.modSlot e.q (fun v => { v with walk := false, stale := false }))
    pure (.goto r.mra.toNat)) s)

def execSetml (i : Issue) (sub : BitVec 8) (opnd : BitVec 16) (s : State) : Out :=
  .next (machineForm i 0xE2 sub opnd (field opnd 15 4 == 0) (fun e => do
    modRegsM e (fun r => { r with st := setField r.st 55 52 (field opnd 3 0) })
    pure .next) s)

/-! ### Cells and machine registers (R35, R131, R132, R165 to R167) -/

def execMtag (i : Issue) (sub : BitVec 8) (opnd : BitVec 16) (s : State) : Out :=
  .next (machineForm i 0xE3 sub opnd true (fun e => do
    let r ← regsM e
    setA e (cellOfHead r.x r.y)
    pure .next) s)

def execMsplit (i : Issue) (sub : BitVec 8) (opnd : BitVec 16) (s : State) : Out :=
  .next (machineForm i 0xE4 sub opnd true (fun e => do
    modRegsM e (fun r => { r with x := (normalize r.a).head, y := r.a.payload })
    pure .next) s)

/-- The machine register that a `SUB` names, as a cell (R132). -/
def State.machineReg (s : State) (q : Cx) (sub : Nat) : Option Cell :=
  let r := s.regs q
  match sub with
  | 0x00 => some (mkRAW (s.core q.core).men.toNat)
  | 0x01 => some r.mca
  | 0x02 => some r.mca2
  | 0x03 => some (mkRAW r.mra.toNat)
  | 0x04 => some (mkRAW r.mst.toNat)
  | 0x08 => some r.msc0
  | 0x09 => some r.msc1
  | 0x0A => some r.msc2
  | 0x0B => some r.msc3
  | 0x10 => some (mkRAW (field r.prg 63 0))
  | 0x11 => some (mkRAW (field r.prg 127 64))
  | 0x18 => some (mkRAW r.h.toNat)
  | 0x19 => some (mkRAW r.hl.toNat)
  | _ => none

/-- The `SUB` values of MRD and MWR. -/
def machineSub (sub : BitVec 8) : Bool :=
  [0x00#8, 0x01#8, 0x02#8, 0x03#8, 0x04#8, 0x08#8, 0x09#8, 0x0A#8, 0x0B#8, 0x10#8, 0x11#8, 0x18#8, 0x19#8].contains sub

/-- The register is cell-wide. -/
def machineCellWide (sub : Nat) : Bool := sub == 0x01 || sub == 0x02 || (0x08 ≤ sub && sub ≤ 0x0B)

def execMrd (i : Issue) (sub : BitVec 8) (opnd : BitVec 16) (s : State) : Out :=
  .next (sForm i 0xE5 sub opnd true (machineSub sub) true (fun e => do
    let c ← look (fun s => (s.machineReg e.q sub.toNat).getD 0)
    setA e c
    pure .next) s)

/-- Write a machine register from a cell already judged (R88, R89, R132, R166). -/
def State.setMachineReg (s : State) (q : Cx) (sub : Nat) (c : Cell) : State :=
  let p := c.payload
  match sub with
  | 0x00 => s.modCore q.core (fun k => { k with men := slotMask p })
  | 0x01 => s.modRegs q (fun r => { r with mca := mcaMask c })
  | 0x02 => s.modRegs q (fun r => { r with mca2 := mcaMask c })
  | 0x03 => s.modRegs q (fun r => { r with mra := p })
  | 0x04 => s.modRegs q (fun r => { r with mst := stMask p })
  | 0x08 => s.modRegs q (fun r => { r with msc0 := c })
  | 0x09 => s.modRegs q (fun r => { r with msc1 := c })
  | 0x0A => s.modRegs q (fun r => { r with msc2 := c })
  | 0x0B => s.modRegs q (fun r => { r with msc3 := c })
  | 0x10 => s.modRegs q (fun r => { r with prg := setField r.prg 63 0 p.toNat })
  | 0x11 => s.modRegs q (fun r => { r with prg := setField r.prg 127 64 p.toNat })
  | 0x18 => s.modRegs q (fun r => { r with h := addrMask p })
  | 0x19 => s.modRegs q (fun r => { r with hl := addrMask p })
  | _ => s

def execMwr (i : Issue) (sub : BitVec 8) (opnd : BitVec 16) (s : State) : Out :=
  .next (sForm i 0xE6 sub opnd true (machineSub sub) true (fun e => do
    let r ← regsM e
    if !machineCellWide sub.toNat then
      checkReserved e r.a 1 0
      checkTag e r.a.isWordTag 1 0
    act (fun s => s.setMachineReg e.q sub.toNat r.a)
    pure .next) s)

/-! ### TLBW (R252 to R255, R263) -/

def execTlbw (i : Issue) (sub : BitVec 8) (opnd : BitVec 16) (s : State) : Out :=
  .next (machineForm i 0xE7 sub opnd true (fun e => do
    let v ← look (fun s => s.slot e.q)
    if !v.stale then
      let r := v.regs
      checkReserved e r.a 1 0
      checkTag e r.a.isWordTag 1 0
      if !tlbwOk r.a.pay r.x r.y then fault e cRESERVED_FIELD
      let auto := r.a.pay.testBit 7
      let ix := r.a.pay % 128
      onCore e (fun s => s.modCore e.q.core (fun k =>
        if bit r.x 63 then k.tlbWrite auto ix (tlbEntryOf r.x r.y)
        else if auto then k
        else { k with tlb := SMap.erase k.tlb ix }))
    act (fun s => s.modSlot e.q (fun v => { v with walk := false, stale := false }))
    pure .next) s)

/-! ### Physical accesses (R250) -/

/-- The attributes of a physical access: no page takes part. -/
def physEntry : TlbEntry :=
  { sz := 0, g := true, vpn := 0, asid := 0, pfn := 0, dev := false, wt := false, u := false, x := false, w := true, r := true }

/-- The physical address in X; a non-zero X[63:48] is refused. -/
def physAddr (e : Env) (acc : Nat) : M Nat := do
  let r ← regsM e
  let x := r.x.toNat
  if 2 ^ 48 ≤ x then fault e cPAGE_PROT 4 0 acc (x / 16 * 16 % 2 ^ 56)
  pure (x / 16 * 16)

/-- PLD (R131, R250): WALK_DEVICE in an assigned device region; an unpopulated or unassigned address raises BUS_ERROR as the read
finds it (log entry 92). -/
def execPld (i : Issue) (sub : BitVec 8) (opnd : BitVec 16) (s : State) : Out :=
  .next (machineForm i 0xE8 sub opnd true (fun e => do
    let pa ← physAddr e 5
    if regionOf pa == .device then fault e cWALK_DEVICE 0 0 5 pa
    let v ← readCell e physEntry pa pa 0 5
    let c ← passBarrier e physEntry pa 0 v
    setA e c
    pure .next) s)

/-- PST: the marking of the store barrier applies; a card is found by virtual slot, so none is set (log entry 35). -/
def execPst (i : Issue) (sub : BitVec 8) (opnd : BitVec 16) (s : State) : Out :=
  .next (machineForm i 0xE9 sub opnd true (fun e => do
    let pa ← physAddr e 6
    let r ← regsM e
    writePhys e false pa pa 0 6 r.a true (fun s => if s.heap.en then s.storeMark r.a else s)
    pure .next) s)

/-! ### Context records (R196, R197) -/

/-- Cell `c` of context `n` may take cell `v` (R197): a cause, or none. -/
def State.recordRefuses (s : State) (n c : Nat) (v : Cell) : Option Nat :=
  if 1 ≤ c && c ≤ 4 then (if v.tag == tagCAP then none else some cCAP_TAG)
  else if c < 24 || 26 < c then none
  else if v.tag != tagRAW || v.epoch != 0 then some cRESERVED_FIELD
  else if c == 24 then
    let st := field v 83 81
    if field v 71 64 != 0 || (5 ≤ st && st != s.ctxState n) then some cRESERVED_FIELD else none
  else if c == 25 then (if field v 84 52 != 0 || 41 ≤ field v 92 85 then some cRESERVED_FIELD else none)
  else none

/-- The cell that CTXST leaves: `RES`, `CORE`, `SLOT`, `LAST` and `CKSEQ` keep their values (R197), and so does the fault
record, whose Access is HW (R5, R190; log entry 106). -/
def keepHw (old v : Cell) (c : Nat) : Cell :=
  if c == 24 then setField v 80 72 (field old 80 72)
  else if c == 25 then setField v 51 48 (field old 51 48)
  else if c == 26 then setField v 63 0 (field old 63 0)
  else if c < 27 then v
  else old

/-- Write a cell of a record that is not resident, or cells 21 to 23 and 25 to 31 of one that is (R196, R197). A change of
`STATE`, `PC`, `EMASK` or `ST` has its consequence at once (R194, R206, R208). Where a context goes on that a write of `STATE`
takes out of 4 or 5 is not stated: the model has it execute its WAITT or CKPT again (log entry 112). -/
def State.ctxWrite (s : State) (n c : Nat) (v : Cell) : State :=
  let was := s.ctxState n
  let t := s.setRec n c (keepHw (s.rcell n c) v c)
  if c == 24 then
    let now := t.ctxState n
    if now == was then t.checkEvents n |>.checkInterrupts n
    else
      let u := t.modAux n (fun a => { a with resumePc := none, resumeBase := none, ckptWait := false, durWait := false })
      if now == 2 then u.makeReady n
      else ((u.sleepAs n now).checkEvents n).checkInterrupts n
  else if c == 7 then t.modAux n (fun a => { a with resumePc := none, resumeBase := none })
  else if c == 8 then t.checkInterrupts n
  else if c == 25 then
    -- it became placeable by this write (R198)
    if t.placeable n && !s.placeable n then t.makeReady n else t.checkEvents n
  else t

/-- The access of CTXLD (`none`) or CTXST, once the target is not resident or the cell is not live (R196). -/
def recordAccess (e : Env) (n c : Nat) (v : Option Cell) : M Unit := do
  match v with
  | none =>
    -- a pointer read from a record passes the load barrier, and the cell is healed (R218, R226, R236)
    let x ← look (fun s => s.rcell n c)
    match ← look (fun s => s.barrierAt (.core e.q.core) x false (s.goodFor e.q.core)) with
    | none => fault e cMICROCODE_CHECK 3
    | some (y, t) =>
      act (fun _ => if x == y then t else t.setRec n c y)
      setA e y
  | some v =>
    match ← look (fun s => s.recordRefuses n c v) with
    | some code => fault e code 0 (if code == cCAP_TAG then 1 else 0)
    | none => act (fun s => s.ctxWrite n c v)

/-- CTXLD or CTXST of cell `c`: a resident target must be evicted first (R196). -/
def recordForm (i : Issue) (op sub : BitVec 8) (opnd : BitVec 16) (store : Bool) (s : State) : State :=
  machineForm i op sub opnd (field opnd 15 5 == 0) (fun e => do
    let r ← regsM e
    let n := r.x.toNat
    let c := field opnd 4 0
    let v := if store then some r.a else none
    if 16384 ≤ n then fault e cPAGE_PROT 4
    if n == e.n && (c ≤ 20 || c == 24) then fault e cRESERVED_FIELD
    let s ← look id
    if n != e.n && s.ctxRes n then
      match v.bind (fun x => s.recordRefuses n c x) with
      | some code => fault e code 0 (if code == cCAP_TAG then 1 else 0)
      | none =>
        act (fun s => s.modSlot e.q (fun w => { w with waits := some (n, c, v) }))
        pure .stay
    else
      recordAccess e n c v
      pure .next) s

def execCtxld (i : Issue) (sub : BitVec 8) (opnd : BitVec 16) (s : State) : Out :=
  .next (recordForm i 0xEA sub opnd false s)
def execCtxst (i : Issue) (sub : BitVec 8) (opnd : BitVec 16) (s : State) : Out :=
  .next (recordForm i 0xEB sub opnd true s)

/-- EVICT_FOR_RECORD_ACCESS (R196): the target is evicted at its boundary, and the access that waits applies. -/
def State.evictForAccess (s : State) (i : Issue) : State :=
  let q := Cx.of i
  match (s.slot q).ctx, (s.slot q).waits with
  | some n, some (m, c, v) =>
    if s.ctxRes m && !s.atBoundary (s.ctxAt m) then s
    else
      let s1 := (s.evictCtx m).modSlot q (fun w => { w with waits := none })
      let op : BitVec 8 := if v.isSome then 0xEB else 0xEA
      let e := s1.midEnv q n { op := op, mode := 0, base := 0, disp := BitVec.ofNat 16 c, ext := 0 } false
      runIn s1 i e (do recordAccess e m c v; pure .next)
  | _, _ => s

def execEvictForRecordAccess (i : Issue) (s : State) : Out := .next (s.evictForAccess i)

/-! ### Steps and boundaries -/

/-- A further step of the long instruction under way (R181). -/
def stepLong (e : Env) (l : LongOp) : M Flow :=
  match l.routine with
  | .micro a opd fa got => microNext e l a opd fa got
  | .vcopy dst src x y k done => vcopyNext e l dst src x y k done
  | .salloc a bytes done => sallocNext e l a bytes done
  | .drange next stop sub => drangeNext e l next stop sub

/-- LONG_INSTRUCTION_STEP (R181, R183): a due cause is taken at the boundary; otherwise one further step. -/
def execLongInstructionStep (i : Issue) (s : State) : Out :=
  let q := Cx.of i
  let v := s.slot q
  .next (match v.ctx, v.mid with
    | some n, .long l =>
      if !s.issuable q n then s
      else match s.asyncDue n v.regs.st with
        | some t => s.takeAsync q n t
        | none =>
          let e := s.midEnv q n l.word false
          runIn s i e (stepLong e l)
    | _, _ => s)

/-- ASYNC_CAUSE_TAKEN (R174, R175): at a boundary of a running context, the first unmasked pending cause. -/
def execAsyncCauseTaken (i : Issue) (s : State) : Out :=
  let q := Cx.of i
  let v := s.slot q
  .next (match v.ctx with
    | none => s
    | some n =>
      if s.issuable q n && s.atBoundary q then
        match s.asyncDue n v.regs.st with
        | some t => s.takeAsync q n t
        | none => s
      else s)

/-- BUS_ERROR_STORE (R169): a store of the slot's context has failed on the bus. -/
def execBusErrorStore (i : Issue) (pa : BitVec 48) (pst : Bool) (s : State) : Out :=
  .next (match (s.slot (Cx.of i)).ctx with
    | none => s
    | some n => s.failStore n pa.toNat (if pst then 6 else 3))

/-- The opcodes of a main core (R103, R139). -/
def opcodeDefined (op : Nat) : Bool :=
  (0x01 ≤ op && op ≤ 0x17) || op == 0x1E || op == 0x1F || (0x20 ≤ op && op ≤ 0x2A) || (0x30 ≤ op && op ≤ 0x36) ||
  (0x38 ≤ op && op ≤ 0x4A) || (0x50 ≤ op && op ≤ 0x5B) || (0x60 ≤ op && op ≤ 0x76) || (0x80 ≤ op && op ≤ 0x85) ||
  (0x90 ≤ op && op ≤ 0x98) || (0xA0 ≤ op && op ≤ 0xA9) || (0xB0 ≤ op && op ≤ 0xB5) || (0xB8 ≤ op && op ≤ 0xBC) ||
  (0xC0 ≤ op && op ≤ 0xC7) || (0xD0 ≤ op && op ≤ 0xD9) || (0xE0 ≤ op && op ≤ 0xEB) || op == 0xF0 || op == 0xF1

/-- The `SUB` of an S-format opcode is defined (R97, R132). -/
def subDefined (op : Nat) (sub : BitVec 8) : Bool :=
  if op == 0xD4 || op == 0xD9 then sub.toNat ≤ 2
  else if op == 0xE5 || op == 0xE6 then machineSub sub
  else if (0xD5 ≤ op && op ≤ 0xD8) || (0xE0 ≤ op && op ≤ 0xEB) then sub == 0
  else true

/-- UNDEFINED_OPCODE (R102 step 3, R133, R139): a prefix here governs an instruction outside its set. A word that is
defined is no such event. On a vent core every opcode from 0x70 to 0x7F is the emulable UNDEF_OP (R104). -/
def execUndefinedOpcode (i : Issue) (word : Word32) (s : State) : Out :=
  let op := field word 31 24
  let isPfx := op == 0xF0 || op == 0xF1
  .next (if opcodeDefined op && subDefined op (BitVec.ofNat 8 (field word 23 16)) && !isPfx then s
    else issue i word 1 (fun e =>
      if isPfx then (if field word 23 16 != 0 then fault e cRESERVED_FIELD else fault e cUNDEF_OP 2)
      else if e.q.isVent && 0x70 ≤ op && op ≤ 0x7F then fault e cUNDEF_OP 1
      else fault e cUNDEF_OP) s)

/-- The cell at PC translates for a fetch. -/
def fetchable (e : Env) (s : State) : Bool :=
  match translate e .fetch e.pc 0 s with
  | .ok _ => true
  | .error _ => false

/-- INSTRUCTION_FETCH_FAULT (R92, R102 steps 1 and 2): the fetch of the cell at PC, where it fails. No word has come, so
`IWORD` is 0 (log entry 104). -/
def execInstructionFetchFault (i : Issue) (s : State) : Out :=
  .next (issueIf fetchable i 0 1 (fun e s0 => match fetchCell e e.pc 0 s0 with
    | .error x => .error x
    | .ok _ => .ok (.stay, s0)) s)

end Sys2Proof.Machine
end

