-- ==== Sys2Proof/Machine/Movement.lean ====
section
/-! DEFINITION. The movement group, 0x01 to 0x1F (R86, R87, R90, R112); its repeatable members stand with the repeats. -/

namespace Sys2Proof.Machine

/-! ### Shared forms -/

/-- A store of a register's cell to the operand. A store of A names A first, so the operand is the second (R31). -/
def storeForm (i : Issue) (op : BitVec 8) (o : MOp) (opn : Nat) (v : Regs → Cell) (s : State) : State :=
  mWrite i op o (fun e => do
    let p ← formOpd e o opn
    let r ← regsM e
    storeOpd e p opn 1 0 (v r)) s

/-- A load of a word register from a FIX or RAW `PAYLOAD` (R87). -/
def loadWord (i : Issue) (op : BitVec 8) (o : MOp) (f : Regs → Cell → Regs) (s : State) : State :=
  mRead i op o (fun e => do
    let (c, fa) ← readOpd e o 1
    checkReserved e c 1 fa
    checkTag e c.isWordTag 1 fa
    modRegsM e (fun r => f r c)) s

/-- A load of a capability register (R86): any tag but CAP raises CAP_TAG. -/
def loadCap (i : Issue) (op : BitVec 8) (o : MOp) (f : Regs → Cell → Regs) (s : State) : State :=
  mRead i op o (fun e => do
    let (c, fa) ← readOpd e o 1
    checkReserved e c 1 fa
    if c.tag != tagCAP then fault e cCAP_TAG 0 1
    modRegsM e (fun r => f r c)) s

/-- `PAYLOAD` as K takes it: an unsigned integer saturated at 0xFFFF_FFFF (R87). -/
def kOf (c : Cell) : Word32 := BitVec.ofNat 32 (satAt 0xFFFFFFFF c.pay)

/-- The indivisible access of XCHG and CAS to a memory operand (R37, R112): the old cell. `known` is the cell to store
where it is known before the access; `need` gives the cell to store, if any, from the old one. -/
def rmwOpd (e : Env) (va : Nat) (u : Auth) (opn : Nat) (known : Cell) (need : Cell → M (Option Cell)) : M Cell := do
  act (fun s => s.orderStores e.q)
  checkBounds e u va 16 opn
  checkRights e u va (2 ^ rLOAD + 2 ^ rSTORE) opn
  checkStore e u va opn known
  let (t, pa) ← translate e .rmw va opn
  let v ← readCell e t pa va opn 4
  if v.isCapOrSeal then checkRights e u va (2 ^ rLOAD + 2 ^ rLDCAP) opn
  let old ← passBarrier e t pa opn v
  match ← need old with
  | none => pure old
  | some w =>
    if e.user && (w.tag == tagFWD || w.tag == tagHDR) then fault e cPRIV 0 opn
    writeCell e t pa va opn w true
    pure old

/-! ### The meanings -/

def execLda (i : Issue) (o : MOp) (s : State) : Out :=
  .next (mRead i 0x01 o (fun e => do
    let (c, _) ← readOpd e o 1
    setA e c) s)

def execSta (i : Issue) (o : MOp) (s : State) : Out := .next (storeForm i 0x02 o 2 (fun r => r.a) s)

/-- XCHG. A register operand exchanges through the same register writes as STA and LDA. -/
def execXchg (i : Issue) (o : MOp) (s : State) : Out :=
  .next (mWrite i 0x03 o (fun e => do
    let p ← formOpd e o 2
    let r ← regsM e
    match p with
    | .mem va u _ => do
      let old ← rmwOpd e va u 2 r.a (fun _ => pure (some r.a))
      stepOpd e p
      setA e old
    | _ => do
      act (fun s => s.orderStores e.q)
      let old ← loadOpd e p 2
      storeOpd e p 2 1 0 r.a
      setA e old) s)

/-- CAS. The cell at S is read on every CAS; the store rights are needed whether or not the comparison succeeds. -/
def execCas (i : Issue) (o : MOp) (s : State) : Out :=
  .next (mWrite i 0x04 o (fun e => do
    let p ← formOpd e o 2
    let r ← regsM e
    let newCell : M Cell := do
      let u ← authOf e r.s 3 false true
      loadAt e u r.s.pay 3
    match p with
    | .mem va u _ => do
      let old ← rmwOpd e va u 2 emptyCell (fun old => do
        let n ← newCell
        checkStore e u va 2 n
        pure (if eqCell old r.a then some n else none))
      stepOpd e p
      setA e old
    | _ => do
      act (fun s => s.orderStores e.q)
      let old ← loadOpd e p 2
      let n ← newCell
      if eqCell old r.a then storeOpd e p 2 3 r.s.pay n
      setA e old) s)

def execLdx (i : Issue) (o : MOp) (s : State) : Out :=
  .next (loadWord i 0x05 o (fun r c => { r with x := c.payload }) s)
def execLdy (i : Issue) (o : MOp) (s : State) : Out :=
  .next (loadWord i 0x06 o (fun r c => { r with y := c.payload }) s)
def execLdk (i : Issue) (o : MOp) (s : State) : Out :=
  .next (loadWord i 0x07 o (fun r c => { r with k := kOf c }) s)
def execStx (i : Issue) (o : MOp) (s : State) : Out := .next (storeForm i 0x08 o 1 (fun r => fixOfNat r.x.toNat) s)
def execSty (i : Issue) (o : MOp) (s : State) : Out := .next (storeForm i 0x09 o 1 (fun r => fixOfNat r.y.toNat) s)
def execStk (i : Issue) (o : MOp) (s : State) : Out := .next (storeForm i 0x0A o 1 (fun r => fixOfNat r.k.toNat) s)
def execLdf (i : Issue) (o : MOp) (s : State) : Out := .next (loadCap i 0x0B o (fun r c => { r with f := c }) s)
def execLde (i : Issue) (o : MOp) (s : State) : Out := .next (loadCap i 0x0C o (fun r c => { r with e := c }) s)
def execLds (i : Issue) (o : MOp) (s : State) : Out := .next (loadCap i 0x0D o (fun r c => { r with s := c }) s)
def execLdc (i : Issue) (o : MOp) (s : State) : Out := .next (loadCap i 0x0E o (fun r c => { r with c := c }) s)
def execStf (i : Issue) (o : MOp) (s : State) : Out := .next (storeForm i 0x0F o 1 (fun r => r.f) s)
def execSte (i : Issue) (o : MOp) (s : State) : Out := .next (storeForm i 0x10 o 1 (fun r => r.e) s)
def execSts (i : Issue) (o : MOp) (s : State) : Out := .next (storeForm i 0x11 o 1 (fun r => r.s) s)
def execStc (i : Issue) (o : MOp) (s : State) : Out := .next (storeForm i 0x12 o 1 (fun r => r.c) s)

/-- RDST: ST as RAW; the operand fields have no use (log entry 27). -/
def execRdst (i : Issue) (o : MOp) (s : State) : Out :=
  .next (mForm i 0x16 o false (o.fieldsOk false) (fun e => do
    let r ← regsM e
    setA e (mkRAW r.st.toNat)
    pure .next) s)

/-- ST with bits [15:0] from a word; bit 8 is reserved and keeps its value (R6, R90, R112). -/
def writeStLow (st : Word64) (v : Nat) : Word64 := setField (setField st 15 9 (v / 512)) 7 0 v

def execWrst (i : Issue) (o : MOp) (s : State) : Out :=
  .next (loadWord i 0x17 o (fun r c => { r with st := writeStLow r.st c.pay }) s)

/-- ISYNC: the words fetched ahead are discarded; the model fetches none ahead. -/
def execIsync (i : Issue) (o : MOp) (s : State) : Out := .next (mNone i 0x1E o (fun _ => pure .next) s)

/-- FENCE: the merging buffer drains and the write-around buffer is written out (R275, R112). -/
def execFence (i : Issue) (o : MOp) (s : State) : Out :=
  .next (mNone i 0x1F o (fun e => do
    act (fun s => s.orderStores e.q)
    pure .next) s)

end Sys2Proof.Machine
end

