-- ==== Sys2Proof/Machine/PanelRows.lean ====
section
/-! DEFINITION. What happens at the operator panel (chapter 18). -/

namespace Sys2Proof.Machine

/-- PANEL_SCAN (R437). -/
def execPanelScan (p : PanelSample) (s : State) : Out := .next (s.unheld (s.panelScan p))

/-- ACCEPTED_CHANGE (R437). -/
def execAcceptedChange (group : BitVec 2) (input : BitVec 7) (s : State) : Out :=
  .next (s.acceptedChange group.toNat input.toNat)

/-- STUCK_SET (R437). -/
def execStuckSet (group : BitVec 2) (input : BitVec 7) (s : State) : Out := .next (s.stuckSet group.toNat input.toNat)

/-- CHATTER_WINDOW_END (R440). -/
def execChatterWindowEnd (group : BitVec 2) (s : State) : Out := .next (s.groupWindowEnd group.toNat)

/-- PNEVT_READ (R441). -/
def execPnevtRead (s : State) : Out := .next s.pnevtRead.2

/-- ESTOP_SAMPLE (R444). -/
def execEstopSample (aHigh bHigh aPulse bPulse : Bool) (s : State) : Out := 
  .next (s.unheld (s.estopSample aHigh bHigh aPulse bPulse))

/-- EREL (R446). -/
def execErel (s : State) : Out := .next s.estopRelease

/-- DISCREPANCY (R447). -/
def execDiscrepancy (s : State) : Out := .next s.discrepancy

/-- BUZZER_EXPIRY (R449). -/
def execBuzzerExpiry (s : State) : Out := .next s.buzzerExpiry

end Sys2Proof.Machine
end

