-- ==== Sys2Proof/Machine/PowerRows.lean ====
section
/-! DEFINITION. What happens in the power manager (chapter 19), the power-fail sequence (R376 to R378) and the resets that the
supplies make (R502, R510, R543). A command whose event's conditions do not hold leaves the state as it is (log entry 36). -/

namespace Sys2Proof.Machine

/-! ### Evaluation, entry and exit (R462 to R466) -/

def execStateEvaluation (s : State) : Out := .next (s.unheld s.evaluate)
def execDwellExpiry (s : State) : Out := .next s.dwellExpiry
def execCoreGating (core : BitVec 6) (s : State) : Out := .next (s.gateCore core.toNat)
def execPs2Entry (s : State) : Out := .next (s.enterState 2)
def execPs3Entry (s : State) : Out := .next (s.enterState 3)
def execPs4Entry (s : State) : Out := .next (s.enterState 4)
def execPs5Entry (s : State) : Out := .next (s.enterState 5)

/-- A wake event (R465): the shallowest state that it requires; a change of tolerance is evaluated. -/
def State.wake (s : State) : WakeKind → State
  | .context => s.wakeTo 1
  | .heapCycle => s.wakeTo 2
  -- HOSTWK_N while PERST_N is low waits for its rise, which is a wake event itself (R552)
  | .pin => if s.power.perstLow then s else s.wakeTo 3
  | .request | .panel => s.wakeTo 3
  | .frame port mac m =>
    let p := port.toNat
    let ok := if p < 4 then s.t1sOk p mac.toNat m else p < 6 && s.canOk m
    if 4 ≤ s.power.ps && s.portListens p && ok then s.holdFrame p mac.toNat m else s
  | .tolerance => s.evaluate

def execWakeEvent (w : WakeKind) (s : State) : Out := .next (s.wake w)

/-- STATE_EXIT (R464): the frames that were kept are then served (R465). -/
def execStateExit (env : BootEnv) (s : State) : Out := .next (s.stateExit env).serveHeld

def execWakePreparation (ctx : BitVec 14) (s : State) : Out := .next (s.wakePrepare ctx.toNat)

/-! ### Clocks and rails (R454, R469, R470) -/

def execPllLock (p : BitVec 4) (s : State) : Out := .next (s.pllLock p.toNat)
def execSequenceUp (s : State) : Out := .next s.sequenceUp
def execSequenceDown (s : State) : Out := .next s.sequenceDown
def execRailGood (pgd : BitVec 4) (s : State) : Out := .next (s.unheld (s.railGood pgd.toNat))
def execRailFault (pgd : BitVec 4) (staged : Nat) (s : State) : Out := .next (s.railFault pgd.toNat staged)
def execRailFaultRestart (env : BootEnv) (s : State) : Out := .next (s.railRestart env)

/-! ### PMBus and temperature (R472 to R476) -/

def execPmbusPoll (r : List PmbReading) (s : State) : Out := .next (r.foldl State.pmbPoll s)
def execPmbAlert (r : List PmbStatus) (s : State) : Out := .next (r.foldl State.pmbFault s)
def execSensorRead (mk : List Nat) (s : State) : Out := .next (s.unheld (s.sensorRead mk))
def execThrottleStep (cluster : BitVec 3) (s : State) : Out := .next (s.throttleStep cluster.toNat)
def execThermalTrip (sensor : BitVec 4) (staged : Nat) (s : State) : Out := .next (s.thermalTrip sensor.toNat staged)

/-- HBM_SELF_REFRESH_ENTRY (R459), in PS3. -/
def execHbmSelfRefreshEntry (hc : BitVec 1) (s : State) : Out :=
  .next (if s.power.ps == 3 then s.modPower (fun p => { p with selfRefresh := insertNat hc.toNat p.selfRefresh }) else s)

/-! ### Power fail and reset (R376, R378, R510, R543) -/

/-- POWER_FAIL_COMMIT (R376): a second fall restarts the sequence, with nothing more to stage. -/
def State.powerFailCommit (s : State) (staged : Nat) : State :=
  if s.boot.held then s
  -- a restart that waits for a host load has HBM and PCIe on: the sequence runs again
  else (if s.mainRuns then s.powerFail staged else s).countUp 0x2300 0 4

def execPowerFailCommit (staged : Nat) (s : State) : Out := .next (s.powerFailCommit staged)

/-- PFDONE (R376). -/
def execPfdone (s : State) : Out := .next (if s.jr.pf == PfPhase.failing then s.finishStage else s)

def execPowerReturnRestart (env : BootEnv) (s : State) : Out := .next (s.powerReturn env)
def execPowerOnReset (env : BootEnv) (s : State) : Out := .next (s.powerOn env)
def execPowerOnResetAssertion (s : State) : Out := .next s.powerOff

end Sys2Proof.Machine
end

