-- ==== Sys2Proof/Machine/Raw.lean ====
section
/-! DEFINITION. The type tests (R111, R117), the RAW integer group (R63 to R65, R118, R119) and the bit-field group
(R120). -/

namespace Sys2Proof.Machine

/-! ### Type tests -/

/-- EQ (R111): never refuses a tag. -/
def execEq (i : Issue) (o : MOp) (s : State) : Out :=
  .next (mRead i 0x56 o (fun e => do
    let (c, _) ← readOpd e o 2
    let r ← regsM e
    setA e (constBool (eqCell r.a c))) s)

/-- TYPEP (R32, R117): A takes every tag; the operand is a FIX or RAW from 0 to 255. -/
def execTypep (i : Issue) (o : MOp) (s : State) : Out :=
  .next (mRead i 0x58 o (fun e => do
    let (c, fa) ← readOpd e o 2
    let r ← regsM e
    checkTag e c.isWordTag 2 fa
    checkTag e (c.pay ≤ 255) 2 fa
    setA e (constBool (r.a.tag == c.pay))) s)

def execTagx (i : Issue) (o : MOp) (s : State) : Out :=
  .next (mRead i 0x59 o (fun e => do
    let (c, _) ← readOpd e o 1
    setA e (fixOfNat c.tag)) s)

/-! ### RAW -/

/-- A RAW instruction on A and the operand (R63). -/
def rawBody (e : Env) (o : MOp) (f : Nat → Nat → RawRes) : M Unit := do
  let (c, fa) ← readOpd e o 2
  let r ← regsM e
  judge2 e r.a c fa r.a.isWordTag c.isWordTag
  let x := f r.a.pay c.pay
  modRegsM e (fun r => { r with a := mkRAW x.v, st := x.flags r.st })

def rawForm (i : Issue) (op : BitVec 8) (o : MOp) (f : Nat → Nat → RawRes) (s : State) : State :=
  mRead i op o (fun e => rawBody e o f) s

/-- A shift: an immediate count outside 0 to 63 is a reserved field (R119). -/
def rawShift (i : Issue) (op : BitVec 8) (o : MOp) (f : Nat → Nat → RawRes) (s : State) : State :=
  mForm i op o false (o.fieldsOk false && (o.mode != 4 || o.disp.toNat ≤ 63)) (fun e => do
    if o.mode == 5 && 63 < o.ext.toNat then fault e cRESERVED_FIELD
    rawBody e o f
    pure .next) s

def execRadd (i : Issue) (o : MOp) (s : State) : Out := .next (rawForm i 0x60 o rawAdd s)
def execRsub (i : Issue) (o : MOp) (s : State) : Out := .next (rawForm i 0x61 o rawSub s)
def execRmul (i : Issue) (o : MOp) (s : State) : Out := .next (rawForm i 0x62 o rawMul s)
def execRdivu (i : Issue) (o : MOp) (s : State) : Out := .next (rawForm i 0x63 o (rawDivU false) s)
def execRremu (i : Issue) (o : MOp) (s : State) : Out := .next (rawForm i 0x64 o (rawDivU true) s)
def execRdivs (i : Issue) (o : MOp) (s : State) : Out := .next (rawForm i 0x65 o (rawDivS false) s)
def execRrems (i : Issue) (o : MOp) (s : State) : Out := .next (rawForm i 0x66 o (rawDivS true) s)
def execRand (i : Issue) (o : MOp) (s : State) : Out := .next (rawForm i 0x67 o (fun a b => rawLogic (a &&& b)) s)
def execRor (i : Issue) (o : MOp) (s : State) : Out := .next (rawForm i 0x68 o (fun a b => rawLogic (a ||| b)) s)
def execRxor (i : Issue) (o : MOp) (s : State) : Out := .next (rawForm i 0x69 o (fun a b => rawLogic (a ^^^ b)) s)
def execRshl (i : Issue) (o : MOp) (s : State) : Out := .next (rawShift i 0x6A o rawShl s)
def execRshr (i : Issue) (o : MOp) (s : State) : Out := .next (rawShift i 0x6B o rawShr s)
def execRsar (i : Issue) (o : MOp) (s : State) : Out := .next (rawShift i 0x6C o rawSar s)

/-- A conversion of the operand's `PAYLOAD` to another tag (R118): no flag. -/
def rawConv (i : Issue) (op : BitVec 8) (o : MOp) (ok : Cell → Bool) (tag : Nat) (s : State) : State :=
  mRead i op o (fun e => do
    let (c, fa) ← readOpd e o 1
    checkReserved e c 1 fa
    checkTag e (ok c) 1 fa
    setA e (plain tag c.pay)) s

def execToraw (i : Issue) (o : MOp) (s : State) : Out :=
  .next (rawConv i 0x6D o (fun c => c.isValue || c.isHandle) tagRAW s)
def execRtofix (i : Issue) (o : MOp) (s : State) : Out := .next (rawConv i 0x6E o Cell.isWordTag tagFIX s)
def execRtoflo (i : Issue) (o : MOp) (s : State) : Out := .next (rawConv i 0x6F o Cell.isWordTag tagFLO s)

/-! ### Bit fields -/

/-- The low bit position and the width of a field specifier (R120). -/
def bfPos (v : Nat) : Nat := v % 64
def bfWidth (v : Nat) : Nat := v / 256 % 64 + 1

/-- Extract a field; bits above bit 63 are 0. -/
def bfExtract (a v : Nat) : Nat := a / 2 ^ bfPos v % 2 ^ bfWidth v
/-- Replace a field by the low bits of `x`; bits above bit 63 are not written. -/
def bfInsert (a v x : Nat) : Nat :=
  let p := bfPos v
  let w := bfWidth v
  (a - a / 2 ^ p % 2 ^ w * 2 ^ p + x % 2 ^ w * 2 ^ p) % 2 ^ 64

/-- Byte `i` of the result of BPERM from selector `v`. -/
def bpermByte (a v i : Nat) : Nat :=
  let k := v / 16 ^ i % 16
  if 8 ≤ k then 0 else a / 256 ^ k % 256

def bperm (a v : Nat) : Nat := foldUp (fun i n => n + bpermByte a v i * 256 ^ i) 8 0 0

/-- Leading zero bits of 64. -/
def clz64 (a : Nat) : Nat := 64 - bitLen a
/-- Trailing zero bits of 64. -/
def ctz64 (a : Nat) : Nat := (findFrom (fun i => a.testBit i) 64 0).getD 64

/-- An instruction of the bit-field group: on a vent core it is the emulable UNDEF_OP (R104, R120, R139). -/
def bfRead (i : Issue) (op : BitVec 8) (o : MOp) (body : Env → M Unit) (s : State) : State :=
  if i.vent then issue i (mWord op o) o.slots (fun e => fault e cUNDEF_OP 1) s else mRead i op o body s

/-- A bit-field instruction on A and the operand: ST is unchanged. -/
def bfForm (i : Issue) (op : BitVec 8) (o : MOp) (f : Regs → Nat → Nat) (s : State) : State :=
  bfRead i op o (fun e => do
    let (c, fa) ← readOpd e o 2
    let r ← regsM e
    judge2 e r.a c fa r.a.isWordTag c.isWordTag
    setA e (mkRAW (f r c.pay))) s

/-- A count of bits of the operand. -/
def bfCount (i : Issue) (op : BitVec 8) (o : MOp) (f : Nat → Nat) (s : State) : State :=
  bfRead i op o (fun e => do
    let (c, fa) ← readOpd e o 1
    checkReserved e c 1 fa
    checkTag e c.isWordTag 1 fa
    setA e (fixOfNat (f c.pay))) s

def execBfx (i : Issue) (o : MOp) (s : State) : Out := .next (bfForm i 0x70 o (fun r v => bfExtract r.a.pay v) s)
def execBfxs (i : Issue) (o : MOp) (s : State) : Out :=
  .next (bfForm i 0x71 o (fun r v => wrapInt 64 (signedOf (bfWidth v) (bfExtract r.a.pay v))) s)
def execBfi (i : Issue) (o : MOp) (s : State) : Out :=
  .next (bfForm i 0x72 o (fun r v => bfInsert r.a.pay v r.x.toNat) s)
def execClz (i : Issue) (o : MOp) (s : State) : Out := .next (bfCount i 0x73 o clz64 s)
def execCtz (i : Issue) (o : MOp) (s : State) : Out := .next (bfCount i 0x74 o ctz64 s)
def execPopc (i : Issue) (o : MOp) (s : State) : Out := .next (bfCount i 0x75 o (popcount 64) s)
def execBperm (i : Issue) (o : MOp) (s : State) : Out := .next (bfForm i 0x76 o (fun r v => bperm r.a.pay v) s)

end Sys2Proof.Machine
end

