-- ==== Sys2Proof/Machine/RegisterRows.lean ====
section
/-! DEFINITION. Writes of device registers that have a row of their own (R219, R239, R294, R346, R353, R354, R358, R398, R506),
and the row of all the others: each is the PST that stores the cell there (R250), or a host write of the control window. -/

namespace Sys2Proof.Machine

/-- A PST of cell `v` to the device register at `pa` (R219, R250, R258). -/
def storeReg (i : Issue) (pa : Nat) (v : Cell) (s : State) : State :=
  machineForm i 0xE9 0 0 true (fun e => do
    writePhys e false pa pa 0 6 v true id
    pure .next) s

def execL1ctlWrite (i : Issue) (core : BitVec 6) (v : Cell) (s : State) : Out :=
  .next (storeReg i (0xFE20_0000_0000 + 0x1000 * core.toNat) v s)
def execHwbWrite (i : Issue) (v : Cell) (s : State) : Out := .next (storeReg i 0xFE10_0000_0000 v s)
def execHctlMin (i : Issue) (v : Cell) (s : State) : Out := .next (storeReg i 0xFE10_0000_0040 v s)
def execHctlMaj (i : Issue) (v : Cell) (s : State) : Out := .next (storeReg i 0xFE10_0000_0040 v s)
def execLinkEnable (i : Issue) (n : BitVec 3) (v : Cell) (s : State) : Out :=
  .next (storeReg i (0xFE40_0000_0000 + 0x1000 * n.toNat) v s)
def execRetr (i : Issue) (n : BitVec 3) (v : Cell) (s : State) : Out :=
  .next (storeReg i (0xFE40_0000_0000 + 0x1000 * n.toNat) v s)
def execSlcmb (i : Issue) (n : BitVec 3) (v : Cell) (s : State) : Out :=
  .next (storeReg i (0xFE40_0000_0030 + 0x1000 * n.toNat) v s)
def execGtcstep (i : Issue) (v : Cell) (s : State) : Out := .next (storeReg i 0xFE40_0001_0010 v s)
def execHfsig (i : Issue) (f : BitVec 2) (v : Cell) (s : State) : Out :=
  .next (storeReg i (0xFE60_0000_0010 + 0x1000 * f.toNat) v s)
def execCtxrst (i : Issue) (v : Cell) (s : State) : Out := .next (storeReg i 0xFEA0_0000_0000 v s)

/-- DEVICE_REGISTER_WRITE: an address outside the assigned regions is no device register. -/
def State.registerWrite (s : State) : RegWrite → State
  | .machine i pa v => if regionOf pa.toNat == .device then storeReg i (pa.toNat / 16 * 16) v s else s
  | .host f off data => s.controlWrite f.toNat off.toNat data

def execDeviceRegisterWrite (w : RegWrite) (s : State) : Out := .next (s.registerWrite w)

end Sys2Proof.Machine
end

