-- ==== Sys2Proof/Machine/Tick.lean ====
section
/-! DEFINITION. What happens as time passes (R201, R348, R356, R360): the model's tick, which `step` takes on an empty queue (log
entry 4). -/

namespace Sys2Proof.Machine

/-- Time passes by its smallest step: the counter advances, running contexts are charged where it reaches or passes a multiple of
1,000 ns, receivers return credits, and a silent IEEE 1588 master is dropped. -/
def State.tickClock (s : State) : State :=
  let t := { s with time := s.time.advance }
  ((if s.now / 1000 < t.now / 1000 then t.charge else t).linksDrain).ptpExpire

/-- Advance until a microsecond boundary is passed, at most `n` advances. -/
def State.toBoundary : Nat → State → State
  | 0, s => s
  | n + 1, s =>
    let t := s.tickClock
    if s.now / 1000 < t.now / 1000 then t else t.toBoundary n

/-- BUDGET_TICK (R201): the counter advances to its next microsecond boundary, where running contexts are charged. -/
def execBudgetTick (s : State) : Out := .next (s.unheld (s.toBoundary 256))

end Sys2Proof.Machine
end

