-- ==== Sys2Proof/Machine/Dispatch.lean ====
section
/-! DEFINITION. One arm per command: its meaning, or its rejection by name. -/

namespace Sys2Proof.Machine

def exec (i : Instr) (s : State) : Host.Outcome State Fault Refusal :=
  match i with
  | .lda at_ o => Sys2Proof.Machine.execLda at_ o s
  | .sta at_ o => Sys2Proof.Machine.execSta at_ o s
  | .xchg at_ o => Sys2Proof.Machine.execXchg at_ o s
  | .cas at_ o => Sys2Proof.Machine.execCas at_ o s
  | .ldx at_ o => Sys2Proof.Machine.execLdx at_ o s
  | .ldy at_ o => Sys2Proof.Machine.execLdy at_ o s
  | .ldk at_ o => Sys2Proof.Machine.execLdk at_ o s
  | .stx at_ o => Sys2Proof.Machine.execStx at_ o s
  | .sty at_ o => Sys2Proof.Machine.execSty at_ o s
  | .stk at_ o => Sys2Proof.Machine.execStk at_ o s
  | .ldf at_ o => Sys2Proof.Machine.execLdf at_ o s
  | .lde at_ o => Sys2Proof.Machine.execLde at_ o s
  | .lds at_ o => Sys2Proof.Machine.execLds at_ o s
  | .ldc at_ o => Sys2Proof.Machine.execLdc at_ o s
  | .stf at_ o => Sys2Proof.Machine.execStf at_ o s
  | .ste at_ o => Sys2Proof.Machine.execSte at_ o s
  | .sts at_ o => Sys2Proof.Machine.execSts at_ o s
  | .stc at_ o => Sys2Proof.Machine.execStc at_ o s
  | .movc at_ o => Sys2Proof.Machine.execMovc at_ o s
  | .movcd at_ o => Sys2Proof.Machine.execMovcd at_ o s
  | .fillc at_ o => Sys2Proof.Machine.execFillc at_ o s
  | .rdst at_ o => Sys2Proof.Machine.execRdst at_ o s
  | .wrst at_ o => Sys2Proof.Machine.execWrst at_ o s
  | .isync at_ o => Sys2Proof.Machine.execIsync at_ o s
  | .fence at_ o => Sys2Proof.Machine.execFence at_ o s
  | .add at_ o => Sys2Proof.Machine.execAdd at_ o s
  | .sub at_ o => Sys2Proof.Machine.execSub at_ o s
  | .mul at_ o => Sys2Proof.Machine.execMul at_ o s
  | .div at_ o => Sys2Proof.Machine.execDiv at_ o s
  | .quot at_ o => Sys2Proof.Machine.execQuot at_ o s
  | .rem at_ o => Sys2Proof.Machine.execRem at_ o s
  | .neg at_ o => Sys2Proof.Machine.execNeg at_ o s
  | .abs at_ o => Sys2Proof.Machine.execAbs at_ o s
  | .ash at_ o => Sys2Proof.Machine.execAsh at_ o s
  | .ipow at_ o => Sys2Proof.Machine.execIpow at_ o s
  | .sqrt at_ o => Sys2Proof.Machine.execSqrt at_ o s
  | .addn at_ o => Sys2Proof.Machine.execAddn at_ o s
  | .subn at_ o => Sys2Proof.Machine.execSubn at_ o s
  | .muln at_ o => Sys2Proof.Machine.execMuln at_ o s
  | .quotn at_ o => Sys2Proof.Machine.execQuotn at_ o s
  | .negn at_ o => Sys2Proof.Machine.execNegn at_ o s
  | .absn at_ o => Sys2Proof.Machine.execAbsn at_ o s
  | .ashn at_ o => Sys2Proof.Machine.execAshn at_ o s
  | .toflo at_ o => Sys2Proof.Machine.execToflo at_ o s
  | .toex at_ o => Sys2Proof.Machine.execToex at_ o s
  | .rndi at_ o => Sys2Proof.Machine.execRndi at_ o s
  | .tons at_ o => Sys2Proof.Machine.execTons at_ o s
  | .tosec at_ o => Sys2Proof.Machine.execTosec at_ o s
  | .tochr at_ o => Sys2Proof.Machine.execTochr at_ o s
  | .totime at_ o => Sys2Proof.Machine.execTotime at_ o s
  | .toint at_ o => Sys2Proof.Machine.execToint at_ o s
  | .qmk at_ o => Sys2Proof.Machine.execQmk at_ o s
  | .qstrip at_ o => Sys2Proof.Machine.execQstrip at_ o s
  | .qdimeq at_ o => Sys2Proof.Machine.execQdimeq at_ o s
  | .qgetu at_ o => Sys2Proof.Machine.execQgetu at_ o s
  | .qsetu at_ o => Sys2Proof.Machine.execQsetu at_ o s
  | .qgetua at_ o => Sys2Proof.Machine.execQgetua at_ o s
  | .qsetua at_ o => Sys2Proof.Machine.execQsetua at_ o s
  | .qgeth at_ o => Sys2Proof.Machine.execQgeth at_ o s
  | .qseth at_ o => Sys2Proof.Machine.execQseth at_ o s
  | .qgeta at_ o => Sys2Proof.Machine.execQgeta at_ o s
  | .qseta at_ o => Sys2Proof.Machine.execQseta at_ o s
  | .ceq at_ o => Sys2Proof.Machine.execCeq at_ o s
  | .cne at_ o => Sys2Proof.Machine.execCne at_ o s
  | .clt at_ o => Sys2Proof.Machine.execClt at_ o s
  | .cle at_ o => Sys2Proof.Machine.execCle at_ o s
  | .cgt at_ o => Sys2Proof.Machine.execCgt at_ o s
  | .cge at_ o => Sys2Proof.Machine.execCge at_ o s
  | .eq at_ o => Sys2Proof.Machine.execEq at_ o s
  | .cmpc at_ o => Sys2Proof.Machine.execCmpc at_ o s
  | .typep at_ o => Sys2Proof.Machine.execTypep at_ o s
  | .tagx at_ o => Sys2Proof.Machine.execTagx at_ o s
  | .tscane at_ o => Sys2Proof.Machine.execTscane at_ o s
  | .tscann at_ o => Sys2Proof.Machine.execTscann at_ o s
  | .radd at_ o => Sys2Proof.Machine.execRadd at_ o s
  | .rsub at_ o => Sys2Proof.Machine.execRsub at_ o s
  | .rmul at_ o => Sys2Proof.Machine.execRmul at_ o s
  | .rdivu at_ o => Sys2Proof.Machine.execRdivu at_ o s
  | .rremu at_ o => Sys2Proof.Machine.execRremu at_ o s
  | .rdivs at_ o => Sys2Proof.Machine.execRdivs at_ o s
  | .rrems at_ o => Sys2Proof.Machine.execRrems at_ o s
  | .rand at_ o => Sys2Proof.Machine.execRand at_ o s
  | .ror at_ o => Sys2Proof.Machine.execRor at_ o s
  | .rxor at_ o => Sys2Proof.Machine.execRxor at_ o s
  | .rshl at_ o => Sys2Proof.Machine.execRshl at_ o s
  | .rshr at_ o => Sys2Proof.Machine.execRshr at_ o s
  | .rsar at_ o => Sys2Proof.Machine.execRsar at_ o s
  | .toraw at_ o => Sys2Proof.Machine.execToraw at_ o s
  | .rtofix at_ o => Sys2Proof.Machine.execRtofix at_ o s
  | .rtoflo at_ o => Sys2Proof.Machine.execRtoflo at_ o s
  | .bfx at_ o => Sys2Proof.Machine.execBfx at_ o s
  | .bfxs at_ o => Sys2Proof.Machine.execBfxs at_ o s
  | .bfi at_ o => Sys2Proof.Machine.execBfi at_ o s
  | .clz at_ o => Sys2Proof.Machine.execClz at_ o s
  | .ctz at_ o => Sys2Proof.Machine.execCtz at_ o s
  | .popc at_ o => Sys2Proof.Machine.execPopc at_ o s
  | .bperm at_ o => Sys2Proof.Machine.execBperm at_ o s
  | .car at_ o => Sys2Proof.Machine.execCar at_ o s
  | .cdr at_ o => Sys2Proof.Machine.execCdr at_ o s
  | .cons at_ o => Sys2Proof.Machine.execCons at_ o s
  | .setcar at_ o => Sys2Proof.Machine.execSetcar at_ o s
  | .setcdr at_ o => Sys2Proof.Machine.execSetcdr at_ o s
  | .astep at_ o => Sys2Proof.Machine.execAstep at_ o s
  | .valloc at_ o => Sys2Proof.Machine.execValloc at_ o s
  | .salloc at_ o => Sys2Proof.Machine.execSalloc at_ o s
  | .ralloc at_ o => Sys2Proof.Machine.execRalloc at_ o s
  | .clalloc at_ o => Sys2Proof.Machine.execClalloc at_ o s
  | .olen at_ o => Sys2Proof.Machine.execOlen at_ o s
  | .vcopy at_ o => Sys2Proof.Machine.execVcopy at_ o s
  | .sldb at_ o => Sys2Proof.Machine.execSldb at_ o s
  | .sstb at_ o => Sys2Proof.Machine.execSstb at_ o s
  | .rtype at_ o => Sys2Proof.Machine.execRtype at_ o s
  | .cbound at_ o => Sys2Proof.Machine.execCbound at_ o s
  | .crights at_ o => Sys2Proof.Machine.execCrights at_ o s
  | .cseal at_ o => Sys2Proof.Machine.execCseal at_ o s
  | .cunseal at_ o => Sys2Proof.Machine.execCunseal at_ o s
  | .invoke at_ o => Sys2Proof.Machine.execInvoke at_ o s
  | .cgetb at_ o => Sys2Proof.Machine.execCgetb at_ o s
  | .cgetl at_ o => Sys2Proof.Machine.execCgetl at_ o s
  | .cgetr at_ o => Sys2Proof.Machine.execCgetr at_ o s
  | .cgett at_ o => Sys2Proof.Machine.execCgett at_ o s
  | .csub at_ o => Sys2Proof.Machine.execCsub at_ o s
  | .br at_ off => Sys2Proof.Machine.execBr at_ off s
  | .bt at_ off => Sys2Proof.Machine.execBt at_ off s
  | .bf at_ off => Sys2Proof.Machine.execBf at_ off s
  | .bnil at_ off => Sys2Proof.Machine.execBnil at_ off s
  | .bnnil at_ off => Sys2Proof.Machine.execBnnil at_ off s
  | .bknz at_ off => Sys2Proof.Machine.execBknz at_ off s
  | .jmp at_ o => Sys2Proof.Machine.execJmp at_ o s
  | .call at_ o => Sys2Proof.Machine.execCall at_ o s
  | .callc at_ o => Sys2Proof.Machine.execCallc at_ o s
  | .ret at_ o => Sys2Proof.Machine.execRet at_ o s
  | .retc at_ o => Sys2Proof.Machine.execRetc at_ o s
  | .wfe at_ o => Sys2Proof.Machine.execWfe at_ o s
  | .sev at_ o => Sys2Proof.Machine.execSev at_ o s
  | .waitt at_ o => Sys2Proof.Machine.execWaitt at_ o s
  | .ckpt at_ o => Sys2Proof.Machine.execCkpt at_ o s
  | .rdtime at_ o => Sys2Proof.Machine.execRdtime at_ o s
  | .evsub at_ o => Sys2Proof.Machine.execEvsub at_ o s
  | .evunsub at_ o => Sys2Proof.Machine.execEvunsub at_ o s
  | .evpend at_ o => Sys2Proof.Machine.execEvpend at_ o s
  | .zline at_ o => Sys2Proof.Machine.execZline at_ o s
  | .dinv at_ o => Sys2Proof.Machine.execDinv at_ o s
  | .dclean at_ o => Sys2Proof.Machine.execDclean at_ o s
  | .dcinv at_ o => Sys2Proof.Machine.execDcinv at_ o s
  | .drangeInvalidate at_ opnd => Sys2Proof.Machine.execDrangeInvalidate at_ opnd s
  | .drangeClean at_ opnd => Sys2Proof.Machine.execDrangeClean at_ opnd s
  | .drangeCleanInvalidate at_ opnd => Sys2Proof.Machine.execDrangeCleanInvalidate at_ opnd s
  | .dinvall at_ sub opnd => Sys2Proof.Machine.execDinvall at_ sub opnd s
  | .iinv at_ sub opnd => Sys2Proof.Machine.execIinv at_ sub opnd s
  | .l1lock at_ sub opnd => Sys2Proof.Machine.execL1lock at_ sub opnd s
  | .l1unlock at_ sub opnd => Sys2Proof.Machine.execL1unlock at_ sub opnd s
  | .tlbiAll at_ opnd => Sys2Proof.Machine.execTlbiAll at_ opnd s
  | .tlbiAsid at_ opnd => Sys2Proof.Machine.execTlbiAsid at_ opnd s
  | .tlbiAddress at_ opnd => Sys2Proof.Machine.execTlbiAddress at_ opnd s
  | .mcall at_ sub opnd => Sys2Proof.Machine.execMcall at_ sub opnd s
  | .mret at_ sub opnd => Sys2Proof.Machine.execMret at_ sub opnd s
  | .setml at_ sub opnd => Sys2Proof.Machine.execSetml at_ sub opnd s
  | .mtag at_ sub opnd => Sys2Proof.Machine.execMtag at_ sub opnd s
  | .msplit at_ sub opnd => Sys2Proof.Machine.execMsplit at_ sub opnd s
  | .mrd at_ sub opnd => Sys2Proof.Machine.execMrd at_ sub opnd s
  | .mwr at_ sub opnd => Sys2Proof.Machine.execMwr at_ sub opnd s
  | .tlbw at_ sub opnd => Sys2Proof.Machine.execTlbw at_ sub opnd s
  | .pld at_ sub opnd => Sys2Proof.Machine.execPld at_ sub opnd s
  | .pst at_ sub opnd => Sys2Proof.Machine.execPst at_ sub opnd s
  | .ctxld at_ sub opnd => Sys2Proof.Machine.execCtxld at_ sub opnd s
  | .ctxst at_ sub opnd => Sys2Proof.Machine.execCtxst at_ sub opnd s
  | .rep at_ mode base disp gop o => Sys2Proof.Machine.execRep at_ mode base disp gop o s
  | .repi at_ mode base disp gop o => Sys2Proof.Machine.execRepi at_ mode base disp gop o s
  | .repeatIteration at_ => Sys2Proof.Machine.execRepeatIteration at_ s
  | .longInstructionStep at_ => Sys2Proof.Machine.execLongInstructionStep at_ s
  | .asyncCauseTaken at_ => Sys2Proof.Machine.execAsyncCauseTaken at_ s
  | .busErrorStore at_ pa pst => Sys2Proof.Machine.execBusErrorStore at_ pa pst s
  | .objectCacheFill core line sector ecc => Sys2Proof.Machine.execObjectCacheFill core line sector ecc s
  | .mergingBufferDrain core => Sys2Proof.Machine.execMergingBufferDrain core s
  | .l1ctlWrite at_ core v => Sys2Proof.Machine.execL1ctlWrite at_ core v s
  | .budgetTick => Sys2Proof.Machine.execBudgetTick s
  | .contextPlacement => Sys2Proof.Machine.execContextPlacement s
  | .dispatchQuantumExpiry core slot => Sys2Proof.Machine.execDispatchQuantumExpiry core slot s
  | .evictForRecordAccess at_ => Sys2Proof.Machine.execEvictForRecordAccess at_ s
  | .wakeReached ctx => Sys2Proof.Machine.execWakeReached ctx s
  | .completionRecordAccepted => Sys2Proof.Machine.execCompletionRecordAccepted s
  | .completionRecordRetired => Sys2Proof.Machine.execCompletionRecordRetired s
  | .recordParityScan bad => Sys2Proof.Machine.execRecordParityScan bad s
  | .hwbWrite at_ v => Sys2Proof.Machine.execHwbWrite at_ v s
  | .hctlMin at_ v => Sys2Proof.Machine.execHctlMin at_ v s
  | .hctlMaj at_ v => Sys2Proof.Machine.execHctlMaj at_ v s
  | .cycleStart => Sys2Proof.Machine.execCycleStart s
  | .corePass core => Sys2Proof.Machine.execCorePass core s
  | .markEnd => Sys2Proof.Machine.execMarkEnd s
  | .select => Sys2Proof.Machine.execSelect s
  | .relocateFlip => Sys2Proof.Machine.execRelocateFlip s
  | .engineCopy se obj => Sys2Proof.Machine.execEngineCopy se obj s
  | .remap => Sys2Proof.Machine.execRemap s
  | .remapEnd => Sys2Proof.Machine.execRemapEnd s
  | .blockCleared block => Sys2Proof.Machine.execBlockCleared block s
  | .gyNop g c => Sys2Proof.Machine.execGyNop g c s
  | .gyLoad g c => Sys2Proof.Machine.execGyLoad g c s
  | .gyRun g c => Sys2Proof.Machine.execGyRun g c s
  | .gyPause g c => Sys2Proof.Machine.execGyPause g c s
  | .gyStop g c => Sys2Proof.Machine.execGyStop g c s
  | .gyReload g c => Sys2Proof.Machine.execGyReload g c s
  | .gyClear g c => Sys2Proof.Machine.execGyClear g c s
  | .gyTrig g c => Sys2Proof.Machine.execGyTrig g c s
  | .loadsm g c => Sys2Proof.Machine.execLoadsm g c s
  | .readsm g c => Sys2Proof.Machine.execReadsm g c s
  | .stageValueProcessed g slot stage => Sys2Proof.Machine.execStageValueProcessed g slot stage s
  | .ringFullRecheck g slot out => Sys2Proof.Machine.execRingFullRecheck g slot out s
  | .dmaRingRecord g slot out cons => Sys2Proof.Machine.execDmaRingRecord g slot out cons s
  | .sourceTimeout g slot => Sys2Proof.Machine.execSourceTimeout g slot s
  | .rampEnd g slot => Sys2Proof.Machine.execRampEnd g slot s
  | .ingestWrite f off data => Sys2Proof.Machine.execIngestWrite f off data s
  | .hostMemoryRead f at_ run => Sys2Proof.Machine.execHostMemoryRead f at_ run s
  | .hostMemoryWrite f off data poisoned => Sys2Proof.Machine.execHostMemoryWrite f off data poisoned s
  | .linkEnable at_ n v => Sys2Proof.Machine.execLinkEnable at_ n v s
  | .retr at_ n v => Sys2Proof.Machine.execRetr at_ n v s
  | .aligned n => Sys2Proof.Machine.execAligned n s
  | .trainSend n => Sys2Proof.Machine.execTrainSend n s
  | .trainReceived n fr => Sys2Proof.Machine.execTrainReceived n fr s
  | .trainTimeout n => Sys2Proof.Machine.execTrainTimeout n s
  | .noverRetrain n => Sys2Proof.Machine.execNoverRetrain n s
  | .linkDown n cause => Sys2Proof.Machine.execLinkDown n cause s
  | .samplesFrameReceived n fr => Sys2Proof.Machine.execSamplesFrameReceived n fr s
  | .samplesFrameSent n => Sys2Proof.Machine.execSamplesFrameSent n s
  | .timeFrame n => Sys2Proof.Machine.execTimeFrame n s
  | .credit n count => Sys2Proof.Machine.execCredit n count s
  | .slcmb at_ n v => Sys2Proof.Machine.execSlcmb at_ n v s
  | .ctrlReply n fr => Sys2Proof.Machine.execCtrlReply n fr s
  | .ctrlTimeout n => Sys2Proof.Machine.execCtrlTimeout n s
  | .statFrame n fr => Sys2Proof.Machine.execStatFrame n fr s
  | .gtcstep at_ v => Sys2Proof.Machine.execGtcstep at_ v s
  | .ptpEventMessage port m => Sys2Proof.Machine.execPtpEventMessage port m s
  | .crossingModeChange => Sys2Proof.Machine.execCrossingModeChange s
  | .ckptAcceptance ctx => Sys2Proof.Machine.execCkptAcceptance ctx s
  | .commitComplete e => Sys2Proof.Machine.execCommitComplete e s
  | .jcmdNop c => Sys2Proof.Machine.execJcmdNop c s
  | .rread c => Sys2Proof.Machine.execRread c s
  | .full c => Sys2Proof.Machine.execFull c s
  | .wearLevelMove unit dest e => Sys2Proof.Machine.execWearLevelMove unit dest e s
  | .powerFailCommit staged => Sys2Proof.Machine.execPowerFailCommit staged s
  | .pfdone => Sys2Proof.Machine.execPfdone s
  | .powerReturnRestart env => Sys2Proof.Machine.execPowerReturnRestart env s
  | .fenNegotiate f v => Sys2Proof.Machine.execFenNegotiate f v s
  | .functionDisable f v => Sys2Proof.Machine.execFunctionDisable f v s
  | .mrst f v => Sys2Proof.Machine.execMrst f v s
  | .dbreq f v => Sys2Proof.Machine.execDbreq f v s
  | .dbapp f v chk => Sys2Proof.Machine.execDbapp f v chk s
  | .hfsig at_ f v => Sys2Proof.Machine.execHfsig at_ f v s
  | .flr f => Sys2Proof.Machine.execFlr f s
  | .perstN high => Sys2Proof.Machine.execPerstN high s
  | .dmcmdNop c => Sys2Proof.Machine.execDmcmdNop c s
  | .tohost c => Sys2Proof.Machine.execTohost c s
  | .fromhost c => Sys2Proof.Machine.execFromhost c s
  | .dmaTransferComplete r => Sys2Proof.Machine.execDmaTransferComplete r s
  | .ohpNop via => Sys2Proof.Machine.execOhpNop via s
  | .ident via => Sys2Proof.Machine.execIdent via s
  | .dread via => Sys2Proof.Machine.execDread via s
  | .dwrite via => Sys2Proof.Machine.execDwrite via s
  | .dreadseg via => Sys2Proof.Machine.execDreadseg via s
  | .dwriteseg via => Sys2Proof.Machine.execDwriteseg via s
  | .dmread via => Sys2Proof.Machine.execDmread via s
  | .hbeat via => Sys2Proof.Machine.execHbeat via s
  | .dictionaryTick => Sys2Proof.Machine.execDictionaryTick s
  | .heartbeatLapse => Sys2Proof.Machine.execHeartbeatLapse s
  | .designationExpiry => Sys2Proof.Machine.execDesignationExpiry s
  | .dxcmdNop c => Sys2Proof.Machine.execDxcmdNop c s
  | .dxRead c => Sys2Proof.Machine.execDxRead c s
  | .dxWrite c => Sys2Proof.Machine.execDxWrite c s
  | .publish c => Sys2Proof.Machine.execPublish c s
  | .withdraw c => Sys2Proof.Machine.execWithdraw c s
  | .panelScan p => Sys2Proof.Machine.execPanelScan p s
  | .acceptedChange group input => Sys2Proof.Machine.execAcceptedChange group input s
  | .stuckSet group input => Sys2Proof.Machine.execStuckSet group input s
  | .chatterWindowEnd group => Sys2Proof.Machine.execChatterWindowEnd group s
  | .pnevtRead => Sys2Proof.Machine.execPnevtRead s
  | .estopSample aHigh bHigh aPulse bPulse => Sys2Proof.Machine.execEstopSample aHigh bHigh aPulse bPulse s
  | .erel => Sys2Proof.Machine.execErel s
  | .ereset w => Sys2Proof.Machine.execEreset w s
  | .discrepancy => Sys2Proof.Machine.execDiscrepancy s
  | .bzon w => Sys2Proof.Machine.execBzon w s
  | .buzzerExpiry => Sys2Proof.Machine.execBuzzerExpiry s
  | .stateEvaluation => Sys2Proof.Machine.execStateEvaluation s
  | .dwellExpiry => Sys2Proof.Machine.execDwellExpiry s
  | .coreGating core => Sys2Proof.Machine.execCoreGating core s
  | .ps2Entry => Sys2Proof.Machine.execPs2Entry s
  | .ps3Entry => Sys2Proof.Machine.execPs3Entry s
  | .ps4Entry => Sys2Proof.Machine.execPs4Entry s
  | .ps5Entry => Sys2Proof.Machine.execPs5Entry s
  | .wakeEvent w => Sys2Proof.Machine.execWakeEvent w s
  | .stateExit env => Sys2Proof.Machine.execStateExit env s
  | .wakePreparation ctx => Sys2Proof.Machine.execWakePreparation ctx s
  | .pllLock p => Sys2Proof.Machine.execPllLock p s
  | .sequenceUp => Sys2Proof.Machine.execSequenceUp s
  | .sequenceDown => Sys2Proof.Machine.execSequenceDown s
  | .railFault pgd staged => Sys2Proof.Machine.execRailFault pgd staged s
  | .railFaultRestart env => Sys2Proof.Machine.execRailFaultRestart env s
  | .pmbusPoll r => Sys2Proof.Machine.execPmbusPoll r s
  | .pmbAlert r => Sys2Proof.Machine.execPmbAlert r s
  | .sensorRead mk => Sys2Proof.Machine.execSensorRead mk s
  | .throttleStep cluster => Sys2Proof.Machine.execThrottleStep cluster s
  | .thermalTrip sensor staged => Sys2Proof.Machine.execThermalTrip sensor staged s
  | .coreRetirement core badCtx badSectors => Sys2Proof.Machine.execCoreRetirement core badCtx badSectors s
  | .spareSelfTest cluster ok => Sys2Proof.Machine.execSpareSelfTest cluster ok s
  | .retire w => Sys2Proof.Machine.execRetire w s
  | .hbmScrub r newer => Sys2Proof.Machine.execHbmScrub r newer s
  | .ventWatchdog vc => Sys2Proof.Machine.execVentWatchdog vc s
  | .ventRestart vc => Sys2Proof.Machine.execVentRestart vc s
  | .vpatch w chk => Sys2Proof.Machine.execVpatch w chk s
  | .vpact w => Sys2Proof.Machine.execVpact w s
  | .mcpatch w chk => Sys2Proof.Machine.execMcpatch w chk s
  | .mcact w => Sys2Proof.Machine.execMcact w s
  | .patchSwitch core => Sys2Proof.Machine.execPatchSwitch core s
  | .imgLoad w chk => Sys2Proof.Machine.execImgLoad w chk s
  | .imgHandOver w => Sys2Proof.Machine.execImgHandOver w s
  | .imgCancel w => Sys2Proof.Machine.execImgCancel w s
  | .handoverAnswer => Sys2Proof.Machine.execHandoverAnswer s
  | .imgconf w => Sys2Proof.Machine.execImgconf w s
  | .imgtmoExpiry => Sys2Proof.Machine.execImgtmoExpiry s
  | .errorLogCommit => Sys2Proof.Machine.execErrorLogCommit s
  | .powerOnReset env => Sys2Proof.Machine.execPowerOnReset env s
  | .warmrst w env => Sys2Proof.Machine.execWarmrst w env s
  | .clurst w bad => Sys2Proof.Machine.execClurst w bad s
  | .ctxrst at_ v => Sys2Proof.Machine.execCtxrst at_ v s
  | .serviceNop => Sys2Proof.Machine.execServiceNop s
  | .unlock w chk => Sys2Proof.Machine.execUnlock w chk s
  | .lock w => Sys2Proof.Machine.execLock w s
  | .idcode => Sys2Proof.Machine.execIdcode s
  | .samplePreload captured preload => Sys2Proof.Machine.execSamplePreload captured preload s
  | .extest => Sys2Proof.Machine.execExtest s
  | .extestPulse => Sys2Proof.Machine.execExtestPulse s
  | .extestTrain => Sys2Proof.Machine.execExtestTrain s
  | .highz => Sys2Proof.Machine.execHighz s
  | .clamp => Sys2Proof.Machine.execClamp s
  | .bypass => Sys2Proof.Machine.execBypass s
  | .deviceRegisterWrite w => Sys2Proof.Machine.execDeviceRegisterWrite w s
  | .undefinedOpcode at_ word => Sys2Proof.Machine.execUndefinedOpcode at_ word s
  | .instructionFetchFault at_ => Sys2Proof.Machine.execInstructionFetchFault at_ s
  | .engineTrace se item => Sys2Proof.Machine.execEngineTrace se item s
  | .engineHeal se item => Sys2Proof.Machine.execEngineHeal se item s
  | .powerOnResetAssertion => Sys2Proof.Machine.execPowerOnResetAssertion s
  | .railGood pgd => Sys2Proof.Machine.execRailGood pgd s
  | .hbmSelfRefreshEntry hc => Sys2Proof.Machine.execHbmSelfRefreshEntry hc s
  | .pcieLinkStateChange st => Sys2Proof.Machine.execPcieLinkStateChange st s
  | .pcieConfigurationWrite f r v => Sys2Proof.Machine.execPcieConfigurationWrite f r v s
  | .ptpGeneralMessage port m => Sys2Proof.Machine.execPtpGeneralMessage port m s

end Sys2Proof.Machine
end

