-- ==== Sys2Proof/Safety.lean ====
section
/-! DEFINITION. What counts as a safe run, and the terms in which the claims speak: an instruction that issues, an operand
that reads, and a body that completes. -/

namespace Sys2Proof.Machine

/-- A step from `s` answers a next state. -/
def Steps (s : State) : Prop := ∃ t, step s = .next t

/-- Every one of the next `k` steps answers a next state. -/
def SafeFor : Nat → State → Prop
  | 0, _ => True
  | k + 1, s => ∃ t, step s = .next t ∧ SafeFor k t

/-- Slot `i` can issue for context `n` (R174, R198, R236): it holds the context, which runs; no instruction is under way;
no unmasked cause is pending; the execution meets no parity error. -/
structure Ready (s : State) (i : Issue) (n : Nat) : Prop where
  holds : (s.slot (Cx.of i)).ctx = some n
  runs : s.issuable (Cx.of i) n = true
  whole : (s.slot (Cx.of i)).mid = Mid.none
  calm : s.asyncDue n (s.regs (Cx.of i)).st = none
  sound : i.parity = .none

/-- The state in which the instruction of `e` begins to execute: its first word has been fetched (R102 step 1), and its slot
holds on no line (R279). -/
def State.started (s : State) (e : Env) : State := (s.fetchFirst e).release e.q

/-- The instruction with first word `word` issues in the environment `e`: the slot is ready, and no comparator matches the
fetch (R531). -/
structure Issues (s : State) (i : Issue) (n : Nat) (word : Word32) (slots : Nat) (e : Env) : Prop where
  ready : Ready s i n
  env : e = s.envAt (Cx.of i) n word slots
  free : s.bkFetch e = none

/-- An M-format instruction issues. -/
abbrev IssuesM (s : State) (i : Issue) (n : Nat) (op : BitVec 8) (o : MOp) (e : Env) : Prop :=
  Issues s i n (mWord op o) o.slots e

/-- The decode of an M-format instruction whose fields are allowed: steps 5 to 7 of R102, then `RESUME` is cleared (R185). -/
def decodeM (e : Env) (o : MOp) (ok : Bool) : M Unit := do
  checkM e e.pc o ok
  act (fun s => s.clearResume e.q)

/-- The decode and the read of an operand that an instruction reads (R98 to R101, R110). -/
def decodeRead (e : Env) (o : MOp) (opn : Nat) : M (Cell × Nat) := do
  decodeM e o (o.fieldsOk false)
  readOpd e o opn

/-- The operand of an instruction that issues in `s` reads as `c`, with `FADDR` `fa` (R169), and leaves `t`. -/
def Reads (s : State) (e : Env) (o : MOp) (opn : Nat) (c : Cell) (fa : Nat) (t : State) : Prop :=
  decodeRead e o opn (s.started e) = .ok ((c, fa), t)

/-- The decode of an instruction that issues in `s` succeeds and leaves `t`. -/
def Decodes (s : State) (e : Env) (o : MOp) (ok : Bool) (t : State) : Prop := decodeM e o ok (s.started e) = .ok ((), t)

/-- `t` with the registers of the executing slot changed by `f`, and PC at the next instruction. -/
def State.finish (t : State) (e : Env) (f : Regs → Regs) : State := (t.modRegs e.q f).moveTo e.q e.next

/-- `t` with cell `c` in A, its parity bits computed (R21), and PC at the next instruction. -/
def State.finishA (t : State) (e : Env) (c : Cell) : State := t.finish e (fun r => { r with a := normalize c })

/-- `ST.RESUME` is 0: the instruction starts anew (R185). -/
abbrev Fresh (s : State) (e : Env) : Prop := bit (s.regs e.q).st stRESUME = false

/-- A cell of tag `tag` with no reserved field value (R31). -/
abbrev Is (c : Cell) (tag : Nat) : Prop := c.tag = tag ∧ c.reserved = false

/-- The decode and the store of cell `v` to an operand that an instruction writes (R98, R101). -/
def decodeWrite (e : Env) (o : MOp) (opn vopn vfa : Nat) (v : Cell) : M Unit := do
  decodeM e o (o.fieldsOk true)
  let p ← formOpd e o opn
  storeOpd e p opn vopn vfa v

/-- Cell `v`, operand `vopn`, is stored to the operand, and `t` is left. -/
def Writes (s : State) (e : Env) (o : MOp) (opn vopn : Nat) (v : Cell) (t : State) : Prop :=
  decodeWrite e o opn vopn 0 v (s.started e) = .ok ((), t)

/-- Virtual address `va` names the HBM cell at `pa` through a readable, writable write-back page, and nothing but that cell
takes part in an access to it: no comparator, scratch window, poison or heap is in force, no store waits in a buffer, and
the enabled object cache of a main core holds the cell's sector. -/
structure Plain (s : State) (e : Env) (va pa : Nat) : Prop where
  page : ∃ t, (s.core e.q.core).tlbFind (s.ctxAsid e.n) va = some t ∧ t.r = true ∧ t.w = true ∧ t.wt = false ∧
    (e.user = true → t.u = true) ∧ pa = t.pa va / 16 * 16
  hbm : pa < hbmEnd
  calm : s.dbg.bkctl = []
  whole : s.poisoned (pa / 128) = false
  unlocked : (s.core e.q.core).lockn = 0
  noHeap : s.heap.en = false
  noBuffer : (s.slot e.q).det = {}
  noMerge : (s.core e.q.core).merge = []
  cached : (s.core e.q.core).den = true
  defined : (s.core e.q.core).ocDefined = true
  main : e.q.isVent = false
  hit : (s.core e.q.core).ocHit pa = true

/-- The oscillator cycles since the crystal tick agree with its phase: an invariant of the clock (R356). -/
def TimeUnit.Steady (t : TimeUnit) : Prop := t.crystal = true → 32768 * t.osc ≤ t.oscAcc ∧ t.oscAcc < 8000000

/-- The cluster of the executing core holds the granule of `pa` exclusive, so a store there changes no directory (R288). -/
def Owned (s : State) (e : Env) (pa : Nat) : Prop :=
  s.dirAt (pa / 128) = some ⟨pa / 128, some (e.q.core / 8), 0⟩

/-- `t` differs from `s` in caches and memory alone: every slot's registers, every context record, channel and control
register is as in `s`. -/
structure SameButMemory (s t : State) : Prop where
  regs : ∀ q, t.regs q = s.regs q
  records : t.ctxStore = s.ctxStore
  aux : t.aux = s.aux
  channels : t.channels = s.channels
  heap : t.heap = s.heap
  devices : t.geysers = s.geysers ∧ t.links = s.links ∧ t.time = s.time ∧ t.jr = s.jr ∧ t.dict = s.dict ∧
    t.power = s.power ∧ t.dep = s.dep ∧ t.boot = s.boot ∧ t.dbg = s.dbg
  queue : t.pending = s.pending

/-- From `s` to `t` the registers of slot `q` become `r`; caches and memory apart, nothing else changes. -/
structure Becomes (s t : State) (q : Cx) (r : Regs) : Prop where
  own : t.regs q = r
  others : ∀ p, p ≠ q → t.regs p = s.regs p
  records : t.ctxStore = s.ctxStore
  aux : t.aux = s.aux
  channels : t.channels = s.channels
  heap : t.heap = s.heap
  devices : t.geysers = s.geysers ∧ t.links = s.links ∧ t.time = s.time ∧ t.jr = s.jr ∧ t.dict = s.dict ∧
    t.power = s.power ∧ t.dep = s.dep ∧ t.boot = s.boot ∧ t.dbg = s.dbg
  queue : t.pending = s.pending

/-- Memory of `t` is that of `s` but for the cell at `pa`, which is `v` with its parity computed (R3, R21). -/
def OneCell (s t : State) (pa : Nat) (v : Cell) : Prop :=
  t.cell pa = normalize v ∧ ∀ a, a < pa ∨ pa + 16 ≤ a → readByte t.mem a = readByte s.mem a

/-- Two cells do not overlap. -/
def Apart (x y : Nat) : Prop := x + 16 ≤ y ∨ y + 16 ≤ x

/-- From `s` to `t` no byte of memory changes but in the cells at the addresses of `l`. -/
def OnlyCells (s t : State) (l : List Nat) : Prop := ∀ a, (∀ p ∈ l, a < p ∨ p + 16 ≤ a) → readByte t.mem a = readByte s.mem a

/-- The block table lies in the frame of no block that it describes (R220). -/
def TableApart (s : State) : Prop := ∀ b k, b < 2 ^ 15 → k < 2 ^ 15 →
  ePframe (s.entry b) * 2 ^ 21 + 2 ^ 21 ≤ s.entryPa k ∨ s.entryPa k + 16 ≤ ePframe (s.entry b) * 2 ^ 21

/-- The cells of merging-buffer entries, each with its address (R274). -/
def mergedCells (l : List MergeEntry) : List (Nat × Cell) :=
  l.flatMap (fun e => e.cells.map (fun p => (128 * e.granule + 16 * p.1, p.2)))

/-- The stores of slot `q` and its core that wait for an ordering point, in the order in which it writes them out: the write-around
buffer of the slot, then the merging buffer of the core (R273, R274). -/
def State.waiting (s : State) (q : Cx) : List (Nat × Cell) := (s.slot q).det.buf ++ mergedCells (s.core q.core).merge

/-- Memory of `t` is that of `s` with the cells of `l` written, the later of two for one address: each address reads as its cell,
parity computed, and no byte outside the cells of `l` changes. -/
structure Stored (s t : State) (l : List (Nat × Cell)) : Prop where
  cells : (∀ w ∈ l, w.1 % 16 = 0) → ∀ pa v, l.reverse.find? (fun w => w.1 == pa) = some (pa, v) → t.cell pa = normalize v
  others : ∀ a, (∀ w ∈ l, a < w.1 ∨ w.1 + 16 ≤ a) → readByte t.mem a = readByte s.mem a

/-- `s` with the waiting stores of slot `q` and its core to a line written out, ahead of its maintenance (R278). -/
def State.lineOrdered (s : State) (q : Cx) (line : Nat) : State := (s.flushAround q).drainLine q.core line

/-- ST with the exceptions of a binary64 operation stuck into `FNV`, `FDZ`, `FOF`, `FUF` and `FNX` (R61), and `UNCSAT` set where
`sat` is true (R77). -/
def stuck (st : Word64) (f : FpFlags) (sat : Bool) : Word64 :=
  let w := ([(7, f.nv), (6, f.dz), (5, f.ovf), (4, f.uf), (3, f.nx)] : List (Nat × Bool)).foldl
    (fun w b => if b.2 then setBit w b.1 true else w) st
  if sat then setBit w 10 true else w

/-- R75, R77: the `UNC` of a result whose operands have the codes `x` and `y`, and whether `ST.UNCSAT` is set. `w` is the square of
the relative uncertainty of R76 as a fraction in units of 2^−114, or none where no relative uncertainty exists: the result's code is
the smallest whose value is not less, and above 65,504 the saturated one. -/
def UncFollows (off : Bool) (x y : Nat) (w : Option (Nat × Nat)) (unc : Nat) (sat : Bool) : Prop :=
  if off then unc = 0 ∧ sat = false
  else if x = 0xFFFF ∨ y = 0xFFFF then unc = 0xFFFF ∧ sat = true
  else if x = 0 ∧ y = 0 then unc = 0 ∧ sat = false
  else match w with
    | none => unc = 0xFFFF ∧ sat = true
    | some (p, q) =>
      if (65504 * 2 ^ 57) ^ 2 * q < p then unc = 0xFFFF ∧ sat = true
      else sat = false ∧ p ≤ uncUnits unc ^ 2 * q ∧ ∀ k, k < unc → uncUnits k ^ 2 * q < p

/-- The base address of a register at machine level (R99, R100): `PAYLOAD` of F, E, S or C, X or Y signed. -/
def baseAddress (r : Regs) (b : Nat) : Int :=
  match b with
  | 0 => r.f.pay
  | 1 => r.e.pay
  | 2 => r.s.pay
  | 3 => r.c.pay
  | 4 => r.x.toInt
  | _ => r.y.toInt

/-- `s` with a precise cause taken by the instruction of `e` (R169, R171, R176). -/
def State.taken (s : State) (e : Env) (code sub opn acc faddr : Nat) : State :=
  settle s e (.error (.trap { code := code, sub := sub, acc := acc, opn := opn, faddr := faddr, iword := e.iword }))

/-- The same where the instruction issues in `s`: but for the fetch, no other effect. -/
def State.trapped (s : State) (e : Env) (code sub opn acc faddr : Nat) : State :=
  (s.started e).taken e code sub opn acc faddr

/-- The parts of the state that a frame names. -/
inductive Part where
  | memory | caches | cores | registers | contexts | channels | collector | heap | geysers | links | time | journal | host
  | dictionary | panel | power | dependability | boot | debug | output
  deriving DecidableEq, Repr

/-- A part is in `t` as it is in `s`. -/
def Part.kept (s t : State) : Part → Prop
  | .memory => t.mem = s.mem ∧ t.poison = s.poison ∧ t.ventRam = s.ventRam
  | .caches => t.ocUnder = s.ocUnder ∧ t.l2Under = s.l2Under ∧ t.l2 = s.l2 ∧ t.l2Lines = s.l2Lines ∧ t.l2Queue = s.l2Queue ∧
    t.dir = s.dir
  | .cores => t.cores = s.cores
  | .registers => ∀ q, t.regs q = s.regs q
  | .contexts => t.ctxStore = s.ctxStore ∧ t.aux = s.aux ∧ t.order = s.order
  | .channels => t.channels = s.channels
  | .collector => t.collQ = s.collQ ∧ t.ports = s.ports ∧ t.collCycle = s.collCycle ∧ t.heads = s.heads ∧
    t.linkWait = s.linkWait
  | .heap => t.heap = s.heap
  | .geysers => t.geysers = s.geysers ∧ t.ingest = s.ingest
  | .links => t.links = s.links
  | .time => t.time = s.time
  | .journal => t.jr = s.jr
  | .host => t.funcs = s.funcs ∧ t.dma = s.dma ∧ t.dmaQ = s.dmaQ
  | .dictionary => t.dict = s.dict
  | .panel => t.panel = s.panel
  | .power => t.power = s.power
  | .dependability => t.dep = s.dep
  | .boot => t.boot = s.boot
  | .debug => t.dbg = s.dbg
  | .output => t.out = s.out

/-- From `s` to `t` the queue and every part outside the list stay as they were. -/
def KeepsAllBut (s t : State) (l : List Part) : Prop := t.pending = s.pending ∧ ∀ p, p ∉ l → p.kept s t

end Sys2Proof.Machine
end

