-- ==== Sys2Proof/Certificates/Slice0/Obligations.lean ====
section
/-! DEFINITION. The statements for the provers, one `def Obligations.<Name> : Prop` each. Each docstring names the rules of
the spec that the statement follows; the terms it speaks in are those of `Sys2Proof.Safety`. -/

open Sys2Proof Sys2Proof.Machine

/-- One step runs the command at the front of the queue on the state with the rest of the queue. On an empty queue, which no
rule of the spec describes, time passes by its smallest step (the model's own choice, log entry 4): the global time counter
advances, and memory, every channel and every register stay, as does every context record where no multiple of 1,000 ns is
passed. Every command has an effect: `exec` answers a next state for each, whatever the state (log entry 98). -/
def Obligations.StepRunsTheFrontCommand : Prop :=
  (∀ s : State, (∀ c rest, s.pending = c :: rest → step s = exec c { s with pending := rest }) ∧
    (s.pending = [] → ∃ t : State, step s = .next t ∧ t.time.gtc = s.time.advance.gtc ∧
      t.time.osc = s.time.advance.osc ∧ t.pending = [] ∧ t.mem = s.mem ∧ t.channels = s.channels ∧ (∀ q, t.regs q = s.regs q) ∧
      (s.now / 1000 = t.now / 1000 → t.ctxStore = s.ctxStore))) ∧
  (∀ (c : Instr) (s : State), ∃ t : State, exec c s = .next t)

/-- Commands run first in, first out: a step removes the command at the front of the queue, and leaves the others in order. -/
def Obligations.CommandsRunInOrder : Prop :=
  ∀ s t : State, step s = .next t → t.pending = s.pending.tail

/-- R15: what a unit's command leaves alone. Each command below changes the parts of the device that its list names, as its
chapter says, and no other part: no register of a context slot, no context record, no channel and no other unit, unless the
list has it. -/
def Obligations.DeviceCommandsKeepTheOtherUnits : Prop :=
  ∀ (s : State) (core : BitVec 6) (f : BitVec 2) (n g : BitVec 3) (b8 : BitVec 8) (ctx : BitVec 14) (line : BitVec 39)
    (ecc : EccEvent) (block : BitVec 15) (se : BitVec 1) (cy : CopyStep) (tr : TraceStep) (hl : HealStep) (st : StageStep) (c : GyCmd)
    (jc : JCmd) (dc : DxCmd) (cons : Option Word64) (off : BitVec 28) (off36 : BitVec 36) (data : List Byte) (wire : WireData) (mark : TlpMark)
    (fr : RxFrame) (cause : LinkLoss) (m1 : PtpEvent) (m2 : PtpGeneral) (unit dest : BitVec 17) (v : Word64) (dr : DmaResult)
    (ra : ReadAt) (rr : ReadRun) (ce : CommitEnd) (me : MoveEnd) (cr : ConfigReg)
    (via : Via) (ps : PanelSample) (input : BitVec 7) (pgd : BitVec 4) (pr : List PmbReading) (mk : List Nat)
    (sr : ScrubResult) (bads : List (BitVec 14)) (bad ok a b ap bp : Bool),
    let keeps := fun (r : Out) (l : List Part) => ∀ t, r = .next t → KeepsAllBut s t l
    keeps (exec .completionRecordAccepted s) [.memory, .caches, .cores, .collector, .geysers, .links, .time, .host, .panel,
      .power, .dependability, .output] ∧
    keeps (exec .completionRecordRetired s) [.cores, .registers, .contexts, .channels, .collector, .power,
      .dependability] ∧
    (∀ r ∈ [exec .contextPlacement s,
      exec (.dispatchQuantumExpiry core f) s], keeps r [.memory, .caches, .cores, .registers, .contexts, .collector,
        .heap, .power, .dependability]) ∧
    keeps (exec .budgetTick s) [.contexts, .links, .time, .output] ∧
    keeps (exec (.wakeReached ctx) s) [.cores, .registers, .contexts, .collector, .power, .dependability] ∧
    keeps (exec (.mergingBufferDrain core) s) [.memory, .caches, .cores] ∧
    keeps (exec (.objectCacheFill core line f ecc) s) [.memory, .caches, .cores, .registers, .collector, .journal,
      .dictionary, .dependability] ∧
    (∀ r ∈ [exec .relocateFlip s, exec .markEnd s], keeps r [.heap]) ∧
    (∀ r ∈ [exec .cycleStart s, exec .select s, exec .remap s,
      exec (.blockCleared block) s], keeps r [.memory, .caches, .cores, .heap, .power]) ∧
    keeps (exec (.corePass core) s) [.memory, .caches, .cores, .registers, .contexts, .heap, .power] ∧
    keeps (exec (.engineCopy se cy) s) [.memory, .caches, .cores, .registers, .collector, .heap, .journal, .dictionary,
      .power, .dependability] ∧
    (∀ r ∈ [exec (.engineTrace se tr) s, exec (.engineHeal se hl) s], keeps r [.memory, .caches, .cores, .registers,
      .contexts, .collector, .heap, .journal, .dictionary, .power, .dependability]) ∧
    keeps (exec .remapEnd s) [.memory, .caches, .cores, .registers, .contexts, .collector, .heap, .journal, .power] ∧
    (∀ r ∈ [exec (.gyNop g c) s, exec (.gyRun g c) s, exec (.gyPause g c) s, exec (.gyStop g c) s,
      exec (.gyReload g c) s, exec (.gyClear g c) s, exec (.gyTrig g c) s, exec (.rampEnd g b8) s,
      exec (.stageValueProcessed g b8 st) s], keeps r [.memory, .caches, .cores, .collector, .geysers, .links, .time,
        .host, .power, .dependability, .output]) ∧
    (∀ r ∈ [exec (.gyLoad g c) s, exec (.loadsm g c) s, exec (.readsm g c) s], keeps r [.memory, .caches, .cores,
      .collector, .geysers, .links, .time, .journal, .host, .dictionary, .power, .dependability, .output]) ∧
    keeps (exec (.ringFullRecheck g b8 f) s) [.memory, .caches, .cores, .geysers, .power] ∧
    keeps (exec (.dmaRingRecord g b8 f cons) s) [.geysers, .host, .output] ∧
    keeps (exec (.sourceTimeout g b8) s) [.geysers, .links, .time, .host, .output] ∧
    keeps (exec (.ingestWrite f off wire) s) [.geysers, .host, .output] ∧
    (∀ r ∈ [exec (.aligned n) s, exec (.trainTimeout n) s, exec (.noverRetrain n) s, exec (.linkDown n cause) s,
      exec (.ctrlTimeout n) s], keeps r [.links]) ∧
    (∀ r ∈ [exec (.trainSend n) s, exec (.samplesFrameSent n) s, exec (.timeFrame n) s,
      exec (.credit n b8) s], keeps r [.links, .output]) ∧
    (∀ r ∈ [exec (.trainReceived n fr) s, exec (.samplesFrameReceived n fr) s, exec (.ctrlReply n fr) s,
      exec (.statFrame n fr) s], keeps r [.geysers, .links, .journal, .output]) ∧
    (∀ r ∈ [exec (.ptpEventMessage f m1) s, exec (.ptpGeneralMessage f m2) s], keeps r [.time, .output]) ∧
    keeps (exec (.ckptAcceptance ctx) s) [.caches, .cores, .contexts, .collector, .heap, .journal, .power] ∧
    keeps (exec (.commitComplete ce) s) [.memory, .caches, .cores, .contexts, .collector, .journal,
      .dictionary, .dependability] ∧
    (∀ r ∈ [exec (.wearLevelMove unit dest me) s, exec .pfdone s], keeps r [.collector, .journal, .dependability]) ∧
    (∀ r ∈ [exec (.jcmdNop jc) s,
      exec (.full jc) s], keeps r [.memory, .caches, .cores, .collector, .journal, .power, .dependability]) ∧
    keeps (exec (.rread jc) s) [.memory, .caches, .cores, .collector, .journal, .dictionary, .power, .dependability] ∧
    (∀ r ∈ [exec (.fenNegotiate f v) s, exec (.functionDisable f v) s,
      exec (.mrst f v) s], keeps r [.host, .dictionary, .output]) ∧
    keeps (exec (.hostMemoryRead f ra rr) s) [.memory, .caches, .cores, .collector, .journal, .host, .dictionary, .power,
      .dependability, .output] ∧
    keeps (exec (.hostMemoryWrite f off36 data mark) s) [.memory, .caches, .cores, .host, .power, .output] ∧
    keeps (exec (.dmcmdNop jc) s) [.caches, .cores, .collector, .host, .power, .dependability] ∧
    (∀ r ∈ [exec (.tohost jc) s, exec (.fromhost jc) s], keeps r [.memory, .caches, .cores, .collector, .journal, .host,
      .dictionary, .power, .dependability]) ∧
    keeps (exec (.dmaTransferComplete dr) s) [.memory, .caches, .cores, .collector, .journal, .host, .dictionary, .power,
      .dependability, .output] ∧
    keeps (exec (.pcieConfigurationWrite f cr v) s) [.memory, .caches, .cores, .collector, .host, .power,
      .dependability, .output] ∧
    (∀ r ∈ [exec (.flr f) s, exec (.perstN ok) s], keeps r [.memory, .caches, .cores, .collector, .host, .dictionary,
      .power, .dependability, .output]) ∧
    (∀ r ∈ [exec (.ohpNop via) s, exec (.ident via) s, exec (.dread via) s, exec (.dwrite via) s,
      exec (.dreadseg via) s, exec (.dwriteseg via) s, exec (.dmread via) s,
      exec (.hbeat via) s], keeps r [.host, .dictionary, .power]) ∧
    (∀ r ∈ [exec (.dxcmdNop dc) s, exec (.dxRead dc) s, exec (.dxWrite dc) s, exec (.publish dc) s,
      exec (.withdraw dc) s], keeps r [.caches, .cores, .dictionary, .power]) ∧
    (∀ r ∈ [exec (.panelScan ps) s, exec (.acceptedChange f input) s,
      exec (.stuckSet f input) s], keeps r [.dictionary, .panel, .power]) ∧
    keeps (exec (.chatterWindowEnd f) s) [.panel, .power] ∧
    keeps (exec (.estopSample a b ap bp) s) [.geysers, .links, .time, .host, .panel, .power, .debug,
      .output] ∧
    keeps (exec .discrepancy s) [.collector, .panel, .power, .dependability] ∧
    (∀ r ∈ [exec .stateEvaluation s, exec (.throttleStep n) s], keeps r [.power]) ∧
    (∀ r ∈ [exec .sequenceUp s, exec .sequenceDown s, exec (.railGood pgd) s], keeps r [.links, .power, .debug]) ∧
    keeps (exec (.wakePreparation ctx) s) [.cores, .collector, .power, .dependability] ∧
    keeps (exec (.pmbusPoll pr) s) [.collector, .power, .dependability] ∧
    keeps (exec (.sensorRead mk) s) [.cores, .registers, .contexts, .collector, .power, .dependability] ∧
    keeps (exec (.spareSelfTest n ok) s) [.collector, .dependability] ∧
    keeps (exec (.ventWatchdog f) s) [.cores, .registers, .collector, .journal, .dictionary, .dependability] ∧
    keeps (exec (.ventRestart f) s) [.cores, .registers, .contexts, .collector, .journal, .dictionary, .dependability] ∧
    keeps (exec (.hbmScrub sr bad) s) [.memory, .caches, .cores, .collector, .journal, .dictionary, .power,
      .dependability] ∧
    keeps (exec (.patchSwitch core) s) [.cores, .collector, .dependability] ∧
    keeps (exec (.recordParityScan bads) s) [.memory, .caches, .cores, .registers, .contexts, .channels, .collector,
      .power, .dependability, .boot] ∧
    keeps (exec .errorLogCommit s) [.journal, .dependability]

/-- The memory keeps its canonical form through every step, so equal memories stay equal data: addresses strictly rising, and
no byte listed that an unlisted address reads as. -/
def Obligations.EveryStepKeepsMemoryCanonical : Prop :=
  ∀ s t : State, Memory.wf s.mem = true → step s = .next t → Memory.wf t.mem = true

/-- The memory after reset is in canonical form, and lists nothing. That nothing is listed says that every byte of HBM is
zero at reset, which is the model's own choice (log entry 1, DESIGN CHOICE): R7 and R249 leave HBM undefined there. -/
def Obligations.MemoryIsCanonicalAtReset : Prop :=
  Memory.wf State.reset.mem = true ∧ State.reset.mem = []

/-- R195, R219, R294, R297, R354, R413, R467, R524: after power-on reset every cell of the context store is 128 zero bits, so
every context is free (`STATE` 0); the heap is off, the caches and lock counts of every core are 0, every stream slot is
FREE, every link is DOWN with `TPER` 10 and `VMAX` 2, there is no owner and no designee, `MTOL` is 0xFFFFFFFF and no debug
scope is open. -/
def Obligations.ResetLeavesEveryContextFree : Prop :=
  (∀ n c, n < 16384 → c < 32 → State.reset.rcell n c = 0) ∧ (∀ n, n < 16384 → State.reset.ctxState n = 0) ∧
  State.reset.heap.en = false ∧ State.reset.heap.vbase = 0 ∧
  (∀ c, (State.reset.core c).den = false ∧ (State.reset.core c).ien = false ∧ (State.reset.core c).lockn = 0) ∧
  (∀ g n, (State.reset.gySlot g n).state = .free ∧ (State.reset.gySlot g n).gen = 0) ∧
  (∀ n, (State.reset.link n).state = .down ∧ (State.reset.link n).en = false ∧ (State.reset.link n).tper = 10 ∧
    (State.reset.link n).vmax = 2) ∧
  State.reset.dict.owner = 0xFF ∧ State.reset.dict.ownseq = 0 ∧ State.reset.dict.designee = 0xFF ∧
  State.reset.dict.ownprev = 0xFF ∧ State.reset.power.mtol = 0xFFFFFFFF ∧ State.reset.dbg.scope = 0 ∧
  State.reset.pending = []

/-- R86, R87, R112 (LDA, LDX, LDY, LDK, LDF, LDE, LDS, LDC, WRST): an operand that reads as a cell of an accepted tag goes
into the register that the instruction names, and nothing else changes beside what the read itself leaves; K saturates. R31,
R86, R87: a cell of another tag is refused. LDX, LDY, LDK and WRST raise TAG_MISMATCH with the operand's cell as `FADDR`;
LDF, LDE, LDS and LDC raise CAP_TAG. The next state is the one that taking the cause gives. That the record of such a fault
has `ACC` 0 is the model's own choice (log entry 103, DESIGN CHOICE). -/
def Obligations.LoadsFollowTheirTags : Prop :=
  (∀ (s t : State) (i : Issue) (n : Nat) (o : MOp) (e : Env) (c : Cell) (fa : Nat), Reads s e o 1 c fa t →
    (IssuesM s i n 0x01 o e → exec (.lda i o) s = .next (t.finish e (fun r => { r with a := normalize c }))) ∧
    (c.reserved = false → c.tag = tagFIX ∨ c.tag = tagRAW →
      (IssuesM s i n 0x05 o e → exec (.ldx i o) s = .next (t.finish e (fun r => { r with x := c.payload }))) ∧
      (IssuesM s i n 0x06 o e → exec (.ldy i o) s = .next (t.finish e (fun r => { r with y := c.payload }))) ∧
      (IssuesM s i n 0x07 o e → exec (.ldk i o) s = .next (t.finish e (fun r =>
        { r with k := if c.pay ≤ 0xFFFFFFFF then BitVec.ofNat 32 c.pay else 0xFFFFFFFF }))) ∧
      (IssuesM s i n 0x17 o e → exec (.wrst i o) s = .next (t.finish e (fun r =>
        { r with st := setField (setField r.st 15 9 (field c 15 9)) 7 0 (field c 7 0) })))) ∧
    (c.reserved = false → c.tag = tagCAP →
      (IssuesM s i n 0x0B o e → exec (.ldf i o) s = .next (t.finish e (fun r => { r with f := c }))) ∧
      (IssuesM s i n 0x0C o e → exec (.lde i o) s = .next (t.finish e (fun r => { r with e := c }))) ∧
      (IssuesM s i n 0x0D o e → exec (.lds i o) s = .next (t.finish e (fun r => { r with s := c }))) ∧
      (IssuesM s i n 0x0E o e → exec (.ldc i o) s = .next (t.finish e (fun r => { r with c := c }))))) ∧
  (∀ (s t : State) (i : Issue) (n : Nat) (o : MOp) (e : Env) (c : Cell) (fa : Nat), Reads s e o 1 c fa t →
    c.reserved = false →
    (c.tag ≠ tagFIX → c.tag ≠ tagRAW →
      (IssuesM s i n 0x05 o e → exec (.ldx i o) s = .next (s.trapped e cTAG_MISMATCH 0 1 0 fa)) ∧
      (IssuesM s i n 0x06 o e → exec (.ldy i o) s = .next (s.trapped e cTAG_MISMATCH 0 1 0 fa)) ∧
      (IssuesM s i n 0x07 o e → exec (.ldk i o) s = .next (s.trapped e cTAG_MISMATCH 0 1 0 fa)) ∧
      (IssuesM s i n 0x17 o e → exec (.wrst i o) s = .next (s.trapped e cTAG_MISMATCH 0 1 0 fa))) ∧
    (c.tag ≠ tagCAP →
      (IssuesM s i n 0x0B o e → exec (.ldf i o) s = .next (s.trapped e cCAP_TAG 0 1 0 0)) ∧
      (IssuesM s i n 0x0C o e → exec (.lde i o) s = .next (s.trapped e cCAP_TAG 0 1 0 0)) ∧
      (IssuesM s i n 0x0D o e → exec (.lds i o) s = .next (s.trapped e cCAP_TAG 0 1 0 0)) ∧
      (IssuesM s i n 0x0E o e → exec (.ldc i o) s = .next (s.trapped e cCAP_TAG 0 1 0 0))))

/-- R171, R176: a precise cause taken while `ST.ESC` = 0, at a level above `ML`, saves PC in `MRA` and ST in `MST`, writes
the cause to `MCA`, leaves ST with `LVL` 1, `ML` 15, `ESC` 0, `RESUME` 0 and every other bit as it was, and continues at
`MEN`; at or below `ML` it escalates: `ESC` 1, `MCA` holds ESCALATED and `MCA2` the cause. The emulable UNDEF_OP of a vent
core (cause 0x10, `SUB` 0x01) is taken at every `ML`. Every other register of the slot, and every other slot, is as before
(R172). R131, R169, R171, R185: MCALL, at either level, takes cause 0x13 with `MRA` at the instruction that follows; it
executes normally, so `MST` holds `RESUME` 0. R177, R178, R194: a fault while `ST.ESC` = 1 on a main core writes the
registers as they stood, `PRG` included, to the context record, and the fault record to its cells 27 to 31: the cause,
`MCA2`, the address of the instruction, ST, and the time. The context is parked in `STATE` 6 and leaves its slot. Where
nothing subscribes to them, channel 0xFFF1 gains one count and every other slot is as before. -/
def Obligations.CausesEnterMachineCode : Prop :=
  (∀ (s : State) (i : Issue) (n : Nat) (word : Word32) (slots : Nat) (e : Env) (code sub opn acc faddr : Nat),
    Issues s i n word slots e → code ≠ cMCALL → bit (s.regs e.q).st 62 = false →
    let t := s.trapped e code sub opn acc faddr
    let r := s.regs e.q
    let cause : Cell := mkCell tagRAW 0 (faddr / 16)
      (e.iword.toNat * 2 ^ 32 + opn % 16 * 2 ^ 24 + acc % 16 * 2 ^ 20 + sub % 256 * 2 ^ 8 + code % 256)
    let taken := field r.st 55 52 < causeLevel code sub ∨ (e.q.isVent = true ∧ code = 0x10 ∧ sub = 1)
    (taken →
      t.regs e.q = { r with mra := r.pc, mst := r.st, mca := cause, pc := (s.core e.q.core).men,
                            st := r.st &&& 0x1F0FFFFFFFFFFFFF ||| 0x80F0000000000000 }) ∧
    (¬ taken →
      t.regs e.q = { r with mra := r.pc, mst := r.st, mca := mkCell tagRAW 0 0 0x1A, mca2 := cause,
                            pc := (s.core e.q.core).men,
                            st := r.st &&& 0x1F0FFFFFFFFFFFFF ||| 0xC0F0000000000000 }) ∧
    ∀ p, p ≠ e.q → t.regs p = s.regs p) ∧
  (∀ (s : State) (i : Issue) (n : Nat) (opnd : BitVec 16) (e : Env),
    Issues s i n (sWord 0xE0 0 opnd) 1 e → bit (s.regs e.q).st 62 = false → field (s.regs e.q).st 55 52 < 4 →
    ∃ t, exec (.mcall i 0 opnd) s = .next t ∧
      (t.regs e.q).mra = BitVec.ofNat 64 e.next ∧ (t.regs e.q).mst = setBit (s.regs e.q).st 61 false ∧
      (t.regs e.q).pc = (s.core e.q.core).men ∧ field (t.regs e.q).mca 7 0 = 0x13 ∧
      field (t.regs e.q).mca 47 32 = opnd.toNat ∧
      (t.regs e.q).st = (s.regs e.q).st &&& 0x1F0FFFFFFFFFFFFF ||| 0x80F0000000000000) ∧
  (∀ (s : State) (i : Issue) (n : Nat) (word : Word32) (slots : Nat) (e : Env) (code sub opn acc faddr : Nat),
    Issues s i n word slots e → code ≠ cMCALL → bit (s.regs e.q).st 62 = true → e.q.isVent = false → n < 16384 →
    let t := s.trapped e code sub opn acc faddr
    let r := s.regs e.q
    (∀ k, k < 21 → t.rcell n k = normalize (nthD 0 r.toCells k)) ∧
    t.rcell n 27 = normalize (mkCell tagRAW 0 (faddr / 16)
      (e.iword.toNat * 2 ^ 32 + opn % 16 * 2 ^ 24 + acc % 16 * 2 ^ 20 + sub % 256 * 2 ^ 8 + code % 256)) ∧
    t.rcell n 28 = normalize r.mca2 ∧ t.rcell n 29 = normalize (mkRAW r.pc.toNat) ∧
    t.rcell n 30 = normalize (mkRAW r.st.toNat) ∧ t.rcell n 31 = normalize (mkTIME s.now) ∧
    t.ctxState n = 6 ∧ (t.slot e.q).ctx = none ∧
    ((s.chan 0xFFF1).sv = false → (s.chan 0xFFF2).sv = false →
      (t.chan 0xFFF1).count = min 0xFFFF ((s.chan 0xFFF1).count + 1) ∧ ∀ p, p ≠ e.q → t.regs p = s.regs p))

/-- R87, R98: in `MODE` 0 the operand is the register that `BASE` names (F, E, S, C; X and Y as FIX; A), in `MODE` 4 the FIX
of `DISP16` sign-extended, in `MODE` 5 the FIX of the extension word sign-extended; nothing changes. R98, R99, R100, R101: at
machine level the effective address is formed exactly, from the base address and 16 × the displacement or the index and
displacement; `MODE` 7 moves the base register by 16 after the access, `MODE` 8 reads 16 below it and moves it by −16. An
address outside 0 to 2^56 − 16 raises PAGE_PROT with `SUB` 0x04. R98, R100: in `MODE` 9 the base is `PAYLOAD` of A, a
capability or a reference, and the index X for `BASE` 4, Y for `BASE` 5, none for `BASE` 0; in `MODE` 10 the base is the cell
of the instruction. At machine level no bounds apply. -/
def Obligations.OperandFormsGiveTheirValues : Prop :=
  (∀ (s : State) (e : Env) (o : MOp) (opn : Nat),
    (o.mode = 0 → o.base = 0 → readOpd e o opn s = .ok (((s.regs e.q).f, 0), s)) ∧
    (o.mode = 0 → o.base = 1 → readOpd e o opn s = .ok (((s.regs e.q).e, 0), s)) ∧
    (o.mode = 0 → o.base = 2 → readOpd e o opn s = .ok (((s.regs e.q).s, 0), s)) ∧
    (o.mode = 0 → o.base = 3 → readOpd e o opn s = .ok (((s.regs e.q).c, 0), s)) ∧
    (o.mode = 0 → o.base = 4 → readOpd e o opn s = .ok ((fixOfNat (s.regs e.q).x.toNat, 0), s)) ∧
    (o.mode = 0 → o.base = 5 → readOpd e o opn s = .ok ((fixOfNat (s.regs e.q).y.toNat, 0), s)) ∧
    (o.mode = 0 → o.base = 6 → readOpd e o opn s = .ok (((s.regs e.q).a, 0), s)) ∧
    (o.mode = 4 → readOpd e o opn s = .ok ((mkFIX o.disp.toInt, 0), s)) ∧
    (o.mode = 5 → readOpd e o opn s = .ok ((mkFIX o.ext.toInt, 0), s))) ∧
  (∀ (s : State) (e : Env) (o : MOp) (opn : Nat), e.user = false → o.base.toNat ≤ 5 →
    let r := s.regs e.q
    let b := baseAddress r o.base.toNat
    let d : Int := o.disp.toInt
    ∀ va : Int, ∀ step : Option (Nat × Int),
      ((o.mode = 1 ∧ va = b + 16 * d ∧ step = none) ∨ (o.mode = 2 ∧ va = b + 16 * (r.x.toInt + d) ∧ step = none) ∨
       (o.mode = 3 ∧ va = b + 16 * (r.y.toInt + d) ∧ step = none) ∨ (o.mode = 6 ∧ va = b + 16 * o.ext.toInt ∧ step = none) ∨
       (o.mode = 7 ∧ va = b ∧ step = some (o.base.toNat, 16)) ∨
       (o.mode = 8 ∧ va = b - 16 ∧ step = some (o.base.toNat, -16))) →
      (0 ≤ va → va ≤ 2 ^ 56 - 16 → formOpd e o opn s = .ok (.mem va.toNat .all step, s)) ∧
      (va < 0 ∨ 2 ^ 56 - 16 < va →
        ∃ t : Trap, formOpd e o opn s = .error (.trap t) ∧ t.code = 0x0E ∧ t.sub = 4 ∧ t.opn = opn)) ∧
  (∀ (s : State) (e : Env) (o : MOp) (opn : Nat) (va : Int), e.user = false → 0 ≤ va → va ≤ 2 ^ 56 - 16 →
    let r := s.regs e.q
    let d : Int := o.disp.toInt
    ((o.mode = 9 ∧ r.a.reserved = false ∧ r.a.tag ≠ tagSEAL ∧ (r.a.isCapOrSeal = true ∨ r.a.isRef = true) ∧
        ((o.base = 0 ∧ va = r.a.pay + 16 * d) ∨ (o.base = 4 ∧ va = r.a.pay + 16 * (r.x.toInt + d)) ∨
         (o.base = 5 ∧ va = r.a.pay + 16 * (r.y.toInt + d)))) ∨
     (o.mode = 10 ∧ va = ((e.pc / 16 * 16 : Nat) : Int) + 16 * d)) →
    formOpd e o opn s = .ok (.mem va.toNat .all none, s))

/-- R3, R145: at user level a base register F, E, S or C gives the authority of the capability that it holds. An access to a
cell outside its bounds raises CAP_BOUNDS, one without the load or store right CAP_RIGHTS, each with the address checked; no
byte is read or written. -/
def Obligations.UserAccessNeedsItsCapability : Prop :=
  ∀ (s : State) (e : Env) (o : MOp) (opn : Nat) (c v : Cell) (va : Int) (feeds : Bool), e.user = true →
    o.base.toNat ≤ 3 → o.mode = 1 →
    c = (if o.base = 0 then (s.regs e.q).f else if o.base = 1 then (s.regs e.q).e else if o.base = 2 then (s.regs e.q).s
         else (s.regs e.q).c) →
    c.tag = tagCAP → c.reserved = false → va = c.pay + 16 * o.disp.toInt → 0 ≤ va → va ≤ 2 ^ 56 - 16 →
    let cell := va / 16 * 16
    ∃ u, formOpd e o opn s = .ok (.mem va.toNat u none, s) ∧
      (cell < c.capL ∨ c.capU < cell + 16 →
        loadCell e u va.toNat opn s =
          .error (.trap { code := 0x08, opn := opn, faddr := va.toNat, iword := e.iword }) ∧
        storeCell e u va.toNat opn v feeds false s =
          .error (.trap { code := 0x08, opn := opn, faddr := va.toNat, iword := e.iword })) ∧
      (c.capL ≤ cell → cell + 16 ≤ c.capU → c.rights.testBit rLOAD = false →
        loadCell e u va.toNat opn s =
          .error (.trap { code := 0x09, opn := opn, faddr := va.toNat, iword := e.iword })) ∧
      (c.capL ≤ cell → cell + 16 ≤ c.capU → c.rights.testBit rSTORE = false →
        storeCell e u va.toNat opn v feeds false s =
          .error (.trap { code := 0x09, opn := opn, faddr := va.toNat, iword := e.iword }))

/-- R41, R50 to R53, R56: ADD, SUB, MUL, DIV, QUOT, REM and ASH on FIX operands give A the exact integer where a FIX holds
it; QUOT truncates, REM has the sign of A, and A = quotient × operand + remainder. ST and memory stay as the operand's read
left them. R54, R57, R113, R114: one FIX operand. NEG and ABS give its negative and its magnitude where a FIX holds them;
RNDI rounds an integer to itself; TOEX passes it; TOTIME gives a TIME of that many nanoseconds, 0 with `ST.V` for a negative
one; TOCHR gives the character of a scalar value. TOINT gives the number of a character, or of a TIME below 2^63. R58: ADDN,
SUBN, MULN, QUOTN, ASHN, NEGN and ABSN give the same FIX as the generic instruction where one holds the result, and otherwise
raise FIX_OVERFLOW (cause 0x06) and change nothing. R27, R41, R47, R115, R181: the last step of a microcode routine on FIX
operands. ADD, SUB, MUL and IPOW give the exact integer, a FIX where one holds it and else a new BIG at H: the header with
the sign and the limb count, and the limbs of the magnitude, the least significant first. DIV gives a new RATIO of the
quotient in lowest terms, after one step more that only counts. H moves past the object, A takes the reference, `PRG` becomes
0, PC moves on, and no other byte changes. Heap hardware off, no object cell at a line's start, the cells in the object cache
and exclusive. -/
def Obligations.IntegerInstructionsAreExact : Prop :=
  (∀ (s t : State) (i : Issue) (n : Nat) (o : MOp) (e : Env) (c : Cell) (fa : Nat), Reads s e o 2 c fa t → Fresh s e →
    Is (t.regs e.q).a tagFIX → Is c tagFIX →
    let x := (t.regs e.q).a.int
    let y := c.int
    (IssuesM s i n 0x20 o e → fitsFix (x + y) = true → exec (.add i o) s = .next (t.finishA e (mkFIX (x + y)))) ∧
    (IssuesM s i n 0x21 o e → fitsFix (x - y) = true → exec (.sub i o) s = .next (t.finishA e (mkFIX (x - y)))) ∧
    (IssuesM s i n 0x22 o e → fitsFix (x * y) = true → exec (.mul i o) s = .next (t.finishA e (mkFIX (x * y)))) ∧
    (∀ z : Int, IssuesM s i n 0x23 o e → y ≠ 0 → x = z * y → fitsFix z = true →
      exec (.div i o) s = .next (t.finishA e (mkFIX z))) ∧
    (∀ z w : Int, y ≠ 0 → x = z * y + w → |w| < |y| → (0 ≤ x → 0 ≤ w) → (x ≤ 0 → w ≤ 0) →
      (IssuesM s i n 0x24 o e → fitsFix z = true → exec (.quot i o) s = .next (t.finishA e (mkFIX z))) ∧
      (IssuesM s i n 0x25 o e → exec (.rem i o) s = .next (t.finishA e (mkFIX w)))) ∧
    (∀ k : Nat, IssuesM s i n 0x28 o e →
      (y = k → fitsFix (x * 2 ^ k) = true → exec (.ash i o) s = .next (t.finishA e (mkFIX (x * 2 ^ k)))) ∧
      (y = -k → exec (.ash i o) s = .next (t.finishA e (mkFIX (x / 2 ^ k)))))) ∧
  (∀ (s t : State) (i : Issue) (n : Nat) (o : MOp) (e : Env) (c : Cell) (fa : Nat), Reads s e o 1 c fa t → Fresh s e →
    (Is c tagFIX →
      let x := c.int
      (IssuesM s i n 0x26 o e → x ≠ -2 ^ 63 → exec (.neg i o) s = .next (t.finishA e (mkFIX (-x)))) ∧
      (IssuesM s i n 0x27 o e → x ≠ -2 ^ 63 → exec (.abs i o) s = .next (t.finishA e (mkFIX |x|))) ∧
      (IssuesM s i n 0x3A o e → exec (.rndi i o) s = .next (t.finishA e (mkFIX x))) ∧
      (IssuesM s i n 0x39 o e → exec (.toex i o) s = .next (t.finishA e c)) ∧
      (IssuesM s i n 0x3E o e → 0 ≤ x → exec (.totime i o) s = .next (t.finishA e (mkTIME x.toNat))) ∧
      (IssuesM s i n 0x3E o e → x < 0 → exec (.totime i o) s =
        .next (t.finish e (fun r => { r with a := normalize (mkTIME 0), st := setBit r.st 1 true }))) ∧
      (IssuesM s i n 0x3D o e → c.pay < 0xD800 ∨ (0xE000 ≤ c.pay ∧ c.pay ≤ 0x10FFFF) →
        exec (.tochr i o) s = .next (t.finishA e (plain tagCHR c.pay)))) ∧
    (Is c tagCHR ∨ (Is c tagTIME ∧ c.pay < 2 ^ 63) → IssuesM s i n 0x3F o e →
      exec (.toint i o) s = .next (t.finishA e (mkFIX c.pay)))) ∧
  (∀ (s t : State) (i : Issue) (n : Nat) (o : MOp) (e : Env) (c : Cell) (fa : Nat),
    let into : Int → Out := fun z => .next (if fitsFix z then t.finishA e (mkFIX z) else s.trapped e 0x06 0 0 0 0)
    (Reads s e o 2 c fa t → Is (t.regs e.q).a tagFIX → Is c tagFIX →
      let x := (t.regs e.q).a.int
      let y := c.int
      (IssuesM s i n 0x30 o e → exec (.addn i o) s = into (x + y)) ∧
      (IssuesM s i n 0x31 o e → exec (.subn i o) s = into (x - y)) ∧
      (IssuesM s i n 0x32 o e → exec (.muln i o) s = into (x * y)) ∧
      (IssuesM s i n 0x33 o e → y ≠ 0 → exec (.quotn i o) s = into (x.tdiv y)) ∧
      (IssuesM s i n 0x36 o e → 0 ≤ y → exec (.ashn i o) s = into (x * 2 ^ y.toNat)) ∧
      (IssuesM s i n 0x36 o e → y < 0 → exec (.ashn i o) s = into (x / 2 ^ (-y).toNat))) ∧
    (Reads s e o 1 c fa t → Is c tagFIX →
      (IssuesM s i n 0x34 o e → exec (.negn i o) s = into (-c.int)) ∧
      (IssuesM s i n 0x35 o e → exec (.absn i o) s = into |c.int|))) ∧
  (∀ (s : State) (i : Issue) (n : Nat) (l : LongOp) (x y : Cell) (fa h : Nat) (p : Nat → Nat),
    let q := Cx.of i
    let e := s.midEnv q n l.word false
    let r := s.regs q
    (s.slot q).ctx = some n → s.issuable q n = true → (s.slot q).mid = .long l → s.asyncDue n (s.slot q).regs.st = none →
    i.parity = .none → l.routine = .micro x y fa [] → Is x tagFIX → Is y tagFIX → r.h.toNat = h → s.heap.en = false →
    let ready := fun cells : Nat => h + 16 * cells ≤ r.hl.toNat ∧
      ∀ j, j < cells → (h + 16 * j) % 512 ≠ 0 ∧ Plain s e (h + 16 * j) (p j) ∧ Owned s e (p j) ∧
        ∀ k, k < j → p k + 16 ≤ p j ∨ p j + 16 ≤ p k
    let ends := fun (t : State) (a : Cell) (cells : Nat) => (t.slot q).mid = .none ∧
      t.regs q = { r with h := BitVec.ofNat 64 (h + 16 * cells), a := normalize a, prg := 0, pc := BitVec.ofNat 64 e.next } ∧
      ∀ b, (∀ j, j < cells → b < p j ∨ p j + 16 ≤ b) → readByte t.mem b = readByte s.mem b
    (∀ z : Int, 1 ≤ l.step →
      (l.word.op = 0x20 ∧ z = x.int + y.int) ∨ (l.word.op = 0x21 ∧ z = x.int - y.int) ∨
      (l.word.op = 0x22 ∧ z = x.int * y.int) ∨ (l.word.op = 0x29 ∧ 0 ≤ y.int ∧ z = x.int ^ y.int.toNat) →
      (fitsFix z = true → ∃ t : State, exec (.longInstructionStep i) s = .next t ∧ t.mem = s.mem ∧
        (t.slot q).mid = .none ∧ t.regs q = { r with a := normalize (mkFIX z), prg := 0, pc := BitVec.ofNat 64 e.next }) ∧
      (∀ m : Nat, fitsFix z = false → z.natAbs < 2 ^ (64 * m) → 2 ^ (64 * (m - 1)) ≤ z.natAbs → m ≤ 4294967295 →
        ready (m + 1) → ∃ t : State, exec (.longInstructionStep i) s = .next t ∧
          ends t (mkCell tagBIG s.heap.good 0 h) (m + 1) ∧
          t.cell (p 0) = normalize (mkHDR tagBIG (m + 1) ((if z < 0 then 2 ^ 63 else 0) + m)) ∧
          ∀ j, j < m → t.cell (p (j + 1)) = normalize (mkRAW (z.natAbs / 2 ^ (64 * j) % 2 ^ 64)))) ∧
    (∀ (a : Int) (b : Nat), l.word.op = 0x23 → y.int ≠ 0 → x.int * b = a * y.int → 1 < b → Int.gcd a b = 1 →
      fitsFix a = true → fitsFix b = true →
      (l.step = 1 → ∃ t : State, exec (.longInstructionStep i) s = .next t ∧ t.mem = s.mem ∧ t.regs q = r ∧
        (t.slot q).mid = .long { l with step := 2 }) ∧
      (2 ≤ l.step → ready 3 → ∃ t : State, exec (.longInstructionStep i) s = .next t ∧
        ends t (mkCell tagRATIO s.heap.good 0 h) 3 ∧ t.cell (p 0) = normalize (mkHDR tagRATIO 3 0) ∧
        t.cell (p 1) = normalize (mkFIX a) ∧ t.cell (p 2) = normalize (mkFIX b))))

/-- R55, R117: CEQ, CNE, CLT, CLE, CGT and CGE on two FIX, two TIME or two CHR operands give CONST true or CONST false by the
values' order, and change nothing else. R111, R117, R121: EQ gives CONST true where tag, `SPEC` and `PAYLOAD` are equal,
whatever the tags; TYPEP tests A's tag against a number from 0 to 255 and raises TAG_MISMATCH for any other operand (R32);
TAGX gives the operand's tag as FIX; CAR and CDR of nil give nil. -/
def Obligations.ComparisonsAndTypeTests : Prop :=
  (∀ (s t : State) (i : Issue) (n : Nat) (o : MOp) (e : Env) (c : Cell) (fa : Nat) (x y : Int), Reads s e o 2 c fa t →
    Fresh s e →
    (Is (t.regs e.q).a tagFIX ∧ Is c tagFIX ∧ x = (t.regs e.q).a.int ∧ y = c.int) ∨
    (((Is (t.regs e.q).a tagTIME ∧ Is c tagTIME) ∨ (Is (t.regs e.q).a tagCHR ∧ Is c tagCHR)) ∧
      x = (t.regs e.q).a.pay ∧ y = c.pay) →
    (IssuesM s i n 0x50 o e → exec (.ceq i o) s = .next (t.finishA e (if x = y then constTrue else constFalse))) ∧
    (IssuesM s i n 0x51 o e → exec (.cne i o) s = .next (t.finishA e (if x = y then constFalse else constTrue))) ∧
    (IssuesM s i n 0x52 o e → exec (.clt i o) s = .next (t.finishA e (if x < y then constTrue else constFalse))) ∧
    (IssuesM s i n 0x53 o e → exec (.cle i o) s = .next (t.finishA e (if x ≤ y then constTrue else constFalse))) ∧
    (IssuesM s i n 0x54 o e → exec (.cgt i o) s = .next (t.finishA e (if y < x then constTrue else constFalse))) ∧
    (IssuesM s i n 0x55 o e → exec (.cge i o) s = .next (t.finishA e (if y ≤ x then constTrue else constFalse)))) ∧
  (∀ (s t : State) (i : Issue) (n : Nat) (o : MOp) (e : Env) (c : Cell) (fa : Nat),
    (Reads s e o 2 c fa t →
      let a := (t.regs e.q).a
      (IssuesM s i n 0x56 o e → exec (.eq i o) s = .next (t.finishA e
        (if a.tag = c.tag ∧ a.spec = c.spec ∧ a.pay = c.pay then constTrue else constFalse))) ∧
      (IssuesM s i n 0x58 o e → (c.tag = tagFIX ∨ c.tag = tagRAW) → c.pay ≤ 255 →
        exec (.typep i o) s = .next (t.finishA e (if a.tag = c.pay then constTrue else constFalse))) ∧
      (IssuesM s i n 0x58 o e → (c.tag ≠ tagFIX ∧ c.tag ≠ tagRAW) ∨ 255 < c.pay →
        exec (.typep i o) s = .next (s.trapped e 0x01 0 2 0 fa))) ∧
    (Reads s e o 1 c fa t →
      (IssuesM s i n 0x59 o e → exec (.tagx i o) s = .next (t.finishA e (fixOfNat c.tag))) ∧
      (IssuesM s i n 0x80 o e → Is c tagCONST → c.pay = 0 → exec (.car i o) s = .next (t.finishA e constNil)) ∧
      (IssuesM s i n 0x81 o e → Is c tagCONST → c.pay = 0 → exec (.cdr i o) s = .next (t.finishA e constNil))))

/-- R60, R61, R113: on FLO operands ADD, SUB, MUL, DIV and SQRT give the FLO that the binary64 operation rounds to under
`ST.FRM`, and or their exceptions into the sticky flags `FNV`, `FDZ`, `FOF`, `FUF`, `FNX` (bits 7 to 3); division by ±0 with
`ST.FTRAP` = 1 raises DIV_ZERO with `SUB` 1. TOFLO passes a FLO, a NaN quiet (R62). R47, R48, R115, R180: IPOW. Of exact
operands it is a long instruction: step 1 allocates the work object and goes on. Of a FLO it is one step: exponent 0 gives
1.0; a further positive exponent the square-and-multiply product under `ST.FRM`, and a negative one the quotient of 1.0 and
that product; its flags stick. R41, R47, R48, R50 to R53, R56, R180, R184, R186: ADD, SUB, MUL, DIV, QUOT and ASH on FIX
operands whose exact result no FIX holds become long instructions: step 1 allocates the work object of 1 + 2(n + m) cells,
one limb counted for each FIX, holds it and goes on; A and PC stay. -/
def Obligations.FloatArithmeticSticksItsFlags : Prop :=
  (∀ (s t : State) (i : Issue) (n : Nat) (o : MOp) (e : Env) (c : Cell) (fa : Nat), Fresh s e → Is c tagFLO →
    let rm := field (t.regs e.q).st 15 14
    let into : Nat × FpFlags → Out := fun x => .next (t.finish e (fun r =>
      { r with a := normalize (mkFLO (BitVec.ofNat 64 x.1))
               st := ([(7, x.2.nv), (6, x.2.dz), (5, x.2.ovf), (4, x.2.uf), (3, x.2.nx)] : List (Nat × Bool)).foldl
                 (fun st b => if b.2 then setBit st b.1 true else st) r.st }))
    (Reads s e o 2 c fa t → Is (t.regs e.q).a tagFLO →
      let x := (t.regs e.q).a.pay
      (IssuesM s i n 0x20 o e → exec (.add i o) s = into (fpAdd f64 rm x c.pay)) ∧
      (IssuesM s i n 0x21 o e → exec (.sub i o) s = into (fpSub f64 rm x c.pay)) ∧
      (IssuesM s i n 0x22 o e → exec (.mul i o) s = into (fpMul f64 rm x c.pay)) ∧
      (IssuesM s i n 0x23 o e → bit (t.regs e.q).st 13 = false ∨ c.pay % 2 ^ 63 ≠ 0 →
        exec (.div i o) s = into (fpDiv f64 rm x c.pay)) ∧
      (IssuesM s i n 0x23 o e → bit (t.regs e.q).st 13 = true → c.pay % 2 ^ 63 = 0 →
        exec (.div i o) s = .next (s.trapped e 0x07 1 2 0 fa))) ∧
    (Reads s e o 1 c fa t →
      (IssuesM s i n 0x2A o e → exec (.sqrt i o) s = into (fpSqrt f64 rm c.pay)) ∧
      (IssuesM s i n 0x38 o e → exec (.toflo i o) s = into (if fpIsNaN f64 c.pay then f64.quiet c.pay else c.pay, {})))) ∧
  (∀ (s t : State) (i : Issue) (n : Nat) (o : MOp) (e : Env) (c : Cell) (fa : Nat), Reads s e o 2 c fa t → Fresh s e →
    IssuesM s i n 0x29 o e → Is c tagFIX →
    let a := (t.regs e.q).a
    let rm := field (t.regs e.q).st 15 14
    let into : Nat × FpFlags → Out := fun x => .next (t.finish e (fun r =>
      { r with a := normalize (mkFLO (BitVec.ofNat 64 x.1)), st := orFlags r.st x.2 }))
    (Is a tagFIX → a.int ≠ 0 ∨ 0 ≤ c.int → ∀ u : State,
      allocObject e 5 (mkHDR tagSTR 5 0) t = .ok ((t.regs e.q).h.toNat, u) →
      a.int.natAbs ≤ 1 ∨ (bitLen a.int.natAbs - 1) * c.int.natAbs < bigBits →
      exec (.ipow i o) s = .next ((u.hold e.n (t.regs e.q).h.toNat).modSlot e.q (fun v => { v with
        mid := .long { word := mwordOf 0x29 o, step := 1, work := (t.regs e.q).h.toNat,
                       routine := .micro a c fa [] } }))) ∧
    (Is a tagFLO → c.int = 0 → exec (.ipow i o) s = into (0x3FF0000000000000, {})) ∧
    (Is a tagFLO → a.pay % 2 ^ 63 ≠ 0 → a.pay % 2 ^ 63 ≠ 0x3FF0000000000000 →
      let p := fpPow rm 64 c.int.natAbs a.pay 0x3FF0000000000000 {}
      (0 < c.int → exec (.ipow i o) s = into p) ∧
      (c.int < 0 → fpIsZero f64 p.1 = false ∨ bit (t.regs e.q).st 13 = false →
        let z := fpDiv f64 rm 0x3FF0000000000000 p.1
        exec (.ipow i o) s = into (z.1, p.2.or z.2)))) ∧
  (∀ (s t u : State) (i : Issue) (n : Nat) (o : MOp) (e : Env) (c : Cell) (fa : Nat), Reads s e o 2 c fa t → Fresh s e →
    Is (t.regs e.q).a tagFIX → Is c tagFIX → allocObject e 5 (mkHDR tagSTR 5 0) t = .ok ((t.regs e.q).h.toNat, u) →
    let a := (t.regs e.q).a
    let x := a.int
    let y := c.int
    let h := (t.regs e.q).h.toNat
    let starts := fun (op : BitVec 8) (r : Out) => r = .next ((u.hold e.n h).modSlot e.q (fun v => { v with
      mid := .long { word := mwordOf op o, step := 1, work := h, routine := .micro a c fa [] } }))
    (IssuesM s i n 0x20 o e → fitsFix (x + y) = false → starts 0x20 (exec (.add i o) s)) ∧
    (IssuesM s i n 0x21 o e → fitsFix (x - y) = false → starts 0x21 (exec (.sub i o) s)) ∧
    (IssuesM s i n 0x22 o e → fitsFix (x * y) = false → starts 0x22 (exec (.mul i o) s)) ∧
    (IssuesM s i n 0x23 o e → y ≠ 0 → (∀ z : Int, x = z * y → fitsFix z = false) → starts 0x23 (exec (.div i o) s)) ∧
    (IssuesM s i n 0x24 o e → y ≠ 0 → fitsFix (x.tdiv y) = false → starts 0x24 (exec (.quot i o) s)) ∧
    (∀ k : Nat, IssuesM s i n 0x28 o e → y = k → k < 64 * 4294967000 → fitsFix (x * 2 ^ k) = false →
      starts 0x28 (exec (.ash i o) s)))

/-- R61, R67, R70, R71, R73, R75 to R77, R81: ADD and SUB of two quantities. Different `DIM` raises DIM_MISMATCH; two points
added, or a point taken from a difference, AFFINE; each names the operand. Otherwise A becomes a QTY of the common `DIM` and
the first operand's `HINT`, a point where R71 says so, with the binary64 sum or difference as `PAYLOAD`, whose exceptions
stick; its `UNC` is the smallest code not below √((x·uₓ)² + (y·u_y)²) / |z|. R61, R68, R70, R71, R75 to R77, R81: MUL and DIV
of two quantities add and subtract the exponents of `DIM`. An exponent outside −8 to +7 raises DIM_OVERFLOW; then a point
with `ST.AFFOK` = 0 raises AFFINE, and then a zero divisor with `ST.FTRAP` = 1 DIV_ZERO. Otherwise A becomes a QTY, a
difference, of those exponents, with the binary64 product or quotient, whose exceptions stick, the `HINT` of the operand
whose `DIM` it has, else 0, and as `UNC` the smallest code not below √(uₓ² + u_y²). R69 to R72, R75 to R77, R81: NEG, ABS and
SQRT of a quantity. NEG and SQRT of a point with `ST.AFFOK` = 0 raise AFFINE, SQRT of an odd exponent first DIM_MISMATCH. NEG
and ABS keep `DIM`, `HINT` and the relative uncertainty, ABS the point as well; SQRT halves the exponents and the relative
uncertainty and gives `HINT` 0. -/
def Obligations.QuantityArithmeticKeepsDimensions : Prop :=
  (∀ (s t : State) (i : Issue) (n : Nat) (o : MOp) (e : Env) (c : Cell) (fa : Nat), Reads s e o 2 c fa t → Fresh s e →
    Is (t.regs e.q).a tagQTY → Is c tagQTY →
    let a := (t.regs e.q).a
    let st := (t.regs e.q).st
    let rm := field st 15 14
    let ua := uncUnits a.qUnc
    let uc := uncUnits c.qUnc
    let w := fun z : Nat => match fpRat f64 a.pay, fpRat f64 c.pay, fpRat f64 z with
      | some (xn, xd), some (yn, yd), some (zn, zd) => if zn = 0 then none else some
          (((xn.natAbs * ua * yd) ^ 2 + (yn.natAbs * uc * xd) ^ 2) * zd ^ 2, (xd * yd * zn.natAbs) ^ 2)
      | _, _, _ => none
    let gives := fun (y : Out) (abs : Nat) (z : Nat × FpFlags) => ∃ (r : Cell) (sat : Bool),
      y = .next (t.finish e (fun g => { g with a := normalize r, st := stuck st z.2 sat })) ∧ r.tag = tagQTY ∧
        r.qDim = a.qDim ∧ r.qHint = a.qHint ∧ r.qAbs = abs ∧ r.pay = z.1 % 2 ^ 64 ∧
        UncFollows (bit st 11) a.qUnc c.qUnc (w z.1) r.qUnc sat
    (IssuesM s i n 0x20 o e →
      (a.qDim ≠ c.qDim → exec (.add i o) s = .next (s.trapped e 0x03 0 2 0 fa)) ∧
      (a.qDim = c.qDim → a.qAbs = 1 → c.qAbs = 1 → exec (.add i o) s = .next (s.trapped e 0x05 0 2 0 fa)) ∧
      (a.qDim = c.qDim → a.qAbs + c.qAbs ≤ 1 →
        gives (exec (.add i o) s) (a.qAbs + c.qAbs) (fpAdd f64 rm a.pay c.pay))) ∧
    (IssuesM s i n 0x21 o e →
      (a.qDim ≠ c.qDim → exec (.sub i o) s = .next (s.trapped e 0x03 0 2 0 fa)) ∧
      (a.qDim = c.qDim → a.qAbs = 0 → c.qAbs = 1 → exec (.sub i o) s = .next (s.trapped e 0x05 0 2 0 fa)) ∧
      (a.qDim = c.qDim → c.qAbs ≤ a.qAbs →
        gives (exec (.sub i o) s) (a.qAbs - c.qAbs) (fpSub f64 rm a.pay c.pay)))) ∧
  (∀ (s t : State) (i : Issue) (n : Nat) (o : MOp) (e : Env) (c : Cell) (fa : Nat), Reads s e o 2 c fa t → Fresh s e →
    Is (t.regs e.q).a tagQTY → Is c tagQTY →
    let a := (t.regs e.q).a
    let st := (t.regs e.q).st
    let gives := fun (y : Out) (dim : Nat → Int) (z : Nat × FpFlags) => ∃ (r : Cell) (sat : Bool),
      y = .next (t.finish e (fun g => { g with a := normalize r, st := stuck st z.2 sat })) ∧ r.tag = tagQTY ∧ r.qAbs = 0 ∧
        (∀ k, k < 7 → dimDigit r.qDim k = dim k) ∧ r.pay = z.1 % 2 ^ 64 ∧
        r.qHint = (if r.qDim = a.qDim then a.qHint else if r.qDim = c.qDim then c.qHint else 0) ∧
        UncFollows (bit st 11) a.qUnc c.qUnc (some (uncUnits a.qUnc ^ 2 + uncUnits c.qUnc ^ 2, 1)) r.qUnc sat
    let sum := fun k => dimDigit a.qDim k + dimDigit c.qDim k
    let dif := fun k => dimDigit a.qDim k - dimDigit c.qDim k
    let fits := fun d : Nat → Int => ∀ k, k < 7 → -8 ≤ d k ∧ d k ≤ 7
    (IssuesM s i n 0x22 o e →
      (¬ fits sum → exec (.mul i o) s = .next (s.trapped e 0x04 0 2 0 fa)) ∧
      (fits sum → a.qAbs = 1 ∨ c.qAbs = 1 → bit st 12 = false → exec (.mul i o) s = .next (s.trapped e 0x05 0 2 0 fa)) ∧
      (fits sum → (a.qAbs = 0 ∧ c.qAbs = 0) ∨ bit st 12 = true →
        gives (exec (.mul i o) s) sum (fpMul f64 (field st 15 14) a.pay c.pay))) ∧
    (IssuesM s i n 0x23 o e →
      (¬ fits dif → exec (.div i o) s = .next (s.trapped e 0x04 0 2 0 fa)) ∧
      (fits dif → a.qAbs = 1 ∨ c.qAbs = 1 → bit st 12 = false → exec (.div i o) s = .next (s.trapped e 0x05 0 2 0 fa)) ∧
      (fits dif → (a.qAbs = 0 ∧ c.qAbs = 0) ∨ bit st 12 = true →
        (bit st 13 = false ∨ c.pay % 2 ^ 63 ≠ 0 →
          gives (exec (.div i o) s) dif (fpDiv f64 (field st 15 14) a.pay c.pay)) ∧
        (bit st 13 = true → c.pay % 2 ^ 63 = 0 → exec (.div i o) s = .next (s.trapped e 0x07 1 2 0 fa))))) ∧
  (∀ (s t : State) (i : Issue) (n : Nat) (o : MOp) (e : Env) (c : Cell) (fa : Nat), Reads s e o 1 c fa t → Fresh s e →
    Is c tagQTY →
    let st := (t.regs e.q).st
    let gives := fun (y : Out) (abs : Nat) (q : Nat) (z : Nat × FpFlags) => ∃ (r : Cell) (sat : Bool),
      y = .next (t.finish e (fun g => { g with a := normalize r, st := stuck st z.2 sat })) ∧ r.tag = tagQTY ∧
        r.qAbs = abs ∧ r.pay = z.1 % 2 ^ 64 ∧
        (q = 1 → r.qDim = c.qDim ∧ r.qHint = c.qHint) ∧
        (q = 4 → r.qHint = 0 ∧ ∀ k, k < 7 → 2 * dimDigit r.qDim k = dimDigit c.qDim k) ∧
        UncFollows (bit st 11) c.qUnc c.qUnc (some (uncUnits c.qUnc ^ 2, q)) r.qUnc sat
    let even := ∀ k, k < 7 → dimDigit c.qDim k % 2 = 0
    let barred := c.qAbs = 1 ∧ bit st 12 = false
    (IssuesM s i n 0x26 o e →
      (barred → exec (.neg i o) s = .next (s.trapped e 0x05 0 1 0 fa)) ∧
      (¬ barred → gives (exec (.neg i o) s) 0 1 (fpNeg f64 c.pay, {}))) ∧
    (IssuesM s i n 0x27 o e → gives (exec (.abs i o) s) c.qAbs 1 (fpAbs f64 c.pay, {})) ∧
    (IssuesM s i n 0x2A o e →
      (¬ even → exec (.sqrt i o) s = .next (s.trapped e 0x03 0 1 0 fa)) ∧
      (even → barred → exec (.sqrt i o) s = .next (s.trapped e 0x05 0 1 0 fa)) ∧
      (even → ¬ barred → gives (exec (.sqrt i o) s) 0 4 (fpSqrt f64 (field st 15 14) c.pay))))

/-- R83, R116: the quantity instructions without arithmetic. QMK heads a FLO with the operand's bits [51:0]; QSTRIP gives the
`PAYLOAD` as FLO; QGETH, QGETA, QGETU and QGETUA read `HINT`, `ABS`, the relative and the absolute uncertainty; QDIMEQ
compares `DIM`; QSETH, QSETA and QSETU replace their one field and no other. R83: QSETUA with an operand of another `DIM`
raises DIM_MISMATCH, with a point AFFINE; a zero operand gives `UNC` 0, and a non-zero operand over a zero `PAYLOAD` gives
0xFFFF and sets `ST.UNCSAT`, which nothing else sets. R113, R114: TOSEC gives the seconds of a FIX of nanoseconds; TONS of a
finite number of seconds gives the nearest integer of nanoseconds, and raises DIM_MISMATCH for another `DIM` and AFFINE for a
point. -/
def Obligations.QuantityFieldsReadAndReplace : Prop :=
  (∀ (s t : State) (i : Issue) (n : Nat) (o : MOp) (e : Env) (c : Cell) (fa : Nat),
    (Reads s e o 2 c fa t →
      let a := (t.regs e.q).a
      let keeps := fun z : Cell => z.tag = tagQTY ∧ z.qDim = a.qDim ∧ z.pay = a.pay
      (IssuesM s i n 0x40 o e → Is a tagFLO → Is c tagRAW → exec (.qmk i o) s =
        .next (t.finishA e (mkCell tagQTY 0 (c.pay % 2 ^ 52) a.pay))) ∧
      (IssuesM s i n 0x42 o e → Is a tagQTY → Is c tagQTY → exec (.qdimeq i o) s =
        .next (t.finishA e (if a.qDim = c.qDim then constTrue else constFalse))) ∧
      (IssuesM s i n 0x42 o e → Is a tagFLO → Is c tagRAW → exec (.qdimeq i o) s =
        .next (t.finishA e (if c.pay % 2 ^ 28 = 0 then constTrue else constFalse))) ∧
      (IssuesM s i n 0x44 o e → Is a tagQTY → Is c tagRAW → c.pay % 65536 ≠ 0xFFFF →
        ∃ z, exec (.qsetu i o) s = .next (t.finishA e z) ∧ keeps z ∧ z.qUnc = c.pay % 65536 ∧ z.qHint = a.qHint ∧
          z.qAbs = a.qAbs) ∧
      (IssuesM s i n 0x48 o e → Is a tagQTY → Is c tagFIX → c.pay ≤ 127 →
        ∃ z, exec (.qseth i o) s = .next (t.finishA e z) ∧ keeps z ∧ z.qUnc = a.qUnc ∧ z.qHint = c.pay ∧
          z.qAbs = a.qAbs) ∧
      (IssuesM s i n 0x4A o e → Is a tagQTY → Is c tagCONST → c.pay = 1 ∨ c.pay = 2 →
        ∃ z, exec (.qseta i o) s = .next (t.finishA e z) ∧ keeps z ∧ z.qUnc = a.qUnc ∧ z.qHint = a.qHint ∧
          z.qAbs = 2 - c.pay)) ∧
    (Fresh s e → o.zero = true → Is (s.regs e.q).a tagQTY →
      let a := (s.regs e.q).a
      (IssuesM s i n 0x41 o e → exec (.qstrip i o) s = .next ((s.started e).finishA e (mkFLO a.payload))) ∧
      (IssuesM s i n 0x43 o e → exec (.qgetu i o) s = .next ((s.started e).finishA e (plain tagFLO (uncFlo a.qUnc)))) ∧
      (IssuesM s i n 0x45 o e → exec (.qgetua i o) s = .next ((s.started e).finishA e (mkQTY a.qDim 0 0 a.qHint
        (BitVec.ofNat 64 (fpMul f64 0 (a.pay % 2 ^ 63) (uncFlo a.qUnc)).1)))) ∧
      (IssuesM s i n 0x47 o e → exec (.qgeth i o) s = .next ((s.started e).finishA e (fixOfNat a.qHint))) ∧
      (IssuesM s i n 0x49 o e → exec (.qgeta i o) s =
        .next ((s.started e).finishA e (if a.qAbs = 1 then constTrue else constFalse))))) ∧
  (∀ (s t : State) (i : Issue) (n : Nat) (o : MOp) (e : Env) (c : Cell) (fa : Nat), Fresh s e →
    (Reads s e o 2 c fa t → IssuesM s i n 0x46 o e → Is (t.regs e.q).a tagQTY → Is c tagQTY →
      let a := (t.regs e.q).a
      (a.qDim ≠ c.qDim → exec (.qsetua i o) s = .next (s.trapped e 0x03 0 2 0 fa)) ∧
      (a.qDim = c.qDim → c.qAbs = 1 → exec (.qsetua i o) s = .next (s.trapped e 0x05 0 2 0 fa)) ∧
      (a.qDim = c.qDim → c.qAbs = 0 → c.pay % 2 ^ 63 = 0 →
        ∃ z, exec (.qsetua i o) s = .next (t.finishA e z) ∧ z.qUnc = 0 ∧ z.qDim = a.qDim ∧ z.pay = a.pay) ∧
      (a.qDim = c.qDim → c.qAbs = 0 → c.pay % 2 ^ 63 ≠ 0 → c.pay / 2 ^ 52 % 2048 ≠ 2047 → a.pay % 2 ^ 63 = 0 →
        ∃ z, exec (.qsetua i o) s =
            .next (t.finish e (fun r => { r with a := normalize z, st := setBit r.st 10 true })) ∧
          z.qUnc = 0xFFFF ∧ z.qDim = a.qDim ∧ z.pay = a.pay) ∧
      (a.qDim = c.qDim → c.qAbs = 0 → a.pay % 2 ^ 63 ≠ 0 →
        ∃ z, exec (.qsetua i o) s = .next (t.finishA e z) ∧ z.qDim = a.qDim ∧ z.pay = a.pay)) ∧
    (Reads s e o 1 c fa t →
      (IssuesM s i n 0x3C o e → Is c tagFIX → c.int = 0 →
        exec (.tosec i o) s = .next (t.finishA e (mkQTY 0x0010000 0 0 0 0))) ∧
      (IssuesM s i n 0x3C o e → Is c tagFIX → ∃ z st', exec (.tosec i o) s =
          .next (t.finish e (fun r => { r with a := normalize z, st := st' })) ∧ z.tag = tagQTY ∧ z.qDim = 0x0010000 ∧
        z.qUnc = 0 ∧ z.qAbs = 0 ∧ z.qHint = 0 ∧ z.pay = (ratToF64 (field (t.regs e.q).st 15 14) c.int 1000000000).1 % 2 ^ 64) ∧
      (IssuesM s i n 0x3B o e → Is c tagQTY →
        (c.qDim ≠ 0x0010000 → exec (.tons i o) s = .next (s.trapped e 0x03 0 1 0 fa)) ∧
        (c.qDim = 0x0010000 → c.qAbs = 1 → exec (.tons i o) s = .next (s.trapped e 0x05 0 1 0 fa)) ∧
        (∀ (m : Int) (d : Nat) (z : Int), c.qDim = 0x0010000 → c.qAbs = 0 → fpRat f64 c.pay = some (m, d) → 0 < d →
          2 * |m * 1000000000 - z * d| < d → fitsFix z = true →
          ∃ st', exec (.tons i o) s = .next (t.finish e (fun r => { r with a := normalize (mkFIX z), st := st' }))))))

/-- R83: "QSETU of a decoded QGETU result restores the same code", for every code. -/
def Obligations.UncertaintyCodesRoundTrip : Prop :=
  (∀ code, code < 65536 → uncOfFlo (uncFlo code) = code) ∧
  (∀ (s t : State) (i : Issue) (n : Nat) (o : MOp) (e : Env) (c : Cell) (fa code : Nat), Reads s e o 2 c fa t →
    IssuesM s i n 0x44 o e → Is (t.regs e.q).a tagQTY → Is c tagFLO → code < 0xFFFF → c.pay = uncFlo code →
    ∃ z, exec (.qsetu i o) s = .next (t.finishA e z) ∧ z.qUnc = code ∧ z.pay = (t.regs e.q).a.pay)

/-- R63, R64, R118: the arithmetic and logical RAW instructions on FIX or RAW operands. A becomes the RAW result modulo 2^64;
C (bit 0) is the carry out, the borrow or a product of 2^64 or more; V (bit 1) the signed overflow; a zero divisor gives the
result that R64 states and sets DZ (bit 2); every other bit of ST, and everything else, stays. -/
def Obligations.RawArithmeticAndFlags : Prop :=
  ∀ (s t : State) (i : Issue) (n : Nat) (o : MOp) (e : Env) (c : Cell) (fa : Nat), Reads s e o 2 c fa t →
    (Is (t.regs e.q).a tagFIX ∨ Is (t.regs e.q).a tagRAW) → (Is c tagFIX ∨ Is c tagRAW) →
    let a := (t.regs e.q).a.payload
    let b := c.payload
    let gives := fun (v : Word64) (cy ov dz : Bool) => Host.Outcome.next (t.finish e (fun r =>
      let st := setBit (setBit r.st 0 cy) 1 ov
      { r with a := mkRAW v.toNat, st := if dz then setBit st 2 true else st }))
    let outside := fun z : Int => decide (z < -2 ^ 63 ∨ 2 ^ 63 ≤ z)
    (IssuesM s i n 0x60 o e → exec (.radd i o) s =
      gives (a + b) (decide (2 ^ 64 ≤ a.toNat + b.toNat)) (outside (a.toInt + b.toInt)) false) ∧
    (IssuesM s i n 0x61 o e → exec (.rsub i o) s =
      gives (a - b) (decide (a.toNat < b.toNat)) (outside (a.toInt - b.toInt)) false) ∧
    (IssuesM s i n 0x62 o e → exec (.rmul i o) s =
      gives (a * b) (decide (2 ^ 64 ≤ a.toNat * b.toNat)) (outside (a.toInt * b.toInt)) false) ∧
    (IssuesM s i n 0x63 o e → exec (.rdivu i o) s =
      if b = 0 then gives (BitVec.allOnes 64) false false true else gives (a / b) false false false) ∧
    (IssuesM s i n 0x64 o e → exec (.rremu i o) s =
      if b = 0 then gives a false false true else gives (a % b) false false false) ∧
    (IssuesM s i n 0x65 o e → exec (.rdivs i o) s =
      if b = 0 then gives (BitVec.allOnes 64) false false true
      else gives (a.sdiv b) false (decide (a = BitVec.intMin 64 ∧ b = BitVec.allOnes 64)) false) ∧
    (IssuesM s i n 0x66 o e → exec (.rrems i o) s =
      if b = 0 then gives a false false true
      else gives (a.srem b) false (decide (a = BitVec.intMin 64 ∧ b = BitVec.allOnes 64)) false) ∧
    (IssuesM s i n 0x67 o e → exec (.rand i o) s = gives (a &&& b) false false false) ∧
    (IssuesM s i n 0x68 o e → exec (.ror i o) s = gives (a ||| b) false false false) ∧
    (IssuesM s i n 0x69 o e → exec (.rxor i o) s = gives (a ^^^ b) false false false)

/-- R119: an immediate shift count outside 0 to 63 raises RESERVED_FIELD (cause 0x11), in `MODE` 4 before anything is read
and in `MODE` 5 once the extension word is in hand. R64, R65, R118, R119: the shifts. A count is the whole `PAYLOAD`: 0 gives
A; 1 to 64 the shifted value, C the last bit shifted out; more than 64 gives 0 with C 0, or for RSAR 64 copies of bit 63, and
C that bit. V is 0. An immediate count above 63 raises RESERVED_FIELD. -/
def Obligations.ShiftCountsAreBounded : Prop :=
  (∀ (s t : State) (i : Issue) (n : Nat) (o : MOp) (e : Env),
    (o.mode = 4 ∧ 63 < o.disp.toNat) ∨
      (o.mode = 5 ∧ 63 < o.ext.toNat ∧ Decodes s e o (o.fieldsOk false) t) →
    (IssuesM s i n 0x6A o e → exec (.rshl i o) s = .next (s.trapped e 0x11 0 0 0 0)) ∧
    (IssuesM s i n 0x6B o e → exec (.rshr i o) s = .next (s.trapped e 0x11 0 0 0 0)) ∧
    (IssuesM s i n 0x6C o e → exec (.rsar i o) s = .next (s.trapped e 0x11 0 0 0 0))) ∧
  (∀ (s t : State) (i : Issue) (n : Nat) (o : MOp) (e : Env) (c : Cell) (fa : Nat), Reads s e o 2 c fa t →
    (Is (t.regs e.q).a tagFIX ∨ Is (t.regs e.q).a tagRAW) → (Is c tagFIX ∨ Is c tagRAW) →
    let a := (t.regs e.q).a.payload
    let k := c.pay
    let gives := fun (v : Word64) (cy : Bool) => Host.Outcome.next (t.finish e (fun r =>
      { r with a := mkRAW v.toNat, st := setBit (setBit r.st 0 cy) 1 false }))
    (o.mode = 4 ∨ o.mode = 5 → k ≤ 63) →
      (IssuesM s i n 0x6A o e → exec (.rshl i o) s =
        gives (a <<< k) (decide (0 < k ∧ k ≤ 64) && a.getLsbD (64 - k))) ∧
      (IssuesM s i n 0x6B o e → exec (.rshr i o) s =
        gives (a >>> k) (decide (0 < k ∧ k ≤ 64) && a.getLsbD (k - 1))) ∧
      (IssuesM s i n 0x6C o e → exec (.rsar i o) s =
        gives (a.sshiftRight k) (decide (0 < k) && a.getLsbD (min (k - 1) 63))))

/-- R118, R120: TORAW, RTOFIX and RTOFLO give the operand's `PAYLOAD` a new tag. BFX and BFXS take a field of A, BFI replaces
one by the low bits of X, CLZ, CTZ and POPC count bits of the operand, BPERM picks bytes of A. ST stays. On a vent core the
bit-field group raises UNDEF_OP with `SUB` 0x01 (R104). -/
def Obligations.BitFieldsAndConversions : Prop :=
  ∀ (s t : State) (i : Issue) (n : Nat) (o : MOp) (e : Env) (c : Cell) (fa : Nat), (Is c tagFIX ∨ Is c tagRAW) →
    let a := (t.regs e.q).a.payload
    let v := c.payload
    let p := v.toNat % 64
    let w := v.toNat / 256 % 64 + 1
    (i.vent = true →
      (IssuesM s i n 0x70 o e → exec (.bfx i o) s = .next (s.trapped e 0x10 1 0 0 0)) ∧
      (IssuesM s i n 0x71 o e → exec (.bfxs i o) s = .next (s.trapped e 0x10 1 0 0 0)) ∧
      (IssuesM s i n 0x72 o e → exec (.bfi i o) s = .next (s.trapped e 0x10 1 0 0 0)) ∧
      (IssuesM s i n 0x73 o e → exec (.clz i o) s = .next (s.trapped e 0x10 1 0 0 0)) ∧
      (IssuesM s i n 0x74 o e → exec (.ctz i o) s = .next (s.trapped e 0x10 1 0 0 0)) ∧
      (IssuesM s i n 0x75 o e → exec (.popc i o) s = .next (s.trapped e 0x10 1 0 0 0)) ∧
      (IssuesM s i n 0x76 o e → exec (.bperm i o) s = .next (s.trapped e 0x10 1 0 0 0))) ∧
    (i.vent = false → Reads s e o 2 c fa t → (Is (t.regs e.q).a tagFIX ∨ Is (t.regs e.q).a tagRAW) →
      (IssuesM s i n 0x70 o e → ∃ z : Word64, exec (.bfx i o) s = .next (t.finishA e (mkRAW z.toNat)) ∧
        ∀ j, j < 64 → z.getLsbD j = (decide (j < w) && a.getLsbD (p + j))) ∧
      (IssuesM s i n 0x71 o e → ∃ z : Word64, exec (.bfxs i o) s = .next (t.finishA e (mkRAW z.toNat)) ∧
        ∀ j, j < 64 → z.getLsbD j = a.getLsbD (p + min j (w - 1))) ∧
      (IssuesM s i n 0x72 o e → ∃ z : Word64, exec (.bfi i o) s = .next (t.finishA e (mkRAW z.toNat)) ∧
        ∀ j, j < 64 → z.getLsbD j = if p ≤ j ∧ j < p + w then (t.regs e.q).x.getLsbD (j - p) else a.getLsbD j) ∧
      (IssuesM s i n 0x76 o e → ∃ z : Word64, exec (.bperm i o) s = .next (t.finishA e (mkRAW z.toNat)) ∧
        ∀ j k, j < 8 → k < 8 → z.getLsbD (8 * j + k) =
          (decide (v.toNat / 16 ^ j % 16 < 8) && a.getLsbD (8 * (v.toNat / 16 ^ j % 16) + k)))) ∧
    (Reads s e o 1 c fa t →
      (IssuesM s i n 0x6D o e → exec (.toraw i o) s = .next (t.finishA e (mkRAW c.pay))) ∧
      (IssuesM s i n 0x6E o e → exec (.rtofix i o) s = .next (t.finishA e (fixOfNat c.pay))) ∧
      (IssuesM s i n 0x6F o e → exec (.rtoflo i o) s = .next (t.finishA e (mkFLO v))) ∧
      (i.vent = false → IssuesM s i n 0x73 o e → ∃ k, exec (.clz i o) s = .next (t.finishA e (fixOfNat k)) ∧ k ≤ 64 ∧
        (∀ j, 64 - k ≤ j → v.getLsbD j = false) ∧ (k < 64 → v.getLsbD (63 - k) = true)) ∧
      (i.vent = false → IssuesM s i n 0x74 o e → ∃ k, exec (.ctz i o) s = .next (t.finishA e (fixOfNat k)) ∧ k ≤ 64 ∧
        (∀ j, j < k → v.getLsbD j = false) ∧ (k < 64 → v.getLsbD k = true)) ∧
      (i.vent = false → IssuesM s i n 0x75 o e → exec (.popc i o) s =
        .next (t.finishA e (fixOfNat ((List.range 64).filter (fun j => v.getLsbD j)).length))))

/-- R3, R107, R110: at machine level a load of an address that translates gives the cell there, and memory and every register
stay as they were. R3, R21, R37, R107: at machine level a store to an address that translates writes the 16 bytes of its
cell, parity recomputed, and no other byte of memory and no register. -/
def Obligations.LoadsAndStoresReachOneCell : Prop :=
  (∀ (s : State) (e : Env) (va pa opn : Nat), e.user = false → Plain s e va pa →
    ∃ t, loadCell e .all va opn s = .ok (s.cell pa, t) ∧ SameButMemory s t ∧ t.mem = s.mem) ∧
  (∀ (s : State) (e : Env) (va pa opn : Nat) (v : Cell) (feeds : Bool), e.user = false → Plain s e va pa →
    ∃ t, storeCell e .all va opn v feeds false s = .ok ((), t) ∧ SameButMemory s t ∧ OneCell s t pa v)

/-- R86, R87, R112: STA, STX, STY, STK, STF, STE, STS and STC store their register's cell to the operand (X, Y and K as FIX),
and nothing else changes beside what that store leaves. In register mode the store is to the register: A takes any cell, F,
E, S and C a CAP, X and Y the `PAYLOAD` of a FIX or RAW; another cell raises CAP_TAG or TAG_MISMATCH. R30, R86, R87, R98:
what a store to a register operand leaves, or the cause that it raises; a reserved field value of a moved cell raises none.
R98, R101: a store to a memory operand is a store of the cell at the operand's address; then `MODE` 7 and 8 move the base
register. At machine level, `MODE` 1, 7 and 8 with a capability register. -/
def Obligations.StoresWriteTheirOperand : Prop :=
  (∀ (s t : State) (i : Issue) (n : Nat) (o : MOp) (e : Env),
    let r := s.regs e.q
    let done := Host.Outcome.next (t.moveTo e.q e.next)
    (IssuesM s i n 0x02 o e → Writes s e o 2 1 r.a t → exec (.sta i o) s = done) ∧
    (IssuesM s i n 0x08 o e → Writes s e o 1 1 (fixOfNat r.x.toNat) t → exec (.stx i o) s = done) ∧
    (IssuesM s i n 0x09 o e → Writes s e o 1 1 (fixOfNat r.y.toNat) t → exec (.sty i o) s = done) ∧
    (IssuesM s i n 0x0A o e → Writes s e o 1 1 (fixOfNat r.k.toNat) t → exec (.stk i o) s = done) ∧
    (IssuesM s i n 0x0F o e → Writes s e o 1 1 r.f t → exec (.stf i o) s = done) ∧
    (IssuesM s i n 0x10 o e → Writes s e o 1 1 r.e t → exec (.ste i o) s = done) ∧
    (IssuesM s i n 0x11 o e → Writes s e o 1 1 r.s t → exec (.sts i o) s = done) ∧
    (IssuesM s i n 0x12 o e → Writes s e o 1 1 r.c t → exec (.stc i o) s = done)) ∧
  (∀ (s : State) (e : Env) (o : MOp) (opn : Nat) (v : Cell), Fresh s e → o.mode = 0 → o.disp = 0 →
    let w := fun f : Regs → Regs => Writes s e o opn 1 v ((s.started e).modRegs e.q f)
    let stops := fun code : Nat => decodeWrite e o opn 1 0 v (s.started e) =
      .error (.trap { code := code, opn := 1, iword := e.iword })
    (o.base = 6 → w (fun r => { r with a := normalize v })) ∧
    (v.tag = tagCAP →
      (o.base = 0 → w (fun r => { r with f := v })) ∧ (o.base = 1 → w (fun r => { r with e := v })) ∧
      (o.base = 2 → w (fun r => { r with s := v })) ∧ (o.base = 3 → w (fun r => { r with c := v }))) ∧
    (v.tag = tagFIX ∨ v.tag = tagRAW →
      (o.base = 4 → w (fun r => { r with x := v.payload })) ∧ (o.base = 5 → w (fun r => { r with y := v.payload }))) ∧
    (v.tag ≠ tagCAP → o.base.toNat ≤ 3 → stops 0x0B) ∧
    (v.tag ≠ tagFIX → v.tag ≠ tagRAW → o.base = 4 ∨ o.base = 5 → stops 0x01)) ∧
  (∀ (s : State) (e : Env) (o : MOp) (opn : Nat) (v : Cell) (va pa : Nat), e.user = false → Fresh s e →
    o.base.toNat ≤ 3 → Plain (s.started e) e va pa → va ≤ 2 ^ 56 - 16 →
    (o.mode = 1 ∧ (va : Int) = ((s.regs e.q).capReg o.base.toNat).pay + 16 * o.disp.toInt →
      ∃ t, Writes s e o opn 1 v t ∧ SameButMemory s t ∧ OneCell s t pa v) ∧
    (o.mode = 7 ∧ o.disp = 0 ∧ va = ((s.regs e.q).capReg o.base.toNat).pay →
      ∃ t, Writes s e o opn 1 v (t.modRegs e.q (fun r => r.stepBase o.base.toNat 16)) ∧
        SameButMemory s t ∧ OneCell s t pa v) ∧
    (o.mode = 8 ∧ o.disp = 0 ∧ va + 16 = ((s.regs e.q).capReg o.base.toNat).pay →
      ∃ t, Writes s e o opn 1 v (t.modRegs e.q (fun r => r.stepBase o.base.toNat (-16))) ∧
        SameButMemory s t ∧ OneCell s t pa v))

/-- R112, R274: XCHG exchanges A with a register operand, the slot's earlier stores written out first, or with the cell in
memory; CAS gives A the old cell and stores the cell at S where the old cell is EQ to A, and otherwise stores nothing.
Machine level, `MODE` 0 with A or `MODE` 1. R89, R90, R112, R274: RDST gives A the whole of ST as RAW; ISYNC changes only PC;
FENCE writes every waiting store of its slot and core out: each waiting cell is in memory afterwards, every byte outside
those cells is as before, no store waits, and no register changes. -/
def Obligations.ExchangesAndFences : Prop :=
  (∀ (s : State) (i : Issue) (n : Nat) (o : MOp) (e : Env) (va pa sp : Nat), e.user = false → Fresh s e →
    let a := (s.regs e.q).a
    (o.mode = 0 → o.base = 6 → o.disp = 0 → IssuesM s i n 0x03 o e → exec (.xchg i o) s =
      .next (((s.started e).orderStores e.q).finishA e a)) ∧
    (o.mode = 1 → o.base.toNat ≤ 3 → Plain (s.started e) e va pa → va ≤ 2 ^ 56 - 16 →
      (va : Int) = ((s.regs e.q).capReg o.base.toNat).pay + 16 * o.disp.toInt →
      (IssuesM s i n 0x03 o e →
        ∃ t : State, exec (.xchg i o) s = .next (t.finishA e (s.cell pa)) ∧ SameButMemory s t ∧ OneCell s t pa a) ∧
      ((s.regs e.q).s.pay = sp → ∀ pb, Plain (s.started e) e sp pb → sp ≤ 2 ^ 56 - 16 → IssuesM s i n 0x04 o e →
        (eqCell (s.cell pa) a = true →
          ∃ t : State, exec (.cas i o) s = .next (t.finishA e (s.cell pa)) ∧ SameButMemory s t ∧ OneCell s t pa (s.cell pb)) ∧
        (eqCell (s.cell pa) a = false →
          ∃ t : State, exec (.cas i o) s = .next (t.finishA e (s.cell pa)) ∧ SameButMemory s t ∧ t.mem = s.mem)))) ∧
  (∀ (s : State) (i : Issue) (n : Nat) (o : MOp) (e : Env), Fresh s e → o.zero = true →
    (IssuesM s i n 0x16 o e → exec (.rdst i o) s = .next ((s.started e).finishA e (mkRAW (s.regs e.q).st.toNat))) ∧
    (IssuesM s i n 0x1E o e → exec (.isync i o) s = .next ((s.started e).moveTo e.q e.next)) ∧
    (IssuesM s i n 0x1F o e → ∃ t : State, exec (.fence i o) s = .next (t.moveTo e.q e.next) ∧
      Stored s t (s.waiting e.q) ∧ t.waiting e.q = [] ∧ (∀ q, t.regs q = s.regs q) ∧ t.ctxStore = s.ctxStore))

/-- R112, R135: without a prefix MOVC and MOVCD copy one cell from base + 16(X + d) to base + 16(Y + d) and move X and Y by 1
or −1; FILLC stores A at the indexed cell and moves its index by 1; ZLINE zeroes the whole 512-byte line and moves its index
by 32. K, and every byte outside the cell or line, stay. Machine level, `MODE` 2 with a capability register. R117, R121,
R123, R135: CMPC moves X and Y by 1 where the two cells are EQ, and gives CONST true, else CONST false with X and Y in place;
TSCANE and TSCANN stop on a cell whose tag is, or is not, A[7:0] with CONST true, else move the index and give CONST false.
Nothing is stored. Machine level, `MODE` 2 with a capability register. -/
def Obligations.BlockInstructionsDoOneIteration : Prop :=
  (∀ (s : State) (i : Issue) (n : Nat) (o : MOp) (e : Env) (va vb pa pb : Nat), e.user = false → Fresh s e →
    o.mode = 2 → o.base.toNat ≤ 3 → va ≤ 2 ^ 56 - 16 → vb ≤ 2 ^ 56 - 16 → Plain (s.started e) e va pa →
      Plain (s.started e) e vb pb →
    let r := s.regs e.q
    let base := (r.capReg o.base.toNat).pay
    (va : Int) = base + 16 * (r.x.toInt + o.disp.toInt) → (vb : Int) = base + 16 * (r.y.toInt + o.disp.toInt) →
    let pc := BitVec.ofNat 64 e.next
    (IssuesM s i n 0x13 o e → ∃ t : State, exec (.movc i o) s = .next t ∧
      Becomes s t e.q { r with x := r.x + 1, y := r.y + 1, pc := pc } ∧ OneCell s t pb (s.cell pa)) ∧
    (IssuesM s i n 0x14 o e → ∃ t : State, exec (.movcd i o) s = .next t ∧
      Becomes s t e.q { r with x := r.x - 1, y := r.y - 1, pc := pc } ∧ OneCell s t pb (s.cell pa)) ∧
    (IssuesM s i n 0x15 o e → ∃ t : State, exec (.fillc i o) s = .next t ∧
      Becomes s t e.q { r with x := r.x + 1, pc := pc } ∧ OneCell s t pa r.a) ∧
    (IssuesM s i n 0xD0 o e → ((s.started e).core e.q.core).missFind (pa / 512) = none →
      ∃ t : State, exec (.zline i o) s = .next t ∧
      Becomes s t e.q { r with x := r.x + 32, pc := pc } ∧
      (∀ a, a / 512 = pa / 512 → readByte t.mem a = 0) ∧
      ∀ a, a / 512 ≠ pa / 512 → readByte t.mem a = readByte s.mem a)) ∧
  (∀ (s : State) (i : Issue) (n : Nat) (o : MOp) (e : Env) (va vb pa pb : Nat), e.user = false → Fresh s e →
    o.mode = 2 → o.base.toNat ≤ 3 → va ≤ 2 ^ 56 - 16 → vb ≤ 2 ^ 56 - 16 → Plain (s.started e) e va pa →
      Plain (s.started e) e vb pb →
    let r := s.regs e.q
    let base := (r.capReg o.base.toNat).pay
    (va : Int) = base + 16 * (r.x.toInt + o.disp.toInt) → (vb : Int) = base + 16 * (r.y.toInt + o.disp.toInt) →
    let pc := BitVec.ofNat 64 e.next
    let same := decide ((s.cell pa).tag = (s.cell pb).tag ∧ (s.cell pa).spec = (s.cell pb).spec ∧
      (s.cell pa).pay = (s.cell pb).pay)
    let hit := decide ((s.cell pa).tag = r.a.pay % 256)
    (IssuesM s i n 0x57 o e → ∃ t : State, exec (.cmpc i o) s = .next t ∧ t.mem = s.mem ∧
      Becomes s t e.q (if same then { r with x := r.x + 1, y := r.y + 1, a := constTrue, pc := pc }
                       else { r with a := constFalse, pc := pc })) ∧
    (r.a.tag = tagFIX ∨ r.a.tag = tagRAW →
      (IssuesM s i n 0x5A o e → ∃ t : State, exec (.tscane i o) s = .next t ∧ t.mem = s.mem ∧
        Becomes s t e.q (if hit then { r with a := constTrue, pc := pc }
                         else { r with x := r.x + 1, a := constFalse, pc := pc })) ∧
      (IssuesM s i n 0x5B o e → ∃ t : State, exec (.tscann i o) s = .next t ∧ t.mem = s.mem ∧
        Becomes s t e.q (if hit then { r with x := r.x + 1, a := constFalse, pc := pc }
                         else { r with a := constTrue, pc := pc }))))

/-- R133 to R135, R138: the first iteration under REP or REPI, `ST.RESUME` 0: a count of 0 only sets K to 0; otherwise the
count is `DISP16`, or K where `DISP16` is 0, and after an iteration that neither ends the repeat nor faults the slot is in
the repeat with one iteration done, PC at the prefix. Both words in one cell, no extension word. R136, R138: a further
iteration of a repeat, at a boundary without a due cause or at one that takes none (REP, not a multiple of 64). Where it
neither ends the repeat nor is the last, the slot is in the repeat with one more iteration done. At the end the slot leaves
the repeat with K equal to the iterations not executed and PC after the governed instruction, and MOVC, MOVCD, FILLC and
ZLINE leave A. A reset or an activation that waited for the boundary then happens (R495, R505). R136, R137: an interrupt is
taken inside a repeat at a boundary that R136 names: after any iteration of a REPI, after a multiple of 64 of a REP. It
leaves `MRA` at the prefix, K the iterations left and `MST.RESUME` 1. -/
def Obligations.RepeatsCountAndStop : Prop :=
  (∀ (s t : State) (i : Issue) (n : Nat) (disp : BitVec 16) (gop : BitVec 8) (o : MOp) (e : Env) (key : Option Cell)
    (repi : Bool), Fresh s e → e.pc.testBit 2 = false → repeatable gop = true → repeatOk gop o = true → o.hasExt = false →
    (e.user && o.privBase) = false →
    let op : BitVec 8 := if repi then 0xF1 else 0xF0
    let word : Word32 := op ++ (0 : BitVec 4) ++ (0 : BitVec 4) ++ disp
    let run := if repi then exec (.repi i 0 0 disp gop o) s else exec (.rep i 0 0 disp gop o) s
    let count := if disp = 0 then (s.regs e.q).k.toNat else disp.toNat
    let g := e.governed (mwordOf gop o)
    let rp : Repeat := { pfx := word, word := mwordOf gop o, count := count, done := 0, key := none }
    let s1 := (s.started e).modSlot e.q (fun v => { v with mid := .rep rp })
    Issues s i n word (1 + o.slots) e →
    (count = 0 → run = .next ((s.started e).finish e (fun r => { r with k := 0 }))) ∧
    (1 < count → iterate g gop o none s1 = .ok ((false, key), t) →
      run = .next (t.modSlot e.q (fun v => { v with mid := .rep { rp with done := 1, key := key } })))) ∧
  (∀ (s t : State) (i : Issue) (n : Nat) (rp : Repeat) (ended : Bool) (key : Option Cell),
    let q := Cx.of i
    let e := s.midEnv q n rp.word true
    (s.slot q).ctx = some n → s.issuable q n = true → (s.slot q).mid = .rep rp → i.parity = .none →
    (s.asyncDue n (s.slot q).regs.st = none ∨ (bit rp.pfx 24 = false ∧ rp.done % 64 ≠ 0)) →
    iterate e rp.word.op rp.word.opd rp.key (s.release q) = .ok ((ended, key), t) →
    let n1 := rp.done + 1
    (ended = false → n1 < rp.count → exec (.repeatIteration i) s =
      .next (t.modSlot q (fun v => { v with mid := .rep { rp with done := n1, key := key } })).atBoundaries) ∧
    (ended = true ∨ rp.count ≤ n1 → rp.word.op = 0x13 ∨ rp.word.op = 0x14 ∨ rp.word.op = 0x15 ∨ rp.word.op = 0xD0 →
      exec (.repeatIteration i) s = .next (((t.modSlot q (fun v => { v with mid := .none })).modRegs q
        (fun r => { r with k := BitVec.ofNat 32 (rp.count - n1) })).moveTo q e.next).atBoundaries)) ∧
  (∀ (s : State) (i : Issue) (n : Nat) (rp : Repeat) (c : Trap),
    let q := Cx.of i
    (s.slot q).ctx = some n → s.issuable q n = true → (s.slot q).mid = .rep rp → rp.key = none →
    s.asyncDue n (s.slot q).regs.st = some c →
    (bit rp.pfx 24 = true ∨ rp.done % 64 = 0) →
    ∃ t : State, exec (.repeatIteration i) s = .next t.atBoundaries ∧ (t.slot q).mid = .none ∧
      (t.regs q).mra = (s.regs q).pc ∧ (t.regs q).k = BitVec.ofNat 32 (rp.count - rp.done) ∧
      bit (t.regs q).mst 61 = true ∧ (t.regs q).pc = (s.core q.core).men ∧ (t.regs q).mca = c.cell ∧
      (t.regs q).x = (s.regs q).x ∧ (t.regs q).y = (s.regs q).y ∧ (t.regs q).a = (s.regs q).a)

/-- R25, R121, R122: CAR and CDR of a cons give the cell at its address and the one after; SETCAR and SETCDR store A there;
CONS takes 32 bytes at an aligned H, stores A and the operand there, advances H and gives A the reference. Machine level,
heap hardware off. R123: one step of an association-list search. A nil ends it with nil; an entry whose CAR is EQ to the key
becomes A; else A becomes the CDR. A list cell is read from memory only. Machine level. -/
def Obligations.ConsesAndAssociationLists : Prop :=
  (∀ (s t : State) (i : Issue) (n : Nat) (o : MOp) (e : Env) (c : Cell) (fa pa pd : Nat), e.user = false →
    let r := t.regs e.q
    let pc := BitVec.ofNat 64 e.next
    (Is c tagCONS → Plain t e c.pay pa → Plain t e (c.pay + 16) pd →
      (Reads s e o 1 c fa t →
        (IssuesM s i n 0x80 o e → ∃ u : State, exec (.car i o) s = .next u ∧
          Becomes t u e.q { r with a := normalize (t.cell pa), pc := pc } ∧ u.mem = t.mem) ∧
        (IssuesM s i n 0x81 o e → ∃ u : State, exec (.cdr i o) s = .next u ∧
          Becomes t u e.q { r with a := normalize (t.cell pd), pc := pc } ∧ u.mem = t.mem)) ∧
      (Reads s e o 2 c fa t →
        (IssuesM s i n 0x83 o e → ∃ u : State, exec (.setcar i o) s = .next u ∧
          Becomes t u e.q { r with pc := pc } ∧ OneCell t u pa r.a) ∧
        (IssuesM s i n 0x84 o e → ∃ u : State, exec (.setcdr i o) s = .next u ∧
          Becomes t u e.q { r with pc := pc } ∧ OneCell t u pd r.a))) ∧
    (∀ h : Nat, Reads s e o 2 c fa t → IssuesM s i n 0x82 o e → r.h.toNat = h → h % 32 = 0 → h % 512 ≠ 0 →
      h + 32 ≤ r.hl.toNat → Plain t e h pa → Plain t e (h + 16) (pa + 16) →
      ∃ u : State, exec (.cons i o) s = .next u ∧
        Becomes t u e.q { r with h := r.h + 32, a := normalize (mkCell tagCONS t.heap.good 0 h), pc := pc } ∧
        u.cell pa = normalize r.a ∧ u.cell (pa + 16) = normalize c ∧
        ∀ a, a < pa ∨ pa + 32 ≤ a → readByte u.mem a = readByte t.mem a)) ∧
  (∀ (s : State) (i : Issue) (n : Nat) (o : MOp) (e : Env) (pe pk pd : Nat), e.user = false → Fresh s e → o.mode = 0 →
    o.disp = 0 → o.base.toNat ≤ 6 → IssuesM s i n 0x85 o e →
    let r := s.regs e.q
    let key := r.read o.base.toNat
    (Is r.a tagCONST → r.a.pay = 0 → exec (.astep i o) s = .next ((s.started e).moveTo e.q e.next)) ∧
    (Is r.a tagCONS → Plain (s.started e) e r.a.pay pe → Is (s.cell pe) tagCONS → Plain (s.started e) e (s.cell pe).pay pk →
      (eqCell (s.cell pk) key = true → ∃ t : State, exec (.astep i o) s = .next (t.finishA e (s.cell pe)) ∧
        SameButMemory s t ∧ t.mem = s.mem) ∧
      (eqCell (s.cell pk) key = false → Plain (s.started e) e (r.a.pay + 16) pd →
        ∃ t : State, exec (.astep i o) s = .next (t.finishA e (s.cell pd)) ∧ SameButMemory s t ∧ t.mem = s.mem)))

/-- R27, R122, R124: VALLOC, RALLOC, CLALLOC and an empty SALLOC take their cells at H, write the header with `KIND`, `SIZE`
and its `PAYLOAD` there, advance H and give A the reference; no other byte changes. A count outside its range raises
HEAP_LIMIT (cause 0x1C); a SALLOC that ends or faults in its first step leaves `PRG` 0. The request fits below HL, H is not
at a line's start, and the heap hardware is off. R124, R182, R186: SALLOC of bytes takes the string's cells at H and writes
its header in step 1, then goes on as a long instruction whose work object is the string, A not yet written. -/
def Obligations.AllocationsWriteTheirHeader : Prop :=
  (∀ (s t : State) (i : Issue) (n : Nat) (o : MOp) (e : Env) (c : Cell) (fa pa h k : Nat), Fresh s e → Is c tagFIX →
    let r := t.regs e.q
    let made := fun (y : Out) (cells : Nat) (hdr ref prg : Cell) => h + 16 * cells ≤ r.hl.toNat →
      ∃ u : State, y = .next u ∧ OneCell t u pa hdr ∧ Becomes t u e.q
        { r with h := BitVec.ofNat 64 (h + 16 * cells), a := normalize ref, prg := prg, pc := BitVec.ofNat 64 e.next }
    (r.h.toNat = h → h % 512 ≠ 0 → Plain t e h pa → c.int = k → k ≤ 2 ^ 40 - 2 →
      (Reads s e o 1 c fa t → IssuesM s i n 0x90 o e →
        made (exec (.valloc i o) s) (k + 1) (mkHDR tagVEC (k + 1) k) (mkCell tagVEC t.heap.good 0 h) r.prg) ∧
      (Reads s e o 2 c fa t → IssuesM s i n 0x92 o e → (Is r.a tagFIX ∨ Is r.a tagRAW) →
        made (exec (.ralloc i o) s) (k + 1) (mkHDR tagREC (k + 1) r.a.pay) (mkCell tagREC t.heap.good 0 h) r.prg) ∧
      (Reads s e o 2 c fa t → IssuesM s i n 0x93 o e → Is r.a tagCAP → r.a.rights.testBit 4 = true →
        made (exec (.clalloc i o) s) (k + 1) (mkHDR tagCLO (k + 1) r.a.pay) (mkCell tagCLO t.heap.good 0 h) r.prg) ∧
      (Reads s e o 1 c fa t → IssuesM s i n 0x91 o e → k = 0 →
        made (exec (.salloc i o) s) 1 (mkHDR tagSTR 1 0) (mkCell tagSTR t.heap.good 0 h) 0)) ∧
    (Reads s e o 1 c fa t →
      (IssuesM s i n 0x90 o e → c.int < 0 ∨ 2 ^ 40 - 2 < c.int →
        exec (.valloc i o) s = .next (s.trapped e 0x1C 0 0 0 0)) ∧
      (IssuesM s i n 0x91 o e → c.int < 0 ∨ 8 * (2 ^ 40 - 2) < c.int →
        exec (.salloc i o) s = .next (((s.started e).clearPrg e.q).taken e 0x1C 0 0 0 0)))) ∧
  (∀ (s t : State) (i : Issue) (n : Nat) (o : MOp) (e : Env) (c : Cell) (fa pa h k : Nat), Fresh s e → Is c tagFIX →
    Reads s e o 1 c fa t → IssuesM s i n 0x91 o e →
    let r := t.regs e.q
    let cells := 1 + (k + 7) / 8
    r.h.toNat = h → h % 512 ≠ 0 → Plain t e h pa → c.int = k → 0 < k → k ≤ 8 * (2 ^ 40 - 2) →
    h + 16 * cells ≤ r.hl.toNat →
    ∃ u : State, exec (.salloc i o) s = .next u ∧ OneCell t u pa (mkHDR tagSTR cells k) ∧
      u.regs e.q = { r with h := BitVec.ofNat 64 (h + 16 * cells) } ∧
      (∃ l, (u.slot e.q).mid = .long l ∧ l.step = 1 ∧ l.work = h ∧ l.routine = .salloc h k 0) ∧
      h ∈ (u.auxOf e.n).holds)

/-- R124, R125, R553: OLEN gives the count of the header, RTYPE a record's type; SLDB gives byte X of a string, SSTB writes
it in the low byte of A, both within the string's length; VCOPY of 0 elements only checks, and leaves `PRG` 0. Machine level.
R125, R181, R246, R553: VCOPY of K > 0 elements checks both spans in its first step and goes on as a long instruction without
a work object. Each further step copies one element, from 1 + X + j of the source to 1 + Y + j of the destination, ascending,
or descending where both are one vector and X < Y; the last one leaves `PRG` 0 and moves PC on. No other byte changes.
Machine level, heap hardware off. -/
def Obligations.ObjectsAreReadThroughTheirHeader : Prop :=
  (∀ (s t : State) (i : Issue) (n : Nat) (o : MOp) (e : Env) (c : Cell) (fa pa pb : Nat), e.user = false → Fresh s e →
    Plain t e c.pay pa →
    let r := t.regs e.q
    let h := t.cell pa
    let pc := BitVec.ofNat 64 e.next
    let gives := fun (y : Out) (v : Cell) => ∃ u : State, y = .next u ∧
      Becomes t u e.q { r with a := normalize v, pc := pc } ∧ u.mem = t.mem
    Is h tagHDR → h.hdrKind = c.tag → c.reserved = false →
    (Reads s e o 1 c fa t →
      (IssuesM s i n 0x94 o e →
        (c.tag = tagVEC ∨ c.tag = tagSTR → gives (exec (.olen i o) s) (fixOfNat h.pay)) ∧
        (c.tag = tagREC ∨ c.tag = tagCLO → gives (exec (.olen i o) s) (fixOfNat (h.hdrSize - 1)))) ∧
      (IssuesM s i n 0x98 o e → c.tag = tagREC → gives (exec (.rtype i o) s) (mkRAW h.pay)) ∧
      (IssuesM s i n 0x96 o e → c.tag = tagSTR → r.x.toNat < h.pay → c.pay + 16 * (1 + r.x.toNat / 8) < 2 ^ 56 →
        Plain t e (c.pay + 16 * (1 + r.x.toNat / 8)) pb → Is (t.cell pb) tagRAW →
        gives (exec (.sldb i o) s) (fixOfNat ((t.cell pb).pay / 256 ^ (r.x.toNat % 8) % 256))) ∧
      (IssuesM s i n 0x96 o e → c.tag = tagSTR → h.pay ≤ r.x.toNat →
        exec (.sldb i o) s = .next (s.trapped e 0x08 0 1 0 ((c.pay + 16 * (1 + r.x.toNat / 8)) % 2 ^ 56)))) ∧
    (Reads s e o 2 c fa t →
      (IssuesM s i n 0x97 o e → c.tag = tagSTR → Is r.a tagFIX → r.a.pay ≤ 255 → r.x.toNat < h.pay →
        Plain t e (c.pay + 16 * (1 + r.x.toNat / 8)) pb → Is (t.cell pb) tagRAW →
        ∃ u : State, exec (.sstb i o) s = .next u ∧ Becomes t u e.q { r with pc := pc } ∧
          (∀ a, a < pb ∨ pb + 16 ≤ a → readByte u.mem a = readByte t.mem a) ∧ (u.cell pb).tag = tagRAW ∧
          ∀ k, k < 8 → (u.cell pb).pay / 256 ^ k % 256 =
            if k = r.x.toNat % 8 then r.a.pay else (t.cell pb).pay / 256 ^ k % 256) ∧
      (IssuesM s i n 0x95 o e → c.tag = tagVEC → Is r.a tagVEC → r.k = 0 → r.a.pay = c.pay → 0 ≤ r.x.toInt →
        r.x.toInt ≤ h.pay → 0 ≤ r.y.toInt → r.y.toInt ≤ h.pay →
        ∃ u : State, exec (.vcopy i o) s = .next u ∧ Becomes t u e.q { r with prg := 0, pc := pc } ∧ u.mem = t.mem))) ∧
  (∀ (s : State) (i : Issue) (n : Nat),
    (∀ (t : State) (o : MOp) (e : Env) (c : Cell) (fa pa pb : Nat), e.user = false → Fresh s e → Reads s e o 2 c fa t →
      IssuesM s i n 0x95 o e →
      let r := t.regs e.q
      Is c tagVEC → Is r.a tagVEC → Plain t e c.pay pa → Plain t e r.a.pay pb → Is (t.cell pa) tagHDR → Is (t.cell pb) tagHDR →
      (t.cell pa).hdrKind = tagVEC → (t.cell pb).hdrKind = tagVEC → r.k ≠ 0 → 0 ≤ r.x.toInt → 0 ≤ r.y.toInt →
      r.x.toInt + r.k.toNat ≤ (t.cell pa).pay → r.y.toInt + r.k.toNat ≤ (t.cell pb).pay →
      ∃ (u : State) (l : LongOp), exec (.vcopy i o) s = .next u ∧ u.mem = t.mem ∧ u.regs e.q = r ∧
        (u.slot e.q).mid = .long l ∧ l.step = 1 ∧ l.work = 0 ∧
        l.routine = .vcopy r.a c r.x.toInt r.y.toInt r.k.toNat 0 ∧ (l.refNow r.a).pay = r.a.pay ∧ (l.refNow c).pay = c.pay) ∧
    (∀ (l : LongOp) (dst src : Cell) (x y : Int) (k done ps pd : Nat),
      let q := Cx.of i
      let e := s.midEnv q n l.word false
      let j := if src.pay = dst.pay ∧ x < y then k - 1 - done else done
      (s.slot q).ctx = some n → s.issuable q n = true → (s.slot q).mid = .long l → s.asyncDue n (s.slot q).regs.st = none →
      i.parity = .none → e.user = false → l.routine = .vcopy dst src x y k done → done < k → 0 ≤ x → 0 ≤ y →
      Plain s e ((l.refNow src).pay + 16 * (1 + x.toNat + j)) ps → Plain s e ((l.refNow dst).pay + 16 * (1 + y.toNat + j)) pd →
      ∃ t : State, exec (.longInstructionStep i) s = .next t ∧ OneCell s t pd (s.cell ps) ∧
        (done + 1 = k → (t.slot q).mid = .none ∧ t.regs q = { s.regs q with prg := 0, pc := BitVec.ofNat 64 e.next }) ∧
        (done + 1 < k → t.regs q = s.regs q ∧
          (t.slot q).mid = .long { l with step := l.step + 1, routine := .vcopy dst src x y k (done + 1) })))

/-- R126, R141, R147 to R151: on a CAP in A, CRIGHTS clears the rights that the operand lacks and nothing else; CSEAL makes
it a SEAL of the named type; CUNSEAL of a SEAL of that type gives the CAP back, without `GLOBAL` where the operand lacks it;
CSUB compares authority; CGETB, CGETL, CGETR and CGETT read `BASE`, the length, `RIGHTS` and `OTYPE`. R147: CBOUND moves the
base of a CAP by 16 × X and sets its bounds around the operand's bytes, never beyond what A held; `RIGHTS` and `OTYPE` stay.
A request outside 0 to 2^56 or beyond A's bounds raises CAP_BOUNDS. -/
def Obligations.CapabilitiesNeverWiden : Prop :=
  (∀ (s t : State) (i : Issue) (n : Nat) (o : MOp) (e : Env) (c : Cell) (fa : Nat),
    (Reads s e o 2 c fa t →
      let a := (t.regs e.q).a
      let keeps := fun z : Cell => z.len = a.len ∧ z.pay = a.pay ∧ z.epoch = a.epoch
      let names := fun right : Nat => Is c tagCAP ∧ 1 ≤ c.pay / 16 ∧ c.pay / 16 ≤ 65535 ∧
        c.capL ≤ ((c.pay / 16 * 16 : Nat) : Int) ∧ ((c.pay / 16 * 16 : Nat) : Int) + 16 ≤ c.capU ∧
        c.rights.testBit right = true
      (IssuesM s i n 0xA1 o e → Is a tagCAP → (Is c tagFIX ∨ Is c tagRAW) → ∃ z,
        exec (.crights i o) s = .next (t.finishA e z) ∧ keeps z ∧ z.tag = tagCAP ∧ z.otype = a.otype ∧
        ∀ k, k < 12 → z.rights.testBit k = (a.rights.testBit k && c.pay.testBit k)) ∧
      (IssuesM s i n 0xA2 o e → Is a tagCAP → names 5 → ∃ z,
        exec (.cseal i o) s = .next (t.finishA e z) ∧ keeps z ∧ z.tag = tagSEAL ∧ z.otype = c.pay / 16 ∧
        z.rights = a.rights) ∧
      (IssuesM s i n 0xA3 o e → Is a tagSEAL → names 6 → a.otype = c.pay / 16 → ∃ z,
        exec (.cunseal i o) s = .next (t.finishA e z) ∧ keeps z ∧ z.tag = tagCAP ∧ z.otype = 0 ∧
        ∀ k, k < 12 → z.rights.testBit k = (a.rights.testBit k && (decide (k ≠ 11) || c.rights.testBit 11))) ∧
      (IssuesM s i n 0xA3 o e → Is a tagSEAL → names 6 → a.otype ≠ c.pay / 16 →
        exec (.cunseal i o) s = .next (s.trapped e 0x0A 0 2 0 0)) ∧
      (IssuesM s i n 0xA9 o e → Is a tagCAP → Is c tagCAP → ∃ w : Bool,
        exec (.csub i o) s = .next (t.finishA e (if w then constTrue else constFalse)) ∧
        (w = true ↔ (∀ k, k < 12 → a.rights.testBit k = true → c.rights.testBit k = true) ∧
          (a.capLen = 0 ∨ (c.capL ≤ a.capL ∧ a.capU ≤ c.capU))))) ∧
    (Fresh s e → o.zero = true → (Is (s.regs e.q).a tagCAP ∨ Is (s.regs e.q).a tagSEAL) →
      let a := (s.regs e.q).a
      (IssuesM s i n 0xA5 o e → exec (.cgetb i o) s = .next ((s.started e).finishA e (mkRAW a.pay))) ∧
      (IssuesM s i n 0xA6 o e → exec (.cgetl i o) s = .next ((s.started e).finishA e (fixOfNat a.capLen))) ∧
      (IssuesM s i n 0xA7 o e → exec (.cgetr i o) s = .next ((s.started e).finishA e (mkRAW a.rights))) ∧
      (IssuesM s i n 0xA8 o e → exec (.cgett i o) s = .next ((s.started e).finishA e (fixOfNat a.otype))))) ∧
  (∀ (s t : State) (i : Issue) (n : Nat) (o : MOp) (e : Env) (c : Cell) (fa : Nat), Reads s e o 2 c fa t →
    IssuesM s i n 0xA0 o e → Is (t.regs e.q).a tagCAP → Is c tagFIX →
    let a := (t.regs e.q).a
    let b : Int := a.pay + 16 * (t.regs e.q).x.toInt
    ((∃ z : Cell, exec (.cbound i o) s = .next (t.finishA e z) ∧ z.tag = tagCAP ∧ z.pay = b ∧ z.rights = a.rights ∧
        a.capL ≤ z.capL ∧ z.capU ≤ a.capU ∧ z.capL ≤ b ∧ b + c.int ≤ z.capU) ∨
      (∃ f, exec (.cbound i o) s = .next (s.trapped e 0x08 0 1 0 f))) ∧
    (b < 0 ∨ c.int < 0 ∨ 2 ^ 56 < b + c.int → ∃ f, exec (.cbound i o) s = .next (s.trapped e 0x08 0 1 0 f)) ∧
    (0 ≤ b → 0 ≤ c.int → b % 16 = 0 → c.int % 16 = 0 → c.int ≤ 447 * 16 → a.capL ≤ b → b + c.int ≤ a.capU →
      b + c.int ≤ 2 ^ 56 →
      ∃ z : Cell, exec (.cbound i o) s = .next (t.finishA e z) ∧ z.capL = b ∧ z.capU = b + c.int))

/-- R96, R127: a branch adds its offset to its own slot number. BR always branches; BT and BF on CONST true and false; BNIL
and BNNIL on A being, or not being, CONST nil, whatever its tag; BKNZ counts K down to 0 and branches while it is not 0.
Otherwise PC goes to the next slot. Nothing else changes. A target outside the 56-bit address space raises PAGE_PROT with
`SUB` 0x04 at the branch, and only when the branch is taken. -/
def Obligations.BranchesFollowTheirCondition : Prop :=
  (∀ (s : State) (i : Issue) (n : Nat) (off : BitVec 24) (e : Env) (slot : Nat), Fresh s e →
    (slot : Int) = slotNumber e.pc + off.toInt → slot < 2 ^ 53 →
    let r := s.regs e.q
    let goes := fun b : Bool => Host.Outcome.next ((s.started e).moveTo e.q (if b then slotAddress slot else e.next))
    (Issues s i n (bWord 0xB0 off) 1 e → exec (.br i off) s = goes true) ∧
    (Issues s i n (bWord 0xB1 off) 1 e → Is r.a tagCONST → exec (.bt i off) s = goes (r.a.pay == 1)) ∧
    (Issues s i n (bWord 0xB2 off) 1 e → Is r.a tagCONST → exec (.bf i off) s = goes (r.a.pay == 2)) ∧
    (Issues s i n (bWord 0xB1 off) 1 e → r.a.reserved = false → r.a.tag ≠ tagCONST →
      exec (.bt i off) s = .next (s.trapped e 0x01 0 1 0 0)) ∧
    (Issues s i n (bWord 0xB2 off) 1 e → r.a.reserved = false → r.a.tag ≠ tagCONST →
      exec (.bf i off) s = .next (s.trapped e 0x01 0 1 0 0)) ∧
    (Issues s i n (bWord 0xB3 off) 1 e → exec (.bnil i off) s = goes (r.a.tag == tagCONST && r.a.pay == 0)) ∧
    (Issues s i n (bWord 0xB4 off) 1 e → exec (.bnnil i off) s = goes (!(r.a.tag == tagCONST && r.a.pay == 0))) ∧
    (Issues s i n (bWord 0xB5 off) 1 e → r.k = 0 → exec (.bknz i off) s = goes false) ∧
    (Issues s i n (bWord 0xB5 off) 1 e → r.k ≠ 0 → exec (.bknz i off) s = .next (((s.started e).modRegs e.q
      (fun g => { g with k := g.k - 1 })).moveTo e.q (if r.k = 1 then e.next else slotAddress slot)))) ∧
  ∀ (s : State) (i : Issue) (n : Nat) (off : BitVec 24) (e : Env), Fresh s e →
    (slotNumber e.pc : Int) + off.toInt < 0 ∨ 2 ^ 53 ≤ (slotNumber e.pc : Int) + off.toInt →
    let r := s.regs e.q
    let goes := fun (y : Out) (taken : Bool) => if taken then ∃ f, y = .next (s.trapped e 0x0E 4 0 0 f)
      else y = .next ((s.started e).moveTo e.q e.next)
    (Issues s i n (bWord 0xB0 off) 1 e → goes (exec (.br i off) s) true) ∧
    (Issues s i n (bWord 0xB1 off) 1 e → Is r.a tagCONST → goes (exec (.bt i off) s) (r.a.pay == 1)) ∧
    (Issues s i n (bWord 0xB2 off) 1 e → Is r.a tagCONST → goes (exec (.bf i off) s) (r.a.pay == 2)) ∧
    (Issues s i n (bWord 0xB3 off) 1 e → goes (exec (.bnil i off) s) (r.a.tag == tagCONST && r.a.pay == 0)) ∧
    (Issues s i n (bWord 0xB4 off) 1 e → goes (exec (.bnnil i off) s) (!(r.a.tag == tagCONST && r.a.pay == 0))) ∧
    (Issues s i n (bWord 0xB5 off) 1 e → r.k = 0 → goes (exec (.bknz i off) s) false) ∧
    (Issues s i n (bWord 0xB5 off) 1 e → 1 < r.k.toNat → goes (exec (.bknz i off) s) true)

/-- R93, R128, R157: JMP with a CAP whose target is covered, executable and of slot form goes there; CALL first pushes the
return capability below S. The checks on the target raise, in order, TAG_MISMATCH, CAP_BOUNDS and CAP_RIGHTS, at either
level. RET pops such a capability and moves S up. Machine level for the stack. R128, R153: CALLC pushes C and the return
capability and makes C a load-only CAP over the closure; RETC pops the target, then C; INVOKE reads the entry pair, pushes C
and the return capability, and takes C and PC from the pair. Machine level; both stack cells reachable, the first in the
granule of the second or in one that the cluster owns. No byte of memory outside the two pushed cells changes. -/
def Obligations.CallsAndReturnsUseTheStack : Prop :=
  (∀ (s t : State) (i : Issue) (n : Nat) (o : MOp) (e : Env) (c : Cell) (fa pa : Nat),
    let r := t.regs e.q
    let target := fun c : Cell => Is c tagCAP ∧ c.capL ≤ c.pay ∧ (c.pay : Int) + 4 ≤ c.capU ∧ c.rights.testBit 4 = true ∧
      c.pay < 2 ^ 56 ∧ c.pay % 4 = 0 ∧ c.pay.testBit 3 = false
    (Reads s e o 1 c fa t →
      (IssuesM s i n 0xB8 o e → target c → exec (.jmp i o) s = .next (t.moveTo e.q c.pay)) ∧
      (IssuesM s i n 0xB8 o e → c.reserved = false → c.tag ≠ tagCAP →
        exec (.jmp i o) s = .next (s.trapped e 0x01 0 1 0 fa)) ∧
      (IssuesM s i n 0xB8 o e → Is c tagCAP → (c.pay : Int) < c.capL ∨ c.capU < c.pay + 4 →
        exec (.jmp i o) s = .next (s.trapped e 0x08 0 1 0 c.pay)) ∧
      (IssuesM s i n 0xB8 o e → Is c tagCAP → c.capL ≤ c.pay → (c.pay : Int) + 4 ≤ c.capU → c.rights.testBit 4 = false →
        exec (.jmp i o) s = .next (s.trapped e 0x09 0 1 0 c.pay)) ∧
      (IssuesM s i n 0xB9 o e → target c → e.user = false → 16 ≤ r.s.pay → r.s.pay ≤ 2 ^ 56 →
        Plain t e (r.s.pay - 16) pa → t.ctxWmark e.n = 0 → e.next < 2 ^ 56 → e.next % 4 = 0 →
        ∃ u ret : State × Cell, exec (.call i o) s = .next u.1 ∧ OneCell t u.1 pa ret.2 ∧
          ret.2.tag = tagCAP ∧ ret.2.pay = e.next ∧ ret.2.rights = 16 ∧ ret.2.capL ≤ e.next ∧ (e.next : Int) + 4 ≤ ret.2.capU ∧
          Becomes t u.1 e.q { r with s := movePay r.s (-16), pc := BitVec.ofNat 64 c.pay })) ∧
    (Decodes s e o (o.fieldsOk false) t → IssuesM s i n 0xBB o e → e.user = false → r.s.pay ≤ 2 ^ 56 - 16 →
      Plain t e r.s.pay pa → target (t.cell pa) →
      ∃ u : State, exec (.ret i o) s = .next u ∧ u.mem = t.mem ∧ Becomes t u e.q
        { r with s := movePay r.s 16, pc := BitVec.ofNat 64 (t.cell pa).pay })) ∧
  (∀ (s t : State) (i : Issue) (n : Nat) (o : MOp) (e : Env) (c : Cell) (fa pa p1 p2 : Nat), e.user = false →
    let r := t.regs e.q
    let pushed := Plain t e (r.s.pay - 16) p1 ∧ Plain t e (r.s.pay - 32) p2 ∧ 32 ≤ r.s.pay ∧ r.s.pay ≤ 2 ^ 56 ∧
      r.s.pay % 16 = 0 ∧ t.ctxWmark e.n = 0 ∧ p1 / 16 ≠ p2 / 16 ∧ (p1 / 128 = p2 / 128 ∨ Owned t e p1) ∧ e.next < 2 ^ 56
    (Reads s e o 1 c fa t → pushed →
      (IssuesM s i n 0xBA o e → Is c tagCLO → Plain t e c.pay pa → Is (t.cell pa) tagHDR → (t.cell pa).hdrKind = tagCLO →
        (t.cell pa).pay < 2 ^ 56 → (t.cell pa).pay % 4 = 0 → (t.cell pa).pay.testBit 3 = false →
        ∃ (u : State) (v : Cell), exec (.callc i o) s = .next u ∧ u.cell p1 = normalize r.c ∧ OnlyCells t u [p1, p2] ∧
          (u.cell p2).tag = tagCAP ∧ (u.cell p2).pay = e.next ∧ v.tag = tagCAP ∧ v.rights = 1 ∧ v.pay = c.pay ∧
          Becomes t u e.q { r with s := movePay (movePay r.s (-16)) (-16), c := v,
                                   pc := BitVec.ofNat 64 (t.cell pa).pay }) ∧
      (∀ pe pd, IssuesM s i n 0xA4 o e → Is c tagSEAL → c.rights.testBit 7 = true → c.capL ≤ c.pay →
        (c.pay : Int) + 32 ≤ c.capU → c.pay + 16 ≤ 2 ^ 56 - 16 → Plain t e c.pay pe → Plain t e (c.pay + 16) pd →
        let en := t.cell pe
        Is en tagCAP → en.rights.testBit 4 = true → en.capL ≤ en.pay → (en.pay : Int) + 4 ≤ en.capU → en.pay < 2 ^ 56 →
        en.pay % 4 = 0 → en.pay.testBit 3 = false → Is (t.cell pd) tagCAP →
        ∃ u : State, exec (.invoke i o) s = .next u ∧ u.cell p1 = normalize r.c ∧ (u.cell p2).pay = e.next ∧
          (u.cell p2).tag = tagCAP ∧ OnlyCells t u [p1, p2] ∧ Becomes t u e.q
            { r with s := movePay (movePay r.s (-16)) (-16), c := t.cell pd, pc := BitVec.ofNat 64 en.pay })) ∧
    (Decodes s e o (o.fieldsOk false) t → IssuesM s i n 0xBC o e → r.s.pay + 16 ≤ 2 ^ 56 - 16 → Plain t e r.s.pay p1 →
      Plain t e (r.s.pay + 16) p2 → Is (t.cell p1) tagCAP → (t.cell p1).capL ≤ (t.cell p1).pay →
      ((t.cell p1).pay : Int) + 4 ≤ (t.cell p1).capU → (t.cell p1).rights.testBit 4 = true → (t.cell p1).pay < 2 ^ 56 →
      (t.cell p1).pay % 4 = 0 → (t.cell p1).pay.testBit 3 = false → Is (t.cell p2) tagCAP →
      ∃ u : State, exec (.retc i o) s = .next u ∧ u.mem = t.mem ∧ Becomes t u e.q
        { r with s := movePay (movePay r.s 16) 16, c := t.cell p2, pc := BitVec.ofNat 64 (t.cell p1).pay }))

/-- R206: WFE takes the first line upward from `LAST` + 1, modulo 16, that is subscribed and enabled and whose channel has a
count: it subtracts 1 from that count, leaves `OVF`, sets `LAST` and gives A the EVCH. With no such line the context sleeps
in `STATE` 3 with PC at the WFE. R203, R205, R207: at machine level SEV adds 1 to the count of a channel without vector,
saturating with `OVF`; EVPEND reads count and flag and clears both; EVSUB takes the lowest free line of a free channel's new
subscriber, tells a subscriber its line, and refuses another with CONST false; EVUNSUB ends the caller's own subscription
alone. R155: at user level SEV needs the event capability of the context's record: CAP_TAG (cause 0x0B) where cell 21 is no
CAP, CAP_BOUNDS (0x08) where it does not cover the channel, CAP_RIGHTS (0x09) where it lacks `EVSEND`; nothing is posted. The
fields beside the cause's code are the model's (log entry 32). -/
def Obligations.EventChannelsCountAndWake : Prop :=
  (∀ (s : State) (i : Issue) (n : Nat) (o : MOp) (e : Env), Fresh s e → o.zero = true → IssuesM s i n 0xC0 o e →
    (∀ k ch, k < 16 → (∀ j, j < k → s.lineReady n ((s.ctxLast n + 1 + j) % 16) = none) →
      s.lineReady n ((s.ctxLast n + 1 + k) % 16) = some ch →
      ∃ t : State, exec (.wfe i o) s = .next t ∧
        t.regs e.q = { s.regs e.q with a := normalize (mkEVCH ch), pc := BitVec.ofNat 64 e.next } ∧
        t.chan ch = { s.chan ch with count := (s.chan ch).count - 1 } ∧ (∀ c, c ≠ ch → t.chan c = s.chan c) ∧
        t.ctxLast n = (s.ctxLast n + 1 + k) % 16 ∧ t.ctxState n = 2 ∧ t.mem = s.mem) ∧
    ((∀ l, l < 16 → s.lineReady n l = none) →
      ∃ t : State, exec (.wfe i o) s = .next t ∧ t.ctxState n = 3 ∧ t.regs e.q = s.regs e.q ∧ t.channels = s.channels ∧
        t.mem = s.mem)) ∧
  (∀ (s t : State) (i : Issue) (n : Nat) (o : MOp) (e : Env) (c : Cell) (fa : Nat), Reads s e o 1 c fa t →
    e.user = false → Is c tagEVCH →
    let ch := c.pay
    let k := t.chan ch
    let r := t.regs e.q
    let gives := fun (u : State) (v : Cell) => u.regs e.q = { r with a := normalize v, pc := BitVec.ofNat 64 e.next }
    (IssuesM s i n 0xC1 o e → k.ivec = 0 → ∃ u : State, exec (.sev i o) s = .next u ∧
      u.chan ch = { k with count := min 0xFFFF (k.count + 1), ovf := k.ovf || decide (0xFFFF ≤ k.count) } ∧
      (∀ x, x ≠ ch → u.chan x = t.chan x) ∧ u.regs e.q = { r with pc := BitVec.ofNat 64 e.next } ∧ u.mem = t.mem) ∧
    (IssuesM s i n 0xC7 o e → ∃ u : State, exec (.evpend i o) s = .next u ∧
      u.chan ch = { k with count := 0, ovf := false } ∧ (∀ x, x ≠ ch → u.chan x = t.chan x) ∧
      gives u (fixOfNat ((if k.ovf then 65536 else 0) + k.count)) ∧ u.ctxStore = t.ctxStore) ∧
    (IssuesM s i n 0xC5 o e →
      (∀ l, k.sv = false → l < 16 → SMap.get none (t.auxOf e.n).lines l = none →
        (∀ j, j < l → SMap.get none (t.auxOf e.n).lines j ≠ none) →
        ∃ u : State, exec (.evsub i o) s = .next u ∧ gives u (fixOfNat l) ∧
          u.chan ch = { k with sv := true, subc := e.n, line := l } ∧ SMap.get none (u.auxOf e.n).lines l = some ch ∧
          u.ctxEmask e.n = t.ctxEmask e.n ||| 2 ^ l) ∧
      (k.sv = true → k.subc = e.n → exec (.evsub i o) s = .next (t.finishA e (fixOfNat k.line))) ∧
      (k.sv = true → k.subc ≠ e.n → exec (.evsub i o) s = .next (t.finishA e constFalse))) ∧
    (IssuesM s i n 0xC6 o e →
      (k.sv = true → k.subc = e.n → k.line < 16 → ∃ u : State, exec (.evunsub i o) s = .next u ∧ gives u constTrue ∧
        u.chan ch = { k with sv := false } ∧ (u.ctxEmask e.n).testBit k.line = false) ∧
      (k.sv = false ∨ k.subc ≠ e.n → exec (.evunsub i o) s = .next (t.finishA e constFalse)))) ∧
  (∀ (s t : State) (i : Issue) (n : Nat) (o : MOp) (e : Env) (c : Cell) (fa : Nat), Reads s e o 1 c fa t →
    IssuesM s i n 0xC1 o e → e.user = true → Is c tagEVCH →
    let cap := t.rcell e.n 21
    let covers := cap.capL ≤ ((16 * c.pay : Nat) : Int) ∧ ((16 * c.pay : Nat) : Int) + 16 ≤ cap.capU
    (cap.tag ≠ tagCAP ∨ cap.reserved = true → ∃ f, exec (.sev i o) s = .next (s.trapped e 0x0B 0 0 0 f)) ∧
    (Is cap tagCAP → ¬ covers → ∃ f, exec (.sev i o) s = .next (s.trapped e 0x08 0 0 0 f)) ∧
    (Is cap tagCAP → covers → cap.rights.testBit 9 = false → ∃ f, exec (.sev i o) s = .next (s.trapped e 0x09 0 0 0 f)) ∧
    (Is cap tagCAP → covers → cap.rights.testBit 9 = true → exec (.sev i o) s = .next ((t.post c.pay).moveTo e.q e.next)))

/-- R129, R209, R356, R370: RDTIME gives A the global time in ns; WAITT on a time that has come sets `ST.LATE` and completes,
on a later one it sets `WAKE` and sleeps in `STATE` 4; CKPT sleeps in `STATE` 5 and waits for acceptance. A sleeper keeps
every register, the base of a stepping mode among them (R101, R208), and continues after the instruction. -/
def Obligations.TimeAndCheckpointSleeps : Prop :=
  ∀ (s t : State) (i : Issue) (n : Nat) (o : MOp) (e : Env) (c : Cell) (fa : Nat),
    (Fresh s e → o.zero = true →
      (IssuesM s i n 0xC4 o e → exec (.rdtime i o) s = .next ((s.started e).readGtc.2.finishA e (mkTIME s.now))) ∧
      (IssuesM s i n 0xC3 o e → ∃ u : State, exec (.ckpt i o) s = .next u ∧ u.ctxState n = 5 ∧
        u.regs e.q = s.regs e.q ∧ (u.auxOf n).resumePc = some e.next ∧ (u.auxOf n).ckptWait = true)) ∧
    (Reads s e o 1 c fa t → IssuesM s i n 0xC2 o e → Is c tagTIME →
      (c.pay ≤ t.now → exec (.waitt i o) s = .next (t.finish e (fun r => { r with st := setBit r.st 9 true }))) ∧
      (t.now < c.pay → ∃ u : State, exec (.waitt i o) s = .next u ∧ u.ctxState n = 4 ∧ u.ctxWake n = c.pay ∧
        u.regs e.q = (s.clearResume e.q).regs e.q ∧ (u.auxOf n).resumePc = some e.next ∧ u.mem = t.mem))

/-- R156, R158, R97: every machine-level instruction issued at user level raises PRIV (cause 0x12) and has no other effect;
the S-format ones with a defined `SUB`. -/
def Obligations.MachineInstructionsArePrivileged : Prop :=
  ∀ (s : State) (i : Issue) (n : Nat) (o : MOp) (sub : BitVec 8) (opnd : BitVec 16) (e : Env), e.user = true →
    let no := Host.Outcome.next (s.trapped e 0x12 0 0 0 0)
    let S := fun op sub => Issues s i n (sWord op sub opnd) 1 e
    (IssuesM s i n 0xD1 o e → exec (.dinv i o) s = no) ∧ (IssuesM s i n 0xD2 o e → exec (.dclean i o) s = no) ∧
    (IssuesM s i n 0xD3 o e → exec (.dcinv i o) s = no) ∧ (S 0xD4 0 → exec (.drangeInvalidate i opnd) s = no) ∧
    (S 0xD4 1 → exec (.drangeClean i opnd) s = no) ∧ (S 0xD4 2 → exec (.drangeCleanInvalidate i opnd) s = no) ∧
    (S 0xD5 0 → exec (.dinvall i 0 opnd) s = no) ∧ (S 0xD6 0 → exec (.iinv i 0 opnd) s = no) ∧
    (S 0xD7 0 → exec (.l1lock i 0 opnd) s = no) ∧ (S 0xD8 0 → exec (.l1unlock i 0 opnd) s = no) ∧
    (S 0xD9 0 → exec (.tlbiAll i opnd) s = no) ∧ (S 0xD9 1 → exec (.tlbiAsid i opnd) s = no) ∧
    (S 0xD9 2 → exec (.tlbiAddress i opnd) s = no) ∧ (S 0xE1 0 → exec (.mret i 0 opnd) s = no) ∧
    (S 0xE2 0 → exec (.setml i 0 opnd) s = no) ∧ (S 0xE3 0 → exec (.mtag i 0 opnd) s = no) ∧
    (S 0xE4 0 → exec (.msplit i 0 opnd) s = no) ∧
    (S 0xE5 sub → machineSub sub = true → exec (.mrd i sub opnd) s = no) ∧
    (S 0xE6 sub → machineSub sub = true → exec (.mwr i sub opnd) s = no) ∧
    (S 0xE7 0 → exec (.tlbw i 0 opnd) s = no) ∧ (S 0xE8 0 → exec (.pld i 0 opnd) s = no) ∧
    (S 0xE9 0 → exec (.pst i 0 opnd) s = no) ∧ (S 0xEA 0 → exec (.ctxld i 0 opnd) s = no) ∧
    (S 0xEB 0 → exec (.ctxst i 0 opnd) s = no)

/-- R6, R17, R21, R131, R132, R156, R160, R161, R167: MRET restores ST from `MST`, a vent core's with `LVL` 1, and continues
at `MRA`; SETML sets `ML` from its operand; MTAG forms A from the head X and the payload Y with computed parity; MSPLIT takes
A apart; MRD reads and MWR writes the machine register that `SUB` names, `MCA` and `MCA2` without their reserved bits. -/
def Obligations.MachineRegistersReadAndWrite : Prop :=
  ∀ (s : State) (i : Issue) (n : Nat) (opnd : BitVec 16) (e : Env), e.user = false → Fresh s e →
    let r := s.regs e.q
    let S := fun op sub opnd => Issues s i n (sWord op sub opnd) 1 e
    let word := Is r.a tagFIX ∨ Is r.a tagRAW
    let put := fun f : Regs → Regs => Host.Outcome.next ((s.started e).finish e f)
    (S 0xE1 0 0 → bit r.mst 61 = true → r.mra.toNat < 2 ^ 56 → r.mra.toNat % 4 = 0 → r.mra.toNat.testBit 3 = false →
      ∃ t : State, exec (.mret i 0 0) s = .next t ∧ t.mem = s.mem ∧
        t.regs e.q = { r with st := if i.vent then setBit r.mst 63 true else r.mst, pc := r.mra } ∧
        (∀ p, p ≠ e.q → t.regs p = s.regs p) ∧ (t.slot e.q).walk = false) ∧
    (∀ m : BitVec 16, m.toNat < 16 → S 0xE2 0 m → ∃ w : Word64, exec (.setml i 0 m) s = put (fun r => { r with st := w }) ∧
      field w 55 52 = m.toNat ∧ field w 51 0 = field r.st 51 0 ∧ field w 63 56 = field r.st 63 56) ∧
    (S 0xE3 0 opnd → exec (.mtag i 0 opnd) s = put (fun r => { r with a := normalize (normalize (r.x ++ r.y)) })) ∧
    (S 0xE4 0 opnd → exec (.msplit i 0 opnd) s = put (fun r => { r with x := (normalize r.a).head, y := r.a.payload })) ∧
    (∀ sub c, (sub, c) ∈ [((0x00 : BitVec 8), mkRAW (s.core e.q.core).men.toNat), (0x01, r.mca), (0x02, r.mca2),
        (0x03, mkRAW r.mra.toNat), (0x04, mkRAW r.mst.toNat), (0x08, r.msc0), (0x09, r.msc1), (0x0A, r.msc2),
        (0x0B, r.msc3), (0x10, mkRAW (field r.prg 63 0)), (0x11, mkRAW (field r.prg 127 64)), (0x18, mkRAW r.h.toNat),
        (0x19, mkRAW r.hl.toNat)] →
      S 0xE5 sub opnd → exec (.mrd i sub opnd) s = .next ((s.started e).finishA e c)) ∧
    (S 0xE6 0x01 opnd → exec (.mwr i 0x01 opnd) s = put (fun r => { r with
      mca := mkCell tagRAW 0 r.a.spec (r.a.payload &&& 0xFFFFFFFF0FF0FFFF).toNat })) ∧
    (S 0xE6 0x02 opnd → exec (.mwr i 0x02 opnd) s = put (fun r => { r with
      mca2 := mkCell tagRAW 0 r.a.spec (r.a.payload &&& 0xFFFFFFFF0FF0FFFF).toNat })) ∧
    (S 0xE6 0x08 opnd → exec (.mwr i 0x08 opnd) s = put (fun r => { r with msc0 := r.a })) ∧
    (S 0xE6 0x09 opnd → exec (.mwr i 0x09 opnd) s = put (fun r => { r with msc1 := r.a })) ∧
    (S 0xE6 0x0A opnd → exec (.mwr i 0x0A opnd) s = put (fun r => { r with msc2 := r.a })) ∧
    (S 0xE6 0x0B opnd → exec (.mwr i 0x0B opnd) s = put (fun r => { r with msc3 := r.a })) ∧
    (word →
      (S 0xE6 0x03 opnd → exec (.mwr i 0x03 opnd) s = put (fun r => { r with mra := r.a.payload })) ∧
      (S 0xE6 0x04 opnd → exec (.mwr i 0x04 opnd) s =
        put (fun r => { r with mst := r.a.payload &&& 0xE0F000000000FEFF })) ∧
      (S 0xE6 0x18 opnd → exec (.mwr i 0x18 opnd) s = put (fun r => { r with h := r.a.payload &&& 0x00FFFFFFFFFFFFF0 })) ∧
      (S 0xE6 0x19 opnd → exec (.mwr i 0x19 opnd) s = put (fun r => { r with hl := r.a.payload &&& 0x00FFFFFFFFFFFFF0 })) ∧
      (S 0xE6 0x00 opnd → ∃ t : State, exec (.mwr i 0x00 opnd) s = .next t ∧
        (t.core e.q.core).men = r.a.payload &&& 0x00FFFFFFFFFFFFF4 ∧ t.regs e.q = { r with pc := BitVec.ofNat 64 e.next })) ∧
    (r.a.reserved = false → ¬ word → S 0xE6 0x03 opnd → exec (.mwr i 0x03 opnd) s = .next (s.trapped e 0x01 0 1 0 0))

/-- R252 to R256: the entry that X and Y describe hits every address of its page, in its address space or, global, in each,
gives the frame's address there, and holds the attribute bits of Y. TLBW with `V` = 1 writes it at the index of A, or with
`AUTO` = 1 at a replaceable one, and removes every other entry that overlaps it and no further one; with `V` = 0 it clears
the index, or with `AUTO` nothing; a vent core has no TLB (R247). After a TLBI during the walk it writes nothing (R263).
R261, R262: TLBI removes every entry at index 16 or above, those of one address space that are not global, or those that hit
one address, from every core; the entries that it does not name stay. -/
def Obligations.TlbEntriesAreWrittenAndInvalidated : Prop :=
  ∀ (s : State) (i : Issue) (n : Nat) (e : Env), e.user = false → Fresh s e →
    let r := s.regs e.q
    let kept := fun (t : State) (sel : Nat → TlbEntry → Prop) => ∀ c ix x,
      ((ix, some x) ∈ (t.core c).tlb ↔ (ix, some x) ∈ (s.core c).tlb ∧ ¬ sel ix x)
    let pcOnly := fun t : State => t.regs e.q = { r with pc := BitVec.ofNat 64 e.next } ∧ t.mem = s.mem
    (∀ opnd, Issues s i n (sWord 0xE7 0 opnd) 1 e → (Is r.a tagFIX ∨ Is r.a tagRAW) →
      tlbwOk r.a.pay r.x r.y = true → (s.slot e.q).stale = false →
      let x := tlbEntryOf r.x r.y
      let k := s.core e.q.core
      let page := field r.x 55 14 * 2 ^ 14
      let size := if field r.x 62 61 = 0 then 2 ^ 14 else if field r.x 62 61 = 1 then 2 ^ 21 else 2 ^ 30
      (∀ va asid, page ≤ va → va < page + size → bit r.x 60 = true ∨ asid = field r.x 11 0 →
        x.hits asid va = true ∧ x.pa va = field r.y 47 14 * 2 ^ 14 + (va - page)) ∧
      [x.r, x.w, x.x, x.u, x.wt, x.dev] = (List.range 6).map (fun b => bit r.y b) ∧
      ∃ t : State, exec (.tlbw i 0 opnd) s = .next t ∧ pcOnly t ∧
        (i.vent = false →
          (bit r.x 63 = true → ∃ ix, SMap.get none (t.core e.q.core).tlb ix = some x ∧
            (r.a.pay < 96 → ix = r.a.pay) ∧ (96 ≤ r.a.pay → (16 ≤ ix ∧ ix < 96) ∨ ix = k.tlbPtr) ∧
            ∀ j u, j ≠ ix → ((j, some u) ∈ (t.core e.q.core).tlb ↔ (j, some u) ∈ k.tlb ∧ x.overlaps u = false)) ∧
          (bit r.x 63 = false → r.a.pay < 96 → SMap.get none (t.core e.q.core).tlb r.a.pay = none) ∧
          (bit r.x 63 = false → 96 ≤ r.a.pay → (t.core e.q.core).tlb = k.tlb)) ∧
        (∀ c, c ≠ e.q.core ∨ i.vent = true → (t.core c).tlb = (s.core c).tlb)) ∧
    (∀ opnd, Issues s i n (sWord 0xE7 0 opnd) 1 e → (s.slot e.q).stale = true →
      ∃ t : State, exec (.tlbw i 0 opnd) s = .next t ∧ pcOnly t ∧ (∀ c, (t.core c).tlb = (s.core c).tlb) ∧
        (t.slot e.q).stale = false ∧ (t.slot e.q).walk = false) ∧
    (Issues s i n (sWord 0xD9 0 0) 1 e → ∃ t : State, exec (.tlbiAll i 0) s = .next t ∧ pcOnly t ∧
      kept t (fun ix _ => 16 ≤ ix)) ∧
    (Issues s i n (sWord 0xD9 1 0) 1 e → ∃ t : State, exec (.tlbiAsid i 0) s = .next t ∧ pcOnly t ∧
      kept t (fun _ x => x.g = false ∧ x.asid = r.x.toNat % 4096)) ∧
    (Issues s i n (sWord 0xD9 2 0) 1 e → r.x.toNat < 2 ^ 56 → ∃ t : State,
      exec (.tlbiAddress i 0) s = .next t ∧ pcOnly t ∧ kept t (fun _ x => x.hits (r.y.toNat % 4096) r.x.toNat = true))

/-- R131, R249, R250: PLD and PST reach the HBM cell at the physical address X, without translation; a PLD of an assigned
device region raises WALK_DEVICE (cause 0x19), of an address that is unpopulated or unassigned BUS_ERROR (0x18), and an
address of 2^48 or more PAGE_PROT with `SUB` 0x04. Heap hardware off, no store waiting, the sector in the object cache. R195
to R197: CTXLD and CTXST of a cell of a context that is not resident read it into A and write it from A; a context of 16,384
or more raises PAGE_PROT with `SUB` 0x04; cells 1 to 4 take only a CAP, and a write leaves cells 27 to 31, the fault record,
as they are (R5, R190). A pointer that CTXLD reads while the heap hardware is enabled passes the load barrier and is healed
in the record (R226, R236). A resident target is evicted first: EVICT_FOR_RECORD_ACCESS then completes the access. -/
def Obligations.PhysicalAndRecordAccesses : Prop :=
  (∀ (s : State) (i : Issue) (n : Nat) (opnd : BitVec 16) (e : Env) (pa : Nat), e.user = false → Fresh s e →
    let r := s.regs e.q
    let k := (s.started e).core e.q.core
    (r.x.toNat / 16 * 16 = pa → pa < hbmEnd → s.poisoned (pa / 128) = false → k.lockn = 0 → s.heap.en = false →
      (s.slot e.q).det = {} → k.merge = [] → k.den = true → k.ocDefined = true → k.ocHit pa = true → i.vent = false →
      (Issues s i n (sWord 0xE8 0 opnd) 1 e → ∃ t : State, exec (.pld i 0 opnd) s = .next t ∧ t.mem = s.mem ∧
        Becomes s t e.q { r with a := normalize (s.cell pa), pc := BitVec.ofNat 64 e.next }) ∧
      (Issues s i n (sWord 0xE9 0 opnd) 1 e → ∃ t : State, exec (.pst i 0 opnd) s = .next t ∧ OneCell s t pa r.a ∧
        Becomes s t e.q { r with pc := BitVec.ofNat 64 e.next })) ∧
    (Issues s i n (sWord 0xE8 0 opnd) 1 e → 2 ^ 48 ≤ r.x.toNat →
      ∃ f, exec (.pld i 0 opnd) s = .next (s.trapped e 0x0E 4 0 5 f)) ∧
    (Issues s i n (sWord 0xE8 0 opnd) 1 e → r.x.toNat < 2 ^ 48 →
      (regionOf (r.x.toNat / 16 * 16) = .device →
        exec (.pld i 0 opnd) s = .next (s.trapped e 0x19 0 0 5 (r.x.toNat / 16 * 16))) ∧
      (regionOf (r.x.toNat / 16 * 16) = .absent →
        exec (.pld i 0 opnd) s = .next (s.trapped e 0x18 0 0 5 (r.x.toNat / 16 * 16))))) ∧
  (∀ (s : State) (i : Issue) (n : Nat) (opnd : BitVec 16) (e : Env) (m c : Nat), e.user = false → Fresh s e →
    opnd.toNat = c → c < 32 →
    let r := s.regs e.q
    let ld := exec (.ctxld i 0 opnd) s
    let st := exec (.ctxst i 0 opnd) s
    r.x.toNat = m →
    (Issues s i n (sWord 0xEA 0 opnd) 1 e →
      (16384 ≤ m → ld = .next (s.trapped e 0x0E 4 0 0 0)) ∧
      (m < 16384 → m ≠ n → s.ctxRes m = false →
        (s.heap.en = false ∨ (s.rcell m c).isPointer = false → ld = .next ((s.started e).finishA e (s.rcell m c))) ∧
        (∀ y u, (s.started e).barrierAt (.core e.q.core) (s.rcell m c) false ((s.started e).goodFor e.q.core) = some (y, u) →
          y ≠ s.rcell m c → ld = .next ((u.setRec m c y).finishA e y))) ∧
      (m < 16384 → m ≠ n → s.ctxRes m = true →
        ld = .next ((s.started e).modSlot e.q (fun v => { v with waits := some (m, c, none) })))) ∧
    (Issues s i n (sWord 0xEB 0 opnd) 1 e → m < 16384 → m ≠ n → s.ctxRes m = false →
      (c = 0 ∨ (9 ≤ c ∧ c < 24) → ∃ t : State, st = .next t ∧ t.rcell m c = normalize r.a ∧
        (∀ a b, (a, b) ≠ (m, c) → b < 32 → t.rcell a b = s.rcell a b) ∧ t.mem = s.mem ∧
        t.regs e.q = { r with pc := BitVec.ofNat 64 e.next }) ∧
      (27 ≤ c → ∃ t : State, st = .next t ∧ t.rcell m c = normalize (s.rcell m c) ∧
        (∀ a b, (a, b) ≠ (m, c) → b < 32 → t.rcell a b = s.rcell a b) ∧ t.regs e.q = { r with pc := BitVec.ofNat 64 e.next }) ∧
      (1 ≤ c → c ≤ 4 → r.a.tag ≠ tagCAP → st = .next (s.trapped e 0x0B 0 1 0 0))) ∧
    (∀ v : Cell, (s.slot e.q).ctx = some n → s.ctxRes m = false → i.parity = .none → e.q = Cx.of i →
      (s.slot e.q).waits = some (m, c, none) → s.rcell m c = v → s.heap.en = false →
      ∃ t : State, exec (.evictForRecordAccess i) s = .next t ∧ (t.slot e.q).waits = none ∧
        (t.regs e.q).a = normalize v) ∧
    ((s.slot e.q).ctx = some n → m ≠ n → m < 16384 → s.ctxRes m = true → s.atBoundary (s.ctxAt m) = true →
      (s.slot (s.ctxAt m)).ctx = some m → i.parity = .none → e.q = Cx.of i → (s.slot e.q).waits = some (m, c, none) →
      ∃ t : State, exec (.evictForRecordAccess i) s = .next t ∧ (t.slot e.q).waits = none ∧ t.ctxRes m = false ∧
        (t.slot (s.ctxAt m)).ctx = none))

/-- R278: what line maintenance does to the four granules of a line. DCLEAN (1) leaves memory as it is and no dirty copy;
DCINV (2) as well, and no valid copy; DINV (0) also leaves no valid copy, and a granule that was dirty takes the value
beneath its dirty copies. Bytes outside the line never change. The stores of a slot that wait, in its write-around buffer or
for that line in its core's merging buffer, are ordered before: written out, with every other byte as before. R130, R278 to
R280: DINV, DCLEAN and DCINV treat the line of their operand's address under the page's `R`; DRANGE treats each line that
overlaps X to X + Y − 1, one a step: none for Y = 0, and a range within one line ends with its first step, with `PRG` 0; a
range above 2^56 raises PAGE_PROT with `SUB` 0x04. The slot's waiting stores to the line go first. Machine level, no busy
miss register of the line. -/
def Obligations.LineMaintenanceKeepsOtherLines : Prop :=
  (∀ (s : State) (op line : Nat), op ≤ 2 →
    let t := s.maintLine op line
    (op ≠ 0 → t.mem = s.mem) ∧
    (∀ a, a / 512 ≠ line → readByte t.mem a = readByte s.mem a) ∧
    (∀ j, j < 4 → t.ocU (4 * line + j) = none ∧ t.l2U (4 * line + j) = none ∧
      (op ≠ 1 → ∀ k, k < 8 → t.l2Has k (4 * line + j) = false)) ∧
    (∀ c e, e ∈ (t.core c).oc → e.line = line → e.dirty = 0 ∧ (op ≠ 1 → e.valid = 0)) ∧
    (op = 0 → ∀ j k, j < 4 → k < 8 →
      let g := 4 * line + j
      let pa := 128 * g + 16 * k
      (s.l2U g = none → s.ocU g = none → t.cell pa = s.cell pa) ∧
      (∀ u v, s.l2U g = some u → u.cells[k]? = some v → t.cell pa = normalize v) ∧
      (∀ u v, s.l2U g = none → s.ocU g = some u → u.cells[k]? = some v → t.cell pa = normalize v)) ∧
    (∀ q, t.regs q = s.regs q) ∧ t.ctxStore = s.ctxStore ∧
    ∀ q, Stored s (s.lineOrdered q line)
      ((s.slot q).det.buf ++ mergedCells ((s.core q.core).merge.filter (fun e => e.granule / 4 == line)))) ∧
  (∀ (s : State) (i : Issue) (n : Nat) (o : MOp) (e : Env) (va pa : Nat) (x : TlbEntry), e.user = false → Fresh s e →
    i.vent = false → e.q = Cx.of i → (s.core e.q.core).tlbFind (s.ctxAsid e.n) va = some x → x.r = true → x.dev = false →
      s.dbg.bkctl = [] →
    pa = x.pa va / 16 * 16 → pa < hbmEnd → (s.core e.q.core).missFind (pa / 512) = none →
    let r := s.regs e.q
    let u := (s.started e).lineOrdered e.q (pa / 512)
    let did := fun (op : Nat) (y : Out) => y = .next ((u.maintLine op (pa / 512)).moveTo e.q e.next)
    (o.mode = 1 → o.base.toNat ≤ 3 → va ≤ 2 ^ 56 - 16 →
      (va : Int) = (r.capReg o.base.toNat).pay + 16 * o.disp.toInt →
      (IssuesM s i n 0xD1 o e → did 0 (exec (.dinv i o) s)) ∧ (IssuesM s i n 0xD2 o e → did 1 (exec (.dclean i o) s)) ∧
      (IssuesM s i n 0xD3 o e → did 2 (exec (.dcinv i o) s))) ∧
    (∀ (sub : Nat) (run : Out), sub ≤ 2 → Issues s i n (sWord 0xD4 (BitVec.ofNat 8 sub) 0) 1 e →
      run = (if sub = 0 then exec (.drangeInvalidate i 0) s else if sub = 1 then exec (.drangeClean i 0) s
             else exec (.drangeCleanInvalidate i 0) s) →
      (r.y = 0 → r.x.toNat ≤ 2 ^ 56 → run = .next (((s.started e).clearPrg e.q).moveTo e.q e.next)) ∧
      (2 ^ 56 < r.x.toNat + r.y.toNat → run = .next (((s.started e).clearPrg e.q).taken e 0x0E 4 0 0 (r.x.toNat % 2 ^ 56))) ∧
      (r.x.toNat / 512 * 512 = va → 0 < r.y.toNat → r.x.toNat + r.y.toNat ≤ 2 ^ 56 →
        (r.x.toNat + r.y.toNat ≤ va + 512 → ∃ t : State, run = .next t ∧
          t.mem = (u.maintLine sub (pa / 512)).mem ∧ t.regs e.q = { r with prg := 0, pc := BitVec.ofNat 64 e.next }) ∧
        (va + 512 < r.x.toNat + r.y.toNat → ∃ (t : State) (l : LongOp), run = .next t ∧
          t.mem = (u.maintLine sub (pa / 512)).mem ∧ t.regs e.q = r ∧ (t.slot e.q).mid = .long l ∧ l.step = 1 ∧
          l.routine = .drange (va + 512) (r.x.toNat + r.y.toNat) sub))))

/-- R247, R278, R281, R282, R285, R288, R294: DINVALL makes every unlocked entry of the executing core invalid and clean and
its cache defined, and no byte outside its dirty sectors changes; IINV empties its instruction cache; on a vent core, which
has no cache, both change only PC; L1LOCK of 1 to 24 entries at an aligned window in HBM makes that window scratch, read as
zero cells, and every other X raises RESERVED_FIELD; L1UNLOCK releases it. R270, R274, R294: a fill writes a requested sector
into its entry and frees the miss register once its mask is empty; the merging buffer drains whole, its cells to memory and
no other byte; a write of `L1CTL` by the core itself writes the slot's write-around buffer out and sets `DEN` and `IEN`; with
`DEN` 0 it drains the merging buffer as well and, from 1, leaves no valid sector. -/
def Obligations.CachesAndScratch : Prop :=
  (∀ (s : State) (i : Issue) (n : Nat) (e : Env), e.user = false → Fresh s e →
    let c := e.q.core
    let x := (s.regs e.q).x.toNat
    let pcOnly := fun t : State => t.regs e.q = { s.regs e.q with pc := BitVec.ofNat 64 e.next } ∧ t.ctxStore = s.ctxStore
    (i.vent = true →
      (Issues s i n (sWord 0xD5 0 0) 1 e → exec (.dinvall i 0 0) s = .next ((s.started e).moveTo e.q e.next)) ∧
      (Issues s i n (sWord 0xD6 0 0) 1 e → exec (.iinv i 0 0) s = .next ((s.started e).moveTo e.q e.next))) ∧
    (i.vent = false → Issues s i n (sWord 0xD5 0 0) 1 e → ∃ t : State, exec (.dinvall i 0 0) s = .next t ∧ pcOnly t ∧
      (t.core c).ocDefined = true ∧ (∀ y ∈ (t.core c).oc, y.valid = 0 ∧ y.dirty = 0) ∧
      (t.core c).scratch = (s.core c).scratch ∧ (t.core c).merge = (s.core c).merge ∧
      ∀ a, (∀ y ∈ (s.core c).oc, y.line = a / 512 → bit y.dirty (a / 128 % 4) = false) →
        readByte t.mem a = readByte s.mem a) ∧
    (i.vent = false → Issues s i n (sWord 0xD6 0 0) 1 e → ∃ t : State, exec (.iinv i 0 0) s = .next t ∧ pcOnly t ∧
      (t.core c).icache = [] ∧ (t.core c).icDefined = true ∧ (t.core c).oc = ((s.started e).core c).oc ∧ t.mem = s.mem) ∧
    (i.vent = false → Issues s i n (sWord 0xD8 0 0) 1 e → ∃ t : State, exec (.l1unlock i 0 0) s = .next t ∧ pcOnly t ∧
      (t.core c).lockn = 0 ∧ (t.core c).scratch = [] ∧ t.mem = s.mem) ∧
    (∀ k : Nat, 1 ≤ k → k ≤ 24 → Issues s i n (sWord 0xD7 0 (BitVec.ofNat 16 k)) 1 e →
      (i.vent = false → x % 2 ^ 14 = 0 → x + 512 * k ≤ hbmEnd → (s.core c).miss = [] → ∃ t : State,
        exec (.l1lock i 0 (BitVec.ofNat 16 k)) s = .next t ∧ pcOnly t ∧ (t.core c).lockn = k ∧ (t.core c).lbase = x ∧
        (∀ a, x ≤ a → a < x + 512 * k → t.loadValue e.q a = 0) ∧ t.mem = s.mem) ∧
      (x % 2 ^ 14 ≠ 0 ∨ hbmEnd < x + 512 * k →
        exec (.l1lock i 0 (BitVec.ofNat 16 k)) s = .next (s.trapped e 0x11 0 0 0 0))) ∧
    (∀ k : BitVec 16, (k.toNat = 0 ∨ 24 < k.toNat) → Issues s i n (sWord 0xD7 0 k) 1 e →
      exec (.l1lock i 0 k) s = .next (s.trapped e 0x11 0 0 0 0))) ∧
  (∀ (s : State),
    (∀ (core : BitVec 6) (line : BitVec 39) (sec : BitVec 2) (r : MissReg), (s.core core.toNat).missFind line.toNat = some r →
      bit r.mask sec.toNat = true → s.poisoned (4 * line.toNat + sec.toNat) = false →
      ∃ t : State, exec (.objectCacheFill core line sec .none) s = .next t ∧ t.mem = s.mem ∧
        (∀ y ∈ (t.core core.toNat).oc, y.line = line.toNat → bit y.valid sec.toNat = true) ∧
        (∀ y ∈ (t.core core.toNat).miss, y.line = line.toNat → bit y.mask sec.toNat = false ∧ y.mask ≠ 0)) ∧
    (∀ core : BitVec 6, ∃ t : State, exec (.mergingBufferDrain core) s = .next t ∧ (t.core core.toNat).merge = [] ∧
      (∀ q, t.regs q = s.regs q) ∧ Stored s t (mergedCells (s.core core.toNat).merge)) ∧
    (∀ (i : Issue) (n : Nat) (e : Env) (core : BitVec 6) (v : Cell), Issues s i n (sWord 0xE9 0 0) 1 e → e.user = false →
      Fresh s e → e.q.core = core.toNat → Is v tagFIX ∨ Is v tagRAW →
      ∃ t : State, exec (.l1ctlWrite i core v) s = .next t ∧ (t.core core.toNat).den = v.payload.getLsbD 0 ∧
        (t.core core.toNat).ien = v.payload.getLsbD 1 ∧
        t.regs e.q = { s.regs e.q with pc := BitVec.ofNat 64 e.next } ∧
        Stored s t (if v.payload.getLsbD 0 then (s.slot e.q).det.buf else s.waiting e.q) ∧
        ((s.core core.toNat).den = true → v.payload.getLsbD 0 = false → (t.core core.toNat).merge = [] ∧
          ∀ y ∈ (t.core core.toNat).oc, y.valid = 0 ∧ y.dirty = 0)))

/-- R169, R170, R174, R175: at a boundary of a running context the first pending cause above `ML` is taken (`MRA` at the next
instruction, ST in `MST`, PC at `MEN`): the highest level, then the lowest cause code, then the lowest vector, and the others
stay pending; none due, nothing happens. A store that fails on the bus keeps the first failing address. R92, R102, R104,
R139: an undefined opcode or `SUB`, and a prefix before an instruction outside its set, raise UNDEF_OP, the latter with `SUB`
0x02, and opcodes 0x70 to 0x7F of a vent core with `SUB` 0x01; a fetch without a TLB entry raises TLB_MISS_I. -/
def Obligations.BoundariesTakeTheFirstCause : Prop :=
  ∀ (s : State) (i : Issue) (n : Nat) (e : Env),
    let q := Cx.of i
    ((s.slot q).ctx = some n → s.issuable q n = true → (s.slot q).mid = .none →
      (∀ c : Trap, s.asyncDue n (s.slot q).regs.st = some c → ∃ t : State, exec (.asyncCauseTaken i) s = .next t ∧
        field (s.regs q).st 55 52 < c.level ∧
        (t.regs q).mra = (s.regs q).pc ∧ (t.regs q).mst = (s.regs q).st ∧ (t.regs q).mca = c.cell ∧
        (t.regs q).pc = (s.core q.core).men ∧ field (t.regs q).st 55 52 = 15 ∧ bit (t.regs q).st 63 = true ∧
        bit (t.regs q).st 62 = false ∧ (t.regs q).a = (s.regs q).a ∧ c ∈ s.pendingAsync n ∧
        (∀ d ∈ s.pendingAsync n, field (s.regs q).st 55 52 < d.level → d.level < c.level ∨
          (d.level = c.level ∧ (c.code < d.code ∨ (c.code = d.code ∧ c.sub ≤ d.sub)))) ∧
        ∀ d ∈ s.pendingAsync n, d.code ≠ c.code ∨ d.sub ≠ c.sub → d ∈ t.pendingAsync n) ∧
      (s.asyncDue n (s.slot q).regs.st = none → exec (.asyncCauseTaken i) s = .next s)) ∧
    (∀ (pa : BitVec 48) (pst : Bool), (s.slot q).ctx = some n → ∃ t : State, exec (.busErrorStore i pa pst) s = .next t ∧
      (t.auxOf n).busErr = (match (s.auxOf n).busErr with
        | some b => some b
        | none => some (pa.toNat / 16 * 16, if pst then 6 else 3)) ∧
      t.ctxStore = s.ctxStore ∧ t.cores = s.cores ∧ t.mem = s.mem) ∧
    (∀ word : Word32, Issues s i n word 1 e →
      let op := word.toNat / 2 ^ 24
      (opcodeDefined op = false → i.vent = false ∨ op < 0x70 ∨ 0x80 ≤ op →
        exec (.undefinedOpcode i word) s = .next (s.trapped e 0x10 0 0 0 0)) ∧
      (opcodeDefined op = false → i.vent = true → 0x70 ≤ op → op < 0x80 →
        exec (.undefinedOpcode i word) s = .next (s.trapped e 0x10 1 0 0 0)) ∧
      (opcodeDefined op = true → subDefined op (BitVec.ofNat 8 (word.toNat / 2 ^ 16)) = false →
        exec (.undefinedOpcode i word) s = .next (s.trapped e 0x10 0 0 0 0)) ∧
      (op = 0xF0 ∨ op = 0xF1 → word.toNat / 2 ^ 16 % 256 = 0 →
        exec (.undefinedOpcode i word) s = .next (s.trapped e 0x10 2 0 0 0))) ∧
    (i.vent = false → Issues s i n 0 1 e → (s.core e.q.core).tlbFind (s.ctxAsid n) e.pc = none →
      exec (.instructionFetchFault i) s = .next (s.trapped e 0x0C 0 0 1 e.pc))

/-- R181, R183, R280: at the boundary of a long instruction a due cause is taken before its next step and parks its progress
with `RESUME`; else one further step runs: for DRANGE the next line, and the last one ends it with `PRG` 0. R42, R48, R49,
R181, R184: the further steps of a microcode routine whose operands lie in the heap. While limbs remain unread, a step reads
the next eight of them, of the operands' BIGs in order, keeps them and changes nothing else; a step for each 64 cycles of the
bound of R48 follows, and then the result is that of the generic instruction on the values that the limbs denote. Heap
hardware off, the limbs in the object cache. R124, R181, R186: a further step of SALLOC writes RAW 0 to the next eight body
cells, or to all that remain, and to no other byte; the last one gives A the string, `PRG` 0 and moves PC on; before it no
register changes. Heap hardware off, no written cell at a line's start, the cells in the object cache and exclusive. -/
def Obligations.LongInstructionsStep : Prop :=
  (∀ (s : State) (i : Issue) (n : Nat) (l : LongOp),
    let q := Cx.of i
    let e := s.midEnv q n l.word false
    (s.slot q).ctx = some n → s.issuable q n = true → (s.slot q).mid = .long l →
    (∀ c : Trap, 0 < l.step → s.asyncDue n (s.slot q).regs.st = some c → ∃ t : State,
      exec (.longInstructionStep i) s = .next t ∧ (t.slot q).mid = .none ∧ bit (t.regs q).mst 61 = true ∧
      (t.regs q).mra = (s.regs q).pc ∧ (t.regs q).mca = c.cell ∧ (t.regs q).prg =
        prgOf (if l.work = 0 then { l with stopNo := (s.auxOf n).stops } else l) n) ∧
    (∀ (next stop sub pa : Nat) (x : TlbEntry), s.asyncDue n (s.slot q).regs.st = none → i.parity = .none →
      l.routine = .drange next stop sub → l.work = 0 → i.vent = false → (s.core q.core).tlbFind (s.ctxAsid n) next = some x →
        x.r = true →
      x.dev = false → e.user = false → s.dbg.bkctl = [] → pa = x.pa next / 16 * 16 → pa < hbmEnd →
      (s.core q.core).missFind (pa / 512) = none → ∃ t : State, exec (.longInstructionStep i) s = .next t ∧
        t.mem = (((s.release q).lineOrdered q (pa / 512)).maintLine sub (pa / 512)).mem ∧
        (stop ≤ next + 512 → (t.slot q).mid = .none ∧ t.regs q = { s.regs q with prg := 0, pc := BitVec.ofNat 64 e.next }) ∧
        (next + 512 < stop → (t.slot q).mid =
            .long { l with step := l.step + 1, routine := .drange (next + 512) stop sub } ∧ t.regs q = s.regs q))) ∧
  (∀ (s : State) (i : Issue) (n : Nat) (l : LongOp) (x y : Cell) (fa : Nat) (got : List (Nat × Cell)) (g : GenOp)
    (p : Cell → Nat → Nat),
    let q := Cx.of i
    let e := s.midEnv q n l.word false
    let limbs := limbList got x ++ (if g.two then limbList got y else [])
    let now := (limbs.drop (8 * (l.step - 1))).take 8
    (s.slot q).ctx = some n → s.issuable q n = true → (s.slot q).mid = .long l → s.asyncDue n (s.slot q).regs.st = none →
    i.parity = .none → l.routine = .micro x y fa got → genOp l.word.op = some g → s.heap.en = false →
    (now ≠ [] → (∀ c j, (c, j) ∈ now → (∀ v, (c.pay + 16 * (j + 1), v) ∉ got) ∧
        Plain s e ((l.refNow c).pay + 16 * (j + 1)) (p c j) ∧ Is (s.cell (p c j)) tagRAW) →
      (∀ c j d k, (c, j) ∈ now → (d, k) ∈ now → c.pay + 16 * (j + 1) = d.pay + 16 * (k + 1) → c = d ∧ j = k) →
      ∃ (t : State) (got' : List (Nat × Cell)), exec (.longInstructionStep i) s = .next t ∧ t.mem = s.mem ∧
        t.regs q = s.regs q ∧ (t.slot q).mid = .long { l with step := l.step + 1, routine := .micro x y fa got' } ∧
        (∀ c j, (c, j) ∈ now → gotCell got' (c.pay + 16 * (j + 1)) = s.cell (p c j)) ∧ ∀ v ∈ got, v ∈ got') ∧
    (now = [] →
      let r := (g.eval (s.regs q).st (argOf got x) (argOf got y)).res
      let cycles := microBound l.word.op (x.tag == tagRATIO || (g.two && y.tag == tagRATIO)) (limbsIn got x)
        (if g.two then limbsIn got y else 0) r
      (64 * (l.step - (limbs.length + 7) / 8) < cycles → r.stops = false → ∃ t : State,
        exec (.longInstructionStep i) s = .next t ∧ t.mem = s.mem ∧ t.regs q = s.regs q ∧
        (t.slot q).mid = .long { l with step := l.step + 1 }) ∧
      (cycles ≤ 64 * (l.step - (limbs.length + 7) / 8) → ∀ u : State,
        evalGen e g true (argOf got x) (argOf got y) fa (s.release q) = .ok ((), u) → ∃ t : State,
        exec (.longInstructionStep i) s = .next t ∧ (t.slot q).mid = .none ∧ t.mem = u.mem ∧
        t.regs q = { u.regs q with prg := 0, pc := BitVec.ofNat 64 e.next }))) ∧
  (∀ (s : State) (i : Issue) (n : Nat) (l : LongOp) (a bytes done : Nat) (p : Nat → Nat),
    let q := Cx.of i
    let e := s.midEnv q n l.word false
    let left := (bytes + 7) / 8 - done
    let m := min 8 left
    (s.slot q).ctx = some n → s.issuable q n = true → (s.slot q).mid = .long l → s.asyncDue n (s.slot q).regs.st = none →
    i.parity = .none → l.routine = .salloc a bytes done → 0 < left → s.heap.en = false →
    (∀ j, j < m → (a + 16 + 16 * done + 16 * j) % 512 ≠ 0 ∧ Plain s e (a + 16 + 16 * done + 16 * j) (p j) ∧ Owned s e (p j) ∧
      ∀ k, k < j → p k + 16 ≤ p j ∨ p j + 16 ≤ p k) →
    ∃ t : State, exec (.longInstructionStep i) s = .next t ∧
      (∀ j, j < m → t.cell (p j) = normalize (mkRAW 0)) ∧
      (∀ b, (∀ j, j < m → b < p j ∨ p j + 16 ≤ b) → readByte t.mem b = readByte s.mem b) ∧
      (8 < left → t.regs q = s.regs q ∧
        (t.slot q).mid = .long { l with step := l.step + 1, routine := .salloc a bytes (done + 8) }) ∧
      (left ≤ 8 → (t.slot q).mid = .none ∧ t.regs q =
        { s.regs q with a := normalize (mkCell tagSTR s.heap.good 0 a), prg := 0, pc := BitVec.ofNat 64 e.next }))

/-- R198, R199: CONTEXT_PLACEMENT places the context that stands first, by `PRI`, then by when it became placeable, among
those that some slot can take. In an empty slot it fills the live registers from the context's record and marks the record
resident there. With none to place, nothing happens. R198 rule 4, R199: at the expiry of the dispatch quantum the slot's
context is evicted at its boundary and stays ready, its registers in its record, and the peer takes the slot. R201, R356:
BUDGET_TICK, while the oscillator agrees with the crystal's phase, which every passage of time keeps, advances the counter
past its next microsecond boundary, where a running context with a budget that counts loses 1; the one that reaches 0 has
WATCHDOG pending; while power-on reset is held it does nothing (R543). R209: WAKE_REACHED makes a context of `STATE` 4 whose
`WAKE` has come ready, and it continues after its WAITT. -/
def Obligations.TheDispatcherPlacesAndCharges : Prop :=
  (∀ (s : State),
    (s.placement = none → exec .contextPlacement s = .next s) ∧
    (∀ n q b, s.placement = some (n, q, b) →
      s.placeable n = true ∧ s.mayHost n q.core = true ∧
      (∀ m ∈ s.contexts, s.placeable m = true → (s.placeFor m).isSome = true → m = n ∨ s.placedBefore n m = true) ∧
      (s.slot q = {} → s.heap.phase = .idle → ∃ t : State, exec .contextPlacement s = .next t ∧
        (t.slot q).ctx = some n ∧ t.ctxRes n = true ∧ t.ctxAt n = q ∧ t.ctxState n = 2 ∧ (t.core q.core).gated = false ∧
        t.regs q = regsOfCells (s.rcell n) (BitVec.ofNat 32 (field (s.rcell n 24) 115 84)) ∧ t.mem = s.mem))) ∧
  (∀ (s : State) (core : BitVec 6) (slot : BitVec 2) (n m : Nat),
    let q : Cx := ⟨core.toNat, slot.toNat⟩
    s.placement = some (n, q, true) → (s.slot q).ctx = some m → n ≠ m → (s.slot q).mid = .none → s.ctxState m = 2 →
    s.heap.phase = .idle →
    s.ctxPri m = s.ctxPri n ∧ s.quantum < s.now - (s.slot q).placedAt ∧
    ∃ t : State, exec (.dispatchQuantumExpiry core slot) s = .next t ∧ (t.slot q).ctx = some n ∧ t.ctxRes n = true ∧
      t.ctxRes m = false ∧ t.ctxState m = 2 ∧ t.rcell m 0 = normalize (s.regs q).a ∧
      (t.rcell m 7).payload = (s.regs q).pc ∧ t.placeable m = (t.ctxClu m != 0)) ∧
  (∀ (s : State),
    (∀ u : TimeUnit, u.Steady → u.advance.Steady ∧ u.toCrystal.Steady ∧ u.toQuartz.Steady) ∧
    (s.boot.held = true → exec .budgetTick s = .next s) ∧
    (s.time.Steady → s.boot.held = false → ∃ t : State, exec .budgetTick s = .next t ∧ t.time.Steady ∧
      s.now / 1000 < t.now / 1000 ∧ t.mem = s.mem ∧ t.channels = s.channels ∧
      (∀ p, t.regs p = s.regs p) ∧
      ∀ q n, q ∈ allPlaces → (s.slot q).ctx = some n → (∀ p, p ∈ allPlaces → p ≠ q → (s.slot p).ctx ≠ some n) →
        s.ctxState n = 2 →
        (s.ctxBudget n ≠ 0 → s.ctxBudget n ≠ 0xFFFFFFFF → t.ctxBudget n = s.ctxBudget n - 1 ∧
          (s.ctxBudget n = 1 → (t.auxOf n).watchdog = true)) ∧
        (s.ctxBudget n = 0 ∨ s.ctxBudget n = 0xFFFFFFFF → t.ctxBudget n = s.ctxBudget n)) ∧
    (∀ ctx : BitVec 14, let n := ctx.toNat
      (s.ctxState n = 4 → s.ctxWake n ≤ s.now → ∃ t : State, exec (.wakeReached ctx) s = .next t ∧ t.ctxState n = 2 ∧
        t.mem = s.mem ∧
        ∀ p, (s.auxOf n).resumePc = some p → s.ctxRes n = true → (t.regs (s.ctxAt n)).pc = BitVec.ofNat 64 p) ∧
      (s.ctxState n ≠ 4 ∨ s.now < s.ctxWake n → exec (.wakeReached ctx) s = .next s)))

/-- R211, R213: one cycle's acceptance appends presented records, at most one of each port, to the queue of 1,024; all of
them where they fit. Port 12 keeps the record that it presents until that is admitted, and else presents the next of the
links (R352). R214, R215: the oldest record posts to its channel, or completes the CKPT of its context with the sequence
number in A, `STATE` 2 and `CKSEQ`; a record for a context that waits in no CKPT is an orphan, logged and lost. In PS4 and
PS5 the collector is off (R459). -/
def Obligations.CompletionsAreQueuedAndRetired : Prop :=
  ∀ (s : State),
    (4 ≤ s.power.ps → exec .completionRecordAccepted s = .next s ∧ exec .completionRecordRetired s = .next s) ∧
    (s.boot.held = true → exec .completionRecordAccepted s = .next s) ∧
    (s.power.ps < 4 → s.boot.held = false → s.collQ.length ≤ 1024 → let shown := s.linkPresent
      shown.portHead 12 = (match s.linkWait with | some r => some r | none => s.linkHead.map (fun h => h.2.2)) ∧
      ∃ (t : State) (l : List Record), exec .completionRecordAccepted s = .next t ∧
      t.collQ = s.collQ ++ l ∧ t.collQ.length ≤ 1024 ∧ (∀ r ∈ l, ∃ p, p < 16 ∧ shown.portHead p = some r) ∧
      (shown.presented.length + s.collQ.length ≤ 1024 → l = shown.presented.map Waiting.rec_)) ∧
    (s.collQ = [] → exec .completionRecordRetired s = .next s) ∧
    (∀ r rest, s.power.ps < 4 → s.collQ = r :: rest →
      (r.dk = false → r.status = 0 → (s.chan r.dest).ivec = 0 → ∃ t : State,
        exec .completionRecordRetired s = .next t ∧ t.collQ = rest ∧ t.mem = s.mem ∧
        t.chan r.dest = { s.chan r.dest with
          count := min 0xFFFF ((s.chan r.dest).count + 1), ovf := (s.chan r.dest).ovf || decide (0xFFFF ≤ (s.chan r.dest).count) }) ∧
      (r.dk = true → r.status = 0 → s.ctxState r.dest = 5 → ∃ t : State, exec .completionRecordRetired s = .next t ∧
        t.collQ = rest ∧ t.ctxState r.dest = 2 ∧ field (t.rcell r.dest 26) 63 0 = r.value % 2 ^ 64 ∧
        (s.ctxRes r.dest = true → (t.regs (s.ctxAt r.dest)).a = fixOfNat r.value)) ∧
      (r.dk = true → s.ctxState r.dest ≠ 5 → ∃ t : State, exec .completionRecordRetired s = .next t ∧ t.collQ = rest ∧
        t.dep.errseq = s.dep.errseq + 1 ∧ t.ctxStore = s.ctxStore ∧ t.channels = s.channels))

/-- R219, R239: a write of HWB by PST sets `EN`, and `VBASE` only while `EN` is 0; a write of HCTL sets its fields and holds
the requests of its bits 1 (a minor cycle) and 2 (a major cycle) beside those already held; R465: a request wakes the device
to PS2 from a deeper state. A device store ends the slot's write-around (R273). R219, R231, R236, R239, R459: the phases of a
cycle; only while `EN` is 1, and a start only above PS3. A request starts MARK with a flip of `GOOD`, and takes every
request; MARK ends, once all is traced, with the mark-end pass and then SELECT; the relocate flip leads to RELOCATE; REMAP
begins once no live object is left to copy; REMAP_END goes back to IDLE and counts the cycle. Each waits while a pass is
under way, and where its phase is another nothing happens. A core's pass, at boundaries of its four slots, acknowledges it;
the last acknowledgement ends the pass. -/
def Obligations.TheHeapControlStartsCycles : Prop :=
  (∀ (s : State) (i : Issue) (n : Nat) (e : Env) (v : Cell), Issues s i n (sWord 0xE9 0 0) 1 e → e.user = false →
    Fresh s e → Is v tagFIX ∨ Is v tagRAW →
    let w := v.payload
    let h := s.heap
    let written := fun k : Heap => { (s.started e).endAround e.q with heap := k }
    exec (.hwbWrite i v) s = .next ((written { h with
      en := w.getLsbD 0, vbase := if h.en then h.vbase else w.toNat / 2 ^ 36 % 2 ^ 20,
      openBlock := if h.en && !w.getLsbD 0 then [] else h.openBlock }).moveTo e.q e.next) ∧
    (∀ y, y = exec (.hctlMin i v) s ∨ y = exec (.hctlMaj i v) s →
      let t := written { h with
        resv := w.toNat / 2 ^ 32 % 2 ^ 16, relpct := w.toNat / 2 ^ 24 % 2 ^ 8, brrel := w.getLsbD 4, auto := w.getLsbD 3,
        reqMin := h.reqMin || w.getLsbD 1, reqMaj := h.reqMaj || w.getLsbD 2 }
      y = .next ((if w.getLsbD 1 || w.getLsbD 2 then t.wakeTo 2 else t).moveTo e.q e.next))) ∧
  (∀ (s : State), let h := s.heap
    (h.en = true → h.phase = .idle → s.power.ps < 3 → h.reqMaj = true ∨ h.reqDur = true ∨ (h.reqMin = true ∧ h.auto = false) →
      ∃ t : State, exec .cycleStart s = .next t ∧ t.heap.phase = .mark ∧ t.heap.good = h.good % 3 + 1 ∧
        t.heap.major = (h.reqMaj || h.reqDur) ∧ t.heap.durq = h.reqDur ∧ t.heap.openBlock = [] ∧
        (t.heap.reqMin || t.heap.reqMaj || t.heap.reqDur) = false ∧
        (t.heap.pass = some .markFlip ∨ (t.heap.pass = none ∧ t.heap.unacked = []))) ∧
    (h.en = false ∨ h.phase ≠ .idle ∨ 3 ≤ s.power.ps → exec .cycleStart s = .next s) ∧
    (h.en = false → (exec .markEnd s = .next s ∧ exec .select s = .next s ∧ exec .relocateFlip s = .next s ∧
      exec .remap s = .next s ∧ exec .remapEnd s = .next s)) ∧
    (∀ core : BitVec 6, h.pass = none ∨ core.toNat ∉ h.unacked ∨ (∃ k < 4, s.atBoundary ⟨core.toNat, k⟩ = false) →
      exec (.corePass core) s = .next s) ∧
    (∀ (core : BitVec 6) (p : PassKind), h.pass = some p → core.toNat ∈ h.unacked →
      (∀ k < 4, s.atBoundary ⟨core.toNat, k⟩ = true) → ∃ t : State,
      exec (.corePass core) s = .next t ∧ t.heap.unacked = h.unacked.filter (· != core.toNat) ∧
      t.heap.pass = (if h.unacked.all (· == core.toNat) then none else some p) ∧
      ∀ k n, k < 4 → (s.slot ⟨core.toNat, k⟩).ctx = some n → n ∈ t.heap.treated) ∧
    (h.en = true → h.pass = none →
      (h.phase = .mark → s.traced = true →
        (h.markEndDone = false → ∃ t : State, exec .markEnd s = .next t ∧ t.heap.markEndDone = true ∧ t.heap.phase = .mark) ∧
        (h.markEndDone = true → exec .markEnd s = .next { s with heap := { h with phase := .select } })) ∧
      (h.phase = .select →
        (h.selected = false → ∃ t : State, exec .select s = .next t ∧ t.heap.selected = true ∧ t.heap.phase = .select ∧
          t.heap.good = h.good ∧ ∀ q, t.regs q = s.regs q) ∧
        (h.selected = true → ∃ t : State, exec .relocateFlip s = .next t ∧ t.heap.phase = .relocate ∧
          t.heap.good = h.good % 3 + 1 ∧ t.mem = s.mem ∧ ∀ q, t.regs q = s.regs q)) ∧
      (h.phase = .relocate → s.uncopied = [] → ∃ t : State, exec .remap s = .next t ∧ t.heap.phase = .remap ∧
        t.heap.scopeMade = true ∧ (∀ n ∈ s.contexts, .record n ∈ t.heap.scope) ∧ t.mem = s.mem) ∧
      (h.phase = .remap → h.scopeMade = true → h.scope = [] → ∃ t : State, exec .remapEnd s = .next t ∧
        t.heap.phase = .idle ∧ t.heap.cycles = (h.cycles + 1) % 2 ^ 48 ∧ ∀ q, t.regs q = s.regs q)))

/-- R219, R231 to R235, while `EN` is 1 and no pass awaits a core: ENGINE_COPY of a live object of the set copies its cells
to the engine's chunk, leaves FWD at its old address and changes no other byte; a mesh transfer that fails leaves it undone
(R481). ENGINE_TRACE takes the oldest object off the queue, a card off the set ones (which it clears; a card that holds no
pointer stays clear), or a record off those not scanned, and ENGINE_HEAL takes its item off the scope; an item outside its
set does nothing. BLOCK_CLEARED zeroes a freed block in IDLE. With `EN` 0, or a trace while a pass awaits a core, nothing
happens. R233: SELECT of a minor cycle, in a heap whose block table lies in no block's frame, whose silt blocks have no chunk
left and whose objects are all marked and none durable. A silt block that is fixed in place, or holds 114,688 live cells or
more, stays: it becomes full clay. Each other enters the relocation set, or stays with `RESVLOW` set; where together they fit
the reserve, every one enters. Beside the table no byte of memory changes. With one silt block kept, an object that is not
marked becomes a filler of its size, and one further cell of memory changes. R226, R228, R231: ENGINE_TRACE of an object with
one pointer cell: the pointer gets the good epoch, and the object it names, in scope and not yet marked, is marked, counted
in the `LIVE` of its block, which saturates, and joins the queue, or sets its block's rescan bit where the queue is full.
Nothing else of memory changes but the slot's block-table entry, where its card's bit stands. A record's pointers that lie
outside the window get the good epoch (R227). R226, R234: ENGINE_HEAL of a slot gives its pointer the good epoch; where the
object has moved, the address in the FWD that it left. No other byte of memory changes but the slot's block-table entry,
where its card's bit stands. A record's pointers that lie outside the window get the good epoch. -/
def Obligations.EnginesWorkThroughTheirSets : Prop :=
  (∀ (s : State) (se : BitVec 1), let h := s.heap
    (h.en = true → h.phase = .relocate → h.pass = none → ∀ obj : BitVec 56, let o := obj.toNat
      let n := s.sizeAt o
      (∀ p l bed, o ∈ s.uncopied →
        (bed = false ∧ s.goesToBed o = false) ∨ (bed = true ∧ eKind (s.entry (blockOf o)) = kBEDROCK) →
        s.chunkOf (.engine se.toNat) bed = (p, l) → p + 16 * n ≤ l → (s.isConsAt o = true → p % 32 = 0) →
        o % 2 ^ 21 + 16 * n ≤ 2 ^ 21 → p % 2 ^ 21 + 16 * n ≤ 2 ^ 21 →
        (∀ b, b = blockOf o ∨ b = blockOf p → ∀ x, x = o ∨ x = p →
          s.heapPa x + 16 * (n + 1) ≤ s.entryPa b ∨ s.entryPa b + 16 ≤ s.heapPa x) →
        s.heapPa p + 16 * (n + 1) ≤ s.heapPa o ∨ s.heapPa o + 16 * (n + 1) ≤ s.heapPa p →
        ∃ t : State, exec (.engineCopy se ⟨obj, {}⟩) s = .next t ∧ t.cell (s.heapPa o) = normalize (mkCell tagFWD h.good 0 p) ∧
          (∀ k, k < n → t.cell (s.heapPa p + 16 * k) = normalize (s.cell (s.heapPa o + 16 * k))) ∧
          (∀ a, a < s.heapPa o ∨ s.heapPa o + 16 ≤ a → a < s.heapPa p ∨ s.heapPa p + 16 * n ≤ a →
            readByte t.mem a = readByte s.mem a) ∧
          t.heap.copies = h.copies ++ [p] ∧ ∀ q, t.regs q = s.regs q) ∧
      (o ∉ s.uncopied → exec (.engineCopy se ⟨obj, {}⟩) s = .next s) ∧
      (∀ pa, ∃ t : State, exec (.engineCopy se ⟨obj, { meshAt := some pa }⟩) s = .next t ∧ t.heap.cycMesh = true ∧
        t.mem = s.mem ∧ t.dep.errseq = s.dep.errseq + 1)) ∧
    (h.en = true → h.phase = .mark → h.pass = none →
      (∀ o d l, h.queue = (o, d) :: l → s.pointerCells o = (o, 0) → exec (.engineTrace se ⟨.object, {}⟩) s =
        .next { s with heap := { h with queue := l } }) ∧
      (∀ n : BitVec 14, ∃ t : State, exec (.engineTrace se ⟨.record n, {}⟩) s = .next t ∧
        t.heap.toScan = h.toScan.filter (· != n.toNat)) ∧
      (∀ k : BitVec 47, SMap.get false h.cards k.toNat = true →
        ∃ t : State, exec (.engineTrace se ⟨.card k, {}⟩) s = .next t ∧
        t.heap.todoCards = h.todoCards.filter (· != k.toNat) ∧ k.toNat ∈ t.heap.cycleCards ∧
        ((∀ j, j < 32 → (s.heapCell (512 * k.toNat + 16 * j)).isPointer = false ∧
            Apart (s.heapPa (512 * k.toNat + 16 * j)) (s.entryPa (blockOf (512 * k.toNat)))) →
          SMap.get false t.heap.cards k.toNat = false ∧ OnlyCells s t [s.entryPa (blockOf (512 * k.toNat))]))) ∧
    (h.en = false ∨ h.phase ≠ .mark ∨ h.pass ≠ none → ∀ item, exec (.engineTrace se ⟨item, {}⟩) s = .next s) ∧
    (h.en = false → ∀ (x : CopyStep) (y : HealStep) (block : BitVec 15), exec (.engineCopy se x) s = .next s ∧
      exec (.engineHeal se y) s = .next s ∧ exec (.blockCleared block) s = .next s) ∧
    (h.en = true → h.phase = .remap → ∀ n : BitVec 14,
      (.record n.toNat ∈ h.scope → ∃ t : State, exec (.engineHeal se ⟨.record n, {}⟩) s = .next t ∧
        t.heap.scope = h.scope.erase (.record n.toNat)) ∧
      (.record n.toNat ∉ h.scope → exec (.engineHeal se ⟨.record n, {}⟩) s = .next s)) ∧
    (∀ block : BitVec 15, let b := block.toNat
      let pa := ePframe (s.entry b) * 2 ^ 21
      (h.en = true → h.phase = .idle → b ∈ h.clearing → eKind (s.entry b) ≠ kABSENT →
        ∃ t : State, exec (.blockCleared block) s = .next t ∧
        t.heap.clearing = h.clearing.filter (· != b) ∧ eKind (t.entry b) = kFREE ∧
        (∀ a, a < s.entryPa b ∨ s.entryPa b + 16 ≤ a →
          (pa ≤ a ∧ a < pa + 2 ^ 21 → readByte t.mem a = 0) ∧
          (a < pa ∨ pa + 2 ^ 21 ≤ a → readByte t.mem a = readByte s.mem a))) ∧
      (h.phase ≠ .idle ∨ b ∉ h.clearing → exec (.blockCleared block) s = .next s))) ∧
  (∀ (s : State), let h := s.heap
    h.en = true → h.phase = .select → h.selected = false → h.pass = none → h.major = false → TableApart s →
    (∀ b ∈ s.blocksOf kSILT, 32 ≤ eChunk (s.entry b)) →
    let silt := (s.blocksOf kSILT).filter (fun b => !eNew (s.entry b))
    let stays := fun b => s.fixedInPlace b || decide (114688 ≤ eLive (s.entry b))
    let goes := silt.filter (fun b => !stays b)
    ((∀ x ∈ h.starts, x.1 % 16 = 0 ∧ s.marked x.1 = true ∧ s.durable x.1 = false) → ∃ t : State, exec .select s = .next t ∧
      t.heap.selected = true ∧ (∀ q, t.regs q = s.regs q) ∧ OnlyCells s t (s.blocks.map s.entryPa) ∧
      (∀ b ∈ silt, stays b = true → eKind (t.entry b) = kCLAY ∧ eFull (t.entry b) = true ∧ b ∈ t.heap.kept ∧
        eRel (t.entry b) = eRel (s.entry b)) ∧
      (∀ b ∈ goes, (eKind (t.entry b) = kSILT ∧ eRel (t.entry b) = true) ∨ (eKind (t.entry b) = kCLAY ∧ t.heap.resvlow = true)) ∧
      ((goes.map (fun b => eLive (s.entry b))).sum + 64 * 8192 ≤ min (s.hcnt kFREE) h.resv * 131072 →
        ∀ b ∈ goes, eKind (t.entry b) = kSILT ∧ eRel (t.entry b) = true)) ∧
    (∀ b o k, s.blocks = [b] → silt = [b] → stays b = true → h.starts = [(o, k)] → s.blockVa b ≤ o → o < s.blockVa b + 2 ^ 21 →
      o % 16 = 0 →
      s.marked o = false → s.durable o = false → s.heldAt o = false → s.sizeAt o ≠ 0 →
      ∃ t : State, exec .select s = .next t ∧ t.cell (s.heapPa o) = normalize (mkHDR 0 (s.sizeAt o) 0) ∧
        eKind (t.entry b) = kCLAY ∧ SMap.get 0 t.heap.starts o = 0 ∧ OnlyCells s t [s.entryPa b, s.heapPa o])) ∧
  (∀ (s : State) (se : BitVec 1), let h := s.heap
    h.en = true → h.phase = .mark → h.pass = none → 1 ≤ h.good → h.good ≤ 3 →
    (∀ o d l a, h.queue = (o, d) :: l → s.pointerCells o = (a, 1) →
      let v := s.heapCell a
      let b := blockOf v.pay
      v.isRef = true → s.inWindow v.pay = true → s.inScope b = true → eRel (s.entry b) = false →
      (s.learn v).marked v.pay = false → s.poisoned (s.heapPa a / 128) = false →
      (∀ x, x = s.heapPa a ∨ x = s.heapPa v.pay → Apart x (s.entryPa (blockOf a)) ∧ Apart x (s.entryPa b)) →
      Apart (s.heapPa a) (s.heapPa v.pay) →
      ∃ t : State, exec (.engineTrace se ⟨.object, {}⟩) s = .next t ∧ t.marked v.pay = true ∧
        (if l.length < Config.markQueueDepth then t.heap.queue = l ++ [(v.pay, d)]
          else t.heap.queue = l ∧ eRescan (t.entry b) = true ∧ t.heap.qovf = true) ∧
        (t.heapCell a).epoch = h.good ∧ (t.heapCell a).tag = v.tag ∧ (t.heapCell a).pay = v.pay ∧
        eLive (t.entry b) = min 131072 (eLive (s.entry b) + (s.learn v).sizeAt v.pay) ∧
        OnlyCells s t [s.heapPa a, s.heapPa v.pay, s.entryPa (blockOf a), s.entryPa b]) ∧
    (∀ n : BitVec 14, h.markEndDone = false → h.durq = false → n.toNat ∈ h.toScan → s.ctxRes n.toNat = false →
      n.toNat ∉ h.treated → (∀ c ∈ (s.ctxRegs n.toNat).nine, c.isPointer = true → c.epoch = h.good ∨ s.inWindow c.pay = false) →
      ∃ t : State, exec (.engineTrace se ⟨.record n, {}⟩) s = .next t ∧ n.toNat ∈ t.heap.treated ∧
        ∀ c ∈ (t.ctxRegs n.toNat).nine, c.isPointer = true → c.epoch = h.good)) ∧
  (∀ (s : State) (se : BitVec 1), let h := s.heap
    h.en = true → h.phase = .remap → 1 ≤ h.good → h.good ≤ 3 →
    (∀ at_ : BitVec 56, let a := at_.toNat
      let v := s.heapCell a
      let moved := eRel (s.entry (blockOf v.pay))
      .slot a ∈ h.scope → v.isRef = true → s.inWindow v.pay = true → v.epoch ≠ h.good → kSILT ≤ eKind (s.entry (blockOf v.pay)) →
      (moved = true → (s.heapCell v.pay).tag = tagFWD) → s.poisoned (s.heapPa a / 128) = false →
      Apart (s.heapPa a) (s.entryPa (blockOf a)) →
      ∃ t : State, exec (.engineHeal se ⟨.slot at_, {}⟩) s = .next t ∧ (t.heapCell a).epoch = h.good ∧
        (t.heapCell a).tag = v.tag ∧ (t.heapCell a).pay = (if moved then (s.heapCell v.pay).pay else v.pay) ∧
        (h.major = true → t.heap.scope = h.scope.erase (.slot a)) ∧
        OnlyCells s t [s.heapPa a, s.entryPa (blockOf a)]) ∧
    (∀ n : BitVec 14, .record n.toNat ∈ h.scope → s.ctxRes n.toNat = false → n.toNat ∉ h.treated →
      (∀ c ∈ (s.ctxRegs n.toNat).nine, c.isPointer = true → c.epoch = h.good ∨ s.inWindow c.pay = false) →
      ∃ t : State, exec (.engineHeal se ⟨.record n, {}⟩) s = .next t ∧ n.toNat ∈ t.heap.treated ∧
        ∀ c ∈ (t.ctxRegs n.toNat).nine, c.isPointer = true → c.epoch = h.good))

/-- R297 to R303, R311, R327, R334: a well-formed command without `CHK` to a geyser whose FIFO is empty acts at once and
leaves a completion with `STATUS` 0 and the slot's generation (NOP: 0). LOAD of a free slot makes it loaded with the next
generation and the descriptor in memory; RUN an admitted stream makes it run; PAUSE and STOP of one without a drive ramp to
wait for pause it and free it; RELOAD marks its stage's parameter block for a swap; CLEAR leaves a slot's state; TRIG fires a
SHOCK stage. A wrong generation completes with `STATUS` 0x40, a LOAD of a slot that is not free with 0x41, and a LOAD, LOADSM
or READSM whose mesh transfer failed with 0x46 (R481), and change no slot. R301: LOADSM copies 16-byte units from HBM to
stream memory and READSM copies them back as cells with their parity computed, by a transfer block of two RAW cells with the
generation, the offset (64-byte units) and the length; with `PK` only the `PAYLOAD` of each HBM cell takes part, RAW cells
with `SPEC` 0 on the way back. The completion's `VALUE` is the number of bytes of stream memory. -/
def Obligations.GeyserCommandsActOnTheirSlot : Prop :=
  (∀ (s : State) (g : BitVec 3) (c : GyCmd),
    let n := c.slot.toNat
    let z := s.gy g.toNat
    let y := s.gySlot g.toNat n
    c.tag = 0x3F → c.epoch = 0 → c.chk = false → c.hit = {} → s.boot.held = false → z.fifo = [] → z.compl.length < 56 →
      y.waits = false →
    let ends := fun (t : State) (status v : Nat) => (t.gy g.toNat).fifo = [] ∧
      (t.gy g.toNat).compl = z.compl ++ [(false, ⟨g.toNat, c.dk, status, c.dest.toNat, c.rtag.toNat, v⟩)]
    let out := fun (r : Out) (v : Nat) (y' : GySlot) => ∃ t : State, r = .next t ∧ ends t 0 v ∧ t.gySlot g.toNat n = y'
    let gen := c.arg.toNat / 2 ^ 32 = y.gen ∧ y.gen ≠ 0
    let plain := gen ∧ c.arg.toNat % 2 ^ 32 = 0
    let still := y.ramp = none ∧ (y.state = .running → hasDrive y.desc = true → dRamp y.desc = 0)
    (c.arg = 0 → out (exec (.gyNop g c) s) 0 y) ∧
    (c.arg.toNat % 512 = 0 → c.arg.toNat < 2 ^ 48 → y.state = .free → SMap.wf {} s.geysers = true →
      ∀ y', s.gyLoadCheck g.toNat n c.arg.toNat = .ok y' → y'.state = .loaded ∧
        y'.gen = (if y.gen + 1 = 2 ^ 32 then 1 else y.gen + 1) ∧ y'.desc = s.cellsAt 32 c.arg.toNat ∧
        out (exec (.gyLoad g c) s) y'.gen y') ∧
    (plain → y.state = .loaded ∨ y.state = .paused ∨ y.state = .aborted → s.panel.eforce = false →
      admits z y.desc = true → ∃ y', out (exec (.gyRun g c) s) y.gen y' ∧ y'.state = .running ∧ y'.gen = y.gen ∧
        y'.desc = y.desc ∧ y'.lastInput = s.now) ∧
    (plain → y.state = .running → still → out (exec (.gyPause g c) s) y.gen { y with state := .paused }) ∧
    (plain → y.state = .running → y.ramp = none → hasDrive y.desc = true → dRamp y.desc ≠ 0 →
      ∃ (t : State) (e : Cell), exec (.gyPause g c) s = .next t ∧ (t.gy g.toNat).compl = z.compl ∧
        t.gySlot g.toNat n = { y with state := .paused, ramp := some { t0 := s.now, fin := .pause e } }) ∧
    (plain → y.state ≠ .free → still → out (exec (.gyStop g c) s) y.gen
      { y with state := .free, desc := [], stages := [], outs := [] }) ∧
    (plain → y.state ≠ .free → ∃ y', out (exec (.gyClear g c) s) y.gen y' ∧ y'.state = y.state ∧ y'.desc = y.desc ∧
      y'.stages.length = y.stages.length) ∧
    (∀ i, gen → c.arg.toNat % 2 ^ 32 = i → i < 8 → i < dNst y.desc →
      let st := nthD {} y.stages i
      (y.state ≠ .free → dSpv y.desc i = true → out (exec (.gyReload g c) s) y.gen
        { y with stages := setNth y.stages i { st with reload := !st.reload } }) ∧
      (y.state = .running → dKcode y.desc i = kSHOCK → out (exec (.gyTrig g c) s) y.gen
        { y with stages := setNth y.stages i { st with b0 := true, m := 0 } })) ∧
    (c.arg.toNat % 2 ^ 32 = 0 → c.arg.toNat / 2 ^ 32 ≠ y.gen →
      ∀ r, r = exec (.gyRun g c) s ∨ r = exec (.gyPause g c) s ∨ r = exec (.gyStop g c) s ∨ r = exec (.gyClear g c) s →
        ∃ (t : State) (v : Nat), r = .next t ∧ ends t 0x40 v ∧ (t.gy g.toNat).slots = z.slots) ∧
    (c.arg.toNat % 512 = 0 → c.arg.toNat < 2 ^ 48 → y.state ≠ .free →
      ∃ (t : State) (v : Nat), exec (.gyLoad g c) s = .next t ∧ ends t 0x41 v ∧ (t.gy g.toNat).slots = z.slots) ∧
    (∀ pa, let d := { c with hit := { meshAt := some pa } }
      (c.arg.toNat % 512 = 0 → c.arg.toNat < 2 ^ 48 → y.state = .free → ∃ t : State, exec (.gyLoad g d) s = .next t ∧
        ends t 0x46 0 ∧ (t.gy g.toNat).slots = z.slots ∧ t.mem = s.mem) ∧
      (c.arg.toNat % 16 = 0 → c.arg.toNat < 2 ^ 48 → ∀ r, r = exec (.loadsm g d) s ∨ r = exec (.readsm g d) s →
        ∃ t : State, r = .next t ∧ ends t 0x46 0 ∧ (t.gy g.toNat).slots = z.slots ∧ t.mem = s.mem))) ∧
  (∀ (s : State) (g : BitVec 3) (c : GyCmd) (pk : Bool) (off len a : Nat),
    let n := c.slot.toNat
    let z := s.gy g.toNat
    let y := s.gySlot g.toNat n
    let b0 := s.cell c.arg.toNat
    let b1 := s.cell (c.arg.toNat + 16)
    c.tag = 0x3F → c.epoch = 0 → c.chk = false → c.hit = {} → s.boot.held = false → z.fifo = [] → z.compl.length < 56 →
      y.waits = false →
    c.arg.toNat % 16 = 0 → c.arg.toNat < 2 ^ 48 → s.canGet c.arg.toNat 32 = true → b0.tag = tagRAW → b1.tag = tagRAW →
    b0.pay = a + b2n pk → a % 16 = 0 → b1.pay = y.gen * 2 ^ 32 + off * 2 ^ 19 + len → y.gen ≠ 0 → y.gen < 2 ^ 32 → off < 2 ^ 13 →
    0 < len → len ≤ 32768 → y.state ≠ .free → inRegions y.desc (64 * off) (16 * len) = true →
    let ends := fun t : State => (t.gy g.toNat).slots = z.slots ∧ (t.gy g.toNat).fifo = [] ∧
      (t.gy g.toNat).compl = z.compl ++ [(false, ⟨g.toNat, c.dk, 0, c.dest.toNat, c.rtag.toNat, 16 * len⟩)]
    let span := if pk then 32 * len else 16 * len
    let byte := fun k => if pk then a + 16 * (k / 8) + k % 8 else a + k
    let unit := fun (l : Nat) (k : Nat) => leValue ((List.range l).map (fun j => SMap.get 0 z.smem (64 * off + l * k + j)))
    (s.canGet a span = true → ∃ t : State, exec (.loadsm g c) s = .next t ∧ ends t ∧ t.mem = s.mem ∧
      (∀ k, k < 16 * len → SMap.get 0 (t.gy g.toNat).smem (64 * off + k) = readByte s.mem (byte k)) ∧
      ∀ k, k < 64 * off ∨ 64 * off + 16 * len ≤ k → SMap.get 0 (t.gy g.toNat).smem k = SMap.get 0 z.smem k) ∧
    (s.canPut a span = true → ∃ t : State, exec (.readsm g c) s = .next t ∧
      ends t ∧ (t.gy g.toNat).smem = z.smem ∧
      (pk = false → ∀ k, k < len → t.cell (a + 16 * k) = normalize (BitVec.ofNat 128 (unit 16 k))) ∧
      (pk = true → ∀ k, k < 2 * len → t.cell (a + 16 * k) = normalize (mkRAW (unit 8 k))) ∧
      ∀ k, k < a ∨ a + span ≤ k → readByte t.mem k = readByte s.mem k))

/-- R307, R324, R328, R334, R401: what happens in a geyser. The oldest value of a running stream of one stage, read from the
input FIFO in stream memory, goes through its kernel and leaves the FIFO, unless other work of the geyser comes before it; a
record that waits and finds room in its heap ring is written, and `PROD` counts its cells, and else waits on; the oldest
record of a host-ring output is written to the host with the new count, and is lost where the count cannot be read; `TMO`
without input aborts a running `CLASS` 0 stream with a post of 0x51; a drive ramp ends `RAMP` × 10 µs after its start. Before
its time each leaves the stream alone. -/
def Obligations.StreamEventsFollowTheDescriptor : Prop :=
  ∀ (s : State) (g : BitVec 3) (slot : BitVec 8),
    let n := slot.toNat
    let z := s.gy g.toNat
    let y := s.gySlot g.toNat n
    (∀ x rest, s.gyClk g.toNat ≠ 0 → y.state = .running → dNst y.desc = 1 → dNout y.desc = 0 → dKcode y.desc 0 ≠ kRAND →
      s.fedBy 3 g.toNat n = [] → y.stages.length = 1 → y.ramp = none →
      (∀ c t, s.workAt g.toNat n 0 = some (c, t) → s.earlierWork g.toNat c t = false) →
      let st := nthD {} y.stages 0
      st.inbox = x :: rest → st.reload = false →
      let st1 := { st with inbox := rest }
      let v := { x with vals := [to64 (smemNat z.smem (fifoByte y.desc y.fifoPos) 4)] }
      let r := runKernel (dKcode y.desc 0) ((s.setStage g.toNat n 0 st1).kin g.toNat n 0) st1 v
      r.posts = [] → r.abort = none → ∃ t : State, exec (.stageValueProcessed g slot ⟨0, none⟩) s = .next t ∧
        t.gySlot g.toNat n = { y with
          stages := [r.st], sat := satAt 0xFF (y.sat + r.sat), fifoPos := (y.fifoPos + 1) % dFdep y.desc } ∧
        (t.gy g.toNat).ftz = satAt (2 ^ 64 - 1) (z.ftz + r.ftz) ∧ t.mem = s.mem) ∧
    (∀ stage : BitVec 3, s.gyClk g.toNat = 0 ∨ (y.state = .running ∧ y.ramp = none ∧
        ∀ c t, s.workAt g.toNat n stage.toNat = some (c, t) → s.earlierWork g.toNat c t = true) →
      exec (.stageValueProcessed g slot ⟨stage, none⟩) s = .next s) ∧
    (∀ (out : BitVec 2) (x : GyItem) (rest : List GyItem), let j := out.toNat
      let d := y.desc
      let o := nthD {} y.outs j
      o.held = x :: rest →
      (oKind d j = 1 → rest = [] → z.ringFails = false → let a := oAddr d j
        let prod := (s.cell (a + 16)).int
        let cells := recordOf d j x
        let room := prod - (s.cell (a + 32)).int ≤ (oRlen d j : Int) - (recCells d j : Int)
        s.canGet (a + 16) 32 = true →
        (¬ room → oPol d j = 2 → ∃ t : State, exec (.ringFullRecheck g slot out) s = .next t ∧ t.mem = s.mem ∧
          t.gySlot g.toNat n = y) ∧
        (room → s.canPut (a + 16) 16 = true →
          s.canPut (a + 48 + 16 * (prod % (oRlen d j : Int)).toNat) (16 * cells.length) = true → ∃ t : State,
          exec (.ringFullRecheck g slot out) s = .next t ∧ t.cell (a + 16) = normalize (mkFIX (prod + cells.length)) ∧
          (nthD {} (t.gySlot g.toNat n).outs j).held = [] ∧ (nthD {} (t.gySlot g.toNat n).outs j).records = o.records + 1 ∧
          (t.gySlot g.toNat n).lost = y.lost)) ∧
      (oKind d j = 4 →
        (∀ w : Word64, let f := field (nthD 0 o.dma 2).payload 63 62
          let cells := recordOf d j x
          let p := o.prod + cells.length
          (s.func f).bme = true → (o.prod : Int) - w.toNat ≤ (oRlen d j : Int) - (recCells d j : Int) →
          ∃ (t : State) (l : List Output), exec (.dmaRingRecord g slot out (some w)) s = .next t ∧
            t.out = s.out ++ [.hostWrite f (((nthD 0 o.dma 0).pay + 16 * (o.prod % oRlen d j)) % 2 ^ 64) (cells.flatMap cellBytes),
              .hostWrite f (nthD 0 o.dma 1).pay (leBytes 8 p)] ++ l ∧
            (nthD {} (t.gySlot g.toNat n).outs j).prod = p ∧ (nthD {} (t.gySlot g.toNat n).outs j).held = rest) ∧
        (∃ (t : State) (l : List Output), exec (.dmaRingRecord g slot out none) s = .next t ∧ t.out = s.out ++ l ∧
          (l = [] ∨ l = [.msix (field (nthD 0 o.dma 2).payload 63 62) (field (nthD 0 o.dma 2).payload 42 32)]) ∧
          (nthD {} (t.gySlot g.toNat n).outs j).held = rest ∧ (t.gySlot g.toNat n).lost = satAt 0xFFFF (y.lost + 1)))) ∧
    (∀ late : Prop, (late ↔ y.state = .running ∧ dClass y.desc = 0 ∧ dTmo y.desc ≠ 0 ∧ dSkind y.desc ≠ 4 ∧
        y.lastInput + 1000 * dTmo y.desc ≤ s.now) →
      (late → ∃ (t : State) (v : Nat), exec (.sourceTimeout g slot) s = .next t ∧ (t.gySlot g.toNat n).state = .aborted ∧
        (t.gySlot g.toNat n).last = 0x51 ∧
        (t.gy g.toNat).compl = z.compl ++ [(false, ⟨g.toNat, false, 0x51, dAchan y.desc, n, v⟩)]) ∧
      (¬ late → exec (.sourceTimeout g slot) s = .next s)) ∧
    (∀ r, y.ramp = some r → z.fifo = [] →
      (r.t0 + rampNs y.desc ≤ s.now → ∃ t : State, exec (.rampEnd g slot) s = .next t ∧
        (t.gySlot g.toNat n).ramp = none ∧ (r.fin = .abort → (t.gySlot g.toNat n).state = y.state ∧
          (t.gy g.toNat).compl = z.compl) ∧
        (∀ c, r.fin = .stop c → (t.gySlot g.toNat n).state = .free)) ∧
      (s.now < r.t0 + rampNs y.desc → exec (.rampEnd g slot) s = .next s))

/-- R346, R351, R352, R354, R355: the states of a link. `EN` leaves DOWN for ALIGN while the link has its supplies VDD_IO and
VDD_PHY (R539; which PEN pins enable them is log entry 144); ALIGNED begins training; TRAIN_SEND sends a TRAIN frame, CRC and
all, with `ACK` once one has come, except while a power failure leaves only IDLE (R376); a TRAIN with `ACK` after one sent
with `ACK` makes the link UP with the lower version and, in version 2, the `DELAY` that the stamp of its arrival gives, which
is not earlier than the stamps sent allow (log entry 65), or NOVER where that is below the peer's least; 10 ms without TRAIN
end training, NOVER trains anew after 10 ms; `EN` 0, `RETR`, silence and four code errors take an UP link DOWN, with its
event record. R363: a stamp is within 4 ns of the GTC in FIXED mode, and from 8 ns below to 32 ns above it in BOUNDED. A
command that finds another state changes nothing. -/
def Obligations.LinksTrainAndFall : Prop :=
  ∀ (s : State) (n : BitVec 3),
    let l := s.link n.toNat
    let becomes := fun (r : Out) (l' : Link) => r = .next { s with links := SMap.set {} s.links n.toNat l' }
    let fallen := fun (r : Out) => ∃ t : State, r = .next t ∧ (t.link n.toNat).state = .down ∧ (t.link n.toNat).txcred = 0 ∧
      (t.link n.toNat).txq = [] ∧ ∃ v, l.event n.toNat 2 v 0 ∈ (t.link n.toNat).events
    (∀ (i : Issue) (c : Nat) (e : Env) (v : Cell) (r : Out), Issues s i c (sWord 0xE9 0 0) 1 e → e.user = false → Fresh s e →
      Is v tagFIX ∨ Is v tagRAW → r = exec (.linkEnable i n v) s ∨ r = exec (.retr i n v) s →
      let w := v.payload
      (l.state = .down → w.getLsbD 0 = true → l.waiting = false → s.power.ps < 4 → s.vddIo = true → s.vddPhy = true →
        ∃ t : State, r = .next t ∧
        t.regs e.q = { s.regs e.q with pc := BitVec.ofNat 64 e.next } ∧
        t.link n.toNat = { l with
          echan := w.toNat / 2 ^ 32 % 2 ^ 16, v1lat := w.toNat / 2 ^ 16 % 2 ^ 16, tper := w.toNat / 2 ^ 8 % 2 ^ 8,
          vmax := w.toNat / 2 ^ 4 % 4, en := true, state := .align, gotTrain := false, sentAck := false,
          t1Late := 0 }) ∧
      (l.state = .up → w.getLsbD 0 = false ∨ w.getLsbD 1 = true → ∃ t : State, r = .next t ∧
        (t.link n.toNat).state = .down ∧ (t.link n.toNat).en = w.getLsbD 0 ∧
        ∃ x ∈ (t.link n.toNat).events, x.rtag = 0x200 + n.toNat)) ∧
    (l.state = .align → becomes (exec (.aligned n) s)
      { l with state := .train, trainAt := s.now, gotTrain := false, sentAck := false, t1Late := 0 }) ∧
    (l.state ≠ .align → exec (.aligned n) s = .next s) ∧
    (l.state = .train → s.jr.pf = .normal → exec (.trainSend n) s =
      .next { s.stampError.2 with
        links := SMap.set {} s.links n.toNat
          { l with sentAck := l.sentAck || l.gotTrain, t1Late := max l.t1Late s.stampError.1 }
        out := s.out ++ [.linkFrame n.toNat 8 0 (frameBytes (leBytes 8 8 ++ (leBytes 8 s.stamp.1 ++ leBytes 4 0 ++
          leBytes 1 l.offer ++ leBytes 1 1 ++ leBytes 1 (b2n l.gotTrain) ++ leBytes 1 64))) s.stamp.1] }) ∧
    (if s.time.xmode = 0 then s.now ≤ s.stamp.1 + 4 ∧ s.stamp.1 ≤ s.now + 4
      else s.now ≤ s.stamp.1 + 8 ∧ s.stamp.1 ≤ s.now + 32) ∧
    (l.state ≠ .train ∨ s.jr.pf ≠ .normal → exec (.trainSend n) s = .next s) ∧
    (∀ fr : RxFrame, let b := fr.bytes
      let low := leValue ((b.drop 21).take 1)
      let high := leValue ((b.drop 20).take 1)
      let v := if l.offer < high then l.offer else high
      let t4 := s.now + max s.stampError.1 (l.t1Late - 2 * s.early) - s.early
      l.state = .train → fr.codeErr = false → fr.eof = true → b.length = 24 → fr.crc = crc32 b → headerOk l b = true →
      leValue (b.take 1) % 16 = 8 →
      (leValue ((b.drop 22).take 1) % 2 = 0 ∨ l.sentAck = false → becomes (exec (.trainReceived n fr) s)
        { l with pvmax := high % 16, gotTrain := true, trainAt := s.now }) ∧
      (leValue ((b.drop 22).take 1) % 2 = 1 → l.sentAck = true →
        (low ≤ v → v ≠ 0 → ∃ t : State, exec (.trainReceived n fr) s = .next t ∧ (t.link n.toNat).state = .up ∧
          (t.link n.toNat).ver = v ∧ (t.link n.toNat).txcred = leValue ((b.drop 23).take 1) ∧
          (v = 1 → (t.link n.toNat).delay = 0) ∧
          (v ≠ 1 → ∀ d : BitVec 16, linkDelay (leValue ((b.drop 8).take 8)) (leValue ((b.drop 16).take 4)) t4 = d.toNat →
            (t.link n.toNat).delay = d.toNat) ∧ ∃ x ∈ (t.link n.toNat).events, x.rtag = 0x100 + n.toNat) ∧
        (v < low ∨ v = 0 → ∃ t : State, exec (.trainReceived n fr) s = .next t ∧ (t.link n.toNat).state = .nover ∧
          ∃ x ∈ (t.link n.toNat).events, x.rtag = 0x300 + n.toNat))) ∧
    (l.state = .train → l.trainAt + 10000000 ≤ s.now → ∃ t : State, exec (.trainTimeout n) s = .next t ∧
      (t.link n.toNat).state = (if l.en && !l.waiting && decide (s.power.ps < 4) && s.vddIo && s.vddPhy then .align else .down)) ∧
    (l.state ≠ .train ∨ s.now < l.trainAt + 10000000 → exec (.trainTimeout n) s = .next s) ∧
    (l.state = .nover → l.trainAt + 10000000 ≤ s.now → l.waiting = false → becomes (exec (.noverRetrain n) s)
      { l with state := .train, trainAt := s.now, gotTrain := false, sentAck := false, t1Late := 0 }) ∧
    (l.state = .up → fallen (exec (.linkDown n .silence) s) ∧
      ∀ k : BitVec 16, (4 ≤ k.toNat → fallen (exec (.linkDown n (.codeErrors k.toNat)) s)) ∧
        (k.toNat < 4 → becomes (exec (.linkDown n (.codeErrors k.toNat)) s) { l with code := satAt 0xFFFF (l.code + k.toNat) })) ∧
    (l.state = .down → ∀ c, exec (.linkDown n c) s = .next s)

/-- R341 to R344, R347 to R350, R352, R353: what an UP link carries. A received frame that passes the checks advances the
expected `SEQ`, counts the frames skipped and takes a credit, and some of the credits taken, how many is free, are returned
(log entry 44); one beyond the credits is discarded and counted in `OVR`; a version 2 SAMPLES frame of one value reaches the
input FIFO of the stream fed by its lane; a CTRL reply ends the request outstanding with its payload, a STAT frame leaves a
STAT record. A frame sent takes a credit and the next `SEQ`, and ends with its CRC: the oldest waiting value with its time,
the TIME frame at each multiple of `TPER` × 100 µs (log entry 124), the CTRL request of SLCMB, which ends with its reply, or
by itself with status 2 after 1 ms; a write of SLCMB while `CBUSY` is 1 has no effect. Credits received add up to 255. -/
def Obligations.LinkFramesAndCredits : Prop :=
  ∀ (s : State) (n : BitVec 3),
    let l := s.link n.toNat
    let sends := fun (t : State) (type valid first fmt : Nat) (body : List Byte) (time : Nat) =>
      t.out = s.out ++ [.linkFrame n.toNat type l.seqTx
        (frameBytes (leBytes 8 (valid * 2 ^ 32 + l.seqTx * 2 ^ 24 + first * 2 ^ 16 + fmt * 2 ^ 4 + type) ++ body)) time]
    let returns := fun (t : State) (l' : Link) => ∃ k, k ≤ 64 - l'.rxcred ∧
      t.link n.toNat = { l' with rxcred := l'.rxcred + k } ∧ t.out = s.out ++ (if k = 0 then [] else [.credit n.toNat k])
    l.state = .up →
    (∀ fr : RxFrame, let b := fr.bytes
      let seq := leValue ((b.drop 3).take 1)
      let l1 := { l with rxcred := l.rxcred - 1, seqRx := (seq + 1) % 256, lost := satAt 0xFFFF (l.lost +
        (seq + 256 - l.seqRx) % 256) }
      fr.codeErr = false → fr.eof = true → b.length ≤ 144 → b.length % 4 = 0 → 8 ≤ b.length → fr.crc = crc32 b →
      headerOk l b = true →
      (leValue (b.take 1) % 16 ≠ 8 → l.rxcred = 0 → ∀ r, r = exec (.samplesFrameReceived n fr) s ∨ r = exec (.ctrlReply n fr) s ∨
        r = exec (.statFrame n fr) s →
        r = .next { s with links := SMap.set {} s.links n.toNat { l with ovr := satAt 0xFF (l.ovr + 1) } }) ∧
      (l.rxcred ≠ 0 → leValue (b.take 1) % 16 = 1 → l.ver = 2 → b.length = 20 → leValue (b.take 8) / 2 ^ 32 % 2 = 1 →
        leValue (b.take 8) / 256 % 32 = 0 → ∀ g k y,
        s.fedBy 1 n.toNat (leValue ((b.drop 2).take 1)) = [(g, k, y)] → y = s.gySlot g k → y.state = .running →
        let fmt := leValue (b.take 8) / 16 % 4
        let st := nthD {} y.stages 0
        dFmt y.desc = fmt → st.inbox.length < dFdep y.desc → ∃ t : State,
          exec (.samplesFrameReceived n fr) s = .next t ∧ returns t l1 ∧
          t.gySlot g k = { y with
            stages := setNth y.stages 0 { st with inbox := st.inbox ++ [{
              vals := [], time := leValue ((b.drop 8).take 8), arr := s.now }] }
            lastInput := s.now } ∧
          (t.gy g).smem = putWords (s.gy g).smem [(fifoByte y.desc (y.fifoPos + st.inbox.length),
            sampleValue fmt (leValue ((b.drop 16).take (fmtBytes fmt))))]) ∧
      (l.rxcred ≠ 0 → leValue (b.take 1) % 16 = 3 → ∀ p at_, l.ctrl = some (p, at_) → ∃ t : State,
        exec (.ctrlReply n fr) s = .next t ∧ returns t { l1 with
          ctrl := none, ctrlHeld := false
          events := l.events ++ [⟨12, false, 0, l.echan, 0x400 + n.toNat, leValue ((b.drop 8).take 8)⟩] }) ∧
      (l.rxcred ≠ 0 → leValue (b.take 1) % 16 = 4 → ∃ t : State, exec (.statFrame n fr) s = .next t ∧ returns t { l1 with
          stat := some ⟨12, false, if l.stat.isSome then 1 else 0, l.echan, 0x500 + n.toNat, leValue ((b.drop 8).take 8)⟩ })) ∧
    (0 < l.txcred → s.jr.pf = .normal →
      let l1 := { l with txcred := l.txcred - 1, seqTx := (l.seqTx + 1) % 256 }
      (∀ lane fmt v time, l.txq = [(lane, fmt, v, time, true)] → lane < 256 → l.ver = 2 →
        ∃ t : State, exec (.samplesFrameSent n) s = .next t ∧ t.link n.toNat = { l1 with txq := [] } ∧
          sends t 1 1 lane fmt (leBytes 8 time ++ pad4 (leBytes (fmtBytes fmt) (if s.panel.eforce then 0 else v))) time) ∧
      (l.ver = 2 → l.tper ≠ 0 → l.timeAt / (100000 * l.tper) < s.now / (100000 * l.tper) →
        ∃ t : State, exec (.timeFrame n) s = .next t ∧
        t.link n.toNat = { l1 with timeAt := s.now } ∧ sends t 2 0 0 0 (leBytes 8 s.stamp.1 ++ leBytes 8 l.delay) s.stamp.1) ∧
      (∀ (i : Issue) (c : Nat) (e : Env) (v : Cell), Issues s i c (sWord 0xE9 0 0) 1 e → e.user = false → Fresh s e →
        Is v tagFIX ∨ Is v tagRAW → l.cbusy = false →
        let p := v.payload.toNat / 2 ^ 24 * 2 ^ 24 + v.payload.toNat % 2
        ∃ t : State, exec (.slcmb i n v) s = .next t ∧ sends t 3 0 0 0 (leBytes 8 p) s.now ∧
          t.link n.toNat = { l1 with cbusy := true, ctrl := some (p, s.now), ctrlHeld := false })) ∧
    (∀ (i : Issue) (c : Nat) (e : Env) (v : Cell), Issues s i c (sWord 0xE9 0 0) 1 e → e.user = false → Fresh s e →
      Is v tagFIX ∨ Is v tagRAW → l.cbusy = true →
        exec (.slcmb i n v) s = .next (((s.started e).endAround e.q).moveTo e.q e.next)) ∧
    (l.ver ≠ 2 ∨ l.tper = 0 ∨ s.now / (100000 * l.tper) ≤ l.timeAt / (100000 * l.tper) → exec (.timeFrame n) s = .next s) ∧
    (∀ k : BitVec 8, k ≠ 0 → l.ctrl = none → ∃ t : State, exec (.credit n k) s = .next t ∧ t.out = s.out ∧
      t.link n.toNat = { l with txcred := min 255 (l.txcred + k.toNat) }) ∧
    (∀ p at_, l.ctrl = some (p, at_) →
      (at_ + 1000000 ≤ s.now → ∃ t : State, exec (.ctrlTimeout n) s = .next t ∧ t.link n.toNat = { l with
        ctrl := none, ctrlHeld := false, events := l.events ++ [⟨12, false, 2, l.echan, 0x400 + n.toNat, p⟩] }) ∧
      (s.now < at_ + 1000000 → exec (.ctrlTimeout n) s = .next s))

/-- R356, R358 to R361, R363, R364: the global time counter. A GTCSTEP below 2^63 waits for the next advance; one of 2^63 or
more, and every one of machine code under IEEE 1588 discipline (vent firmware's act, R359), has no effect. The servo runs
while the vent core with VC1's duties does. Announce selects the first master and then only a better one, with which nothing
has been exchanged yet (log entry 125); a one-step Sync from it, stamped within the bounds of the crossing, or the Follow_Up
of a two-step one, gives the offset origin + delay − arrival, and a Delay_Req goes out; Delay_Resp gives half of ((arrival −
origin) + (receipt − sending)). The crossing mode is that of 0x2400. -/
def Obligations.TimeIsSteppedAndDisciplined : Prop :=
  ∀ (s : State) (port : BitVec 2),
    let x := s.time
    let here := port.toNat = s.dictNat 0x2410 0 0xFF ∧ s.domainOn (102 + port.toNat) = true ∧ s.dutyServed 1 = true
    let synced := fun (r : Out) (t1 t2 : Nat) => ∃ t : State, r = .next t ∧
      t.time.ptpOffs = (t1 : Int) + x.pathDelay - (t2 : Int) ∧
      (t.time.ptpOffs < -10000000 → t.time.ptpState = 3 ∧ t.time.rate = x.rate) ∧
      (-10000000 ≤ t.time.ptpOffs → t.time.ptpState = 2 ∧ |t.time.rate.toInt| ≤ 17179869) ∧
      (t.time.ptpOffs ≤ 1000000 → t.time.step = x.step) ∧
      (1000000 < t.time.ptpOffs → t.time.ptpOffs < 2 ^ 63 → t.time.step = x.step + t.time.ptpOffs.toNat) ∧
      t.time.sync = some (t1, t2) ∧ t.time.syncWait = none ∧ (∃ t3, t.time.delayReq = some (x.delaySeq, t3) ∧
        (if x.xmode = 0 then s.now ≤ t3 + 4 ∧ t3 ≤ s.now + 4 else s.now ≤ t3 + 8 ∧ t3 ≤ s.now + 32)) ∧
      t.time.delaySeq = (x.delaySeq + 1) % 65536 ∧ t.out = s.out ++ [.ptpDelayReq port.toNat x.delaySeq]
    (∀ (i : Issue) (n : Nat) (e : Env) (v : Cell), Issues s i n (sWord 0xE9 0 0) 1 e → e.user = false → Fresh s e →
      Is v tagFIX ∨ Is v tagRAW →
      let w := v.payload.toNat
      (s.dictNat 0x2410 0 0xFF = 0xFF ∨ e.q.isVent = true → w < 2 ^ 63 → exec (.gtcstep i v) s =
        .next ({ (s.started e).endAround e.q with time := { x with step := x.step + w } }.moveTo e.q e.next)) ∧
      ((s.dictNat 0x2410 0 0xFF ≠ 0xFF ∧ e.q.isVent = false) ∨ 2 ^ 63 ≤ w → exec (.gtcstep i v) s =
        .next (((s.started e).endAround e.q).moveTo e.q e.next))) ∧
    (exec .crossingModeChange s = .next { s with time := { x with xmode := s.dictNat 0x2400 0 0 } }) ∧
    (∀ (domain : Byte) (source : Word64), domain.toNat = s.dictNat 0x2411 0 0 → here →
      (∀ rank : BitVec 128,
        (x.master = none → exec (.ptpGeneralMessage port (.announce domain source rank)) s =
          .next { s with time := { x with master := some (source.toNat, rank.toNat), heardAt := s.now, ptpState := 1 } }) ∧
        (∀ m r, x.master = some (m, r) →
          (m = source.toNat → exec (.ptpGeneralMessage port (.announce domain source rank)) s =
            .next { s with time := { x with master := some (source.toNat, rank.toNat), heardAt := s.now } }) ∧
          (m ≠ source.toNat → rank.toNat < r → exec (.ptpGeneralMessage port (.announce domain source rank)) s =
            .next { s with time := { x with
              master := some (source.toNat, rank.toNat), heardAt := s.now, sync := none, syncWait := none, delayReq := none
              pathDelay := 0 } }) ∧
          (m ≠ source.toNat → r ≤ rank.toNat → exec (.ptpGeneralMessage port (.announce domain source rank)) s = .next s))) ∧
      (∀ rank : Nat, x.master = some (source.toNat, rank) →
        (∀ (seq : BitVec 16) (origin : Word64),
          synced (exec (.ptpEventMessage port ⟨domain, source, seq, false, origin⟩) s) origin.toNat s.stamp.1 ∧
          exec (.ptpEventMessage port ⟨domain, source, seq, true, origin⟩) s =
            .next { s.stamp.2 with time := { x with syncWait := some (seq.toNat, s.stamp.1) } } ∧
          (∀ at_, x.syncWait = some (seq.toNat, at_) →
            synced (exec (.ptpGeneralMessage port (.followUp domain source seq origin)) s) origin.toNat at_)) ∧
        (∀ (seq : BitVec 16) (received : Word64) (t1 t2 t3 : Nat), x.delayReq = some (seq.toNat, t3) → x.sync = some (t1, t2) →
          exec (.ptpGeneralMessage port (.delayResp domain source seq received)) s = .next { s with time := { x with
            delayReq := none, pathDelay := (((t2 : Int) - t1) + ((received.toNat : Int) - t3)) / 2 } }))) ∧
    (¬ here → (∀ m, exec (.ptpEventMessage port m) s = .next s) ∧ ∀ m, exec (.ptpGeneralMessage port m) s = .next s)

/-- R368 to R376: the journal. A checkpoint that waits is accepted with the next sequence number, or refused with 0x21 where
it was aborted, or waits for durable marking where what it would commit reaches outside bedrock; the oldest open commit ends
with a record of its number for its context, and takes effect in the journal unless its writes all failed (0x22, `MEDIA`), a
mesh transfer of its cards failed (0x46, R481) or it met poison (a free non-zero status, log entry 100). NOP and FULL
complete with 0, RREAD copies ring cells to HBM, and a bad command completes with 0x47; what the die cannot read sets
`MEDIA`. A move of a wear unit that R374 allows counts a write; one that fails verify retires the unit written, and the
contents go to a free one (R375); another move is not made. At a power failure nothing more is accepted; the open commits
that lie in the staging buffer, at most 1 MiB of them behind the oldest, are kept and take effect, unless every write of them
fails, and `PFDONE` is set. -/
def Obligations.JournalCommitsInOrder : Prop :=
  ∀ (s : State), let j := s.jr
    let posted := fun (t : State) (r : Record) => SMap.get [] t.ports 11 = SMap.get [] s.ports 11 ++ [r]
    (∀ ctx : BitVec 14, let n := ctx.toNat
      let a := s.auxOf n
      let needs := s.heap.en = true ∧ s.needsDurable n = true
      s.ctxState n = 5 → a.ckptWait = true → a.durWait = false → j.pf = .normal →
      (needs → ∃ t : State, exec (.ckptAcceptance ctx) s = .next t ∧ t.jr = j ∧ t.ports = s.ports ∧ t.heap.reqDur = true ∧
        (t.auxOf n).durWait = true) ∧
      (¬ needs → a.aborted = true → ∃ t : State, exec (.ckptAcceptance ctx) s = .next t ∧ t.jr = j ∧
        posted t ⟨11, true, 0x21, n, 0, 0⟩ ∧
        (t.auxOf n).aborted = false ∧ (t.auxOf n).ckptWait = false) ∧
      (¬ needs → a.aborted = false → ∃ (t : State) (c : Commit), exec (.ckptAcceptance ctx) s = .next t ∧
        t.jr.nextSeq = j.nextSeq + 1 ∧ t.jr.open_ = j.open_ ++ [c] ∧ c.seq = j.nextSeq + 1 ∧ c.kind = .context n ∧
        (t.auxOf n).ckptWait = false ∧ (t.auxOf n).changes = [] ∧ t.jr.full = false ∧
        ∃ k : Checkpoint, c.checkpoints = [(n, k)] ∧ k.seq = j.nextSeq + 1 ∧ k.cells.head? = some (fixOfNat (j.nextSeq + 1)))) ∧
    (j.open_ = [] → ∀ f, exec (.commitComplete f) s = .next s) ∧
    (∀ (c : Commit) (l : List Commit) (n : Nat) (f : CommitEnd), j.open_ = c :: l → c.kind = .context n → c.mesh = false →
      (∀ pa, f.ok = true → f.hit = { meshAt := some pa } → ∃ t : State, exec (.commitComplete f) s = .next t ∧ t.jr.open_ = l ∧
        t.jr.seq = j.seq ∧ posted t ⟨11, true, 0x46, n, 0, c.seq⟩) ∧ (f.hit = {} →
      (f.ok = true → c.bad = false → ∃ t : State, exec (.commitComplete f) s = .next t ∧ t.jr.open_ = l ∧ t.jr.seq = c.seq ∧
        t.jr.media = j.media ∧
        posted t ⟨11, true, 0, n, 0, c.seq⟩ ∧ t.mem = s.mem ∧
        ∀ k, c.checkpoints = [(n, k)] → SMap.get none t.jr.checkpoints n = some k) ∧
      (f.ok = true → c.bad = true → ∃ (t : State) (st : Nat), exec (.commitComplete f) s = .next t ∧ t.jr.open_ = l ∧
        t.jr.seq = j.seq ∧ 0 < st ∧ st < 256 ∧ posted t ⟨11, true, st, n, 0, c.seq⟩) ∧
      (f.ok = false → ∃ t : State, exec (.commitComplete f) s = .next t ∧ t.jr.open_ = l ∧ t.jr.seq = j.seq ∧ t.jr.media = true ∧
        posted t ⟨11, true, 0x22, n, 0, c.seq⟩ ∧ t.dep.errseq = s.dep.errseq + 1))) ∧
    (∀ c : JCmd, s.boot.held = true → exec (.jcmdNop c) s = .next s ∧ exec (.rread c) s = .next s ∧ exec (.full c) s = .next s) ∧
    (∀ c : JCmd, c.tag = 0x3F → c.epoch = 0 → c.hit = {} → s.boot.held = false →
      let ends := fun (r : Out) (status : Nat) (f : Bool) => ∃ (t : State) (v : Nat), r = .next t ∧
        posted t ⟨11, c.dk, status, c.dest.toNat, c.rtag.toNat, v⟩ ∧ t.jr = { j with full := f } ∧ t.mem = s.mem
      (c.rsvd = 0 → c.arg = 0 → ends (exec (.jcmdNop c) s) 0 j.full ∧ ends (exec (.full c) s) 0 true) ∧
      (c.rsvd ≠ 0 ∨ c.arg ≠ 0 → ends (exec (.jcmdNop c) s) 0x47 j.full ∧ ends (exec (.full c) s) 0x47 j.full) ∧
      (c.rsvd ≠ 0 ∨ c.arg.toNat % 16 ≠ 0 ∨ hbmEnd < c.arg.toNat + 48 → ends (exec (.rread c) s) 0x47 j.full) ∧
      (∀ pa, c.rsvd = 0 → c.arg.toNat % 16 = 0 → c.arg.toNat + 48 ≤ hbmEnd →
        ends (exec (.rread { c with hit := { meshAt := some pa } }) s) 0x46 j.full) ∧
      (c.rsvd = 0 → c.arg.toNat % 16 = 0 → c.arg.toNat + 48 ≤ hbmEnd → ∀ pa p k,
        s.cell c.arg.toNat = mkRAW pa → s.cell (c.arg.toNat + 16) = mkRAW p → s.cell (c.arg.toNat + 32) = mkRAW k →
        pa % 16 = 0 → p < 2 ^ 64 → 1 ≤ k → k ≤ 65536 → pa + 16 * k ≤ hbmEnd → (∀ g, s.poisoned g = false) →
        (c.unread = true → ∃ (t : State) (st : Nat), exec (.rread c) s = .next t ∧ t.jr.media = true ∧ t.jr.rpos = j.rpos ∧
          posted t ⟨11, c.dk, st, c.dest.toNat, c.rtag.toNat, j.rpos⟩ ∧ t.dep.errseq = s.dep.errseq + 1 ∧
          ∀ a, a < pa ∨ pa + 16 * k ≤ a → readByte t.mem a = readByte s.mem a) ∧
        (c.unread = false → ∃ t : State, exec (.rread c) s = .next t ∧
          posted t ⟨11, c.dk, 0, c.dest.toNat, c.rtag.toNat, j.rpos⟩ ∧ t.jr = j ∧
          (∀ i, i < k → t.cell (pa + 16 * i) = normalize (SMap.get 0 j.ring ((p + i) % 2 ^ 27))) ∧
          ∀ a, a < pa ∨ pa + 16 * k ≤ a → readByte t.mem a = readByte s.mem a))) ∧
    (∀ (unit dest : BitVec 17) (f : MoveEnd), let u := unit.toNat
      let d := dest.toNat
      let allowed := u < 116736 ∧ j.taken u d = false ∧ d ∉ j.retired ∧
        20 * (SMap.get 0 j.wear d + 1) ≤ 21 * j.wearMean + 40000000 ∧ s.dutyWaits 2 = false
      (allowed → ∃ t : State, exec (.wearLevelMove unit dest f) s = .next t ∧
        SMap.get 0 j.wear d + 1 ≤ SMap.get 0 t.jr.wear d ∧ t.jr.media = (j.media || f.unread || !f.ok) ∧
        (f.ok = true → f.fails = 0 → SMap.get 0 t.jr.wear d = SMap.get 0 j.wear d + 1 ∧ SMap.get u t.jr.wearMap u = d ∧
          t.jr.retired = j.retired) ∧
        (f.ok = false ∨ f.fails ≠ 0 → d ∈ t.jr.retired) ∧
        (f.ok = true → f.fails = 1 → (∃ k < 131072, k ≠ d ∧ k ∉ j.retired ∧ j.taken u k = false ∧
          20 * (SMap.get 0 j.wear k + 1) ≤ 21 * j.wearMean + 40000000) → SMap.get u t.jr.wearMap u ∉ t.jr.retired)) ∧
      (¬ allowed → exec (.wearLevelMove unit dest f) s = .next s)) ∧
    (∀ staged : Nat, s.boot.held = false →
      (j.pf = .normal ∨ s.boot.hostWait ≠ none → ∃ (t : State) (k : Nat), exec (.powerFailCommit staged) s = .next t ∧
        t.jr.pf = .failing ∧ k ≤ staged ∧ t.jr.open_ = (j.open_.take k).map (fun c => { c with staged := true }) ∧
        (0 < staged → j.open_ ≠ [] → 0 < k) ∧ (((j.open_.take k).drop 1).map Commit.size).sum ≤ 1048576 ∧
        t.mem = [] ∧ (∀ x ∈ t.cores, 64 ≤ x.1) ∧ (∀ n i, n < 16384 → i < 32 → t.rcell n i = 0) ∧ t.jr.seq = j.seq) ∧
      (j.pf ≠ .normal → s.boot.hostWait = none → ∃ t : State, exec (.powerFailCommit staged) s = .next t ∧
        t.jr.pf = j.pf ∧ t.jr.open_ = j.open_ ∧ t.mem = s.mem)) ∧
    (j.pf = .failing → ∃ t : State, exec .pfdone s = .next t ∧ t.jr.pf = .done ∧ t.jr.pfdone = true ∧ t.jr.open_ = [] ∧
      t.jr.spills = [] ∧ t.jr.nextSeq = t.jr.seq ∧ (∀ c, j.open_ = [c] → c.staged = true → c.bad = false →
        t.jr.seq = c.seq ∨ (t.jr.media = true ∧ t.jr.seq = j.seq))) ∧
    (j.pf ≠ .failing → exec .pfdone s = .next s)

/-- R435, R437, R440 to R443, R450: panel inputs. A scan compares each input's sample with its accepted state: agreement ends
the run, the `DEB`th differing sample in a row changes the state. ACCEPTED_CHANGE, STUCK_SET and CHATTER_WINDOW_END are those
moments: a change appends event 1, `STK` seconds of holding event 3, a window's end clears the counts; the change of a stuck
input appends event 4 in its place, the one that is too many in a window event 5, and those of a chattering input none. While
power-on reset is held nothing is sampled (R543). PNEVT_READ takes the oldest event; where events were lost, one of code 10
that counts them comes in their place. -/
def Obligations.PanelInputsAreDebounced : Prop :=
  ∀ (s : State),
    let room := s.panel.fifo.length < 251
    (s.boot.held = true → (∀ p, exec (.panelScan p) s = .next s) ∧ ∀ a b ap bp, exec (.estopSample a b ap bp) s = .next s) ∧
    (s.boot.held = false → ∀ p : PanelSample, ∃ t : State, exec (.panelScan p) s = .next t ∧ t.panel.scan = s.panel.scan + 1 ∧
      t.mem = s.mem ∧ t.dict.keyLocal = ((t.panelInput 3 0).state && !(t.panelInput 3 0).stuck) ∧
      ∀ g i, g < 4 → i < groupSize g →
        let r := s.sampleOf p g i
        let x := s.panelInput g i
        let y := t.panelInput g i
        y.prev = r ∧ (r = x.state → y.run = 0 ∧ y.state = x.state) ∧
        (r ≠ x.state → x.run + 1 ≠ s.entryNat 0x6000 g → y.run = x.run + 1 ∧ y.state = x.state) ∧
        (r ≠ x.state → x.run + 1 = s.entryNat 0x6000 g → y.run = 0 ∧ y.state = r)) ∧
    (∀ (group : BitVec 2) (input : BitVec 7), let g := group.toNat
      let i := input.toNat
      let x := s.panelInput g i
      let new := { x with prev := !x.state, state := !x.state, run := 0, held := 0 }
      let event := fun code => (code * 2 ^ 40 + g * 2 ^ 32 + i * 2 ^ 24 + (if x.state then 0 else 2 ^ 23), s.now)
      i < groupSize g →
      (x.run + 1 = s.entryNat 0x6000 g → x.stuck = false → x.chat = false → x.cnt < s.entryNat 0x6002 g → room →
        ∃ t : State, exec (.acceptedChange group input) s = .next t ∧
          t.panelInput g i = { new with cnt := x.cnt + 1 } ∧ t.panel.fifo = s.panel.fifo ++ [event 1]) ∧
      (x.run + 1 = s.entryNat 0x6000 g → x.stuck = true → room → ∃ t : State, exec (.acceptedChange group input) s = .next t ∧
        t.panelInput g i = { new with stuck := false } ∧ t.panel.fifo = s.panel.fifo ++ [event 4]) ∧
      (x.run + 1 = s.entryNat 0x6000 g → x.stuck = false → x.chat = false → s.entryNat 0x6002 g ≤ x.cnt → room →
        ∃ t : State, exec (.acceptedChange group input) s = .next t ∧
          t.panelInput g i = { new with cnt := x.cnt + 1, chat := true } ∧ t.panel.fifo = s.panel.fifo ++ [event 5]) ∧
      (x.run + 1 = s.entryNat 0x6000 g → x.stuck = false → x.chat = true → ∃ t : State,
        exec (.acceptedChange group input) s = .next t ∧ t.panelInput g i = { new with cnt := x.cnt + 1 } ∧
        t.panel.fifo = s.panel.fifo) ∧
      (x.run + 1 ≠ s.entryNat 0x6000 g → exec (.acceptedChange group input) s = .next s) ∧
      (x.state = true → x.stuck = false → s.entryNat 0x6003 g ≠ 0 → x.held + 1 = 1000 * s.entryNat 0x6003 g → room →
        ∃ t : State, exec (.stuckSet group input) s = .next t ∧
          t.panelInput g i = { x with held := x.held + 1, stuck := true } ∧
          t.panel.fifo = s.panel.fifo ++ [(3 * 2 ^ 40 + g * 2 ^ 32 + i * 2 ^ 24 + 2 ^ 23, s.now)]) ∧
      (x.held + 1 ≠ 1000 * s.entryNat 0x6003 g → exec (.stuckSet group input) s = .next s)) ∧
    (∀ group : BitVec 2, let g := group.toNat
      ((s.panel.scan + 1) % s.entryNat 0x6001 g = 0 → ∃ t : State, exec (.chatterWindowEnd group) s = .next t ∧
        ∀ i, i < groupSize g → t.panelInput g i = { s.panelInput g i with
          cnt := 0, chat := (s.panelInput g i).chat && decide (s.entryNat 0x6002 g < (s.panelInput g i).cnt) }) ∧
      ((s.panel.scan + 1) % s.entryNat 0x6001 g ≠ 0 → exec (.chatterWindowEnd group) s = .next s)) ∧
    (s.panel.fifo = [] → exec .pnevtRead s = .next s) ∧
    (∀ w time rest, s.panel.fifo = (w, time) :: rest → s.panel.lostNow = 0 →
      exec .pnevtRead s = .next { s with panel := { s.panel with fifo := rest, evtTime := time } }) ∧
    (∀ e rest, s.panel.fifo = e :: rest → 0 < s.panel.lostNow → rest.length < 251 → ∃ t : State, exec .pnevtRead s = .next t ∧
      t.panel.evtTime = e.2 ∧ t.panel.lostNow = 0 ∧ t.panel.fifo = rest ++
        [(10 * 2 ^ 40 + s.panel.lostFirst.1 % 2 ^ 40 / 2 ^ 16 * 2 ^ 16 + min 0xFFFF s.panel.lostNow, s.panel.lostFirst.2)])

/-- R335, R444 to R449: the emergency stop comes into force when either channel has been low in two samples in a row: event
7, and every running drive stream is aborted. It is released only by an accepted ERESET, after 50 ms with both channels high,
and not while a discrepancy stands, which 50 ms of disagreement set. BZON, written in a dictionary tick, sounds the buzzer
until the end of the n-th full tick after it, 0xFFFF until further notice. A write given as a command is answered as it is
served (log entry 140). -/
def Obligations.EmergencyStopAndBuzzer : Prop :=
  ∀ (s : State), let p := s.panel
    (s.boot.held = false → ∀ a b ap bp, ∃ t : State, exec (.estopSample a b ap bp) s = .next t ∧ t.panel.aHigh = a ∧
      t.panel.bHigh = b ∧
      (p.eforce = true → t.panel.eforce = true) ∧
      ((a = false ∧ 1 ≤ p.aLow) ∨ (b = false ∧ 1 ≤ p.bLow) → t.panel.eforce = true ∧ (p.eforce = false →
        (∃ c, (0x704 * 2 ^ 32 + c * 2 ^ 24 + 2 ^ 23, s.now) ∈ t.panel.fifo) ∧
        ∀ g n, let y := s.gySlot g n
          y.state = .running → hasDrive y.desc = true → y.ramp = none → (t.gySlot g n).state = .aborted)) ∧
      ((a = true ∨ p.aLow = 0) → (b = true ∨ p.bLow = 0) → t.panel.eforce = p.eforce ∧ t.geysers = s.geysers) ∧
      (a = true → b = true → t.panel.bothHigh = p.bothHigh + 1)) ∧
    (p.eforce = true → 400 ≤ p.bothHigh → exec .erel s = .next { s with panel := { p with erel := true } }) ∧
    (p.eforce = false ∨ p.bothHigh < 400 → exec .erel s = .next s) ∧
    (400 ≤ p.disagree → p.edisc = false → ∃ t : State, exec .discrepancy s = .next t ∧ t.panel.edisc = true ∧
      t.dep.errseq = s.dep.errseq + 1 ∧ (0x904 * 2 ^ 32 + (if p.eforce then 2 ^ 23 else 0), s.now) ∈ t.panel.fifo) ∧
    (p.disagree < 400 ∨ p.edisc = true → exec .discrepancy s = .next s) ∧
    (∀ w : DictWrite, s.dictServed = true → w.master ≠ 0xFE → w.master.toNat = s.dict.owner →
      (w.data = leBytes 8 1 →
        (p.eforce = true → p.erel = true → p.edisc = false → ∃ t : State, exec (.ereset w) s = .next t ∧
          t.panel.eforce = false ∧ t.panel.erel = false ∧ (0x804 * 2 ^ 32, s.now) ∈ t.panel.fifo ∧
          .answered w.master.toNat 0 ∈ t.out) ∧
        (p.eforce = false ∨ p.erel = false ∨ p.edisc = true → ∃ (t : State) (code : Nat), exec (.ereset w) s = .next t ∧
          t.panel = p ∧ code ≠ 0 ∧ .answered w.master.toNat code ∈ t.out)) ∧
      (∀ n : BitVec 16, w.data = leBytes 8 n.toNat → ∃ t : State, exec (.bzon w) s = .next t ∧
        t.panel = { p with buzzOn := n != 0, buzzLeft := if n = 0xFFFF then none else some (s.dict.tick + n.toNat + 1) })) ∧
    (∀ k, p.buzzLeft = some k → p.buzzOn = true →
      (k ≤ s.dict.tick → exec .buzzerExpiry s = .next { s with panel := { p with buzzOn := false } }) ∧
      (s.dict.tick < k → exec .buzzerExpiry s = .next s))

/-- R454, R459, R461 to R466: the power states. Evaluation takes the least tolerance of all sources; a state whose dwell is
over begins to be entered; PS2 switches the cores off, PS3 runs from the crystal with HBM in self-refresh, PS4 takes the
links down, PS5 commits every record first; an entry that is no longer allowed stops. A wake event begins an exit to the
state it requires, and the exit leaves every deeper state; from PS5 the image of the slot that IMGRUN names starts anew, with
the start kind of a restore, in context 0 on core 0 (R380, R507). While VC0 restarts nothing of this begins (R489); HOSTWK_N
while PERST_N is low waits (R552); a rail that does not come up in an exit is a rail fault (R469). -/
def Obligations.PowerStatesAreEnteredAndLeft : Prop :=
  ∀ (s : State), let p := s.power
    let power := fun (r : Out) (q : Power) => r = .next { s with power := q }
    (s.boot.held = true ∨ 0 ∈ s.dep.ventWait → exec .stateEvaluation s = .next s) ∧
    (s.boot.held = false → 0 ∉ s.dep.ventWait → ∃ t : State, exec .stateEvaluation s = .next t ∧ t.mem = s.mem ∧
      (∀ x ∈ s.tolSources, t.power.tol ≤ x.1) ∧
      (s.tolSources = [] → t.power.tol = 0xFFFFFFFF ∧ t.power.tsrc = 0) ∧
      (s.tolSources ≠ [] → ∃ x ∈ s.tolSources, t.power.tol = min 0xFFFFFFFF x.1 ∧ t.power.tsrc = x.2) ∧
      (p.trans = .settled → 2 ≤ p.ps → s.tolAllows p.ps = false → ∃ q, t.power.trans = .leaving q ∧ q < p.ps) ∧
      (p.trans = .settled → s.tolAllows p.ps = true → t.power.trans = .settled)) ∧
    (∀ q t0, p.trans = .settled → s.jr.pf = .normal → 0 ∉ s.dep.ventWait → 2 ≤ q → q ≤ 5 → p.ps < q → s.psAllowed q = true →
      SMap.get none p.since q = some t0 → t0 + dwellNs q ≤ s.now → (∀ r, q < r → r ≤ 5 → s.psAllowed r = false) →
      power (exec .dwellExpiry s) { p with trans := .entering q }) ∧
    (p.trans ≠ .settled ∨ 0 ∈ s.dep.ventWait → exec .dwellExpiry s = .next s) ∧
    (∀ core : BitVec 6,
      (p.ps ≤ 1 → s.mayGate core.toNat = true → ∃ t : State, exec (.coreGating core) s = .next t ∧
        t.core core.toNat = { s.core core.toNat with gated := true } ∧ ∀ c, c ≠ core.toNat → t.core c = s.core c) ∧
      (1 < p.ps ∨ s.mayGate core.toNat = false → exec (.coreGating core) s = .next s)) ∧
    (∀ (n q : Nat) (r : Out), p.trans = .entering q → p.ps < n → n ≤ q → 0 ∉ s.dep.ventWait →
      (n = 2 ∧ r = exec .ps2Entry s) ∨ (n = 3 ∧ r = exec .ps3Entry s) ∨ (n = 4 ∧ r = exec .ps4Entry s) ∨
        (n = 5 ∧ r = exec .ps5Entry s) →
      (s.psAllowed q = false → power r { p with trans := .settled }) ∧
      (s.psAllowed q = true → ∃ t : State, r = .next t ∧ t.power.ps = n ∧
        t.power.trans = (if n = q then .settled else .entering q) ∧
        (p.ps < 2 → ∀ c k, s.coreActive c = true → (t.slot ⟨c, k⟩).ctx = none) ∧
        (p.ps < 3 → 3 ≤ n → t.time.crystal = true ∧ t.power.selfRefresh = [0, 1]) ∧
        (p.ps < 4 → 4 ≤ n → ∀ k, k < 8 → (t.link k).state = .down) ∧
        (n = 5 → t.jr.open_ = [] ∧ t.jr.seq = t.jr.nextSeq))) ∧
    (∀ k req, (k, req) ∈ [(WakeKind.context, 1), (.heapCycle, 2), (.request, 3), (.pin, 3), (.panel, 3)] →
      (k = .pin → p.perstLow = false) →
      (p.trans = .settled → req < p.ps → power (exec (.wakeEvent k) s) { p with trans := .leaving req }) ∧
      (p.trans = .settled → p.ps ≤ req → exec (.wakeEvent k) s = .next s) ∧
      (∀ q, p.trans = .leaving q → power (exec (.wakeEvent k) s) { p with trans := .leaving (min q req) }) ∧
      (∀ q, p.trans = .entering q → (q ≤ req → exec (.wakeEvent k) s = .next s) ∧
        (req < q → power (exec (.wakeEvent k) s) { p with trans := if p.ps ≤ req then .settled else .leaving req }))) ∧
    (p.perstLow = true → exec (.wakeEvent .pin) s = .next s) ∧
    (∀ env q, p.trans = .leaving q → q < p.ps → 2 ≤ p.ps → p.ps ≤ 4 → p.held = [] → 0 ∉ s.dep.ventWait →
      env.railFault = none ∨ s.railsLow = false → ∃ t : State,
      exec (.stateExit env) s = .next t ∧ t.power.trans = .settled ∧ t.power.ps = (if q ≤ 1 then 0 else q) ∧
      (3 ≤ p.ps → q ≤ 2 → t.time.crystal = false ∧ t.power.selfRefresh = [])) ∧
    (∀ env q k i, p.trans = .leaving q → p.ps = 5 → p.held = [] → 0 ∉ s.dep.ventWait →
      env.railFault = none ∨ s.railsLow = false → env.tuffBad = false → s.boot.slotBoot = true → s.dep.imgrun % 2 = k →
      s.slotImage k = .ok i → ∃ t : State, exec (.stateExit env) s = .next t ∧ t.power.trans = .settled ∧ t.power.ps = 0 ∧
        t.boot.stat = 0x40 ∧ t.boot.rstkind = 4 ∧ t.boot.bootsrc = 3 + k ∧ t.dep.running = some i ∧ t.time.crystal = false ∧
        t.power.selfRefresh = [] ∧
        (s.coreActive 0 = true → (t.slot ⟨0, 0⟩).ctx = some 0 ∧ (t.regs ⟨0, 0⟩).pc = i.startpc ∧
          (t.regs ⟨0, 0⟩).a = startA i.service 4 false)) ∧
    (∀ env g q, p.trans = .leaving q → p.held = [] → 0 ∉ s.dep.ventWait → env.railFault = some g → s.railsLow = true →
      ∃ t : State, exec (.stateExit env) s = .next t ∧ t.power.pen = 0 ∧ t.power.lastFault = some s.now) ∧
    (∀ env, p.held = [] → p.trans = .settled ∨ 0 ∈ s.dep.ventWait → exec (.stateExit env) s = .next s) ∧
    (∀ ctx : BitVec 14, let n := ctx.toNat
      (s.ctxState n = 4 → p.ps ≤ 1 → s.ctxWake n ≤ s.now + 1008 → ∀ c, s.wakeCore n = some c → ∃ t : State,
        exec (.wakePreparation ctx) s = .next t ∧ (t.core c).gated = false ∧ (s.ctxRes n = true → c = (s.ctxAt n).core)) ∧
      (s.ctxState n = 4 → 2 ≤ p.ps → s.ctxWake n ≤ s.now + 1000 * s.exitLatency p.ps + (if p.ps = 2 then 8 else 30518) →
        exec (.wakePreparation ctx) s = .next (s.wakeTo 1)) ∧
      (s.ctxState n ≠ 4 → exec (.wakePreparation ctx) s = .next s)) ∧
    (∀ i : BitVec 4,
      (s.pllNeeded i.toNat = true → ∃ t : State, exec (.pllLock i) s = .next t ∧
        ∀ j, t.power.plls.testBit j = (decide (j = i.toNat) || p.plls.testBit j)) ∧
      (s.pllNeeded i.toNat = false → exec (.pllLock i) s = .next s)) ∧
    (∀ hc : BitVec 1,
      (p.ps = 3 → ∃ t : State, exec (.hbmSelfRefreshEntry hc) s = .next t ∧ hc.toNat ∈ t.power.selfRefresh) ∧
      (p.ps ≠ 3 → exec (.hbmSelfRefreshEntry hc) s = .next s))

/-- R469, R470, R472 to R476: rails, PMBus and temperature. A sequence up raises the used rails step by step and waits where
a rail's PGD is not good; a sequence down lowers what the state or a fault keeps off; the loss of a PGD that is meant to be
good, and a sensor at 393.15 K, take every rail down, stop the main side and every vent core but VC0, and let a restart
follow after 1 s, or none after a second fault within 60 s; where the main side is down already a trip only adds its wait
(R478). A PEN whose entry is not used is held low (R468). A reading is kept; a third poll without acknowledge is recorded; a
hot cluster slows by 100 MHz down to 800, and its PLL relocks (R455). -/
def Obligations.RailsAndTemperatures : Prop :=
  ∀ (s : State), let p := s.power
    let again := p.allDown || (match p.lastFault with | some x => decide (s.now ≤ x + 60000000000) | none => false)
    let down := fun (r : Out) (trip : Bool) => ∃ t : State, r = .next t ∧ t.power.pen = 0 ∧ t.power.pgd = 0 ∧
      t.power.lastFault = some s.now ∧ (∀ x ∈ t.cores, x.1 = 64) ∧ t.dep.staged = [] ∧
      t.power.allDown = again ∧ t.power.restart = !again ∧ t.power.tripWait = (trip || p.tripWait) ∧
      (s.mainRuns = true → t.mem = [] ∧ t.jr.pf = .done ∧ ∀ n i, n < 16384 → i < 32 → t.rcell n i = 0)
    (p.seq = .idle → p.allDown = false → s.boot.held = false → p.ps < 4 → ∃ t : State, exec .sequenceUp s = .next t ∧
      t.power.pgd = p.pgd ∧
      ((∀ n, n < 16 → railUsed (s.railWord n) = true → railHasPg (s.railWord n) = true →
          p.pgd.testBit (railPgd (s.railWord n)) = true) →
        t.power.seq = .idle ∧ ∀ n, n < 16 → t.power.pen.testBit n = railUsed (s.railWord n)) ∧
      ∀ k l, t.power.seq = .up k l → ∀ n, n < 16 → k < railStep (s.railWord n) →
        t.power.pen.testBit n = (p.pen.testBit n && railUsed (s.railWord n))) ∧
    (p.seq ≠ .idle ∨ p.allDown = true ∨ s.boot.held = true → exec .sequenceUp s = .next s) ∧
    (s.boot.held = true → (∀ g, exec (.railGood g) s = .next s) ∧ ∀ mk, exec (.sensorRead mk) s = .next s) ∧
    (s.boot.held = false → ∀ g : BitVec 4, ∃ t : State, exec (.railGood g) s = .next t ∧
      (∀ j, t.power.pgd.testBit j = (decide (j = g.toNat) || p.pgd.testBit j)) ∧
      (p.seq = .idle → t.power.seq = .idle ∧ t.power.pen = p.pen) ∧
      ∀ k l, p.seq = .up k l → (∃ n ∈ l, railPgd (s.railWord n) ≠ g.toNat) →
        t.power.seq = .up k (l.filter (fun n => railPgd (s.railWord n) != g.toNat)) ∧ t.power.pen = p.pen) ∧
    (∃ t : State, exec .sequenceDown s = .next t ∧ ∀ n, n < 16 →
      (t.power.pen.testBit n = (p.pen.testBit n && !(p.allDown || p.restart ||
        (p.ps == 5 && (railOff (s.railWord n) != 0 || !railUsed (s.railWord n))) ||
        (p.ps == 4 && (railOff (s.railWord n) == 4 || !railUsed (s.railWord n))))))) ∧
    (∀ (g : BitVec 4) (staged : Nat),
      (s.railMeant g.toNat = true → down (exec (.railFault g staged) s) false) ∧
      (s.railMeant g.toNat = false → exec (.railFault g staged) s = .next s)) ∧
    (∀ (k : BitVec 4) (staged : Nat),
      (393150 ≤ s.tempOf k.toNat → p.allDown = false → s.mainRuns = true → down (exec (.thermalTrip k staged) s) true) ∧
      (393150 ≤ s.tempOf k.toNat → p.allDown = false → s.mainRuns = false → p.tripWait = false → ∃ t : State,
        exec (.thermalTrip k staged) s = .next t ∧ t.power = { p with tripWait := true } ∧ t.dep.errseq = s.dep.errseq + 1) ∧
      (s.tempOf k.toNat < 393150 ∨ p.allDown = true ∨ (s.mainRuns = false ∧ p.tripWait = true) →
        exec (.thermalTrip k staged) s = .next s)) ∧
    (∀ env : BootEnv,
      (p.restart = true → p.allDown = false → p.tripWait = false → ∀ x, p.lastFault = some x → x + 1000000000 ≤ s.now →
        (env.railFault = none → ∃ t : State, exec (.railFaultRestart env) s = .next t ∧ t.power.restart = false ∧
          (t.boot.stat = 0x20 ∨ t.boot.stat = 0x40)) ∧
        (∀ g, env.railFault = some g → ∃ t : State, exec (.railFaultRestart env) s = .next t ∧
          t.power.lastFault = some s.now ∧ t.power.allDown = decide (s.now ≤ x + 60000000000) ∧
          t.dep.errseq = s.dep.errseq + 1)) ∧
      (p.restart = false ∨ p.allDown = true → exec (.railFaultRestart env) s = .next s)) ∧
    (∀ r : PmbReading, let d := r.dev.toNat
      let w := s.entryNat 0x2210 d
      (w.testBit 31 = false → exec (.pmbusPoll [r]) s = .next s) ∧
      (w.testBit 31 = true → r.ack = true → ∃ t : State, exec (.pmbusPoll [r]) s = .next t ∧ SMap.get 0 t.power.missed d = 0 ∧
        SMap.get 0 t.power.iout d = linear11 r.iout.toNat ∧
        (r.voutMode.toNat < 32 → SMap.get 0 t.power.vout d = linear16 r.voutMode.toNat r.vout.toNat)) ∧
      (w.testBit 31 = true → r.ack = false → ∃ t : State, exec (.pmbusPoll [r]) s = .next t ∧
        SMap.get 0 t.power.missed d = min 3 (SMap.get 0 p.missed d + 1) ∧
        t.dep.errseq = s.dep.errseq + (if SMap.get 0 p.missed d = 2 then 1 else 0))) ∧
    (∀ r : PmbStatus, let w := s.entryNat 0x2210 r.dev.toNat
      (w.testBit 31 = true → r.word ≠ 0 → r.output = false ∨ w.testBit 7 = false ∨ p.allDown = true → ∃ t : State,
        exec (.pmbAlert [r]) s = .next t ∧ t.dep.errseq = s.dep.errseq + 1 ∧ t.power = p) ∧
      (w.testBit 31 = true → r.word ≠ 0 → r.output = true → w.testBit 7 = true → p.allDown = false → ∃ t : State,
        exec (.pmbAlert [r]) s = .next t ∧ t.power.pen = 0 ∧ (s.mainRuns = true → t.mem = []) ∧ s.dep.errseq + 2 ≤ t.dep.errseq)) ∧
    (s.boot.held = false → ∀ mk : List Nat, ∃ t : State, exec (.sensorRead mk) s = .next t ∧
      ∀ k v, k < 16 → mk[k]? = some v → t.tempOf k = v ∧ (s.entryMilli 0x2101 0 ≤ v → k ∈ t.power.warned)) ∧
    (∀ cluster : BitVec 3, let k := cluster.toNat
      let f := s.entryNat 0x2010 k
      let old := SMap.get 0 p.throttle k
      let now := if old = 0 then f else min f old
      let level := s.entryMilli 0x2102 0
      ∃ t : State, exec (.throttleStep cluster) s = .next t ∧
        (level ≤ s.tempOf k → 800 < now → SMap.get 0 t.power.throttle k = max 800 (now - 100) ∧
          t.power.plls.testBit k = false) ∧
        (level ≤ s.tempOf k → now ≤ 800 → t = s) ∧
        (s.tempOf k + 3000 < level → now < f → SMap.get 0 t.power.throttle k = (if f ≤ now + 100 then 0 else now + 100) ∧
          t.power.plls.testBit k = false))

/-- R378, R502 to R510, R543: the resets. Power-on reset with a failed rail or untrained HBM stops in its step with that
code; under BOOTSEL 1 it waits for a host load with function 0's window on HBM; its assertion leaves the device held, and the
commands that wait outlast both. A return of power, a warm reset and a restart end in the start of an image (step 0x40) or in
that wait (0x20). CLURST empties the cluster's slots, those between the boundaries of a repeat once they reach one; CTXRST
frees a context, waiting for its boundary likewise, and commits the drop of its checkpoint, and refuses the executing
context. A power-on reset whose source passes the check of R514, a slot of the tuff die or the first QSPI copy, starts the
image: context 0 on core 0 at the image's first instruction (R515). -/
def Obligations.ResetsStartTheDeviceAnew : Prop :=
  ∀ (s : State),
    let restarts := fun (r : Out) => ∃ t : State, r = .next t ∧ (t.boot.stat = 0x20 ∨ t.boot.stat = 0x40) ∧
      (t.boot.stat = 0x40 → t.jr.pf = .normal ∧ t.boot.hostWait = none)
    let empty := fun t : State => ∀ n i, n < 16384 → i < 32 → t.rcell n i = 0
    (∀ env : BootEnv,
      (env.railFault ≠ none → ∃ t : State, exec (.powerOnReset env) s = .next t ∧ t.boot.stat = 3 ∧ t.boot.err = 7 ∧
        t.power.allDown = true ∧ t.mem = [] ∧ empty t ∧ t.pending = s.pending) ∧
      (env.railFault = none → env.hbmOk = false → ∃ t : State, exec (.powerOnReset env) s = .next t ∧ t.boot.stat = 4 ∧
        t.boot.err = 8 ∧ t.power.allDown = true ∧ t.pending = s.pending) ∧
      (env.railFault = none → env.hbmOk = true → env.bootsel = 1 → ∃ t : State, exec (.powerOnReset env) s = .next t ∧
        t.boot.stat = 0x20 ∧ t.boot.hostWait = some 1 ∧ t.boot.bootsel = 1 ∧ t.mem = [] ∧ empty t ∧
        SMap.get {} (t.func 0).mw 0 = { hbase := 0, wr := true, rd := true, v := true } ∧ t.pending = s.pending) ∧
      (env.railFault = none → env.hbmOk = true → env.tuffBad = false → env.selfTestFail = [] → s.jr.defaults = false → ∀ i src,
        let k := s.dep.imgrun % 2
        ((env.bootsel = 2 ∨ env.bootsel = 3) ∧ s.slotImage k = .ok i ∧ src = 3 + k) ∨
          (env.bootsel = 0 ∧ s.qspiImage env.qspi0 = .ok i ∧ src = 0) →
        ∃ t : State, exec (.powerOnReset env) s = .next t ∧ t.boot.stat = 0x40 ∧ t.boot.bootsrc = src ∧ t.boot.hostWait = none ∧
          (t.boot.rstkind = 1 ∨ t.boot.rstkind = 2) ∧ (s.jr.checkpoints = [] → t.boot.rstkind = 1) ∧ t.power.ps = 0 ∧
          t.dep.running = some i ∧ (t.slot ⟨0, 0⟩).ctx = some 0 ∧ (t.regs ⟨0, 0⟩).pc = i.startpc ∧ (t.core 0).men = i.entry ∧
          t.pending = s.pending) ∧
      (s.jr.pf ≠ .normal → s.power.restart = false → s.power.allDown = false → s.power.tripWait = false →
        restarts (exec (.powerReturnRestart env) s)) ∧
      (s.jr.pf = .normal → exec (.powerReturnRestart env) s = .next s)) ∧
    (∃ t : State, exec .powerOnResetAssertion s = .next t ∧ t.boot.held = true ∧ t.mem = [] ∧ t.cores = [] ∧
      t.ctxStore = [] ∧ t.panel = {} ∧ t.power = {} ∧ t.jr.images = s.jr.images ∧ t.jr.checkpoints = s.jr.checkpoints ∧
      t.pending = s.pending) ∧
    (∀ w : DictWrite, s.dictServed = true → w.master ≠ 0xFE → w.master.toNat = s.dict.owner →
      let none_ := (s.heartbeat w.master.toNat).emit (.answered w.master.toNat 0)
      (∀ env, w.data = leBytes 8 1 → s.mainRuns = true → restarts (exec (.warmrst w env) s)) ∧
      (∀ env, w.data = leBytes 8 0 → exec (.warmrst w env) s = .next none_) ∧
      (∀ k, k < 8 → w.data = leBytes 8 k → SMap.get none s.boot.cluTick k = some s.dict.tick →
        exec (.clurst w []) s = .next none_) ∧
      (∀ k, k < 8 → w.data = leBytes 8 k → SMap.get none s.boot.cluTick k ≠ some s.dict.tick →
        ((∀ q ∈ s.placesOf k, s.atBoundary q = true) → ∃ t : State, exec (.clurst w []) s = .next t ∧
          ∀ c j, c / 8 = k → s.coreActive c = true → (t.slot ⟨c, j⟩).ctx = none ∧ (t.core c).ocDefined = true) ∧
        ((∃ q ∈ s.placesOf k, s.atBoundary q = false) → ∃ t : State, exec (.clurst w []) s = .next t ∧ (k, []) ∈ t.boot.resets ∧
          ∀ q ∈ s.placesOf k, (s.atBoundary q = true → (t.slot q).ctx = none) ∧
            (s.atBoundary q = false → (t.slot q).ctx = (s.slot q).ctx)))) ∧
    (∀ (i : Issue) (m : Nat) (e : Env) (v : Cell), Issues s i m (sWord 0xE9 0 0) 1 e → e.user = false → Fresh s e →
      Is v tagFIX ∨ Is v tagRAW →
      let n := v.pay
      (n < 2 ^ 14 → n ≠ m → s.ctxRes n = false ∨ s.atBoundary (s.ctxAt n) = true → ∃ (t : State) (c : Commit),
        exec (.ctxrst i v) s = .next t ∧ (∀ k, k < 32 → t.rcell n k = 0) ∧ (t.auxOf n).ckptWait = false ∧
        t.jr.open_ = s.jr.open_ ++ [c] ∧ c.kind = .drop n) ∧
      (n < 2 ^ 14 → n ≠ m → s.ctxRes n = true → s.atBoundary (s.ctxAt n) = false →
        exec (.ctxrst i v) s = .next (s.started e)) ∧
      (2 ^ 14 ≤ n ∨ n = m → exec (.ctxrst i v) s = .next (s.trapped e 0x11 0 0 6 0)))

/-- R482 to R490, R499: dependability. A retired core's contexts go on in the same slots of the spare; without a spare the
core is absent and its slots are empty. A record that fails parity makes its context faulted. A failed spare is given up. The
scrub goes on after each granule, poisons what it cannot correct and makes its row a candidate. A vent core that runs
restarts with its stored patch, and the third failure of VC1, VC2 or VC3 within 60 s retires it; the watchdog begins a
restart, which VENT_RESTART ends. Staged error records go to the log while VC3 runs. Which contexts and sectors fail parity
in a retirement that a write of RETIRE brings is free (log entry 2). -/
def Obligations.FailuresAreContained : Prop :=
  ∀ (s : State),
    (∀ (core : BitVec 6) (w : DictWrite) (r : Out), let c := core.toNat
      let k := c / 8
      s.coreActive c = true → s.boot.held = false → s.boot.resets = [] → s.boot.startTodo = none →
      (∀ x, s.spareOf k = some x → r = exec (.coreRetirement core [] []) s ∨
          (s.dictServed = true ∧ w.master ≠ 0xFE ∧ w.master.toNat = s.dict.owner ∧ w.data = leBytes 8 c ∧ r = exec (.retire w) s) →
        ∃ t : State, r = .next t ∧ t.physOf c = 9 * k + x ∧ t.spareOf k = none ∧ s.physOf c ∈ t.dep.retired ∧
          (r = exec (.coreRetirement core [] []) s → t.dep.errseq = s.dep.errseq + 1 ∧
            ∀ j n, j < 4 → (s.slot ⟨c, j⟩).ctx = some n → (t.slot ⟨c, j⟩).ctx = some n)) ∧
      (s.spareOf k = none → ∃ t : State, exec (.coreRetirement core [] []) s = .next t ∧ t.coreActive c = false ∧
        s.physOf c ∈ t.dep.retired ∧ ∀ j, (t.slot ⟨c, j⟩).ctx = none)) ∧
    (∀ (core : BitVec 6) (l m : List Nat), s.coreActive core.toNat = false → s.boot.held = false →
      exec (.coreRetirement core l m) s = .next s.atBoundaries) ∧
    (∀ b : BitVec 14, let n := b.toNat
      (s.ctxRes n = false → s.ctxState n ≠ 0 → ∃ t : State, exec (.recordParityScan [b]) s = .next t ∧ t.ctxState n = 6 ∧
        t.rcell n 27 = normalize ({ code := cPARITY_REPLAY_FAIL } : Trap).cell ∧ t.dep.errseq = s.dep.errseq + 1) ∧
      (s.ctxRes n = true ∨ s.ctxState n = 0 → exec (.recordParityScan [b]) s = .next s)) ∧
    (∀ cluster : BitVec 3, let k := cluster.toNat
      (exec (.spareSelfTest cluster true) s = .next s) ∧
      (∀ x, s.spareOf k = some x → s.power.ps ≤ 1 → s.boot.held = false →
        ∃ t : State, exec (.spareSelfTest cluster false) s = .next t ∧
        t.spareOf k = none ∧ t.dep.errseq = s.dep.errseq + 1)) ∧
    (let g := s.dep.scrub
      let next := fun t : State => t.dep.scrub = if g + 1 = hbmEnd / 128 then 0 else g + 1
      (s.power.ps ≤ 3 → s.boot.held = false → s.dutyWaits 2 = false →
        (∀ newer, ∃ t : State, exec (.hbmScrub .clean newer) s = .next t ∧ next t ∧ t.mem = s.mem ∧ t.poison = s.poison) ∧
        (∀ newer, ∃ t : State, exec (.hbmScrub .corrected newer) s = .next t ∧ next t ∧ t.mem = s.mem ∧
          (SMap.get (0, 0) t.dep.rowHits (rowName g)).2 = s.dep.scrubPass + 1) ∧
        (∃ t : State, exec (.hbmScrub .uncorrectable true) s = .next t ∧ next t ∧ t.poison = s.poison) ∧
        (∃ t : State, exec (.hbmScrub .uncorrectable false) s = .next t ∧ next t ∧ t.poisoned g = true ∧
          rowName g ∈ t.dep.candidates)) ∧
      (3 < s.power.ps ∨ s.dutyWaits 2 = true → ∀ r newer, exec (.hbmScrub r newer) s = .next s)) ∧
    (∀ vc : BitVec 2, let v := vc.toNat
      let recent := (SMap.get [] s.dep.ventTimes v).filter (fun x => s.now ≤ x + 60000000000)
      let level := (s.dep.vpatch.map (·.1)).getD 0
      let runs := fun t : State => (t.slot (Cx.vent v)).ctx = some (ventCtx v) ∧
        t.regs (Cx.vent v) = { pc := Config.ventStart v, st := setField (setBit 0 stLVL true) 55 52 15 }
      let off := fun t : State => (t.slot (Cx.vent v)).ctx = none
      let fails := v ∉ s.dep.ventRetired ∧ (s.slot (Cx.vent v)).ctx ≠ none
      (fails → ∃ t : State, exec (.ventWatchdog vc) s = .next t ∧ SMap.get [] t.dep.ventTimes v = s.now :: recent ∧ off t ∧
        (v = 0 ∨ recent.length < 2 → v ∈ t.dep.ventWait ∧ t.dep.ventRetired = s.dep.ventRetired) ∧
        (v ≠ 0 → 2 ≤ recent.length → v ∈ t.dep.ventRetired)) ∧
      (v ∈ s.dep.ventWait → v = 0 ∨ s.domainOn 110 = true → ∃ t : State, exec (.ventRestart vc) s = .next t ∧ runs t ∧
        v ∉ t.dep.ventWait ∧ (v ≠ 0 → SMap.get 0 t.dep.vplevel v = level)) ∧
      (v ∈ s.dep.ventWait → v ≠ 0 → s.domainOn 110 = false → exec (.ventRestart vc) s = .next s) ∧
      (∀ l, s.dep.ventWait = [] → s.dep.ventTodo = v :: l → s.domainOn 110 = true →
        ∃ t : State, exec (.ventRestart vc) s = .next t ∧
        t.dep.ventTodo = l ∧ t.dep.errseq = s.dep.errseq ∧ runs t ∧ (v ≠ 0 → SMap.get 0 t.dep.vplevel v = level)) ∧
      (v ∉ s.dep.ventWait → s.dep.ventTodo.head? ≠ some v ∨ s.domainOn 110 = false ∨ s.dep.ventWait ≠ [] →
        (fails → ∃ t : State, exec (.ventRestart vc) s = .next t ∧ SMap.get [] t.dep.ventTimes v = s.now :: recent ∧
          (v = 0 ∨ recent.length < 2 → runs t ∧ v ∉ t.dep.ventWait ∧ t.dep.ventRetired = s.dep.ventRetired) ∧
          (v ≠ 0 → recent.length < 2 → SMap.get 0 t.dep.vplevel v = level) ∧
          (v ≠ 0 → 2 ≤ recent.length → v ∈ t.dep.ventRetired ∧ off t)) ∧
        (¬fails → exec (.ventRestart vc) s = .next s)) ∧
      (¬fails → exec (.ventWatchdog vc) s = .next s)) ∧
    (s.power.ps < 4 → s.dutyServed 3 = true → ∀ r, s.dep.staged = [r] → ∃ t : State, exec .errorLogCommit s = .next t ∧
      t.dep.staged = [] ∧
      SMap.get none t.dep.log (r.seq % 4096) = some r) ∧
    (4 ≤ s.power.ps ∨ s.dutyServed 3 = false → exec .errorLogCommit s = .next s)

/-- R490 to R496, R514, R519: patches and machine images. An image that passes the check of R514 is taken: the vent patch is
kept, a microcode patch staged, unless an activation is under way (log entry 93), a machine image written to the idle slot;
one that fails is refused and recorded with its code. MCACT activates the staged patch, each core exchanging its banks at a
boundary. A loaded image is handed over on request, started in trial by the answer, each core taking its `MEN` at a quiescent
boundary, confirmed by a program's IMGCONF, abandoned or reverted after its time, or cancelled; a write that the present
state does not allow is refused and changes nothing. Service request 0x0001 is answered by notice 0x0001. -/
def Obligations.PatchesAndImagesAreReplacedLive : Prop :=
  ∀ (s : State) (w : DictWrite), s.dictServed = true →
    let refused := fun r : Out => ∃ code, code ≠ 0 ∧
      r = .next ((s.heartbeat w.master.toNat).emit (.answered w.master.toNat code))
    (w.master ≠ 0xFE → w.master.toNat = s.dict.owner →
      (∀ (l : List Byte) (chk : SigCheck), w.data = leBytes 2 l.length ++ l →
        (l.length ≤ 32768 →
          (∀ x, s.checkImage 3 ⟨l, chk⟩ = .ok x → ∃ t : State, exec (.vpatch w chk) s = .next t ∧
            t.dep.vpatch = some (x.level, x.body)) ∧
          (∀ err, s.checkImage 3 ⟨l, chk⟩ = .error err → ∃ t : State, exec (.vpatch w chk) s = .next t ∧
            t.dep.vpatch = s.dep.vpatch ∧ t.boot.err = err ∧ t.dep.errseq = s.dep.errseq + 1)) ∧
        (l.length < 65536 → s.dep.mcstate = 4 → refused (exec (.mcpatch w chk) s)) ∧
        (l.length < 65536 → s.dep.mcstate ≠ 4 →
          (∀ x, s.checkImage 2 ⟨l, chk⟩ = .ok x → ∃ t : State, exec (.mcpatch w chk) s = .next t ∧ t.dep.mcstate = 2 ∧
            t.dep.mcStaged = some ⟨x.level, x.body⟩ ∧ (∀ c, s.coreActive c = true → s.coreOn c = true →
              (t.core c).patch = { (s.core c).patch with idle := ⟨x.level, x.body⟩ })) ∧
          (∀ err, s.checkImage 2 ⟨l, chk⟩ = .error err → ∃ t : State, exec (.mcpatch w chk) s = .next t ∧ t.dep.mcstate = 3 ∧
            t.dep.mcStaged = s.dep.mcStaged ∧ t.boot.err = err ∧ t.dep.errseq = s.dep.errseq + 1))) ∧
      (w.data = leBytes 8 1 →
        (∃ t : State, exec (.vpact w) s = .next t ∧
          t.dep.ventTodo = [3, 2, 1].filter (fun c => !s.dep.ventRetired.contains c)) ∧
        (s.dep.mcStaged = none ∨ s.dep.mcstate = 4 → refused (exec (.mcact w) s)) ∧
        (s.dep.mcStaged ≠ none → s.dep.mcstate ≠ 4 → (∃ c, s.coreActive c = true ∧ s.coreOn c = true) →
          ∃ t : State, exec (.mcact w) s = .next t ∧
          t.dep.mcstate = 4 ∧ ∀ c, c ∈ t.dep.mcTodo ↔ s.coreActive c = true ∧ s.coreOn c = true) ∧
        (∀ chk, s.dep.imgstate = 2 ∨ s.dep.imgstate = 4 → refused (exec (.imgLoad w chk) s)) ∧
        (∀ chk : SigCheck, chk.ecc = [] → s.dep.imgstate ≠ 2 → s.dep.imgstate ≠ 4 →
          let src := s.dictNat 0x8110 0 0
          let len := s.dictNat 0x8110 1 0
          let bs := if s.canGet src len then readBytes s.mem len src else []
          (∀ x, s.checkImage 1 ⟨bs, chk⟩ = .ok x → ∃ t : State, exec (.imgLoad w chk) s = .next t ∧ t.dep.imgstate = 2 ∧
            (SMap.get [] t.jr.images (1 - s.dep.imgrun % 2) = bs ∨
              SMap.get [] t.jr.images (1 - s.dep.imgrun % 2) = [] ∧ t.jr.media = true)) ∧
          (∀ err, s.checkImage 1 ⟨bs, chk⟩ = .error err → ∃ t : State, exec (.imgLoad w chk) s = .next t ∧
            t.dep.imgstate = 3 ∧ t.jr.images = s.jr.images ∧ t.boot.err = err))) ∧
      (w.data = leBytes 8 2 → s.dep.imgstate ≠ 2 ∨ s.dep.handAt ≠ none ∨ s.dep.running = none →
        refused (exec (.imgHandOver w) s)) ∧
      (w.data = leBytes 8 2 → s.dep.imgstate = 2 → s.dep.handAt = none → s.dep.running ≠ none → ∃ t : State,
        exec (.imgHandOver w) s = .next t ∧ t.dep.handAt = some s.now ∧ t.dep.imgstate = 2) ∧
      (w.data = leBytes 8 3 → s.dep.imgstate = 2 → ∃ t : State, exec (.imgCancel w) s = .next t ∧ t.dep.imgstate = 0 ∧
        t.dep.handAt = none ∧ SMap.get [] t.jr.images (1 - s.dep.imgrun % 2) = []) ∧
      (w.data = leBytes 8 3 → s.dep.imgstate ≠ 2 → refused (exec (.imgCancel w) s))) ∧
    (w.master = 0xFE → w.data = leBytes 8 1 → s.dep.imgstate = 4 → s.imgLate = false → ∃ t : State, exec (.imgconf w) s = .next t ∧
      t.dep.imgstate = 5 ∧ t.dep.imgrun = 1 - s.dep.imgrun % 2 ∧ t.dep.handAt = none ∧ t.boot.slotBoot = true) ∧
    (∀ core : BitVec 6, let c := core.toNat
      (s.dep.mcstate = 4 → c ∈ s.dep.mcTodo → (∀ k, k < 4 → s.atBoundary ⟨c, k⟩ = true) → ∃ t : State,
        exec (.patchSwitch core) s = .next t ∧
        (t.core c).patch = .of (s.core c).patch.idle (s.core c).patch.active ∧
        t.dep.mcTodo = s.dep.mcTodo.filter (· != c) ∧
        ((∀ d ∈ s.dep.mcTodo, d = c) → t.dep.mcstate = 5 ∧ t.dep.mcActive = s.dep.mcStaged)) ∧
      (s.dep.mcstate ≠ 4 ∨ c ∉ s.dep.mcTodo ∨ (∃ k < 4, s.atBoundary ⟨c, k⟩ = false) → exec (.patchSwitch core) s = .next s)) ∧
    (∀ tag block u x, s.dep.imgstate = 2 → s.dep.handAt ≠ none → s.imgLate = false → s.nextRequest = some (2, tag, block, u) →
      u.checkImage 1 ⟨SMap.get [] s.jr.images (1 - s.dep.imgrun % 2), {}⟩ = .ok x → ∃ t : State,
        exec .handoverAnswer s = .next t ∧ t.dep.imgstate = 4 ∧ t.dep.running = some x ∧ t.dep.previous = s.dep.running ∧
        t.dep.handAt = some s.now ∧
        (∀ c, s.coreActive c = true → c < 64 → s.quiescent c = true → (t.core c).men = x.entry ∧ (t.core c).den = false ∧
          (t.core c).ien = false) ∧
        (∀ c, s.coreActive c = true → c < 64 → s.quiescent c = false → (t.core c).men = (s.core c).men ∧ c ∈ t.boot.menTodo ∧
          t.boot.startTodo = some (x, startA block 0 false)) ∧
        ((∀ c, s.coreActive c = true → c < 64 → s.quiescent c = true) → (s.ctxRes 0 = true → s.atBoundary (s.ctxAt 0) = true) →
          t.boot.startTodo = none ∧ t.heap.en = false ∧
          (s.coreActive 0 = true → (t.slot ⟨0, 0⟩).ctx = some 0 ∧ (t.regs ⟨0, 0⟩).pc = x.startpc))) ∧
    (∀ t0, s.dep.handAt = some t0 →
      let late := t0 + 1000000 * s.entryNat 0x8113 0
      (s.dep.imgstate = 2 → late ≤ s.now → ∃ t : State, exec .imgtmoExpiry s = .next t ∧ t.dep.handAt = none ∧
        t.dep.imgstate = 2) ∧
      (s.dep.imgstate = 4 → late ≤ s.now ∨ (s.boot.startTodo = none ∧ s.ctxState 0 = 6) → ∃ t : State,
        exec .imgtmoExpiry s = .next t ∧ t.dep.imgstate = 6 ∧ t.dep.running = s.dep.previous ∧
        ∀ i, s.dep.previous = some i → ∀ c, s.coreActive c = true → c < 64 → (t.core c).men = i.entry) ∧
      (s.now < late → s.ctxState 0 ≠ 6 → exec .imgtmoExpiry s = .next s)) ∧
    (∀ a, s.serviceArea = some a → s.boot.notices = [] →
      let c := s.cell (a + 0x1010)
      let x := s.cell (a + 0x1100 + 16 * (c.pay % 256))
      let code := field x 47 32
      let p := s.cell (a + 0x3000)
      ((s.cell (a + 0x1000)).int ≤ c.int → exec .serviceNop s = .next s) ∧
      (c.int < (s.cell (a + 0x1000)).int → code ≠ 1 → code ≠ 2 → ∃ t : State, exec .serviceNop s = .next t ∧
        t.cell (a + 0x1010) = normalize (mkFIX (c.int + 4)) ∧
        ∀ y, y < a + 0x1010 ∨ a + 0x1020 ≤ y → readByte t.mem y = readByte s.mem y) ∧
      (c.int < (s.cell (a + 0x1000)).int → code = 1 → p.int - (s.cell (a + 0x3010)).int ≤ 252 → ∃ t : State,
        exec .serviceNop s = .next t ∧ t.cell (a + 0x1010) = normalize (mkFIX (c.int + 4)) ∧
        t.cell (a + 0x3000) = normalize (mkFIX (p.int + 4)) ∧
        t.cell (a + 0x3100 + 16 * (p.pay % 256)) = normalize (mkRAW (2 ^ 32 + field x 31 16 * 65536))))

/-- R523, R524, R532 to R534: UNLOCK adds a good token's scopes while fewer than 16 have failed, and counts every other; LOCK
closes every scope and disarms what they allowed. The JTAG instructions, while VDD_IO supplies the port: IDCODE shifts
0x264167B3, SAMPLE/PRELOAD shifts what was captured and loads the boundary-scan register, BYPASS shifts 0, and the others
change nothing but the instruction. Under EXTEST and CLAMP an output ball of the chain shows the register, under HIGHZ it
floats; a cell that only observes, and a ball outside the chain, never gives way. R202, R206, R258, R367, R388, R450, R465,
R467: a device register written by PST takes its writable fields: a channel its `IVEC`, `OVF` and `COUNT`, which may wake its
subscriber; RCFG the taps; PMCTL the tolerance, which may end a power state, and the thermal context; the panel's registers
keep their value. A host write of HIRQ clears the bits written 1. An address outside the device regions is no register. -/
def Obligations.DebugAndDeviceRegisters : Prop :=
  (∀ (s : State), let d := s.dbg
    let shows := fun (j : Jtag) (b : Ball) => ({ s with dbg := { d with jtag := j } } : State).ballLevel b
    let jtag := fun (r : Out) (j : Jtag) => r = .next { s with dbg := { d with jtag := j } }
    (∀ (w : DictWrite) (chk : SigCheck) (l : List Byte), s.dictServed = true → w.master ≠ 0xFE → l.length ≤ 112 →
      w.data = leBytes 2 l.length ++ l →
      let answer := fun (t : State) (code : Nat) => t.emit (.answered w.master.toNat code)
      (d.fails < 16 → tokenOk l = true → chk.keyOk = true → chk.sigOk = true → ∃ t : State, exec (.unlock w chk) s = .next t ∧
        t.dbg.scope = d.scope ||| leAt l 8 1 ∧ t.dbg.fails = d.fails) ∧
      (16 ≤ d.fails ∨ tokenOk l = false ∨ chk.keyOk = false ∨ chk.sigOk = false →
        exec (.unlock w chk) s =
          .next (answer { s.heartbeat w.master.toNat with dbg := { d with fails := min 0xFF (d.fails + 1) } } 0x08000026))) ∧
    (∀ w : DictWrite, s.dictServed = true → w.master ≠ 0xFE → w.data = leBytes 8 1 → ∃ t : State, exec (.lock w) s = .next t ∧
      t.dbg.scope = 0 ∧ t.dbg.obssel = [] ∧ (∀ k, (SMap.get 0 t.dbg.bkctl k).testBit 31 = false) ∧ t.dbg.fails = d.fails) ∧
    (s.jtagLive = true →
      exec .idcode s = .next { s with dbg := { d with jtag := .idcode, shifted := 0x264167B3 } } ∧
      exec .bypass s = .next { s with dbg := { d with jtag := .bypass, shifted := 0 } } ∧
      jtag (exec .extest s) .extest ∧ jtag (exec .extestPulse s) .extestPulse ∧ jtag (exec .extestTrain s) .extestTrain ∧
      jtag (exec .highz s) .highz ∧ jtag (exec .clamp s) .clamp ∧
      ∀ captured ball v, ∃ t : State, exec (.samplePreload captured [(ball, v)]) s = .next t ∧ t.dbg.jtag = .samplePreload ∧
        t.dbg.shifted = captured ∧ ∀ b, b ∈ t.dbg.scanReg ↔ if b = ball then v = true else b ∈ d.scanReg) ∧
    (s.jtagLive = false → ∀ i ∈ [Instr.idcode, .bypass, .extest, .extestPulse, .extestTrain, .highz, .clamp], exec i s = .next s) ∧
    (∀ b, s.supplied b = true → ballOut b = true → ballChain b = true → s.observeOnly b = false →
      shows .highz b = .z ∧ ∀ j ∈ [Jtag.extest, .extestPulse, .extestTrain, .clamp],
        shows j b = if b ∈ d.scanReg then (if ballOpenDrain b then .z else .high) else .low) ∧
    ∀ b j, ballChain b = false ∨ s.observeOnly b = true → shows j b = if s.supplied b then s.ballFunc b else .z) ∧
  (∀ (s : State),
    (∀ (i : Issue) (n : Nat) (e : Env) (v : Cell), Issues s i n (sWord 0xE9 0 0) 1 e → e.user = false → Fresh s e →
      Is v tagFIX ∨ Is v tagRAW →
      let w := v.payload
      let u := (s.started e).endAround e.q
      let writes := fun (pa : BitVec 48) (t : State) => exec (.deviceRegisterWrite (.machine i pa v)) s = .next (t.moveTo e.q e.next)
      writes 0xFE9000000000 (State.tolWake { u with power := { u.power with
        scrk := w.getLsbD 47, ten := w.getLsbD 46, tctx := w.toNat / 2 ^ 32 % 2 ^ 14, mtol := w.toNat % 2 ^ 32 } }) ∧
      writes 0xFE5000000000 { u with jr := { u.jr with tap := w.toNat / 2 ^ 8 % 2 ^ 8, ren := w.getLsbD 0 } } ∧
      (∀ k, k < 8 → writes (BitVec.ofNat 48 (0xFE8000000000 + 16 * k)) u) ∧
      ∀ k, k < 2 ^ 16 → w.toNat / 2 ^ 60 = 0 → w.getLsbD 46 = false → w.toNat / 2 ^ 17 % 2 ^ 15 = 0 →
        w.toNat / 2 ^ 52 % 2 ^ 8 = 0 ∨ 16 ≤ w.toNat / 2 ^ 52 % 2 ^ 8 →
        writes (BitVec.ofNat 48 (0xFE0000000000 + 16 * k))
          (let t : State := { u with channels := SMap.set {} u.channels k { s.chan k with
            ivec := w.toNat / 2 ^ 52 % 2 ^ 8, ovf := w.getLsbD 16, count := w.toNat % 2 ^ 16 } }
          if (s.chan k).sv then t.checkEvents (s.chan k).subc else t)) ∧
    (∀ (i : Issue) (pa : BitVec 48) (v : Cell), regionOf pa.toNat ≠ .device →
      exec (.deviceRegisterWrite (.machine i pa v)) s = .next s) ∧
    ∀ (f : BitVec 2) (w : Word64), s.mainRuns = true → (s.func f.toNat).mse = true →
      exec (.deviceRegisterWrite (.host f 0xA8 ⟨leBytes 8 w.toNat, false, false⟩)) s =
        .next { s with funcs := SMap.set {} s.funcs f.toNat { s.func f.toNat with hirq := (s.func f.toNat).hirq &&& ~~~ w } })

/-- R382, R383, R388 to R390, R396, R398, R465, R509: a function's control window. `FEN` negotiates the highest version
offered (none offered: 1.2) with empty counts; clearing it ends the service; `MRST` empties the counts. DBREQ takes a count
that moves forward within the depth and wakes the device, and sets `MERR` otherwise; DBAPP keeps its value and posts, and is
discarded at version 1.2; HFSIG sets an HIRQ bit and signals its vector, where the bit is new after vector 2 (the order is
the model's own, log entry 126); a vector that may not be sent is pending. A function-level reset, PERST_N low and a
configuration write act on the function's PCIe state. With Memory Space Enable 0, and after a power failure (R376), nothing
is written. R38, R383 to R388, R400: the host's windows and DMA. A mapped unit with the right gives the host HBM's bytes,
poisoned where a granule is, and takes a cell with its parity computed; an unmapped one is an Unsupported Request, or counts
a dropped write, and a poisoned write is discarded, each logged by AER. A register of the control window and the identifiers
read as they stand; the ingest window is no memory to read. A write that does not cover a poisoned granule is discarded and
counted. After a power failure PCIe is off and the host reaches nothing. A DMA command waits its turn; a transfer to the host
writes HBM's bytes to the bus, one from the host writes cells of HBM, and both complete with the bytes moved; a command whose
block cannot be transferred completes with 0x46. R307, R312, R313, R386, R397: the ingest window. A poisoned write is
discarded and logged. A write to a slot that feeds no running stream is counted; the eight bytes at the slot's end set the
time of the next sample; the sample that the slot expects enters the stream's FIFO in stream memory with the time of its
place after that anchor. After a power failure nothing arrives (R376). -/
def Obligations.HostFunctionsAndWindows : Prop :=
  (∀ (s : State) (f : BitVec 2), let x := s.func f.toNat
    let off := fun (y : Func) => y.en = false ∧ y.fen = false ∧ y.rdy = false ∧ y.ver = 0 ∧ y.reqpc = 0 ∧ y.rspcc = 0 ∧ y.rsppc = 0
    (s.mainRuns = true → x.mse = true → ∀ v : Word64,
      (v.getLsbD 0 = true → v.getLsbD 1 = false → x.en = false → ∃ t : State, exec (.fenNegotiate f v) s = .next t ∧
        t.func f.toNat = { x with
          offer := v.toNat / 16 % 8, reqpc := 0, rspcc := 0, rsppc := 0, taken := 0, en := true, fen := true, rdy := false
          ver := if v.getLsbD 6 then 0x0300 else if v.getLsbD 5 then 0x0201 else 0x0102 }) ∧
      (v.getLsbD 0 = false → v.getLsbD 1 = false → ∃ t : State, exec (.functionDisable f v) s = .next t ∧
        off (t.func f.toNat)) ∧
      (v.getLsbD 0 = true → v.getLsbD 1 = true → x.en = true → ∃ t : State, exec (.mrst f v) s = .next t ∧
        t.func f.toNat = { x with offer := v.toNat / 16 % 8, reqpc := 0, rspcc := 0, rsppc := 0, taken := 0 }) ∧
      (let n := v.toNat % 2 ^ 16
        let ahead := fun c : Nat => (c + 65536 - x.rspcc) % 65536
        (x.en = true → ahead n ≤ x.depth → ahead x.reqpc ≤ ahead n → exec (.dbreq f v) s =
          .next (State.wakeTo { s with funcs := SMap.set {} s.funcs f.toNat { x with reqpc := n } } 3)) ∧
        (x.en = true → x.depth < ahead n ∨ ahead n < ahead x.reqpc → ∃ t : State, exec (.dbreq f v) s = .next t ∧
          (t.func f.toNat).merr = true ∧ (t.func f.toNat).reqpc = x.reqpc)) ∧
      (∀ chk, x.en = true → x.ver = 0x0102 → exec (.dbapp f v chk) s = .next s) ∧
      (∀ chk, x.en = true → x.ver ≠ 0x0102 → s.boot.hostWait = none → ∃ t : State, exec (.dbapp f v chk) s = .next t ∧
        (t.func f.toNat).appval = v.toNat % 2 ^ 32 ∧
        (x.acen = true → (s.chan x.appch).ivec = 0 → (t.chan x.appch).count = min 0xFFFF ((s.chan x.appch).count + 1)))) ∧
    (x.mse = false ∨ s.mainRuns = false → ∀ v chk, exec (.fenNegotiate f v) s = .next s ∧ exec (.functionDisable f v) s = .next s ∧
      exec (.mrst f v) s = .next s ∧ exec (.dbreq f v) s = .next s ∧ exec (.dbapp f v chk) s = .next s) ∧
    (∀ (i : Issue) (n : Nat) (e : Env) (v : Cell), Issues s i n (sWord 0xE9 0 0) 1 e → e.user = false → Fresh s e →
      Is v tagFIX ∨ Is v tagRAW → x.en = true → x.ver ≠ 0x0102 →
      let bit := v.pay % 64
      let vec := v.pay / 2 ^ 32 % 2 ^ 11
      ∃ t : State, exec (.hfsig i f v) s = .next t ∧
        (∀ j, (t.func f.toNat).hirq.getLsbD j = (x.hirq.getLsbD j || decide (j = bit))) ∧
        (let pending := fun k => (SMap.get 0 (t.func f.toNat).pba (k / 8)).getLsbD (k % 8) = true
          let sent := x.bme = true ∧ x.cfg.msixEn = true ∧ x.cfg.msixMask = false
          let once := x.hirq.getLsbD bit = true ∨ vec = 2;
          (sent → x.masked vec = false → once → t.out = s.out ++ [.msix f.toNat vec]) ∧
          (sent → x.masked vec = false → x.masked 2 = false → ¬ once →
            t.out = s.out ++ [.msix f.toNat 2, .msix f.toNat vec]) ∧
          (¬ sent ∨ (x.masked vec = true ∧ once) → t.out = s.out ∧ pending vec) ∧ (¬ sent → ¬ once → pending 2))) ∧
    (∃ t : State, exec (.flr f) s = .next t ∧ off (t.func f.toNat) ∧ (t.func f.toNat).offer = 0 ∧ (t.func f.toNat).hirq = 0 ∧
      (t.func f.toNat).bme = false ∧ (t.func f.toNat).mse = false ∧ (t.func f.toNat).cfg = {} ∧ (t.func f.toNat).msix = [] ∧
      (t.func f.toNat).pba = [] ∧ (t.func f.toNat).mw = x.mw ∧
      (t.func f.toNat).appch = x.appch) ∧
    (∃ t : State, exec (.perstN false) s = .next t ∧ (∀ g, g < 4 → off (t.func g) ∧ (t.func g).bme = false ∧
      (t.func g).mse = false) ∧
      t.power.link = .down ∧ t.power.trained = false ∧ t.power.perstLow = true) ∧
    (s.power.trans = .settled → 3 < s.power.ps → exec (.perstN true) s =
      .next { s with power := { s.power with perstLow := false, trans := .leaving 3 } }) ∧
    (s.boot.held = false → ∀ v : Word64,
      let writes := fun (r : ConfigReg) (c : PciConfig) => exec (.pcieConfigurationWrite f r v) s =
        .next { s with funcs := SMap.set {} s.funcs f.toNat { x with cfg := c } };
      (∃ t : State, exec (.pcieConfigurationWrite f .command v) s = .next t ∧ (t.func f.toNat).bme = v.getLsbD 2 ∧
        (t.func f.toNat).mse = v.getLsbD 1) ∧
      writes (.bar 0) { x.cfg with bars := SMap.set 0 x.cfg.bars 0 (v.toNat / 2 ^ 16 * 2 ^ 16) } ∧
      writes (.bar 1) { x.cfg with bars := SMap.set 0 x.cfg.bars 1 (v.toNat / 2 ^ (30 + x.mwsize) * 2 ^ (30 + x.mwsize)) } ∧
      writes (.bar 2) { x.cfg with bars := SMap.set 0 x.cfg.bars 2 (v.toNat / 2 ^ 28 * 2 ^ 28) } ∧
      writes .linkControl { x.cfg with l1 := v.getLsbD 1 } ∧
      writes .l1Control { x.cfg with l12 := v.getLsbD 0, l11 := v.getLsbD 1 } ∧
      writes .aerStatus { x.cfg with aerStat := x.cfg.aerStat &&& ~~~v.setWidth 32 } ∧
      writes .aerControl { x.cfg with ecrcGen := v.getLsbD 6, ecrcCheck := v.getLsbD 8 } ∧
      writes .deviceControl { x.cfg with
        mps := if v.toNat / 2 ^ 5 % 8 ≤ 2 then v.toNat / 2 ^ 5 % 8 else x.cfg.mps
        mrrs := if v.toNat / 2 ^ 12 % 8 ≤ 5 then v.toNat / 2 ^ 12 % 8 else x.cfg.mrrs } ∧
      (∃ t : State, exec (.pcieConfigurationWrite f .deviceControl2 v) s = .next t ∧ (t.func f.toNat).cfg.ltr = v.getLsbD 10) ∧
      ∃ t : State, exec (.pcieConfigurationWrite f .msixControl v) s = .next t ∧ (t.func f.toNat).cfg.msixEn = v.getLsbD 15 ∧
        (t.func f.toNat).cfg.msixMask = v.getLsbD 14) ∧
    (s.boot.held = true → ∀ r v st, exec (.pcieConfigurationWrite f r v) s = .next s ∧ exec (.pcieLinkStateChange st) s = .next s) ∧
    (s.boot.held = false → ∀ st, exec (.pcieLinkStateChange st) s = .next { s with power := { s.power with
      link := st, trained := s.power.trained || st == .l0, wakeN := s.power.wakeN && st != .l0 } })) ∧
  (∀ (s : State) (f : BitVec 2), let x := s.func f.toNat
    let posted := fun (t : State) (c : Cell) (status value : Nat) => SMap.get [] t.ports 10 = SMap.get [] s.ports 10 ++
      [⟨10, c.getLsbD 111, status, c.toNat / 2 ^ 95 % 2 ^ 16, c.toNat / 2 ^ 79 % 2 ^ 16, value⟩]
    let logged := fun code : Nat => SMap.set {} s.funcs f.toNat
      { x with cfg := { x.cfg with aerStat := x.cfg.aerStat ||| (1#32 <<< code) } }
    let refused := { s with funcs := logged 20, out := s.out ++ [.unsupported f.toNat, .aer f.toNat 20] }
    let reads := fun (w : HostWindow) (off : BitVec 36) (n v : Nat) => exec (.hostMemoryRead f ⟨w, off⟩ ⟨n, [], false⟩) s =
      .next { s with out := s.out ++ [.readData f.toNat (leBytes n v)] };
    (s.mainRuns = false → ∀ at_ run off data m, exec (.hostMemoryRead f at_ run) s = .next s ∧
      exec (.hostMemoryWrite f off data m) s = .next s) ∧
    (s.mainRuns = true →
    (x.mse = true → reads .control 0x80 8 x.reqpc ∧ reads .control 0x40 8 x.ver ∧
      reads .control 0 8 (0x6416 * 2 ^ 48 + 0xB1 * 2 ^ 40 + 7 * 2 ^ 32 + f.toNat)) ∧
    reads .config 0 4 (0x6416 * 2 ^ 16 + 0x1E9B) ∧ reads .config 8 4 (0x118000 * 2 ^ 8 + 0xB1) ∧
    (∀ off run, exec (.hostMemoryRead f ⟨.ingest, off⟩ run) s = .next refused) ∧
    (∀ off : BitVec 36, let u := off.toNat / 2 ^ 30
      let m := SMap.get {} x.mw u
      let pa := m.hbase * 2 ^ 30 + off.toNat % 2 ^ 30
      let mapped := x.mse = true ∧ u < 2 ^ x.mwsize ∧ m.v = true
      (∀ n, 0 < n → off.toNat % 2 ^ 30 + n ≤ 2 ^ 30 →
        (mapped → m.rd = true → (∀ g ∈ granulesOf pa n, s.poisoned g = false) → ∃ t : State,
          exec (.hostMemoryRead f ⟨.memory, off⟩ ⟨n, [], false⟩) s = .next t ∧
          t.out = s.out ++ [.readData f.toNat (readBytes s.mem n pa)] ∧ t.mem = s.mem) ∧
        (mapped → m.rd = true → ∀ g ∈ granulesOf pa n, s.poisoned g = true → ∃ t : State,
          exec (.hostMemoryRead f ⟨.memory, off⟩ ⟨n, [], false⟩) s = .next t ∧
          t.out = s.out ++ [.poisoned f.toNat (readBytes s.mem n pa), .aer f.toNat 12] ∧ t.mem = s.mem) ∧
        (¬ mapped ∨ m.rd = false → exec (.hostMemoryRead f ⟨.memory, off⟩ ⟨n, [], false⟩) s = .next refused)) ∧
      (∀ data : List Byte, data.length = 16 → off.toNat % 16 = 0 →
        (mapped → m.wr = true → s.poisoned (pa / 128) = false → ∃ t : State, exec (.hostMemoryWrite f off data .whole) s = .next t ∧
          OneCell s t pa (BitVec.ofNat 128 (leValue data)) ∧ t.out = s.out) ∧
        (mapped → m.wr = true → s.poisoned (pa / 128) = true → exec (.hostMemoryWrite f off data .whole) s =
          .next { s with funcs := SMap.set {} s.funcs f.toNat { x with mwdrop := min 0xFFFFFFFF (x.mwdrop + 1) } }) ∧
        (¬ mapped ∨ m.wr = false → ∃ t : State, exec (.hostMemoryWrite f off data .whole) s = .next t ∧ t.mem = s.mem ∧
          (t.func f.toNat).mwdrop = min 0xFFFFFFFF (x.mwdrop + 1)) ∧
        (x.cfg.ecrcCheck = true → exec (.hostMemoryWrite f off data .ecrcBad) s =
          .next { s with funcs := logged 19, out := s.out ++ [.aer f.toNat 19] }) ∧
        (exec (.hostMemoryWrite f off data .poison) s = .next { s with funcs := logged 12, out := s.out ++ [.aer f.toNat 12] })))) ∧
    (∀ c : JCmd, c.tag = 0x3F → c.epoch = 0 → s.boot.held = false → c.hit = {} →
      (∀ d, s.dma = some d → exec (.dmcmdNop c) s = .next { s.wakeTo 3 with dmaQ := s.dmaQ ++ [(JCmd.cell c 0, none)] } ∧
        exec (.tohost c) s = .next { s.wakeTo 3 with dmaQ := s.dmaQ ++ [(JCmd.cell c 1, none)] } ∧
        exec (.fromhost c) s = .next { s.wakeTo 3 with dmaQ := s.dmaQ ++ [(JCmd.cell c 2, none)] }) ∧
      (s.dma = none →
        (c.rsvd = 0 → c.arg = 0 → ∃ t : State, exec (.dmcmdNop c) s = .next t ∧ posted t (JCmd.cell c 0) 0 0 ∧ t.dma = none) ∧
        (c.rsvd ≠ 0 → (∃ t : State, exec (.tohost c) s = .next t ∧ posted t (JCmd.cell c 1) 0x47 0 ∧ t.dma = none) ∧
          ∃ t : State, exec (.fromhost c) s = .next t ∧ posted t (JCmd.cell c 2) 0x47 0 ∧ t.dma = none) ∧
        (∀ hbm bus len, c.rsvd = 0 → c.arg.toNat % 16 = 0 → c.arg.toNat + 48 ≤ hbmEnd → s.cell c.arg.toNat = mkRAW hbm →
          s.cell (c.arg.toNat + 16) = mkRAW bus → s.cell (c.arg.toNat + 32) = mkRAW (f.toNat * 2 ^ 62 + len) → hbm % 16 = 0 →
          bus % 16 = 0 → bus < 2 ^ 64 → len % 16 = 0 → 0 < len → len < 2 ^ 32 → hbm + len ≤ hbmEnd → x.bme = true →
          (∀ g, s.poisoned g = false) →
          (∃ t : State, exec (.tohost c) s = .next t ∧ t.mem = s.mem ∧
            t.dma = some ⟨JCmd.cell c 1, true, hbm, bus, f.toNat, len⟩) ∧
          ∃ t : State, exec (.fromhost c) s = .next t ∧ t.mem = s.mem ∧
            t.dma = some ⟨JCmd.cell c 2, false, hbm, bus, f.toNat, len⟩))) ∧
    (∀ (c : JCmd) (a : BitVec 48), c.tag = 0x3F → c.epoch = 0 → s.boot.held = false → s.dma = none → c.rsvd = 0 →
      c.hit = { meshAt := some a } →
      (∃ t : State, exec (.tohost c) s = .next t ∧ posted t (JCmd.cell c 1) 0x46 0 ∧ t.dma = none) ∧
      ∃ t : State, exec (.fromhost c) s = .next t ∧ posted t (JCmd.cell c 2) 0x46 0 ∧ t.dma = none) ∧
    (s.dma = none → ∀ r, exec (.dmaTransferComplete r) s = .next s) ∧
    (∀ d : Dma, s.dma = some d → s.dmaQ = [] →
      (∀ r : DmaResult, d.toHost = true → r.failed = false → r.meshAt = none → r.ecc = [] →
        (∀ g ∈ granulesOf d.hbm d.len, s.poisoned g = false) → ∃ t : State, exec (.dmaTransferComplete r) s = .next t ∧
          t.dma = none ∧ posted t d.cmd 0 d.len ∧
          t.out = s.out ++ [.hostWrite d.func d.bus (readBytes s.mem d.len d.hbm)] ∧ t.mem = s.mem) ∧
      (∀ r : DmaResult, d.toHost = false → r.failed = false → r.meshAt = none → r.data.length = d.len → d.hbm % 16 = 0 →
        d.len % 16 = 0 →
        (∀ g ∈ granulesOf d.hbm d.len, s.poisoned g = false) → ∃ t : State,
        exec (.dmaTransferComplete r) s = .next t ∧ t.dma = none ∧ posted t d.cmd 0 d.len ∧
        (∀ k, k < d.len / 16 → t.cell (d.hbm + 16 * k) =
          normalize (BitVec.ofNat 128 (leValue ((r.data.drop (16 * k)).take 16)))) ∧
        ∀ a, a < d.hbm ∨ d.hbm + d.len ≤ a → readByte t.mem a = readByte s.mem a))) ∧
  (∀ (s : State) (f : BitVec 2) (off : BitVec 28) (wire : WireData), let data := wire.bytes
    let slot := off.toNat / 2 ^ 20
    let o := off.toNat % 2 ^ 20
    let key := 256 * f.toNat + slot
    let runs := (s.fedBy 2 f.toNat slot).filter (fun e => e.2.2.state == .running)
    let w := s.ingestOf key
    (s.mainRuns = false → exec (.ingestWrite f off wire) s = .next s) ∧
    (s.mainRuns = true → wire.poisoned = true → ∃ t : State, exec (.ingestWrite f off wire) s = .next t ∧ t.geysers = s.geysers ∧
      t.ingest = s.ingest ∧
      t.out = s.out ++ [.aer f.toNat 12]) ∧
    (s.mainRuns = true → wire.poisoned = false → wire.ecrcBad = false → (s.func f.toNat).mse = true → 0 < data.length →
      o + data.length ≤ 2 ^ 20 →
    (runs = [] → ∃ t : State, exec (.ingestWrite f off wire) s = .next t ∧ t.geysers = s.geysers ∧
      (t.func f.toNat).idrop = min 0xFFFFFFFF ((s.func f.toNat).idrop + 1)) ∧
    (∀ g n y, runs = [(g, n, y)] → y = s.gySlot g n →
      (o = 0xFFFF0 → data.length = 8 → ∃ t : State, exec (.ingestWrite f off wire) s = .next t ∧
        t.ingestOf key = { w with anchor := leValue data, since := 0 } ∧ t.geysers = s.geysers) ∧
      (o = w.next → data.length = fmtBytes (dFmt y.desc) → o + data.length ≤ 0xFFFF0 →
        let st := nthD {} y.stages 0
        let v := sampleValue (dFmt y.desc) (leValue data)
        st.inbox.length < dFdep y.desc → ∃ t : State, exec (.ingestWrite f off wire) s = .next t ∧
          t.ingestOf key = { w with next := (o + data.length) % 0xFFFF0, since := w.since + 1 } ∧
          (t.gySlot g n).stages = setNth y.stages 0 { st with inbox := st.inbox ++ [{
            vals := [], time := ingestTime w.anchor w.since y.desc, arr := s.now }] } ∧
          (t.gy g).smem = putWords (s.gy g).smem [(fifoByte y.desc (y.fifoPos + st.inbox.length), v)]))))

/-- R391 to R394, R411, R412, R414, R422, R465, R489: a message reaches VC1. The next request of a mailbox is taken and waits
for the end of the tick: NOP, IDENT, HBEAT, DREAD, DWRITE, DREADSEG and DMREAD as they are; the segments of a DWRITESEG
gather, the last one gives the whole value to the tick, and a break discards them, answered 0x05040002. Each is its master's
heartbeat, a malformed one too, which is answered 0x05040001 and has no other effect. Nothing is taken while the dictionary
is not served: no vent core has its duties, or the device is in PS4 or PS5. A frame that is not accepted has no effect; one
that comes while the dictionary is not served is kept during a restart of the vent core, and in PS4 and PS5 by a listening
port, which keeps up to four and wakes the device (R465). A master's fifth outstanding DFP request is answered 0x05040003. A
write given as a command waits likewise (log entry 140). R428 to R430, R465, R543: a command of the dictionary port joins the
tick's work with its block as it stands, and wakes the device; one whose `MID` or `ARG` is not as the table says is refused
in that tick, and a cell that is not a RAW of epoch 0 has no effect, nor any while power-on reset is held. A command of the
panel master is its heartbeat (R414). R411, R412, R414, R415, R417, R420: the dictionary tick. A tick with no work counts and
changes nothing else; while the dictionary is not served every heartbeat counts afresh. A tick that holds one claim of OWNER,
with no owner in remote mode, makes the claimant the owner, counts `OWNSEQ` and answers 0; a request that needs no dictionary
work is answered at the tick. Every message, whatever its interface, is its master's heartbeat; an owner's heartbeat lapses
after HBTIME ticks without one, never master 0x00's in local mode, and a designation after 500 ticks. -/
def Obligations.DictionaryRequestsAndOwnership : Prop :=
  (∀ (s : State) (f : BitVec 2), let x := s.func f.toNat
    let v := Via.ohp f
    let beat := fun m : Nat => SMap.set none s.dict.lastReq m (some s.dict.tick)
    (s.nextOhp f.toNat = none ∨ s.dictServed = false →
      exec (.ohpNop v) s = .next s ∧ exec (.ident v) s = .next s ∧ exec (.dread v) s = .next s ∧ exec (.dwrite v) s = .next s ∧
      exec (.dreadseg v) s = .next s ∧ exec (.dwriteseg v) s = .next s ∧ exec (.dmread v) s = .next s ∧
      exec (.hbeat v) s = .next s) ∧
    (∀ m : Msg, s.nextOhp f.toNat = some m → s.dictServed = true →
      let r := m.req
      let queued := fun (t : State) (q : DictReq) => (t.func f.toNat).taken = (x.taken + 1) % 65536 ∧
        (t.func f.toNat).rsppc = x.rsppc ∧ t.dict.queue = s.dict.queue ++ [q] ∧ t.dict.lastReq = beat r.master ∧ t.out = s.out
      let segment := fun t : State => SMap.get none t.dict.segs (2 ^ 24 * r.master + 256 * leAt r.payload 0 2 + leAt r.payload 2 1)
      let off := leAt r.payload 8 4
      let total := leAt r.payload 12 4
      let got := r.payload.drop 16
      let coded := fun code : Nat => { r with code := code, payload := [] }
      (m.bad = false →
        (r.mtype = 0x01 → ∃ t : State, exec (.ohpNop v) s = .next t ∧ queued t r) ∧
        (r.mtype = 0x02 → ∃ t : State, exec (.ident v) s = .next t ∧ queued t r) ∧
        (r.mtype = 0x30 → ∃ t : State, exec (.hbeat v) s = .next t ∧ queued t r) ∧
        (r.mtype = 0x10 → ∃ t : State, exec (.dread v) s = .next t ∧ queued t r) ∧
        (r.mtype = 0x11 → ∃ t : State, exec (.dwrite v) s = .next t ∧ queued t r) ∧
        (r.mtype = 0x12 → ∃ t : State, exec (.dreadseg v) s = .next t ∧ queued t r) ∧
        (r.mtype = 0x14 → ∃ t : State, exec (.dmread v) s = .next t ∧ queued t r) ∧
        (r.mtype = 0x13 →
          (off = 0 → got.length = total →
            ∃ t : State, exec (.dwriteseg v) s = .next t ∧ queued t { r with payload := r.payload.take 8 ++ got }) ∧
          (∀ old, segment s = some (total, old) → 0 < old.length → old.length = off → off + got.length = total →
            ∃ t : State, exec (.dwriteseg v) s = .next t ∧ queued t { r with payload := r.payload.take 8 ++ (old ++ got) } ∧
              segment t = none) ∧
          (off = 0 → got.length < total →
            ∃ t : State, exec (.dwriteseg v) s = .next t ∧ queued t (coded 0) ∧ segment t = some (total, got)) ∧
          (off ≠ 0 → segment s = none →
            ∃ t : State, exec (.dwriteseg v) s = .next t ∧ queued t (coded 0x05040002) ∧ segment t = none) ∧
          (∀ n old, segment s = some (n, old) → off ≠ 0 → n ≠ total ∨ old.length ≠ off →
            ∃ t : State, exec (.dwriteseg v) s = .next t ∧ queued t (coded 0x05040002) ∧ segment t = none))) ∧
      (m.bad = true → r.mtype = 0x10 → ∃ t : State, exec (.dread v) s = .next t ∧ queued t (coded 0x05040001) ∧
        t.dict.segs = s.dict.segs)) ∧
    (∀ w : Via, (∀ g, w ≠ .ohp g) →
      (s.frameOk w = none → exec (.dread w) s = .next s ∧ exec (.hbeat w) s = .next s) ∧
      (∀ port mac msg, s.frameOk w = some (port, mac, msg) →
        let m := s.frameMsg port mac msg
        let mine := s.dict.queue.filter (fun q => q.isDfp && q.master == m.req.master)
        m.req.mtype = 0x10 →
        (s.dictServed = false → s.power.ps < 4 → s.dutyWaits 1 = false → exec (.dread w) s = .next s) ∧
        (s.dictServed = false → s.power.ps < 4 → s.dutyWaits 1 = true → exec (.dread w) s =
          .next { s with power := { s.power with held := s.power.held ++ [(port, mac, msg)] } }) ∧
        (4 ≤ s.power.ps → (s.power.held.filter (fun h => h.1 == port)).length < 4 → exec (.dread w) s =
          .next (State.wakeTo { s with power := { s.power with held := s.power.held ++ [(port, mac, msg)] } } 3)) ∧
        (4 ≤ s.power.ps → 4 ≤ (s.power.held.filter (fun h => h.1 == port)).length → exec (.dread w) s = .next (s.wakeTo 3)) ∧
        (s.dictServed = true → m.bad = false →
        (mine.length < 4 → ∃ t : State, exec (.dread w) s = .next t ∧ t.dict.queue = s.dict.queue ++ [m.req] ∧ t.out = s.out) ∧
        (4 ≤ mine.length → ∃ t : State, exec (.dread w) s = .next t ∧ t.out = s.out ∧
          t.dict.queue = s.dict.queue ++ [{ m.req with code := 0x05040003, payload := [] }])))) ∧
    ∀ w : DictWrite, s.dictServed = false →
      let waits := fun i : Nat => Host.Outcome.next { s with dict := { s.dict with rows := s.dict.rows ++ [(w, i, {})] } }
      (4 ≤ s.power.ps ∨ s.dutyWaits 1 = true → exec (.ereset w) s = waits 0x6103 ∧ exec (.bzon w) s = waits 0x6211 ∧
        exec (.retire w) s = waits 0x8012 ∧ exec (.vpact w) s = waits 0x8106 ∧ exec (.mcact w) s = waits 0x8103 ∧
        exec (.imgconf w) s = waits 0x8114 ∧ exec (.lock w) s = waits 0x9002) ∧
      (s.power.ps < 4 → s.dutyWaits 1 = false → exec (.ereset w) s = .next s ∧ exec (.retire w) s = .next s)) ∧
  (∀ (s : State) (c : DxCmd),
    (c.tag ≠ 0x3F ∨ c.epoch ≠ 0 ∨ s.boot.held = true → exec (.dxcmdNop c) s = .next s ∧ exec (.dxRead c) s = .next s ∧
      exec (.dxWrite c) s = .next s ∧
      exec (.publish c) s = .next s ∧ exec (.withdraw c) s = .next s) ∧
    (c.tag = 0x3F → c.epoch = 0 → s.boot.held = false →
      let a := c.arg.toNat
      let joins := fun (t : State) (cmd code : Nat) (p : List Byte) => t.out = s.out ∧ t.mem = s.mem ∧
        (c.mid = 0 → SMap.get none t.dict.lastReq 0 = some s.dict.tick) ∧ t.power.trans = (s.wakeTo 3).power.trans ∧
          t.dict.queue = s.dict.queue ++
        [{ src := .port (dxCell c cmd), master := c.mid.toNat, mtype := 0x100 + cmd, mtag := 0, payload := p
           code := code, time := s.now }]
      (c.rsvd = 0 → c.mid = 0 ∨ c.mid = 0xFE → a % 16 = 0 →
        (∃ t : State, exec (.dxcmdNop c) s = .next t ∧ joins t 0 0 []) ∧
        ∀ cmd n, n = s.blockSize cmd a → a + 16 * n ≤ hbmEnd → (∀ g ∈ granulesOf a (16 * n), s.poisoned g = false) →
          (s.cell a).tag = tagRAW → (s.cell a).reserved = false → field (s.cell a) 63 24 = 0 →
          (cmd = 1 → ∃ t : State, exec (.dxRead c) s = .next t ∧ joins t 1 0 (readBytes s.mem (16 * n) a)) ∧
          (cmd = 2 → ∃ t : State, exec (.dxWrite c) s = .next t ∧ joins t 2 0 (readBytes s.mem (16 * n) a)) ∧
          (cmd = 3 → ∃ t : State, exec (.publish c) s = .next t ∧ joins t 3 0 (readBytes s.mem (16 * n) a)) ∧
          (cmd = 4 → ∃ t : State, exec (.withdraw c) s = .next t ∧ joins t 4 0 (readBytes s.mem (16 * n) a))) ∧
      (c.rsvd ≠ 0 ∨ (c.mid ≠ 0 ∧ c.mid ≠ 0xFE) ∨ a % 16 ≠ 0 →
        (∃ t : State, exec (.dxcmdNop c) s = .next t ∧ joins t 0 0x05040001 []) ∧
        (∃ t : State, exec (.dxRead c) s = .next t ∧ joins t 1 0x05040001 []) ∧
        (∃ t : State, exec (.dxWrite c) s = .next t ∧ joins t 2 0x05040001 []) ∧
        (∃ t : State, exec (.publish c) s = .next t ∧ joins t 3 0x05040001 []) ∧
        ∃ t : State, exec (.withdraw c) s = .next t ∧ joins t 4 0x05040001 []))) ∧
  (∀ s : State,
    let quiet := s.boot.held = false ∧ s.boot.notices = [] ∧ s.power.held = [] ∧ s.dict.rows = []
    (s.boot.held = true → exec .dictionaryTick s = .next s) ∧
    (quiet → s.dictServed = true → s.dict.queue = [] → s.dict.owner = 0xFF → s.dict.keyLocal = s.dict.loc → s.dict.desTick = none →
      s.dict.changed = false → ∃ t : State, exec .dictionaryTick s = .next t ∧ t.dict = { s.dict with tick := s.dict.tick + 1 } ∧
      t.out = s.out ∧ t.mem = s.mem ∧ t.cores = s.cores) ∧
    (quiet → s.dictServed = false → ∃ t : State, exec .dictionaryTick s = .next t ∧ t.dict.tick = s.dict.tick + 1 ∧ t.out = s.out ∧
      ∀ m, SMap.get none t.dict.lastReq m = (SMap.get none s.dict.lastReq m).map (fun _ => s.dict.tick + 1)) ∧
    (∀ m : Msg, (s.arrive m).dict.lastReq =
      SMap.set none s.dict.lastReq m.req.master (some s.dict.tick)) ∧
    (∀ (f k : Nat) (r : DictReq), quiet → f < 4 → (s.func f).en = true → s.dictServed = true → s.dict.queue = [r] →
      s.dict.owner = 0xFF →
      s.dict.keyLocal = false → s.dict.loc = false → s.dict.desTick = none → s.dict.designee = 0xFF →
      r.src = .ohp f k →
      (r.mtype = 0x01 ∨ r.code ≠ 0 → s.dict.changed = false → ∃ t : State, exec .dictionaryTick s = .next t ∧ t.dict.queue = [] ∧
        t.dict.owner = 0xFF ∧ (t.func f).rsppc = ((s.func f).rsppc + 1) % 65536 ∧
        ∃ l, t.out = s.out ++ .ohpResponse f (s.func f).rsppc r.code :: l) ∧
      (r.master = f + 1 → r.mtype = 0x11 → r.code = 0 →
      r.payload = leBytes 8 0x3000 ++ leBytes 8 (f + 1) →
      ∃ t : State, exec .dictionaryTick s = .next t ∧ t.dict.owner = f + 1 ∧ t.dict.ownseq = (s.dict.ownseq + 1) % 2 ^ 32 ∧
        t.dict.why = 1 ∧ t.dict.queue = [] ∧ t.dict.tick = s.dict.tick + 1 ∧
        (t.func f).rsppc = ((s.func f).rsppc + 1) % 65536)) ∧
    (let d := s.dict
      let due := d.owner ≠ 0xFF ∧ (d.owner ≠ 0 ∨ d.loc = false) ∧
        s.entryNat 0x3003 0 ≤ d.tick - (SMap.get none d.lastReq d.owner).getD 0
      (s.dictServed = true → due → exec .heartbeatLapse s = .next { s with dict := { d with
        owner := 0xFF, ownseq := (d.ownseq + 1) % 2 ^ 32, designee := 0xFF, desTick := none, why := 3, changed := true } }) ∧
      (s.dictServed = false ∨ ¬ due → exec .heartbeatLapse s = .next s)) ∧
    (∀ k, s.dict.desTick = some k →
      (s.dictServed = true → k + 501 ≤ s.dict.tick → exec .designationExpiry s = .next { s with dict := { s.dict with
        designee := 0xFF, desTick := none, why := 8, changed := true } }) ∧
      (s.dict.tick < k + 501 → exec .designationExpiry s = .next s)))
end

