-- ==== Sys2Proof/Laws/Bits.lean ====
section
/-! SUPPORT. Bit fields (R6): what a field reads after a write, bit by bit. -/

namespace Sys2Proof

/-- Bit `j` of a number with one field replaced. -/
theorem testBit_replace (x v lo n j : Nat) :
    (x - (x / 2 ^ lo) % 2 ^ n * 2 ^ lo + v % 2 ^ n * 2 ^ lo).testBit j =
      if lo ≤ j ∧ j < lo + n then v.testBit (j - lo) else x.testBit j := by
  have hx : x - (x / 2 ^ lo) % 2 ^ n * 2 ^ lo = x / 2 ^ (lo + n) * 2 ^ (lo + n) + x % 2 ^ lo := by
    have h1 : x = x / 2 ^ lo * 2 ^ lo + x % 2 ^ lo := by
      have := Nat.div_add_mod x (2 ^ lo); rw [Nat.mul_comm] at this; exact this.symm
    have h2 : x / 2 ^ lo = x / 2 ^ (lo + n) * 2 ^ n + x / 2 ^ lo % 2 ^ n := by
      have := Nat.div_add_mod (x / 2 ^ lo) (2 ^ n)
      rw [Nat.div_div_eq_div_mul, ← Nat.pow_add, Nat.mul_comm] at this
      exact this.symm
    have h3 : x / 2 ^ lo * 2 ^ lo = x / 2 ^ (lo + n) * 2 ^ (lo + n) + x / 2 ^ lo % 2 ^ n * 2 ^ lo := by
      conv_lhs => rw [h2]
      rw [Nat.add_mul, Nat.mul_assoc, ← Nat.pow_add, Nat.add_comm n lo]
    omega
  have hl : x % 2 ^ lo < 2 ^ lo := Nat.mod_lt _ (by positivity)
  have hv : v % 2 ^ n < 2 ^ n := Nat.mod_lt _ (by positivity)
  have hsum : x - (x / 2 ^ lo) % 2 ^ n * 2 ^ lo + v % 2 ^ n * 2 ^ lo =
      2 ^ lo * (2 ^ n * (x / 2 ^ (lo + n)) + v % 2 ^ n) + x % 2 ^ lo := by
    rw [hx, Nat.pow_add]; ring
  rw [hsum, Nat.testBit_two_pow_mul_add _ hl]
  by_cases h1 : j < lo
  · have : ¬ (lo ≤ j ∧ j < lo + n) := by omega
    simp only [h1, if_true, this, if_false, Nat.testBit_mod_two_pow, decide_true, Bool.true_and]
  · rw [if_neg h1, Nat.testBit_two_pow_mul_add _ hv]
    by_cases h2 : j - lo < n
    · have : lo ≤ j ∧ j < lo + n := by omega
      simp only [h2, if_true, this, and_self, Nat.testBit_mod_two_pow, decide_true, Bool.true_and]
    · have : ¬ (lo ≤ j ∧ j < lo + n) := by omega
      simp only [h2, if_false, this, Nat.testBit_div_two_pow]
      congr 1; omega

/-- Bit `j` of a vector with one field replaced. -/
theorem getLsbD_setField {w : Nat} (x : BitVec w) (hi lo v j : Nat) :
    (setField x hi lo v).getLsbD j =
      (decide (j < w) && if lo ≤ j ∧ j < lo + (hi + 1 - lo) then v.testBit (j - lo) else x.getLsbD j) := by
  simp only [setField, BitVec.getLsbD, BitVec.toNat_ofNat, Nat.testBit_mod_two_pow, testBit_replace]

/-- A field that has been written reads as written, cut to its width. -/
theorem field_setField_self {w : Nat} (x : BitVec w) {hi lo : Nat} (v : Nat) (h : lo ≤ hi) (hw : hi < w) :
    field (setField x hi lo v) hi lo = v % 2 ^ (hi + 1 - lo) := by
  apply Nat.eq_of_testBit_eq
  intro j
  simp only [field, Nat.testBit_mod_two_pow, Nat.testBit_div_two_pow]
  change (decide (j < hi + 1 - lo) && (setField x hi lo v).getLsbD (j + lo)) = _
  rw [getLsbD_setField]
  by_cases hj : j < hi + 1 - lo
  · have h1 : j + lo < w := by omega
    have h2 : lo ≤ j + lo ∧ j + lo < lo + (hi + 1 - lo) := by omega
    simp [hj, h1, h2]
  · simp [hj]

/-- A field apart from the one written reads as before. -/
theorem field_setField_of_apart {w : Nat} (x : BitVec w) {hi lo hi' lo' : Nat} (v : Nat)
    (h : hi' < lo ∨ hi < lo') (hw : hi' < w) : field (setField x hi lo v) hi' lo' = field x hi' lo' := by
  apply Nat.eq_of_testBit_eq
  intro j
  simp only [field, Nat.testBit_mod_two_pow, Nat.testBit_div_two_pow]
  change (decide (j < hi' + 1 - lo') && (setField x hi lo v).getLsbD (j + lo')) =
    (decide (j < hi' + 1 - lo') && x.getLsbD (j + lo'))
  by_cases hj : j < hi' + 1 - lo'
  · rw [getLsbD_setField]
    have h1 : j + lo' < w := by omega
    have h2 : ¬ (lo ≤ j + lo' ∧ j + lo' < lo + (hi + 1 - lo)) := by omega
    simp [h1, h2]
  · simp [hj]

/-- Bit `n` of a word after bit `m` has been set to `b`. -/
theorem bit_setBit {w : Nat} (x : BitVec w) (n m : Nat) (b : Bool) (hn : n < w) :
    bit (setBit x m b) n = if n = m then b else bit x n := by
  change (setField x m m (if b then 1 else 0)).getLsbD n = _
  rw [getLsbD_setField]
  by_cases h : n = m
  · subst h; cases b <;> simp [hn]
  · have : ¬ (m ≤ n ∧ n < m + (m + 1 - m)) := by omega
    simp only [hn, decide_true, Bool.true_and, this, if_false, h, bit, BitVec.getLsbD]

end Sys2Proof
end

