-- ==== Sys2Proof/Laws/SparseMap.lean ====
section
/-! SUPPORT. Laws of sparse tables: reading after a write, and every operation keeps the canonical form. -/

namespace Sys2Proof

variable {α : Type}

theorem SMap.get_erase_self (d : α) (m : SMap α) (k : Nat) : SMap.get d (SMap.erase m k) k = d := by
  induction m with
  | nil => rfl
  | cons e m ih =>
    obtain ⟨j, v⟩ := e
    by_cases h : j = k <;> simp [SMap.erase, SMap.get, h, ih]

theorem SMap.get_erase_ne (d : α) (m : SMap α) {k j : Nat} (h : j ≠ k) :
    SMap.get d (SMap.erase m k) j = SMap.get d m j := by
  induction m with
  | nil => rfl
  | cons e m ih =>
    obtain ⟨i, v⟩ := e
    by_cases hk : i = k
    · subst hk
      simp [SMap.erase, SMap.get, ih, Ne.symm h]
    · simp only [SMap.erase, hk, if_false, SMap.get, ih]

theorem SMap.get_insert_self (d : α) (m : SMap α) (k : Nat) (v : α) : SMap.get d (SMap.insert m k v) k = v := by
  induction m with
  | nil => simp [SMap.insert, SMap.get]
  | cons e m ih =>
    obtain ⟨j, w⟩ := e
    by_cases h1 : k < j
    · simp [SMap.insert, SMap.get, h1]
    · by_cases h2 : k = j
      · simp [SMap.insert, SMap.get, h2]
      · simp [SMap.insert, SMap.get, h1, h2, Ne.symm h2, ih]

theorem SMap.get_insert_ne (d : α) (m : SMap α) {k j : Nat} (v : α) (h : j ≠ k) :
    SMap.get d (SMap.insert m k v) j = SMap.get d m j := by
  induction m with
  | nil => simp [SMap.insert, SMap.get, Ne.symm h]
  | cons e m ih =>
    obtain ⟨i, w⟩ := e
    by_cases h1 : k < i
    · simp [SMap.insert, SMap.get, h1, Ne.symm h]
    · by_cases h2 : k = i
      · subst h2
        simp [SMap.insert, SMap.get, Ne.symm h]
      · simp only [SMap.insert, h1, h2, if_false, SMap.get, ih]

variable [DecidableEq α]

/-- A read after a write to the same key gives the value written. -/
@[simp] theorem SMap.get_set_self (d : α) (m : SMap α) (k : Nat) (v : α) : SMap.get d (SMap.set d m k v) k = v := by
  unfold SMap.set
  split
  · next h => rw [SMap.get_erase_self, h]
  · rw [SMap.get_insert_self]

/-- A write leaves every other key alone. -/
theorem SMap.get_set_ne (d : α) (m : SMap α) {k j : Nat} (v : α) (h : j ≠ k) :
    SMap.get d (SMap.set d m k v) j = SMap.get d m j := by
  unfold SMap.set
  split
  · rw [SMap.get_erase_ne d m h]
  · rw [SMap.get_insert_ne d m v h]

/-! ### The canonical form -/

/-- Every key of the table is above `lo`. -/
def SMap.above (lo : Option Nat) (k : Nat) : Prop := match lo with | none => True | some l => l < k

theorem SMap.wfFrom_cons (d : α) (lo : Option Nat) (j : Nat) (v : α) (m : SMap α) :
    SMap.wfFrom d lo ((j, v) :: m) = true ↔ SMap.above lo j ∧ v ≠ d ∧ SMap.wfFrom d (some j) m = true := by
  cases lo <;> simp [SMap.wfFrom, SMap.above, and_assoc]

theorem SMap.wfFrom_weaken (d : α) {lo hi : Option Nat} (m : SMap α) (h : ∀ k, SMap.above hi k → SMap.above lo k)
    (hm : SMap.wfFrom d hi m = true) : SMap.wfFrom d lo m = true := by
  cases m with
  | nil => rfl
  | cons e m =>
    obtain ⟨j, v⟩ := e
    rw [SMap.wfFrom_cons] at hm ⊢
    exact ⟨h _ hm.1, hm.2⟩

theorem SMap.above_trans {lo : Option Nat} {j k : Nat} (h1 : SMap.above lo j) (h2 : SMap.above (some j) k) :
    SMap.above lo k := by
  cases lo with
  | none => trivial
  | some l => exact Nat.lt_trans (show l < j from h1) (show j < k from h2)

theorem SMap.wfFrom_erase (d : α) (m : SMap α) (k : Nat) {lo : Option Nat} (h : SMap.wfFrom d lo m = true) :
    SMap.wfFrom d lo (SMap.erase m k) = true := by
  induction m generalizing lo with
  | nil => rfl
  | cons e m ih =>
    obtain ⟨j, v⟩ := e
    rw [SMap.wfFrom_cons] at h
    by_cases hj : j = k
    · simp only [SMap.erase, hj, if_true]
      exact SMap.wfFrom_weaken d _ (fun _ ha => SMap.above_trans h.1 ha) (hj ▸ ih h.2.2)
    · simp only [SMap.erase, hj, if_false, SMap.wfFrom_cons]
      exact ⟨h.1, h.2.1, ih h.2.2⟩

theorem SMap.wfFrom_insert (d : α) (m : SMap α) (k : Nat) (v : α) (hv : v ≠ d) {lo : Option Nat}
    (hk : SMap.above lo k) (h : SMap.wfFrom d lo m = true) : SMap.wfFrom d lo (SMap.insert m k v) = true := by
  induction m generalizing lo with
  | nil => simp only [SMap.insert, SMap.wfFrom_cons]; exact ⟨hk, hv, rfl⟩
  | cons e m ih =>
    obtain ⟨j, w⟩ := e
    rw [SMap.wfFrom_cons] at h
    by_cases h1 : k < j
    · simp only [SMap.insert, h1, if_true, SMap.wfFrom_cons]
      exact ⟨hk, hv, h1, h.2⟩
    · by_cases h2 : k = j
      · subst h2
        simp only [SMap.insert, Nat.lt_irrefl, if_false, if_true, SMap.wfFrom_cons]
        exact ⟨hk, hv, h.2.2⟩
      · simp only [SMap.insert, h1, h2, if_false, SMap.wfFrom_cons]
        exact ⟨h.1, h.2.1, ih (show j < k by omega) h.2.2⟩

/-- A write keeps the canonical form. -/
theorem SMap.wf_set (d : α) (m : SMap α) (k : Nat) (v : α) (h : SMap.wf d m = true) :
    SMap.wf d (SMap.set d m k v) = true := by
  unfold SMap.wf SMap.set at *
  split
  · exact SMap.wfFrom_erase d m k h
  · next hv => exact SMap.wfFrom_insert d m k v hv trivial h

theorem SMap.wfFrom_filter (d : α) (m : SMap α) (p : Nat × α → Bool) {lo : Option Nat}
    (h : SMap.wfFrom d lo m = true) : SMap.wfFrom d lo (m.filter p) = true := by
  induction m generalizing lo with
  | nil => rfl
  | cons e m ih =>
    obtain ⟨j, v⟩ := e
    rw [SMap.wfFrom_cons] at h
    by_cases hp : p (j, v)
    · simp only [List.filter_cons, hp, if_true, SMap.wfFrom_cons]
      exact ⟨h.1, h.2.1, ih h.2.2⟩
    · simp only [List.filter_cons, hp]
      exact SMap.wfFrom_weaken d _ (fun _ ha => SMap.above_trans h.1 ha) (ih h.2.2)

/-- Dropping entries keeps the canonical form. -/
theorem SMap.wf_filter (d : α) (m : SMap α) (p : Nat × α → Bool) (h : SMap.wf d m = true) :
    SMap.wf d (m.filter p) = true := SMap.wfFrom_filter d m p h

/-- In canonical form a key is listed exactly when it reads as something else than the default. -/
theorem SMap.get_above (d : α) (m : SMap α) {lo k : Nat} (h : SMap.wfFrom d (some lo) m = true) (hk : k ≤ lo) :
    SMap.get d m k = d := by
  induction m generalizing lo with
  | nil => rfl
  | cons e m ih =>
    obtain ⟨j, v⟩ := e
    rw [SMap.wfFrom_cons] at h
    have hl : lo < j := h.1
    have hj : j ≠ k := by omega
    simp only [SMap.get, hj, if_false]
    exact ih h.2.2 (by omega)

/-- Two canonical tables that read alike everywhere are the same list. -/
theorem SMap.ext_of_wfFrom (d : α) (m n : SMap α) {lo : Option Nat} (hm : SMap.wfFrom d lo m = true)
    (hn : SMap.wfFrom d lo n = true) (h : ∀ k, SMap.get d m k = SMap.get d n k) : m = n := by
  induction m generalizing lo n with
  | nil =>
    cases n with
    | nil => rfl
    | cons e n =>
      obtain ⟨j, v⟩ := e
      rw [SMap.wfFrom_cons] at hn
      have := h j
      simp only [SMap.get, if_true] at this
      exact absurd this.symm hn.2.1
  | cons e m ih =>
    obtain ⟨i, v⟩ := e
    rw [SMap.wfFrom_cons] at hm
    cases n with
    | nil =>
      have := h i
      simp only [SMap.get, if_true] at this
      exact absurd this hm.2.1
    | cons f n =>
      obtain ⟨j, w⟩ := f
      rw [SMap.wfFrom_cons] at hn
      have hij : i = j := by
        rcases Nat.lt_trichotomy i j with hlt | heq | hgt
        · have := h i
          simp only [SMap.get, if_true, show j ≠ i by omega, if_false] at this
          exact absurd (this.trans (SMap.get_above d n hn.2.2 (by omega))) hm.2.1
        · exact heq
        · have := h j
          simp only [SMap.get, if_true, show i ≠ j by omega, if_false] at this
          exact absurd (this.symm.trans (SMap.get_above d m hm.2.2 (by omega))) hn.2.1
      subst hij
      have hvw : v = w := by
        have := h i
        simpa only [SMap.get, if_true] using this
      subst hvw
      have : m = n := by
        refine ih n hm.2.2 hn.2.2 (fun k => ?_)
        by_cases hk : i = k
        · subst hk
          rw [SMap.get_above d m hm.2.2 (Nat.le_refl _), SMap.get_above d n hn.2.2 (Nat.le_refl _)]
        · have := h k
          simpa only [SMap.get, hk, if_false] using this
      rw [this]

/-- Equal memories are equal data. -/
theorem SMap.ext_of_wf (d : α) (m n : SMap α) (hm : SMap.wf d m = true) (hn : SMap.wf d n = true)
    (h : ∀ k, SMap.get d m k = SMap.get d n k) : m = n := SMap.ext_of_wfFrom d m n hm hn h

end Sys2Proof
end

