-- ==== Sys2Proof/Laws/State.lean ====
section
/-! SUPPORT. Reads of the state after its updates: for each update, the part it writes and, one lemma per field, the parts it
leaves. Every lemma of the second kind holds by unfolding a record update. -/

namespace Sys2Proof.Machine

/-! ### What an update writes -/

@[simp] theorem State.core_setCore_self (s : State) (c : Nat) (v : Core) : (s.setCore c v).core c = v := by
  simp [State.core, State.setCore]

theorem State.core_setCore_ne (s : State) {c d : Nat} (v : Core) (h : d ≠ c) : (s.setCore c v).core d = s.core d := by
  simp only [State.core, State.setCore]
  exact SMap.get_set_ne _ _ _ h

@[simp] theorem Core.slot_setSlot_self (k : Core) (n : Nat) (v : Slot) : (k.setSlot n v).slot n = v := by
  simp [Core.slot, Core.setSlot]

theorem Core.slot_setSlot_ne (k : Core) {n m : Nat} (v : Slot) (h : m ≠ n) : (k.setSlot n v).slot m = k.slot m := by
  simp only [Core.slot, Core.setSlot]
  exact SMap.get_set_ne _ _ _ h

@[simp] theorem State.slot_setSlot_self (s : State) (q : Cx) (v : Slot) : (s.setSlot q v).slot q = v := by
  simp [State.slot, State.setSlot]

/-- Another slot is not touched. -/
theorem State.slot_setSlot_ne (s : State) {q p : Cx} (v : Slot) (h : p ≠ q) : (s.setSlot q v).slot p = s.slot p := by
  unfold State.slot State.setSlot
  by_cases hc : p.core = q.core
  · have hs : p.slot ≠ q.slot := fun e => h (by cases p; cases q; simp_all)
    rw [hc, State.core_setCore_self, Core.slot_setSlot_ne _ _ hs]
  · rw [State.core_setCore_ne _ _ hc]

@[simp] theorem State.slot_modSlot_self (s : State) (q : Cx) (f : Slot → Slot) : (s.modSlot q f).slot q = f (s.slot q) := by
  simp [State.modSlot]

theorem State.slot_modSlot_ne (s : State) {q p : Cx} (f : Slot → Slot) (h : p ≠ q) : (s.modSlot q f).slot p = s.slot p :=
  State.slot_setSlot_ne s _ h

@[simp] theorem State.regs_modRegs_self (s : State) (q : Cx) (f : Regs → Regs) : (s.modRegs q f).regs q = f (s.regs q) := by
  simp [State.modRegs, State.setRegs, State.regs]

/-- The registers of another slot are not touched. -/
theorem State.regs_modRegs_ne (s : State) {q p : Cx} (f : Regs → Regs) (h : p ≠ q) : (s.modRegs q f).regs p = s.regs p := by
  simp only [State.modRegs, State.setRegs, State.regs]
  rw [State.slot_setSlot_ne _ _ h]

/-- A slot after a change of its registers: the registers alone differ. -/
theorem State.slot_modRegs_self (s : State) (q : Cx) (f : Regs → Regs) :
    (s.modRegs q f).slot q = { s.slot q with regs := f (s.regs q) } := by
  simp [State.modRegs, State.setRegs]

theorem State.slot_modRegs_ne (s : State) {q p : Cx} (f : Regs → Regs) (h : p ≠ q) : (s.modRegs q f).slot p = s.slot p :=
  State.slot_setSlot_ne s _ h

@[simp] theorem State.regs_moveTo_self (s : State) (q : Cx) (a : Nat) :
    (s.moveTo q a).regs q = { s.regs q with pc := BitVec.ofNat 64 a } := State.regs_modRegs_self s q _

@[simp] theorem State.rcell_setRec_self (s : State) (n c : Nat) (v : Cell) : (s.setRec n c v).rcell n c = normalize v := by
  simp [State.rcell, State.setRec]

theorem State.rcell_setRec_ne (s : State) {n c m d : Nat} (v : Cell) (h : 32 * m + d ≠ 32 * n + c) :
    (s.setRec n c v).rcell m d = s.rcell m d := by
  simp only [State.rcell, State.setRec]
  exact SMap.get_set_ne _ _ _ h

@[simp] theorem State.auxOf_modAux_self (s : State) (n : Nat) (f : CtxAux → CtxAux) :
    (s.modAux n f).auxOf n = f (s.auxOf n) := by
  simp [State.auxOf, State.modAux, State.setAux]

theorem State.auxOf_modAux_ne (s : State) {n m : Nat} (f : CtxAux → CtxAux) (h : m ≠ n) :
    (s.modAux n f).auxOf m = s.auxOf m := by
  simp only [State.auxOf, State.modAux, State.setAux]
  exact SMap.get_set_ne _ _ _ h

@[simp] theorem State.chan_setChan_self (s : State) (n : Nat) (c : Channel) : (s.setChan n c).chan n = c := by
  simp [State.chan, State.setChan]

theorem State.chan_setChan_ne (s : State) {n m : Nat} (c : Channel) (h : m ≠ n) : (s.setChan n c).chan m = s.chan m := by
  simp only [State.chan, State.setChan]
  exact SMap.get_set_ne _ _ _ h

/-! ### What a change of `ctxStore` alone leaves -/

theorem State.with_ctxStore_mem (s : State) (m : SMap Cell) : ({ s with ctxStore := m } : State).mem = s.mem := rfl
theorem State.with_ctxStore_poison (s : State) (m : SMap Cell) : ({ s with ctxStore := m } : State).poison = s.poison := rfl
theorem State.with_ctxStore_ocUnder (s : State) (m : SMap Cell) : ({ s with ctxStore := m } : State).ocUnder = s.ocUnder := rfl
theorem State.with_ctxStore_l2Under (s : State) (m : SMap Cell) : ({ s with ctxStore := m } : State).l2Under = s.l2Under := rfl
theorem State.with_ctxStore_l2 (s : State) (m : SMap Cell) : ({ s with ctxStore := m } : State).l2 = s.l2 := rfl
theorem State.with_ctxStore_l2Lines (s : State) (m : SMap Cell) : ({ s with ctxStore := m } : State).l2Lines = s.l2Lines := rfl
theorem State.with_ctxStore_l2Queue (s : State) (m : SMap Cell) : ({ s with ctxStore := m } : State).l2Queue = s.l2Queue := rfl
theorem State.with_ctxStore_dir (s : State) (m : SMap Cell) : ({ s with ctxStore := m } : State).dir = s.dir := rfl
theorem State.with_ctxStore_aux (s : State) (m : SMap Cell) : ({ s with ctxStore := m } : State).aux = s.aux := rfl
theorem State.with_ctxStore_ventRam (s : State) (m : SMap Cell) : ({ s with ctxStore := m } : State).ventRam = s.ventRam := rfl
theorem State.with_ctxStore_cores (s : State) (m : SMap Cell) : ({ s with ctxStore := m } : State).cores = s.cores := rfl
theorem State.with_ctxStore_order (s : State) (m : SMap Cell) : ({ s with ctxStore := m } : State).order = s.order := rfl
theorem State.with_ctxStore_channels (s : State) (m : SMap Cell) : ({ s with ctxStore := m } : State).channels = s.channels := rfl
theorem State.with_ctxStore_collQ (s : State) (m : SMap Cell) : ({ s with ctxStore := m } : State).collQ = s.collQ := rfl
theorem State.with_ctxStore_ports (s : State) (m : SMap Cell) : ({ s with ctxStore := m } : State).ports = s.ports := rfl
theorem State.with_ctxStore_collCycle (s : State) (m : SMap Cell) : ({ s with ctxStore := m } : State).collCycle = s.collCycle := rfl
theorem State.with_ctxStore_heads (s : State) (m : SMap Cell) : ({ s with ctxStore := m } : State).heads = s.heads := rfl
theorem State.with_ctxStore_linkWait (s : State) (m : SMap Cell) : ({ s with ctxStore := m } : State).linkWait = s.linkWait := rfl
theorem State.with_ctxStore_heap (s : State) (m : SMap Cell) : ({ s with ctxStore := m } : State).heap = s.heap := rfl
theorem State.with_ctxStore_geysers (s : State) (m : SMap Cell) : ({ s with ctxStore := m } : State).geysers = s.geysers := rfl
theorem State.with_ctxStore_ingest (s : State) (m : SMap Cell) : ({ s with ctxStore := m } : State).ingest = s.ingest := rfl
theorem State.with_ctxStore_links (s : State) (m : SMap Cell) : ({ s with ctxStore := m } : State).links = s.links := rfl
theorem State.with_ctxStore_time (s : State) (m : SMap Cell) : ({ s with ctxStore := m } : State).time = s.time := rfl
theorem State.with_ctxStore_jr (s : State) (m : SMap Cell) : ({ s with ctxStore := m } : State).jr = s.jr := rfl
theorem State.with_ctxStore_funcs (s : State) (m : SMap Cell) : ({ s with ctxStore := m } : State).funcs = s.funcs := rfl
theorem State.with_ctxStore_dma (s : State) (m : SMap Cell) : ({ s with ctxStore := m } : State).dma = s.dma := rfl
theorem State.with_ctxStore_dmaQ (s : State) (m : SMap Cell) : ({ s with ctxStore := m } : State).dmaQ = s.dmaQ := rfl
theorem State.with_ctxStore_dict (s : State) (m : SMap Cell) : ({ s with ctxStore := m } : State).dict = s.dict := rfl
theorem State.with_ctxStore_panel (s : State) (m : SMap Cell) : ({ s with ctxStore := m } : State).panel = s.panel := rfl
theorem State.with_ctxStore_power (s : State) (m : SMap Cell) : ({ s with ctxStore := m } : State).power = s.power := rfl
theorem State.with_ctxStore_dep (s : State) (m : SMap Cell) : ({ s with ctxStore := m } : State).dep = s.dep := rfl
theorem State.with_ctxStore_boot (s : State) (m : SMap Cell) : ({ s with ctxStore := m } : State).boot = s.boot := rfl
theorem State.with_ctxStore_dbg (s : State) (m : SMap Cell) : ({ s with ctxStore := m } : State).dbg = s.dbg := rfl
theorem State.with_ctxStore_out (s : State) (m : SMap Cell) : ({ s with ctxStore := m } : State).out = s.out := rfl
theorem State.with_ctxStore_freeCount (s : State) (m : SMap Cell) : ({ s with ctxStore := m } : State).freeCount = s.freeCount := rfl
theorem State.with_ctxStore_pending (s : State) (m : SMap Cell) : ({ s with ctxStore := m } : State).pending = s.pending := rfl

/-! ### What a change of `mem` alone leaves -/

theorem State.with_mem_poison (s : State) (m : List Host.Cell) : ({ s with mem := m } : State).poison = s.poison := rfl
theorem State.with_mem_ocUnder (s : State) (m : List Host.Cell) : ({ s with mem := m } : State).ocUnder = s.ocUnder := rfl
theorem State.with_mem_l2Under (s : State) (m : List Host.Cell) : ({ s with mem := m } : State).l2Under = s.l2Under := rfl
theorem State.with_mem_l2 (s : State) (m : List Host.Cell) : ({ s with mem := m } : State).l2 = s.l2 := rfl
theorem State.with_mem_l2Lines (s : State) (m : List Host.Cell) : ({ s with mem := m } : State).l2Lines = s.l2Lines := rfl
theorem State.with_mem_l2Queue (s : State) (m : List Host.Cell) : ({ s with mem := m } : State).l2Queue = s.l2Queue := rfl
theorem State.with_mem_dir (s : State) (m : List Host.Cell) : ({ s with mem := m } : State).dir = s.dir := rfl
theorem State.with_mem_ctxStore (s : State) (m : List Host.Cell) : ({ s with mem := m } : State).ctxStore = s.ctxStore := rfl
theorem State.with_mem_aux (s : State) (m : List Host.Cell) : ({ s with mem := m } : State).aux = s.aux := rfl
theorem State.with_mem_ventRam (s : State) (m : List Host.Cell) : ({ s with mem := m } : State).ventRam = s.ventRam := rfl
theorem State.with_mem_cores (s : State) (m : List Host.Cell) : ({ s with mem := m } : State).cores = s.cores := rfl
theorem State.with_mem_order (s : State) (m : List Host.Cell) : ({ s with mem := m } : State).order = s.order := rfl
theorem State.with_mem_channels (s : State) (m : List Host.Cell) : ({ s with mem := m } : State).channels = s.channels := rfl
theorem State.with_mem_collQ (s : State) (m : List Host.Cell) : ({ s with mem := m } : State).collQ = s.collQ := rfl
theorem State.with_mem_ports (s : State) (m : List Host.Cell) : ({ s with mem := m } : State).ports = s.ports := rfl
theorem State.with_mem_collCycle (s : State) (m : List Host.Cell) : ({ s with mem := m } : State).collCycle = s.collCycle := rfl
theorem State.with_mem_heads (s : State) (m : List Host.Cell) : ({ s with mem := m } : State).heads = s.heads := rfl
theorem State.with_mem_linkWait (s : State) (m : List Host.Cell) : ({ s with mem := m } : State).linkWait = s.linkWait := rfl
theorem State.with_mem_heap (s : State) (m : List Host.Cell) : ({ s with mem := m } : State).heap = s.heap := rfl
theorem State.with_mem_geysers (s : State) (m : List Host.Cell) : ({ s with mem := m } : State).geysers = s.geysers := rfl
theorem State.with_mem_ingest (s : State) (m : List Host.Cell) : ({ s with mem := m } : State).ingest = s.ingest := rfl
theorem State.with_mem_links (s : State) (m : List Host.Cell) : ({ s with mem := m } : State).links = s.links := rfl
theorem State.with_mem_time (s : State) (m : List Host.Cell) : ({ s with mem := m } : State).time = s.time := rfl
theorem State.with_mem_jr (s : State) (m : List Host.Cell) : ({ s with mem := m } : State).jr = s.jr := rfl
theorem State.with_mem_funcs (s : State) (m : List Host.Cell) : ({ s with mem := m } : State).funcs = s.funcs := rfl
theorem State.with_mem_dma (s : State) (m : List Host.Cell) : ({ s with mem := m } : State).dma = s.dma := rfl
theorem State.with_mem_dmaQ (s : State) (m : List Host.Cell) : ({ s with mem := m } : State).dmaQ = s.dmaQ := rfl
theorem State.with_mem_dict (s : State) (m : List Host.Cell) : ({ s with mem := m } : State).dict = s.dict := rfl
theorem State.with_mem_panel (s : State) (m : List Host.Cell) : ({ s with mem := m } : State).panel = s.panel := rfl
theorem State.with_mem_power (s : State) (m : List Host.Cell) : ({ s with mem := m } : State).power = s.power := rfl
theorem State.with_mem_dep (s : State) (m : List Host.Cell) : ({ s with mem := m } : State).dep = s.dep := rfl
theorem State.with_mem_boot (s : State) (m : List Host.Cell) : ({ s with mem := m } : State).boot = s.boot := rfl
theorem State.with_mem_dbg (s : State) (m : List Host.Cell) : ({ s with mem := m } : State).dbg = s.dbg := rfl
theorem State.with_mem_out (s : State) (m : List Host.Cell) : ({ s with mem := m } : State).out = s.out := rfl
theorem State.with_mem_freeCount (s : State) (m : List Host.Cell) : ({ s with mem := m } : State).freeCount = s.freeCount := rfl
theorem State.with_mem_pending (s : State) (m : List Host.Cell) : ({ s with mem := m } : State).pending = s.pending := rfl

/-! ### What `setCore` leaves -/

@[simp] theorem State.setCore_mem (s : State) (c : Nat) (v : Core) : (s.setCore c v).mem = s.mem := rfl
@[simp] theorem State.setCore_poison (s : State) (c : Nat) (v : Core) : (s.setCore c v).poison = s.poison := rfl
@[simp] theorem State.setCore_ocUnder (s : State) (c : Nat) (v : Core) : (s.setCore c v).ocUnder = s.ocUnder := rfl
@[simp] theorem State.setCore_l2Under (s : State) (c : Nat) (v : Core) : (s.setCore c v).l2Under = s.l2Under := rfl
@[simp] theorem State.setCore_l2 (s : State) (c : Nat) (v : Core) : (s.setCore c v).l2 = s.l2 := rfl
@[simp] theorem State.setCore_l2Lines (s : State) (c : Nat) (v : Core) : (s.setCore c v).l2Lines = s.l2Lines := rfl
@[simp] theorem State.setCore_l2Queue (s : State) (c : Nat) (v : Core) : (s.setCore c v).l2Queue = s.l2Queue := rfl
@[simp] theorem State.setCore_dir (s : State) (c : Nat) (v : Core) : (s.setCore c v).dir = s.dir := rfl
@[simp] theorem State.setCore_ctxStore (s : State) (c : Nat) (v : Core) : (s.setCore c v).ctxStore = s.ctxStore := rfl
@[simp] theorem State.setCore_aux (s : State) (c : Nat) (v : Core) : (s.setCore c v).aux = s.aux := rfl
@[simp] theorem State.setCore_ventRam (s : State) (c : Nat) (v : Core) : (s.setCore c v).ventRam = s.ventRam := rfl
@[simp] theorem State.setCore_order (s : State) (c : Nat) (v : Core) : (s.setCore c v).order = s.order := rfl
@[simp] theorem State.setCore_channels (s : State) (c : Nat) (v : Core) : (s.setCore c v).channels = s.channels := rfl
@[simp] theorem State.setCore_collQ (s : State) (c : Nat) (v : Core) : (s.setCore c v).collQ = s.collQ := rfl
@[simp] theorem State.setCore_ports (s : State) (c : Nat) (v : Core) : (s.setCore c v).ports = s.ports := rfl
@[simp] theorem State.setCore_collCycle (s : State) (c : Nat) (v : Core) : (s.setCore c v).collCycle = s.collCycle := rfl
@[simp] theorem State.setCore_heads (s : State) (c : Nat) (v : Core) : (s.setCore c v).heads = s.heads := rfl
@[simp] theorem State.setCore_linkWait (s : State) (c : Nat) (v : Core) : (s.setCore c v).linkWait = s.linkWait := rfl
@[simp] theorem State.setCore_heap (s : State) (c : Nat) (v : Core) : (s.setCore c v).heap = s.heap := rfl
@[simp] theorem State.setCore_geysers (s : State) (c : Nat) (v : Core) : (s.setCore c v).geysers = s.geysers := rfl
@[simp] theorem State.setCore_ingest (s : State) (c : Nat) (v : Core) : (s.setCore c v).ingest = s.ingest := rfl
@[simp] theorem State.setCore_links (s : State) (c : Nat) (v : Core) : (s.setCore c v).links = s.links := rfl
@[simp] theorem State.setCore_time (s : State) (c : Nat) (v : Core) : (s.setCore c v).time = s.time := rfl
@[simp] theorem State.setCore_jr (s : State) (c : Nat) (v : Core) : (s.setCore c v).jr = s.jr := rfl
@[simp] theorem State.setCore_funcs (s : State) (c : Nat) (v : Core) : (s.setCore c v).funcs = s.funcs := rfl
@[simp] theorem State.setCore_dma (s : State) (c : Nat) (v : Core) : (s.setCore c v).dma = s.dma := rfl
@[simp] theorem State.setCore_dmaQ (s : State) (c : Nat) (v : Core) : (s.setCore c v).dmaQ = s.dmaQ := rfl
@[simp] theorem State.setCore_dict (s : State) (c : Nat) (v : Core) : (s.setCore c v).dict = s.dict := rfl
@[simp] theorem State.setCore_panel (s : State) (c : Nat) (v : Core) : (s.setCore c v).panel = s.panel := rfl
@[simp] theorem State.setCore_power (s : State) (c : Nat) (v : Core) : (s.setCore c v).power = s.power := rfl
@[simp] theorem State.setCore_dep (s : State) (c : Nat) (v : Core) : (s.setCore c v).dep = s.dep := rfl
@[simp] theorem State.setCore_boot (s : State) (c : Nat) (v : Core) : (s.setCore c v).boot = s.boot := rfl
@[simp] theorem State.setCore_dbg (s : State) (c : Nat) (v : Core) : (s.setCore c v).dbg = s.dbg := rfl
@[simp] theorem State.setCore_out (s : State) (c : Nat) (v : Core) : (s.setCore c v).out = s.out := rfl
@[simp] theorem State.setCore_freeCount (s : State) (c : Nat) (v : Core) : (s.setCore c v).freeCount = s.freeCount := rfl
@[simp] theorem State.setCore_pending (s : State) (c : Nat) (v : Core) : (s.setCore c v).pending = s.pending := rfl

/-! ### What `modCore` leaves -/

@[simp] theorem State.modCore_mem (s : State) (c : Nat) (f : Core → Core) : (s.modCore c f).mem = s.mem := rfl
@[simp] theorem State.modCore_poison (s : State) (c : Nat) (f : Core → Core) : (s.modCore c f).poison = s.poison := rfl
@[simp] theorem State.modCore_ocUnder (s : State) (c : Nat) (f : Core → Core) : (s.modCore c f).ocUnder = s.ocUnder := rfl
@[simp] theorem State.modCore_l2Under (s : State) (c : Nat) (f : Core → Core) : (s.modCore c f).l2Under = s.l2Under := rfl
@[simp] theorem State.modCore_l2 (s : State) (c : Nat) (f : Core → Core) : (s.modCore c f).l2 = s.l2 := rfl
@[simp] theorem State.modCore_l2Lines (s : State) (c : Nat) (f : Core → Core) : (s.modCore c f).l2Lines = s.l2Lines := rfl
@[simp] theorem State.modCore_l2Queue (s : State) (c : Nat) (f : Core → Core) : (s.modCore c f).l2Queue = s.l2Queue := rfl
@[simp] theorem State.modCore_dir (s : State) (c : Nat) (f : Core → Core) : (s.modCore c f).dir = s.dir := rfl
@[simp] theorem State.modCore_ctxStore (s : State) (c : Nat) (f : Core → Core) : (s.modCore c f).ctxStore = s.ctxStore := rfl
@[simp] theorem State.modCore_aux (s : State) (c : Nat) (f : Core → Core) : (s.modCore c f).aux = s.aux := rfl
@[simp] theorem State.modCore_ventRam (s : State) (c : Nat) (f : Core → Core) : (s.modCore c f).ventRam = s.ventRam := rfl
@[simp] theorem State.modCore_order (s : State) (c : Nat) (f : Core → Core) : (s.modCore c f).order = s.order := rfl
@[simp] theorem State.modCore_channels (s : State) (c : Nat) (f : Core → Core) : (s.modCore c f).channels = s.channels := rfl
@[simp] theorem State.modCore_collQ (s : State) (c : Nat) (f : Core → Core) : (s.modCore c f).collQ = s.collQ := rfl
@[simp] theorem State.modCore_ports (s : State) (c : Nat) (f : Core → Core) : (s.modCore c f).ports = s.ports := rfl
@[simp] theorem State.modCore_collCycle (s : State) (c : Nat) (f : Core → Core) : (s.modCore c f).collCycle = s.collCycle := rfl
@[simp] theorem State.modCore_heads (s : State) (c : Nat) (f : Core → Core) : (s.modCore c f).heads = s.heads := rfl
@[simp] theorem State.modCore_linkWait (s : State) (c : Nat) (f : Core → Core) : (s.modCore c f).linkWait = s.linkWait := rfl
@[simp] theorem State.modCore_heap (s : State) (c : Nat) (f : Core → Core) : (s.modCore c f).heap = s.heap := rfl
@[simp] theorem State.modCore_geysers (s : State) (c : Nat) (f : Core → Core) : (s.modCore c f).geysers = s.geysers := rfl
@[simp] theorem State.modCore_ingest (s : State) (c : Nat) (f : Core → Core) : (s.modCore c f).ingest = s.ingest := rfl
@[simp] theorem State.modCore_links (s : State) (c : Nat) (f : Core → Core) : (s.modCore c f).links = s.links := rfl
@[simp] theorem State.modCore_time (s : State) (c : Nat) (f : Core → Core) : (s.modCore c f).time = s.time := rfl
@[simp] theorem State.modCore_jr (s : State) (c : Nat) (f : Core → Core) : (s.modCore c f).jr = s.jr := rfl
@[simp] theorem State.modCore_funcs (s : State) (c : Nat) (f : Core → Core) : (s.modCore c f).funcs = s.funcs := rfl
@[simp] theorem State.modCore_dma (s : State) (c : Nat) (f : Core → Core) : (s.modCore c f).dma = s.dma := rfl
@[simp] theorem State.modCore_dmaQ (s : State) (c : Nat) (f : Core → Core) : (s.modCore c f).dmaQ = s.dmaQ := rfl
@[simp] theorem State.modCore_dict (s : State) (c : Nat) (f : Core → Core) : (s.modCore c f).dict = s.dict := rfl
@[simp] theorem State.modCore_panel (s : State) (c : Nat) (f : Core → Core) : (s.modCore c f).panel = s.panel := rfl
@[simp] theorem State.modCore_power (s : State) (c : Nat) (f : Core → Core) : (s.modCore c f).power = s.power := rfl
@[simp] theorem State.modCore_dep (s : State) (c : Nat) (f : Core → Core) : (s.modCore c f).dep = s.dep := rfl
@[simp] theorem State.modCore_boot (s : State) (c : Nat) (f : Core → Core) : (s.modCore c f).boot = s.boot := rfl
@[simp] theorem State.modCore_dbg (s : State) (c : Nat) (f : Core → Core) : (s.modCore c f).dbg = s.dbg := rfl
@[simp] theorem State.modCore_out (s : State) (c : Nat) (f : Core → Core) : (s.modCore c f).out = s.out := rfl
@[simp] theorem State.modCore_freeCount (s : State) (c : Nat) (f : Core → Core) : (s.modCore c f).freeCount = s.freeCount := rfl
@[simp] theorem State.modCore_pending (s : State) (c : Nat) (f : Core → Core) : (s.modCore c f).pending = s.pending := rfl

/-! ### What `setSlot` leaves -/

@[simp] theorem State.setSlot_mem (s : State) (q : Cx) (v : Slot) : (s.setSlot q v).mem = s.mem := rfl
@[simp] theorem State.setSlot_poison (s : State) (q : Cx) (v : Slot) : (s.setSlot q v).poison = s.poison := rfl
@[simp] theorem State.setSlot_ocUnder (s : State) (q : Cx) (v : Slot) : (s.setSlot q v).ocUnder = s.ocUnder := rfl
@[simp] theorem State.setSlot_l2Under (s : State) (q : Cx) (v : Slot) : (s.setSlot q v).l2Under = s.l2Under := rfl
@[simp] theorem State.setSlot_l2 (s : State) (q : Cx) (v : Slot) : (s.setSlot q v).l2 = s.l2 := rfl
@[simp] theorem State.setSlot_l2Lines (s : State) (q : Cx) (v : Slot) : (s.setSlot q v).l2Lines = s.l2Lines := rfl
@[simp] theorem State.setSlot_l2Queue (s : State) (q : Cx) (v : Slot) : (s.setSlot q v).l2Queue = s.l2Queue := rfl
@[simp] theorem State.setSlot_dir (s : State) (q : Cx) (v : Slot) : (s.setSlot q v).dir = s.dir := rfl
@[simp] theorem State.setSlot_ctxStore (s : State) (q : Cx) (v : Slot) : (s.setSlot q v).ctxStore = s.ctxStore := rfl
@[simp] theorem State.setSlot_aux (s : State) (q : Cx) (v : Slot) : (s.setSlot q v).aux = s.aux := rfl
@[simp] theorem State.setSlot_ventRam (s : State) (q : Cx) (v : Slot) : (s.setSlot q v).ventRam = s.ventRam := rfl
@[simp] theorem State.setSlot_order (s : State) (q : Cx) (v : Slot) : (s.setSlot q v).order = s.order := rfl
@[simp] theorem State.setSlot_channels (s : State) (q : Cx) (v : Slot) : (s.setSlot q v).channels = s.channels := rfl
@[simp] theorem State.setSlot_collQ (s : State) (q : Cx) (v : Slot) : (s.setSlot q v).collQ = s.collQ := rfl
@[simp] theorem State.setSlot_ports (s : State) (q : Cx) (v : Slot) : (s.setSlot q v).ports = s.ports := rfl
@[simp] theorem State.setSlot_collCycle (s : State) (q : Cx) (v : Slot) : (s.setSlot q v).collCycle = s.collCycle := rfl
@[simp] theorem State.setSlot_heads (s : State) (q : Cx) (v : Slot) : (s.setSlot q v).heads = s.heads := rfl
@[simp] theorem State.setSlot_linkWait (s : State) (q : Cx) (v : Slot) : (s.setSlot q v).linkWait = s.linkWait := rfl
@[simp] theorem State.setSlot_heap (s : State) (q : Cx) (v : Slot) : (s.setSlot q v).heap = s.heap := rfl
@[simp] theorem State.setSlot_geysers (s : State) (q : Cx) (v : Slot) : (s.setSlot q v).geysers = s.geysers := rfl
@[simp] theorem State.setSlot_ingest (s : State) (q : Cx) (v : Slot) : (s.setSlot q v).ingest = s.ingest := rfl
@[simp] theorem State.setSlot_links (s : State) (q : Cx) (v : Slot) : (s.setSlot q v).links = s.links := rfl
@[simp] theorem State.setSlot_time (s : State) (q : Cx) (v : Slot) : (s.setSlot q v).time = s.time := rfl
@[simp] theorem State.setSlot_jr (s : State) (q : Cx) (v : Slot) : (s.setSlot q v).jr = s.jr := rfl
@[simp] theorem State.setSlot_funcs (s : State) (q : Cx) (v : Slot) : (s.setSlot q v).funcs = s.funcs := rfl
@[simp] theorem State.setSlot_dma (s : State) (q : Cx) (v : Slot) : (s.setSlot q v).dma = s.dma := rfl
@[simp] theorem State.setSlot_dmaQ (s : State) (q : Cx) (v : Slot) : (s.setSlot q v).dmaQ = s.dmaQ := rfl
@[simp] theorem State.setSlot_dict (s : State) (q : Cx) (v : Slot) : (s.setSlot q v).dict = s.dict := rfl
@[simp] theorem State.setSlot_panel (s : State) (q : Cx) (v : Slot) : (s.setSlot q v).panel = s.panel := rfl
@[simp] theorem State.setSlot_power (s : State) (q : Cx) (v : Slot) : (s.setSlot q v).power = s.power := rfl
@[simp] theorem State.setSlot_dep (s : State) (q : Cx) (v : Slot) : (s.setSlot q v).dep = s.dep := rfl
@[simp] theorem State.setSlot_boot (s : State) (q : Cx) (v : Slot) : (s.setSlot q v).boot = s.boot := rfl
@[simp] theorem State.setSlot_dbg (s : State) (q : Cx) (v : Slot) : (s.setSlot q v).dbg = s.dbg := rfl
@[simp] theorem State.setSlot_out (s : State) (q : Cx) (v : Slot) : (s.setSlot q v).out = s.out := rfl
@[simp] theorem State.setSlot_freeCount (s : State) (q : Cx) (v : Slot) : (s.setSlot q v).freeCount = s.freeCount := rfl
@[simp] theorem State.setSlot_pending (s : State) (q : Cx) (v : Slot) : (s.setSlot q v).pending = s.pending := rfl

/-! ### What `modSlot` leaves -/

@[simp] theorem State.modSlot_mem (s : State) (q : Cx) (f : Slot → Slot) : (s.modSlot q f).mem = s.mem := rfl
@[simp] theorem State.modSlot_poison (s : State) (q : Cx) (f : Slot → Slot) : (s.modSlot q f).poison = s.poison := rfl
@[simp] theorem State.modSlot_ocUnder (s : State) (q : Cx) (f : Slot → Slot) : (s.modSlot q f).ocUnder = s.ocUnder := rfl
@[simp] theorem State.modSlot_l2Under (s : State) (q : Cx) (f : Slot → Slot) : (s.modSlot q f).l2Under = s.l2Under := rfl
@[simp] theorem State.modSlot_l2 (s : State) (q : Cx) (f : Slot → Slot) : (s.modSlot q f).l2 = s.l2 := rfl
@[simp] theorem State.modSlot_l2Lines (s : State) (q : Cx) (f : Slot → Slot) : (s.modSlot q f).l2Lines = s.l2Lines := rfl
@[simp] theorem State.modSlot_l2Queue (s : State) (q : Cx) (f : Slot → Slot) : (s.modSlot q f).l2Queue = s.l2Queue := rfl
@[simp] theorem State.modSlot_dir (s : State) (q : Cx) (f : Slot → Slot) : (s.modSlot q f).dir = s.dir := rfl
@[simp] theorem State.modSlot_ctxStore (s : State) (q : Cx) (f : Slot → Slot) : (s.modSlot q f).ctxStore = s.ctxStore := rfl
@[simp] theorem State.modSlot_aux (s : State) (q : Cx) (f : Slot → Slot) : (s.modSlot q f).aux = s.aux := rfl
@[simp] theorem State.modSlot_ventRam (s : State) (q : Cx) (f : Slot → Slot) : (s.modSlot q f).ventRam = s.ventRam := rfl
@[simp] theorem State.modSlot_order (s : State) (q : Cx) (f : Slot → Slot) : (s.modSlot q f).order = s.order := rfl
@[simp] theorem State.modSlot_channels (s : State) (q : Cx) (f : Slot → Slot) : (s.modSlot q f).channels = s.channels := rfl
@[simp] theorem State.modSlot_collQ (s : State) (q : Cx) (f : Slot → Slot) : (s.modSlot q f).collQ = s.collQ := rfl
@[simp] theorem State.modSlot_ports (s : State) (q : Cx) (f : Slot → Slot) : (s.modSlot q f).ports = s.ports := rfl
@[simp] theorem State.modSlot_collCycle (s : State) (q : Cx) (f : Slot → Slot) : (s.modSlot q f).collCycle = s.collCycle := rfl
@[simp] theorem State.modSlot_heads (s : State) (q : Cx) (f : Slot → Slot) : (s.modSlot q f).heads = s.heads := rfl
@[simp] theorem State.modSlot_linkWait (s : State) (q : Cx) (f : Slot → Slot) : (s.modSlot q f).linkWait = s.linkWait := rfl
@[simp] theorem State.modSlot_heap (s : State) (q : Cx) (f : Slot → Slot) : (s.modSlot q f).heap = s.heap := rfl
@[simp] theorem State.modSlot_geysers (s : State) (q : Cx) (f : Slot → Slot) : (s.modSlot q f).geysers = s.geysers := rfl
@[simp] theorem State.modSlot_ingest (s : State) (q : Cx) (f : Slot → Slot) : (s.modSlot q f).ingest = s.ingest := rfl
@[simp] theorem State.modSlot_links (s : State) (q : Cx) (f : Slot → Slot) : (s.modSlot q f).links = s.links := rfl
@[simp] theorem State.modSlot_time (s : State) (q : Cx) (f : Slot → Slot) : (s.modSlot q f).time = s.time := rfl
@[simp] theorem State.modSlot_jr (s : State) (q : Cx) (f : Slot → Slot) : (s.modSlot q f).jr = s.jr := rfl
@[simp] theorem State.modSlot_funcs (s : State) (q : Cx) (f : Slot → Slot) : (s.modSlot q f).funcs = s.funcs := rfl
@[simp] theorem State.modSlot_dma (s : State) (q : Cx) (f : Slot → Slot) : (s.modSlot q f).dma = s.dma := rfl
@[simp] theorem State.modSlot_dmaQ (s : State) (q : Cx) (f : Slot → Slot) : (s.modSlot q f).dmaQ = s.dmaQ := rfl
@[simp] theorem State.modSlot_dict (s : State) (q : Cx) (f : Slot → Slot) : (s.modSlot q f).dict = s.dict := rfl
@[simp] theorem State.modSlot_panel (s : State) (q : Cx) (f : Slot → Slot) : (s.modSlot q f).panel = s.panel := rfl
@[simp] theorem State.modSlot_power (s : State) (q : Cx) (f : Slot → Slot) : (s.modSlot q f).power = s.power := rfl
@[simp] theorem State.modSlot_dep (s : State) (q : Cx) (f : Slot → Slot) : (s.modSlot q f).dep = s.dep := rfl
@[simp] theorem State.modSlot_boot (s : State) (q : Cx) (f : Slot → Slot) : (s.modSlot q f).boot = s.boot := rfl
@[simp] theorem State.modSlot_dbg (s : State) (q : Cx) (f : Slot → Slot) : (s.modSlot q f).dbg = s.dbg := rfl
@[simp] theorem State.modSlot_out (s : State) (q : Cx) (f : Slot → Slot) : (s.modSlot q f).out = s.out := rfl
@[simp] theorem State.modSlot_freeCount (s : State) (q : Cx) (f : Slot → Slot) : (s.modSlot q f).freeCount = s.freeCount := rfl
@[simp] theorem State.modSlot_pending (s : State) (q : Cx) (f : Slot → Slot) : (s.modSlot q f).pending = s.pending := rfl

/-! ### What `setRegs` leaves -/

@[simp] theorem State.setRegs_mem (s : State) (q : Cx) (r : Regs) : (s.setRegs q r).mem = s.mem := rfl
@[simp] theorem State.setRegs_poison (s : State) (q : Cx) (r : Regs) : (s.setRegs q r).poison = s.poison := rfl
@[simp] theorem State.setRegs_ocUnder (s : State) (q : Cx) (r : Regs) : (s.setRegs q r).ocUnder = s.ocUnder := rfl
@[simp] theorem State.setRegs_l2Under (s : State) (q : Cx) (r : Regs) : (s.setRegs q r).l2Under = s.l2Under := rfl
@[simp] theorem State.setRegs_l2 (s : State) (q : Cx) (r : Regs) : (s.setRegs q r).l2 = s.l2 := rfl
@[simp] theorem State.setRegs_l2Lines (s : State) (q : Cx) (r : Regs) : (s.setRegs q r).l2Lines = s.l2Lines := rfl
@[simp] theorem State.setRegs_l2Queue (s : State) (q : Cx) (r : Regs) : (s.setRegs q r).l2Queue = s.l2Queue := rfl
@[simp] theorem State.setRegs_dir (s : State) (q : Cx) (r : Regs) : (s.setRegs q r).dir = s.dir := rfl
@[simp] theorem State.setRegs_ctxStore (s : State) (q : Cx) (r : Regs) : (s.setRegs q r).ctxStore = s.ctxStore := rfl
@[simp] theorem State.setRegs_aux (s : State) (q : Cx) (r : Regs) : (s.setRegs q r).aux = s.aux := rfl
@[simp] theorem State.setRegs_ventRam (s : State) (q : Cx) (r : Regs) : (s.setRegs q r).ventRam = s.ventRam := rfl
@[simp] theorem State.setRegs_order (s : State) (q : Cx) (r : Regs) : (s.setRegs q r).order = s.order := rfl
@[simp] theorem State.setRegs_channels (s : State) (q : Cx) (r : Regs) : (s.setRegs q r).channels = s.channels := rfl
@[simp] theorem State.setRegs_collQ (s : State) (q : Cx) (r : Regs) : (s.setRegs q r).collQ = s.collQ := rfl
@[simp] theorem State.setRegs_ports (s : State) (q : Cx) (r : Regs) : (s.setRegs q r).ports = s.ports := rfl
@[simp] theorem State.setRegs_collCycle (s : State) (q : Cx) (r : Regs) : (s.setRegs q r).collCycle = s.collCycle := rfl
@[simp] theorem State.setRegs_heads (s : State) (q : Cx) (r : Regs) : (s.setRegs q r).heads = s.heads := rfl
@[simp] theorem State.setRegs_linkWait (s : State) (q : Cx) (r : Regs) : (s.setRegs q r).linkWait = s.linkWait := rfl
@[simp] theorem State.setRegs_heap (s : State) (q : Cx) (r : Regs) : (s.setRegs q r).heap = s.heap := rfl
@[simp] theorem State.setRegs_geysers (s : State) (q : Cx) (r : Regs) : (s.setRegs q r).geysers = s.geysers := rfl
@[simp] theorem State.setRegs_ingest (s : State) (q : Cx) (r : Regs) : (s.setRegs q r).ingest = s.ingest := rfl
@[simp] theorem State.setRegs_links (s : State) (q : Cx) (r : Regs) : (s.setRegs q r).links = s.links := rfl
@[simp] theorem State.setRegs_time (s : State) (q : Cx) (r : Regs) : (s.setRegs q r).time = s.time := rfl
@[simp] theorem State.setRegs_jr (s : State) (q : Cx) (r : Regs) : (s.setRegs q r).jr = s.jr := rfl
@[simp] theorem State.setRegs_funcs (s : State) (q : Cx) (r : Regs) : (s.setRegs q r).funcs = s.funcs := rfl
@[simp] theorem State.setRegs_dma (s : State) (q : Cx) (r : Regs) : (s.setRegs q r).dma = s.dma := rfl
@[simp] theorem State.setRegs_dmaQ (s : State) (q : Cx) (r : Regs) : (s.setRegs q r).dmaQ = s.dmaQ := rfl
@[simp] theorem State.setRegs_dict (s : State) (q : Cx) (r : Regs) : (s.setRegs q r).dict = s.dict := rfl
@[simp] theorem State.setRegs_panel (s : State) (q : Cx) (r : Regs) : (s.setRegs q r).panel = s.panel := rfl
@[simp] theorem State.setRegs_power (s : State) (q : Cx) (r : Regs) : (s.setRegs q r).power = s.power := rfl
@[simp] theorem State.setRegs_dep (s : State) (q : Cx) (r : Regs) : (s.setRegs q r).dep = s.dep := rfl
@[simp] theorem State.setRegs_boot (s : State) (q : Cx) (r : Regs) : (s.setRegs q r).boot = s.boot := rfl
@[simp] theorem State.setRegs_dbg (s : State) (q : Cx) (r : Regs) : (s.setRegs q r).dbg = s.dbg := rfl
@[simp] theorem State.setRegs_out (s : State) (q : Cx) (r : Regs) : (s.setRegs q r).out = s.out := rfl
@[simp] theorem State.setRegs_freeCount (s : State) (q : Cx) (r : Regs) : (s.setRegs q r).freeCount = s.freeCount := rfl
@[simp] theorem State.setRegs_pending (s : State) (q : Cx) (r : Regs) : (s.setRegs q r).pending = s.pending := rfl

/-! ### What `modRegs` leaves -/

@[simp] theorem State.modRegs_mem (s : State) (q : Cx) (f : Regs → Regs) : (s.modRegs q f).mem = s.mem := rfl
@[simp] theorem State.modRegs_poison (s : State) (q : Cx) (f : Regs → Regs) : (s.modRegs q f).poison = s.poison := rfl
@[simp] theorem State.modRegs_ocUnder (s : State) (q : Cx) (f : Regs → Regs) : (s.modRegs q f).ocUnder = s.ocUnder := rfl
@[simp] theorem State.modRegs_l2Under (s : State) (q : Cx) (f : Regs → Regs) : (s.modRegs q f).l2Under = s.l2Under := rfl
@[simp] theorem State.modRegs_l2 (s : State) (q : Cx) (f : Regs → Regs) : (s.modRegs q f).l2 = s.l2 := rfl
@[simp] theorem State.modRegs_l2Lines (s : State) (q : Cx) (f : Regs → Regs) : (s.modRegs q f).l2Lines = s.l2Lines := rfl
@[simp] theorem State.modRegs_l2Queue (s : State) (q : Cx) (f : Regs → Regs) : (s.modRegs q f).l2Queue = s.l2Queue := rfl
@[simp] theorem State.modRegs_dir (s : State) (q : Cx) (f : Regs → Regs) : (s.modRegs q f).dir = s.dir := rfl
@[simp] theorem State.modRegs_ctxStore (s : State) (q : Cx) (f : Regs → Regs) : (s.modRegs q f).ctxStore = s.ctxStore := rfl
@[simp] theorem State.modRegs_aux (s : State) (q : Cx) (f : Regs → Regs) : (s.modRegs q f).aux = s.aux := rfl
@[simp] theorem State.modRegs_ventRam (s : State) (q : Cx) (f : Regs → Regs) : (s.modRegs q f).ventRam = s.ventRam := rfl
@[simp] theorem State.modRegs_order (s : State) (q : Cx) (f : Regs → Regs) : (s.modRegs q f).order = s.order := rfl
@[simp] theorem State.modRegs_channels (s : State) (q : Cx) (f : Regs → Regs) : (s.modRegs q f).channels = s.channels := rfl
@[simp] theorem State.modRegs_collQ (s : State) (q : Cx) (f : Regs → Regs) : (s.modRegs q f).collQ = s.collQ := rfl
@[simp] theorem State.modRegs_ports (s : State) (q : Cx) (f : Regs → Regs) : (s.modRegs q f).ports = s.ports := rfl
@[simp] theorem State.modRegs_collCycle (s : State) (q : Cx) (f : Regs → Regs) : (s.modRegs q f).collCycle = s.collCycle := rfl
@[simp] theorem State.modRegs_heads (s : State) (q : Cx) (f : Regs → Regs) : (s.modRegs q f).heads = s.heads := rfl
@[simp] theorem State.modRegs_linkWait (s : State) (q : Cx) (f : Regs → Regs) : (s.modRegs q f).linkWait = s.linkWait := rfl
@[simp] theorem State.modRegs_heap (s : State) (q : Cx) (f : Regs → Regs) : (s.modRegs q f).heap = s.heap := rfl
@[simp] theorem State.modRegs_geysers (s : State) (q : Cx) (f : Regs → Regs) : (s.modRegs q f).geysers = s.geysers := rfl
@[simp] theorem State.modRegs_ingest (s : State) (q : Cx) (f : Regs → Regs) : (s.modRegs q f).ingest = s.ingest := rfl
@[simp] theorem State.modRegs_links (s : State) (q : Cx) (f : Regs → Regs) : (s.modRegs q f).links = s.links := rfl
@[simp] theorem State.modRegs_time (s : State) (q : Cx) (f : Regs → Regs) : (s.modRegs q f).time = s.time := rfl
@[simp] theorem State.modRegs_jr (s : State) (q : Cx) (f : Regs → Regs) : (s.modRegs q f).jr = s.jr := rfl
@[simp] theorem State.modRegs_funcs (s : State) (q : Cx) (f : Regs → Regs) : (s.modRegs q f).funcs = s.funcs := rfl
@[simp] theorem State.modRegs_dma (s : State) (q : Cx) (f : Regs → Regs) : (s.modRegs q f).dma = s.dma := rfl
@[simp] theorem State.modRegs_dmaQ (s : State) (q : Cx) (f : Regs → Regs) : (s.modRegs q f).dmaQ = s.dmaQ := rfl
@[simp] theorem State.modRegs_dict (s : State) (q : Cx) (f : Regs → Regs) : (s.modRegs q f).dict = s.dict := rfl
@[simp] theorem State.modRegs_panel (s : State) (q : Cx) (f : Regs → Regs) : (s.modRegs q f).panel = s.panel := rfl
@[simp] theorem State.modRegs_power (s : State) (q : Cx) (f : Regs → Regs) : (s.modRegs q f).power = s.power := rfl
@[simp] theorem State.modRegs_dep (s : State) (q : Cx) (f : Regs → Regs) : (s.modRegs q f).dep = s.dep := rfl
@[simp] theorem State.modRegs_boot (s : State) (q : Cx) (f : Regs → Regs) : (s.modRegs q f).boot = s.boot := rfl
@[simp] theorem State.modRegs_dbg (s : State) (q : Cx) (f : Regs → Regs) : (s.modRegs q f).dbg = s.dbg := rfl
@[simp] theorem State.modRegs_out (s : State) (q : Cx) (f : Regs → Regs) : (s.modRegs q f).out = s.out := rfl
@[simp] theorem State.modRegs_freeCount (s : State) (q : Cx) (f : Regs → Regs) : (s.modRegs q f).freeCount = s.freeCount := rfl
@[simp] theorem State.modRegs_pending (s : State) (q : Cx) (f : Regs → Regs) : (s.modRegs q f).pending = s.pending := rfl

/-! ### What `moveTo` leaves -/

@[simp] theorem State.moveTo_mem (s : State) (q : Cx) (a : Nat) : (s.moveTo q a).mem = s.mem := rfl
@[simp] theorem State.moveTo_poison (s : State) (q : Cx) (a : Nat) : (s.moveTo q a).poison = s.poison := rfl
@[simp] theorem State.moveTo_ocUnder (s : State) (q : Cx) (a : Nat) : (s.moveTo q a).ocUnder = s.ocUnder := rfl
@[simp] theorem State.moveTo_l2Under (s : State) (q : Cx) (a : Nat) : (s.moveTo q a).l2Under = s.l2Under := rfl
@[simp] theorem State.moveTo_l2 (s : State) (q : Cx) (a : Nat) : (s.moveTo q a).l2 = s.l2 := rfl
@[simp] theorem State.moveTo_l2Lines (s : State) (q : Cx) (a : Nat) : (s.moveTo q a).l2Lines = s.l2Lines := rfl
@[simp] theorem State.moveTo_l2Queue (s : State) (q : Cx) (a : Nat) : (s.moveTo q a).l2Queue = s.l2Queue := rfl
@[simp] theorem State.moveTo_dir (s : State) (q : Cx) (a : Nat) : (s.moveTo q a).dir = s.dir := rfl
@[simp] theorem State.moveTo_ctxStore (s : State) (q : Cx) (a : Nat) : (s.moveTo q a).ctxStore = s.ctxStore := rfl
@[simp] theorem State.moveTo_aux (s : State) (q : Cx) (a : Nat) : (s.moveTo q a).aux = s.aux := rfl
@[simp] theorem State.moveTo_ventRam (s : State) (q : Cx) (a : Nat) : (s.moveTo q a).ventRam = s.ventRam := rfl
@[simp] theorem State.moveTo_order (s : State) (q : Cx) (a : Nat) : (s.moveTo q a).order = s.order := rfl
@[simp] theorem State.moveTo_channels (s : State) (q : Cx) (a : Nat) : (s.moveTo q a).channels = s.channels := rfl
@[simp] theorem State.moveTo_collQ (s : State) (q : Cx) (a : Nat) : (s.moveTo q a).collQ = s.collQ := rfl
@[simp] theorem State.moveTo_ports (s : State) (q : Cx) (a : Nat) : (s.moveTo q a).ports = s.ports := rfl
@[simp] theorem State.moveTo_collCycle (s : State) (q : Cx) (a : Nat) : (s.moveTo q a).collCycle = s.collCycle := rfl
@[simp] theorem State.moveTo_heads (s : State) (q : Cx) (a : Nat) : (s.moveTo q a).heads = s.heads := rfl
@[simp] theorem State.moveTo_linkWait (s : State) (q : Cx) (a : Nat) : (s.moveTo q a).linkWait = s.linkWait := rfl
@[simp] theorem State.moveTo_heap (s : State) (q : Cx) (a : Nat) : (s.moveTo q a).heap = s.heap := rfl
@[simp] theorem State.moveTo_geysers (s : State) (q : Cx) (a : Nat) : (s.moveTo q a).geysers = s.geysers := rfl
@[simp] theorem State.moveTo_ingest (s : State) (q : Cx) (a : Nat) : (s.moveTo q a).ingest = s.ingest := rfl
@[simp] theorem State.moveTo_links (s : State) (q : Cx) (a : Nat) : (s.moveTo q a).links = s.links := rfl
@[simp] theorem State.moveTo_time (s : State) (q : Cx) (a : Nat) : (s.moveTo q a).time = s.time := rfl
@[simp] theorem State.moveTo_jr (s : State) (q : Cx) (a : Nat) : (s.moveTo q a).jr = s.jr := rfl
@[simp] theorem State.moveTo_funcs (s : State) (q : Cx) (a : Nat) : (s.moveTo q a).funcs = s.funcs := rfl
@[simp] theorem State.moveTo_dma (s : State) (q : Cx) (a : Nat) : (s.moveTo q a).dma = s.dma := rfl
@[simp] theorem State.moveTo_dmaQ (s : State) (q : Cx) (a : Nat) : (s.moveTo q a).dmaQ = s.dmaQ := rfl
@[simp] theorem State.moveTo_dict (s : State) (q : Cx) (a : Nat) : (s.moveTo q a).dict = s.dict := rfl
@[simp] theorem State.moveTo_panel (s : State) (q : Cx) (a : Nat) : (s.moveTo q a).panel = s.panel := rfl
@[simp] theorem State.moveTo_power (s : State) (q : Cx) (a : Nat) : (s.moveTo q a).power = s.power := rfl
@[simp] theorem State.moveTo_dep (s : State) (q : Cx) (a : Nat) : (s.moveTo q a).dep = s.dep := rfl
@[simp] theorem State.moveTo_boot (s : State) (q : Cx) (a : Nat) : (s.moveTo q a).boot = s.boot := rfl
@[simp] theorem State.moveTo_dbg (s : State) (q : Cx) (a : Nat) : (s.moveTo q a).dbg = s.dbg := rfl
@[simp] theorem State.moveTo_out (s : State) (q : Cx) (a : Nat) : (s.moveTo q a).out = s.out := rfl
@[simp] theorem State.moveTo_freeCount (s : State) (q : Cx) (a : Nat) : (s.moveTo q a).freeCount = s.freeCount := rfl
@[simp] theorem State.moveTo_pending (s : State) (q : Cx) (a : Nat) : (s.moveTo q a).pending = s.pending := rfl

/-! ### What `setRec` leaves -/

@[simp] theorem State.setRec_mem (s : State) (n c : Nat) (v : Cell) : (s.setRec n c v).mem = s.mem := State.with_ctxStore_mem s _
@[simp] theorem State.setRec_poison (s : State) (n c : Nat) (v : Cell) : (s.setRec n c v).poison = s.poison := State.with_ctxStore_poison s _
@[simp] theorem State.setRec_ocUnder (s : State) (n c : Nat) (v : Cell) : (s.setRec n c v).ocUnder = s.ocUnder := State.with_ctxStore_ocUnder s _
@[simp] theorem State.setRec_l2Under (s : State) (n c : Nat) (v : Cell) : (s.setRec n c v).l2Under = s.l2Under := State.with_ctxStore_l2Under s _
@[simp] theorem State.setRec_l2 (s : State) (n c : Nat) (v : Cell) : (s.setRec n c v).l2 = s.l2 := State.with_ctxStore_l2 s _
@[simp] theorem State.setRec_l2Lines (s : State) (n c : Nat) (v : Cell) : (s.setRec n c v).l2Lines = s.l2Lines := State.with_ctxStore_l2Lines s _
@[simp] theorem State.setRec_l2Queue (s : State) (n c : Nat) (v : Cell) : (s.setRec n c v).l2Queue = s.l2Queue := State.with_ctxStore_l2Queue s _
@[simp] theorem State.setRec_dir (s : State) (n c : Nat) (v : Cell) : (s.setRec n c v).dir = s.dir := State.with_ctxStore_dir s _
@[simp] theorem State.setRec_aux (s : State) (n c : Nat) (v : Cell) : (s.setRec n c v).aux = s.aux := State.with_ctxStore_aux s _
@[simp] theorem State.setRec_ventRam (s : State) (n c : Nat) (v : Cell) : (s.setRec n c v).ventRam = s.ventRam := State.with_ctxStore_ventRam s _
@[simp] theorem State.setRec_cores (s : State) (n c : Nat) (v : Cell) : (s.setRec n c v).cores = s.cores := State.with_ctxStore_cores s _
@[simp] theorem State.setRec_order (s : State) (n c : Nat) (v : Cell) : (s.setRec n c v).order = s.order := State.with_ctxStore_order s _
@[simp] theorem State.setRec_channels (s : State) (n c : Nat) (v : Cell) : (s.setRec n c v).channels = s.channels := State.with_ctxStore_channels s _
@[simp] theorem State.setRec_collQ (s : State) (n c : Nat) (v : Cell) : (s.setRec n c v).collQ = s.collQ := State.with_ctxStore_collQ s _
@[simp] theorem State.setRec_ports (s : State) (n c : Nat) (v : Cell) : (s.setRec n c v).ports = s.ports := State.with_ctxStore_ports s _
@[simp] theorem State.setRec_collCycle (s : State) (n c : Nat) (v : Cell) : (s.setRec n c v).collCycle = s.collCycle := State.with_ctxStore_collCycle s _
@[simp] theorem State.setRec_heads (s : State) (n c : Nat) (v : Cell) : (s.setRec n c v).heads = s.heads := State.with_ctxStore_heads s _
@[simp] theorem State.setRec_linkWait (s : State) (n c : Nat) (v : Cell) : (s.setRec n c v).linkWait = s.linkWait := State.with_ctxStore_linkWait s _
@[simp] theorem State.setRec_heap (s : State) (n c : Nat) (v : Cell) : (s.setRec n c v).heap = s.heap := State.with_ctxStore_heap s _
@[simp] theorem State.setRec_geysers (s : State) (n c : Nat) (v : Cell) : (s.setRec n c v).geysers = s.geysers := State.with_ctxStore_geysers s _
@[simp] theorem State.setRec_ingest (s : State) (n c : Nat) (v : Cell) : (s.setRec n c v).ingest = s.ingest := State.with_ctxStore_ingest s _
@[simp] theorem State.setRec_links (s : State) (n c : Nat) (v : Cell) : (s.setRec n c v).links = s.links := State.with_ctxStore_links s _
@[simp] theorem State.setRec_time (s : State) (n c : Nat) (v : Cell) : (s.setRec n c v).time = s.time := State.with_ctxStore_time s _
@[simp] theorem State.setRec_jr (s : State) (n c : Nat) (v : Cell) : (s.setRec n c v).jr = s.jr := State.with_ctxStore_jr s _
@[simp] theorem State.setRec_funcs (s : State) (n c : Nat) (v : Cell) : (s.setRec n c v).funcs = s.funcs := State.with_ctxStore_funcs s _
@[simp] theorem State.setRec_dma (s : State) (n c : Nat) (v : Cell) : (s.setRec n c v).dma = s.dma := State.with_ctxStore_dma s _
@[simp] theorem State.setRec_dmaQ (s : State) (n c : Nat) (v : Cell) : (s.setRec n c v).dmaQ = s.dmaQ := State.with_ctxStore_dmaQ s _
@[simp] theorem State.setRec_dict (s : State) (n c : Nat) (v : Cell) : (s.setRec n c v).dict = s.dict := State.with_ctxStore_dict s _
@[simp] theorem State.setRec_panel (s : State) (n c : Nat) (v : Cell) : (s.setRec n c v).panel = s.panel := State.with_ctxStore_panel s _
@[simp] theorem State.setRec_power (s : State) (n c : Nat) (v : Cell) : (s.setRec n c v).power = s.power := State.with_ctxStore_power s _
@[simp] theorem State.setRec_dep (s : State) (n c : Nat) (v : Cell) : (s.setRec n c v).dep = s.dep := State.with_ctxStore_dep s _
@[simp] theorem State.setRec_boot (s : State) (n c : Nat) (v : Cell) : (s.setRec n c v).boot = s.boot := State.with_ctxStore_boot s _
@[simp] theorem State.setRec_dbg (s : State) (n c : Nat) (v : Cell) : (s.setRec n c v).dbg = s.dbg := State.with_ctxStore_dbg s _
@[simp] theorem State.setRec_out (s : State) (n c : Nat) (v : Cell) : (s.setRec n c v).out = s.out := State.with_ctxStore_out s _
@[simp] theorem State.setRec_freeCount (s : State) (n c : Nat) (v : Cell) : (s.setRec n c v).freeCount = s.freeCount := State.with_ctxStore_freeCount s _
@[simp] theorem State.setRec_pending (s : State) (n c : Nat) (v : Cell) : (s.setRec n c v).pending = s.pending := State.with_ctxStore_pending s _

/-! ### What `setRecField` leaves -/

@[simp] theorem State.setRecField_mem (s : State) (n c hi lo v : Nat) : (s.setRecField n c hi lo v).mem = s.mem := State.with_ctxStore_mem s _
@[simp] theorem State.setRecField_poison (s : State) (n c hi lo v : Nat) : (s.setRecField n c hi lo v).poison = s.poison := State.with_ctxStore_poison s _
@[simp] theorem State.setRecField_ocUnder (s : State) (n c hi lo v : Nat) : (s.setRecField n c hi lo v).ocUnder = s.ocUnder := State.with_ctxStore_ocUnder s _
@[simp] theorem State.setRecField_l2Under (s : State) (n c hi lo v : Nat) : (s.setRecField n c hi lo v).l2Under = s.l2Under := State.with_ctxStore_l2Under s _
@[simp] theorem State.setRecField_l2 (s : State) (n c hi lo v : Nat) : (s.setRecField n c hi lo v).l2 = s.l2 := State.with_ctxStore_l2 s _
@[simp] theorem State.setRecField_l2Lines (s : State) (n c hi lo v : Nat) : (s.setRecField n c hi lo v).l2Lines = s.l2Lines := State.with_ctxStore_l2Lines s _
@[simp] theorem State.setRecField_l2Queue (s : State) (n c hi lo v : Nat) : (s.setRecField n c hi lo v).l2Queue = s.l2Queue := State.with_ctxStore_l2Queue s _
@[simp] theorem State.setRecField_dir (s : State) (n c hi lo v : Nat) : (s.setRecField n c hi lo v).dir = s.dir := State.with_ctxStore_dir s _
@[simp] theorem State.setRecField_aux (s : State) (n c hi lo v : Nat) : (s.setRecField n c hi lo v).aux = s.aux := State.with_ctxStore_aux s _
@[simp] theorem State.setRecField_ventRam (s : State) (n c hi lo v : Nat) : (s.setRecField n c hi lo v).ventRam = s.ventRam := State.with_ctxStore_ventRam s _
@[simp] theorem State.setRecField_cores (s : State) (n c hi lo v : Nat) : (s.setRecField n c hi lo v).cores = s.cores := State.with_ctxStore_cores s _
@[simp] theorem State.setRecField_order (s : State) (n c hi lo v : Nat) : (s.setRecField n c hi lo v).order = s.order := State.with_ctxStore_order s _
@[simp] theorem State.setRecField_channels (s : State) (n c hi lo v : Nat) : (s.setRecField n c hi lo v).channels = s.channels := State.with_ctxStore_channels s _
@[simp] theorem State.setRecField_collQ (s : State) (n c hi lo v : Nat) : (s.setRecField n c hi lo v).collQ = s.collQ := State.with_ctxStore_collQ s _
@[simp] theorem State.setRecField_ports (s : State) (n c hi lo v : Nat) : (s.setRecField n c hi lo v).ports = s.ports := State.with_ctxStore_ports s _
@[simp] theorem State.setRecField_collCycle (s : State) (n c hi lo v : Nat) : (s.setRecField n c hi lo v).collCycle = s.collCycle := State.with_ctxStore_collCycle s _
@[simp] theorem State.setRecField_heads (s : State) (n c hi lo v : Nat) : (s.setRecField n c hi lo v).heads = s.heads := State.with_ctxStore_heads s _
@[simp] theorem State.setRecField_linkWait (s : State) (n c hi lo v : Nat) : (s.setRecField n c hi lo v).linkWait = s.linkWait := State.with_ctxStore_linkWait s _
@[simp] theorem State.setRecField_heap (s : State) (n c hi lo v : Nat) : (s.setRecField n c hi lo v).heap = s.heap := State.with_ctxStore_heap s _
@[simp] theorem State.setRecField_geysers (s : State) (n c hi lo v : Nat) : (s.setRecField n c hi lo v).geysers = s.geysers := State.with_ctxStore_geysers s _
@[simp] theorem State.setRecField_ingest (s : State) (n c hi lo v : Nat) : (s.setRecField n c hi lo v).ingest = s.ingest := State.with_ctxStore_ingest s _
@[simp] theorem State.setRecField_links (s : State) (n c hi lo v : Nat) : (s.setRecField n c hi lo v).links = s.links := State.with_ctxStore_links s _
@[simp] theorem State.setRecField_time (s : State) (n c hi lo v : Nat) : (s.setRecField n c hi lo v).time = s.time := State.with_ctxStore_time s _
@[simp] theorem State.setRecField_jr (s : State) (n c hi lo v : Nat) : (s.setRecField n c hi lo v).jr = s.jr := State.with_ctxStore_jr s _
@[simp] theorem State.setRecField_funcs (s : State) (n c hi lo v : Nat) : (s.setRecField n c hi lo v).funcs = s.funcs := State.with_ctxStore_funcs s _
@[simp] theorem State.setRecField_dma (s : State) (n c hi lo v : Nat) : (s.setRecField n c hi lo v).dma = s.dma := State.with_ctxStore_dma s _
@[simp] theorem State.setRecField_dmaQ (s : State) (n c hi lo v : Nat) : (s.setRecField n c hi lo v).dmaQ = s.dmaQ := State.with_ctxStore_dmaQ s _
@[simp] theorem State.setRecField_dict (s : State) (n c hi lo v : Nat) : (s.setRecField n c hi lo v).dict = s.dict := State.with_ctxStore_dict s _
@[simp] theorem State.setRecField_panel (s : State) (n c hi lo v : Nat) : (s.setRecField n c hi lo v).panel = s.panel := State.with_ctxStore_panel s _
@[simp] theorem State.setRecField_power (s : State) (n c hi lo v : Nat) : (s.setRecField n c hi lo v).power = s.power := State.with_ctxStore_power s _
@[simp] theorem State.setRecField_dep (s : State) (n c hi lo v : Nat) : (s.setRecField n c hi lo v).dep = s.dep := State.with_ctxStore_dep s _
@[simp] theorem State.setRecField_boot (s : State) (n c hi lo v : Nat) : (s.setRecField n c hi lo v).boot = s.boot := State.with_ctxStore_boot s _
@[simp] theorem State.setRecField_dbg (s : State) (n c hi lo v : Nat) : (s.setRecField n c hi lo v).dbg = s.dbg := State.with_ctxStore_dbg s _
@[simp] theorem State.setRecField_out (s : State) (n c hi lo v : Nat) : (s.setRecField n c hi lo v).out = s.out := State.with_ctxStore_out s _
@[simp] theorem State.setRecField_freeCount (s : State) (n c hi lo v : Nat) : (s.setRecField n c hi lo v).freeCount = s.freeCount := State.with_ctxStore_freeCount s _
@[simp] theorem State.setRecField_pending (s : State) (n c hi lo v : Nat) : (s.setRecField n c hi lo v).pending = s.pending := State.with_ctxStore_pending s _

/-! ### What `setAux` leaves -/

@[simp] theorem State.setAux_mem (s : State) (n : Nat) (v : CtxAux) : (s.setAux n v).mem = s.mem := rfl
@[simp] theorem State.setAux_poison (s : State) (n : Nat) (v : CtxAux) : (s.setAux n v).poison = s.poison := rfl
@[simp] theorem State.setAux_ocUnder (s : State) (n : Nat) (v : CtxAux) : (s.setAux n v).ocUnder = s.ocUnder := rfl
@[simp] theorem State.setAux_l2Under (s : State) (n : Nat) (v : CtxAux) : (s.setAux n v).l2Under = s.l2Under := rfl
@[simp] theorem State.setAux_l2 (s : State) (n : Nat) (v : CtxAux) : (s.setAux n v).l2 = s.l2 := rfl
@[simp] theorem State.setAux_l2Lines (s : State) (n : Nat) (v : CtxAux) : (s.setAux n v).l2Lines = s.l2Lines := rfl
@[simp] theorem State.setAux_l2Queue (s : State) (n : Nat) (v : CtxAux) : (s.setAux n v).l2Queue = s.l2Queue := rfl
@[simp] theorem State.setAux_dir (s : State) (n : Nat) (v : CtxAux) : (s.setAux n v).dir = s.dir := rfl
@[simp] theorem State.setAux_ctxStore (s : State) (n : Nat) (v : CtxAux) : (s.setAux n v).ctxStore = s.ctxStore := rfl
@[simp] theorem State.setAux_ventRam (s : State) (n : Nat) (v : CtxAux) : (s.setAux n v).ventRam = s.ventRam := rfl
@[simp] theorem State.setAux_cores (s : State) (n : Nat) (v : CtxAux) : (s.setAux n v).cores = s.cores := rfl
@[simp] theorem State.setAux_order (s : State) (n : Nat) (v : CtxAux) : (s.setAux n v).order = s.order := rfl
@[simp] theorem State.setAux_channels (s : State) (n : Nat) (v : CtxAux) : (s.setAux n v).channels = s.channels := rfl
@[simp] theorem State.setAux_collQ (s : State) (n : Nat) (v : CtxAux) : (s.setAux n v).collQ = s.collQ := rfl
@[simp] theorem State.setAux_ports (s : State) (n : Nat) (v : CtxAux) : (s.setAux n v).ports = s.ports := rfl
@[simp] theorem State.setAux_collCycle (s : State) (n : Nat) (v : CtxAux) : (s.setAux n v).collCycle = s.collCycle := rfl
@[simp] theorem State.setAux_heads (s : State) (n : Nat) (v : CtxAux) : (s.setAux n v).heads = s.heads := rfl
@[simp] theorem State.setAux_linkWait (s : State) (n : Nat) (v : CtxAux) : (s.setAux n v).linkWait = s.linkWait := rfl
@[simp] theorem State.setAux_heap (s : State) (n : Nat) (v : CtxAux) : (s.setAux n v).heap = s.heap := rfl
@[simp] theorem State.setAux_geysers (s : State) (n : Nat) (v : CtxAux) : (s.setAux n v).geysers = s.geysers := rfl
@[simp] theorem State.setAux_ingest (s : State) (n : Nat) (v : CtxAux) : (s.setAux n v).ingest = s.ingest := rfl
@[simp] theorem State.setAux_links (s : State) (n : Nat) (v : CtxAux) : (s.setAux n v).links = s.links := rfl
@[simp] theorem State.setAux_time (s : State) (n : Nat) (v : CtxAux) : (s.setAux n v).time = s.time := rfl
@[simp] theorem State.setAux_jr (s : State) (n : Nat) (v : CtxAux) : (s.setAux n v).jr = s.jr := rfl
@[simp] theorem State.setAux_funcs (s : State) (n : Nat) (v : CtxAux) : (s.setAux n v).funcs = s.funcs := rfl
@[simp] theorem State.setAux_dma (s : State) (n : Nat) (v : CtxAux) : (s.setAux n v).dma = s.dma := rfl
@[simp] theorem State.setAux_dmaQ (s : State) (n : Nat) (v : CtxAux) : (s.setAux n v).dmaQ = s.dmaQ := rfl
@[simp] theorem State.setAux_dict (s : State) (n : Nat) (v : CtxAux) : (s.setAux n v).dict = s.dict := rfl
@[simp] theorem State.setAux_panel (s : State) (n : Nat) (v : CtxAux) : (s.setAux n v).panel = s.panel := rfl
@[simp] theorem State.setAux_power (s : State) (n : Nat) (v : CtxAux) : (s.setAux n v).power = s.power := rfl
@[simp] theorem State.setAux_dep (s : State) (n : Nat) (v : CtxAux) : (s.setAux n v).dep = s.dep := rfl
@[simp] theorem State.setAux_boot (s : State) (n : Nat) (v : CtxAux) : (s.setAux n v).boot = s.boot := rfl
@[simp] theorem State.setAux_dbg (s : State) (n : Nat) (v : CtxAux) : (s.setAux n v).dbg = s.dbg := rfl
@[simp] theorem State.setAux_out (s : State) (n : Nat) (v : CtxAux) : (s.setAux n v).out = s.out := rfl
@[simp] theorem State.setAux_freeCount (s : State) (n : Nat) (v : CtxAux) : (s.setAux n v).freeCount = s.freeCount := rfl
@[simp] theorem State.setAux_pending (s : State) (n : Nat) (v : CtxAux) : (s.setAux n v).pending = s.pending := rfl

/-! ### What `modAux` leaves -/

@[simp] theorem State.modAux_mem (s : State) (n : Nat) (f : CtxAux → CtxAux) : (s.modAux n f).mem = s.mem := rfl
@[simp] theorem State.modAux_poison (s : State) (n : Nat) (f : CtxAux → CtxAux) : (s.modAux n f).poison = s.poison := rfl
@[simp] theorem State.modAux_ocUnder (s : State) (n : Nat) (f : CtxAux → CtxAux) : (s.modAux n f).ocUnder = s.ocUnder := rfl
@[simp] theorem State.modAux_l2Under (s : State) (n : Nat) (f : CtxAux → CtxAux) : (s.modAux n f).l2Under = s.l2Under := rfl
@[simp] theorem State.modAux_l2 (s : State) (n : Nat) (f : CtxAux → CtxAux) : (s.modAux n f).l2 = s.l2 := rfl
@[simp] theorem State.modAux_l2Lines (s : State) (n : Nat) (f : CtxAux → CtxAux) : (s.modAux n f).l2Lines = s.l2Lines := rfl
@[simp] theorem State.modAux_l2Queue (s : State) (n : Nat) (f : CtxAux → CtxAux) : (s.modAux n f).l2Queue = s.l2Queue := rfl
@[simp] theorem State.modAux_dir (s : State) (n : Nat) (f : CtxAux → CtxAux) : (s.modAux n f).dir = s.dir := rfl
@[simp] theorem State.modAux_ctxStore (s : State) (n : Nat) (f : CtxAux → CtxAux) : (s.modAux n f).ctxStore = s.ctxStore := rfl
@[simp] theorem State.modAux_ventRam (s : State) (n : Nat) (f : CtxAux → CtxAux) : (s.modAux n f).ventRam = s.ventRam := rfl
@[simp] theorem State.modAux_cores (s : State) (n : Nat) (f : CtxAux → CtxAux) : (s.modAux n f).cores = s.cores := rfl
@[simp] theorem State.modAux_order (s : State) (n : Nat) (f : CtxAux → CtxAux) : (s.modAux n f).order = s.order := rfl
@[simp] theorem State.modAux_channels (s : State) (n : Nat) (f : CtxAux → CtxAux) : (s.modAux n f).channels = s.channels := rfl
@[simp] theorem State.modAux_collQ (s : State) (n : Nat) (f : CtxAux → CtxAux) : (s.modAux n f).collQ = s.collQ := rfl
@[simp] theorem State.modAux_ports (s : State) (n : Nat) (f : CtxAux → CtxAux) : (s.modAux n f).ports = s.ports := rfl
@[simp] theorem State.modAux_collCycle (s : State) (n : Nat) (f : CtxAux → CtxAux) : (s.modAux n f).collCycle = s.collCycle := rfl
@[simp] theorem State.modAux_heads (s : State) (n : Nat) (f : CtxAux → CtxAux) : (s.modAux n f).heads = s.heads := rfl
@[simp] theorem State.modAux_linkWait (s : State) (n : Nat) (f : CtxAux → CtxAux) : (s.modAux n f).linkWait = s.linkWait := rfl
@[simp] theorem State.modAux_heap (s : State) (n : Nat) (f : CtxAux → CtxAux) : (s.modAux n f).heap = s.heap := rfl
@[simp] theorem State.modAux_geysers (s : State) (n : Nat) (f : CtxAux → CtxAux) : (s.modAux n f).geysers = s.geysers := rfl
@[simp] theorem State.modAux_ingest (s : State) (n : Nat) (f : CtxAux → CtxAux) : (s.modAux n f).ingest = s.ingest := rfl
@[simp] theorem State.modAux_links (s : State) (n : Nat) (f : CtxAux → CtxAux) : (s.modAux n f).links = s.links := rfl
@[simp] theorem State.modAux_time (s : State) (n : Nat) (f : CtxAux → CtxAux) : (s.modAux n f).time = s.time := rfl
@[simp] theorem State.modAux_jr (s : State) (n : Nat) (f : CtxAux → CtxAux) : (s.modAux n f).jr = s.jr := rfl
@[simp] theorem State.modAux_funcs (s : State) (n : Nat) (f : CtxAux → CtxAux) : (s.modAux n f).funcs = s.funcs := rfl
@[simp] theorem State.modAux_dma (s : State) (n : Nat) (f : CtxAux → CtxAux) : (s.modAux n f).dma = s.dma := rfl
@[simp] theorem State.modAux_dmaQ (s : State) (n : Nat) (f : CtxAux → CtxAux) : (s.modAux n f).dmaQ = s.dmaQ := rfl
@[simp] theorem State.modAux_dict (s : State) (n : Nat) (f : CtxAux → CtxAux) : (s.modAux n f).dict = s.dict := rfl
@[simp] theorem State.modAux_panel (s : State) (n : Nat) (f : CtxAux → CtxAux) : (s.modAux n f).panel = s.panel := rfl
@[simp] theorem State.modAux_power (s : State) (n : Nat) (f : CtxAux → CtxAux) : (s.modAux n f).power = s.power := rfl
@[simp] theorem State.modAux_dep (s : State) (n : Nat) (f : CtxAux → CtxAux) : (s.modAux n f).dep = s.dep := rfl
@[simp] theorem State.modAux_boot (s : State) (n : Nat) (f : CtxAux → CtxAux) : (s.modAux n f).boot = s.boot := rfl
@[simp] theorem State.modAux_dbg (s : State) (n : Nat) (f : CtxAux → CtxAux) : (s.modAux n f).dbg = s.dbg := rfl
@[simp] theorem State.modAux_out (s : State) (n : Nat) (f : CtxAux → CtxAux) : (s.modAux n f).out = s.out := rfl
@[simp] theorem State.modAux_freeCount (s : State) (n : Nat) (f : CtxAux → CtxAux) : (s.modAux n f).freeCount = s.freeCount := rfl
@[simp] theorem State.modAux_pending (s : State) (n : Nat) (f : CtxAux → CtxAux) : (s.modAux n f).pending = s.pending := rfl

/-! ### What `setChan` leaves -/

@[simp] theorem State.setChan_mem (s : State) (n : Nat) (c : Channel) : (s.setChan n c).mem = s.mem := rfl
@[simp] theorem State.setChan_poison (s : State) (n : Nat) (c : Channel) : (s.setChan n c).poison = s.poison := rfl
@[simp] theorem State.setChan_ocUnder (s : State) (n : Nat) (c : Channel) : (s.setChan n c).ocUnder = s.ocUnder := rfl
@[simp] theorem State.setChan_l2Under (s : State) (n : Nat) (c : Channel) : (s.setChan n c).l2Under = s.l2Under := rfl
@[simp] theorem State.setChan_l2 (s : State) (n : Nat) (c : Channel) : (s.setChan n c).l2 = s.l2 := rfl
@[simp] theorem State.setChan_l2Lines (s : State) (n : Nat) (c : Channel) : (s.setChan n c).l2Lines = s.l2Lines := rfl
@[simp] theorem State.setChan_l2Queue (s : State) (n : Nat) (c : Channel) : (s.setChan n c).l2Queue = s.l2Queue := rfl
@[simp] theorem State.setChan_dir (s : State) (n : Nat) (c : Channel) : (s.setChan n c).dir = s.dir := rfl
@[simp] theorem State.setChan_ctxStore (s : State) (n : Nat) (c : Channel) : (s.setChan n c).ctxStore = s.ctxStore := rfl
@[simp] theorem State.setChan_aux (s : State) (n : Nat) (c : Channel) : (s.setChan n c).aux = s.aux := rfl
@[simp] theorem State.setChan_ventRam (s : State) (n : Nat) (c : Channel) : (s.setChan n c).ventRam = s.ventRam := rfl
@[simp] theorem State.setChan_cores (s : State) (n : Nat) (c : Channel) : (s.setChan n c).cores = s.cores := rfl
@[simp] theorem State.setChan_order (s : State) (n : Nat) (c : Channel) : (s.setChan n c).order = s.order := rfl
@[simp] theorem State.setChan_collQ (s : State) (n : Nat) (c : Channel) : (s.setChan n c).collQ = s.collQ := rfl
@[simp] theorem State.setChan_ports (s : State) (n : Nat) (c : Channel) : (s.setChan n c).ports = s.ports := rfl
@[simp] theorem State.setChan_collCycle (s : State) (n : Nat) (c : Channel) : (s.setChan n c).collCycle = s.collCycle := rfl
@[simp] theorem State.setChan_heads (s : State) (n : Nat) (c : Channel) : (s.setChan n c).heads = s.heads := rfl
@[simp] theorem State.setChan_linkWait (s : State) (n : Nat) (c : Channel) : (s.setChan n c).linkWait = s.linkWait := rfl
@[simp] theorem State.setChan_heap (s : State) (n : Nat) (c : Channel) : (s.setChan n c).heap = s.heap := rfl
@[simp] theorem State.setChan_geysers (s : State) (n : Nat) (c : Channel) : (s.setChan n c).geysers = s.geysers := rfl
@[simp] theorem State.setChan_ingest (s : State) (n : Nat) (c : Channel) : (s.setChan n c).ingest = s.ingest := rfl
@[simp] theorem State.setChan_links (s : State) (n : Nat) (c : Channel) : (s.setChan n c).links = s.links := rfl
@[simp] theorem State.setChan_time (s : State) (n : Nat) (c : Channel) : (s.setChan n c).time = s.time := rfl
@[simp] theorem State.setChan_jr (s : State) (n : Nat) (c : Channel) : (s.setChan n c).jr = s.jr := rfl
@[simp] theorem State.setChan_funcs (s : State) (n : Nat) (c : Channel) : (s.setChan n c).funcs = s.funcs := rfl
@[simp] theorem State.setChan_dma (s : State) (n : Nat) (c : Channel) : (s.setChan n c).dma = s.dma := rfl
@[simp] theorem State.setChan_dmaQ (s : State) (n : Nat) (c : Channel) : (s.setChan n c).dmaQ = s.dmaQ := rfl
@[simp] theorem State.setChan_dict (s : State) (n : Nat) (c : Channel) : (s.setChan n c).dict = s.dict := rfl
@[simp] theorem State.setChan_panel (s : State) (n : Nat) (c : Channel) : (s.setChan n c).panel = s.panel := rfl
@[simp] theorem State.setChan_power (s : State) (n : Nat) (c : Channel) : (s.setChan n c).power = s.power := rfl
@[simp] theorem State.setChan_dep (s : State) (n : Nat) (c : Channel) : (s.setChan n c).dep = s.dep := rfl
@[simp] theorem State.setChan_boot (s : State) (n : Nat) (c : Channel) : (s.setChan n c).boot = s.boot := rfl
@[simp] theorem State.setChan_dbg (s : State) (n : Nat) (c : Channel) : (s.setChan n c).dbg = s.dbg := rfl
@[simp] theorem State.setChan_out (s : State) (n : Nat) (c : Channel) : (s.setChan n c).out = s.out := rfl
@[simp] theorem State.setChan_freeCount (s : State) (n : Nat) (c : Channel) : (s.setChan n c).freeCount = s.freeCount := rfl
@[simp] theorem State.setChan_pending (s : State) (n : Nat) (c : Channel) : (s.setChan n c).pending = s.pending := rfl

/-! ### What `modHeap` leaves -/

@[simp] theorem State.modHeap_mem (s : State) (f : Heap → Heap) : (s.modHeap f).mem = s.mem := rfl
@[simp] theorem State.modHeap_poison (s : State) (f : Heap → Heap) : (s.modHeap f).poison = s.poison := rfl
@[simp] theorem State.modHeap_ocUnder (s : State) (f : Heap → Heap) : (s.modHeap f).ocUnder = s.ocUnder := rfl
@[simp] theorem State.modHeap_l2Under (s : State) (f : Heap → Heap) : (s.modHeap f).l2Under = s.l2Under := rfl
@[simp] theorem State.modHeap_l2 (s : State) (f : Heap → Heap) : (s.modHeap f).l2 = s.l2 := rfl
@[simp] theorem State.modHeap_l2Lines (s : State) (f : Heap → Heap) : (s.modHeap f).l2Lines = s.l2Lines := rfl
@[simp] theorem State.modHeap_l2Queue (s : State) (f : Heap → Heap) : (s.modHeap f).l2Queue = s.l2Queue := rfl
@[simp] theorem State.modHeap_dir (s : State) (f : Heap → Heap) : (s.modHeap f).dir = s.dir := rfl
@[simp] theorem State.modHeap_ctxStore (s : State) (f : Heap → Heap) : (s.modHeap f).ctxStore = s.ctxStore := rfl
@[simp] theorem State.modHeap_aux (s : State) (f : Heap → Heap) : (s.modHeap f).aux = s.aux := rfl
@[simp] theorem State.modHeap_ventRam (s : State) (f : Heap → Heap) : (s.modHeap f).ventRam = s.ventRam := rfl
@[simp] theorem State.modHeap_cores (s : State) (f : Heap → Heap) : (s.modHeap f).cores = s.cores := rfl
@[simp] theorem State.modHeap_order (s : State) (f : Heap → Heap) : (s.modHeap f).order = s.order := rfl
@[simp] theorem State.modHeap_channels (s : State) (f : Heap → Heap) : (s.modHeap f).channels = s.channels := rfl
@[simp] theorem State.modHeap_collQ (s : State) (f : Heap → Heap) : (s.modHeap f).collQ = s.collQ := rfl
@[simp] theorem State.modHeap_ports (s : State) (f : Heap → Heap) : (s.modHeap f).ports = s.ports := rfl
@[simp] theorem State.modHeap_collCycle (s : State) (f : Heap → Heap) : (s.modHeap f).collCycle = s.collCycle := rfl
@[simp] theorem State.modHeap_heads (s : State) (f : Heap → Heap) : (s.modHeap f).heads = s.heads := rfl
@[simp] theorem State.modHeap_linkWait (s : State) (f : Heap → Heap) : (s.modHeap f).linkWait = s.linkWait := rfl
@[simp] theorem State.modHeap_geysers (s : State) (f : Heap → Heap) : (s.modHeap f).geysers = s.geysers := rfl
@[simp] theorem State.modHeap_ingest (s : State) (f : Heap → Heap) : (s.modHeap f).ingest = s.ingest := rfl
@[simp] theorem State.modHeap_links (s : State) (f : Heap → Heap) : (s.modHeap f).links = s.links := rfl
@[simp] theorem State.modHeap_time (s : State) (f : Heap → Heap) : (s.modHeap f).time = s.time := rfl
@[simp] theorem State.modHeap_jr (s : State) (f : Heap → Heap) : (s.modHeap f).jr = s.jr := rfl
@[simp] theorem State.modHeap_funcs (s : State) (f : Heap → Heap) : (s.modHeap f).funcs = s.funcs := rfl
@[simp] theorem State.modHeap_dma (s : State) (f : Heap → Heap) : (s.modHeap f).dma = s.dma := rfl
@[simp] theorem State.modHeap_dmaQ (s : State) (f : Heap → Heap) : (s.modHeap f).dmaQ = s.dmaQ := rfl
@[simp] theorem State.modHeap_dict (s : State) (f : Heap → Heap) : (s.modHeap f).dict = s.dict := rfl
@[simp] theorem State.modHeap_panel (s : State) (f : Heap → Heap) : (s.modHeap f).panel = s.panel := rfl
@[simp] theorem State.modHeap_power (s : State) (f : Heap → Heap) : (s.modHeap f).power = s.power := rfl
@[simp] theorem State.modHeap_dep (s : State) (f : Heap → Heap) : (s.modHeap f).dep = s.dep := rfl
@[simp] theorem State.modHeap_boot (s : State) (f : Heap → Heap) : (s.modHeap f).boot = s.boot := rfl
@[simp] theorem State.modHeap_dbg (s : State) (f : Heap → Heap) : (s.modHeap f).dbg = s.dbg := rfl
@[simp] theorem State.modHeap_out (s : State) (f : Heap → Heap) : (s.modHeap f).out = s.out := rfl
@[simp] theorem State.modHeap_freeCount (s : State) (f : Heap → Heap) : (s.modHeap f).freeCount = s.freeCount := rfl
@[simp] theorem State.modHeap_pending (s : State) (f : Heap → Heap) : (s.modHeap f).pending = s.pending := rfl

/-! ### What `setCell` leaves -/

@[simp] theorem State.setCell_poison (s : State) (pa : Nat) (c : Cell) : (s.setCell pa c).poison = s.poison := State.with_mem_poison s _
@[simp] theorem State.setCell_ocUnder (s : State) (pa : Nat) (c : Cell) : (s.setCell pa c).ocUnder = s.ocUnder := State.with_mem_ocUnder s _
@[simp] theorem State.setCell_l2Under (s : State) (pa : Nat) (c : Cell) : (s.setCell pa c).l2Under = s.l2Under := State.with_mem_l2Under s _
@[simp] theorem State.setCell_l2 (s : State) (pa : Nat) (c : Cell) : (s.setCell pa c).l2 = s.l2 := State.with_mem_l2 s _
@[simp] theorem State.setCell_l2Lines (s : State) (pa : Nat) (c : Cell) : (s.setCell pa c).l2Lines = s.l2Lines := State.with_mem_l2Lines s _
@[simp] theorem State.setCell_l2Queue (s : State) (pa : Nat) (c : Cell) : (s.setCell pa c).l2Queue = s.l2Queue := State.with_mem_l2Queue s _
@[simp] theorem State.setCell_dir (s : State) (pa : Nat) (c : Cell) : (s.setCell pa c).dir = s.dir := State.with_mem_dir s _
@[simp] theorem State.setCell_ctxStore (s : State) (pa : Nat) (c : Cell) : (s.setCell pa c).ctxStore = s.ctxStore := State.with_mem_ctxStore s _
@[simp] theorem State.setCell_aux (s : State) (pa : Nat) (c : Cell) : (s.setCell pa c).aux = s.aux := State.with_mem_aux s _
@[simp] theorem State.setCell_ventRam (s : State) (pa : Nat) (c : Cell) : (s.setCell pa c).ventRam = s.ventRam := State.with_mem_ventRam s _
@[simp] theorem State.setCell_cores (s : State) (pa : Nat) (c : Cell) : (s.setCell pa c).cores = s.cores := State.with_mem_cores s _
@[simp] theorem State.setCell_order (s : State) (pa : Nat) (c : Cell) : (s.setCell pa c).order = s.order := State.with_mem_order s _
@[simp] theorem State.setCell_channels (s : State) (pa : Nat) (c : Cell) : (s.setCell pa c).channels = s.channels := State.with_mem_channels s _
@[simp] theorem State.setCell_collQ (s : State) (pa : Nat) (c : Cell) : (s.setCell pa c).collQ = s.collQ := State.with_mem_collQ s _
@[simp] theorem State.setCell_ports (s : State) (pa : Nat) (c : Cell) : (s.setCell pa c).ports = s.ports := State.with_mem_ports s _
@[simp] theorem State.setCell_collCycle (s : State) (pa : Nat) (c : Cell) : (s.setCell pa c).collCycle = s.collCycle := State.with_mem_collCycle s _
@[simp] theorem State.setCell_heads (s : State) (pa : Nat) (c : Cell) : (s.setCell pa c).heads = s.heads := State.with_mem_heads s _
@[simp] theorem State.setCell_linkWait (s : State) (pa : Nat) (c : Cell) : (s.setCell pa c).linkWait = s.linkWait := State.with_mem_linkWait s _
@[simp] theorem State.setCell_heap (s : State) (pa : Nat) (c : Cell) : (s.setCell pa c).heap = s.heap := State.with_mem_heap s _
@[simp] theorem State.setCell_geysers (s : State) (pa : Nat) (c : Cell) : (s.setCell pa c).geysers = s.geysers := State.with_mem_geysers s _
@[simp] theorem State.setCell_ingest (s : State) (pa : Nat) (c : Cell) : (s.setCell pa c).ingest = s.ingest := State.with_mem_ingest s _
@[simp] theorem State.setCell_links (s : State) (pa : Nat) (c : Cell) : (s.setCell pa c).links = s.links := State.with_mem_links s _
@[simp] theorem State.setCell_time (s : State) (pa : Nat) (c : Cell) : (s.setCell pa c).time = s.time := State.with_mem_time s _
@[simp] theorem State.setCell_jr (s : State) (pa : Nat) (c : Cell) : (s.setCell pa c).jr = s.jr := State.with_mem_jr s _
@[simp] theorem State.setCell_funcs (s : State) (pa : Nat) (c : Cell) : (s.setCell pa c).funcs = s.funcs := State.with_mem_funcs s _
@[simp] theorem State.setCell_dma (s : State) (pa : Nat) (c : Cell) : (s.setCell pa c).dma = s.dma := State.with_mem_dma s _
@[simp] theorem State.setCell_dmaQ (s : State) (pa : Nat) (c : Cell) : (s.setCell pa c).dmaQ = s.dmaQ := State.with_mem_dmaQ s _
@[simp] theorem State.setCell_dict (s : State) (pa : Nat) (c : Cell) : (s.setCell pa c).dict = s.dict := State.with_mem_dict s _
@[simp] theorem State.setCell_panel (s : State) (pa : Nat) (c : Cell) : (s.setCell pa c).panel = s.panel := State.with_mem_panel s _
@[simp] theorem State.setCell_power (s : State) (pa : Nat) (c : Cell) : (s.setCell pa c).power = s.power := State.with_mem_power s _
@[simp] theorem State.setCell_dep (s : State) (pa : Nat) (c : Cell) : (s.setCell pa c).dep = s.dep := State.with_mem_dep s _
@[simp] theorem State.setCell_boot (s : State) (pa : Nat) (c : Cell) : (s.setCell pa c).boot = s.boot := State.with_mem_boot s _
@[simp] theorem State.setCell_dbg (s : State) (pa : Nat) (c : Cell) : (s.setCell pa c).dbg = s.dbg := State.with_mem_dbg s _
@[simp] theorem State.setCell_out (s : State) (pa : Nat) (c : Cell) : (s.setCell pa c).out = s.out := State.with_mem_out s _
@[simp] theorem State.setCell_freeCount (s : State) (pa : Nat) (c : Cell) : (s.setCell pa c).freeCount = s.freeCount := State.with_mem_freeCount s _
@[simp] theorem State.setCell_pending (s : State) (pa : Nat) (c : Cell) : (s.setCell pa c).pending = s.pending := State.with_mem_pending s _

end Sys2Proof.Machine
end

