-- ==== Sys2Proof/Laws/Caches.lean ====
section
/-! SUPPORT. What the cache operations leave: each of them changes the caches, the directories and the counter of free values, and
of a slot at most the line that it holds on. The fetch of an instruction is such an operation. -/

namespace Sys2Proof.Machine

/-- From `s` to `t` the caches and directories alone change. -/
structure CachesOnly (s t : State) : Prop where
  moved : ∃ cores ocUnder l2Under l2 l2Lines l2Queue dir n, t =
    { s with cores := cores, ocUnder := ocUnder, l2Under := l2Under, l2 := l2, l2Lines := l2Lines, l2Queue := l2Queue,
             dir := dir, freeCount := n }
  slots : ∀ q, ∃ h, t.slot q = { s.slot q with hold := h }
  core : ∀ c, ∃ slots oc icache, t.core c = { s.core c with slots := slots, oc := oc, icache := icache }

namespace CachesOnly

theorem refl (s : State) : CachesOnly s s :=
  ⟨⟨_, _, _, _, _, _, _, _, rfl⟩, fun _ => ⟨_, rfl⟩, fun _ => ⟨_, _, _, rfl⟩⟩

theorem trans {s t u : State} (h : CachesOnly s t) (k : CachesOnly t u) : CachesOnly s u := by
  refine ⟨?_, fun q => ?_, fun c => ?_⟩
  · obtain ⟨_, _, _, _, _, _, _, _, rfl⟩ := h.moved
    obtain ⟨_, _, _, _, _, _, _, _, rfl⟩ := k.moved
    exact ⟨_, _, _, _, _, _, _, _, rfl⟩
  · obtain ⟨a, ha⟩ := h.slots q
    obtain ⟨b, hb⟩ := k.slots q
    exact ⟨b, by rw [hb, ha]⟩
  · obtain ⟨_, _, _, ha⟩ := h.core c
    obtain ⟨_, _, _, hb⟩ := k.core c
    exact ⟨_, _, _, by rw [hb, ha]⟩

/-- A change of the caches that touches no core. -/
theorem of_cores {s t : State} (h : ∃ ocUnder l2Under l2 l2Lines l2Queue dir n, t =
    { s with ocUnder := ocUnder, l2Under := l2Under, l2 := l2, l2Lines := l2Lines, l2Queue := l2Queue, dir := dir,
             freeCount := n }) : CachesOnly s t := by
  obtain ⟨_, _, _, _, _, _, _, rfl⟩ := h
  exact ⟨⟨_, _, _, _, _, _, _, _, rfl⟩, fun _ => ⟨_, rfl⟩, fun _ => ⟨_, _, _, rfl⟩⟩

theorem foldl {α : Type} (f : State → α → State) (hf : ∀ s a, CachesOnly s (f s a)) (l : List α) (s : State) :
    CachesOnly s (l.foldl f s) := by
  induction l generalizing s with
  | nil => exact refl s
  | cons a l ih => exact (hf s a).trans (ih (f s a))

theorem regs {s t : State} (h : CachesOnly s t) (q : Cx) : t.regs q = s.regs q := by
  obtain ⟨x, hx⟩ := h.slots q
  rw [State.regs, hx]
  rfl

theorem ctx {s t : State} (h : CachesOnly s t) (q : Cx) : (t.slot q).ctx = (s.slot q).ctx := by
  obtain ⟨x, hx⟩ := h.slots q
  rw [hx]

theorem mid {s t : State} (h : CachesOnly s t) (q : Cx) : (t.slot q).mid = (s.slot q).mid := by
  obtain ⟨x, hx⟩ := h.slots q
  rw [hx]

theorem men {s t : State} (h : CachesOnly s t) (c : Nat) : (t.core c).men = (s.core c).men := by
  obtain ⟨_, _, _, hx⟩ := h.core c
  rw [hx]

theorem tlb {s t : State} (h : CachesOnly s t) (c : Nat) : (t.core c).tlb = (s.core c).tlb := by
  obtain ⟨_, _, _, hx⟩ := h.core c
  rw [hx]

end CachesOnly

/-- A table whose values are all changed by `f`: each value stands to the old one as `r` says. -/
theorem SMap.get_map {α : Type} (d : α) (f : Nat × α → α) (r : α → α → Prop) (hd : r d d) (hf : ∀ e, r e.2 (f e)) (m : SMap α)
    (k : Nat) : r (SMap.get d m k) (SMap.get d (m.map (fun e => (e.1, f e))) k) := by
  induction m with
  | nil => exact hd
  | cons e m ih =>
    obtain ⟨j, v⟩ := e
    simp only [List.map_cons, SMap.get]
    split
    · exact hf (j, v)
    · exact ih

/-- What a cache operation may change of a core beside its slots. -/
def Core.CachesOnly (k m : Core) : Prop := ∃ oc icache, m = { k with oc := oc, icache := icache }

/-- The cores change by a function that touches caches alone. -/
theorem CachesOnly.of_map {s : State} (f : Nat × Core → Core) (hf : ∀ e : Nat × Core, e.2.CachesOnly (f e)) :
    CachesOnly s { s with cores := s.cores.map (fun e => (e.1, f e)) } := by
  have h := fun c => SMap.get_map {} f Core.CachesOnly ⟨_, _, rfl⟩ hf s.cores c
  refine ⟨⟨_, _, _, _, _, _, _, _, rfl⟩, fun q => ⟨(s.slot q).hold, ?_⟩, fun c => ?_⟩
  · obtain ⟨_, _, hx⟩ := h q.core
    simp only [State.slot, Core.slot, State.core, hx]
  · obtain ⟨_, _, hx⟩ := h c
    exact ⟨_, _, _, hx⟩

/-- One core changes in its caches alone. -/
theorem State.caches_modCore (s : State) (c : Nat) (f : Core → Core) (hf : ∀ k : Core, k.CachesOnly (f k)) :
    CachesOnly s (s.modCore c f) := by
  obtain ⟨_, _, hx⟩ := hf (s.core c)
  refine ⟨⟨_, _, _, _, _, _, _, _, rfl⟩, fun q => ⟨(s.slot q).hold, ?_⟩, fun d => ?_⟩
  · by_cases h : q.core = c
    · simp [State.slot, State.modCore, Core.slot, h, hx]
    · simp [State.slot, State.modCore, State.core_setCore_ne _ _ h]
  · by_cases h : d = c
    · subst h
      exact ⟨_, _, _, by rw [State.modCore, State.core_setCore_self, hx]⟩
    · exact ⟨_, _, _, by rw [State.modCore, State.core_setCore_ne _ _ h]⟩

theorem State.caches_fresh (s : State) : CachesOnly s s.fresh.2 := .of_cores ⟨_, _, _, _, _, _, _, rfl⟩
theorem State.caches_setOcU (s : State) (g : Nat) (u : Option Under) : CachesOnly s (s.setOcU g u) :=
  .of_cores ⟨_, _, _, _, _, _, _, rfl⟩
theorem State.caches_setL2U (s : State) (g : Nat) (u : Option Under) : CachesOnly s (s.setL2U g u) :=
  .of_cores ⟨_, _, _, _, _, _, _, rfl⟩
theorem State.caches_putL2Set (s : State) (k g : Nat) (l : List Nat) : CachesOnly s (s.putL2Set k g l) :=
  .of_cores ⟨_, _, _, _, _, _, _, rfl⟩
theorem State.caches_putWb (s : State) (k g : Nat) (l : List Nat) : CachesOnly s (s.putWb k g l) :=
  .of_cores ⟨_, _, _, _, _, _, _, rfl⟩
theorem State.caches_putDirSet (s : State) (g : Nat) (l : List DirEntry) : CachesOnly s (s.putDirSet g l) :=
  .of_cores ⟨_, _, _, _, _, _, _, rfl⟩
theorem State.caches_dirDrop (s : State) (g : Nat) : CachesOnly s (s.dirDrop g) := s.caches_putDirSet g _

theorem State.caches_dirTrim (s : State) (g : Nat) : CachesOnly s (s.dirTrim g) := by
  unfold State.dirTrim
  split
  · exact .refl s
  · exact s.caches_putDirSet g _
theorem State.caches_l2Touch (s : State) (k g : Nat) : CachesOnly s (s.l2Touch k g) := by
  simp only [State.l2Touch]
  split
  · exact s.caches_putL2Set k g _
  · exact .refl s

theorem State.caches_unqueue (s : State) (g : Nat) : CachesOnly s (s.unqueue g) := by
  unfold State.unqueue
  split
  · exact .refl s
  · exact .foldl _ (fun t k => t.caches_putWb k g _) _ s

theorem State.caches_cleaned (s : State) (g : Nat) : CachesOnly s (s.cleaned g) :=
  ((s.caches_setOcU g _).trans (State.caches_setL2U _ g _)).trans (State.caches_unqueue _ g)

theorem State.caches_drainWb (s : State) (k g n : Nat) : CachesOnly s (s.drainWb k g n) :=
  (s.caches_putWb k g _).trans (.foldl _ (fun t x => (t.caches_setL2U x _).trans (State.caches_dirTrim _ x)) _ _)

theorem State.caches_settleWb (s : State) (k g : Nat) : CachesOnly s (s.settleWb k g) := by
  simp only [State.settleWb]
  split
  · exact .refl s
  · exact s.caches_fresh.trans (State.caches_drainWb _ k g _)

theorem State.caches_queueVictim (s : State) (k g : Nat) : CachesOnly s (s.queueVictim k g) :=
  ((s.caches_settleWb k g).trans (State.caches_drainWb _ k g _)).trans (State.caches_putWb _ k g _)

theorem State.caches_l2Put (s : State) (k g : Nat) : CachesOnly s (s.l2Put k g) := by
  unfold State.l2Put
  refine (s.caches_unqueue g).trans ?_
  generalize s.unqueue g = s
  simp only
  split
  · exact s.caches_putL2Set k g _
  split
  · exact s.caches_putL2Set k g _
  · refine (s.caches_fresh.trans (State.caches_putL2Set s.fresh.2 k g
      (g :: (s.l2Set k g).filter (· != nthD g (s.l2Set k g) (1 + s.fresh.1.toNat % 15))))).trans ?_
    split
    · split
      · exact State.caches_queueVictim _ k _
      · exact State.caches_dirTrim _ _
    · exact State.caches_dirTrim _ _

theorem State.caches_l2Drop (s : State) (g : Nat) (keep : Nat → Bool) : CachesOnly s (s.l2Drop g keep) := by
  refine .foldl _ (fun t k => ?_) _ s
  split
  · exact .refl t
  · exact t.caches_putL2Set k g _

theorem State.caches_dropCopies (s : State) (g : Nat) (v : Bool) (keep : Nat → Bool) : CachesOnly s (s.dropCopies g v keep) := by
  have h : s.dropCopies g v keep =
      { s with cores := s.cores.map (fun e => (e.1, if keep e.1 then e.2 else e.2.dropGranule g v)) } := by
    simp only [State.dropCopies]
    congr 1
    apply List.map_congr_left
    intro e _
    split <;> rfl
  rw [h]
  exact .of_map _ (fun e => by split <;> exact ⟨_, _, rfl⟩)

theorem State.caches_dropCode (s : State) (g : Nat) : CachesOnly s (s.dropCode g) := .of_map _ (fun _ => ⟨_, _, rfl⟩)

theorem State.caches_dropAll (s : State) (g : Nat) : CachesOnly s (s.dropAll g) :=
  ((s.caches_dropCopies g _ _).trans (State.caches_dropCode _ g)).trans (State.caches_l2Drop _ g _)

theorem State.caches_recall (s : State) (g : Nat) : CachesOnly s (s.recall g) :=
  ((s.caches_dropAll g).trans (State.caches_cleaned _ g)).trans (State.caches_dirDrop _ g)

theorem State.caches_dirPut (s : State) (e : DirEntry) : CachesOnly s (s.dirPut e) := by
  simp only [State.dirPut]
  split
  · exact s.caches_putDirSet _ _
  split
  · exact s.caches_putDirSet _ _
  · exact (s.caches_fresh.trans (State.caches_recall _ _)).trans (State.caches_putDirSet _ _ _)

theorem State.caches_dirShare (s : State) (k g : Nat) : CachesOnly s (s.dirShare k g) := by
  unfold State.dirShare
  split
  · split
    · exact .refl s
    · exact s.caches_dirPut _
  · split
    · exact .refl s
    · exact s.caches_dirPut _
  · exact s.caches_dirPut _

theorem State.caches_dirOwn (s : State) (k g : Nat) : CachesOnly s (s.dirOwn k g) := by
  unfold State.dirOwn
  split
  · exact .refl s
  · exact s.caches_dirPut _

theorem State.caches_dirCleaned (s : State) (g : Nat) : CachesOnly s (s.dirCleaned g) := by
  unfold State.dirCleaned
  split
  · exact s.caches_dirPut _
  · exact .refl s

theorem State.caches_ocToL2 (s : State) (g : Nat) : CachesOnly s (s.ocToL2 g) := by
  unfold State.ocToL2
  split
  · exact .refl s
  · refine .trans (.trans ?_ (State.caches_setOcU _ g _)) (State.caches_l2Put _ _ g)
    split
    · exact s.caches_setL2U g _
    · exact .refl s

theorem State.caches_recallFrom (s : State) (g k : Nat) : CachesOnly s (s.recallFrom g k) := by
  have h : ∀ b : Bool, CachesOnly s (if b then ((s.dropCopies g false (fun _ => false)).cleaned g).dirCleaned g else s) := by
    intro b
    cases b
    · exact .refl s
    · exact ((s.caches_dropCopies g _ _).trans (State.caches_cleaned _ g)).trans (State.caches_dirCleaned _ g)
  exact h _

theorem State.caches_shareFor (s : State) (c g : Nat) : CachesOnly s (s.shareFor c g) := by
  unfold State.shareFor
  simp only
  refine ((s.caches_recallFrom g (c / 8)).trans (State.caches_l2Touch _ (c / 8) g)).trans ?_
  split
  · exact .refl _
  · exact (State.caches_ocToL2 _ g).trans (State.caches_dropCopies _ g _ _)

theorem State.caches_claimFor (s : State) (c g : Nat) : CachesOnly s (s.claimFor c g) :=
  ((((s.caches_recallFrom g _).trans (State.caches_dropCopies _ g _ _)).trans (State.caches_dropCode _ g)).trans
    (State.caches_l2Drop _ g _)).trans (State.caches_dirOwn _ _ g)

theorem State.caches_agentClean (s : State) (g : Nat) : CachesOnly s (s.agentClean g) := by
  unfold State.agentClean
  split
  · exact .refl s
  · exact ((s.caches_dropCopies g _ _).trans (State.caches_cleaned _ g)).trans (State.caches_dirCleaned _ g)

theorem State.caches_agentTake (s : State) (g : Nat) : CachesOnly s (s.agentTake g) := s.caches_recall g

theorem State.caches_fetchTouch (s : State) (c g : Nat) : CachesOnly s (s.fetchTouch c g) := by
  have put : ∀ (u : State) (l : List Nat), CachesOnly u
      (u.modCore c (fun k => { k with icache := SMap.set [] k.icache (icSet g) l })) :=
    fun u l => u.caches_modCore c _ (fun _ => ⟨_, _, rfl⟩)
  simp only [State.fetchTouch]
  split
  · split
    · exact s.caches_l2Touch _ g
    · exact s.caches_shareFor c g
  split
  · exact .refl s
  · refine (((s.caches_shareFor c g).trans (State.caches_l2Put _ (c / 8) g)).trans (State.caches_dirShare _ (c / 8) g)).trans ?_
    split
    · exact put _ _
    · exact ((State.caches_fresh _).trans (put _ _)).trans (State.caches_dirTrim _ _)

theorem State.caches_fetchFirst (s : State) (e : Env) : CachesOnly s (s.fetchFirst e) := by
  unfold State.fetchFirst
  simp only
  split
  · exact .refl s
  split
  · exact .refl s
  · split
    · exact s.caches_fetchTouch _ _
    · exact .refl s

theorem State.caches_release (s : State) (q : Cx) : CachesOnly s (s.release q) := by
  unfold State.release
  split
  · refine ⟨⟨_, _, _, _, _, _, _, _, rfl⟩, fun p => ?_, fun c => ?_⟩
    · by_cases h : p = q
      · subst h
        exact ⟨.none, by simp⟩
      · exact ⟨(s.slot p).hold, by rw [State.slot_modSlot_ne _ _ h]⟩
    · by_cases h : c = q.core
      · subst h
        exact ⟨_, _, _, by rw [State.modSlot, State.setSlot, State.core_setCore_self]; rfl⟩
      · exact ⟨_, _, _, by rw [State.modSlot, State.setSlot, State.core_setCore_ne _ _ h]⟩
  · exact .refl s

end Sys2Proof.Machine
end

