-- ==== Sys2Proof/Laws/Issue.lean ====
section
/-! SUPPORT. What issuing an instruction comes to (R102, R174): the one lemma of `issue`, and what each format makes of it. -/

namespace Sys2Proof.Machine

/-! ### The state in which an instruction begins -/

/-- The fetch changes caches alone. -/
theorem State.caches_started (s : State) (e : Env) : CachesOnly s (s.started e) :=
  (s.caches_fetchFirst e).trans (State.caches_release _ e.q)

@[simp] theorem State.started_regs (s : State) (e : Env) (q : Cx) : (s.started e).regs q = s.regs q := (s.caches_started e).regs q
@[simp] theorem State.started_ctx (s : State) (e : Env) (q : Cx) : ((s.started e).slot q).ctx = (s.slot q).ctx :=
  (s.caches_started e).ctx q
@[simp] theorem State.started_men (s : State) (e : Env) (c : Nat) : ((s.started e).core c).men = (s.core c).men :=
  (s.caches_started e).men c
@[simp] theorem State.started_tlb (s : State) (e : Env) (c : Nat) : ((s.started e).core c).tlb = (s.core c).tlb :=
  (s.caches_started e).tlb c
@[simp] theorem State.started_mid (s : State) (e : Env) (q : Cx) : ((s.started e).slot q).mid = (s.slot q).mid :=
  (s.caches_started e).mid q
@[simp] theorem State.started_mem (s : State) (e : Env) : (s.started e).mem = s.mem := by
  obtain ⟨_, _, _, _, _, _, _, _, h⟩ := (s.caches_started e).moved; rw [h]
@[simp] theorem State.started_poison (s : State) (e : Env) : (s.started e).poison = s.poison := by
  obtain ⟨_, _, _, _, _, _, _, _, h⟩ := (s.caches_started e).moved; rw [h]
@[simp] theorem State.started_ctxStore (s : State) (e : Env) : (s.started e).ctxStore = s.ctxStore := by
  obtain ⟨_, _, _, _, _, _, _, _, h⟩ := (s.caches_started e).moved; rw [h]
@[simp] theorem State.started_aux (s : State) (e : Env) : (s.started e).aux = s.aux := by
  obtain ⟨_, _, _, _, _, _, _, _, h⟩ := (s.caches_started e).moved; rw [h]
@[simp] theorem State.started_ventRam (s : State) (e : Env) : (s.started e).ventRam = s.ventRam := by
  obtain ⟨_, _, _, _, _, _, _, _, h⟩ := (s.caches_started e).moved; rw [h]
@[simp] theorem State.started_order (s : State) (e : Env) : (s.started e).order = s.order := by
  obtain ⟨_, _, _, _, _, _, _, _, h⟩ := (s.caches_started e).moved; rw [h]
@[simp] theorem State.started_channels (s : State) (e : Env) : (s.started e).channels = s.channels := by
  obtain ⟨_, _, _, _, _, _, _, _, h⟩ := (s.caches_started e).moved; rw [h]
@[simp] theorem State.started_collQ (s : State) (e : Env) : (s.started e).collQ = s.collQ := by
  obtain ⟨_, _, _, _, _, _, _, _, h⟩ := (s.caches_started e).moved; rw [h]
@[simp] theorem State.started_ports (s : State) (e : Env) : (s.started e).ports = s.ports := by
  obtain ⟨_, _, _, _, _, _, _, _, h⟩ := (s.caches_started e).moved; rw [h]
@[simp] theorem State.started_collCycle (s : State) (e : Env) : (s.started e).collCycle = s.collCycle := by
  obtain ⟨_, _, _, _, _, _, _, _, h⟩ := (s.caches_started e).moved; rw [h]
@[simp] theorem State.started_heads (s : State) (e : Env) : (s.started e).heads = s.heads := by
  obtain ⟨_, _, _, _, _, _, _, _, h⟩ := (s.caches_started e).moved; rw [h]
@[simp] theorem State.started_linkWait (s : State) (e : Env) : (s.started e).linkWait = s.linkWait := by
  obtain ⟨_, _, _, _, _, _, _, _, h⟩ := (s.caches_started e).moved; rw [h]
@[simp] theorem State.started_heap (s : State) (e : Env) : (s.started e).heap = s.heap := by
  obtain ⟨_, _, _, _, _, _, _, _, h⟩ := (s.caches_started e).moved; rw [h]
@[simp] theorem State.started_geysers (s : State) (e : Env) : (s.started e).geysers = s.geysers := by
  obtain ⟨_, _, _, _, _, _, _, _, h⟩ := (s.caches_started e).moved; rw [h]
@[simp] theorem State.started_ingest (s : State) (e : Env) : (s.started e).ingest = s.ingest := by
  obtain ⟨_, _, _, _, _, _, _, _, h⟩ := (s.caches_started e).moved; rw [h]
@[simp] theorem State.started_links (s : State) (e : Env) : (s.started e).links = s.links := by
  obtain ⟨_, _, _, _, _, _, _, _, h⟩ := (s.caches_started e).moved; rw [h]
@[simp] theorem State.started_time (s : State) (e : Env) : (s.started e).time = s.time := by
  obtain ⟨_, _, _, _, _, _, _, _, h⟩ := (s.caches_started e).moved; rw [h]
@[simp] theorem State.started_jr (s : State) (e : Env) : (s.started e).jr = s.jr := by
  obtain ⟨_, _, _, _, _, _, _, _, h⟩ := (s.caches_started e).moved; rw [h]
@[simp] theorem State.started_funcs (s : State) (e : Env) : (s.started e).funcs = s.funcs := by
  obtain ⟨_, _, _, _, _, _, _, _, h⟩ := (s.caches_started e).moved; rw [h]
@[simp] theorem State.started_dma (s : State) (e : Env) : (s.started e).dma = s.dma := by
  obtain ⟨_, _, _, _, _, _, _, _, h⟩ := (s.caches_started e).moved; rw [h]
@[simp] theorem State.started_dmaQ (s : State) (e : Env) : (s.started e).dmaQ = s.dmaQ := by
  obtain ⟨_, _, _, _, _, _, _, _, h⟩ := (s.caches_started e).moved; rw [h]
@[simp] theorem State.started_dict (s : State) (e : Env) : (s.started e).dict = s.dict := by
  obtain ⟨_, _, _, _, _, _, _, _, h⟩ := (s.caches_started e).moved; rw [h]
@[simp] theorem State.started_panel (s : State) (e : Env) : (s.started e).panel = s.panel := by
  obtain ⟨_, _, _, _, _, _, _, _, h⟩ := (s.caches_started e).moved; rw [h]
@[simp] theorem State.started_power (s : State) (e : Env) : (s.started e).power = s.power := by
  obtain ⟨_, _, _, _, _, _, _, _, h⟩ := (s.caches_started e).moved; rw [h]
@[simp] theorem State.started_dep (s : State) (e : Env) : (s.started e).dep = s.dep := by
  obtain ⟨_, _, _, _, _, _, _, _, h⟩ := (s.caches_started e).moved; rw [h]
@[simp] theorem State.started_boot (s : State) (e : Env) : (s.started e).boot = s.boot := by
  obtain ⟨_, _, _, _, _, _, _, _, h⟩ := (s.caches_started e).moved; rw [h]
@[simp] theorem State.started_dbg (s : State) (e : Env) : (s.started e).dbg = s.dbg := by
  obtain ⟨_, _, _, _, _, _, _, _, h⟩ := (s.caches_started e).moved; rw [h]
@[simp] theorem State.started_out (s : State) (e : Env) : (s.started e).out = s.out := by
  obtain ⟨_, _, _, _, _, _, _, _, h⟩ := (s.caches_started e).moved; rw [h]
@[simp] theorem State.started_pending (s : State) (e : Env) : (s.started e).pending = s.pending := by
  obtain ⟨_, _, _, _, _, _, _, _, h⟩ := (s.caches_started e).moved; rw [h]

/-- The fetch changes nothing that a comparator looks at (R531). -/
theorem State.bkFetch_of_caches {s t : State} (h : CachesOnly s t) (e : Env) : t.bkFetch e = s.bkFetch e := by
  obtain ⟨_, _, _, _, _, _, _, _, rfl⟩ := h.moved
  rfl

/-! ### Issuing -/

/-- An instruction that issues does what its body does from the state that the fetch leaves. -/
theorem issue_of_issues {s : State} {i : Issue} {n : Nat} {word : Word32} {slots : Nat} {e : Env}
    (h : Issues s i n word slots e) (body : Env → M Flow) :
    issue i word slots body s = settle (s.started e) e (body e (s.started e)) := by
  obtain ⟨⟨h1, h2, h3, h4, h5⟩, rfl, h6⟩ := h
  have h7 := (State.bkFetch_of_caches (s.caches_fetchFirst (s.envAt (Cx.of i) n word slots)) _).trans h6
  simp [issue, issueIf, h1, h2, h3, h4, h7, runIn, State.meetParity, h5, State.started]

@[simp] theorem settle_next (s0 t : State) (e : Env) : settle s0 e (.ok (.next, t)) = t.moveTo e.q e.next := rfl
@[simp] theorem settle_goto (s0 t : State) (e : Env) (a : Nat) : settle s0 e (.ok (.goto a, t)) = t.moveTo e.q a := rfl
@[simp] theorem settle_stay (s0 t : State) (e : Env) : settle s0 e (.ok (.stay, t)) = t := rfl

/-- A sequence goes on where its first part succeeds. -/
theorem bind_ok {α β : Type} {m : M α} {f : α → M β} {s t : State} {a : α} (h : m s = .ok (a, t)) : (m >>= f) s = f a t := by
  show (StateT.bind m f) s = f a t
  simp [StateT.bind, h, bind, Except.bind]

/-- A sequence stops where its first part stops. -/
theorem bind_error {α β : Type} {m : M α} {f : α → M β} {s : State} {x : Stop} (h : m s = .error x) :
    (m >>= f) s = .error x := by
  show (StateT.bind m f) s = .error x
  simp [StateT.bind, h, bind, Except.bind]

/-- A sequence that succeeds: both parts do. -/
theorem bind_eq_ok {α β : Type} {m : M α} {f : α → M β} {s t : State} {b : β} (h : (m >>= f) s = .ok (b, t)) :
    ∃ a u, m s = .ok (a, u) ∧ f a u = .ok (b, t) := by
  change (StateT.bind m f) s = .ok (b, t) at h
  unfold StateT.bind at h
  cases hm : m s with
  | error x => simp [hm, bind, Except.bind] at h
  | ok p => exact ⟨p.1, p.2, rfl, by simpa [hm, bind, Except.bind] using h⟩

@[simp] theorem pure_run {α : Type} (a : α) (s : State) : (pure a : M α) s = .ok (a, s) := rfl
@[simp] theorem act_run (f : State → State) (s : State) : act f s = .ok ((), f s) := rfl
@[simp] theorem look_run {α : Type} (f : State → α) (s : State) : look f s = .ok (f s, s) := rfl
@[simp] theorem takeM_run {α : Type} (f : State → α × State) (s : State) : takeM f s = .ok (f s) := rfl
@[simp] theorem regsM_run (e : Env) (s : State) : regsM e s = .ok (s.regs e.q, s) := rfl
@[simp] theorem modRegsM_run (e : Env) (f : Regs → Regs) (s : State) : modRegsM e f s = .ok ((), s.modRegs e.q f) := rfl
@[simp] theorem setA_run (e : Env) (c : Cell) (s : State) :
    setA e c s = .ok ((), s.modRegs e.q (fun r => { r with a := normalize c })) := rfl
@[simp] theorem stall_run {α : Type} (w : Wait) (s : State) : (stall w : M α) s = .error (.stall w) := rfl
@[simp] theorem fault_run {α : Type} (e : Env) (code sub opn acc faddr : Nat) (s : State) :
    (fault e code sub opn acc faddr : M α) s =
      .error (.trap { code := code, sub := sub, acc := acc, opn := opn, faddr := faddr, iword := e.iword }) := rfl

/-- An M-format instruction whose decode succeeds does what its body does on the state that the decode leaves. -/
theorem mForm_of_decodes {s s1 : State} {i : Issue} {n : Nat} {op : BitVec 8} {o : MOp} {e : Env} {ok : Bool}
    (h : IssuesM s i n op o e) (hd : Decodes s e o ok s1) (body : Env → M Flow) :
    mForm i op o false ok body s = settle (s.started e) e (body e s1) := by
  obtain ⟨u, s2, h1, h2⟩ := bind_eq_ok hd
  rw [mForm, issue_of_issues h]
  congr 1
  simp only [Bool.false_and, Bool.false_eq_true, if_false]
  rw [bind_ok h1, bind_ok h2]

/-- The same for a machine-level opcode at machine level. -/
theorem mForm_of_machine {s s1 : State} {i : Issue} {n : Nat} {op : BitVec 8} {o : MOp} {e : Env} {ok : Bool}
    (h : IssuesM s i n op o e) (hu : e.user = false) (hd : Decodes s e o ok s1) (body : Env → M Flow) :
    mForm i op o true ok body s = settle (s.started e) e (body e s1) := by
  obtain ⟨u, s2, h1, h2⟩ := bind_eq_ok hd
  rw [mForm, issue_of_issues h]
  congr 1
  simp only [hu, Bool.and_false, Bool.false_eq_true, if_false]
  rw [bind_ok h1, bind_ok h2]

/-- Without an extension word the decode only clears `RESUME`. -/
theorem decodes_plain {s : State} {e : Env} {o : MOp} {ok : Bool} (hk : ok = true)
    (hp : (e.user && o.privBase) = false) (hx : o.hasExt = false) : Decodes s e o ok ((s.started e).clearResume e.q) := by
  simp only [Decodes, decodeM, checkM, hk, hp, hx, Bool.not_true, Bool.false_eq_true, if_false]
  rfl

/-- An instruction without operand whose fields are zero. -/
theorem mNone_of_issues {s : State} {i : Issue} {n : Nat} {op : BitVec 8} {o : MOp} {e : Env}
    (h : IssuesM s i n op o e) (hz : o.zero = true) (body : Env → M Flow) :
    mNone i op o body s = settle (s.started e) e (body e ((s.started e).clearResume e.q)) := by
  have hz' : o.mode = 0 ∧ o.base = 0 ∧ o.disp = 0 := by simpa [MOp.zero, and_assoc] using hz
  exact mForm_of_decodes h (decodes_plain hz (by simp [MOp.privBase, hz'.1]) (by simp [MOp.hasExt, hz'.1])) body

/-- A B-format instruction. -/
theorem bForm_of_issues {s : State} {i : Issue} {n : Nat} {op : BitVec 8} {off : BitVec 24} {e : Env}
    (h : Issues s i n (bWord op off) 1 e) (body : Env → M Flow) :
    bForm i op off body s = settle (s.started e) e (body e ((s.started e).clearResume e.q)) := by
  rw [bForm, issue_of_issues h]
  congr 1

/-- An S-format instruction whose fields are allowed, at a level that may execute it. -/
theorem sForm_of_issues {s : State} {i : Issue} {n : Nat} {op sub : BitVec 8} {opnd : BitVec 16} {e : Env}
    {priv subOk opndOk : Bool} (h : Issues s i n (sWord op sub opnd) 1 e) (hl : (priv && e.user) = false)
    (h1 : subOk = true) (h2 : opndOk = true) (body : Env → M Flow) :
    sForm i op sub opnd priv subOk opndOk body s = settle (s.started e) e (body e ((s.started e).clearResume e.q)) := by
  subst h1 h2
  rw [sForm, issue_of_issues h]
  congr 1
  simp only [hl, Bool.not_true, Bool.false_eq_true, if_false]
  rfl

/-- An instruction that reads its operand: its body runs on the state that the read leaves. -/
theorem mRead_of_reads {s t u : State} {i : Issue} {n : Nat} {op : BitVec 8} {o : MOp} {e : Env} {opn fa : Nat} {c : Cell}
    (h : IssuesM s i n op o e) (hr : Reads s e o opn c fa t) (f : Env → Cell × Nat → M Unit)
    (hf : f e (c, fa) t = .ok ((), u)) :
    mRead i op o (fun e => readOpd e o opn >>= f e) s = u.moveTo e.q e.next := by
  obtain ⟨v, s1, h1, h2⟩ := bind_eq_ok hr
  rw [mRead, mForm_of_decodes h h1]
  simp only [bind_assoc]
  rw [bind_ok h2, bind_ok hf]
  rfl

end Sys2Proof.Machine
end

