-- ==== Sys2Proof/Laws/Memory.lean ====
section
/-! SUPPORT. Laws of memory: what a byte and a cell read as after a write, and that every operation that writes memory keeps its
canonical form. -/

namespace Sys2Proof.Machine

/-! ### Bytes -/

@[simp] theorem readByte_writeByte_self (m : List Host.Cell) (a : Nat) (b : Byte) : readByte (writeByte m a b) a = b :=
  SMap.get_set_self _ _ _ _

theorem readByte_writeByte_ne (m : List Host.Cell) {a c : Nat} (b : Byte) (h : c ≠ a) :
    readByte (writeByte m a b) c = readByte m c := SMap.get_set_ne _ _ _ h

theorem wf_writeByte (m : List Host.Cell) (a : Nat) (b : Byte) (h : Memory.wf m = true) : Memory.wf (writeByte m a b) = true :=
  SMap.wf_set _ _ _ _ h

theorem wf_writeBytes (m : List Host.Cell) (a : Nat) (l : List Byte) (h : Memory.wf m = true) :
    Memory.wf (writeBytes m a l) = true := by
  induction l generalizing m a with
  | nil => exact h
  | cons b l ih => exact ih _ _ (wf_writeByte m a b h)

/-- A write of bytes leaves every byte outside them alone. -/
theorem readByte_writeBytes_out (m : List Host.Cell) (a : Nat) (l : List Byte) {c : Nat} (h : c < a ∨ a + l.length ≤ c) :
    readByte (writeBytes m a l) c = readByte m c := by
  induction l generalizing m a with
  | nil => rfl
  | cons b l ih =>
    simp only [List.length_cons] at h
    rw [writeBytes, ih _ _ (by omega), readByte_writeByte_ne _ _ (by omega)]

/-- A write of bytes gives each of them at its address. -/
theorem readByte_writeBytes_in (m : List Host.Cell) (a : Nat) (l : List Byte) (k : Nat) (h : k < l.length) :
    readByte (writeBytes m a l) (a + k) = l[k] := by
  induction l generalizing m a k with
  | nil => simp at h
  | cons b l ih =>
    cases k with
    | zero => rw [writeBytes, readByte_writeBytes_out _ _ _ (by omega)]; simp
    | succ k =>
      have := ih (writeByte m a b) (a + 1) k (by simpa using h)
      rw [writeBytes, show a + (k + 1) = a + 1 + k by omega, this]
      rfl

theorem length_readBytes (m : List Host.Cell) (n a : Nat) : (readBytes m n a).length = n := by
  induction n generalizing a with
  | zero => rfl
  | succ n ih => simp [readBytes, ih]

theorem readBytes_congr (m k : List Host.Cell) (n a : Nat) (h : ∀ c, a ≤ c → c < a + n → readByte m c = readByte k c) :
    readBytes m n a = readBytes k n a := by
  induction n generalizing a with
  | zero => rfl
  | succ n ih =>
    rw [readBytes, readBytes, h a (by omega) (by omega), ih (a + 1) (fun c h1 h2 => h c (by omega) (by omega))]

/-- Reading back the bytes that were written gives them. -/
theorem readBytes_writeBytes (m : List Host.Cell) (a : Nat) (l : List Byte) : readBytes (writeBytes m a l) l.length a = l := by
  induction l generalizing m a with
  | nil => rfl
  | cons b l ih =>
    rw [List.length_cons, readBytes, writeBytes, ih, readByte_writeBytes_out _ _ _ (by omega), readByte_writeByte_self]

/-! ### Little-endian values (R2) -/

@[simp] theorem length_leBytes (n v : Nat) : (leBytes n v).length = n := by
  induction n generalizing v with
  | zero => rfl
  | succ n ih => simp [leBytes, ih]

theorem leValue_leBytes (n v : Nat) : leValue (leBytes n v) = v % 256 ^ n := by
  induction n generalizing v with
  | zero => simp [leBytes, leValue, Nat.mod_one]
  | succ n ih =>
    have h : 256 ^ (n + 1) = 256 * 256 ^ n := by rw [Nat.pow_succ, Nat.mul_comm]
    rw [leBytes, leValue, ih, BitVec.toNat_ofNat, h, Nat.mod_mul]

/-! ### Cells (R3) -/

/-- A cell read back after its own bytes are written. -/
theorem ofNat_leValue_cellBytes (c : Cell) : BitVec.ofNat 128 (leValue (cellBytes c)) = c := by
  apply BitVec.eq_of_toNat_eq
  have h : c.toNat < 256 ^ 16 := by have := c.isLt; norm_num at this ⊢; exact this
  rw [cellBytes, leValue_leBytes, Nat.mod_eq_of_lt h, BitVec.toNat_ofNat, Nat.mod_eq_of_lt c.isLt]

/-- A cell reads back as it was written, its parity computed (R21). -/
@[simp] theorem State.cell_setCell_self (s : State) (pa : Nat) (c : Cell) : (s.setCell pa c).cell pa = normalize c := by
  have h : (cellBytes (normalize c)).length = 16 := length_leBytes 16 _
  have := readBytes_writeBytes s.mem pa (cellBytes (normalize c))
  rw [h] at this
  simp only [State.cell, State.setCell, this, ofNat_leValue_cellBytes]

/-- A write of a cell leaves every byte outside its 16 alone. -/
theorem State.readByte_setCell_out (s : State) (pa : Nat) (c : Cell) {a : Nat} (h : a < pa ∨ pa + 16 ≤ a) :
    readByte (s.setCell pa c).mem a = readByte s.mem a :=
  readByte_writeBytes_out _ _ _ (by rw [cellBytes, length_leBytes]; exact h)

/-- A write of a cell leaves a cell apart from it alone. -/
theorem State.cell_setCell_apart (s : State) {pa pb : Nat} (c : Cell) (h : pb + 16 ≤ pa ∨ pa + 16 ≤ pb) :
    (s.setCell pa c).cell pb = s.cell pb := by
  unfold State.cell
  rw [readBytes_congr _ s.mem 16 pb (fun a h1 h2 => s.readByte_setCell_out pa c (by omega))]

/-! ### The canonical form -/

theorem State.wf_setCell (s : State) (pa : Nat) (c : Cell) (h : Memory.wf s.mem = true) :
    Memory.wf (s.setCell pa c).mem = true := wf_writeBytes _ _ _ h

theorem State.wf_setCells (s : State) (pa : Nat) (l : List Cell) (h : Memory.wf s.mem = true) :
    Memory.wf (s.setCells pa l).mem = true := by
  induction l generalizing s pa with
  | nil => exact h
  | cons c l ih => exact ih _ _ (s.wf_setCell pa c h)

theorem wf_mergeBytes (m : List Host.Cell) (a : Nat) (l : List Byte) (h : Memory.wf m = true) :
    Memory.wf (mergeBytes m a l) = true := by
  unfold mergeBytes
  simp only
  split
  · exact h
  · generalize (List.range _) = is
    have h1 := wf_writeBytes m a l h
    revert h1
    generalize writeBytes m a l = m1
    intro h1
    induction is generalizing m1 with
    | nil => exact h1
    | cons i is ih => exact ih _ (wf_writeBytes _ _ _ h1)

/-- A step of a fold that keeps a part of the state keeps it through the fold. -/
theorem foldl_keeps {α β γ : Type} (p : β → γ) (f : β → α → β) (hf : ∀ b a, p (f b a) = p b) (l : List α) (b : β) :
    p (l.foldl f b) = p b := by
  induction l generalizing b with
  | nil => rfl
  | cons a l ih => rw [List.foldl_cons, ih, hf]

/-- A cache operation changes no byte of memory. -/
theorem CachesOnly.mem {s t : State} (h : CachesOnly s t) : t.mem = s.mem := by
  obtain ⟨_, _, _, _, _, _, _, _, rfl⟩ := h.moved
  rfl

@[simp] theorem State.mem_setPoison (s : State) (g : Nat) (b : Bool) : (s.setPoison g b).mem = s.mem := rfl
@[simp] theorem State.mem_agentTake (s : State) (g : Nat) : (s.agentTake g).mem = s.mem := (s.caches_agentTake g).mem
@[simp] theorem State.mem_agentClean (s : State) (g : Nat) : (s.agentClean g).mem = s.mem := (s.caches_agentClean g).mem

@[simp] theorem State.mem_hbmServes (s : State) (g : Nat) : (s.hbmServes g).mem = s.mem := by
  unfold State.hbmServes; split <;> rfl

/-- An uncached write of a cell keeps the canonical form. -/
theorem State.wf_agentWrite (s : State) (pa : Nat) (c : Cell) (h : Memory.wf s.mem = true) :
    Memory.wf (s.agentWrite pa c).mem = true := State.wf_setCell _ pa c (by simpa using h)

/-- An uncached read changes no byte of memory. -/
@[simp] theorem State.mem_agentBytes (s : State) (a n : Nat) : (s.agentBytes a n).2.mem = s.mem :=
  foldl_keeps State.mem (fun (t : State) g => (t.agentClean g).hbmServes g) (fun t g => by simp) _ _

theorem State.wf_agentPut (s : State) (a : Nat) (l : List Byte) (h : Memory.wf s.mem = true) :
    Memory.wf (s.agentPut a l).mem = true := by
  unfold State.agentPut
  simp only
  apply wf_mergeBytes
  rw [foldl_keeps State.mem _ (fun t g => by split <;> rfl), foldl_keeps State.mem _ (fun t g => by simp)]
  exact h

theorem State.wf_zeroRange (s : State) (a n : Nat) (h : Memory.wf s.mem = true) : Memory.wf (s.zeroRange a n).mem = true :=
  SMap.wf_filter _ _ _ h

/-- The memory after reset is in canonical form. -/
theorem wf_reset : Memory.wf State.reset.mem = true := rfl

end Sys2Proof.Machine
end

