-- ==== Sys2Proof/Laws/Invariant.lean ====
section
/-! SUPPORT. An invariant through an instruction body: what keeps it in each building block of the bodies, and in the settling of
their outcome. A proof that every step keeps an invariant needs one such fact per operation, put together by these. -/

namespace Sys2Proof.Machine

/-- A body keeps `I`: in the state that it leaves, and in the one that an early end carries. -/
def KeepsM {α : Type} (I : State → Prop) (m : M α) : Prop :=
  ∀ s, I s → (∀ a t, m s = .ok (a, t) → I t) ∧ ∀ c b t, m s = .error (.kept c b t) → I t

theorem KeepsM.pure {α : Type} {I : State → Prop} (a : α) : KeepsM I (pure a : M α) := by
  intro s h
  refine ⟨fun b t e => ?_, fun c b t e => ?_⟩
  · cases e; exact h
  · cases e

theorem KeepsM.act {I : State → Prop} {f : State → State} (hf : ∀ s, I s → I (f s)) : KeepsM I (act f) := by
  intro s h
  refine ⟨fun b t e => ?_, fun c b t e => ?_⟩
  · cases e; exact hf s h
  · cases e

theorem KeepsM.look {α : Type} {I : State → Prop} (f : State → α) : KeepsM I (look f) := by
  intro s h
  refine ⟨fun b t e => ?_, fun c b t e => ?_⟩
  · cases e; exact h
  · cases e

theorem KeepsM.takeM {α : Type} {I : State → Prop} {f : State → α × State} (hf : ∀ s, I s → I (f s).2) : KeepsM I (takeM f) := by
  intro s h
  refine ⟨fun b t e => ?_, fun c b t e => ?_⟩
  · have : f s = (b, t) := by simpa using e
    have h2 := hf s h
    rw [this] at h2
    exact h2
  · cases e

theorem KeepsM.stall {α : Type} {I : State → Prop} (w : Wait) : KeepsM I (stall w : M α) := by
  intro s _
  exact ⟨fun b t e => (by cases e), fun c b t e => (by cases e)⟩

theorem KeepsM.fault {α : Type} {I : State → Prop} (e : Env) (code sub opn acc faddr : Nat) :
    KeepsM I (fault e code sub opn acc faddr : M α) := by
  intro s _
  exact ⟨fun b t h => (by cases h), fun c b t h => (by cases h)⟩

theorem KeepsM.bind {α β : Type} {I : State → Prop} {m : M α} {f : α → M β} (hm : KeepsM I m) (hf : ∀ a, KeepsM I (f a)) :
    KeepsM I (m >>= f) := by
  intro s h
  cases hr : m s with
  | error x =>
    rw [bind_error hr]
    refine ⟨fun b t e => (by cases e), fun c b t e => ?_⟩
    cases e
    exact (hm s h).2 c b t hr
  | ok p =>
    obtain ⟨a, u⟩ := p
    rw [bind_ok hr]
    exact hf a u ((hm s h).1 a u hr)

theorem KeepsM.ite {α : Type} {I : State → Prop} {c : Prop} [Decidable c] {m k : M α} (hm : KeepsM I m) (hk : KeepsM I k) :
    KeepsM I (if c then m else k) := by
  split
  · exact hm
  · exact hk

/-- Step 1 of a long instruction keeps `I` where its body and a change of the registers do (R183). -/
theorem KeepsM.stepOne {I : State → Prop} {m : M Flow} (e : Env) (hm : KeepsM I m)
    (hregs : ∀ t f, I t → I (t.modRegs e.q f)) : KeepsM I (stepOne e m) := by
  intro s h
  cases hr : m s with
  | ok p =>
    have he : Sys2Proof.Machine.stepOne e m s = .ok p := by simp [Sys2Proof.Machine.stepOne, hr]
    rw [he]
    exact ⟨fun a t x => (hm s h).1 a t (hr.trans x), fun c b t x => (by cases x)⟩
  | error x =>
    cases x with
    | trap t =>
      have he : Sys2Proof.Machine.stepOne e m s = .error (.first t) := by simp [Sys2Proof.Machine.stepOne, hr]
      rw [he]
      exact ⟨fun a t x => (by cases x), fun c b t x => (by cases x)⟩
    | first t =>
      have he : Sys2Proof.Machine.stepOne e m s = .error (.first t) := by simp [Sys2Proof.Machine.stepOne, hr]
      rw [he]
      exact ⟨fun a t x => (by cases x), fun c b t x => (by cases x)⟩
    | stall w =>
      have he : Sys2Proof.Machine.stepOne e m s = .error (.stall w) := by simp [Sys2Proof.Machine.stepOne, hr]
      rw [he]
      exact ⟨fun a t x => (by cases x), fun c b t x => (by cases x)⟩
    | kept t major u =>
      have he : Sys2Proof.Machine.stepOne e m s = .error (.kept t major (u.clearPrg e.q)) := by
        simp [Sys2Proof.Machine.stepOne, hr]
      rw [he]
      refine ⟨fun a t x => (by cases x), fun c b v x => ?_⟩
      cases x
      exact hregs _ _ ((hm s h).2 t major u hr)

/-- Clearing `RESUME` keeps what a change of the registers keeps. -/
theorem clearResume_keeps {I : State → Prop} {s : State} (e : Env) (hregs : ∀ t f, I t → I (t.modRegs e.q f)) (h : I s) :
    I (s.clearResume e.q) := by
  unfold State.clearResume
  split
  · exact hregs _ _ h
  · exact h

/-- Settling the outcome of a body that keeps `I` keeps it, where moving PC, the registers, parking, taking a cause and what a
wait leaves do. -/
theorem settle_keeps {I : State → Prop} {m : M Flow} {s : State} (e : Env) (hm : KeepsM I m) (h : I s)
    (hmove : ∀ t a, I t → I (t.moveTo e.q a)) (hregs : ∀ t f, I t → I (t.modRegs e.q f)) (hpark : ∀ t, I t → I (t.parkMid e.q))
    (htrap : ∀ t c a, I t → I (t.trapIn e.q c a)) (hwait : ∀ t w, I t → I (t.waitOn e.q w)) (hrefill : ∀ t, I t → I t.refillFailed) : I (settle s e (m s)) := by
  cases hr : m s with
  | ok p =>
    obtain ⟨a, u⟩ := p
    have hu := (hm s h).1 a u hr
    cases a with
    | next => exact hmove _ _ hu
    | goto a => exact hmove _ _ hu
    | stay => exact hu
  | error x =>
    cases x with
    | trap t =>
      refine htrap _ _ _ (hpark _ ?_)
      split
      · exact clearResume_keeps e hregs h
      · exact h
    | first t => exact htrap _ _ _ (hpark _ (hregs _ _ h))
    | stall w => exact hwait _ w h
    | kept t major u =>
      have hu := (hm s h).2 t major u hr
      refine htrap _ _ _ (hpark _ ?_)
      split
      · exact hrefill _ (hregs _ _ hu)
      · exact hregs _ _ hu

end Sys2Proof.Machine
end

