-- ==== Sys2Proof/Laws/Units.lean ====
section
/-! SUPPORT. The units' parts of the state: a read after a write of a unit's part, and, for each update, the frame that it keeps, in the
terms of `KeepsAllBut`; frames go together along a sequence of updates. -/

namespace Sys2Proof.Machine

/-! ### Frames -/

/-- The registers live in the cores. -/
theorem State.regs_of_cores {s t : State} (h : t.cores = s.cores) : ∀ q, t.regs q = s.regs q := by
  intro q
  simp only [State.regs, State.slot, State.core, h]

theorem KeepsAllBut.refl (s : State) (l : List Part) : KeepsAllBut s s l := by
  refine ⟨rfl, fun p _ => ?_⟩
  cases p <;> simp [Part.kept]

/-- A frame holds of every longer list. -/
theorem KeepsAllBut.mono {s t : State} {l k : List Part} (h : KeepsAllBut s t l) (hl : ∀ p ∈ l, p ∈ k) : KeepsAllBut s t k :=
  ⟨h.1, fun p hp => h.2 p (fun hm => hp (hl p hm))⟩

/-- Two updates one after the other keep what both keep. -/
theorem KeepsAllBut.trans {s t u : State} {l : List Part} (h : KeepsAllBut s t l) (k : KeepsAllBut t u l) : KeepsAllBut s u l := by
  refine ⟨k.1.trans h.1, fun p hp => ?_⟩
  have h1 := h.2 p hp
  have h2 := k.2 p hp
  cases p <;> simp_all [Part.kept]

/-- A fold of updates keeps what each of them keeps. -/
theorem KeepsAllBut.foldl {α : Type} {l : List Part} (f : State → α → State) (hf : ∀ s a, KeepsAllBut s (f s a) l) (as : List α)
    (s : State) : KeepsAllBut s (as.foldl f s) l := by
  induction as generalizing s with
  | nil => exact .refl s l
  | cons a as ih => exact (hf s a).trans (ih (f s a))

/-! ### What each update keeps -/

theorem State.keeps_setCore (s : State) (c : Nat) (v : Core) : KeepsAllBut s (s.setCore c v) [.cores, .registers] := by
  refine ⟨by simp, fun p hp => ?_⟩
  cases p <;> first | exact absurd (by decide) hp | exact State.regs_of_cores (by simp) | simp [Part.kept]

theorem State.keeps_modRegs (s : State) (q : Cx) (f : Regs → Regs) : KeepsAllBut s (s.modRegs q f) [.cores, .registers] := by
  refine ⟨by simp, fun p hp => ?_⟩
  cases p <;> first | exact absurd (by decide) hp | exact State.regs_of_cores (by simp) | simp [Part.kept]

theorem State.keeps_moveTo (s : State) (q : Cx) (a : Nat) : KeepsAllBut s (s.moveTo q a) [.cores, .registers] := by
  refine ⟨by simp, fun p hp => ?_⟩
  cases p <;> first | exact absurd (by decide) hp | exact State.regs_of_cores (by simp) | simp [Part.kept]

theorem State.keeps_setSlot (s : State) (q : Cx) (v : Slot) : KeepsAllBut s (s.setSlot q v) [.cores, .registers] := by
  refine ⟨by simp, fun p hp => ?_⟩
  cases p <;> first | exact absurd (by decide) hp | exact State.regs_of_cores (by simp) | simp [Part.kept]

theorem State.keeps_modSlot (s : State) (q : Cx) (f : Slot → Slot) : KeepsAllBut s (s.modSlot q f) [.cores, .registers] := by
  refine ⟨by simp, fun p hp => ?_⟩
  cases p <;> first | exact absurd (by decide) hp | exact State.regs_of_cores (by simp) | simp [Part.kept]

theorem State.keeps_setRec (s : State) (n c : Nat) (v : Cell) : KeepsAllBut s (s.setRec n c v) [.contexts] := by
  refine ⟨by simp, fun p hp => ?_⟩
  cases p <;> first | exact absurd (by decide) hp | exact State.regs_of_cores (by simp) | simp [Part.kept]

theorem State.keeps_modAux (s : State) (n : Nat) (f : CtxAux → CtxAux) : KeepsAllBut s (s.modAux n f) [.contexts] := by
  refine ⟨by simp, fun p hp => ?_⟩
  cases p <;> first | exact absurd (by decide) hp | exact State.regs_of_cores (by simp) | simp [Part.kept]

theorem State.keeps_setChan (s : State) (n : Nat) (c : Channel) : KeepsAllBut s (s.setChan n c) [.channels] := by
  refine ⟨by simp, fun p hp => ?_⟩
  cases p <;> first | exact absurd (by decide) hp | exact State.regs_of_cores (by simp) | simp [Part.kept]

theorem State.keeps_mem (s : State) (m : List Host.Cell) : KeepsAllBut s { s with mem := m } [.memory] := by
  refine ⟨rfl, fun p hp => ?_⟩
  cases p <;> first | exact absurd (by decide) hp | exact State.regs_of_cores rfl | simp [Part.kept]

theorem State.keeps_setCell (s : State) (pa : Nat) (c : Cell) : KeepsAllBut s (s.setCell pa c) [.memory] :=
  State.keeps_mem s _

theorem State.keeps_setPoison (s : State) (g : Nat) (b : Bool) : KeepsAllBut s (s.setPoison g b) [.memory] := by
  refine ⟨by simp [State.setPoison], fun p hp => ?_⟩
  cases p <;> first | exact absurd (by decide) hp | exact State.regs_of_cores (by simp [State.setPoison]) | simp [Part.kept, State.setPoison]

/-- A cache operation changes the caches, those of the cores among them, and no register. -/
theorem CachesOnly.keeps {s t : State} (h : CachesOnly s t) : KeepsAllBut s t [.caches, .cores] := by
  have hr := h.regs
  obtain ⟨_, _, _, _, _, _, _, _, rfl⟩ := h.moved
  refine ⟨rfl, fun p hp => ?_⟩
  cases p <;> first | exact absurd (by decide) hp | exact hr | simp [Part.kept]

theorem State.keeps_modHeap (s : State) (f : Heap → Heap) : KeepsAllBut s (s.modHeap f) [.heap] := by
  refine ⟨by simp, fun p hp => ?_⟩
  cases p <;> first | exact absurd (by decide) hp | exact State.regs_of_cores (by simp) | simp [Part.kept]

theorem State.keeps_present (s : State) (r : Record) : KeepsAllBut s (s.present r) [.collector] := by
  refine ⟨by simp [State.present], fun p hp => ?_⟩
  cases p <;> first | exact absurd (by decide) hp | exact State.regs_of_cores (by simp [State.present]) | simp [Part.kept, State.present]

theorem State.keeps_emit (s : State) (o : Output) : KeepsAllBut s (s.emit o) [.output] := by
  refine ⟨by simp [State.emit], fun p hp => ?_⟩
  cases p <;> first | exact absurd (by decide) hp | exact State.regs_of_cores (by simp [State.emit]) | simp [Part.kept, State.emit]

theorem State.keeps_setGy (s : State) (g : Nat) (v : Geyser) : KeepsAllBut s (s.setGy g v) [.geysers] := by
  refine ⟨by simp [State.setGy], fun p hp => ?_⟩
  cases p <;> first | exact absurd (by decide) hp | exact State.regs_of_cores (by simp [State.setGy]) | simp [Part.kept, State.setGy]

theorem State.keeps_modGy (s : State) (g : Nat) (f : Geyser → Geyser) : KeepsAllBut s (s.modGy g f) [.geysers] := by
  refine ⟨by simp [State.modGy, State.setGy], fun p hp => ?_⟩
  cases p <;> first | exact absurd (by decide) hp | exact State.regs_of_cores (by simp [State.modGy, State.setGy]) | simp [Part.kept, State.modGy, State.setGy]

theorem State.keeps_setGySlot (s : State) (g n : Nat) (v : GySlot) : KeepsAllBut s (s.setGySlot g n v) [.geysers] := by
  refine ⟨by simp [State.setGySlot, State.modGy, State.setGy], fun p hp => ?_⟩
  cases p <;> first | exact absurd (by decide) hp | exact State.regs_of_cores (by simp [State.setGySlot, State.modGy, State.setGy]) | simp [Part.kept, State.setGySlot, State.modGy, State.setGy]

theorem State.keeps_setIngest (s : State) (k : Nat) (v : Ingest) : KeepsAllBut s (s.setIngest k v) [.geysers] := by
  refine ⟨by simp [State.setIngest], fun p hp => ?_⟩
  cases p <;> first | exact absurd (by decide) hp | exact State.regs_of_cores (by simp [State.setIngest]) | simp [Part.kept, State.setIngest]

theorem State.keeps_setLink (s : State) (n : Nat) (l : Link) : KeepsAllBut s (s.setLink n l) [.links] := by
  refine ⟨by simp [State.setLink], fun p hp => ?_⟩
  cases p <;> first | exact absurd (by decide) hp | exact State.regs_of_cores (by simp [State.setLink]) | simp [Part.kept, State.setLink]

theorem State.keeps_modLink (s : State) (n : Nat) (f : Link → Link) : KeepsAllBut s (s.modLink n f) [.links] := by
  refine ⟨by simp [State.modLink, State.setLink], fun p hp => ?_⟩
  cases p <;> first | exact absurd (by decide) hp | exact State.regs_of_cores (by simp [State.modLink, State.setLink]) | simp [Part.kept, State.modLink, State.setLink]

theorem State.keeps_modTime (s : State) (f : TimeUnit → TimeUnit) : KeepsAllBut s (s.modTime f) [.time] := by
  refine ⟨by simp [State.modTime], fun p hp => ?_⟩
  cases p <;> first | exact absurd (by decide) hp | exact State.regs_of_cores (by simp [State.modTime]) | simp [Part.kept, State.modTime]

theorem State.keeps_modJr (s : State) (f : Journal → Journal) : KeepsAllBut s (s.modJr f) [.journal] := by
  refine ⟨by simp [State.modJr], fun p hp => ?_⟩
  cases p <;> first | exact absurd (by decide) hp | exact State.regs_of_cores (by simp [State.modJr]) | simp [Part.kept, State.modJr]

theorem State.keeps_setFunc (s : State) (n : Nat) (v : Func) : KeepsAllBut s (s.setFunc n v) [.host] := by
  refine ⟨by simp [State.setFunc], fun p hp => ?_⟩
  cases p <;> first | exact absurd (by decide) hp | exact State.regs_of_cores (by simp [State.setFunc]) | simp [Part.kept, State.setFunc]

theorem State.keeps_modFunc (s : State) (n : Nat) (g : Func → Func) : KeepsAllBut s (s.modFunc n g) [.host] := by
  refine ⟨by simp [State.modFunc, State.setFunc], fun p hp => ?_⟩
  cases p <;> first | exact absurd (by decide) hp | exact State.regs_of_cores (by simp [State.modFunc, State.setFunc]) | simp [Part.kept, State.modFunc, State.setFunc]

theorem State.keeps_modDict (s : State) (f : Dict → Dict) : KeepsAllBut s (s.modDict f) [.dictionary] := by
  refine ⟨by simp [State.modDict], fun p hp => ?_⟩
  cases p <;> first | exact absurd (by decide) hp | exact State.regs_of_cores (by simp [State.modDict]) | simp [Part.kept, State.modDict]

theorem State.keeps_modPanel (s : State) (f : Panel → Panel) : KeepsAllBut s (s.modPanel f) [.panel] := by
  refine ⟨by simp [State.modPanel], fun p hp => ?_⟩
  cases p <;> first | exact absurd (by decide) hp | exact State.regs_of_cores (by simp [State.modPanel]) | simp [Part.kept, State.modPanel]

theorem State.keeps_setPanelInput (s : State) (g i : Nat) (x : PanelInput) : KeepsAllBut s (s.setPanelInput g i x) [.panel] := by
  refine ⟨by simp [State.setPanelInput, State.modPanel], fun p hp => ?_⟩
  cases p <;> first | exact absurd (by decide) hp | exact State.regs_of_cores (by simp [State.setPanelInput, State.modPanel]) | simp [Part.kept, State.setPanelInput, State.modPanel]

theorem State.keeps_modPower (s : State) (f : Power → Power) : KeepsAllBut s (s.modPower f) [.power] := by
  refine ⟨by simp [State.modPower], fun p hp => ?_⟩
  cases p <;> first | exact absurd (by decide) hp | exact State.regs_of_cores (by simp [State.modPower]) | simp [Part.kept, State.modPower]

theorem State.keeps_modDep (s : State) (f : Depend → Depend) : KeepsAllBut s (s.modDep f) [.dependability] := by
  refine ⟨by simp [State.modDep], fun p hp => ?_⟩
  cases p <;> first | exact absurd (by decide) hp | exact State.regs_of_cores (by simp [State.modDep]) | simp [Part.kept, State.modDep]

theorem State.keeps_modBoot (s : State) (f : Boot → Boot) : KeepsAllBut s (s.modBoot f) [.boot] := by
  refine ⟨by simp [State.modBoot], fun p hp => ?_⟩
  cases p <;> first | exact absurd (by decide) hp | exact State.regs_of_cores (by simp [State.modBoot]) | simp [Part.kept, State.modBoot]

/-! ### Reads after writes -/

@[simp] theorem State.gy_setGy_self (s : State) (g : Nat) (v : Geyser) : (s.setGy g v).gy g = v := SMap.get_set_self _ _ _ _

theorem State.gy_setGy_ne (s : State) (g : Nat) (v : Geyser) {k : Nat} (h : k ≠ g) : (s.setGy g v).gy k = s.gy k :=
  SMap.get_set_ne _ _ _ h

@[simp] theorem State.link_setLink_self (s : State) (g : Nat) (v : Link) : (s.setLink g v).link g = v := SMap.get_set_self _ _ _ _

theorem State.link_setLink_ne (s : State) (g : Nat) (v : Link) {k : Nat} (h : k ≠ g) : (s.setLink g v).link k = s.link k :=
  SMap.get_set_ne _ _ _ h

@[simp] theorem State.func_setFunc_self (s : State) (g : Nat) (v : Func) : (s.setFunc g v).func g = v := SMap.get_set_self _ _ _ _

theorem State.func_setFunc_ne (s : State) (g : Nat) (v : Func) {k : Nat} (h : k ≠ g) : (s.setFunc g v).func k = s.func k :=
  SMap.get_set_ne _ _ _ h

@[simp] theorem State.ingestOf_setIngest_self (s : State) (g : Nat) (v : Ingest) : (s.setIngest g v).ingestOf g = v := SMap.get_set_self _ _ _ _

theorem State.ingestOf_setIngest_ne (s : State) (g : Nat) (v : Ingest) {k : Nat} (h : k ≠ g) : (s.setIngest g v).ingestOf k = s.ingestOf k :=
  SMap.get_set_ne _ _ _ h

@[simp] theorem State.gySlot_setGySlot_self (s : State) (g n : Nat) (v : GySlot) : (s.setGySlot g n v).gySlot g n = v := by
  simp [State.gySlot, State.setGySlot, State.modGy, Geyser.slot]

/-- Another slot of the same geyser is not touched. -/
theorem State.gySlot_setGySlot_ne (s : State) (g : Nat) {n m : Nat} (v : GySlot) (h : m ≠ n) :
    (s.setGySlot g n v).gySlot g m = s.gySlot g m := by
  simp only [State.gySlot, State.setGySlot, State.modGy, State.gy_setGy_self, Geyser.slot]
  exact SMap.get_set_ne _ _ _ h

@[simp] theorem State.panelInput_setPanelInput_self (s : State) (g i : Nat) (x : PanelInput) :
    (s.setPanelInput g i x).panelInput g i = x := SMap.get_set_self _ _ _ _

theorem State.panelInput_setPanelInput_ne (s : State) {g i h j : Nat} (x : PanelInput) (hne : 256 * h + j ≠ 256 * g + i) :
    (s.setPanelInput g i x).panelInput h j = s.panelInput h j := SMap.get_set_ne _ _ _ hne

end Sys2Proof.Machine
end

