-- ==== Sys2Proof/WellFormed.lean ====
section
/-! DEFINITION. Which commands are well formed: the operands of a command that its type alone does not bound. The device
itself never meets an ill-formed command; exec is total all the same. -/

namespace Sys2Proof

/-- The physical cores 9k + p that exist (R457). -/
def physCoreOk (p : Nat) : Bool := p < 72

/-- A BootEnv names physical cores that exist. -/
def BootEnv.wellFormed (e : BootEnv) : Bool := e.selfTestFail.all physCoreOk

/-- No entry of `l` occurs twice. -/
def noRepeats {α : Type} [DecidableEq α] : List α → Bool
  | [] => true
  | a :: l => !l.contains a && noRepeats l

/-- A dictionary write comes from a master of R409 or from a program. -/
def DictWrite.wellFormed (w : DictWrite) : Bool :=
  let m := w.master.toNat
  m ≤ 0x04 || (0x10 ≤ m && m ≤ 0x9F) || m == 0xFE

/-- The bytes of a window of a function (R383, R384); configuration space has 4,096. -/
def HostWindow.bytes : HostWindow → Nat
  | .control => 2 ^ 16
  | .memory => 2 ^ 36
  | .ingest => 2 ^ 28
  | .config => 4096

/-- The checks on each command's operands. -/
def Instr.wellFormed : Instr → Bool
  | .recordParityScan bad => noRepeats bad
  | .ingestWrite _ off data => !data.bytes.isEmpty && decide (off.toNat + data.bytes.length ≤ 2 ^ 28)
  | .hostMemoryRead _ a r => decide (0 < r.len) && decide (a.off.toNat + r.len ≤ a.window.bytes)
  | .hostMemoryWrite _ off data _ => !data.isEmpty && decide (off.toNat + data.length ≤ 2 ^ 36)
  | .credit _ count => count != 0
  | .wearLevelMove unit dest _ => unit != dest
  | .panelScan p => p.pads.length == 16
  | .sensorRead mk => mk.length == 16
  | .pmbusPoll r => noRepeats (r.map (·.dev))
  | .pmbAlert r => noRepeats (r.map (·.dev))
  | .powerReturnRestart env => env.wellFormed
  | .railFaultRestart env => env.wellFormed
  | .powerOnReset env => env.wellFormed
  | .stateExit env => env.wellFormed
  | .warmrst w env => w.wellFormed && env.wellFormed
  | .clurst w bad => w.wellFormed && bad.all (fun c => c < 64)
  | .ereset w => w.wellFormed
  | .bzon w => w.wellFormed
  | .retire w => w.wellFormed
  | .vpact w => w.wellFormed
  | .mcact w => w.wellFormed
  | .imgHandOver w => w.wellFormed
  | .imgCancel w => w.wellFormed
  | .imgconf w => w.wellFormed
  | .lock w => w.wellFormed
  | .vpatch w _ => w.wellFormed
  | .mcpatch w _ => w.wellFormed
  | .imgLoad w _ => w.wellFormed
  | .unlock w _ => w.wellFormed
  | .dmaTransferComplete r => decide (r.data.length ≤ r.moved)
  | .wakeEvent (.frame port _ _) => port.toNat < 6
  | .pllLock p => p.toNat < 12
  | .deviceRegisterWrite (.host _ off data) => !data.bytes.isEmpty && decide (off.toNat + data.bytes.length ≤ 2 ^ 16)
  | _ => true

end Sys2Proof
end

