-- ==== Sys2Proof/Tests/Slice0.lean ====
section
/-! SUPPORT. Tests: the checks of `Instr.wellFormed`, single steps with results worked out by hand from the spec, and for each
statement with hypotheses a witness that meets them. A witness is a state built from `State.reset` by the helpers below. -/

namespace Sys2Proof.Tests

open Sys2Proof.Machine

set_option Elab.async false

/-! ### Helpers -/

/-- The issue of an instruction in slot 0 of core 0. -/
def wi : Issue := { core := 0, slot := 0, parity := .none }
def wq : Cx := ⟨0, 0⟩

/-- Context 5 executes in slot 0 of core 0 with the registers `r`; `f` makes the rest of the state. -/
def wst (r : Regs) (f : State → State := id) : State :=
  let s := (f State.reset).setRec 5 24 (mkCell tagRAW 0 (2 * 2 ^ 17 + 2 ^ 16) 0)
  s.modSlot wq (fun v => { v with ctx := some 5, regs := r })

/-- Machine level and user level, PC at a slot. -/
def wm : Regs := { pc := 0x1000, st := 0x8000000000000000 }
def wu : Regs := { pc := 0x1000 }

/-- `MODE` 0 with `BASE` b, `MODE` 4 with an immediate, `MODE` 1 with F, `MODE` 2 with F, and no operand. -/
def oReg (b : BitVec 4) : MOp := { mode := 0, base := b, disp := 0 }
def oImm (d : BitVec 16) : MOp := { mode := 4, base := 0, disp := d }
def oF : MOp := { mode := 1, base := 0, disp := 0 }
def oFX : MOp := { mode := 2, base := 0, disp := 0 }
def oNone : MOp := { mode := 0, base := 0, disp := 0 }

/-- `Issues` from a check that Lean can decide. -/
def ready (s : State) (word : Word32) (slots : Nat) : Bool :=
  decide ((s.slot wq).ctx = some 5) && s.issuable wq 5 && decide ((s.slot wq).mid = Mid.none) &&
    decide (s.asyncDue 5 (s.regs wq).st = none) && decide (s.bkFetch (s.envAt wq 5 word slots) = none)

theorem issues_of_ready {s : State} {word : Word32} {slots : Nat} (h : ready s word slots = true) :
    Issues s wi 5 word slots (s.envAt wq 5 word slots) := by
  simp only [ready, Bool.and_eq_true, decide_eq_true_eq] at h
  exact ⟨⟨h.1.1.1.1, h.1.1.1.2, h.1.1.2, h.1.2, rfl⟩, rfl, h.2⟩

/-- An instruction without an operand in memory issues anew in `s`, and `P` holds of its environment. -/
def Starts (s : State) (word : Word32) (slots : Nat) (P : Env → Prop) : Prop :=
  ∃ e, Issues s wi 5 word slots e ∧ Fresh s e ∧ P e

theorem starts {s : State} {word : Word32} {slots : Nat} {P : Env → Prop} [DecidablePred P]
    (h : (ready s word slots && decide (bit (s.regs wq).st stRESUME = false) &&
      decide (P (s.envAt wq 5 word slots))) = true) : Starts s word slots P := by
  simp only [Bool.and_eq_true, decide_eq_true_eq] at h
  exact ⟨_, issues_of_ready h.1.1, h.1.2, h.2⟩

/-- The M-format instruction `op` with operand `o` issues anew in `s`, its operand reads, and `P` holds of the environment, of
the registers that the read leaves, and of the cell read. -/
def Meets (s : State) (op : BitVec 8) (o : MOp) (opn : Nat) (P : Env → Regs → Cell → Prop) : Prop :=
  ∃ e c fa t, IssuesM s wi 5 op o e ∧ Fresh s e ∧ Reads s e o opn c fa t ∧ P e (t.regs e.q) c

def meetsB (s : State) (op : BitVec 8) (o : MOp) (opn : Nat) (p : Env → Regs → Cell → Bool) : Bool :=
  let e := s.envAt wq 5 (mWord op o) o.slots
  ready s (mWord op o) o.slots && decide (bit (s.regs wq).st stRESUME = false) &&
    match decodeRead e o opn (s.started e) with
    | .ok ((c, _), t) => p e (t.regs e.q) c
    | .error _ => false

theorem meets {s : State} {op : BitVec 8} {o : MOp} {opn : Nat} {P : Env → Regs → Cell → Prop}
    [∀ e r c, Decidable (P e r c)] (h : meetsB s op o opn (fun e r c => decide (P e r c)) = true) : Meets s op o opn P := by
  simp only [meetsB, Bool.and_eq_true, decide_eq_true_eq] at h
  obtain ⟨⟨h1, h2⟩, h3⟩ := h
  split at h3
  · rename_i c fa t heq
    exact ⟨_, c, fa, t, issues_of_ready h1, h2, heq, of_decide_eq_true h3⟩
  · exact absurd h3 (by simp)

/-- `Plain` from a check that Lean can decide. -/
def plainB (s : State) (e : Env) (va pa : Nat) : Bool :=
  (match (s.core e.q.core).tlbFind (s.ctxAsid e.n) va with
   | some t => t.r && t.w && !t.wt && (!e.user || t.u) && decide (pa = t.pa va / 16 * 16)
   | none => false) &&
  decide (pa < hbmEnd) && decide (s.dbg.bkctl = []) && !s.poisoned (pa / 128) && decide ((s.core e.q.core).lockn = 0) &&
  !s.heap.en && decide ((s.slot e.q).det = {}) && decide ((s.core e.q.core).merge = []) && (s.core e.q.core).den &&
  (s.core e.q.core).ocDefined && !e.q.isVent && (s.core e.q.core).ocHit pa

theorem plain_of_plainB {s : State} {e : Env} {va pa : Nat} (h : plainB s e va pa = true) : Plain s e va pa := by
  simp only [plainB, Bool.and_eq_true, decide_eq_true_eq, Bool.not_eq_true'] at h
  obtain ⟨⟨⟨⟨⟨⟨⟨⟨⟨⟨⟨h1, h2⟩, h3⟩, h4⟩, h5⟩, h6⟩, h7⟩, h8⟩, h9⟩, h10⟩, h11⟩, h12⟩ := h
  split at h1
  · rename_i t heq
    simp only [Bool.and_eq_true, decide_eq_true_eq, Bool.not_eq_true', Bool.or_eq_true] at h1
    exact ⟨⟨t, heq, h1.1.1.1.1, h1.1.1.1.2, h1.1.1.2, fun hu => by simpa [hu] using h1.1.2, h1.2⟩, h2, h3, h4, h5, h6, h7, h8, h9,
      h10, h11, h12⟩
  · exact absurd h1 (by simp)

/-- A state in which core 0 maps the first 16 KiB of virtual addresses to HBM at 0x10000 by a write-back page, its object cache
on and holding all of them, the first 2 KiB owned by its cluster; `f` goes first. -/
def wmem (f : State → State := id) (s : State) : State :=
  let own := fun k : Nat => (dirKey k, [DirEntry.mk k (some 0) 0])
  let l := (List.range 8).map (fun i => 512 + i / 2 * 4 + i % 2)
  State.modCore { f s with dir := l.map own ++ l.map (fun k => own (k + 2)) } 0 (fun k => { k with
    den := true, ocDefined := true, oc := (List.range 32).map (fun i => ⟨128 + i, 15, 0, false⟩), tlb := [(20, some
    { sz := 0, g := true, vpn := 0, asid := 0, pfn := 4, dev := false, wt := false, u := true, x := true, w := true, r := true })] })


/-- The same for several opcodes, and for several words. -/
theorem meetsAll {s : State} {ops : List (BitVec 8)} {o : MOp} {opn : Nat} {P : Env → Regs → Cell → Prop}
    [∀ e r c, Decidable (P e r c)] (h : (ops.all fun op => meetsB s op o opn (fun e r c => decide (P e r c))) = true) :
    ∀ op ∈ ops, Meets s op o opn P := fun op hop => meets (List.all_eq_true.mp h op hop)

theorem startsAll {s : State} {ws : List Word32} {slots : Nat} {P : Env → Prop} [DecidablePred P]
    (h : (ws.all fun w => ready s w slots && decide (bit (s.regs wq).st stRESUME = false) &&
      decide (P (s.envAt wq 5 w slots))) = true) : ∀ w ∈ ws, Starts s w slots P :=
  fun w hw => starts (List.all_eq_true.mp h w hw)

/-- A CAP over `lo` to `hi` − 1, at most 447 cells, with the rights and the `BASE` given. -/
def wcap (rights lo hi base : Nat) : Cell := mkCap tagCAP 0 rights 0 0 (lo / 16) (hi / 16) base
/-- Every right but `SEAL` and `UNSEAL`. -/
def wall : Nat := 0xF9F

/-! ### Witnesses: states and operands that meet the hypotheses of each statement -/

/-- A queue with commands, and one without; each runs. -/
theorem test_hyps_steps : (∃ c rest, ({ State.reset with pending := [.erel, .pnevtRead] } : State).pending = c :: rest) ∧
    State.reset.pending = [] ∧ (∃ t, step { State.reset with pending := [.erel, .pnevtRead] } = .next t) ∧
    ∃ t, exec .erel State.reset = .next t := ⟨⟨_, _, rfl⟩, rfl, ⟨_, rfl⟩, ⟨_, rfl⟩⟩

/-- A memory that lists bytes in canonical form. -/
theorem test_hyps_EveryStepKeepsMemoryCanonical :
    Memory.wf (State.reset.setCell 0x100 (mkFIX (-1))).mem = true ∧ (State.reset.setCell 0x100 (mkFIX (-1))).mem ≠ [] ∧
    ∃ t, step (State.reset.setCell 0x100 (mkFIX (-1))) = .next t := ⟨by decide +kernel, by decide +kernel, ⟨_, rfl⟩⟩

/-- An operand of each accepted tag, and of a tag that is refused. -/
theorem test_hyps_LoadsFollowTheirTags :
    Meets (wst wm) 0x01 (oImm 0x8000) 1 (fun _ _ _ => True) ∧
    (∀ op ∈ [(0x05 : BitVec 8), 0x06, 0x07, 0x17], Meets (wst wm) op (oImm 0xFFFF) 1 (fun _ _ c => c.reserved = false ∧
      c.tag = tagFIX)) ∧
    (∀ op ∈ [(0x05 : BitVec 8), 0x06, 0x07, 0x17],
      Meets (wst { wm with a := mkRAW 0x100000000 }) op (oReg 6) 1 (fun _ _ c => c.reserved = false ∧ c.tag = tagRAW ∧
        0xFFFFFFFF < c.pay)) ∧
    (∀ op ∈ [(0x0B : BitVec 8), 0x0C, 0x0D, 0x0E],
      Meets (wst { wm with f := wcap wall 0 0x100 0x10 }) op (oReg 0) 1 (fun _ _ c => c.reserved = false ∧ c.tag = tagCAP)) ∧
    (∀ op ∈ [(0x05 : BitVec 8), 0x06, 0x07, 0x17, 0x0B, 0x0C, 0x0D, 0x0E],
      Meets (wst { wm with a := constNil }) op (oReg 6) 1
        (fun _ _ c => c.reserved = false ∧ c.tag ≠ tagFIX ∧ c.tag ≠ tagRAW ∧ c.tag ≠ tagCAP)) :=
  ⟨meets (by decide +kernel), meetsAll (by decide +kernel), meetsAll (by decide +kernel), meetsAll (by decide +kernel),
    meetsAll (by decide +kernel)⟩

/-- A cause above `ML`, one at or below it, and MCALL at either level. -/
theorem test_hyps_CausesEnterMachineCode :
    Starts (wst wu) (mWord 0x10 oNone) 1 (fun e => bit ((wst wu).regs e.q).st 62 = false ∧ cPRIV ≠ cMCALL ∧
      field ((wst wu).regs e.q).st 55 52 < causeLevel cPRIV 0) ∧
    (let r : Regs := { wm with st := 0x80F0000000000000 }
     Starts (wst r) (mWord 0x10 oNone) 1 (fun e => bit ((wst r).regs e.q).st 62 = false ∧
      causeLevel cPRIV 0 ≤ field ((wst r).regs e.q).st 55 52)) ∧
    (∀ r ∈ [wu, wm], Starts (wst r) (sWord 0xE0 0 0xFFFF) 1 (fun e => bit ((wst r).regs e.q).st 62 = false ∧
      field ((wst r).regs e.q).st 55 52 < 4)) :=
  ⟨starts (by decide +kernel), starts (by decide +kernel), by
    intro r hr
    fin_cases hr <;> exact starts (by decide +kernel)⟩

/-- The addresses 0 and 2^56 − 16 of each mode, and the first address outside on each side. -/
theorem test_hyps_OperandFormsGiveTheirValues :
    let top : Cell := plain tagCAP (2 ^ 56 - 16)
    (baseAddress { wm with f := top } 0 + 16 * ((0 : BitVec 16).toInt) = 2 ^ 56 - 16 ∧
      baseAddress { wm with f := top } 0 + 16 * ((1 : BitVec 16).toInt) > 2 ^ 56 - 16) ∧
    (baseAddress wm 0 + 16 * ((0 : BitVec 16).toInt) = 0 ∧ baseAddress wm 0 + 16 * ((0xFFFF : BitVec 16).toInt) < 0 ∧
      baseAddress wm 0 - 16 < 0) ∧
    (let a := wcap wall 0 0x100 0x10
     a.reserved = false ∧ a.tag ≠ tagSEAL ∧ a.isCapOrSeal = true) ∧
    (let a := plain tagVEC 0x100
     a.reserved = false ∧ a.tag ≠ tagSEAL ∧ a.isRef = true) ∧
    ((wst wm).envAt wq 5 (mWord 0x01 oNone) 1).user = false := by decide +kernel

/-- User level: an address below and above the bounds, and in them without the right. -/
theorem test_hyps_UserAccessNeedsItsCapability :
    let c := wcap 0 0x20 0x40 0x30
    ((wst { wu with f := c }).envAt wq 5 (mWord 0x01 oF) 1).user = true ∧ ((wst { wu with f := c }).regs wq).f = c ∧
      c.tag = tagCAP ∧
    c.reserved = false ∧ c.capL = 0x20 ∧ c.capU = 0x40 ∧ (c.pay + 16 * (0xFFFE : BitVec 16).toInt < c.capL) ∧
    (c.capU < c.pay + 16 * (1 : BitVec 16).toInt + 16) ∧ (c.capL ≤ c.pay + 16 * (0xFFFF : BitVec 16).toInt) ∧
    (c.pay + 16 * (0 : BitVec 16).toInt + 16 ≤ c.capU) ∧ c.rights.testBit rLOAD = false ∧ c.rights.testBit rSTORE = false := by
  decide +kernel

/-- Two FIX whose result is the largest or the least that a FIX holds, one FIX, and results outside it. -/
theorem test_hyps_IntegerInstructionsAreExact :
    let m : Int := 2 ^ 63 - 1
    Meets (wst { wm with a := mkFIX (m - 7) }) 0x20 (oImm 7) 2 (fun _ r c => Is r.a tagFIX ∧ Is c tagFIX ∧ r.a.int + c.int = m ∧
      fitsFix (r.a.int + c.int) = true) ∧
    Meets (wst { wm with a := mkFIX (-m) }) 0x21 (oImm 1) 2 (fun _ r c => Is r.a tagFIX ∧ Is c tagFIX ∧ r.a.int - c.int = -2 ^ 63 ∧
      fitsFix (r.a.int - c.int) = true) ∧
    Meets (wst { wm with a := mkFIX (2 ^ 62) }) 0x22 (oImm 0xFFFE) 2 (fun _ r c => Is r.a tagFIX ∧ Is c tagFIX ∧
      fitsFix (r.a.int * c.int) = true) ∧
    (∀ op ∈ [(0x23 : BitVec 8), 0x24, 0x25], Meets (wst { wm with a := mkFIX (-12) }) op (oImm 3) 2 (fun _ r c => Is r.a tagFIX ∧
      Is c tagFIX ∧
      c.int ≠ 0 ∧ r.a.int = -4 * c.int ∧ fitsFix (-4) = true)) ∧
    (∀ op ∈ [(0x24 : BitVec 8), 0x25], Meets (wst { wm with a := mkFIX (-7) }) op (oImm 0xFFFE) 2 (fun _ r c => Is r.a tagFIX ∧
      Is c tagFIX ∧
      c.int ≠ 0 ∧ r.a.int = 3 * c.int + (-1) ∧ |(-1 : Int)| < |c.int| ∧ (0 ≤ r.a.int → (0 : Int) ≤ -1) ∧ fitsFix 3 = true)) ∧
    (∀ op ∈ [(0x28 : BitVec 8), 0x36], Meets (wst { wm with a := mkFIX (-1) }) op (oImm 63) 2 (fun _ r c => Is r.a tagFIX ∧
      Is c tagFIX ∧
      c.int = (63 : Nat) ∧ fitsFix (r.a.int * 2 ^ 63) = true)) ∧
    (∀ op ∈ [(0x28 : BitVec 8), 0x36], Meets (wst { wm with a := mkFIX (-1) }) op (oImm 0xFFFF) 2 (fun _ r c => Is r.a tagFIX ∧
      Is c tagFIX ∧
      c.int = -(1 : Nat))) ∧
    Meets (wst { wm with a := mkFIX (-2) }) 0x29 (oImm 63) 2 (fun _ r c => Is r.a tagFIX ∧ Is c tagFIX ∧ c.int = (63 : Nat) ∧
      fitsFix (r.a.int ^ 63) = true) ∧
    (∀ op ∈ [(0x26 : BitVec 8), 0x27, 0x3A, 0x39, 0x3E, 0x34, 0x35], Meets (wst wm) op (oImm 0xFFFF) 1 (fun _ _ c => Is c tagFIX ∧
      c.int ≠ -2 ^ 63 ∧ c.int < 0)) ∧
    (∀ op ∈ [(0x3E : BitVec 8), 0x3D], Meets (wst { wm with x := 0x10FFFF }) op (oReg 4) 1 (fun _ _ c => Is c tagFIX ∧ 0 ≤ c.int ∧
      0xE000 ≤ c.pay ∧
      c.pay ≤ 0x10FFFF)) ∧
    Meets (wst { wm with x := 0xD7FF }) 0x3D (oReg 4) 1 (fun _ _ c => Is c tagFIX ∧ c.pay < 0xD800) ∧
    Meets (wst { wm with a := plain tagCHR 0x10FFFF }) 0x3F (oReg 6) 1 (fun _ _ c => Is c tagCHR) ∧
    Meets (wst { wm with a := mkTIME (2 ^ 63 - 1) }) 0x3F (oReg 6) 1 (fun _ _ c => Is c tagTIME ∧ c.pay < 2 ^ 63) ∧
    Meets (wst { wm with a := mkFIX m }) 0x30 (oImm 1) 2 (fun _ r c => Is r.a tagFIX ∧ Is c tagFIX ∧
      fitsFix (r.a.int + c.int) = false) ∧
    (∀ op ∈ [(0x31 : BitVec 8), 0x32, 0x33], Meets (wst { wm with a := mkFIX (-2 ^ 63) }) op (oImm 0xFFFF) 2 (fun _ r c => Is r.a tagFIX ∧ Is c tagFIX ∧
      c.int ≠ 0)) := by
  repeat' refine And.intro ?_ ?_
  all_goals first | exact meets (by decide +kernel) | exact meetsAll (by decide +kernel)

/-- Two numbers of one kind, in and out of order; nil; type numbers 255 and 256. -/
theorem test_hyps_ComparisonsAndTypeTests :
    (∀ op ∈ [(0x50 : BitVec 8), 0x51, 0x52, 0x53, 0x54, 0x55],
      Meets (wst { wm with a := mkFIX (-3) }) op (oImm 4) 2 (fun _ r c => Is r.a tagFIX ∧ Is c tagFIX ∧ r.a.int < c.int) ∧
      Meets (wst { wm with a := mkTIME 9 }) op (oReg 6) 2 (fun _ r c => Is r.a tagTIME ∧ Is c tagTIME ∧ r.a.pay = c.pay) ∧
      Meets (wst { wm with a := plain tagCHR 9 }) op (oReg 6) 2 (fun _ r c => Is r.a tagCHR ∧ Is c tagCHR ∧ r.a.pay = c.pay)) ∧
    Meets (wst wm) 0x56 (oImm 4) 2 (fun _ _ _ => True) ∧
    Meets (wst wm) 0x58 (oImm 255) 2 (fun _ _ c => Is c tagFIX ∧ c.pay ≤ 255) ∧
    Meets (wst wm) 0x58 (oImm 256) 2 (fun _ _ c => Is c tagFIX ∧ 255 < c.pay) ∧
    (∀ op ∈ [(0x59 : BitVec 8), 0x80, 0x81], Meets (wst { wm with a := constNil }) op (oReg 6) 1 (fun _ _ c => Is c tagCONST ∧
      c.pay = 0)) :=
  ⟨fun op h => ⟨meetsAll (by decide +kernel) op h, meetsAll (by decide +kernel) op h, meetsAll (by decide +kernel) op h⟩,
    meets (by decide +kernel), meets (by decide +kernel), meets (by decide +kernel), meetsAll (by decide +kernel)⟩

/-- FLO operands; division by zero with and without `FTRAP`. -/
theorem test_hyps_FloatArithmeticSticksItsFlags :
    let one := mkFLO 0x3FF0000000000000
    (∀ op ∈ [(0x20 : BitVec 8), 0x21, 0x22, 0x23], Meets (wst { wm with a := one }) op (oReg 6) 2
      (fun _ r c => Is r.a tagFLO ∧ Is c tagFLO ∧ bit r.st 13 = false)) ∧
    Meets (wst { wm with a := one, st := 0x8000000000002000 }) 0x23 (oReg 6) 2
      (fun _ r c => Is r.a tagFLO ∧ Is c tagFLO ∧ bit r.st 13 = true ∧ c.pay % 2 ^ 63 ≠ 0) ∧
    Meets (wst { wm with a := mkFLO 0x8000000000000000, st := 0x8000000000002000 }) 0x23 (oReg 6) 2
      (fun _ r c => Is r.a tagFLO ∧ Is c tagFLO ∧ bit r.st 13 = true ∧ c.pay % 2 ^ 63 = 0) ∧
    (∀ op ∈ [(0x2A : BitVec 8), 0x38], Meets (wst { wm with a := one }) op (oReg 6) 1 (fun _ _ c => Is c tagFLO)) :=
  ⟨meetsAll (by decide +kernel), meets (by decide +kernel), meets (by decide +kernel), meetsAll (by decide +kernel)⟩

/-- The operand of `oF` is the cell `c`, at virtual 0x100, in HBM at 0x10100; `d` is the cell after it. -/
def wop (r : Regs) (c : Cell) (d : Cell := 0) : State :=
  wst { r with f := wcap wall 0 0x1000 0x100 } (wmem (fun s => (s.setCell 0x10100 c).setCell 0x10110 d))

/-- Quantities of equal and different `DIM`, points and differences, and exponents at 7 and beyond. -/
theorem test_hyps_QuantityArithmeticKeepsDimensions :
    let q := fun dim abs => mkQTY dim 0 abs 5 0x3FF0000000000000
    let A := fun (a : Cell) (st : Word64) => { wm with a := a, st := st }
    let plain : Word64 := 0x8000000000000000
    let fits := fun d : Nat → Int => ∀ k, k < 7 → -8 ≤ d k ∧ d k ≤ 7
    let two := fun (r : Regs) (c : Cell) => Is r.a tagQTY ∧ Is c tagQTY
    (∀ op ∈ [(0x20 : BitVec 8), 0x21],
      Meets (wop (A (q 1 0) plain) (q 2 0)) op oF 2 (fun _ r c => two r c ∧ r.a.qDim ≠ c.qDim) ∧
      Meets (wop (A (q 1 0) plain) (q 1 0)) op oF 2 (fun _ r c => two r c ∧ r.a.qDim = c.qDim ∧ r.a.qAbs + c.qAbs ≤ 1 ∧
        c.qAbs ≤ r.a.qAbs)) ∧
    Meets (wop (A (q 1 1) plain) (q 1 1)) 0x20 oF 2 (fun _ r c => two r c ∧ r.a.qDim = c.qDim ∧ r.a.qAbs = 1 ∧ c.qAbs = 1) ∧
    Meets (wop (A (q 1 0) plain) (q 1 1)) 0x21 oF 2 (fun _ r c => two r c ∧ r.a.qDim = c.qDim ∧ r.a.qAbs = 0 ∧ c.qAbs = 1) ∧
    Meets (wop (A (q 7 0) plain) (q 1 0)) 0x22 oF 2 (fun _ r c => two r c ∧ dimDigit r.a.qDim 0 + dimDigit c.qDim 0 = 8) ∧
    Meets (wop (A (q 6 0) plain) (q 1 0)) 0x22 oF 2 (fun _ r c => two r c ∧ r.a.qAbs = 0 ∧ c.qAbs = 0 ∧
      fits (fun k => dimDigit r.a.qDim k + dimDigit c.qDim k) ∧ dimDigit r.a.qDim 0 + dimDigit c.qDim 0 = 7) ∧
    Meets (wop (A (q 1 1) plain) (q 1 0)) 0x22 oF 2 (fun _ r c => two r c ∧ r.a.qAbs = 1 ∧ bit r.st 12 = false ∧
      fits (fun k => dimDigit r.a.qDim k + dimDigit c.qDim k)) ∧
    Meets (wop (A (q 1 1) 0x8000000000001000) (q 1 0)) 0x22 oF 2 (fun _ r c => two r c ∧ bit r.st 12 = true ∧
      fits (fun k => dimDigit r.a.qDim k + dimDigit c.qDim k)) ∧
    Meets (wop (A (q 0xF 0) plain) (q 7 0)) 0x23 oF 2 (fun _ r c => two r c ∧ r.a.qAbs = 0 ∧ c.qAbs = 0 ∧ bit r.st 13 = false ∧
      fits (fun k => dimDigit r.a.qDim k - dimDigit c.qDim k) ∧ dimDigit r.a.qDim 0 - dimDigit c.qDim 0 = -8) ∧
    Meets (wop (A (q 0xE 0) plain) (q 7 0)) 0x23 oF 2 (fun _ r c => two r c ∧ dimDigit r.a.qDim 0 - dimDigit c.qDim 0 = -9) ∧
    Meets (wop (A (q 1 0) plain) (q 1 1)) 0x23 oF 2 (fun _ r c => two r c ∧ c.qAbs = 1 ∧ bit r.st 12 = false ∧
      fits (fun k => dimDigit r.a.qDim k - dimDigit c.qDim k)) := by
  refine ⟨fun op h => ⟨meetsAll (by decide +kernel) op h, meetsAll (by decide +kernel) op h⟩, ?_⟩
  repeat' refine And.intro ?_ ?_
  all_goals exact meets (by decide +kernel)

/-- The operand tags of each instruction; codes at their bounds. -/
theorem test_hyps_QuantityFieldsReadAndReplace :
    let q := fun dim abs pay => mkQTY dim 0x1234 abs 5 pay
    let one : Word64 := 0x3FF0000000000000
    let A := fun a : Cell => { wm with a := a }
    Meets (wop (A (mkFLO one)) (mkRAW 0xFFFFFFFFFFFFFFFF)) 0x40 oF 2 (fun _ r c => Is r.a tagFLO ∧ Is c tagRAW) ∧
    Meets (wop (A (mkFLO one)) (mkRAW 0)) 0x42 oF 2 (fun _ r c => Is r.a tagFLO ∧ Is c tagRAW ∧ c.pay % 2 ^ 28 = 0) ∧
    Meets (wop (A (q 1 0 one)) (q 1 1 one)) 0x42 oF 2 (fun _ r c => Is r.a tagQTY ∧ Is c tagQTY) ∧
    Meets (wop (A (q 1 0 one)) (mkRAW 0xFFFE)) 0x44 oF 2 (fun _ r c => Is r.a tagQTY ∧ Is c tagRAW ∧ c.pay % 65536 ≠ 0xFFFF) ∧
    Meets (wop (A (q 1 0 one)) (mkFIX 127)) 0x48 oF 2 (fun _ r c => Is r.a tagQTY ∧ Is c tagFIX ∧ c.pay ≤ 127) ∧
    Meets (wop (A (q 1 0 one)) constTrue) 0x4A oF 2 (fun _ r c => Is r.a tagQTY ∧ Is c tagCONST ∧ c.pay = 1) ∧
    Meets (wop (A (q 1 0 one)) constFalse) 0x4A oF 2 (fun _ r c => Is r.a tagQTY ∧ Is c tagCONST ∧ c.pay = 2) ∧
    (∀ w ∈ [mWord 0x41 oNone, mWord 0x43 oNone, mWord 0x45 oNone, mWord 0x47 oNone, mWord 0x49 oNone],
      Starts (wst (A (q 1 1 one))) w 1 (fun e => Is ((wst (A (q 1 1 one))).regs e.q).a tagQTY ∧ oNone.zero = true)) ∧
    Meets (wop (A (q 1 0 one)) (q 2 0 one)) 0x46 oF 2 (fun _ r c => Is r.a tagQTY ∧ Is c tagQTY ∧ r.a.qDim ≠ c.qDim) ∧
    Meets (wop (A (q 1 0 one)) (q 1 1 one)) 0x46 oF 2 (fun _ r c => Is r.a tagQTY ∧ Is c tagQTY ∧ r.a.qDim = c.qDim ∧ c.qAbs = 1) ∧
    Meets (wop (A (q 1 0 one)) (q 1 0 0x8000000000000000)) 0x46 oF 2 (fun _ r c => Is r.a tagQTY ∧ Is c tagQTY ∧ r.a.qDim = c.qDim ∧
      c.qAbs = 0 ∧ c.pay % 2 ^ 63 = 0) ∧
    Meets (wop (A (q 1 0 0)) (q 1 0 one)) 0x46 oF 2 (fun _ r c => Is r.a tagQTY ∧ Is c tagQTY ∧ r.a.qDim = c.qDim ∧
      c.qAbs = 0 ∧ c.pay % 2 ^ 63 ≠ 0 ∧ c.pay / 2 ^ 52 % 2048 ≠ 2047 ∧ r.a.pay % 2 ^ 63 = 0) ∧
    Meets (wst wm) 0x3C (oImm 0) 1 (fun _ _ c => Is c tagFIX ∧ c.int = 0) ∧
    Meets (wop wm (q 1 0 one)) 0x3B oF 1 (fun _ _ c => Is c tagQTY ∧ c.qDim ≠ 0x0010000) ∧
    Meets (wop wm (q 0x10000 1 one)) 0x3B oF 1 (fun _ _ c => Is c tagQTY ∧ c.qDim = 0x0010000 ∧ c.qAbs = 1) ∧
    Meets (wop wm (q 0x10000 0 one)) 0x3B oF 1 (fun _ _ c => Is c tagQTY ∧ c.qDim = 0x0010000 ∧ c.qAbs = 0 ∧
      fpRat f64 c.pay = some (2 ^ 52, 2 ^ 52) ∧
        2 * |(2 ^ 52 : Int) * 1000000000 - 1000000000 * ((2 ^ 52 : Nat) : Int)| < ((2 ^ 52 : Nat) : Int) ∧
      fitsFix 1000000000 = true) := by
  repeat' refine And.intro ?_ ?_
  all_goals first | exact meets (by decide +kernel) | exact meetsAll (by decide +kernel) | exact startsAll (by decide +kernel)

/-- The largest code that QSETU takes back. -/
theorem test_hyps_UncertaintyCodesRoundTrip :
    Meets (wop { wm with a := mkQTY 1 0 0 5 0 } (plain tagFLO (uncFlo 0xFFFE))) 0x44 oF 2
      (fun _ r c => Is r.a tagQTY ∧ Is c tagFLO ∧ 0xFFFE < 0xFFFF ∧ c.pay = uncFlo 0xFFFE) := meets (by decide +kernel)

/-- Operands with and without a carry, an overflow and a zero divisor. -/
theorem test_hyps_RawArithmeticAndFlags :
    ∀ op ∈ [(0x60 : BitVec 8), 0x61, 0x62, 0x63, 0x64, 0x65, 0x66, 0x67, 0x68, 0x69],
      Meets (wst { wm with a := mkRAW 0x8000000000000000 }) op (oImm 0xFFFF) 2 (fun _ r c => Is r.a tagRAW ∧ Is c tagFIX ∧
        r.a.payload = BitVec.intMin 64 ∧ c.payload = BitVec.allOnes 64) ∧
      Meets (wst { wm with a := mkFIX 5 }) op (oImm 0) 2 (fun _ r c => Is r.a tagFIX ∧ Is c tagFIX ∧ c.payload = 0) :=
  fun op h => ⟨meetsAll (by decide +kernel) op h, meetsAll (by decide +kernel) op h⟩

/-- Counts 0, 63, 64 and 65, and the immediate count 64. -/
theorem test_hyps_ShiftCountsAreBounded :
    ∀ op ∈ [(0x6A : BitVec 8), 0x6B, 0x6C],
      (Starts (wst wm) (mWord op (oImm 64)) 1 (fun _ => (oImm 64).mode = 4 ∧ 63 < (oImm 64).disp.toNat)) ∧
      Meets (wst { wm with a := mkRAW 1 }) op (oImm 63) 2 (fun _ r c => Is r.a tagRAW ∧ Is c tagFIX ∧ c.pay ≤ 63) ∧
      Meets (wst { wm with a := mkRAW 1, x := 64 }) op (oReg 4) 2 (fun _ r c => Is r.a tagRAW ∧ Is c tagFIX ∧ c.pay = 64) ∧
      Meets (wst { wm with a := mkRAW 1, x := 65 }) op (oReg 4) 2 (fun _ r c => Is r.a tagRAW ∧ Is c tagFIX ∧ c.pay = 65) ∧
      Meets (wst { wm with a := mkRAW 1 }) op (oImm 0) 2 (fun _ r c => Is r.a tagRAW ∧ Is c tagFIX ∧ c.pay = 0) := by
  intro op h
  fin_cases h <;> exact ⟨starts (by decide +kernel), meets (by decide +kernel), meets (by decide +kernel), meets (by decide +kernel),
    meets (by decide +kernel)⟩

/-- A field at the top of the word, and the words 0 and all ones. -/
theorem test_hyps_BitFieldsAndConversions :
    (∀ op ∈ [(0x70 : BitVec 8), 0x71, 0x72, 0x76], Meets (wst { wm with a := mkRAW 0x8000000000000001 }) op (oImm 0x003F) 2
      (fun _ r c => Is r.a tagRAW ∧ Is c tagFIX ∧ c.payload.toNat % 64 = 63)) ∧
    (∀ op ∈ [(0x6D : BitVec 8), 0x6E, 0x6F, 0x73, 0x74, 0x75], Meets (wst wm) op (oImm 0) 1 (fun _ _ c => Is c tagFIX ∧
      c.payload = 0) ∧
      Meets (wst wm) op (oImm 0xFFFF) 1 (fun _ _ c => Is c tagFIX ∧ c.payload = BitVec.allOnes 64)) :=
  ⟨meetsAll (by decide +kernel), fun op h => ⟨meetsAll (by decide +kernel) op h, meetsAll (by decide +kernel) op h⟩⟩

/-- A cell in a mapped page, at the page's first and last cell. -/
theorem test_hyps_LoadsAndStoresReachOneCell :
    let s := wop wm (mkFIX 1)
    let e := s.envAt wq 5 0 1
    e.user = false ∧ Plain (s.started e) e 0 0x10000 ∧ Plain (s.started e) e 0x3FF0 0x13FF0 :=
  ⟨by decide +kernel, plain_of_plainB (by decide +kernel), plain_of_plainB (by decide +kernel)⟩

/-- A register operand, and the memory operands of `MODE` 1, 7 and 8. -/
theorem test_hyps_StoresWriteTheirOperand :
    let s := wop { wm with a := mkFIX 4 } 0
    let e := s.envAt wq 5 0 1
    (∀ w ∈ [mWord 0x02 (oReg 6), mWord 0x08 (oReg 6), mWord 0x09 (oReg 6), mWord 0x0A (oReg 6), mWord 0x0F (oReg 6), mWord 0x10 (oReg 6),
      mWord 0x11 (oReg 6), mWord 0x12 (oReg 6)], Starts s w 1 (fun e => e.user = false)) ∧
    (∃ t, Writes s e (oReg 6) 2 1 (s.regs e.q).a t) ∧
    Is (wcap wall 0 0x100 0x10) tagCAP ∧ Is (mkFIX 4) tagFIX ∧ Is (mkRAW 4) tagRAW ∧
    ((mkFIX 4).reserved = false ∧ (mkFIX 4).tag ≠ tagCAP) ∧ (constNil.reserved = false ∧ constNil.tag ≠ tagFIX ∧
      constNil.tag ≠ tagRAW) ∧
    (plain tagCONST 5).reserved = true ∧
    Plain (s.started e) e 0x100 0x10100 ∧ Plain (s.started e) e 0xF0 0x100F0 ∧
      ((0x100 : Nat) : Int) = ((s.regs e.q).capReg oF.base.toNat).pay + 16 * oF.disp.toInt ∧
    (0x100 : Nat) = ((s.regs e.q).capReg 0).pay ∧ (0xF0 + 16 : Nat) = ((s.regs e.q).capReg 0).pay :=
  ⟨startsAll (by decide +kernel), ⟨_, rfl⟩, by
    repeat' refine And.intro ?_ ?_
    all_goals first | exact plain_of_plainB (by decide +kernel) | decide +kernel⟩

/-- A register, a cell that equals A and one that does not, and a mapped cell at S. -/
theorem test_hyps_ExchangesAndFences :
    let s := wop { wm with a := mkFIX 4, s := plain tagCAP 0x200 } (mkFIX 4)
    let e := s.envAt wq 5 0 1
    let u := wop { wm with a := mkFIX 5, s := plain tagCAP 0x200 } (mkFIX 4)
    (∀ w ∈ [mWord 0x03 (oReg 6), mWord 0x03 oF, mWord 0x04 oF], Starts s w 1 (fun e => e.user = false)) ∧
    Starts u (mWord 0x04 oF) 1 (fun e => e.user = false ∧ eqCell (u.cell 0x10100) (u.regs e.q).a = false) ∧
    Plain (s.started e) e 0x100 0x10100 ∧ Plain (s.started e) e 0x200 0x10200 ∧ (s.regs e.q).s.pay = 0x200 ∧
      eqCell (s.cell 0x10100) (s.regs e.q).a = true ∧
    (∀ w ∈ [mWord 0x16 oNone, mWord 0x1E oNone, mWord 0x1F oNone], Starts s w 1 (fun e => oNone.zero = true ∧
      (s.slot e.q).det.buf = [] ∧
      (s.core e.q.core).merge = [])) :=
  ⟨startsAll (by decide +kernel), starts (by decide +kernel), plain_of_plainB (by decide +kernel), plain_of_plainB (by decide +kernel),
    by decide +kernel, by decide +kernel, startsAll (by decide +kernel)⟩

/-- Two cells of a page, X and Y at them; equal and unequal cells, a tag hit and none. -/
theorem test_hyps_BlockInstructionsDoOneIteration :
    let r : Regs := { wm with x := 0, y := 1, a := mkRAW 1 }
    let s := wop r (mkFIX 4) (mkFIX 4)
    let e := s.envAt wq 5 0 1
    (∀ w ∈ [mWord 0x13 oFX, mWord 0x14 oFX, mWord 0x15 oFX, mWord 0xD0 oFX, mWord 0x57 oFX, mWord 0x5A oFX, mWord 0x5B oFX],
      Starts s w 1 (fun e => e.user = false ∧ Is (s.regs e.q).a tagRAW ∧ (s.core e.q.core).missFind (0x10100 / 512) = none)) ∧
    Plain (s.started e) e 0x100 0x10100 ∧ Plain (s.started e) e 0x110 0x10110 ∧
    (0x100 : Int) = ((s.regs e.q).capReg 0).pay + 16 * ((s.regs e.q).x.toInt + oFX.disp.toInt) ∧
    (0x110 : Int) = ((s.regs e.q).capReg 0).pay + 16 * ((s.regs e.q).y.toInt + oFX.disp.toInt) ∧
    eqCell (s.cell 0x10100) (s.cell 0x10110) = true ∧ (s.cell 0x10100).tag = (s.regs e.q).a.pay % 256 ∧
    (let u := wop { r with a := mkRAW 2 } (mkFIX 4) (mkFIX 5)
     Starts u (mWord 0x57 oFX) 1 (fun e => eqCell (u.cell 0x10100) (u.cell 0x10110) = false ∧
      (u.cell 0x10100).tag ≠ (u.regs e.q).a.pay % 256)) :=
  ⟨startsAll (by decide +kernel), plain_of_plainB (by decide +kernel), plain_of_plainB (by decide +kernel), by decide +kernel,
    by decide +kernel, by decide +kernel, by decide +kernel, starts (by decide +kernel)⟩

/-- `Meets` where `P` speaks of the state that the read leaves. -/
def MeetsT (s : State) (op : BitVec 8) (o : MOp) (opn : Nat) (P : Env → State → Cell → Prop) : Prop :=
  ∃ e c fa t, IssuesM s wi 5 op o e ∧ Fresh s e ∧ Reads s e o opn c fa t ∧ P e t c

theorem meetsT {s : State} {op : BitVec 8} {o : MOp} {opn : Nat} {P : Env → State → Cell → Prop}
    [∀ e t c, Decidable (P e t c)] (h : (let e := s.envAt wq 5 (mWord op o) o.slots
      ready s (mWord op o) o.slots && decide (bit (s.regs wq).st stRESUME = false) &&
      match decodeRead e o opn (s.started e) with
      | .ok ((c, _), t) => decide (P e t c)
      | .error _ => false) = true) : MeetsT s op o opn P := by
  simp only [Bool.and_eq_true, decide_eq_true_eq] at h
  obtain ⟨⟨h1, h2⟩, h3⟩ := h
  split at h3
  · rename_i c fa t heq
    exact ⟨_, c, fa, t, issues_of_ready h1, h2, heq, of_decide_eq_true h3⟩
  · exact absurd h3 (by simp)

theorem meetsTAll {s : State} {ops : List (BitVec 8)} {o : MOp} {opn : Nat} {P : Env → State → Cell → Prop}
    [∀ e t c, Decidable (P e t c)] (h : (ops.all fun op => let e := s.envAt wq 5 (mWord op o) o.slots
      ready s (mWord op o) o.slots && decide (bit (s.regs wq).st stRESUME = false) &&
      match decodeRead e o opn (s.started e) with
      | .ok ((c, _), t) => decide (P e t c)
      | .error _ => false) = true) : ∀ op ∈ ops, MeetsT s op o opn P :=
  fun op hop => meetsT (List.all_eq_true.mp h op hop)

/-- `s` with slot 0 of core 0 in the middle of `m`. -/
def wmid (s : State) (m : Mid) : State := s.modSlot wq (fun v => { v with mid := m })

/-- What `iterate` answers satisfies `p`. -/
def iterB (s : State) (e : Env) (op : BitVec 8) (o : MOp) (key : Option Cell) (p : Bool → Bool) : Bool :=
  match iterate e op o key s with
  | .ok ((b, _), _) => p b
  | .error _ => false

theorem iter_of {s : State} {e : Env} {op : BitVec 8} {o : MOp} {key : Option Cell} {p : Bool → Bool}
    (h : iterB s e op o key p = true) : ∃ b k t, iterate e op o key s = .ok ((b, k), t) ∧ p b = true := by
  unfold iterB at h
  split at h
  · rename_i b k t heq
    exact ⟨b, k, t, heq, h⟩
  · exact absurd h (by simp)

/-- FILLC under REP and REPI: the counts 0 and 2, a further iteration, the last one, an iteration that ends the repeat, and an
interrupt at a boundary of each prefix. -/
theorem test_hyps_RepeatsCountAndStop :
    let r : Regs := { wm with a := mkRAW 1, k := 2 }
    let s := wop r (mkFIX 4) (mkFIX 5)
    (∀ op ∈ [(0xF0 : BitVec 8), 0xF1], ∀ d ∈ [(0 : BitVec 16), 2], Starts s (op ++ (0 : BitVec 4) ++ (0 : BitVec 4) ++ d) 2
      (fun e => e.pc.testBit 2 = false ∧ repeatable 0x15 = true ∧ repeatOk 0x15 oFX = true ∧ oFX.hasExt = false ∧
        (e.user && oFX.privBase) = false ∧ 1 < (s.regs e.q).k.toNat)) ∧
    (let z := wop { r with k := 0 } 0
     Starts z 0xF0000000 2 (fun e => (z.regs e.q).k.toNat = 0)) ∧
    (let e := s.envAt wq 5 0xF0000002 2
     let rp : Repeat := { pfx := 0xF0000002, word := mwordOf 0x15 oFX, count := 2, done := 0, key := none }
     iterB (s.modSlot e.q (fun v => { v with mid := .rep rp })) (e.governed (mwordOf 0x15 oFX)) 0x15 oFX none (!·) = true) ∧
    (∀ done ∈ [1, 63], let rp : Repeat := { pfx := 0xF0000040, word := mwordOf 0x15 oFX, count := 64, done := done, key := none }
     let u := wmid s (.rep rp)
     (u.slot wq).ctx = some 5 ∧ u.issuable wq 5 = true ∧ u.asyncDue 5 (u.slot wq).regs.st = none ∧ (u.slot wq).mid = .rep rp ∧
      wi.parity = .none ∧ iterB u (u.midEnv wq 5 rp.word true) 0x15 oFX none (!·) = true) ∧
    (let rp : Repeat := { pfx := 0xF0000004, word := mwordOf 0x5A oFX, count := 4, done := 1, key := none }
     let u := wmid s (.rep rp)
     iterB u (u.midEnv wq 5 rp.word true) 0x5A oFX none (fun b => b) = true) ∧
    (∀ c ∈ [((0xF0000080 : Word32), 64), (0xF1000080, 1)],
     let rp : Repeat := { pfx := c.1, word := mwordOf 0x15 oFX, count := 128, done := c.2, key := none }
     let u := (wmid s (.rep rp)).modAux 5 (fun a => { a with vectors := [16] })
     (u.slot wq).ctx = some 5 ∧ u.issuable wq 5 = true ∧ (u.slot wq).mid = .rep rp ∧
      u.asyncDue 5 (u.slot wq).regs.st = some { code := cINTERRUPT, sub := 16 } ∧ (bit rp.pfx 24 = true ∨ rp.done % 64 = 0)) := by
  refine ⟨?_, starts (by decide +kernel), by decide +kernel⟩
  intro op h d hd
  fin_cases h <;> fin_cases hd <;> exact starts (by decide +kernel)

/-- A cons in a mapped page; room below HL; an association list whose entry matches, one whose entry does not, and nil. -/
theorem test_hyps_ConsesAndAssociationLists :
    let cons := plain tagCONS
    let r : Regs := { wm with a := cons 0x100, h := 0x220, hl := 0x240 }
    let s := wop r (cons 0x140) (mkFIX 9)
    (∀ op ∈ [(0x80 : BitVec 8), 0x81], MeetsT s op (oReg 6) 1 (fun e t c => e.user = false ∧ Is c tagCONS ∧
      plainB t e c.pay 0x10100 = true ∧ plainB t e (c.pay + 16) 0x10110 = true)) ∧
    (∀ op ∈ [(0x83 : BitVec 8), 0x84], MeetsT s op (oReg 6) 2 (fun e t c => Is c tagCONS ∧ plainB t e c.pay 0x10100 = true ∧
      plainB t e (c.pay + 16) 0x10110 = true)) ∧
    MeetsT s 0x82 (oImm 1) 2 (fun e t _ => (t.regs e.q).h.toNat = 0x220 ∧ 0x220 % 32 = 0 ∧ 0x220 % 512 ≠ 0 ∧
      0x220 + 32 ≤ (t.regs e.q).hl.toNat ∧ plainB t e 0x220 0x10220 = true ∧ plainB t e (0x220 + 16) (0x10220 + 16) = true) ∧
    (∀ key ∈ [(9 : Word64), 8], let s := wst { r with x := key } (wmem (fun s => ((s.setCell 0x10100 (cons 0x140)).setCell 0x10110 (constNil)).setCell
        0x10140 (mkFIX 9)))
     Starts s (mWord 0x85 (oReg 4)) 1 (fun e => e.user = false ∧ Is (s.regs e.q).a tagCONS ∧
       plainB (s.started e) e (s.regs e.q).a.pay 0x10100 = true ∧
      Is (s.cell 0x10100) tagCONS ∧ plainB (s.started e) e (s.cell 0x10100).pay 0x10140 = true ∧
        plainB (s.started e) e ((s.regs e.q).a.pay + 16) 0x10110 = true ∧
      eqCell (s.cell 0x10140) ((s.regs e.q).read 4) = decide (key = 9))) ∧
    (let s := wst { wm with a := constNil }
     Starts s (mWord 0x85 (oReg 4)) 1 (fun e => Is (s.regs e.q).a tagCONST ∧ (s.regs e.q).a.pay = 0)) := by
  refine ⟨meetsTAll (by decide +kernel), meetsTAll (by decide +kernel), meetsT (by decide +kernel), ?_, starts (by decide +kernel)⟩
  intro key h
  fin_cases h <;> exact starts (by decide +kernel)

/-- Requests of 0 and of the largest count, and the counts −1 and one too many. -/
theorem test_hyps_AllocationsWriteTheirHeader :
    let r : Regs := { wm with h := 0x110, hl := 0x120 }
    let fits : Env → State → Cell → Prop := fun e t c => Is c tagFIX ∧ (t.regs e.q).h.toNat = 0x110 ∧ 0x110 % 512 ≠ 0 ∧
      plainB t e 0x110 0x10110 = true ∧ c.int = (0 : Nat) ∧ 0x110 + 16 * (0 + 1) ≤ (t.regs e.q).hl.toNat
    (∀ op ∈ [(0x90 : BitVec 8), 0x91], MeetsT (wst r wmem) op (oImm 0) 1 (fun e t c => fits e t c)) ∧
    MeetsT (wst { r with a := mkRAW 7 } wmem) 0x92 (oImm 0) 2 (fun e t c => fits e t c ∧ Is (t.regs e.q).a tagRAW) ∧
    MeetsT (wst { r with a := wcap 16 0 0x100 0x10 } wmem) 0x93 (oImm 0) 2 (fun e t c => fits e t c ∧ Is (t.regs e.q).a tagCAP ∧
      (t.regs e.q).a.rights.testBit 4 = true) ∧
    MeetsT (wst { r with x := BitVec.ofNat 64 (2 ^ 40 - 2), hl := BitVec.ofNat 64 (2 ^ 45) } wmem) 0x90 (oReg 4) 1 (fun e t c => Is c tagFIX ∧
      c.int = ((2 ^ 40 - 2 : Nat) : Int) ∧ 0x110 + 16 * (2 ^ 40 - 2 + 1) ≤ (t.regs e.q).hl.toNat) ∧
    (∀ op ∈ [(0x90 : BitVec 8), 0x91], MeetsT (wst r) op (oImm 0xFFFF) 1 (fun _ _ c => Is c tagFIX ∧ c.int < 0) ∧
      MeetsT (wst { r with x := BitVec.ofNat 64 (8 * (2 ^ 40 - 2) + 1) }) op (oReg 4) 1 (fun _ _ c => Is c tagFIX ∧
        8 * (2 ^ 40 - 2) < c.int)) ∧
    MeetsT (wst { r with hl := 0x130 } wmem) 0x91 (oImm 8) 1 (fun e t c => Is c tagFIX ∧ plainB t e 0x110 0x10110 = true ∧
      c.int = (8 : Nat) ∧
      0 < 8 ∧ 8 ≤ 8 * (2 ^ 40 - 2) ∧ 0x110 + 16 * (1 + (8 + 7) / 8) ≤ (t.regs e.q).hl.toNat) :=
  ⟨meetsTAll (by decide +kernel), meetsT (by decide +kernel), meetsT (by decide +kernel), meetsT (by decide +kernel),
    fun op h => ⟨meetsTAll (by decide +kernel) op h, meetsTAll (by decide +kernel) op h⟩, meetsT (by decide +kernel)⟩

/-- Objects of each kind; the last byte of a string, and the one after it. -/
theorem test_hyps_ObjectsAreReadThroughTheirHeader :
    let obj := fun (tag : Nat) (h d : Cell) (r : Regs) => wst { r with e := wcap wall 0 0x1000 0x100, f := plain tag 0x100 }
      (wmem (fun s => ((s.setCell 0x10100 h).setCell 0x10110 d).setCell 0x10200 (plain tag 0x100)))
    let at_ := oImm 0
    let o : MOp := { mode := 1, base := 1, disp := 16 }
    let head : Nat → Env → State → Cell → Prop := fun tag e t c => c.tag = tag ∧ c.reserved = false ∧
      plainB t e c.pay 0x10100 = true ∧
      Is (t.cell 0x10100) tagHDR ∧ (t.cell 0x10100).hdrKind = c.tag
    at_.mode = 4 ∧
    (∀ tag ∈ [tagVEC, tagREC], ∀ op ∈ [(0x94 : BitVec 8)], MeetsT (obj tag (mkHDR tag 3 2) 0 wm) op o 1 (fun e t c => head tag e t c)) ∧
    MeetsT (obj tagREC (mkHDR tagREC 3 2) 0 wm) 0x98 o 1 (fun e t c => head tagREC e t c) ∧
    MeetsT (obj tagSTR (mkHDR tagSTR 2 8) (mkRAW 0x8877665544332211) { wm with x := 7 }) 0x96 o 1 (fun e t c => head tagSTR e t c ∧
      (t.regs e.q).x.toNat < (t.cell 0x10100).pay ∧ plainB t e (c.pay + 16 * (1 + (t.regs e.q).x.toNat / 8)) 0x10110 = true ∧
      Is (t.cell 0x10110) tagRAW) ∧
    MeetsT (obj tagSTR (mkHDR tagSTR 2 8) (mkRAW 0) { wm with x := 8 }) 0x96 o 1 (fun e t c => head tagSTR e t c ∧
      (t.cell 0x10100).pay ≤ (t.regs e.q).x.toNat) ∧
    MeetsT (obj tagSTR (mkHDR tagSTR 2 8) (mkRAW 0x8877665544332211) { wm with x := 7, a := mkFIX 255 }) 0x97 o 2 (fun e t c => head tagSTR e t c ∧
      Is (t.regs e.q).a tagFIX ∧ (t.regs e.q).a.pay ≤ 255 ∧ (t.regs e.q).x.toNat < (t.cell 0x10100).pay ∧
      plainB t e (c.pay + 16 * (1 + (t.regs e.q).x.toNat / 8)) 0x10110 = true ∧ Is (t.cell 0x10110) tagRAW) ∧
    MeetsT (obj tagVEC (mkHDR tagVEC 3 2) 0 { wm with a := plain tagVEC 0x100, x := 2, y := 0 }) 0x95 o 2 (fun e t c => head tagVEC e t c ∧
      Is (t.regs e.q).a tagVEC ∧ (t.regs e.q).k = 0 ∧ (t.regs e.q).a.pay = c.pay ∧ 0 ≤ (t.regs e.q).x.toInt ∧
      (t.regs e.q).x.toInt ≤ (t.cell 0x10100).pay ∧ 0 ≤ (t.regs e.q).y.toInt ∧ (t.regs e.q).y.toInt ≤ (t.cell 0x10100).pay) := by
  refine ⟨by decide +kernel, ?_, meetsT (by decide +kernel), meetsT (by decide +kernel), meetsT (by decide +kernel),
    meetsT (by decide +kernel), meetsT (by decide +kernel)⟩
  intro tag h
  fin_cases h <;> exact meetsTAll (by decide +kernel)

/-- Capabilities, sealed ones of the named and of another type; bounds met exactly, and passed by one cell. -/
theorem test_hyps_CapabilitiesNeverWiden :
    let all := 0xFFF
    let names : Nat → Cell → Prop := fun right c => Is c tagCAP ∧ 1 ≤ c.pay / 16 ∧ c.pay / 16 ≤ 65535 ∧
        c.capL ≤ ((c.pay / 16 * 16 : Nat) : Int) ∧ ((c.pay / 16 * 16 : Nat) : Int) + 16 ≤ c.capU ∧ c.rights.testBit right = true
    let sealed := fun ty => mkCap tagSEAL 0 all ty 0 0 16 0x10
    let c := wcap all 0 0x100 0x30
    Meets (wst { wm with a := c }) 0xA1 (oImm 1) 2 (fun _ r c => Is r.a tagCAP ∧ Is c tagFIX) ∧
    Meets (wop { wm with a := c } c) 0xA2 oF 2 (fun _ r c => Is r.a tagCAP ∧ names 5 c) ∧
    Meets (wop { wm with a := sealed 3 } c) 0xA3 oF 2 (fun _ r c => Is r.a tagSEAL ∧ names 6 c ∧ r.a.otype = c.pay / 16) ∧
    Meets (wop { wm with a := sealed 4 } c) 0xA3 oF 2 (fun _ r c => Is r.a tagSEAL ∧ names 6 c ∧ r.a.otype ≠ c.pay / 16) ∧
    Meets (wop { wm with a := c } c) 0xA9 oF 2 (fun _ r c => Is r.a tagCAP ∧ Is c tagCAP) ∧
    (∀ w ∈ [mWord 0xA5 oNone, mWord 0xA6 oNone, mWord 0xA7 oNone, mWord 0xA8 oNone], Starts (wst { wm with a := sealed 3 }) w 1
      (fun e => oNone.zero = true ∧ Is ((wst { wm with a := sealed 3 }).regs e.q).a tagSEAL)) ∧
    Meets (wst { wm with a := c, x := 13 }) 0xA0 (oImm 0) 2 (fun _ r c => Is r.a tagCAP ∧ Is c tagFIX ∧
      r.a.pay + 16 * r.x.toInt = 0x100 ∧
      0 ≤ c.int ∧ c.int % 16 = 0 ∧ c.int ≤ 447 * 16 ∧ r.a.capL ≤ r.a.pay + 16 * r.x.toInt ∧
        r.a.pay + 16 * r.x.toInt + c.int ≤ r.a.capU) ∧
    Meets (wst { wm with a := c, x := 0xFFFFFFFFFFFFFFFC }) 0xA0 (oImm 16) 2 (fun _ r c => Is r.a tagCAP ∧ Is c tagFIX ∧
      r.a.pay + 16 * r.x.toInt < 0) ∧
    Meets (wst { wm with a := c, x := 12 }) 0xA0 (oImm 32) 2 (fun _ r c => Is r.a tagCAP ∧ Is c tagFIX ∧
      r.a.capU < r.a.pay + 16 * r.x.toInt + c.int) := by
  repeat' refine And.intro ?_ ?_
  all_goals first | exact meets (by decide +kernel) | exact meetsAll (by decide +kernel) | exact startsAll (by decide +kernel)

/-- Offsets inside and outside the address space, each condition met and not met, K = 0, 1 and 2. -/
theorem test_hyps_BranchesFollowTheirCondition :
    let ops := [(0xB0 : BitVec 8), 0xB1, 0xB2, 0xB3, 0xB4, 0xB5]
    let st := fun (a : Cell) (k : Word32) => wst { wm with a := a, k := k }
    (∀ a ∈ [(constTrue, (0 : Word32)), (constFalse, 1), (constNil, 2)], ∀ w ∈ ops.map (bWord · 0xFFFFFF), Starts (st a.1 a.2) w 1
      (fun e => (0x1FF : Int) = slotNumber e.pc + (0xFFFFFF : BitVec 24).toInt ∧ 0x1FF < 2 ^ 53 ∧
        Is ((st a.1 a.2).regs e.q).a tagCONST)) ∧
    (∀ w ∈ ops.map (bWord · 0), Starts (st (mkFIX 1) 0) w 1 (fun e => ((st (mkFIX 1) 0).regs e.q).a.reserved = false ∧
      ((st (mkFIX 1) 0).regs e.q).a.tag ≠ tagCONST)) ∧
    (∀ w ∈ ops.map (bWord · 0xFFFDFF), Starts (st constTrue 2) w 1 (fun e => (slotNumber e.pc : Int) + (0xFFFDFF : BitVec 24).toInt < 0)) := by
  refine ⟨?_, startsAll (by decide +kernel), startsAll (by decide +kernel)⟩
  intro a h
  simp only [List.mem_cons, List.not_mem_nil, or_false] at h
  obtain rfl | rfl | rfl := h <;> exact startsAll (by decide +kernel)

/-- A target capability of slot form at the top of its bounds; one outside them, one without `EXEC`, another tag; stack cells at S and below; a closure
and a sealed entry pair. -/
theorem test_hyps_CallsAndReturnsUseTheStack :
    let code := fun (rights base : Nat) => wcap rights 0x1000 0x1010 base
    let st := fun (r : Regs) (l : List (Nat × Cell)) => wst { r with f := wcap wall 0 0x1000 0x100, s := wcap wall 0 0x1000 0x220 }
      (wmem (fun s => l.foldl (fun s x => s.setCell x.1 x.2) s))
    let target := fun c : Cell => Is c tagCAP ∧ c.capL ≤ c.pay ∧ (c.pay : Int) + 4 ≤ c.capU ∧ c.rights.testBit 4 = true ∧
      c.pay < 2 ^ 56 ∧ c.pay % 4 = 0 ∧ c.pay.testBit 3 = false
    let op := fun (c : Cell) => st wm [(0x10100, c)]
    Meets (op (code 16 0x1004)) 0xB8 oF 1 (fun _ _ c => target c) ∧
    Meets (op (mkFIX 0)) 0xB8 oF 1 (fun _ _ c => c.reserved = false ∧ c.tag ≠ tagCAP) ∧
    Meets (op (wcap 1 0x1000 0x1010 0x1010)) 0xB8 oF 1 (fun _ _ c => Is c tagCAP ∧ c.capU < c.pay + 4) ∧
    Meets (op (wcap 1 0x1000 0x1010 0x1000)) 0xB8 oF 1 (fun _ _ c => Is c tagCAP ∧ c.capL ≤ c.pay ∧ (c.pay : Int) + 4 ≤ c.capU ∧
      c.rights.testBit 4 = false) ∧
    MeetsT (op (code 16 0x1004)) 0xB9 oF 1 (fun e t c => target c ∧ e.user = false ∧ 16 ≤ (t.regs e.q).s.pay ∧
      (t.regs e.q).s.pay ≤ 2 ^ 56 ∧
      plainB t e ((t.regs e.q).s.pay - 16) 0x10210 = true ∧ t.ctxWmark e.n = 0 ∧ e.next < 2 ^ 56 ∧ e.next % 4 = 0) ∧
    (let s := st wm [(0x10220, code 16 0x1004), (0x10230, wcap wall 0 0x100 0x10)]
     let decoded := fun (w : Word32) (P : Env → State → Prop) => ∃ e t, Issues s wi 5 w 1 e ∧
       Decodes s e oNone (oNone.fieldsOk false) t ∧ P e t
     decoded (mWord 0xBB oNone) (fun e t => e.user = false ∧ plainB t e (t.regs e.q).s.pay 0x10220 = true ∧
       target (t.cell 0x10220)) ∧
     decoded (mWord 0xBC oNone) (fun e t => (t.regs e.q).s.pay + 16 ≤ 2 ^ 56 - 16 ∧ plainB t e (t.regs e.q).s.pay 0x10220 = true ∧
       plainB t e ((t.regs e.q).s.pay + 16) 0x10230 = true ∧ target (t.cell 0x10220) ∧ Is (t.cell 0x10230) tagCAP)) ∧
    (let pushed : State → Env →
      Bool := fun t e => plainB t e ((t.regs e.q).s.pay - 16) 0x10210 && plainB t e ((t.regs e.q).s.pay - 32) 0x10200 &&
       decide (32 ≤ (t.regs e.q).s.pay ∧ (t.regs e.q).s.pay ≤ 2 ^ 56 ∧ (t.regs e.q).s.pay % 16 = 0 ∧ t.ctxWmark e.n = 0 ∧
         0x10210 / 16 ≠ 0x10200 / 16 ∧
         0x10210 / 128 = 0x10200 / 128 ∧ e.next < 2 ^ 56)
     MeetsT (st wm [(0x10100, plain tagCLO 0x140), (0x10140, mkHDR tagCLO 2 0x1004)]) 0xBA oF 1 (fun e t c => pushed t e = true ∧
       Is c tagCLO ∧
       plainB t e c.pay 0x10140 = true ∧ Is (t.cell 0x10140) tagHDR ∧ (t.cell 0x10140).hdrKind = tagCLO ∧
         (t.cell 0x10140).pay < 2 ^ 56 ∧
       (t.cell 0x10140).pay % 4 = 0 ∧ (t.cell 0x10140).pay.testBit 3 = false) ∧
     MeetsT (st wm [(0x10100, mkCap tagSEAL 0 128 3 0 0x14 0x16 0x140), (0x10140, code 16 0x1004), (0x10150, wcap wall 0 0x100 0x10)]) 0xA4 oF 1
       (fun e t c => pushed t e = true ∧ Is c tagSEAL ∧ c.rights.testBit 7 = true ∧ c.capL ≤ c.pay ∧ (c.pay : Int) + 32 ≤ c.capU ∧
         plainB t e c.pay 0x10140 = true ∧ plainB t e (c.pay + 16) 0x10150 = true ∧ target (t.cell 0x10140) ∧
           Is (t.cell 0x10150) tagCAP)) :=
  ⟨meets (by decide +kernel), meets (by decide +kernel), meets (by decide +kernel), meets (by decide +kernel), meetsT (by decide +kernel),
    ⟨⟨_, _, issues_of_ready (by decide +kernel), rfl, by decide +kernel⟩, _, _, issues_of_ready (by decide +kernel), rfl, by decide +kernel⟩, meetsT (by decide +kernel), meetsT (by decide +kernel)⟩

/-- A line with a count after one without, and no line; a channel free, full, the caller's and another's; a user-level SEV without, outside and under its
capability. -/
theorem test_hyps_EventChannelsCountAndWake :
    let sub := fun (count : Nat) (r : Regs) => wst r (fun s =>
      ((s.setRec 5 25 (mkCell tagRAW 0 0 (2 ^ 47 + 15 * 2 ^ 48))).modAux 5 (fun a => { a with lines := SMap.set none a.lines 15 (some 7) })).setChan 7
        { sv := true, subc := 5, line := 15, count := count })
    let ch := fun (k : Channel) (lines : SMap (Option Nat)) => wst { wm with a := mkEVCH 0xFFFF } (fun s => (s.setChan 0xFFFF k).modAux 5 (fun a => { a with lines := lines }))
    Starts (sub 1 wm) (mWord 0xC0 oNone) 1 (fun _ => (∀ j, j < 15 →
      (sub 1 wm).lineReady 5 (((sub 1 wm).ctxLast 5 + 1 + j) % 16) = none) ∧
      (sub 1 wm).lineReady 5 (((sub 1 wm).ctxLast 5 + 1 + 15) % 16) = some 7) ∧
    Starts (sub 0 wm) (mWord 0xC0 oNone) 1 (fun _ => ∀ l, l < 16 → (sub 0 wm).lineReady 5 l = none) ∧
    (∀ op ∈ [(0xC1 : BitVec 8), 0xC7], MeetsT (ch { count := 0xFFFF } []) op (oReg 6) 1 (fun e t c => e.user = false ∧
      Is c tagEVCH ∧ c.pay = 0xFFFF ∧
      (t.chan c.pay).ivec = 0)) ∧
    MeetsT (ch {} ((List.range 15).map (fun l => (l, some 3)))) 0xC5 (oReg 6) 1 (fun e t c => Is c tagEVCH ∧
      (t.chan c.pay).sv = false ∧
      SMap.get none (t.auxOf e.n).lines 15 = none ∧ ∀ j, j < 15 → SMap.get none (t.auxOf e.n).lines j ≠ none) ∧
    (∀ op ∈ [(0xC5 : BitVec 8), 0xC6], MeetsT (ch { sv := true, subc := 5, line := 15 } [(15, some 0xFFFF)]) op (oReg 6) 1 (fun e t c => Is c tagEVCH ∧
        (t.chan c.pay).sv = true ∧ (t.chan c.pay).subc = e.n ∧ (t.chan c.pay).line < 16) ∧
      MeetsT (ch { sv := true, subc := 6, line := 0 } []) op (oReg 6) 1 (fun e t c => Is c tagEVCH ∧ (t.chan c.pay).sv = true ∧
        (t.chan c.pay).subc ≠ e.n)) ∧
    (let st := fun cap : Cell => wst { wu with a := mkEVCH 4 } (fun s => s.setRec 5 21 cap)
     let at_ := fun (p : Cell → Prop) => fun (e : Env) (t : State) (c : Cell) => e.user = true ∧ Is c tagEVCH ∧ c.pay = 4 ∧
       p (t.rcell e.n 21)
     let covers := fun cap : Cell => cap.capL ≤ ((16 * 4 : Nat) : Int) ∧ ((16 * 4 : Nat) : Int) + 16 ≤ cap.capU
     MeetsT (st 0) 0xC1 (oReg 6) 1 (fun e t c => at_ (fun k => k.tag ≠ tagCAP) e t c) ∧
     MeetsT (st (wcap 512 0 0x40 0x10)) 0xC1 (oReg 6) 1 (fun e t c => at_ (fun k => Is k tagCAP ∧ ¬ covers k) e t c) ∧
     MeetsT (st (wcap 0 0x40 0x50 0x40)) 0xC1 (oReg 6) 1 (fun e t c => at_ (fun k => Is k tagCAP ∧ covers k ∧
       k.rights.testBit 9 = false) e t c) ∧
     MeetsT (st (wcap 512 0x40 0x50 0x40)) 0xC1 (oReg 6) 1 (fun e t c => at_ (fun k => Is k tagCAP ∧ covers k ∧
       k.rights.testBit 9 = true) e t c)) :=
  ⟨starts (by decide +kernel), starts (by decide +kernel), meetsTAll (by decide +kernel), meetsT (by decide +kernel),
    fun op h => ⟨meetsTAll (by decide +kernel) op h, meetsTAll (by decide +kernel) op h⟩, meetsT (by decide +kernel), meetsT (by decide +kernel),
    meetsT (by decide +kernel), meetsT (by decide +kernel)⟩

/-- A time of now and one just after it. -/
theorem test_hyps_TimeAndCheckpointSleeps :
    let st := fun n => wst { wm with a := mkTIME n } (fun s => s.modTime (fun x => { x with gtc := 1000 * 2 ^ 32 }))
    (∀ w ∈ [mWord 0xC4 oNone, mWord 0xC3 oNone], Starts (st 0) w 1 (fun _ => oNone.zero = true)) ∧
    MeetsT (st 1000) 0xC2 (oReg 6) 1 (fun _ t c => Is c tagTIME ∧ c.pay ≤ t.now) ∧
    MeetsT (st 1001) 0xC2 (oReg 6) 1 (fun _ t c => Is c tagTIME ∧ t.now < c.pay) :=
  ⟨startsAll (by decide +kernel), meetsT (by decide +kernel), meetsT (by decide +kernel)⟩

/-- Every opcode of machine level, at user level and at machine level. -/
theorem test_hyps_MachineInstructionsArePrivileged :
    ∀ w ∈ [mWord 0xD1 oF, mWord 0xD2 oF, mWord 0xD3 oF, sWord 0xD4 0 0, sWord 0xD4 1 0, sWord 0xD4 2 0, sWord 0xD5 0 0, sWord 0xD6 0 0,
      sWord 0xD7 0 1, sWord 0xD8 0 0, sWord 0xD9 0 0, sWord 0xD9 1 0, sWord 0xD9 2 0, sWord 0xE1 0 0, sWord 0xE2 0 15, sWord 0xE3 0 0, sWord 0xE4 0 0,
      sWord 0xE5 0x19 0, sWord 0xE6 0x19 0, sWord 0xE7 0 0, sWord 0xE8 0 0, sWord 0xE9 0 0, sWord 0xEA 0 31, sWord 0xEB 0 31],
      Starts (wst wu) w 1 (fun e => e.user = true ∧ machineSub 0x19 = true) ∧ Starts (wst wm) w 1 (fun e => e.user = false) :=
  fun w h => ⟨startsAll (by decide +kernel) w h, startsAll (by decide +kernel) w h⟩

/-- A return point of slot form; A a word, and A a constant. -/
theorem test_hyps_MachineRegistersReadAndWrite :
    let r : Regs := { wm with mst := 0x2000000000000000, mra := BitVec.ofNat 64 (2 ^ 56 - 12), a := mkRAW 0xFFFFFFFFFFFFFFFF }
    (bit r.mst 61 = true ∧ r.mra.toNat < 2 ^ 56 ∧ r.mra.toNat % 4 = 0 ∧ r.mra.toNat.testBit 3 = false) ∧ Is r.a tagRAW ∧
    (∀ w ∈ [sWord 0xE1 0 0, sWord 0xE2 0 15, sWord 0xE3 0 0, sWord 0xE4 0 0, sWord 0xE5 0x00 0, sWord 0xE6 0x00 0, sWord 0xE6 0x01 0, sWord 0xE6 0x02 0], Starts (wst r) w 1 (fun e => e.user = false)) ∧
    (constNil.reserved = false ∧ constNil.tag ≠ tagFIX ∧ constNil.tag ≠ tagRAW) :=
  ⟨by decide +kernel, by decide +kernel, startsAll (by decide +kernel), by decide +kernel⟩

/-- An entry at the index 95, valid and not; an address below 2^56. -/
theorem test_hyps_TlbEntriesAreWrittenAndInvalidated :
    let st := fun (x : Word64) => wst { wm with a := mkFIX 95, x := x, y := 0x400F }
    (∀ x ∈ [(0x8000000000000000 : Word64), 0], Starts (st x) (sWord 0xE7 0 0) 1 (fun e => e.user = false ∧
      ((st x).regs e.q).a = mkFIX 95 ∧
      ((st x).regs e.q).x = x ∧ ((st x).slot e.q).stale = false)) ∧
    (let u := (st 0).modSlot wq (fun v => { v with stale := true })
     Starts u (sWord 0xE7 0 0) 1 (fun e => e.user = false ∧ (u.slot e.q).stale = true)) ∧
    Is (mkFIX 95) tagFIX ∧ (mkFIX 95).pay < 96 ∧ tlbwOk 95 0x8000000000000000 0x400F = true ∧ tlbwOk 95 0 0x400F = true ∧
    (∀ w ∈ [sWord 0xD9 0 0, sWord 0xD9 1 0, sWord 0xD9 2 0], Starts (st 0) w 1 (fun e => e.user = false ∧
      ((st 0).regs e.q).x.toNat < 2 ^ 56)) := by
  refine ⟨?_, starts (by decide +kernel), ?_⟩
  case refine_2 => exact ⟨by decide +kernel, by decide, rfl, rfl, startsAll (by decide +kernel)⟩
  intro x h
  simp only [List.mem_cons, List.not_mem_nil, or_false] at h
  obtain rfl | rfl := h <;> exact starts (by decide +kernel)

/-- HBM's last cell, the ranges' first addresses, a record that is not resident, one that is, and the waits of CTXLD. -/
theorem test_hyps_PhysicalAndRecordAccesses :
    let st := fun (x : Nat) => wst { wm with x := BitVec.ofNat 64 x } (fun s => wmem id (((s.setRec 6 24 (mkCell tagRAW 0 (2 * 2 ^ 17 + 2 ^ 16 + 2 ^ 8) 0)).modSlot ⟨0, 1⟩
      (fun v => { v with ctx := some 6 })).setRec 7 24 (mkCell tagRAW 0 (2 * 2 ^ 17) 0)))
    (let s := st (hbmEnd - 16)
     let k := s.core 0
     (s.regs wq).x.toNat / 16 * 16 = hbmEnd - 16 ∧ hbmEnd - 16 < hbmEnd ∧ s.poisoned ((hbmEnd - 16) / 128) = false ∧ k.lockn = 0 ∧
       s.heap.en = false ∧
      (s.slot wq).det = {} ∧ k.merge = [] ∧ k.den = true ∧ k.ocDefined = true ∧ k.miss.length ≤ 4 ∧
        regionOf 0xFE0000000000 = .device ∧ regionOf (2 ^ 48 - 16) = .absent ∧
      (let u := s.modCore 0 (fun k => { k with oc := [⟨(hbmEnd - 16) / 512, 8, 0, false⟩] })
       ((u.started (u.envAt wq 5 (sWord 0xE8 0 0) 1)).core 0).ocHit (hbmEnd - 16) = true)) ∧
    (∀ x ∈ [hbmEnd - 16, 2 ^ 48, 2 ^ 48 - 16, 0xFE0000000000, 6, 7, 16383, 16384], ∀ w ∈ [sWord 0xE8 0 0, sWord 0xE9 0 0, sWord 0xEA 0 31, sWord 0xEB 0 4], Starts (st x) w 1
      (fun e => e.user = false ∧ ((st x).regs e.q).x.toNat = x)) ∧
    (7 < 16384 ∧ 7 ≠ 5 ∧ (st 7).ctxRes 7 = false ∧ ((st 7).regs wq).a.tag ≠ tagCAP) ∧
    27 ≤ (31 : Nat) ∧ (6 < 16384 ∧ 6 ≠ 5 ∧ (st 6).ctxRes 6 = true ∧ (st 6).atBoundary ((st 6).ctxAt 6) = true ∧
      ((st 6).slot ((st 6).ctxAt 6)).ctx = some 6) ∧
    (∀ m ∈ [6, 7], let s := (st m).modSlot wq (fun v => { v with waits := some (m, 31, none) })
     (s.slot wq).ctx = some 5 ∧ (s.slot wq).waits = some (m, 31, none) ∧ wq = Cx.of wi) := by
  refine ⟨by decide +kernel, ?_, by decide +kernel⟩
  intro x h
  simp only [List.mem_cons, List.not_mem_nil, or_false] at h
  obtain rfl | rfl | rfl | rfl | rfl | rfl | rfl | rfl := h <;> exact startsAll (by decide +kernel)

/-- A mapped line without a busy miss register: a range that ends with it, and one that goes on; the address 2^56; a line dirty in
both caches. -/
theorem test_hyps_LineMaintenanceKeepsOtherLines :
    let st := fun (x y : Nat) => wst { wm with f := wcap wall 0 0x1000 0x100, x := BitVec.ofNat 64 x, y := BitVec.ofNat 64 y } wmem
    (let s := (wop wm 0).setOcU 0x202 (some ⟨0, [mkFIX 1]⟩)
     let u := (wop wm 0).setL2U 0x202 (some ⟨0, [mkFIX 2]⟩)
     (s.l2U 0x202 = none ∧ s.ocU 0x202 ≠ none) ∧ u.l2U 0x202 ≠ none) ∧
    (∀ w ∈ [mWord 0xD1 oF, mWord 0xD2 oF, mWord 0xD3 oF, sWord 0xD4 0 0, sWord 0xD4 1 0, sWord 0xD4 2 0], Starts (st 0x100 0x100) w 1 (fun e =>
      e.user = false ∧ (((st 0x100 0x100).core e.q.core).tlbFind ((st 0x100 0x100).ctxAsid e.n) 0x100).isSome ∧
        plainB ((st 0x100 0x100).started e) e 0x100 0x10100 = true ∧
      ((st 0x100 0x100).core e.q.core).missFind (0x10100 / 512) = none ∧
        (0x100 : Int) = (((st 0x100 0x100).regs e.q).capReg 0).pay + 16 * oF.disp.toInt)) ∧
    (0x1FF / 512 * 512 = 0 ∧ 0 < 1 ∧ 0x1FF + 1 ≤ 0 + 512 ∧ 0 + 512 < 0x1FF + 2 ∧ 2 ^ 56 < (2 ^ 56 - 1) + 2) :=
  ⟨by decide +kernel, startsAll (by decide +kernel), by decide⟩

/-- 1 and 24 locked entries at an aligned window, at one that is not and at one past HBM; a fill of a requested sector; a write
that clears `DEN`. -/
theorem test_hyps_CachesAndScratch :
    let st := fun (x : Nat) => wst { wm with x := BitVec.ofNat 64 x } wmem
    (∀ w ∈ [sWord 0xD5 0 0, sWord 0xD6 0 0, sWord 0xD8 0 0, sWord 0xD7 0 1, sWord 0xD7 0 24, sWord 0xD7 0 0, sWord 0xD7 0 25, sWord 0xE9 0 0],
      Starts (st 0x4000) w 1 (fun e => e.user = false ∧ e.q.core = (0 : BitVec 6).toNat ∧
        ((st 0x4000).regs e.q).x.toNat % 2 ^ 14 = 0 ∧
        ((st 0x4000).regs e.q).x.toNat + 512 * 24 ≤ hbmEnd ∧ ((st 0x4000).core e.q.core).miss = [] ∧
          ((st 0x4000).core e.q.core).den = true ∧
        (mkRAW 2).payload.getLsbD 0 = false)) ∧
    (((st 0x200).regs wq).x.toNat % 2 ^ 14 ≠ 0 ∧ hbmEnd < ((st (hbmEnd - 512)).regs wq).x.toNat + 512 * 2) ∧
    (let r : MissReg := { line := 5, mask := 8 }
     let s := State.reset.modCore 0 (fun k => { k with den := true, miss := [r] })
     (s.core (0 : BitVec 6).toNat).missFind (5 : BitVec 39).toNat = some r ∧ bit r.mask (3 : BitVec 2).toNat = true ∧
       s.poisoned (4 * 5 + 3) = false) :=
  ⟨startsAll (by decide +kernel), by decide +kernel⟩

/-- Two pending causes of which one is due, none due; an undefined opcode, a prefix, a fetch without an entry. -/
theorem test_hyps_BoundariesTakeTheFirstCause :
    (let s := (wst wm).modAux 5 (fun a => { a with vectors := [17, 16], watchdog := true })
     (s.slot wq).ctx = some 5 ∧ s.issuable wq 5 = true ∧ (s.slot wq).mid = .none ∧
       s.asyncDue 5 (s.slot wq).regs.st = some { code := cWATCHDOG }) ∧
    ((wst wm).asyncDue 5 ((wst wm).slot wq).regs.st = none) ∧
    (∀ w ∈ [(0x18000000 : Word32), 0xD9030000, 0xF0000000, 0xF1000000], Starts (wst wm) w 1 (fun _ => opcodeDefined 0x18 = false ∧
      opcodeDefined 0xD9 = true ∧ subDefined 0xD9 (BitVec.ofNat 8 ((0xD9030000 : Word32).toNat / 2 ^ 16)) = false)) ∧
    Starts (wst wm) 0 1 (fun e => ((wst wm).core e.q.core).tlbFind ((wst wm).ctxAsid 5) e.pc = none) :=
  ⟨by decide +kernel, by decide +kernel, startsAll (by decide +kernel), starts (by decide +kernel)⟩

/-- DRANGE under way: its last line, a line before it, and a due cause. -/
theorem test_hyps_LongInstructionsStep :
    let l := fun stop : Nat => ({ word := mwordOf 0xD4 oNone, step := 1, work := 0, routine := .drange 0 stop 0 } : LongOp)
    (∀ stop ∈ [512, 513], let s := wmid (wst wm wmem) (.long (l stop))
     (s.slot wq).ctx = some 5 ∧ s.issuable wq 5 = true ∧ (s.slot wq).mid = .long (l stop) ∧
       s.asyncDue 5 (s.slot wq).regs.st = none ∧
      plainB s (s.midEnv wq 5 (l stop).word false) 0 0x10000 = true ∧ (s.core 0).missFind (0x10000 / 512) = none ∧
      (s.midEnv wq 5 (l stop).word false).user = false) ∧
    (let s := (wmid (wst wm wmem) (.long (l 512))).modAux 5 (fun a => { a with watchdog := true })
     0 < (l 512).step ∧ s.asyncDue 5 (s.slot wq).regs.st = some { code := cWATCHDOG }) := by decide +kernel

/-- A placeable context with an empty slot, with none; a slot past its quantum with a peer that waits; budgets 0, 1 and
0xFFFFFFFF; a wake now and later. -/
theorem test_hyps_TheDispatcherPlacesAndCharges :
    let rec_ := fun (spec24 wake spec25 pay25 : Nat) (n : Nat) (s : State) => (s.setRec n 24 (mkCell tagRAW 0 spec24 wake)).setRec n 25 (mkCell tagRAW 0 spec25 pay25)
    let on : State := { State.reset with power := { State.reset.power with domains := 2 ^ 115 - 1 } }
    let s := rec_ (2 * 2 ^ 17) 0 (2 ^ 29) 0 7 on
    (State.reset.placement = none) ∧ (s.placement = some (7, ⟨0, 0⟩, false) ∧ s.slot ⟨0, 0⟩ = {} ∧ s.heap.phase = .idle) ∧
    (let u := (List.range 4).foldl (fun s k => (rec_ (2 * 2 ^ 17 + 2 ^ 16 + k * 2 ^ 8) 0 (2 ^ 29) 1 (8 + k) s).modSlot ⟨0, k⟩ (fun v => { v with ctx := some (8 + k) }))
       { s with dep := { s.dep with absent := (List.range 64).drop 1 }, time := { s.time with gtc := (1000001 : Nat) * 2 ^ 32 } }
     u.placement = some (7, ⟨(0 : BitVec 6).toNat, (0 : BitVec 2).toNat⟩, true) ∧ (u.slot ⟨0, 0⟩).ctx = some 8 ∧
       (u.slot ⟨0, 0⟩).mid = .none ∧ u.ctxState 8 = 2 ∧
       u.ctxBudget 8 = 1) ∧
    (let u := rec_ (4 * 2 ^ 17) 1000 0 0 7 on
     u.ctxState 7 = 4 ∧ u.now < u.ctxWake 7 ∧
       (u.modTime (fun x => { x with gtc := 1000 * 2 ^ 32 })).ctxWake 7 ≤ (u.modTime (fun x => { x with gtc := 1000 * 2 ^ 32 })).now) := by
  decide +kernel

/-- The records of two ports with room in the queue; an empty queue; records of a channel, of a waiting CKPT, and an orphan. -/
theorem test_hyps_CompletionsAreQueuedAndRetired :
    let r : Record := ⟨11, false, 0, 7, 1, 9⟩
    let k : Record := ⟨11, true, 0, 5, 1, 9⟩
    let s := { State.reset with ports := [(10, [r]), (11, [r, k])] }
    let w := { (wst wm).setRec 5 24 (mkCell tagRAW 0 (5 * 2 ^ 17 + 2 ^ 16) 0) with collQ := [k] }
    (s.power.ps < 4 ∧ s.collQ.length ≤ 1024 ∧ s.presented.length + s.collQ.length ≤ 1024 ∧ s.presented.length = 2 ∧ s.collQ = []) ∧
    (let u := { State.reset with collQ := [r] }
     u.power.ps < 4 ∧ u.collQ = [r] ∧ r.dk = false ∧ r.status = 0 ∧ (u.chan r.dest).ivec = 0) ∧
    (w.collQ = [k] ∧ k.dk = true ∧ k.status = 0 ∧ w.ctxState k.dest = 5 ∧ w.ctxRes k.dest = true) ∧
    (({ State.reset with collQ := [k] } : State).ctxState k.dest ≠ 5) ∧
    4 ≤ ({ State.reset with power := { State.reset.power with ps := 4 } } : State).power.ps := by decide +kernel

/-- A PST at machine level; the heap on and off, above and in PS3; requests, phases, passes, a core between and at boundaries, and
the ends. -/
theorem test_hyps_TheHeapControlStartsCycles :
    let h := fun k : Heap => { State.reset with heap := { k with en := true } }
    Starts (wst wm) (sWord 0xE9 0 0) 1 (fun e => e.user = false ∧ Is (mkRAW 0xFFFFFFFFFFFFFFFF) tagRAW) ∧
    ((h { reqMin := true, auto := false }).heap.phase = .idle ∧ (h { reqMaj := true }).heap.en = true ∧ (h {}).power.ps < 3 ∧
      State.reset.heap.en = false ∧ (h { phase := .mark }).heap.phase ≠ .idle) ∧
    (let s := h { pass := some .markFlip, unacked := [0, 63] }
     let u := s.modSlot ⟨63, 3⟩ (fun v => { v with ctx := some 5, mid := .rep { pfx := 0xF0000046, word := mwordOf 0x15 oFX, count := 70, done := 3, key := none } })
     s.heap.pass = some .markFlip ∧ (63 : BitVec 6).toNat ∈ s.heap.unacked ∧
       (∀ k < 4, s.atBoundary ⟨(63 : BitVec 6).toNat, k⟩ = true) ∧
      u.atBoundary ⟨(63 : BitVec 6).toNat, 3⟩ = false) ∧
    (∀ d ∈ [false, true], (h { phase := .mark, markEndDone := d }).traced = true ∧
      (h { phase := .mark, markEndDone := d }).heap.pass = none) ∧
    (h { phase := .relocate }).uncopied = [] ∧ ((h { phase := .remap, scopeMade := true }).heap.scope = [] ∧
      (h { phase := .remap, scopeMade := true }).heap.phase = .remap) :=
  ⟨starts (by decide +kernel), by decide +kernel⟩

/-- One empty silt block; a live object of a set and its copy's place; items in and outside their sets; a block to clear. -/
theorem test_hyps_EnginesWorkThroughTheirSets :
    let entry := fun (kind rel frame : Nat) => mkCell tagRAW 0 (kind * 2 ^ 48 + rel * 2 ^ 47) (frame * 2 ^ 21)
    let s := fun h : Heap => ({ State.reset with heap := { h with en := true, btaddr := 2, vbase := 1 } } : State).setCell 0x100010 (entry kSILT 0 8)
    let o := 2 ^ 36 + 2 ^ 21
    let r := ((s { phase := .relocate, starts := [(o, 1)], seClay := [(2 ^ 36 + 2 ^ 22, 2 ^ 36 + 2 ^ 22 + 16), (0, 0)] }).setCell 0x100010 (entry kSILT 1 8)).setCell
      0x100020 (entry kCLAY 0 9) |>.setCell 0x1000000 (mkCell tagHDR 0 (3 * 2 ^ 42 + 0x16 * 2 ^ 44 + 1) 0)
    let u := s { phase := .select }
    (u.heap.en = true ∧ u.heap.phase = .select ∧ u.heap.selected = false ∧ u.heap.pass = none ∧ u.heap.major = false ∧
      u.blocks = [1] ∧ eKind (u.entry 1) = kSILT ∧
      eNew (u.entry 1) = false ∧ u.fixedInPlace 1 = false ∧ eLive (u.entry 1) = 0) ∧
    (r.heap.phase = .relocate ∧ r.heap.pass = none ∧ o ∈ r.uncopied ∧ r.isConsAt o = false ∧ r.sizeAt o = 1 ∧
      r.goesToBed o = false ∧
      r.chunkOf (.engine (0 : BitVec 1).toNat) false = (2 ^ 36 + 2 ^ 22, 2 ^ 36 + 2 ^ 22 + 16) ∧
        2 ^ 36 + 2 ^ 22 + 16 ≤ 2 ^ 36 + 2 ^ 22 + 16 ∧
      r.entryPa (blockOf o) + 16 ≤ r.heapPa (2 ^ 36 + 2 ^ 22) ∧ r.heapPa o + 16 ≤ r.heapPa (2 ^ 36 + 2 ^ 22) ∧ o < 2 ^ 56 ∧
        0 ∉ r.uncopied) ∧
    (let m := (s { phase := .mark, queue := [(o, true)], toScan := [16383], cards := [(7, true)] }).setCell 0x1000000 (mkHDR tagSTR 1 0)
     m.heap.phase = .mark ∧ m.heap.pass = none ∧ m.pointerCells o = (o, 0) ∧
       SMap.get false m.heap.cards (7 : BitVec 47).toNat = true) ∧
    (let m := s { phase := .remap, scope := [.record 16383] }
     m.heap.phase = .remap ∧ .record (16383 : BitVec 14).toNat ∈ m.heap.scope ∧ .record (0 : BitVec 14).toNat ∉ m.heap.scope) ∧
    (let m := s { clearing := [1] }
     m.heap.phase = .idle ∧ (1 : BitVec 15).toNat ∈ m.heap.clearing ∧ eKind (m.entry 1) ≠ kABSENT ∧
       0 ∉ m.heap.clearing) := by decide +kernel

/-- A stream with one THR stage on a link lane and one output of notifications. -/
def wdesc (kcode class_ ramp okind : Nat) : List Cell :=
  [mkRAW (2 ^ 56 + 2 ^ 52 + 2 ^ 48 + class_ * 2 ^ 47), mkRAW (2 ^ 60), mkRAW 0x412E848000000000, mkRAW (16 * 2 ^ 48 + 5 * 2 ^ 16 + ramp),
    mkRAW (kcode * 2 ^ 56 + 2 ^ 40), mkRAW (2 ^ 37 + 2 * 2 ^ 38)] ++ List.replicate 14 (mkRAW 0) ++
  [mkRAW (okind * 2 ^ 60 + (if okind = 1 then 0x8000 else 0)), mkRAW (if okind = 2 then 0 else 4 * 2 ^ 40)] ++ List.replicate 6 (mkRAW 0) ++ [mkFLO 0] ++
  List.replicate 3 (mkRAW 0)

/-- Slot 255 of geyser 7 in a state. -/
def wgy (y : GySlot) (z : Geyser := {}) : State :=
  { State.reset with geysers := [(7, { z with slots := SMap.set {} z.slots 255 y })] }

/-- What LOAD checks comes out well. -/
def loads (s : State) (g n a : Nat) : Bool :=
  match s.gyLoadCheck g n a with
  | .ok _ => true
  | .error _ => false

/-- A free slot and its descriptor in memory; a slot of each other state with the right and a wrong generation; a transfer block. -/
theorem test_hyps_GeyserCommandsActOnTheirSlot :
    let c : GyCmd := { slot := 255, arg := 0 }
    let y := fun (st : SlotState) (k : Nat) => ({ state := st, gen := 0xFFFFFFFF, desc := wdesc k 0 0 2, stages := [{}], outs := [{}] } : GySlot)
    let base := fun (s : State) => s.boot.held = false ∧ (s.gy 7).fifo = [] ∧ (s.gy 7).compl.length < 56 ∧
      (s.gySlot 7 255).waits = false
    (c.tag = 0x3F ∧ c.epoch = 0 ∧ c.chk = false ∧ c.hit = {} ∧ c.slot.toNat = 255 ∧ (7 : BitVec 3).toNat = 7) ∧
    (let s := (List.range 32).foldl (fun s k => s.setCell (0x1000 + 16 * k) (nthD 0 (wdesc kTHR 0 0 2) k)) (wgy {} { ftz := 1 })
     base s ∧ (0x1000 : Word64).toNat % 512 = 0 ∧ 0x1000 < 2 ^ 48 ∧ (s.gySlot 7 255).state = .free ∧ SMap.wf {} s.geysers = true ∧
       loads s 7 255 0x1000 = true) ∧
    (∀ st ∈ [SlotState.loaded, .paused, .aborted, .running], base (wgy (y st kTHR)) ∧
      (0xFFFFFFFF00000000 : Word64).toNat / 2 ^ 32 = (y st kTHR).gen ∧
      (0xFFFFFFFF00000000 : Word64).toNat % 2 ^ 32 = 0 ∧ (y st kTHR).gen ≠ 0 ∧ (wgy (y st kTHR)).panel.eforce = false ∧
      admits ((wgy (y st kTHR)).gy 7) (y st kTHR).desc = true ∧ (y st kTHR).ramp = none ∧ hasDrive (y st kTHR).desc = false ∧
      0 < dNst (y st kTHR).desc ∧ dSpv (y st kTHR).desc 0 = true ∧ (1 : Word64).toNat / 2 ^ 32 ≠ (y st kTHR).gen) ∧
    (let z : GySlot := { y .running kSINE with desc := wdesc kSINE 0 9 2 }
     base (wgy z) ∧ hasDrive z.desc = true ∧ dRamp z.desc ≠ 0 ∧ z.ramp = none ∧ z.state = .running) ∧
    (base (wgy (y .running kSHOCK)) ∧ dKcode (y .running kSHOCK).desc 0 = kSHOCK) := by decide +kernel

/-- Transfer blocks of both forms. -/
theorem test_hyps_GeyserCommandsActOnTheirSlot_transfers :
    let y : GySlot := { state := .loaded, gen := 0xFFFFFFFF, desc := wdesc kRFC 0 0 2, stages := [{}], outs := [{}] }
    ∀ pk ∈ [false, true],
     let s := ((wgy y).setCell 0x1000 (mkRAW (0x2000 + b2n pk))).setCell 0x1010 (mkRAW (0xFFFFFFFF * 2 ^ 32 + 1 * 2 ^ 19 + 1))
     (s.gy 7).fifo = [] ∧ (s.gy 7).compl.length < 56 ∧ (s.gySlot 7 255).waits = false ∧ s.canGet 0x1000 32 = true ∧
       (s.cell 0x1000).tag = tagRAW ∧ (s.cell 0x1010).tag = tagRAW ∧ (s.cell 0x1000).pay = 0x2000 + b2n pk ∧
      (s.cell 0x1010).pay = y.gen * 2 ^ 32 + 1 * 2 ^ 19 + 1 ∧ inRegions y.desc (64 * 1) (16 * 1) = true ∧
      s.canGet 0x2000 (if pk then 32 * 1 else 16 * 1) = true ∧
        s.canPut 0x2000 (if pk then 32 * 1 else 16 * 1) = true := by decide +kernel

/-- A running stream with a value in its queue; records that wait for a heap ring and for a host ring; the end of `TMO`; the end of a ramp and just
before it. -/
theorem test_hyps_StreamEventsFollowTheDescriptor :
    let x : GyItem := { vals := [0x3FF0000000000000], time := 3, arr := 3 }
    let on := fun (s : State) (t : Nat) => { s with time := { s.time with gtc := t * 2 ^ 32 }, power := { s.power with domains := 2 ^ 112 - 1 } }
    let sl := fun (d : List Cell) (st : StageState) (o : OutState) => ({ state := .running, gen := 1, desc := d, stages := [st], outs := [o] } : GySlot)
    (let d := (wdesc kTHR 0 0 2).set 0 (mkRAW (2 ^ 56 + 2 ^ 52))
     let y := sl d { inbox := [x] } {}
     let s := on (wgy y) 9
     let v := { x with vals := [to64 (smemNat (s.gy 7).smem (fifoByte d y.fifoPos) 4)] }
     let r := runKernel (dKcode d 0) ((s.setStage 7 255 0 {}).kin 7 255 0) {} v
     s.gyClk 7 ≠ 0 ∧ y.state = .running ∧ dNst d = 1 ∧ dNout d = 0 ∧ dKcode d 0 ≠ kRAND ∧ s.fedBy 3 7 255 = [] ∧
       y.stages.length = 1 ∧
      (nthD {} y.stages 0).inbox = [x] ∧ (nthD {} y.stages 0).reload = false ∧ y.ramp = none ∧ r.posts = [] ∧ r.abort = none ∧
      s.workAt 7 255 0 = some (0, 65536003) ∧ s.earlierWork 7 0 65536003 = false ∧
      (let busy := s.setGySlot 7 3 { y with stages := [{ inbox := [{ x with arr := 2 }] }] }
       busy.workAt 7 255 0 = some (0, 65536003) ∧ busy.earlierWork 7 0 65536003 = true)) ∧
    (let d := wdesc kTHR 1 0 1
     let y := sl d {} { held := [x] }
     let s := ((on (wgy y) 9).setCell 0x8010 (mkFIX 2)).setCell 0x8020 (mkFIX 0)
     (nthD ({ held := [] } : OutState) y.outs 0).held = [x] ∧ oKind d 0 = 1 ∧ s.canGet (oAddr d 0 + 16) 32 = true ∧
       s.canPut (oAddr d 0 + 16) 16 = true ∧
      s.canPut (oAddr d 0 + 48 + 16 * ((s.cell (oAddr d 0 + 16)).int % (oRlen d 0 : Int)).toNat) (16 * (recordOf d 0 x).length) = true ∧
      (s.cell (oAddr d 0 + 16)).int - (s.cell (oAddr d 0 + 32)).int = (oRlen d 0 : Int) - (recCells d 0 : Int) ∧
      (let full := s.setCell 0x8010 (mkFIX 3)
       ¬ (full.cell (oAddr d 0 + 16)).int - (full.cell (oAddr d 0 + 32)).int ≤ (oRlen d 0 : Int) - (recCells d 0 : Int) ∧
        oPol ((wdesc kTHR 1 0 1).set 20 (mkRAW (2 ^ 60 + 2 * 2 ^ 54 + 0x8000))) 0 = 2)) ∧
    (let d := wdesc kTHR 1 0 4
     let y := sl d {} { held := [x], prod := 2, dma := [mkRAW 0x10000, mkRAW 0x20000, mkRAW (3 * 2 ^ 62)] }
     let s := { on (wgy y) 9 with funcs := [(3, { bme := true })] }
     oKind d 0 = 4 ∧ (nthD ({ held := [] } : OutState) y.outs 0).held = [x] ∧
       (s.func (field (nthD 0 (nthD ({ held := [] } : OutState) y.outs 0).dma 2).payload 63 62)).bme = true ∧
      ((nthD ({ held := [] } : OutState) y.outs 0).prod : Int) - (0 : Word64).toNat = (oRlen d 0 : Int) - (recCells d 0 : Int)) ∧
    (let y := sl (wdesc kTHR 0 0 2) {} {}
     y.state = .running ∧ dClass y.desc = 0 ∧ dTmo y.desc ≠ 0 ∧ dSkind y.desc ≠ 4 ∧
       y.lastInput + 1000 * dTmo y.desc ≤ (on (wgy y) 5000).now ∧
      (on (wgy y) 4999).now < y.lastInput + 1000 * dTmo y.desc) ∧
    (let y : GySlot := { sl (wdesc kSINE 0 1 2) {} {} with ramp := some { t0 := 100, fin := .abort } }
     y.ramp = some { t0 := 100, fin := .abort } ∧ ((wgy y).gy 7).fifo = [] ∧ 100 + rampNs y.desc ≤ (on (wgy y) 10100).now ∧
       (on (wgy y) 10099).now < 100 + rampNs y.desc) := by
  decide +kernel

/-- A frame with these bytes and their CRC. -/
def wframe (b : List Byte) : RxFrame := { bytes := b, crc := crc32 b }
/-- Link 7 in a state, at a time in ns. -/
def wlink (l : Link) (t : Nat) : State :=
  { State.reset with links := [(7, l)], time := { State.reset.time with gtc := t * 2 ^ 32 }, power := { State.reset.power with pen := 12 } }

/-- Each state of a link at and before its time; TRAIN frames with and without `ACK`, of a version in reach and of one that is
not. -/
theorem test_hyps_LinksTrainAndFall :
    let train := fun (least high ack : Nat) => wframe (leBytes 8 8 ++ (leBytes 8 5 ++ leBytes 4 0 ++ leBytes 1 high ++ leBytes 1 least ++ leBytes 1 ack ++
      leBytes 1 64))
    let ok := fun (l : Link) (fr : RxFrame) => fr.codeErr = false ∧ fr.eof = true ∧ fr.bytes.length = 24 ∧ fr.crc = crc32 fr.bytes ∧
      headerOk l fr.bytes = true ∧ leValue (fr.bytes.take 1) % 16 = 8
    let low := fun fr : RxFrame => leValue ((fr.bytes.drop 21).take 1)
    let high := fun fr : RxFrame => leValue ((fr.bytes.drop 20).take 1)
    let ack := fun fr : RxFrame => leValue ((fr.bytes.drop 22).take 1) % 2
    Starts (wst wm (fun _ => wlink {} 0)) (sWord 0xE9 0 0) 1 (fun e => e.user = false ∧ Is (mkRAW 1) tagRAW ∧
      (mkRAW 1).payload.getLsbD 0 = true ∧
      ((wst wm (fun _ => wlink {} 0)).link 7).state = .down ∧ (({} : Link).waiting = false) ∧ (wlink {} 0).power.ps < 4 ∧
      (wst wm (fun _ => wlink {} 0)).vddIo = true ∧ (wst wm (fun _ => wlink {} 0)).vddPhy = true) ∧
    (((wlink { state := .up, en := true } 0).link 7).state = .up ∧ (mkRAW 0).payload.getLsbD 0 = false ∧
      (mkRAW 3).payload.getLsbD 1 = true) ∧
    (((wlink { state := .align } 0).link 7).state = .align ∧ ((wlink {} 0).link 7).state ≠ .align ∧
      ((wlink { state := .train } 0).link 7).state = .train) ∧
    (let l : Link := { state := .train, sentAck := true }
     let a := train 1 2 0
     let b := train 1 2 1
     let c := train 3 3 1
     ok l a ∧ ack a = 0 ∧ ok l b ∧ ack b = 1 ∧ low b ≤ (if l.offer < high b then l.offer else high b) ∧ ok l c ∧ ack c = 1 ∧
      (if l.offer < high c then l.offer else high c) < low c) ∧
    (∀ x ∈ [LinkState.train, .nover], let s := wlink { state := x, trainAt := 5 } 10000005
     (s.link 7).state = x ∧ (s.link 7).trainAt + 10000000 ≤ s.now ∧ (s.link 7).waiting = false) ∧
    (let s := wlink { state := .train, trainAt := 5 } 10000004
     s.now < (s.link 7).trainAt + 10000000 ∧ s.jr.pf = .normal ∧
       ({ s with jr := { s.jr with pf := .failing } } : State).jr.pf ≠ .normal) := by
  refine ⟨starts (by decide +kernel), by decide +kernel⟩

/-- The arrival of a TRAIN frame about 100 ns after its peer's stamp 5 gives a `DELAY` of 16 bits, whatever the error of the
stamp. -/
theorem test_hyps_LinksTrainAndFall_delay :
    let s := wlink { state := .train, sentAck := true } 100
    ∃ d : BitVec 16, linkDelay 5 0 (s.now + max s.stampError.1 (0 - 2 * s.early) - s.early) = d.toNat := by
  intro s
  have h : s.stampError.1 < 9 := Nat.mod_lt _ (by decide)
  have hn : s.now = 100 := by decide
  have he : s.early = 4 := rfl
  rw [hn, he]
  generalize s.stampError.1 = k at h
  refine ⟨BitVec.ofNat 16 ((k + 92) / 2), ?_⟩
  simp only [linkDelay, BitVec.toNat_ofNat]
  omega

/-- An UP link of version 2: a SAMPLES frame of one value for a running stream, a CTRL reply, a STAT frame; one credit and none left; the times of TIME and
of the CTRL timeout. -/
theorem test_hyps_LinkFramesAndCredits :
    let l : Link := { state := .up, en := true, ver := 2, rxcred := 1, txcred := 1, ctrl := some (6, 0), txq := [(255, 0, 7, 9, true)] }
    let y : GySlot := { state := .running, gen := 1, desc := wdesc kTHR 0 0 2, stages := [{ inbox := List.replicate 15 { vals := [0], time := 0 } }], outs := [{}] }
    let s := { wlink l 1000000 with geysers := [(0, { slots := [(0, y)] })] }
    let ok := fun (fr : RxFrame) (type : Nat) => fr.codeErr = false ∧ fr.eof = true ∧ fr.bytes.length ≤ 144 ∧
      fr.bytes.length % 4 = 0 ∧ 8 ≤ fr.bytes.length ∧
      fr.crc = crc32 fr.bytes ∧ headerOk l fr.bytes = true ∧ leValue (fr.bytes.take 1) % 16 = type
    let fr := wframe (leBytes 8 (2 ^ 32 + 5 * 2 ^ 24 + 1) ++ leBytes 8 77 ++ leBytes 4 0x1234)
    (s.link 7).state = .up ∧ (s.link 7).rxcred ≠ 0 ∧ 0 < (s.link 7).txcred ∧ s.jr.pf = .normal ∧
      ((wlink { l with rxcred := 0 } 0).link 7).rxcred = 0 ∧
    (ok fr 1 ∧ l.ver = 2 ∧ fr.bytes.length = 20 ∧ leValue (fr.bytes.take 8) / 2 ^ 32 % 2 = 1 ∧
      leValue (fr.bytes.take 8) / 256 % 32 = 0 ∧
      (let u := { s with geysers := [(0, { slots := [(0, { y with desc := (wdesc kTHR 0 0 2).set 1 (mkRAW (2 ^ 60 + 7 * 2 ^ 48)) })] })] }
       (u.fedBy 1 7 (leValue ((fr.bytes.drop 2).take 1))).length = 1 ∧ (u.gySlot 0 0).state = .running ∧
        dFmt (u.gySlot 0 0).desc = leValue (fr.bytes.take 8) / 16 % 4 ∧
          (nthD ({ n := 0 } : StageState) (u.gySlot 0 0).stages 0).inbox.length < dFdep (u.gySlot 0 0).desc)) ∧
    ok (wframe (leBytes 8 3 ++ leBytes 8 1)) 3 ∧ ok (wframe (leBytes 8 4 ++ leBytes 8 6)) 4 ∧ l.ctrl = some (6, 0) ∧
      0 + 1000000 ≤ s.now ∧
    (wlink l 999999).now < 0 + 1000000 ∧ l.txq = [(255, 0, 7, 9, true)] ∧ (l.tper ≠ 0 ∧
      l.timeAt / (100000 * l.tper) < s.now / (100000 * l.tper) ∧
      (wlink l 999999).now / (100000 * l.tper) ≤ l.timeAt / (100000 * l.tper)) ∧
    Starts (wst wm (fun _ => s)) (sWord 0xE9 0 0) 1 (fun e => e.user = false ∧ Is (mkRAW 0) tagRAW ∧
      ((wst wm (fun _ => s)).link 7).cbusy = false) := by
  iterate 14 first | exact starts (by decide +kernel) | refine ⟨by decide +kernel, ?_⟩

/-- Undisciplined and disciplined; no master, a better and a worse one; a two-step Sync that waits and a Delay_Req under way; a
step at 2^63. -/
theorem test_hyps_TimeIsSteppedAndDisciplined :
    let on := fun (x : TimeUnit) => { (State.reset.setDict 0x2410 0 1 2) with time := x, power := { State.reset.power with domains := 2 ^ 104 + 2 ^ 110 } }
    Starts (wst wm) (sWord 0xE9 0 0) 1 (fun e => e.user = false ∧ (wst wm).dictNat 0x2410 0 0xFF = 0xFF ∧
      (mkRAW (2 ^ 63 - 1)).payload.toNat < 2 ^ 63 ∧
      2 ^ 63 ≤ (mkRAW (2 ^ 63)).payload.toNat) ∧
    ((on {}).dictNat 0x2410 0 0xFF ≠ 0xFF ∧ (2 : BitVec 2).toNat = (on {}).dictNat 0x2410 0 0xFF ∧
      (on {}).domainOn (102 + (2 : BitVec 2).toNat) = true ∧
      (on {}).dutyServed 1 = true ∧ (0 : Byte).toNat = (on {}).dictNat 0x2411 0 0 ∧ (on {}).time.master = none) ∧
    ((3 : BitVec 2).toNat ≠ (on {}).dictNat 0x2410 0 0xFF) ∧
    (let s := on { master := some (9, 100), syncWait := some (4, 50), delayReq := some (4, 60), sync := some (10, 20) }
     s.time.master = some ((9 : Word64).toNat, 100) ∧ (9 ≠ (8 : Word64).toNat) ∧ (99 : BitVec 128).toNat < 100 ∧
       100 ≤ (100 : BitVec 128).toNat ∧
      s.time.syncWait = some ((4 : BitVec 16).toNat, (50 : Word64).toNat) ∧ s.time.delayReq = some ((4 : BitVec 16).toNat, 60) ∧
        s.time.sync = some (10, 20)) :=
  ⟨starts (by decide +kernel), by decide +kernel⟩

/-- A CKPT that waits, aborted and not; open commits and none; RREAD's block in memory; the phases of a power failure. -/
theorem test_hyps_JournalCommitsInOrder :
    let st' := fun (r : Regs) (a : Bool) => ((wst r).setRec 5 24 (mkCell tagRAW 0 (5 * 2 ^ 17 + 2 ^ 16) 0)).modAux 5 (fun x => { x with ckptWait := true, aborted := a })
    let st := st' wm
    let k : Commit := { seq := 3, kind := .context 5, checkpoints := [(5, { seq := 3 })], cards := [], entries := [], window := (0, 0, 0), blocks := [], staged := true }
    (∀ a ∈ [false, true], (st a).ctxState (5 : BitVec 14).toNat = 5 ∧ ((st a).auxOf 5).ckptWait = true ∧
      ((st a).auxOf 5).durWait = false ∧
      (st a).jr.pf = .normal ∧ ((st a).auxOf 5).aborted = a ∧ (st a).heap.en = false) ∧
    (let s := { st' { wm with a := plain tagCONS 0x100 } false with heap := { en := true } }
     s.heap.en = true ∧ s.needsDurable 5 = true) ∧
    (State.reset.jr.open_ = [] ∧ k.mesh = false ∧ ({} : CommitEnd).hit = {} ∧
      ({ hit := { meshAt := some 0x80 } } : CommitEnd).hit = { meshAt := some 0x80 } ∧
      ({ hit := { meshAt := some 0x80 } } : CommitEnd).ok = true ∧ k.kind = .context 5 ∧ k.checkpoints = [(5, { seq := 3 })] ∧
        k.bad = false ∧
      ({ k with bad := true } : Commit).bad = true ∧ ({} : CommitEnd).ok = true ∧ ({ ok := false } : CommitEnd).ok = false) ∧
    (let c : JCmd := { arg := 0x1000 }
     let s := ((State.reset.setCell 0x1000 (mkRAW 0x2000)).setCell 0x1010 (mkRAW (2 ^ 64 - 1))).setCell 0x1020 (mkRAW 65536)
     c.tag = 0x3F ∧ c.epoch = 0 ∧ c.hit = {} ∧ State.reset.boot.held = false ∧
      ({ State.reset with boot := { State.reset.boot with held := true } } : State).boot.held = true ∧ c.rsvd = 0 ∧
        c.arg.toNat % 16 = 0 ∧ c.arg.toNat + 48 ≤ hbmEnd ∧ s.cell c.arg.toNat = mkRAW 0x2000 ∧
      s.cell (c.arg.toNat + 16) = mkRAW (2 ^ 64 - 1) ∧ s.cell (c.arg.toNat + 32) = mkRAW 65536 ∧ 0x2000 % 16 = 0 ∧
        0x2000 + 16 * 65536 ≤ hbmEnd ∧ s.poison = [] ∧
      ({} : JCmd).arg = 0 ∧ ({ rsvd := 1 } : JCmd).rsvd ≠ 0 ∧ c.unread = false ∧
        ({ c with unread := true } : JCmd).unread = true) := by
  decide +kernel

/-- Moves of a wear unit, with a failed verify too; the phases of a power failure. -/
theorem test_hyps_JournalCommitsInOrder_moves :
    let k : Commit := { seq := 3, kind := .context 5, checkpoints := [(5, { seq := 3 })], cards := [], entries := [], window := (0, 0, 0), blocks := [], staged := true }
    (let j : Journal := {}
     (116735 < 116736 ∧ j.taken 116735 131071 = false ∧ 131071 ∉ j.retired ∧
       20 * (SMap.get 0 j.wear 131071 + 1) ≤ 21 * j.wearMean + 40000000 ∧
      State.reset.dutyWaits 2 = false ∧ ({ fails := 1 } : MoveEnd).fails = 1 ∧ ({} : MoveEnd).fails = 0 ∧
        ({ fails := 1 } : MoveEnd).ok = true ∧
      ({} : MoveEnd).ok = true ∧ ({ ok := false } : MoveEnd).ok = false) ∧
      (131000 ≠ 131071 ∧ 131000 ∉ j.retired ∧ j.taken 116735 131000 = false ∧
        20 * (SMap.get 0 j.wear 131000 + 1) ≤ 21 * j.wearMean + 40000000) ∧
      j.taken 5 6 = true ∧ 131070 ≠ 131071 ∧ 131070 ∉ j.retired ∧ j.taken 116735 131070 = false) ∧
    (State.reset.boot.held = false ∧ State.reset.jr.pf = .normal ∧
      ({ State.reset with boot := { State.reset.boot with hostWait := some 1 } } : State).boot.hostWait ≠ none ∧
        State.reset.boot.hostWait = none) ∧
    (let j : Journal := { pf := .failing, open_ := [k] }
     j.pf = .failing ∧ j.open_ = [k] ∧ k.staged = true) := by
  decide +kernel

/-- An input whose `DEB`th differing sample comes, and whose holding ends, and just before either; a window's end; events and
none. -/
theorem test_hyps_PanelInputsAreDebounced :
    let s := fun (x : PanelInput) => { (State.reset.setPanelInput 0 127 x) with panel := { (State.reset.setPanelInput 0 127 x).panel with scan := 999 } }
    let deb := State.reset.entryNat 0x6000 0
    let stk := State.reset.entryNat 0x6003 0
    (127 : BitVec 7).toNat < groupSize 0 ∧ 1 < deb ∧ 0 < stk ∧ (s {}).panel.fifo.length < 251 ∧
    (((s { run := deb - 1 }).panelInput 0 127).run + 1 = (s { run := deb - 1 }).entryNat 0x6000 0 ∧
      ((s { run := deb - 1 }).panelInput 0 127).stuck = false ∧ ((s { run := deb - 1 }).panelInput 0 127).chat = false ∧
      ((s { run := deb - 1 }).panelInput 0 127).cnt < (s { run := deb - 1 }).entryNat 0x6002 0 ∧
      ((s {}).panelInput 0 127).run + 1 ≠ (s {}).entryNat 0x6000 0) ∧
    (∀ x ∈ [({ run := deb - 1, stuck := true } : PanelInput), { run := deb - 1, cnt := State.reset.entryNat 0x6002 0 }, { run := deb - 1, chat := true }],
      ((s x).panelInput 0 127).run + 1 = (s x).entryNat 0x6000 0 ∧ ((s x).panelInput 0 127 = x ∧ (x.stuck = true ∨ x.chat = true ∨
        (s x).entryNat 0x6002 0 ≤ x.cnt))) ∧
    (let u := { (s {}).panel with fifo := [(2 ^ 40, 7)], lostNow := 3 }
     u.fifo = (2 ^ 40, 7) :: [] ∧ 0 < u.lostNow ∧ ([] : List (Nat × Nat)).length < 251) ∧
    (((s { state := true, held := 1000 * stk - 1 }).panelInput 0 127).held + 1 = 1000 * (s {}).entryNat 0x6003 0 ∧
      ((s {}).panelInput 0 127).held + 1 ≠ 1000 * (s {}).entryNat 0x6003 0) ∧
    (((s {}).panel.scan + 1) % (s {}).entryNat 0x6001 0 = 0 ∧
      (State.reset.panel.scan + 1) % State.reset.entryNat 0x6001 0 ≠ 0) := by
  decide +kernel

/-- A channel low for the second sample; a release after 400 samples and after 399; a discrepancy; an owner's write; a buzzer at
its end and before. -/
theorem test_hyps_EmergencyStopAndBuzzer :
    let w : DictWrite := { master := 4, data := leBytes 8 1 }
    let s := fun p : Panel => { State.reset with panel := p, dict := { State.reset.dict with owner := 4, tick := 6 }, power := { State.reset.power with domains := 2 ^ 110 } }
    ((s { aLow := 1 }).panel.aLow = 1 ∧ (s {}).panel.aLow = 0) ∧
    ((s { eforce := true, bothHigh := 400 }).panel.bothHigh = 400 ∧ (s { eforce := true, bothHigh := 399 }).panel.bothHigh < 400) ∧
    (400 ≤ (s { disagree := 400 }).panel.disagree ∧ (s { disagree := 400 }).panel.edisc = false ∧
      (s { disagree := 399 }).panel.disagree < 400) ∧
    ((s {}).dictServed = true ∧ w.master ≠ 0xFE ∧ w.master.toNat = (s {}).dict.owner ∧ w.data = leBytes 8 1 ∧
      (s { eforce := true, erel := true }).panel.erel = true) ∧
    ((s { buzzOn := true, buzzLeft := some 6 }).dict.tick = 6 ∧ (s {}).dict.tick < 7) := by decide +kernel

/-- The states whose conditions hold after reset, and the transitions; a core that may gate; a sleeper near its wake; a PLL that
is needed and one that is not. -/
theorem test_hyps_PowerStatesAreEnteredAndLeft :
    let s := fun (p : Power) (f : State → State) => let u := f (State.reset.setDict 0x2002 0 1 5)
      { u with power := p, time := { u.time with gtc := 20000000000 * 2 ^ 32 } }
    (State.reset.tolSources = [] ∧ ({ State.reset with funcs := [(0, { en := true, tolus := 9 })] } : State).tolSources ≠ []) ∧
    ((s { ps := 2 } id).tolAllows 2 = true ∧
      ({ s { ps := 2 } id with funcs := [(0, { en := true, tolus := 1 })] } : State).tolAllows 2 = false) ∧
    (∀ q ∈ [2, 3, 4, 5], let u := s { domains := 2 ^ 112 - 1, since := [(2, some 0), (3, some 0), (4, some 0), (5, some 0)], trans := .settled } id
     u.psAllowed q = true ∧ SMap.get none u.power.since q = some 0 ∧ 0 + dwellNs q ≤ u.now) ∧
    (s { domains := 2 ^ 112 - 1, trans := .entering 2 } id).psAllowed 2 = true ∧
      (s { domains := 2 ^ 112 - 1, trans := .entering 3 } id).psAllowed 3 = true ∧
    ({ s { trans := .entering 2 } id with funcs := [(0, { en := true, tolus := 1 })] } : State).psAllowed 2 = false ∧
    ((s { domains := 2 ^ 112 - 1 } id).mayGate (63 : BitVec 6).toNat = true ∧ (s {} id).mayGate 63 = false) ∧
    (let u := (s { domains := 2 ^ 112 - 1 } id).setRec 7 24 (mkCell tagRAW 0 (4 * 2 ^ 17) (20000000000 + 1008)) |>.setRec 7 25 (mkCell tagRAW 0 (2 ^ 29) 0)
     u.ctxState (7 : BitVec 14).toNat = 4 ∧ u.power.ps ≤ 1 ∧ u.ctxWake 7 ≤ u.now + 1008 ∧ (u.placeFor 7).isSome = true ∧
      (∀ ps ∈ [2, 3], let v := { u with power := { u.power with ps := ps } }
       2 ≤ v.power.ps ∧ v.ctxWake 7 ≤ v.now + 1000 * v.exitLatency v.power.ps + (if v.power.ps = 2 then 8 else 30518))) ∧
    ((s { domains := 2 ^ 112 - 1 } id).pllNeeded (11 : BitVec 4).toNat = true ∧ (s {} id).pllNeeded 0 = false) := by
  decide +kernel

/-- Rails used with a good and a bad PGD; a PGD that is meant to be good; the temperature of the trip and just below; a device
entry; a restart after 1 s. -/
theorem test_hyps_RailsAndTemperatures :
    let word := 2 ^ 31 + 2 ^ 24 + 2 ^ 23 + 15 * 2 ^ 16
    let s := fun p : Power => { (State.reset.setDict 0x2200 3 4 word).setDict 0x2210 9 4 (2 ^ 31 + 2 ^ 7) with power := p, time := { State.reset.time with gtc := 2000000000 * 2 ^ 32 } }
    (railUsed ((s {}).railWord 3) = true ∧ railHasPg ((s {}).railWord 3) = true ∧ railPgd ((s {}).railWord 3) = 15 ∧
      (s { pgd := 2 ^ 15 }).power.pgd.testBit 15 = true) ∧
    (({ seq := .up 1 [3] } : Power).seq = .up 1 [3] ∧ railPgd ((s {}).railWord 3) ≠ (14 : BitVec 4).toNat) ∧
    ((s { pen := 8 }).railMeant (15 : BitVec 4).toNat = true ∧ (s {}).railMeant 15 = false) ∧
    (393150 ≤ (s { temp := [(15, 393150)] }).tempOf (15 : BitVec 4).toNat ∧ (s { temp := [(15, 393149)] }).tempOf 15 < 393150) ∧
    ((s { restart := true, lastFault := some 1000000000 }).power.lastFault = some 1000000000 ∧
      1000000000 + 1000000000 ≤ (s {}).now) ∧
    (((s {}).entryNat 0x2210 (9 : BitVec 4).toNat).testBit 31 = true ∧ ((s {}).entryNat 0x2210 9).testBit 7 = true ∧
      ((s {}).entryNat 0x2210 0).testBit 31 = false) ∧
    ((s {}).entryMilli 0x2102 0 ≤ (s { temp := [(7, 400000)] }).tempOf 7 ∧ 800 < (s {}).entryNat 0x2010 7 ∧
      (s {}).tempOf 7 + 3000 < (s {}).entryMilli 0x2102 0 ∧ (s {}).entryMilli 0x2101 0 ≤ 400000) := by decide +kernel

/-- An image of a kind with `n` body bytes of 0 (R512); `rom` is its ROM identity. -/
def wimg (kind nw n load rom : Nat) : List Byte :=
  leBytes 4 imageMagic ++ leBytes 2 1 ++ leBytes 1 kind ++ leBytes 1 nw ++ leBytes 4 0 ++ leBytes 4 rom ++ leBytes 8 n ++ leBytes 8 load ++ zeros 480 ++
    List.replicate n 0

/-- What the check of an image answers. -/
def passes (s : State) (kind : Nat) (l : List Byte) : Bool :=
  match s.checkImage kind ⟨l, {}⟩ with
  | .ok _ => true
  | .error _ => false

theorem leValue_zeros (n : Nat) : leValue (List.replicate n 0) = 0 := by
  induction n with
  | zero => rfl
  | succ n ih =>
    rw [List.replicate_succ]
    show (0 : Byte).toNat + 256 * leValue _ = 0
    rw [ih]
    rfl

theorem wimg_length (kind nw n load rom : Nat) : (wimg kind nw n load rom).length = 512 + n := by
  simp only [wimg, zeros, List.length_append, length_leBytes, List.length_replicate]

theorem wimg_rom (kind nw n load : Nat) (rom : Word32) : leAt (wimg kind nw n load rom.toNat) 12 4 = rom.toNat := by
  have h : (List.drop 12 (wimg kind nw n load rom.toNat)).take 4 = leBytes 4 rom.toNat := rfl
  rw [leAt, h, leValue_leBytes]
  exact Nat.mod_eq_of_lt rom.isLt

theorem wimg_body (kind nw n load rom k off : Nat) (h : 512 ≤ off) : leAt (wimg kind nw n load rom) off k = 0 := by
  obtain ⟨hd, h1, h2⟩ : ∃ hd, wimg kind nw n load rom = hd ++ List.replicate n 0 ∧ hd.length = 512 := ⟨_, rfl, by
    simp only [zeros, List.length_append, length_leBytes, List.length_replicate]⟩
  rw [leAt, h1, List.drop_append, List.drop_eq_nil_of_le (by omega), List.nil_append, List.drop_replicate, List.take_replicate, leValue_zeros]

theorem passes_patch {s : State} {l : List Byte} {kind n : Nat} (hk : kind = 2 ∨
  kind = 3) (hn : l.length = 512 + n) (h1 : leAt l 16 8 = n)
    (h2 : imageFieldsOk l kind = true) (h3 : leAt l 0 4 = imageMagic) (h4 : leAt l 4 2 = 1) (h5 : leAt l 6 1 = kind)
    (hl : kind = 2 → n = 16640 ∧ leAt l 12 4 = Config.mcRomId.toNat ∧ s.mcMin ≤ leAt l 8 4)
    (hv : kind = 3 → n ≤ 32256 ∧ leAt l 12 4 = Config.vromVer.toNat) : passes s kind l = true := by
  obtain rfl | rfl := hk
  · obtain ⟨rfl, a, b⟩ := hl rfl
    simp [passes, State.checkImage, hn, h1, h2, h3, h4, h5, a, Nat.not_lt.mpr b]
  · obtain ⟨a, b⟩ := hv rfl
    have : 512 + n ≤ 32768 := by omega
    simp [passes, State.checkImage, hn, h1, h2, h3, h4, h5, b, this]

/-- Images of each kind that pass, and one that does not. -/
theorem test_hyps_images :
    passes State.reset 1 (wimg 1 1 16 0x10000 0) = true ∧ passes State.reset 3 (wimg 3 0 0 0 Config.vromVer.toNat) = true ∧
    passes { State.reset with dep := { State.reset.dep with mcMinRaise := some 0 } } 2 (wimg 2 0 16640 0 Config.mcRomId.toNat) = true ∧
    (∀ kind ∈ [1, 2, 3], State.reset.checkImage kind ⟨[], {}⟩ = .error 1) := by
  refine ⟨by decide +kernel, ?_, ?_, by decide +kernel⟩
  · exact passes_patch (n := 0) (.inr rfl) (wimg_length ..) (by decide +kernel) (by decide +kernel) (by decide +kernel) (by decide +kernel)
      (by decide +kernel) (by decide) (fun _ => ⟨by decide, wimg_rom ..⟩)
  · refine passes_patch (n := 16640) (.inl rfl) (wimg_length ..) (by decide +kernel) ?_ (by decide +kernel) (by decide +kernel)
      (by decide +kernel) (fun _ => ⟨rfl, wimg_rom .., Nat.zero_le _⟩) (by decide)
    have h1 : leAt (wimg 2 0 16640 0 Config.mcRomId.toNat) 16 8 = 16640 := by decide +kernel
    have h6 : leAt (wimg 2 0 16640 0 Config.mcRomId.toNat) 50 14 = 0 := by decide +kernel
    have h7 : leAt (wimg 2 0 16640 0 Config.mcRomId.toNat) 7 1 = 0 := by decide +kernel
    have h8 : leAt (wimg 2 0 16640 0 Config.mcRomId.toNat) 24 8 = 0 := by decide +kernel
    have h9 : ∀ x < 16, wiredPair (wimg 2 0 16640 0 Config.mcRomId.toNat) x = (0, 0) := by decide +kernel
    have hb := wimg_body 2 0 16640 0 Config.mcRomId.toNat
    generalize wimg 2 0 16640 0 Config.mcRomId.toNat = l at h1 h6 h7 h8 h9 hb ⊢
    simp (disch := omega) [imageFieldsOk, h1, h6, h7, h8, hb]
    exact h9

/-- A failed rail and untrained HBM, BOOTSEL 1; an owner's write of each value; a PST of a context that runs, that does not, and
one too many; a return of power. -/
theorem test_hyps_ResetsStartTheDeviceAnew :
    (({ railFault := some 15 } : BootEnv).railFault ≠ none ∧ ({ hbmOk := false } : BootEnv).hbmOk = false ∧
      ({ bootsel := 1 } : BootEnv).bootsel = 1 ∧
      ({} : BootEnv).railFault = none) ∧
    (let s := { State.reset with jr := { State.reset.jr with pf := .done } }
     s.jr.pf ≠ .normal ∧ s.power.restart = false ∧ s.power.allDown = false ∧ s.power.tripWait = false) ∧
    (let s := { State.reset with dict := { State.reset.dict with owner := 4 } }
     ∀ k, k < 8 → let w : DictWrite := { master := 4, data := leBytes 8 k }
      s.power.ps < 4 ∧ w.master ≠ 0xFE ∧ w.master.toNat = s.dict.owner ∧ w.data = leBytes 8 k) ∧
    Starts (wst wm) (sWord 0xE9 0 0) 1 (fun e => e.user = false ∧ Is (mkRAW 16383) tagRAW ∧ (mkRAW 16383).pay < 2 ^ 14 ∧
      (mkRAW 16383).pay ≠ 5 ∧
      (mkRAW 16384).pay = 2 ^ 14 ∧ (mkRAW 5).pay = 5) :=
  ⟨by decide +kernel, by decide +kernel, by decide +kernel, starts (by decide +kernel)⟩

/-- A core with a spare and one without, one absent; a record that fails; the last granule of the scrub; a vent core's third
restart within 60 s; a staged record. -/
theorem test_hyps_FailuresAreContained :
    (let s := wst wm
     s.coreActive (0 : BitVec 6).toNat = true ∧ s.spareOf (0 / 8) = some 8 ∧ (s.slot ⟨0, 0⟩).ctx = some 5) ∧
    (let s := { wst wm with dep := { State.reset.dep with spare := [(0, some 0xFF)], absent := [63] } }
     s.spareOf 0 = none ∧ s.coreActive (63 : BitVec 6).toNat = false) ∧
    (let s := State.reset.setRec 16383 24 (mkCell tagRAW 0 (2 * 2 ^ 17) 0)
     s.ctxRes (16383 : BitVec 14).toNat = false ∧ s.ctxState 16383 ≠ 0 ∧ s.ctxState 0 = 0 ∧ (wst wm).ctxRes 5 = true) ∧
    (let s := { State.reset with dep := { State.reset.dep with scrub := hbmEnd / 128 - 1 } }
     s.power.ps ≤ 3 ∧ s.dep.scrub + 1 = hbmEnd / 128) ∧
    (let s := { State.reset with dep := { State.reset.dep with ventTimes := [(3, [2, 1])], ventTodo := [2] }, time := { State.reset.time with gtc := 60000000001 * 2 ^ 32 } }
     (3 : BitVec 2).toNat ∉ s.dep.ventRetired ∧ s.dep.ventTodo.head? ≠ some 3 ∧
      2 ≤ ((SMap.get [] s.dep.ventTimes 3).filter (fun x => s.now ≤ x + 60000000000)).length ∧
        s.dep.ventTodo = [(2 : BitVec 2).toNat]) ∧
    (let r : ErrRecord := ⟨4096, 1, 0, 1, 1, 0, 0, 0⟩
     ({ State.reset.dep with staged := [r] } : Depend).staged = [r]) := by decide +kernel

/-- The owner's writes; patches staged and active cores; a loaded image, its request, its trial and their ends; a service request
without a meaning. -/
theorem test_hyps_PatchesAndImagesAreReplacedLive :
    let img : Image := { loadpa := 0x20000 }
    let s := fun (d : Depend) (t : Nat) => { State.reset with
      dep := d, dict := { State.reset.dict with owner := 4 }, time := { State.reset.time with gtc := t * 2 ^ 32 }
      power := { State.reset.power with domains := 2 ^ 112 - 1 }, jr := { State.reset.jr with images := [(1, wimg 1 1 16 0x10000 0)] } }
    (∀ v ∈ [1, 2, 3], let w : DictWrite := { master := 4, data := leBytes 8 v }
     (s {} 0).power.ps < 4 ∧ w.master ≠ 0xFE ∧ w.master.toNat = (s {} 0).dict.owner ∧ w.data = leBytes 8 v) ∧
    ((s {} 0).coreActive 63 = true ∧ (s {} 0).coreOn 63 = true ∧ ({ mcStaged := some ⟨1, []⟩ } : Depend).mcStaged ≠ none) ∧
    (∀ k, k < 4 → ((s { mcstate := 4, mcTodo := [63] } 0).slot ⟨(63 : BitVec 6).toNat, k⟩).mid = .none) ∧
    ((s { imgstate := 2, running := some img } 0).dep.handAt = none ∧
      (s { imgstate := 2, running := some img } 0).dep.running ≠ none) ∧
    (let u := (((s { imgstate := 2, running := some img, handAt := some 0 } 0).setCell 0x11000 (mkFIX 4)).setCell 0x11010 (mkFIX 0)).setCell 0x11100 (mkRAW (2 * 2 ^ 32))
     u.imgLate = false ∧ (s { imgstate := 4, handAt := some 0 } 0).imgLate = false ∧ (s {} 0).dep.mcstate ≠ 4 ∧
     (match u.nextRequest with
      | some (c, _, _, v) => c == 2 && passes v 1 (SMap.get [] u.jr.images (1 - u.dep.imgrun % 2))
      | none => false) = true) ∧
    (let late := fun u : State => 0 + 1000000 * u.entryNat 0x8113 0
     late (s {} 0) ≤ (s {} (1000000 * State.reset.entryNat 0x8113 0)).now ∧
       (s {} (1000000 * State.reset.entryNat 0x8113 0 - 1)).now < late (s {} 0)) ∧
    (let u := ((s { running := some img } 0).setCell 0x11000 (mkFIX 4)).setCell 0x11100 (mkRAW (9 * 2 ^ 32))
     u.serviceArea = some 0x10000 ∧ (u.cell 0x11010).int < (u.cell 0x11000).int ∧
       field (u.cell (0x11100 + 16 * ((u.cell 0x11010).pay % 256))) 47 32 = 9) := by
  decide +kernel

/-- A token for the device and one that is not; the device's registers at the ends of their region, and an address that is none. -/
theorem test_hyps_DebugAndDeviceRegisters :
    (tokenOk (leBytes 8 Config.serial.toNat ++ leBytes 8 7 ++ zeros 96) = true ∧ tokenOk [] = false) ∧
    (let w : DictWrite := { master := 4, data := leBytes 2 0 }
     State.reset.power.ps < 4 ∧ w.master ≠ 0xFE ∧ w.data = leBytes 2 ([] : List Byte).length ++ [] ∧
       ({ fails := 16 } : Debug).fails = 16) ∧
    Starts (wst wm) (sWord 0xE9 0 0) 1 (fun e => e.user = false ∧ Is (mkRAW (16 * 2 ^ 52)) tagRAW ∧
      (mkRAW (16 * 2 ^ 52)).payload.toNat / 2 ^ 60 = 0 ∧
      (mkRAW (16 * 2 ^ 52)).payload.getLsbD 46 = false ∧ (mkRAW (16 * 2 ^ 52)).payload.toNat / 2 ^ 17 % 2 ^ 15 = 0 ∧
      16 ≤ (mkRAW (16 * 2 ^ 52)).payload.toNat / 2 ^ 52 % 2 ^ 8) ∧
    (regionOf (0 : BitVec 48).toNat ≠ .device ∧
      (({ State.reset with funcs := [(3, { mse := true })] } : State).func 3).mse = true) := by
  refine ⟨⟨?_, rfl⟩, by decide +kernel, starts (by decide +kernel), by decide +kernel⟩
  have h : (List.drop 0 (leBytes 8 Config.serial.toNat ++ leBytes 8 7 ++ zeros 96)).take 8 = leBytes 8 Config.serial.toNat := rfl
  have h0 : leAt (leBytes 8 Config.serial.toNat ++ leBytes 8 7 ++ zeros 96) 0 8 = Config.serial.toNat := by
    rw [leAt, h, leValue_leBytes]
    exact Nat.mod_eq_of_lt Config.serial.isLt
  have h1 : leAt (leBytes 8 Config.serial.toNat ++ leBytes 8 7 ++ zeros 96) 8 1 = 7 := by decide +kernel
  have h2 : leAt (leBytes 8 Config.serial.toNat ++ leBytes 8 7 ++ zeros 96) 9 1 = 0 := by decide +kernel
  have h3 : leAt (leBytes 8 Config.serial.toNat ++ leBytes 8 7 ++ zeros 96) 10 6 = 0 := by decide +kernel
  simp only [tokenOk, h0, h1, h2, h3]
  simp [zeros]

/-- A function in service and out of it, its counts at the depth; a window entry for the last bytes of its gigabyte; DMA commands, transfers and a block in memory;
a stream fed by an ingest slot. -/
theorem test_hyps_HostFunctionsAndWindows :
    let x : Func := { mse := true, en := true, fen := true, ver := 0x0201, acen := true, appch := 7, mw := [(3, { hbase := 1, wr := true, rd := true, v := true })], bme := true }
    let s := { State.reset with funcs := [(3, x)] }
    (x.mse = true ∧ ({ x with en := false } : Func).en = false ∧ (1 : Word64).getLsbD 0 = true ∧ (3 : Word64).getLsbD 1 = true ∧
      x.ver ≠ 0x0102 ∧ s.boot.hostWait = none ∧
      (s.chan x.appch).ivec = 0 ∧ State.reset.func 3 ≠ x ∧ (State.reset.func 3).mse = false) ∧
    ((x.depth + 65536 - x.rspcc) % 65536 ≤ x.depth ∧ (x.reqpc + 65536 - x.rspcc) % 65536 ≤ (x.depth + 65536 - x.rspcc) % 65536 ∧
      x.depth < (x.depth + 1 + 65536 - x.rspcc) % 65536) ∧
    Starts (wst wm (fun _ => s)) (sWord 0xE9 0 0) 1 (fun e => e.user = false ∧ Is (mkRAW 63) tagRAW ∧
      ((wst wm (fun _ => s)).func 3).masked 0 = x.masked 0) ∧
    (({ State.reset.power with ps := 4 } : Power).trans = .settled ∧ 3 < ({ State.reset.power with ps := 4 } : Power).ps) ∧
    (let off : BitVec 36 := 0xFFFFFFFF0
     off.toNat / 2 ^ 30 = 63 ∧ (0xFFFFFFF0 : BitVec 36).toNat / 2 ^ 30 = 3 ∧
       (0xFFFFFFF0 : BitVec 36).toNat % 2 ^ 30 + 16 ≤ 2 ^ 30 ∧ 3 < 2 ^ x.mwsize ∧
      (SMap.get {} x.mw 3).v = true ∧ (SMap.get {} x.mw 63).v = false ∧
        (∀ g ∈ granulesOf (2 ^ 30 + (2 ^ 30 - 16)) 16, s.poisoned g = false)) ∧
    (let c : JCmd := { arg := 0x1000 }
     let u := ((s.setCell 0x1000 (mkRAW 0x2000)).setCell 0x1010 (mkRAW 0x3000)).setCell 0x1020 (mkRAW (3 * 2 ^ 62 + 16))
     c.tag = 0x3F ∧ c.epoch = 0 ∧ c.rsvd = 0 ∧ u.dma = none ∧ u.cell c.arg.toNat = mkRAW 0x2000 ∧
       u.cell (c.arg.toNat + 16) = mkRAW 0x3000 ∧
      u.cell (c.arg.toNat + 32) = mkRAW ((3 : BitVec 2).toNat * 2 ^ 62 + 16) ∧ 0x2000 + 16 ≤ hbmEnd ∧ (u.func 3).bme = true ∧
        u.poison = []) ∧
    (let d : Dma := ⟨mkRAW 0, false, 0x2000, 0x3000, 3, 16⟩
     let u := { s with dma := some d }
     u.dma = some d ∧ u.dmaQ = [] ∧ d.hbm % 16 = 0 ∧ d.len % 16 = 0 ∧ (List.replicate 16 (0 : Byte)).length = d.len ∧
      (∀ g ∈ granulesOf d.hbm d.len, u.poisoned g = false)) ∧
    (let y : GySlot := { state := .running, gen := 1, desc := (wdesc kTHR 0 0 2).set 1 (mkRAW (2 * 2 ^ 60 + 3 * 2 ^ 48 + 255 * 2 ^ 40)), stages := [{}], outs := [{}] }
     let u := { s with geysers := [(0, { slots := [(0, y)] })] }
     (u.fedBy 2 (3 : BitVec 2).toNat 255).length = 1 ∧ (u.gySlot 0 0).state = .running ∧ (u.ingestOf (256 * 3 + 255)).next = 0 ∧
      fmtBytes (dFmt (u.gySlot 0 0).desc) ≤ 4 ∧ 0 + 4 ≤ 0xFFFF0 ∧ (s.fedBy 2 3 255) = [] ∧
        (nthD ({ n := 0 } : StageState) (u.gySlot 0 0).stages 0).inbox.length < dFdep (u.gySlot 0 0).desc) := by
  refine ⟨by decide +kernel, by decide +kernel, starts (by decide +kernel), by decide +kernel⟩

/-- A mailbox with a well-formed request of each type, and a malformed one; a CAN frame; port commands; ticks without work, with a claim, at the lapse of a
heartbeat and of a designation, and just before. -/
theorem test_hyps_DictionaryRequestsAndOwnership :
    let st := fun (b : List Byte) => ({ State.reset with funcs := [(3, { en := true, fen := true, ver := 0x0201, reqpc := 1, req := putMap 0 [] 0 b })] } : State)
    let msg := fun (type : Nat) (p : List Byte) => leBytes 1 type ++ leBytes 1 0 ++ leBytes 2 5 ++ leBytes 2 0 ++ leBytes 2 p.length ++ zeros 8 ++ p
    let is := fun (s : State) (type : Nat) (bad : Bool) => match s.nextOhp 3 with
      | some m => m.req.mtype == type && m.bad == bad
      | none => false
    (State.reset.nextOhp 3 = none ∧ State.reset.power.ps < 4 ∧ State.reset.dict.queue = []) ∧
    (is (st (msg 0x01 [])) 0x01 false = true ∧ is (st (msg 0x02 [])) 0x02 false = true ∧ is (st (msg 0x30 [])) 0x30 false = true ∧
      is (st (msg 0x10 (leBytes 8 0x3000))) 0x10 false = true ∧
        is (st (msg 0x11 (leBytes 8 0x3000 ++ leBytes 8 4))) 0x11 false = true ∧
      is (st (msg 0x10 [])) 0x10 true = true) ∧
    (let c : DxCmd := { arg := 0x1000 }
     c.tag = 0x3F ∧ c.epoch = 0 ∧ c.rsvd = 0 ∧ c.mid = 0xFE ∧ c.arg.toNat % 16 = 0 ∧
       ((State.reset.setCell 0x1000 (mkRAW 0x300000)).cell 0x1000).tag = tagRAW ∧
      field ((State.reset.setCell 0x1000 (mkRAW 0x300000)).cell 0x1000) 63 24 = 0 ∧
        0x1000 + 16 * State.reset.blockSize 1 0x1000 ≤ hbmEnd ∧
      ({ mid := 1 } : DxCmd).mid ≠ 0 ∧ ({ mid := 1 } : DxCmd).mid ≠ 0xFE) ∧
    (State.reset.dict.owner = 0xFF ∧ State.reset.dict.keyLocal = State.reset.dict.loc ∧ State.reset.dict.desTick = none ∧
      State.reset.dict.changed = false) ∧
    (let r : DictReq := { src := .ohp 3 0, master := 4, mtype := 0x11, mtag := 5, payload := leBytes 8 0x3000 ++ leBytes 8 4 }
     let s := { st [] with dict := { State.reset.dict with queue := [r] } }
     3 < 4 ∧ (s.func 3).en = true ∧ s.dict.queue = [r] ∧ s.dict.designee = 0xFF ∧ r.master = 3 + 1 ∧ r.code = 0) ∧
    (let d := fun t : Nat => { State.reset with dict := { State.reset.dict with owner := 4, tick := t, desTick := some 5 } }
     let lapse := State.reset.entryNat 0x3003 0
     lapse ≤ (d lapse).dict.tick - (SMap.get none (d lapse).dict.lastReq 4).getD 0 ∧ (d (lapse - 1)).dict.tick < lapse ∧
       5 + 501 ≤ (d 506).dict.tick ∧
      (d 505).dict.tick < 5 + 501) := by decide +kernel

/-! ### The checks of `Instr.wellFormed`: for each, a command that it refuses and one that it accepts -/

/-- A write by a master that R409 does not have (0x05) and by one that it has. -/
def wbad : DictWrite := ⟨0x05, []⟩
def wok : DictWrite := ⟨0x04, []⟩

theorem test_wf_lengths :
    Instr.wellFormed (.ingestWrite 0 0 ⟨[], false, false⟩) = false ∧
      Instr.wellFormed (.ingestWrite 0 0xFFFFFFF ⟨[0], true, false⟩) = true ∧
    Instr.wellFormed (.ingestWrite 0 0xFFFFFFF ⟨[0, 0], false, false⟩) = false ∧
    Instr.wellFormed (.hostMemoryRead 0 ⟨.memory, 0⟩ ⟨0, [], false⟩) = false ∧
    (∀ e ∈ [(HostWindow.control, 0xFFFF), (.memory, 0xFFFFFFFFF), (.ingest, 0xFFFFFFF), (.config, 0xFFF)],
      Instr.wellFormed (.hostMemoryRead 0 ⟨e.1, e.2⟩ ⟨1, [], false⟩) = true ∧
        Instr.wellFormed (.hostMemoryRead 0 ⟨e.1, e.2⟩ ⟨2, [], false⟩) = false) ∧
    Instr.wellFormed (.hostMemoryWrite 0 0 [] .whole) = false ∧
      Instr.wellFormed (.hostMemoryWrite 0 0xFFFFFFFFF [0] .whole) = true ∧
    Instr.wellFormed (.hostMemoryWrite 0 0xFFFFFFFFF [0, 0] .whole) = false ∧
    (∀ d ∈ [([], 0), ([0, 0], 0xFFFF)], Instr.wellFormed (.deviceRegisterWrite (.host 0 d.2 ⟨d.1, false, false⟩)) = false) ∧
    Instr.wellFormed (.deviceRegisterWrite (.host 0 0xFFFF ⟨[0], false, false⟩)) = true ∧
    Instr.wellFormed (.dmaTransferComplete ⟨1, false, none, [0], []⟩) = true ∧
      Instr.wellFormed (.dmaTransferComplete ⟨0, false, none, [0], []⟩) = false := by decide

theorem test_wf_names :
    Instr.wellFormed (.recordParityScan [1, 2]) = true ∧ Instr.wellFormed (.recordParityScan [1, 1]) = false ∧
    Instr.wellFormed (.credit 0 1) = true ∧ Instr.wellFormed (.credit 0 0) = false ∧
    Instr.wellFormed (.wearLevelMove 0 1 {}) = true ∧ Instr.wellFormed (.wearLevelMove 1 1 {}) = false ∧
    Instr.wellFormed (.pmbusPoll [⟨1, true, 0, 0, 0⟩]) = true ∧
      Instr.wellFormed (.pmbusPoll [⟨1, true, 0, 0, 0⟩, ⟨1, false, 0, 0, 0⟩]) = false ∧
    Instr.wellFormed (.pmbAlert [⟨1, 0, false⟩]) = true ∧ Instr.wellFormed (.pmbAlert [⟨1, 0, false⟩, ⟨1, 1, false⟩]) = false ∧
    Instr.wellFormed (.wakeEvent (.frame 5 0 [])) = true ∧ Instr.wellFormed (.wakeEvent (.frame 6 0 [])) = false ∧
    Instr.wellFormed (.pllLock 11) = true ∧ Instr.wellFormed (.pllLock 12) = false ∧
    Instr.wellFormed (.panelScan { pads := List.replicate 16 0 }) = true ∧ Instr.wellFormed (.panelScan {}) = false ∧
    Instr.wellFormed (.sensorRead (List.replicate 16 0)) = true ∧ Instr.wellFormed (.sensorRead []) = false := by decide

theorem test_wf_starts :
    (∀ i ∈ [Instr.powerReturnRestart { selfTestFail := [72] }, .railFaultRestart { selfTestFail := [72] }, .powerOnReset { selfTestFail := [72] },
      .stateExit { selfTestFail := [72] }, .warmrst wok { selfTestFail := [72] }, .warmrst wbad {}, .clurst wbad [], .clurst wok [64]],
      Instr.wellFormed i = false) ∧
    (∀ i ∈ [Instr.powerReturnRestart { selfTestFail := [71] }, .railFaultRestart {}, .powerOnReset {}, .stateExit {}, .warmrst wok {},
      .clurst wok [63]], Instr.wellFormed i = true) := by decide

/-- Every command that is a write of a dictionary entry. -/
theorem test_wf_masters :
    (∀ f ∈ [Instr.ereset, .bzon, .retire, .vpact, .mcact, .imgHandOver, .imgCancel, .imgconf, .lock, (.vpatch · {}), (.mcpatch · {}),
      (.imgLoad · {}), (.unlock · {})], (f wbad).wellFormed = false ∧ (f wok).wellFormed = true) ∧
    (∀ m ∈ [(0x00 : BitVec 8), 0x04, 0x10, 0x9F, 0xFE], DictWrite.wellFormed ⟨m, []⟩ = true) ∧
    (∀ m ∈ [(0x05 : BitVec 8), 0x0F, 0xA0, 0xFD, 0xFF], DictWrite.wellFormed ⟨m, []⟩ = false) := by decide

/-! ### The spec's worked encodings and examples: every expected value is one that the spec prints -/

/-- The state that a command answers. -/
def after (i : Instr) (s : State) : State :=
  match exec i s with
  | .next t => t
  | _ => s

/-- 02_cells_and_tags, Worked encoding: the limit cell and its bytes, and the two FIX cells. -/
theorem test_cells_of_the_worked_encoding :
    mkQTY 0x10E0000 0 0 0 0x4048800000000000 = 0x03010E00000000004048800000000000 ∧
    cellBytes (mkQTY 0x10E0000 0 0 0 0x4048800000000000) = [0, 0, 0, 0, 0, 0x80, 0x48, 0x40, 0, 0, 0, 0, 0, 0x0E, 0x01, 0x03] ∧
    mkFIX (-1) = 0x0120000000000000FFFFFFFFFFFFFFFF ∧ mkFIX 1 = 0x01300000000000000000000000000001 ∧
    mkRAW 0x2050000001100002 = 0x3F000000000000002050000001100002 := by decide +kernel

/-- 07_capabilities_and_levels, Worked encoding: the head of the stack capability, and its bounds at the three values of
`PAYLOAD`. -/
theorem test_bounds_of_the_stack_capability :
    let c := mkCap tagCAP 1 0x00F 0 0 0 256 0x20000
    c = 0x20700F00000001000000000000020000 ∧ (c.capL = 0x20000 ∧ c.capU = 0x21000) ∧
    ((c.withPay 0x1FC00).capL = 0x20000 ∧ (c.withPay 0x1FC00).capU = 0x21000) ∧
    ((c.withPay 0x1FBF0).capL = 0x1E000 ∧ (c.withPay 0x1FBF0).capU = 0x1F000) := by decide +kernel

/-- The stack capability of R101 in S at user level, with the cell at the bottom of the stack `FIX` 7. -/
def wstack : State :=
  wst { wu with s := mkCap tagCAP 0 0x00F 0 0 0 256 0x20000, a := mkFIX 9 } (fun s => ((s.setCell 0x10000 (mkFIX 7)).modCore 0 (fun k =>
    { k with den := true, ocDefined := true, oc := [⟨128, 15, 0, false⟩, ⟨129, 15, 0, false⟩], tlb := [(20, some
      { sz := 0, g := true, vpn := 8, asid := 0, pfn := 4, dev := false, wt := false, u := true, x := true, w := true, r := true })] })))

/-- 05_programming_model, the example of R101: a pop, a push, and a second push that raises CAP_BOUNDS and changes nothing. -/
theorem test_pop_and_push_of_the_example :
    let pop := after (.lda wi { oReg 2 with mode := 7 }) wstack
    let push := after (.sta wi { oReg 2 with mode := 8 }) { wstack with cores := pop.cores }
    let again := after (.sta wi { oReg 2 with mode := 8 }) wstack
    (pop.regs wq).a = mkFIX 7 ∧ (pop.regs wq).s.pay = 0x20010 ∧
    (push.regs wq).s.pay = 0x20000 ∧
    (again.regs wq).s.pay = 0x20000 ∧ again.cell 0x10000 = mkFIX 7 ∧ field (again.regs wq).mca 7 0 = 0x08 := by decide +kernel

/-- 03_generic_arithmetic, Worked example: the non-promoting ADD of FIX 0x20 to 2^63 − 16 raises FIX_OVERFLOW and leaves A. -/
theorem test_addn_of_the_counter :
    let t := after (.addn wi (oImm 0x20)) (wst { wm with a := mkFIX (2 ^ 63 - 16) })
    field (t.regs wq).mca 7 0 = 0x06 ∧ (t.regs wq).a = mkFIX (2 ^ 63 - 16) := by decide +kernel

/-- 08_traps_and_resumption, the interrupt of the example: vector 0x93, level 9, is taken at `ML` 0 and held at `ML` 9. -/
theorem test_interrupt_of_the_example :
    let take := fun ml : Nat => (after (.asyncCauseTaken wi) ((wst { wu with st := BitVec.ofNat 64 (ml * 2 ^ 52) }).modAux 5 (fun a =>
      { a with vectors := [0x93] }))).regs wq
    (take 0).mca.pay = 0x9320 ∧ mlOf (take 0).st = 15 ∧ (take 8).mca.pay = 0x9320 ∧ (take 9).mca = rawZero ∧
      mlOf (take 9).st = 9 := by decide +kernel

/-- 04_quantities, Worked calibration: the three steps, with the operand in memory; `DIM`, `UNC`, `ABS` and `HINT` of each result.
-/
theorem test_calibration_steps :
    let i := mkQTY 0x0001000 0x9819 0 0x21 0x3F89652BD3C36113
    let i0 := mkQTY 0x0001000 0 0 0x21 0x3F70624DD2F1A9FC
    let sp := mkQTY 0x000F100 0x9C19 0 0 0x40C86A0000000000
    let t0 := mkQTY 0x0000100 0 1 0x08 0x406BE4CCCCCCCCCD
    let r1 := ((after (.sub wi oF) (wop { wm with a := i } i0)).regs wq).a
    let r2 := ((after (.mul wi oF) (wop { wm with a := r1 } sp)).regs wq).a
    let r3 := ((after (.add wi oF) (wop { wm with a := t0 } r2)).regs wq).a
    let shows := fun (c : Cell) => (c.tag, c.qDim, c.qUnc, c.qAbs, c.qHint)
    shows r1 = (tagQTY, 0x0001000, 0x9A0D, 0, 0x21) ∧ shows r2 = (tagQTY, 0x0000100, 0x9D18, 0, 0x00) ∧
    shows r3 = (tagQTY, 0x0000100, 0x9685, 1, 0x08) := by decide +kernel

/-- 05_programming_model, Worked encoding: the words of the loop. -/
theorem test_words_of_the_loop :
    mWord 0x01 { mode := 1, base := 0, disp := 2 } = 0x01100002 ∧
      mWord 0x20 { mode := 5, base := 0, disp := 0, ext := 100000 } = 0x20500000 ∧
    mWord 0x02 { mode := 1, base := 0, disp := 3 } = 0x02100003 ∧
    ((after (.br wi 0xFFFFFD) (wst { wm with pc := 0x4000000020 })).regs wq).pc = 0x4000000004 := by decide +kernel

/-- 14_sample_links_and_time, the examples of SL2 and SL5: the TRAIN of front end A, stamped 2,680 ns after the device's, with `HOLD` 2,400, gives
`DELAY` 140; that of front end B, which offers version 1, brings the link UP at version 1 with `DELAY` 0 and event 0x01. -/
theorem test_training_of_SL2_and_SL5 :
    let b := leBytes 8 8 ++ zeros 12 ++ [1, 1, 1, 64]
    let t := after (.trainReceived 5 { bytes := b, crc := crc32 b }) { State.reset with
      links := [(5, { en := true, state := .train, sentAck := true, gotTrain := true })] }
    linkDelay 1000000000 2400 1000002680 = 140 ∧ (t.link 5).ver = 1 ∧ (t.link 5).delay = 0 ∧ (t.link 5).state = .up ∧
    (t.link 5).events.map (·.rtag) = [0x105] := by decide +kernel

/-- 16_host_interface, the example of function 0: at 1.2 a second doorbell before the first response is refused. -/
theorem test_doorbell_of_the_example :
    let x : Func := { mse := true, en := true, fen := true, ver := 0x0102 }
    let t := after (.dbreq 0 2) { State.reset with funcs := [(0, { x with reqpc := 1 })] }
    (t.func 0).reqpc = 1 ∧ (t.func 0).merr = true ∧
      ((after (.dbreq 0 1) { State.reset with funcs := [(0, x)] }).func 0).reqpc = 1 := by decide +kernel

/-! ### Further witnesses: vent cores, and clauses whose hypotheses need a state of their own -/

/-- VC3 executes with the registers `r`. -/
def wiv : Issue := { core := 3, slot := 0, vent := true }
def wv (r : Regs) : State :=
  (State.reset.setCore 67 { slots := [(0, { ctx := some (ventCtx 3), regs := r })] }).setRecField (ventCtx 3) 24 83 81 2

/-- An instruction issues anew on VC3, and `P` holds of its environment. -/
def StartsV (r : Regs) (word : Word32) (P : Env → Prop) : Prop :=
  ∃ e, Issues (wv r) wiv (ventCtx 3) word 1 e ∧ Fresh (wv r) e ∧ P e

theorem startsV {r : Regs} {ws : List Word32} {P : Env → Prop} [DecidablePred P]
    (h : (let s := wv r
      let q := Cx.vent 3
      decide ((s.slot q).ctx = some (ventCtx 3)) && s.issuable q (ventCtx 3) && decide ((s.slot q).mid = Mid.none) &&
        decide (s.asyncDue (ventCtx 3) (s.regs q).st = none) && decide (bit (s.regs q).st stRESUME = false) &&
        ws.all (fun w => decide (s.bkFetch (s.envAt q (ventCtx 3) w 1) = none) && decide (P (s.envAt q (ventCtx 3) w 1)))) = true) :
    ∀ w ∈ ws, StartsV r w P := by
  intro w hw
  simp only [Bool.and_eq_true, decide_eq_true_eq, List.all_eq_true] at h
  obtain ⟨h1, h2⟩ := h
  exact ⟨_, ⟨⟨h1.1.1.1.1, h1.1.1.1.2, h1.1.1.2, h1.1.2, rfl⟩, rfl, (h2 w hw).1⟩, h1.2, (h2 w hw).2⟩

/-- The bit-field group and the undefined opcode 0x77 on a vent core, at `ML` 15; its TLBW, DINVALL and IINV. -/
theorem test_hyps_ventCores :
    let r : Regs := { wm with st := 0x80F0000000000000, a := mkFIX 95, x := 0x8000000000000000, y := 0x400F }
    ∀ w ∈ [mWord 0x70 (oReg 6), mWord 0x71 (oReg 6), mWord 0x72 (oReg 6), mWord 0x73 (oReg 6), mWord 0x74 (oReg 6), mWord 0x75 (oReg 6),
      mWord 0x76 (oReg 6), 0x77000000, sWord 0xE7 0 0, sWord 0xD5 0 0, sWord 0xD6 0 0], StartsV r w (fun e =>
      wiv.vent = true ∧ e.user = false ∧ e.q.isVent = true ∧ bit ((wv r).regs e.q).st 62 = false ∧ opcodeDefined 0x77 = false ∧
      causeLevel 0x10 1 ≤ field ((wv r).regs e.q).st 55 52 ∧ ((wv r).regs e.q).a = mkFIX 95 ∧ ((wv r).slot e.q).stale = false) :=
  startsV (by decide +kernel)

/-- IPOW: a FIX with room for its work object; FLO bases with exponents 0, 3 and −3. -/
theorem test_hyps_PowersOfExactAndFloat :
    let two := mkFLO 0x4000000000000000
    MeetsT (wst { wm with a := mkFIX 3, h := 0x110, hl := 0x120 } wmem) 0x29 (oImm 5) 2 (fun e t c => Is c tagFIX ∧
      Is (t.regs e.q).a tagFIX ∧
      (t.regs e.q).a.int ≠ 0 ∧ (t.regs e.q).h.toNat + 16 ≤ (t.regs e.q).hl.toNat ∧
      (match allocObject e 1 (mkHDR tagSTR 1 0) t with
       | .ok (a, _) => decide (a = (t.regs e.q).h.toNat)
       | .error _ => false) = true ∧
      (bitLen (t.regs e.q).a.int.natAbs - 1) * c.int.natAbs < bigBits) ∧
    (∀ d ∈ [((0 : BitVec 16), (0 : Int)), (3, 3), (0xFFFD, -3)], Meets (wst { wm with a := two }) 0x29 (oImm d.1) 2 (fun _ r c => Is c tagFIX ∧ Is r.a tagFLO ∧
      c.int = d.2 ∧ r.a.pay % 2 ^ 63 ≠ 0 ∧ r.a.pay % 2 ^ 63 ≠ 0x3FF0000000000000 ∧ bit r.st 13 = false)) :=
  ⟨meetsT (by decide +kernel), by
    intro d h
    fin_cases h <;> exact meets (by decide +kernel)⟩

/-- QSETUA with an operand of A's `DIM` over a `PAYLOAD` that is not zero; TYPEP with a RAW, and with an operand that is no
number. -/
theorem test_hyps_qsetua_typep :
    MeetsT (wop { wm with a := mkQTY 0x1000000 0 0 5 0x3FF0000000000000 } (mkQTY 0x1000000 0 0 0 0x3FF0000000000000)) 0x46 oF 2 (fun e t c =>
      Is (t.regs e.q).a tagQTY ∧ Is c tagQTY ∧ (t.regs e.q).a.qDim = c.qDim ∧ c.qAbs = 0 ∧ (t.regs e.q).a.pay % 2 ^ 63 ≠ 0) ∧
    Meets (wst { wm with a := mkRAW 255 }) 0x58 (oReg 6) 2 (fun _ _ c => c.tag = tagRAW ∧ c.pay ≤ 255) ∧
    Meets (wst { wm with a := constNil }) 0x58 (oReg 6) 2 (fun _ _ c => c.tag ≠ tagFIX ∧ c.tag ≠ tagRAW) :=
  ⟨meetsT (by decide +kernel), meets (by decide +kernel), meets (by decide +kernel)⟩

/-- The oscillator in step with the crystal, whichever drives the counter. -/
theorem test_hyps_TimeChargesAndWakes_steady :
    State.reset.time.Steady ∧ ({ crystal := true, osc := 244, oscAcc := 7999999 } : TimeUnit).Steady := by
  refine ⟨fun h => absurd h (by decide), fun _ => by decide⟩

/-- A cluster with a context between boundaries; a reset target at none, at one, and not resident; an owner while the dictionary
is served; vent cores that run. -/
theorem test_hyps_ResetsAndFailures_more :
    let w : DictWrite := { master := 4, data := leBytes 8 0 }
    let s := (wst wm (fun s => { s with dict := { s.dict with owner := 4 }, power := { s.power with domains := 2 ^ 111 - 1 } })).modSlot ⟨7, 3⟩
      (fun v => { v with ctx := some 6, mid := .rep { pfx := 0xF0000046, word := mwordOf 0x15 oFX, count := 70, done := 3, key := none } })
    let u := s.setRec 6 24 (mkCell tagRAW 0 (2 * 2 ^ 17 + 2 ^ 16 + 7 * 2 ^ 10 + 3 * 2 ^ 8) 0)
    s.dictServed = true ∧ w.master ≠ 0xFE ∧ w.master.toNat = s.dict.owner ∧ w.data = leBytes 8 0 ∧ s.boot.resets = [] ∧
    (⟨0, 0⟩ ∈ s.placesOf 0 ∧ s.atBoundary ⟨0, 0⟩ = true) ∧ (⟨7, 3⟩ ∈ s.placesOf 0 ∧ s.atBoundary ⟨7, 3⟩ = false) ∧
    (∀ q ∈ s.placesOf 7, s.atBoundary q = true) ∧
    Starts u (sWord 0xE9 0 0) 1 (fun e => e.user = false ∧ (mkRAW 6).pay ≠ 5 ∧ u.ctxRes 6 = true ∧
      u.atBoundary (u.ctxAt 6) = false ∧
      u.ctxRes 7 = false) ∧
    (let v := (wv wm).setDomain 110 true
     (v.slot (Cx.vent (3 : BitVec 2).toNat)).ctx ≠ none ∧ v.domainOn 110 = true ∧ v.dep.ventTodo.head? ≠ some 3 ∧
       (3 : BitVec 2).toNat ∉ v.dep.ventRetired ∧
      State.reset.domainOn 110 = false ∧ (State.reset.slot (Cx.vent (1 : BitVec 2).toNat)).ctx = none) := by
  repeat' refine And.intro ?_ ?_
  all_goals first | exact starts (by decide +kernel) | decide +kernel

/-- A patch under way, with a core at a boundary of each slot and one that is not; a token while the dictionary is served. -/
theorem test_hyps_PatchesAndDebug_more :
    let s := { (wst wm).modSlot ⟨63, 3⟩ (fun v => { v with ctx := some 6, mid := .rep { pfx := 0xF0000046, word := mwordOf 0x15 oFX, count := 70, done := 3, key := none } })
      with dep := { State.reset.dep with mcstate := 4, mcTodo := [0, 63] }, power := { State.reset.power with domains := 2 ^ 112 - 1 } }
    s.dictServed = true ∧ s.dep.mcstate = 4 ∧ (0 : BitVec 6).toNat ∈ s.dep.mcTodo ∧ (∀ k, k < 4 →
      s.atBoundary ⟨(0 : BitVec 6).toNat, k⟩ = true) ∧
    s.atBoundary ⟨(63 : BitVec 6).toNat, 3⟩ = false ∧ State.reset.dictServed = false ∧
    (let w : DictWrite := { master := 4, data := leBytes 2 ([] : List Byte).length ++ [] }
     w.master ≠ 0xFE ∧ w.data = leBytes 2 ([] : List Byte).length ++ [] ∧ s.dbg.fails < 16 ∧ tokenOk [] = false) ∧
    (let w : DictWrite := { master := 4, data := leBytes 8 1 }
     w.master ≠ 0xFE ∧ w.data = leBytes 8 1) := by decide +kernel

/-- A function whose vectors go out, one that masks them and one without bus mastering; a granule of the memory window that is poisoned; a poisoned ingest
write; a doorbell without MSE. -/
theorem test_hyps_HostFunctionsAndWindows_more :
    let x : Func := { mse := true, en := true, fen := true, ver := 0x0201, bme := true, cfg := { msixEn := true }
                      msix := [(44, 0), (124, 0)], mw := [(0, { hbase := 0, wr := true, rd := true, v := true })] }
    let s := { (wst wm) with funcs := [(3, x)], poison := [(5, true)] }
    Starts s (sWord 0xE9 0 0) 1 (fun e => e.user = false ∧ Is (mkRAW (7 * 2 ^ 32 + 63)) tagRAW ∧
      (mkRAW (7 * 2 ^ 32 + 63)).pay / 2 ^ 32 % 2 ^ 11 = 7 ∧
      x.hirq.getLsbD ((mkRAW (7 * 2 ^ 32 + 63)).pay % 64) = false ∧ (s.func 3).en = true) ∧
    (x.bme = true ∧ x.cfg.msixEn = true ∧ x.cfg.msixMask = false ∧ x.masked 7 = false ∧ x.masked 2 = false ∧ (7 : Nat) ≠ 2 ∧
      ({ x with msix := [] } : Func).masked 7 = true ∧ ({ x with hirq := 2 ^ 63 } : Func).hirq.getLsbD 63 = true ∧
        ({ x with bme := false } : Func).bme = false) ∧
    ((5 : Nat) ∈ granulesOf 640 1 ∧ s.poisoned 5 = true ∧ (640 : BitVec 36).toNat / 2 ^ 30 < 2 ^ x.mwsize ∧
      (SMap.get {} x.mw 0).v = true) ∧
    ((⟨[0], true, false⟩ : WireData).poisoned = true ∧ (State.reset.func 3).mse = false) := by
  refine ⟨starts (by decide +kernel), by decide +kernel⟩

/-- A frame that a listening port accepts, while the dictionary is served, while it is not, and in PS4 with three and four kept; a
command of the port. -/
theorem test_hyps_DictionaryMessagesArrive_frames :
    let m := leBytes 1 1 ++ leBytes 1 0x10 ++ leBytes 2 5 ++ leBytes 2 8 ++ leBytes 1 0x90 ++ leBytes 1 0xFE ++ zeros 4 ++ leBytes 8 0x3000
    let on := fun (ps domains : Nat) (held : List (Nat × Nat × List Byte)) => { ((State.reset.setDict 0x1200 0 1 1).setDict 0x2020 4 1 1).setDict 0x3210 0 1 1 with
      power := { State.reset.power with ps := ps, domains := domains, held := held } }
    let w := Via.can 0 (0x1A * 2 ^ 24 + 2 * 2 ^ 22 + 0x90 * 256 + 0xFE) m
    let full := 2 ^ 112 - 1
    (∀ g, w ≠ .ohp g) ∧
    (∀ s ∈ [on 0 full [], on 0 (2 ^ 102) [], on 4 full (List.replicate 3 (4, 0, m)), on 4 full (List.replicate 4 (4, 0, m))],
      s.frameOk w = some (4, 0, m) ∧ (s.frameMsg 4 0 m).req.mtype = 0x10) ∧
    ((on 0 full []).dictServed = true ∧ ((on 0 full []).frameMsg 4 0 m).bad = false ∧ (on 0 full []).dict.queue = [] ∧
      (on 0 (2 ^ 102) []).dictServed = false ∧
      4 ≤ (on 4 full []).power.ps) ∧
    (((on 4 full (List.replicate 3 (4, 0, m))).power.held.filter (fun h => h.1 == 4)).length = 3) := by
  refine ⟨fun g => by simp, by decide +kernel⟩

/-! ### Long instructions, faults inside a fault, quantity signs and roots -/

/-- A context fault: `ST.ESC` is 1, and nothing subscribes to the system channels. -/
theorem test_hyps_FaultsInsideAFault :
    let r : Regs := { wu with st := 0x4000000000000000 }
    Starts (wst r) (mWord 0x10 oNone) 1 (fun e => bit ((wst r).regs e.q).st 62 = true ∧ cPRIV ≠ cMCALL ∧ e.q.isVent = false ∧
      ((wst r).chan 0xFFF1).sv = false ∧ ((wst r).chan 0xFFF2).sv = false) := starts (by decide +kernel)

/-- FIX operands whose sum, difference, product, quotient and shift no FIX holds, with room for the work object. -/
theorem test_hyps_LargeResults :
    let big : Int := 2 ^ 63 - 1
    let room := fun (e : Env) (t : State) => match allocObject e 5 (mkHDR tagSTR 5 0) t with
      | .ok (a, _) => decide (a = (t.regs e.q).h.toNat)
      | .error _ => false
    let st := fun a : Int => wst { wm with a := mkFIX a, h := 0x110, hl := 0x160 } wmem
    (∀ v ∈ [((0x20 : BitVec 8), big, (1 : BitVec 16)), (0x21, -2 ^ 63, 1), (0x22, big, 2), (0x23, 1, 2), (0x24, -2 ^ 63, 0xFFFF), (0x28, big, 5)],
      MeetsT (st v.2.1) v.1 (oImm v.2.2) 2 (fun e t c => Is (t.regs e.q).a tagFIX ∧ Is c tagFIX ∧ (t.regs e.q).a.int = v.2.1 ∧
        c.int = v.2.2.toInt ∧ room e t = true)) ∧
    (fitsFix (big + 1) = false ∧ fitsFix (-2 ^ 63 - 1) = false ∧ fitsFix (big * 2) = false ∧
      fitsFix (Int.tdiv (-2 ^ 63) (-1)) = false ∧
      fitsFix (big * 2 ^ 5) = false ∧ (5 : Nat) < 64 * 4294967000) ∧
    ∀ z : Int, (1 : Int) = z * 2 → fitsFix z = false :=
  ⟨by
    intro v h
    fin_cases h <;> exact meetsT (by decide +kernel), by decide, fun z h => absurd h (by omega)⟩

/-- The last step of an ADD of 2^63 − 1 and 1, with room for a BIG of one limb at 0x110, and of a DIV of 1 by 2, with room for a
RATIO. -/
theorem test_hyps_ExactResults :
    let l := fun (op : BitVec 8) (x y : Int) (step : Nat) =>
      ({ word := mwordOf op oNone, step := step, work := 0x180, routine := .micro (mkFIX x) (mkFIX y) 0 [] } : LongOp)
    ∀ v ∈ [l 0x20 (2 ^ 63 - 1) 1 1, l 0x23 1 2 1, l 0x23 1 2 2],
      let s := wmid (wst { wm with h := 0x110, hl := 0x200 } wmem) (.long v)
      let e := s.midEnv wq 5 v.word false
      ((s.slot wq).ctx = some 5 ∧ s.issuable wq 5 = true ∧ (s.slot wq).mid = .long v ∧ s.asyncDue 5 (s.slot wq).regs.st = none ∧
        wi.parity = .none ∧ s.heap.en = false ∧ (s.regs wq).h.toNat = 0x110 ∧ 0x110 + 16 * 3 ≤ (s.regs wq).hl.toNat) ∧
      ((2 ^ 63 : Int) = (mkFIX (2 ^ 63 - 1)).int + (mkFIX 1).int ∧ fitsFix (2 ^ 63) = false ∧ (2 ^ 63 : Int).natAbs < 2 ^ (64 * 1) ∧
        2 ^ (64 * (1 - 1)) ≤ (2 ^ 63 : Int).natAbs) ∧
      ((mkFIX 1).int * 2 = 1 * (mkFIX 2).int ∧ Int.gcd 1 2 = 1) ∧
      ∀ j ∈ List.range 3, (0x110 + 16 * j) % 512 ≠ 0 ∧ plainB s e (0x110 + 16 * j) (0x10110 + 16 * j) = true ∧
        s.dirAt ((0x10110 + 16 * j) / 128) = some ⟨(0x10110 + 16 * j) / 128, some (e.q.core / 8), 0⟩ := by decide +kernel

/-- QUOT of a BIG of nine limbs by 3: the steps that read eight limbs and the ninth, one that only counts, and the last. -/
theorem test_hyps_OperandsAreReadInSteps :
    let x := mkCell tagBIG 0 0 0x100
    let y := mkFIX 3
    let read := fun k : Nat => (0x100, mkHDR tagBIG 10 9) :: (List.range k).map (fun i => (0x110 + 16 * i, mkRAW (i + 1)))
    let l := fun (step k : Nat) => ({ word := mwordOf 0x24 oNone, step := step, work := 0x300, routine := .micro x y 0 (read k) } : LongOp)
    let st := fun v : LongOp => wmid (wst { wm with h := 0x210, hl := 0x300 }
      (wmem (fun s => (List.range 9).foldl (fun t i => t.setCell (0x10110 + 16 * i) (mkRAW (i + 1))) s))) (.long v)
    let now := fun step k : Nat => ((limbList (read k) x ++ limbList (read k) y).drop (8 * (step - 1))).take 8
    (∀ v ∈ [(1, 0), (2, 8), (3, 9), (4, 9)], let s := st (l v.1 v.2)
      (s.slot wq).ctx = some 5 ∧ s.issuable wq 5 = true ∧ (s.slot wq).mid = .long (l v.1 v.2) ∧
        s.asyncDue 5 (s.slot wq).regs.st = none ∧
        s.heap.en = false ∧ (genOp (l v.1 v.2).word.op).isSome = true ∧ ((genOp 0x24).map (·.two)) = some true) ∧
    (∀ v ∈ [(1, 0), (2, 8)], let s := st (l v.1 v.2)
      now v.1 v.2 ≠ [] ∧ ∀ w ∈ now v.1 v.2, (read v.2).all (fun g => g.1 != w.1.pay + 16 * (w.2 + 1)) = true ∧
        plainB s (s.midEnv wq 5 (l v.1 v.2).word false) (((l v.1 v.2).refNow w.1).pay + 16 * (w.2 + 1)) (0x10100 + 16 * (w.2 + 1)) = true ∧
        Is (s.cell (0x10100 + 16 * (w.2 + 1))) tagRAW) ∧
    (∀ v ∈ [(3, true), (4, false)], let s := st (l v.1 9)
      now v.1 9 = [] ∧ (match genOp 0x24 with
        | none => false
        | some g =>
          let r := (g.eval (s.regs wq).st (argOf (read 9) x) (argOf (read 9) y)).res
          let cycles := microBound 0x24 false (limbsIn (read 9) x) (limbsIn (read 9) y) r
          !r.stops && decide (64 * (v.1 - ((limbList (read 9) x).length + 7) / 8) < cycles) == v.2 &&
            (match evalGen (s.midEnv wq 5 (l v.1 9).word false) g true (argOf (read 9) x) (argOf (read 9) y) 0 (s.release wq) with
             | .ok _ => true
             | .error _ => false)) = true) := by decide +kernel

/-- SALLOC under way with eight and with nine body cells to write. -/
theorem test_hyps_StringsAreClearedInSteps :
    ∀ bytes ∈ [64, 72],
      let v : LongOp := { word := mwordOf 0x93 oNone, step := 1, work := 0, routine := .salloc 0x100 bytes 0 }
      let s := wmid (wst wm wmem) (.long v)
      let e := s.midEnv wq 5 v.word false
      ((s.slot wq).ctx = some 5 ∧ s.issuable wq 5 = true ∧ (s.slot wq).mid = .long v ∧ s.asyncDue 5 (s.slot wq).regs.st = none ∧
        s.heap.en = false ∧ 0 < (bytes + 7) / 8 - 0) ∧
      ∀ j ∈ List.range 8, (0x100 + 16 + 16 * j) % 512 ≠ 0 ∧ plainB s e (0x110 + 16 * j) (0x10110 + 16 * j) = true ∧
        s.dirAt ((0x10110 + 16 * j) / 128) = some ⟨(0x10110 + 16 * j) / 128, some (e.q.core / 8), 0⟩ := by decide +kernel

/-- A VCOPY of two elements between vectors of three; a step of it, ascending and descending, and its last. -/
theorem test_hyps_VectorCopies :
    (let hdr := mkHDR tagVEC 4 3
     let s := wst { wm with f := wcap wall 0 0x1000 0x180, a := mkCell tagVEC 0 0 0x100, x := 1, y := 0, k := 2 }
       (wmem (fun s => ((s.setCell 0x10100 hdr).setCell 0x10140 hdr).setCell 0x10180 (mkCell tagVEC 0 0 0x140)))
     MeetsT s 0x95 oF 2 (fun e t c => e.user = false ∧ Is c tagVEC ∧ Is (t.regs e.q).a tagVEC ∧ plainB t e c.pay 0x10140 = true ∧
       plainB t e (t.regs e.q).a.pay 0x10100 = true ∧ Is (t.cell 0x10140) tagHDR ∧ Is (t.cell 0x10100) tagHDR ∧
         (t.cell 0x10140).hdrKind = tagVEC ∧
       (t.cell 0x10100).hdrKind = tagVEC ∧ (t.regs e.q).k = 2 ∧ (t.regs e.q).x.toInt = 1 ∧ (t.regs e.q).y.toInt = 0 ∧
       (t.cell 0x10140).pay = 3 ∧ (t.cell 0x10100).pay = 3)) ∧
    (∀ v ∈ [((0x100 : Nat), (0 : Int), (1 : Int), 0), (0x140, 1, 0, 0), (0x140, 1, 0, 1)],
      let src := mkCell tagVEC 0 0 0x100
      let dst := mkCell tagVEC 0 0 v.1
      let l : LongOp := { word := mwordOf 0x95 oNone, step := 1, work := 0, routine := .vcopy dst src v.2.1 v.2.2.1 2 v.2.2.2 }
      let s := wmid (wst wm wmem) (.long l)
      let e := s.midEnv wq 5 l.word false
      let j := if src.pay = dst.pay ∧ v.2.1 < v.2.2.1 then 2 - 1 - v.2.2.2 else v.2.2.2
      let ps := (l.refNow src).pay + 16 * (1 + v.2.1.toNat + j)
      let pd := (l.refNow dst).pay + 16 * (1 + v.2.2.1.toNat + j)
      (s.slot wq).ctx = some 5 ∧ s.issuable wq 5 = true ∧ (s.slot wq).mid = .long l ∧ s.asyncDue 5 (s.slot wq).regs.st = none ∧
        e.user = false ∧
        v.2.2.2 < 2 ∧ plainB s e ps (0x10000 + ps) = true ∧ plainB s e pd (0x10000 + pd) = true) :=
  ⟨meetsT (by decide +kernel), by decide +kernel⟩

/-- NEG, ABS and SQRT of a difference and of a point, with `AFFOK` and without, and of odd and even exponents. -/
theorem test_hyps_QuantitySignsAndRoots :
    let four := 0x4010000000000000
    let q := fun (dim abs : Nat) => mkQTY dim 0 abs 5 four
    (∀ v ∈ [(0, (0x8000000000000000 : Word64)), (1, 0x8000000000000000), (1, 0x8000000000001000)], ∀ op ∈ [(0x26 : BitVec 8), 0x27, 0x2A],
      Meets (wop { wm with st := v.2 } (q 0x2000000 v.1)) op oF 1 (fun _ r c => Is c tagQTY ∧ c.qAbs = v.1 ∧
        bit r.st 12 = bit v.2 12 ∧
        ∀ k, k < 7 → dimDigit c.qDim k % 2 = 0)) ∧
    Meets (wop wm (q 0x1000000 0)) 0x2A oF 1 (fun _ _ c => Is c tagQTY ∧ ¬ ∀ k, k < 7 → dimDigit c.qDim k % 2 = 0) :=
  ⟨by
    intro v hv op ho
    fin_cases hv <;> fin_cases ho <;> exact meets (by decide +kernel), meets (by decide +kernel)⟩

/-! ### The heap's engines: the set, the marking and the healing -/

/-- An entry of the block table. -/
def went (kind rel chunk live frame : Nat) : Cell :=
  mkCell tagRAW 0 (kind * 2 ^ 48 + rel * 2 ^ 47 + chunk * 2 ^ 26 + live * 2 ^ 6) (frame * 2 ^ 21)

/-- A heap in the window at 2^36, its block table at 0x800000 without an entry. -/
def wheap0 (h : Heap) : State := { State.reset with heap := { h with en := true, btaddr := 16, vbase := 1, good := 1 } }

/-- The same with the entries `l`; every other is absent. -/
def wheap (h : Heap) (l : List (Nat × Cell)) : State := l.foldr (fun w t => t.setCell (0x800000 + 16 * w.1) w.2) (wheap0 h)

theorem cell_wheap0 (h : Heap) (pa : Nat) : (wheap0 h).cell pa = 0 := by
  have hr : ∀ a, readByte [] a = 0 := fun _ => rfl
  show BitVec.ofNat 128 (leValue (readBytes [] 16 pa)) = 0
  simp only [readBytes, hr]
  decide

theorem cell_wheap (h : Heap) (l : List (Nat × Cell)) (b : Nat) :
    (wheap h l).cell (0x800000 + 16 * b) = match l.find? (fun w => w.1 == b) with
      | some w => normalize w.2
      | none => 0 := by
  induction l with
  | nil => exact cell_wheap0 h _
  | cons w l ih =>
    show ((wheap h l).setCell (0x800000 + 16 * w.1) w.2).cell (0x800000 + 16 * b) = _
    by_cases hw : w.1 = b
    · rw [List.find?_cons_of_pos (by simpa using hw), hw, State.cell_setCell_self]
    · rw [List.find?_cons_of_neg (by simpa using hw), State.cell_setCell_apart _ _ (by omega), ih]

theorem heap_wheap (h : Heap) (l : List (Nat × Cell)) : (wheap h l).heap.btaddr = 16 := by
  induction l with
  | nil => rfl
  | cons w l ih =>
    show ((wheap h l).setCell (0x800000 + 16 * w.1) w.2).heap.btaddr = 16
    rw [State.setCell_heap, ih]

/-- The table lies in no block's frame. -/
theorem tableApart_wheap (h : Heap) (l : List (Nat × Cell))
    (hl : ∀ w ∈ l, ePframe (normalize w.2) = 0 ∨ 16 ≤ ePframe (normalize w.2)) : TableApart (wheap h l) := by
  intro b k hb hk
  have he : ePframe ((wheap h l).entry b) = 0 ∨ 16 ≤ ePframe ((wheap h l).entry b) := by
    have hc : (wheap h l).entry b = (wheap h l).cell (0x800000 + 16 * b) := by
      have h16 : 16 * 2 ^ 19 = 0x800000 := by norm_num
      simp only [State.entry, State.entryPa, heap_wheap, h16]
    rw [hc, cell_wheap]
    split
    · rename_i w hw; exact hl w (List.mem_of_find?_eq_some hw)
    · exact Or.inl (by decide)
  rw [State.entryPa, heap_wheap]
  omega

/-- A set of one silt block, with room for it in five free ones; one that stays for its live cells, with an object that is not
marked. -/
theorem test_hyps_SelectChoosesTheSet :
    let o := 2 ^ 36 + 2 ^ 21
    let free := (List.range 5).map (fun i => (2 + i, went kFREE 0 0 0 0))
    let l := (1, went kSILT 0 32 4 16) :: free
    let s := wheap { phase := .select, starts := [(o, 2)], consMark := [(o, 1)], resv := 8 } l
    let u := wheap { phase := .select, starts := [(o, 2)] } [(1, went kSILT 0 32 114688 16)]
    let ok := fun s : State => s.heap.en = true ∧ s.heap.phase = .select ∧ s.heap.selected = false ∧ s.heap.pass = none ∧
      s.heap.major = false ∧
      (∀ b ∈ s.blocksOf kSILT, 32 ≤ eChunk (s.entry b)) ∧ (s.blocksOf kSILT).filter (fun b => !eNew (s.entry b)) = [1]
    (TableApart s ∧ TableApart u) ∧ ok s ∧ ok u ∧
    ((∀ x ∈ s.heap.starts, x.1 % 16 = 0 ∧ s.marked x.1 = true ∧ s.durable x.1 = false) ∧ s.fixedInPlace 1 = false ∧
      eLive (s.entry 1) = 4 ∧
      4 + 64 * 8192 ≤ min (s.hcnt kFREE) s.heap.resv * 131072) ∧
    (u.blocks = [1] ∧ 114688 ≤ eLive (u.entry 1) ∧ u.blockVa 1 ≤ o ∧ o < u.blockVa 1 + 2 ^ 21 ∧ o % 16 = 0 ∧ u.marked o = false ∧
      u.durable o = false ∧
      u.heldAt o = false ∧ u.sizeAt o ≠ 0) :=
  ⟨⟨tableApart_wheap _ _ (by decide +kernel), tableApart_wheap _ _ (by decide +kernel)⟩, by decide +kernel, by decide +kernel, by decide +kernel,
    by decide +kernel⟩

/-- An object with one pointer to an object that is not marked; a record with a pointer that lies outside the window; a card
without pointers. -/
theorem test_hyps_TracingMarks :
    let o := 2 ^ 36 + 2 ^ 21
    let v := mkCell tagVEC 2 0 (o + 64)
    let s := ((wheap { phase := .mark, queue := [(o, false)], cards := [(o / 512 + 1, true)] } [(1, went kSILT 0 32 0 16)]).setCell 0x2000000
      (mkHDR 0x11 2 1)).setCell 0x2000010 v
    let u := (wheap { phase := .mark, toScan := [7] } []).setRec 7 0 (mkCell tagVEC 0 0 0x100)
    (s.heap.en = true ∧ s.heap.phase = .mark ∧ s.heap.pass = none ∧ 1 ≤ s.heap.good ∧ s.heap.good ≤ 3 ∧
      s.pointerCells o = (o + 16, 1)) ∧
    (s.heapCell (o + 16) = normalize v ∧ v.pay = o + 64 ∧ (normalize v).isRef = true ∧ s.inWindow (o + 64) = true ∧
      s.inScope 1 = true ∧
      blockOf (o + 64) = 1) ∧
    (eRel (s.entry 1) = false ∧ (s.learn v).marked (o + 64) = false ∧ s.poisoned (0x2000010 / 128) = false) ∧
    (s.heapPa (o + 16) = 0x2000010 ∧ s.heapPa (o + 64) = 0x2000040 ∧ s.entryPa 1 = 0x800010) ∧
    (u.heap.markEndDone = false ∧ u.heap.durq = false ∧ (7 : BitVec 14).toNat ∈ u.heap.toScan ∧ u.ctxRes 7 = false ∧
      7 ∉ u.heap.treated) ∧
    (u.ctxRegs 7).nine.all (fun c => !c.isPointer || c.epoch == 1 || !u.inWindow c.pay) = true ∧
    SMap.get false s.heap.cards (o / 512 + 1) = true ∧
    ∀ j ∈ List.range 32, (s.heapCell (o + 512 + 16 * j)).isPointer = false ∧ s.heapPa (o + 512 + 16 * j) = 0x2000200 + 16 * j := by
  repeat' refine And.intro ?_ ?_
  all_goals decide +kernel

/-- A slot that names an object that has moved, and one that names an object that stays; a record outside the window. -/
theorem test_hyps_HealingFollowsTheCopies :
    let o := 2 ^ 36 + 2 ^ 21
    let v := mkCell tagVEC 2 0 (o + 64)
    let st := fun rel : Nat => ((wheap { phase := .remap, major := true, scope := [.slot o] } [(1, went kSILT rel 32 0 16)]).setCell 0x2000000
      v).setCell 0x2000040 (mkCell tagFWD 1 0 (o + 4096))
    let u := (wheap { phase := .remap, scope := [.record 7] } []).setRec 7 0 (mkCell tagVEC 0 0 0x100)
    (∀ rel ∈ [0, 1], (st rel).heap.en = true ∧ (st rel).heap.phase = .remap ∧ (st rel).heap.good = 1 ∧
      .slot o ∈ (st rel).heap.scope) ∧
    (∀ rel ∈ [0, 1], (st rel).heapCell o = normalize v ∧ v.pay = o + 64 ∧ (normalize v).isRef = true ∧ (normalize v).epoch ≠ 1 ∧
      (st rel).inWindow (o + 64) = true ∧ blockOf (o + 64) = 1 ∧ kSILT ≤ eKind ((st rel).entry 1)) ∧
    (∀ rel ∈ [0, 1], eRel ((st rel).entry 1) = (rel == 1) ∧ ((st rel).heapCell (o + 64)).tag = tagFWD ∧
      (st rel).poisoned (0x2000000 / 128) = false) ∧
    (∀ rel ∈ [0, 1], (st rel).heapPa o = 0x2000000 ∧ (st rel).entryPa (blockOf o) + 16 ≤ 0x2000000) ∧
    (.record (7 : BitVec 14).toNat ∈ u.heap.scope ∧ u.ctxRes 7 = false ∧ 7 ∉ u.heap.treated) ∧
    (u.ctxRegs 7).nine.all (fun c => !c.isPointer || c.epoch == 1 || !u.inWindow c.pay) = true := by
  repeat' refine And.intro ?_ ?_
  all_goals decide +kernel

/-! ### Witnesses of the clauses about what waits, what is held and what starts -/

/-- The machine image in the slot `k` of the tuff die passes its check. -/
def slotOk (s : State) (k : Nat) : Bool :=
  match s.slotImage k with
  | .ok _ => true
  | .error _ => false

/-- Power-on reset held; a vent core that restarts; a transition under way. -/
def wheld : State := { State.reset with boot := { State.reset.boot with held := true } }
def wwait (v : Nat) : State := { State.reset with dep := { State.reset.dep with ventWait := [v] } }

/-- PS5 left for the image of slot 0; an exit whose rails are low; a sleeper resident and one that is not; HOSTWK_N under PERST_N.
-/
theorem test_hyps_PowerStatesAreEnteredAndLeft_more :
    let s := fun (p : Power) => { State.reset with power := p, jr := { State.reset.jr with images := [(0, wimg 1 1 16 0x10000 0)] }, boot := { State.reset.boot with slotBoot := true } }
    let full := 2 ^ 112 - 1
    wheld.boot.held = true ∧ 0 ∈ (wwait 0).dep.ventWait ∧ (s {}).dep.ventWait = [] ∧
    (let u := s { ps := 5, trans := .leaving 0, domains := full }
     u.power.trans = .leaving 0 ∧ u.power.held = [] ∧ ({} : BootEnv).railFault = none ∧ ({} : BootEnv).tuffBad = false ∧
       u.boot.slotBoot = true ∧
      u.dep.imgrun % 2 = 0 ∧ slotOk u 0 = true ∧ u.coreActive 0 = true ∧ u.railsLow = true ∧
      ({ railFault := some 15 } : BootEnv).railFault = some 15) ∧
    (let u := s { ps := 4, trans := .leaving 3, domains := full, pen := 2 ^ 16 - 1 }
     u.railsLow = false ∧ 3 < u.power.ps ∧ u.power.held = []) ∧
    (let u := (wst wm (fun s => { s with power := { s.power with domains := full } })).setRec 5 24 (mkCell tagRAW 0 (4 * 2 ^ 17 + 2 ^ 16) 0)
     u.ctxState (5 : BitVec 14).toNat = 4 ∧ u.power.ps ≤ 1 ∧ u.ctxWake 5 ≤ u.now + 1008 ∧ u.wakeCore 5 = some 0 ∧
       u.ctxRes 5 = true) ∧
    (let u := ((s { domains := full }).setRec 7 24 (mkCell tagRAW 0 (4 * 2 ^ 17) 0)).setRec 7 25 (mkCell tagRAW 0 (2 ^ 29) 0)
     u.ctxState (7 : BitVec 14).toNat = 4 ∧ u.ctxWake 7 ≤ u.now + 1008 ∧ (u.wakeCore 7).isSome = true) ∧
    (s { perstLow := true }).power.perstLow = true ∧ (s {}).power.perstLow = false := by decide +kernel

/-- A trip while the main side is down, with and without its wait; a restart with a rail that fails; a held device. -/
theorem test_hyps_RailsAndTemperatures_more :
    let s := fun (p : Power) (pf : PfPhase) => { State.reset with power := { p with temp := [(15, 393150)] }, jr := { State.reset.jr with pf := pf } }
    (s {} .done).mainRuns = false ∧ (s {} .normal).mainRuns = true ∧ 393150 ≤ (s {} .done).tempOf (15 : BitVec 4).toNat ∧
      (s {} .done).power.allDown = false ∧
    (s {} .done).power.tripWait = false ∧ (s { tripWait := true } .done).power.tripWait = true ∧
    (s {} .normal).power.seq = .idle ∧ (s {} .normal).boot.held = false ∧ (s {} .normal).power.ps < 4 ∧ wheld.mainRuns = false ∧
    (let p : Power := { restart := true, lastFault := some 0 }
     p.restart = true ∧ p.allDown = false ∧ p.tripWait = false ∧ p.lastFault = some 0 ∧
       ({ railFault := some 1 } : BootEnv).railFault = some 1 ∧
      0 + 1000000000 ≤ ({ s p .done with time := { State.reset.time with gtc := 1000000000 * 2 ^ 32 } } : State).now) ∧
    (({ output := true, dev := 9, word := 1 } : PmbStatus).output = true ∧
      ({ output := false, dev := 9, word := 1 } : PmbStatus).word ≠ 0) := by
  decide +kernel

/-- An image that starts at power-on: from slot 0 under BOOTSEL 2 and 3, and as the first QSPI copy; a second CLURST in a tick; a
cluster's first. -/
theorem test_hyps_ResetsStartTheDeviceAnew_more :
    let s := { State.reset with jr := { State.reset.jr with images := [(0, wimg 1 1 16 0x10000 0)] } }
    (∀ b ∈ [2, 3], let env : BootEnv := { bootsel := b }
     env.railFault = none ∧ env.hbmOk = true ∧ env.tuffBad = false ∧ env.selfTestFail = [] ∧ s.jr.defaults = false ∧
       env.bootsel = b ∧ slotOk s (s.dep.imgrun % 2) = true ∧
      s.jr.checkpoints = []) ∧
    (let env : BootEnv := { qspi0 := some ⟨wimg 1 1 16 0x10000 0, {}⟩ }
     env.bootsel = 0 ∧ env.railFault = none ∧ env.hbmOk = true ∧ env.tuffBad = false ∧ env.selfTestFail = [] ∧
      (match s.qspiImage env.qspi0 with
       | .ok _ => true
       | .error _ => false) = true) ∧
    (let w : DictWrite := { master := 4, data := leBytes 8 7 }
     let u := fun n : Nat => { State.reset with dict := { State.reset.dict with owner := 4, tick := 6 }, power := { State.reset.power with domains := 2 ^ 112 - 1 }, boot := { State.reset.boot with cluTick := [(7, some n)] } }
     (u 6).dictServed = true ∧ (u 6).mainRuns = true ∧ w.master ≠ 0xFE ∧ w.master.toNat = (u 6).dict.owner ∧ w.data = leBytes 8 7 ∧
      SMap.get none (u 6).boot.cluTick 7 = some (u 6).dict.tick ∧ SMap.get none (u 5).boot.cluTick 7 ≠ some (u 5).dict.tick ∧
      (∀ q ∈ (u 5).placesOf 7, (u 5).atBoundary q = true)) := by
  decide +kernel

/-- A core to retire, by the panel's owner; a vent core that waits for its restart, its domain on and off, and one that waits for
its patch; a record to log. -/
theorem test_hyps_FailuresAreContained_more :
    let w : DictWrite := { master := 4, data := leBytes 8 63 }
    let s := fun (d : Depend) (dom : Nat) => { State.reset with dict := { State.reset.dict with owner := 4 }, power := { State.reset.power with domains := dom }, dep := d }
    let full := 2 ^ 112 - 1
    let r : ErrRecord := ⟨4096, 1, 0, 1, 1, 0, 0, 0⟩
    ((s {} full).coreActive (63 : BitVec 6).toNat = true ∧ (s {} full).boot.held = false ∧ (s {} full).boot.resets = [] ∧
      (s {} full).boot.startTodo = none ∧
      (s {} full).spareOf (63 / 8) = some 8 ∧ (s {} full).dictServed = true ∧ w.master ≠ 0xFE ∧
        w.master.toNat = (s {} full).dict.owner ∧ w.data = leBytes 8 63) ∧
    ((s {} full).power.ps ≤ 1 ∧ (s {} full).dutyWaits 2 = false ∧ (s { ventWait := [2] } full).dutyWaits 2 = true) ∧
    ((3 : BitVec 2).toNat ∈ (s { ventWait := [3] } full).dep.ventWait ∧ (s { ventWait := [3] } full).domainOn 110 = true ∧
      (s { ventWait := [3] } 0).domainOn 110 = false ∧ (0 : BitVec 2).toNat ∈ (s { ventWait := [0] } 0).dep.ventWait) ∧
    ((s { ventTodo := [1] } full).dep.ventWait = [] ∧ (s { ventTodo := [1] } full).dep.ventTodo = (1 : BitVec 2).toNat :: [] ∧
      (s { ventTodo := [1] } full).domainOn 110 = true) ∧
    ((s { staged := [r] } full).power.ps < 4 ∧ (s { staged := [r] } full).dutyServed 3 = true ∧
      (s { staged := [r] } full).dep.staged = [r] ∧
      (s {} 0).dutyServed 3 = false) ∧
    (let v := (wv wm).setDomain 110 true
     (3 : BitVec 2).toNat ∉ v.dep.ventWait ∧ v.dep.ventTodo.head? ≠ some 3 ∧ (3 : BitVec 2).toNat ∉ v.dep.ventRetired ∧
       (v.slot (Cx.vent 3)).ctx ≠ none) := by
  decide +kernel

/-- The owner's writes while the dictionary is served; an image in memory to load; a hand-over with every core quiescent, and with one that is not; a trial that fails
at once; service request 1 with room for its notice. -/
theorem test_hyps_PatchesAndImages_more :
    let w := fun v : Nat => ({ master := 4, data := leBytes 8 v } : DictWrite)
    let img : Image := { loadpa := 0x20000 }
    let s := fun (d : Depend) => { (wst wm) with dep := d, dict := { State.reset.dict with owner := 4 }, power := { State.reset.power with domains := 2 ^ 112 - 1 }, jr := { State.reset.jr with images := [(1, wimg 1 1 16 0x10000 0)] } }
    (∀ v ∈ [1, 2, 3], (s {}).dictServed = true ∧ (w v).master ≠ 0xFE ∧ (w v).master.toNat = (s {}).dict.owner ∧
      (w v).data = leBytes 8 v) ∧
    ((s {}).coreActive 63 = true ∧ (s {}).coreOn 63 = true ∧ (s { mcstate := 2, mcStaged := some ⟨1, []⟩ }).dep.mcStaged ≠ none ∧
      (s { mcstate := 2, mcStaged := some ⟨1, []⟩ }).dep.mcstate ≠ 4) ∧
    (({} : SigCheck).ecc = [] ∧ (s {}).dep.imgstate ≠ 2 ∧ (s {}).dep.imgstate ≠ 4 ∧
      (s {}).canGet ((s {}).dictNat 0x8110 0 0) ((s {}).dictNat 0x8110 1 0) = true) ∧
    (let c : DictWrite := { master := 0xFE, data := leBytes 8 1 }
     c.master = 0xFE ∧ c.data = leBytes 8 1 ∧ (s { imgstate := 4, handAt := some 0 }).dep.imgstate = 4 ∧
       (s { imgstate := 4, handAt := some 0 }).imgLate = false) ∧
    ((∀ c < 64, (s {}).quiescent c = true) ∧ (s {}).ctxRes 0 = false ∧
      (let u := (s {}).modSlot ⟨63, 3⟩ (fun v => { v with ctx := some 6, mid := .rep { pfx := 0xF0000046, word := mwordOf 0x15 oFX, count := 70, done := 3, key := none } })
       u.coreActive 63 = true ∧ u.quiescent 63 = false ∧ ∃ k < 4, u.atBoundary ⟨(63 : BitVec 6).toNat, k⟩ = false)) ∧
    (let u := (s { imgstate := 4, handAt := some 0, previous := some img }).setRec 0 24 (mkCell tagRAW 0 (6 * 2 ^ 17) 0)
     u.dep.imgstate = 4 ∧ u.boot.startTodo = none ∧ u.ctxState 0 = 6 ∧ u.dep.previous = some img ∧ (s {}).ctxState 0 ≠ 6) ∧
    (let u := ((s { running := some img }).setCell 0x11000 (mkFIX 4)).setCell 0x11100 (mkRAW (2 ^ 32))
     u.serviceArea = some 0x10000 ∧ u.boot.notices = [] ∧ (u.cell 0x11010).int < (u.cell 0x11000).int ∧
      field (u.cell (0x11100 + 16 * ((u.cell 0x11010).pay % 256))) 47 32 = 1 ∧
        (u.cell 0x13000).int - (u.cell 0x13010).int ≤ 252) := by
  decide +kernel

/-- The port with VDD_IO and without it; a ball of the chain, an open-drain one, one that only observes and one outside the chain;
a host write of HIRQ. -/
theorem test_hyps_DebugAndDeviceRegisters_more :
    let s := { State.reset with power := { State.reset.power with pen := 8, domains := 2 ^ 112 - 1 }, funcs := [(3, { mse := true })] }
    (s.jtagLive = true ∧ State.reset.jtagLive = false) ∧
    (∀ b ∈ [Ball.pen 15, .led 31, .kso 15, .bz, .obs 31, .qspiCs], s.supplied b = true ∧ ballOut b = true ∧ ballChain b = true ∧
      s.observeOnly b = false) ∧
    (ballChain (.tp 3 true) = false ∧ s.observeOnly (.pgd 15) = true ∧ s.observeOnly .estopA = true) ∧
    (let w : DictWrite := { master := 4, data := leBytes 2 ([] : List Byte).length ++ [] }
     s.dictServed = true ∧ w.master ≠ 0xFE ∧ ([] : List Byte).length ≤ 112 ∧ s.dbg.fails < 16 ∧ ({} : SigCheck).keyOk = true ∧
       ({} : SigCheck).sigOk = true) ∧
    (s.mainRuns = true ∧ (s.func (3 : BitVec 2).toNat).mse = true) := by decide +kernel

/-- A function at version 1.2 and one at 2.1; PCIe off after a power failure; a write whose ECRC fails; PERST_N high in PS4; a command block whose transfer failed,
and a transfer to the host. -/
theorem test_hyps_HostFunctionsAndWindows_mesh :
    let x : Func := { mse := true, en := true, fen := true, ver := 0x0102, cfg := { ecrcCheck := true }, mw := [(3, { hbase := 1, wr := true, rd := true, v := true })] }
    let s := { State.reset with funcs := [(3, x)] }
    let off := ({ s with jr := { s.jr with pf := .done } } : State)
    (s.mainRuns = true ∧ off.mainRuns = false ∧ x.en = true ∧ x.ver = 0x0102 ∧ x.mse = true ∧ s.boot.held = false ∧
      wheld.boot.held = true) ∧
    (let o : BitVec 36 := 0xFFFFFFF0
     (List.replicate 16 (0 : Byte)).length = 16 ∧ o.toNat % 16 = 0 ∧ o.toNat / 2 ^ 30 = 3 ∧ 3 < 2 ^ x.mwsize ∧
       (SMap.get {} x.mw 3).v = true ∧ x.cfg.ecrcCheck = true ∧
      ({ s with poison := [((2 ^ 30 + (2 ^ 30 - 16)) / 128, true)] } : State).poisoned ((1 * 2 ^ 30 + o.toNat % 2 ^ 30) / 128) = true) ∧
    (let c : JCmd := { arg := 0x1000, hit := { meshAt := some 0x1000 } }
     c.tag = 0x3F ∧ c.epoch = 0 ∧ c.rsvd = 0 ∧ s.dma = none ∧ c.hit = { meshAt := some 0x1000 }) ∧
    (let d : Dma := ⟨mkRAW 0, true, 0x2000, 0x3000, 3, 16⟩
     let r : DmaResult := ⟨16, false, none, [], []⟩
     d.toHost = true ∧ r.failed = false ∧ r.meshAt = none ∧ r.ecc = [] ∧ ({ s with dma := some d } : State).dmaQ = [] ∧
       (∀ g ∈ granulesOf d.hbm d.len, s.poisoned g = false)) ∧
    ((⟨[0], false, false⟩ : WireData).poisoned = false ∧ (⟨[0], false, false⟩ : WireData).ecrcBad = false) := by decide +kernel

/-- A restart of the core with VC1's duties, and a vent core that is off; a tick without anything that waits; a NOP request; a
command of the port. -/
theorem test_hyps_DictionaryMessagesArrive_waits :
    let on := fun (ps domains : Nat) (d : Depend) => { State.reset with power := { State.reset.power with ps := ps, domains := domains }, dep := d }
    let full := 2 ^ 112 - 1
    ((on 0 full { ventWait := [1] }).dictServed = false ∧ (on 0 full { ventWait := [1] }).power.ps < 4 ∧
      (on 0 full { ventWait := [1] }).dutyWaits 1 = true ∧
      (on 0 0 {}).dictServed = false ∧ (on 0 0 {}).dutyWaits 1 = false ∧ (on 4 full {}).dictServed = false ∧
        4 ≤ (on 4 full {}).power.ps) ∧
    (let r : DictReq := { src := .ohp 3 0, master := 4, mtype := 0x01, mtag := 5, payload := [] }
     let s := { on 0 full {} with funcs := [(3, { en := true, fen := true, ver := 0x0201 })], dict := { State.reset.dict with queue := [r] } }
     s.boot.held = false ∧ s.boot.notices = [] ∧ s.power.held = [] ∧ s.dict.rows = [] ∧ (s.func 3).en = true ∧
       s.dictServed = true ∧ s.dict.queue = [r] ∧
      s.dict.owner = 0xFF ∧ s.dict.keyLocal = false ∧ s.dict.loc = false ∧ s.dict.desTick = none ∧ s.dict.designee = 0xFF ∧
        r.src = .ohp 3 0 ∧ r.mtype = 0x01 ∧
      s.dict.changed = false ∧ (on 0 full {}).dict.queue = []) ∧
    (let c : DxCmd := { arg := 0x1000 }
     let s := State.reset.setCell 0x1000 (mkRAW 0x300000)
     c.tag = 0x3F ∧ c.epoch = 0 ∧ s.boot.held = false ∧ c.rsvd = 0 ∧ c.arg.toNat % 16 = 0 ∧ (s.cell 0x1000).reserved = false ∧
      (∀ cmd ∈ [1, 2, 3, 4], 0x1000 + 16 * s.blockSize cmd 0x1000 ≤ hbmEnd) ∧ s.poison = []) := by decide +kernel

/-- A pointer outside the window, of an older epoch, in a record that is not resident; stores that wait in a merging buffer. -/
theorem test_hyps_RecordsAndWaitingStores :
    (let s := wst { wm with x := 7 } (fun s => { (s.setRec 7 24 (mkCell tagRAW 0 (2 * 2 ^ 17) 0)).setRec 7 1 (mkCell tagVEC 2 0 (2 ^ 50)) with heap := { en := true, good := 1 } })
     Starts s (sWord 0xEA 0 1) 1 (fun e => e.user = false ∧ (s.regs e.q).x.toNat = 7 ∧ s.ctxRes 7 = false ∧
       (match (s.started e).barrierAt (.core e.q.core) (s.rcell 7 1) false ((s.started e).goodFor e.q.core) with
        | some (y, _) => decide (y ≠ s.rcell 7 1)
        | none => false) = true)) ∧
    (let s := wst wm (fun s => wmem (fun t => t.modCore 0 (fun k => { k with merge := [{ granule := 0x202, cells := [(0, mkFIX 7)] }] })) s)
     ∀ w ∈ [mWord 0x1F oNone, sWord 0xE9 0 0], Starts s w 1 (fun e => oNone.zero = true ∧ (s.core e.q.core).merge ≠ [] ∧
       e.user = false)) := by
  refine ⟨starts (by decide +kernel), startsAll (by decide +kernel)⟩

end Sys2Proof.Tests
end

/-! ## The memory stays in canonical form (O4, O5)

`Canonical` says the form of a state's memory. Each operation of the model keeps it: for an operation on the state,
`Canonical.f` takes the form of `s` to the form of `s.f`, so that a chain of operations is proved by the chain of their
lemmas; for a body in `M`, `KeepsM.f` says the same of every state that the body leaves; `Ends` says it of the answer to a
command. Only `setCell`, `setCells`, `agentPut`, `zeroRange`, the filters and the resets write memory (Laws/Memory). The
lemmas stand in the order of the model's definitions. -/

namespace Sys2Proof.Machine

/-- The memory of the state is in canonical form. -/
def Canonical (s : State) : Prop := Memory.wf s.mem = true

theorem Canonical.same {s t : State} (h : Canonical s) (e : t.mem = s.mem := by rfl) : Canonical t :=
  (congrArg (Memory.wf · = true) e).mpr h

/-- A change of other parts of the state keeps the form. -/
theorem Canonical.update {s : State}
    {poison ocUnder l2Under l2 l2Lines l2Queue dir ctxStore aux ventRam cores order channels collQ ports collCycle
      heads linkWait heap geysers ingest links time jr funcs dma dmaQ dict panel power dep boot dbg out freeCount
      pending} (h : Canonical s) :
    Canonical ⟨s.mem, poison, ocUnder, l2Under, l2, l2Lines, l2Queue, dir, ctxStore, aux, ventRam, cores, order,
      channels, collQ, ports, collCycle, heads, linkWait, heap, geysers, ingest, links, time, jr, funcs, dma, dmaQ,
      dict, panel, power, dep, boot, dbg, out, freeCount, pending⟩ :=
  h

/-- A memory that lists nothing is canonical. -/
theorem Canonical.empty {s : State} (e : s.mem = [] := by rfl) : Canonical s :=
  (congrArg (Memory.wf · = true) e).mpr rfl

theorem Canonical.ite {s t : State} {c : Prop} [Decidable c] (h : Canonical s) (k : Canonical t) :
    Canonical (if c then s else t) := by
  split
  · exact h
  · exact k

theorem Canonical.foldl {α : Type} {f : State → α → State} {l : List α} {s : State} (h : Canonical s)
    (hf : ∀ s a, Canonical s → Canonical (f s a)) : Canonical (l.foldl f s) := by
  induction l generalizing s with
  | nil => exact h
  | cons a l ih => exact ih (hf s a h)

theorem Canonical.foldUp {f : Nat → State → State} {n i : Nat} {s : State} (h : Canonical s)
    (hf : ∀ i s, Canonical s → Canonical (f i s)) : Canonical (foldUp f n i s) := by
  induction n generalizing i s with
  | zero => exact h
  | succ n ih => exact ih (hf i s h)

/-- The state of a choice between two results with a state. -/
theorem Canonical.iteSnd {α : Type} {p q : α × State} {c : Prop} [Decidable c] (h : Canonical p.2)
    (k : Canonical q.2) : Canonical (if c then p else q).2 := by
  split
  · exact h
  · exact k

theorem Canonical.snd {α : Type} {p : α × State} {a : α} {t : State} (h : Canonical p.2) (e : p = (a, t)) :
    Canonical t := by
  cases e
  exact h

theorem Canonical.fst {α : Type} {p : State × α} {a : α} {t : State} (h : Canonical p.1) (e : p = (t, a)) :
    Canonical t := by
  cases e
  exact h

/-- A fold that keeps a result beside the state. -/
theorem Canonical.foldlFst {α β : Type} {f : State × β → α → State × β} {l : List α} {p : State × β}
    (h : Canonical p.1) (hf : ∀ p a, Canonical p.1 → Canonical (f p a).1) : Canonical (l.foldl f p).1 := by
  induction l generalizing p with
  | nil => exact h
  | cons a l ih => exact ih (hf p a h)

/-- A cache operation keeps the form. -/
theorem CachesOnly.canonical {s t : State} (c : CachesOnly s t) (h : Canonical s) : Canonical t := h.same c.mem

/-- A cause leaves no state. -/
theorem KeepsM.raise {I : State → Prop} {α : Type} {e code sub opn acc faddr} :
    KeepsM I (Machine.fault e code sub opn acc faddr : M α) :=
  KeepsM.fault e code sub opn acc faddr

/-- A check or an update that is made only where a condition holds, and what follows in both cases. -/
theorem KeepsM.guard {I : State → Prop} {α : Type} {c : Prop} [Decidable c] {m : M Unit} {k : Unit → M α}
    (hm : KeepsM I m) (hk : ∀ u, KeepsM I (k u)) : KeepsM I (if c then m >>= k else k ()) :=
  .ite (.bind hm hk) (hk ())

/-- A body that looks at the whole state goes on from a state that has the invariant. -/
theorem KeepsM.lookState {I : State → Prop} {α : Type} {k : State → M α} (hk : ∀ s, I s → KeepsM I (k s)) :
    KeepsM I (Machine.look id >>= k) :=
  fun s h => hk s h s h

/-- What follows a look may rest on the invariant of the state looked at. -/
theorem KeepsM.looked {I : State → Prop} {α β : Type} {f : State → α} {k : α → M β}
    (hk : ∀ s, I s → KeepsM I (k (f s))) : KeepsM I (Machine.look f >>= k) :=
  fun s h => hk s h s h

/-- An access that waits, or leaves a state with the invariant. -/
theorem KeepsM.orWait {I : State → Prop} {f : State → Except Wait State}
    (hf : ∀ s t, I s → f s = .ok t → I t) : KeepsM I (Machine.orWait f) := by
  intro s h
  cases hr : f s with
  | ok t =>
    have he : Machine.orWait f s = .ok ((), t) := by simp [Machine.orWait, hr]
    rw [he]
    refine ⟨fun _ _ e => ?_, fun _ _ _ e => (by cases e)⟩
    cases e
    exact hf s t h hr
  | error w =>
    have he : Machine.orWait f s = .error (.stall w) := by simp [Machine.orWait, hr]
    rw [he]
    exact ⟨fun _ _ e => (by cases e), fun _ _ _ e => (by cases e)⟩

/-- Every next state that a command answers has the invariant. -/
def Ends (I : State → Prop) (r : Out) : Prop := ∀ t, r = .next t → I t

theorem Ends.next {I : State → Prop} {s : State} (h : I s) : Ends I (.next s) := by
  intro t e
  cases e
  exact h

theorem Ends.ite {I : State → Prop} {c : Prop} [Decidable c] {r k : Out} (hr : Ends I r) (hk : Ends I k) :
    Ends I (if c then r else k) := by
  split
  · exact hr
  · exact hk

/-- The form of the state with which the judgement of a parity event goes on. -/
def ParityEnd.Canonical : ParityEnd → Prop
  | .go s | .fail _ _ s | .retired s => Machine.Canonical s

/-! ### Reset -/

theorem Canonical.reset : Canonical State.reset :=
  wf_reset

/-! ### Base: Cores and slots -/

theorem Canonical.setCore {s : State} {c v} (h : Canonical s) : Canonical (s.setCore c v) :=
  h.update

theorem Canonical.modCore {s : State} {c f} (h : Canonical s) : Canonical (s.modCore c f) :=
  h.setCore

theorem Canonical.setSlot {s : State} {q v} (h : Canonical s) : Canonical (s.setSlot q v) :=
  h.setCore

theorem Canonical.modSlot {s : State} {q f} (h : Canonical s) : Canonical (s.modSlot q f) :=
  h.setSlot

theorem Canonical.setRegs {s : State} {q r} (h : Canonical s) : Canonical (s.setRegs q r) :=
  h.setSlot

theorem Canonical.modRegs {s : State} {q f} (h : Canonical s) : Canonical (s.modRegs q f) :=
  h.setRegs

theorem Canonical.unheld {s t : State} (h : Canonical s) (hold : Canonical t) : Canonical (s.unheld t) :=
  .ite h hold

theorem Canonical.dropCores {s : State} {vents} (h : Canonical s) : Canonical (s.dropCores vents) :=
  h.update

theorem Canonical.dropVents {s : State} (h : Canonical s) : Canonical s.dropVents :=
  h.update

theorem Canonical.setDomain {s : State} {d on} (h : Canonical s) : Canonical (s.setDomain d on) :=
  h.update

theorem Canonical.modPower {s : State} {f} (h : Canonical s) : Canonical (s.modPower f) :=
  h.update

theorem Canonical.wakeTo {s : State} {req} (h : Canonical s) : Canonical (s.wakeTo req) := by
  simp only [State.wakeTo]
  split
  · exact h.modPower
  · exact .ite h h.modPower
  · exact .ite h.modPower h

theorem Canonical.pllsAfter {s old : State} (h : Canonical s) : Canonical (s.pllsAfter old) :=
  h.modPower

/-! ### Base: Context records (R190 to R194) -/

theorem Canonical.setRec {s : State} {n c v} (h : Canonical s) : Canonical (s.setRec n c v) :=
  h.update

theorem Canonical.setAux {s : State} {n v} (h : Canonical s) : Canonical (s.setAux n v) :=
  h.update

theorem Canonical.modAux {s : State} {n f} (h : Canonical s) : Canonical (s.modAux n f) :=
  h.setAux

theorem Canonical.setRecField {s : State} {n c hi lo v} (h : Canonical s) : Canonical (s.setRecField n c hi lo v) :=
  h.setRec

theorem Canonical.setCtxState {s : State} {n v} (h : Canonical s) : Canonical (s.setCtxState n v) :=
  h.setRecField

/-! ### Base: Free values (log entry 2) -/

theorem Canonical.fresh {s : State} (h : Canonical s) : Canonical (s.fresh).2 :=
  s.caches_fresh.canonical h

/-! ### Base: Outputs and completion records -/

theorem Canonical.emit {s : State} {o} (h : Canonical s) : Canonical (s.emit o) :=
  h.update

theorem Canonical.present {s : State} {r} (h : Canonical s) : Canonical (s.present r) :=
  h.update

theorem Canonical.stampError {s : State} (h : Canonical s) : Canonical (s.stampError).2 :=
  h.fresh

theorem Canonical.stamp {s : State} (h : Canonical s) : Canonical (s.stamp).2 :=
  h.stampError

theorem Canonical.readGtc {s : State} (h : Canonical s) : Canonical (s.readGtc).2 :=
  h.update

theorem Canonical.stampRead {s : State} (h : Canonical s) : Canonical (s.stampRead).2 :=
  h.stamp.update

/-! ### Base: Dictionary values (R403), by 256 × index + subindex -/

theorem Canonical.setDict {s : State} {index sub n v} (h : Canonical s) : Canonical (s.setDict index sub n v) :=
  h.update

theorem Canonical.setDictP {s : State} {index sub n v} (h : Canonical s) : Canonical (s.setDictP index sub n v) :=
  h.setDict.update

theorem Canonical.countUp {s : State} {index sub n} (h : Canonical s) : Canonical (s.countUp index sub n) :=
  h.setDictP

/-! ### Base: Error records (R497 to R499) -/

theorem Canonical.logErr {s : State} {src unit code sev addr det} (h : Canonical s) :
    Canonical (s.logErr src unit code sev addr det) :=
  .ite h.update.present h.update

theorem Canonical.meshLost {s : State} {pa} (h : Canonical s) : Canonical (s.meshLost pa) :=
  h.logErr

theorem Canonical.logCoalesced {s : State} {src unit code sev addr} (h : Canonical s) :
    Canonical (s.logCoalesced src unit code sev addr) := by
  simp only [State.logCoalesced]
  split
  · exact h.update
  · exact h.logErr.update

/-! ### Mem: Bytes -/

theorem Canonical.setCell {s : State} {pa c} (h : Canonical s) : Canonical (s.setCell pa c) :=
  s.wf_setCell pa c h

theorem Canonical.setCells {s : State} {pa l} (h : Canonical s) : Canonical (s.setCells pa l) :=
  s.wf_setCells pa l h

/-! ### Mem: Poison (R292) -/

theorem Canonical.setPoison {s : State} {g b} (h : Canonical s) : Canonical (s.setPoison g b) :=
  h.update

/-! ### Mem: Values beneath dirty copies -/

theorem Canonical.setOcU {s : State} {g u} (h : Canonical s) : Canonical (s.setOcU g u) :=
  (s.caches_setOcU g u).canonical h

theorem Canonical.setL2U {s : State} {g u} (h : Canonical s) : Canonical (s.setL2U g u) :=
  (s.caches_setL2U g u).canonical h

/-! ### Mem: Which clusters hold a copy (R288) -/

theorem Canonical.dirTrim {s : State} {g} (h : Canonical s) : Canonical (s.dirTrim g) :=
  (s.caches_dirTrim g).canonical h

theorem Canonical.dirTrimLine {s : State} {line} (h : Canonical s) : Canonical (s.dirTrimLine line) :=
  h.foldl fun _ _ h => h.dirTrim

theorem Canonical.dirSweep {s : State} (h : Canonical s) : Canonical s.dirSweep :=
  h.foldl fun _ _ h => h.dirTrim

theorem Canonical.cleaned {s : State} {g} (h : Canonical s) : Canonical (s.cleaned g) :=
  (s.caches_cleaned g).canonical h

theorem Canonical.settleWb {s : State} {k g} (h : Canonical s) : Canonical (s.settleWb k g) :=
  (s.caches_settleWb k g).canonical h

theorem Canonical.l2Put {s : State} {k g} (h : Canonical s) : Canonical (s.l2Put k g) :=
  (s.caches_l2Put k g).canonical h

theorem Canonical.l2Drop {s : State} {g keep} (h : Canonical s) : Canonical (s.l2Drop g keep) :=
  (s.caches_l2Drop g keep).canonical h

/-! ### Mem: Copies in the L1 caches -/

theorem Canonical.dropCopies {s : State} {g valid keep} (h : Canonical s) : Canonical (s.dropCopies g valid keep) :=
  (s.caches_dropCopies g valid keep).canonical h

/-! ### Mem: The directories (R288) -/

theorem Canonical.recall {s : State} {g} (h : Canonical s) : Canonical (s.recall g) :=
  (s.caches_recall g).canonical h

theorem Canonical.dirShare {s : State} {k g} (h : Canonical s) : Canonical (s.dirShare k g) :=
  (s.caches_dirShare k g).canonical h

/-! ### Mem: Requests of the cores (R288, R289) -/

theorem Canonical.ocToL2 {s : State} {g} (h : Canonical s) : Canonical (s.ocToL2 g) :=
  (s.caches_ocToL2 g).canonical h

theorem Canonical.recallFrom {s : State} {g k} (h : Canonical s) : Canonical (s.recallFrom g k) :=
  (s.caches_recallFrom g k).canonical h

theorem Canonical.shareFor {s : State} {c g} (h : Canonical s) : Canonical (s.shareFor c g) :=
  (s.caches_shareFor c g).canonical h

theorem Canonical.claimFor {s : State} {c g} (h : Canonical s) : Canonical (s.claimFor c g) :=
  (s.caches_claimFor c g).canonical h

/-! ### Mem: Uncached agents (R289) -/

theorem Canonical.hbmServes {s : State} {g} (h : Canonical s) : Canonical (s.hbmServes g) :=
  .ite h.modPower h

theorem Canonical.agentClean {s : State} {g} (h : Canonical s) : Canonical (s.agentClean g) :=
  (s.caches_agentClean g).canonical h

theorem Canonical.agentTake {s : State} {g} (h : Canonical s) : Canonical (s.agentTake g) :=
  (s.caches_agentTake g).canonical h

theorem Canonical.agentRead {s : State} {pa} (h : Canonical s) : Canonical (s.agentRead pa).2 :=
  h.agentClean.hbmServes

theorem Canonical.agentWrite {s : State} {pa c} (h : Canonical s) : Canonical (s.agentWrite pa c) :=
  h.agentTake.hbmServes.setCell

theorem Canonical.agentBytes {s : State} {a n} (h : Canonical s) : Canonical (s.agentBytes a n).2 :=
  h.foldl fun _ _ h => h.agentClean.hbmServes

theorem Canonical.agentPut {s : State} {a data} (h : Canonical s) : Canonical (s.agentPut a data) :=
  s.wf_agentPut a data h

/-! ### Mem: L2 writes -/

theorem Canonical.l2Write {s : State} {c g cells} (h : Canonical s) : Canonical (s.l2Write c g cells) := by
  simp only [State.l2Write]
  refine Canonical.foldl ?_ fun _ _ h => h.setCell
  split
  · exact h.recallFrom.ocToL2.claimFor.dropCopies.l2Put
  · exact h.recallFrom.ocToL2.claimFor.dropCopies.l2Put.setL2U

theorem Canonical.drainEntry {s : State} {c e} (h : Canonical s) : Canonical (s.drainEntry c e) :=
  h.l2Write

theorem Canonical.drainMerge {s : State} {c} (h : Canonical s) : Canonical (s.drainMerge c) :=
  h.modCore.foldl fun _ _ h => h.drainEntry

theorem Canonical.flushAround {s : State} {q} (h : Canonical s) : Canonical (s.flushAround q) := by
  simp only [State.flushAround]
  split
  · exact h
  · exact (Canonical.ite h.modSlot.setPoison h.modSlot).l2Write

theorem Canonical.endAround {s : State} {q} (h : Canonical s) : Canonical (s.endAround q) :=
  .ite h.flushAround h.flushAround.modSlot

/-! ### Mem: The object cache (R268 to R273, R287) -/

theorem Canonical.offer {s : State} {c e} (h : Canonical s) : Canonical (s.offer c e) :=
  h.foldl fun _ _ h => .ite h.ocToL2 (.ite (.ite h.settleWb.update h.settleWb.l2Put) h)

theorem Canonical.allocEntry {s : State} {c line wt} (h : Canonical s) : Canonical (s.allocEntry c line wt) := by
  simp only [State.allocEntry]
  split
  · exact h.setCore
  split
  · exact h.setCore
  split
  · exact h
  · exact h.offer.modCore.dirTrimLine

theorem Canonical.ocTouch {s : State} {c pa store} (h : Canonical s) : Canonical (s.ocTouch c pa store) := by
  simp only [State.ocTouch]
  split
  · exact h.setCore
  · exact h

theorem Canonical.presentMiss {s : State} {c pa wt} (h : Canonical s) : Canonical (s.presentMiss c pa wt) := by
  simp only [State.presentMiss]
  split
  · exact h
  split
  · exact h.setCore
  · exact .ite h h.allocEntry.modCore

theorem Canonical.noteDirty {s : State} {c g} (h : Canonical s) : Canonical (s.noteDirty c g) := by
  unfold State.noteDirty
  split
  · exact h
  · exact h.setOcU

/-! ### Mem: Loads and stores of a core -/

theorem Canonical.healBuffered {s : State} {q pa n} (h : Canonical s) : Canonical (s.healBuffered q pa n) :=
  .ite h.modSlot h.modCore

theorem Canonical.loadTouch {s t : State} {q pa wt} (h : Canonical s) (e : s.loadTouch q pa wt = .ok t) :
    Canonical t := by
  simp only [State.loadTouch] at e
  split at e
  · cases e; exact h.agentClean.hbmServes
  split at e
  · cases e; exact h
  split at e
  · cases e; exact .ite h h.shareFor
  split at e
  · cases e; exact h.ocTouch
  split at e
  · cases e; exact h
  · cases e

theorem Canonical.mergePut {s : State} {c pa v} (h : Canonical s) : Canonical (s.mergePut c pa v) := by
  simp only [State.mergePut]
  split
  · exact h.setCore
  split
  · exact h.setCore
  split
  · exact h
  · exact h.setCore.drainEntry

theorem Canonical.storeAround {s : State} {q pa v} (h : Canonical s) : Canonical (s.storeAround q pa v) :=
  have h1 := Canonical.ite h.flushAround h
  .ite h1.modSlot.flushAround h1.modSlot

theorem Canonical.storeBack {s t : State} {q pa v feeds} (h : Canonical s) (e : s.storeBack q pa v feeds = .ok t) :
    Canonical t := by
  simp only [State.storeBack] at e
  split at e
  · cases e; exact h.storeAround
  split at e
  · cases e; exact h.endAround.l2Write
  split at e
  · cases e
  cases e
  exact .ite h.flushAround.claimFor.ocTouch.noteDirty.setCell.modSlot h.flushAround.claimFor.ocTouch.noteDirty.setCell

theorem Canonical.storeHbm {s t : State} {q pa v wt feeds} (h : Canonical s) (e : s.storeHbm q pa v wt feeds = .ok t)
    :
    Canonical t := by
  simp only [State.storeHbm] at e
  split at e
  · cases e; exact h.agentWrite
  split at e
  · cases e; exact h.endAround.modCore
  split at e
  · cases e; exact (Canonical.ite h.endAround.ocTouch h.endAround).mergePut
  · exact h.storeBack e

theorem Canonical.orderStores {s : State} {q} (h : Canonical s) : Canonical (s.orderStores q) :=
  h.flushAround.drainMerge

/-! ### Mem: Maintenance (R278 to R285) -/

theorem Canonical.hitLocked {s : State} {line} (h : Canonical s) : Canonical (s.hitLocked line) :=
  h.update

theorem Canonical.invGranule {s : State} {g} (h : Canonical s) : Canonical (s.invGranule g) := by
  simp only [State.invGranule]
  refine Canonical.recall ?_
  split
  · exact h.setCells
  · exact h.setCells
  · exact h

theorem Canonical.cleanGranule {s : State} {g} (h : Canonical s) : Canonical (s.cleanGranule g) :=
  h.dropCopies.cleaned

theorem Canonical.offerLine {s : State} {line} (h : Canonical s) : Canonical (s.offerLine line) := by
  unfold State.offerLine
  refine h.foldl fun _ _ h => ?_
  split
  · exact h.offer
  · exact h

theorem Canonical.maintGranule {s : State} {op g} (h : Canonical s) : Canonical (s.maintGranule op g) :=
  .ite h.invGranule (.ite h.cleanGranule h.recall)

theorem Canonical.maintLine {s : State} {op line} (h : Canonical s) : Canonical (s.maintLine op line) :=
  have h1 := Canonical.ite h h.hitLocked
  (Canonical.ite h1.offerLine h1).foldl fun _ _ h => h.maintGranule

theorem Canonical.invalidateAll {s : State} {c} (h : Canonical s) : Canonical (s.invalidateAll c) := by
  simp only [State.invalidateAll]
  refine (Canonical.modCore ?_).dirSweep
  refine h.foldl fun _ _ h => ?_
  refine h.foldl fun _ _ h => ?_
  split
  · split
    · exact h.setCells.setOcU
    · exact h
  · exact h

theorem Canonical.writeBackEntry {s : State} {c e} (h : Canonical s) : Canonical (s.writeBackEntry c e) :=
  h.offer.modCore.dirTrimLine

theorem Canonical.writeBackAll {s : State} {c} (h : Canonical s) : Canonical (s.writeBackAll c) :=
  h.foldl fun _ _ h => h.writeBackEntry

theorem Canonical.drainLine {s : State} {c line} (h : Canonical s) : Canonical (s.drainLine c line) :=
  h.modCore.foldl fun _ _ h => h.drainEntry

theorem Canonical.zeroLine {s : State} {q line} (h : Canonical s) : Canonical (s.zeroLine q line) := by
  unfold State.zeroLine
  extract_lets c k gs s1 s2 s3 s4
  have h2 : Canonical s2 := h.hitLocked.flushAround.drainLine.foldl fun _ _ h => h.invGranule
  have h3 : Canonical s3 := h2.foldl fun _ _ h => h.setPoison
  have h4 : Canonical s4 := h3.foldl fun _ _ h => h.claimFor.noteDirty
  refine .ite (h2.foldl fun _ _ h => h.setPoison.hbmServes).setCells (.ite h2 ?_)
  exact .ite (h3.foldl fun _ _ h => h.l2Write) h4.allocEntry.modCore.setCells

/-! ### Mem: The instruction cache (R267, R286, R294) -/

theorem Canonical.fetchTouch {s : State} {c g} (h : Canonical s) : Canonical (s.fetchTouch c g) :=
  (s.caches_fetchTouch c g).canonical h

theorem Canonical.strayWrite {s : State} (h : Canonical s) : Canonical s.strayWrite :=
  .ite h.fresh (h.fresh.fresh.foldUp fun _ _ h => h.fresh.fresh.setCell)

/-! ### Context: Event channels (R202 to R208) -/

theorem Canonical.setChan {s : State} {n c} (h : Canonical s) : Canonical (s.setChan n c) :=
  h.update

/-! ### Context: Microcode banks and gated cores (R462, R493) -/

theorem Canonical.modDep {s : State} {f} (h : Canonical s) : Canonical (s.modDep f) :=
  h.update

theorem Canonical.mcFinish {s : State} (h : Canonical s) : Canonical s.mcFinish :=
  .ite h h.modDep.logErr

theorem Canonical.switchBanks {s : State} {c} (h : Canonical s) : Canonical (s.switchBanks c) :=
  .ite h h.modCore.modDep.mcFinish

theorem Canonical.ungate {s : State} {c} (h : Canonical s) : Canonical (s.ungate c) :=
  .ite h.modCore.switchBanks h

/-! ### Context: Readiness and sleep -/

theorem Canonical.makeReady {s : State} {n} (h : Canonical s) : Canonical (s.makeReady n) :=
  have h1 := h.setCtxState.modAux
  (Canonical.ite h1.update.ungate h1.update).wakeTo

theorem Canonical.sleepAs {s : State} {n v} (h : Canonical s) : Canonical (s.sleepAs n v) :=
  h.setCtxState.modAux.update

theorem Canonical.checkEvents {s : State} {n} (h : Canonical s) : Canonical (s.checkEvents n) :=
  .ite h.makeReady h

theorem Canonical.checkInterrupts {s : State} {n} (h : Canonical s) : Canonical (s.checkInterrupts n) :=
  .ite h.makeReady.modAux h

theorem Canonical.deliver {s : State} {n v} (h : Canonical s) : Canonical (s.deliver n v) :=
  h.modAux.checkInterrupts

theorem Canonical.post {s : State} {n} (h : Canonical s) : Canonical (s.post n) :=
  .ite h.deliver (.ite h.setChan.checkEvents h.setChan)

/-! ### Context: Notices of vent firmware (R519) -/

theorem Canonical.ringPut {s t : State} {base cells} (h : Canonical s) (e : s.ringPut base cells = some t) :
    Canonical t := by
  simp only [State.ringPut] at e
  split at e
  · cases e
  cases e
  exact (h.agentRead.agentRead.foldUp fun _ _ h => h.agentWrite).agentWrite

theorem Canonical.sendNotices {s : State} {l} (h : Canonical s) : Canonical (sendNotices l s) := by
  induction l generalizing s with
  | nil => exact h.same
  | cons x l ih =>
    obtain ⟨code, tag, arg⟩ := x
    rw [Machine.sendNotices]
    split
    · exact h.same
    split
    · exact h.same
    next t e => exact ih (h.ringPut e).post

theorem Canonical.sendHeld {s : State} (h : Canonical s) : Canonical s.sendHeld :=
  .ite h h.sendNotices

theorem Canonical.notice {s : State} {code tag arg} (h : Canonical s) : Canonical (s.notice code tag arg) :=
  h.update.sendHeld

/-! ### Context: Progress of a stopped instruction (R136, R137, R182, R183) -/

theorem Canonical.parkMid {s : State} {q} (h : Canonical s) : Canonical (s.parkMid q) := by
  simp only [State.parkMid]
  split
  · exact h.setSlot
  · exact .ite h.setSlot h.setSlot.modAux
  · exact h.setSlot

/-! ### Context: Eviction and fill (R188, R190, R199) -/

theorem Canonical.setRecs {s : State} {n c l} (h : Canonical s) : Canonical (s.setRecs n c l) := by
  induction l generalizing s c with
  | nil => exact h
  | cons v l ih => exact ih h.setRec

theorem Canonical.saveRegs {s : State} {n r} (h : Canonical s) : Canonical (s.saveRegs n r) :=
  h.setRecs.setRecField

theorem Canonical.setResidence {s : State} {n q} (h : Canonical s) : Canonical (s.setResidence n q) := by
  unfold State.setResidence
  split
  · exact h.setRecField.setRecField.setRecField
  · exact h.setRecField

theorem Canonical.freeSlot {s : State} {q} (h : Canonical s) : Canonical (s.freeSlot q) := by
  simp only [State.freeSlot]
  split
  · exact .ite h.setSlot.modAux h.setSlot
  · exact h.setSlot

theorem Canonical.evict {s : State} {q} (h : Canonical s) : Canonical (s.evict q) := by
  unfold State.evict
  split
  · exact h
  extract_lets s1 s2
  have h2 : Canonical s2 := h.parkMid.endAround.saveRegs.setResidence.freeSlot
  exact .ite h2.makeReady h2

theorem Canonical.fill {s : State} {q n} (h : Canonical s) : Canonical (s.fill q n) :=
  (Canonical.ite h.setResidence.setSlot.modAux h.setResidence.setSlot).update

theorem Canonical.evictCtx {s : State} {n} (h : Canonical s) : Canonical (s.evictCtx n) :=
  .ite h.evict h

theorem Canonical.modCtxRegs {s : State} {n f} (h : Canonical s) : Canonical (s.modCtxRegs n f) :=
  .ite h.modRegs h.saveRegs

/-! ### Context: Taking a cause (R171 to R178) -/

theorem Canonical.enterSlot {s : State} {q t mra esc} (h : Canonical s) : Canonical (s.enterSlot q t mra esc) :=
  .ite h.endAround.modRegs.modSlot h.endAround.modRegs

theorem Canonical.fatal {s : State} {q t mra} (h : Canonical s) : Canonical (s.fatal q t mra) := by
  simp only [State.fatal]
  split
  · exact h
  · exact h.endAround.saveRegs.setResidence.freeSlot.setRecs.sleepAs.post.fresh.notice

theorem Canonical.takeTrap {s : State} {q t mra} (h : Canonical s) : Canonical (s.takeTrap q t mra) :=
  .ite h.fatal (.ite h.enterSlot h.enterSlot)

theorem Canonical.takeAsync {s : State} {q n t} (h : Canonical s) : Canonical (s.takeAsync q n t) :=
  h.parkMid.modAux.enterSlot

/-! ### Context: Completion of a CKPT (R215) -/

theorem Canonical.ckptComplete {s : State} {n status value} (h : Canonical s) :
    Canonical (s.ckptComplete n status value) :=
  (Canonical.ite h.setRecField h).modCtxRegs.makeReady.modAux

theorem Canonical.wakeReached {s : State} {n} (h : Canonical s) : Canonical (s.wakeReached n) := by
  simp only [State.wakeReached]
  refine (Canonical.makeReady ?_).modAux
  split
  · exact h.modCtxRegs
  · exact h

/-! ### Heap: The window and the block table (R216, R220, R221) -/

theorem Canonical.setEntry {s : State} {b c} (h : Canonical s) : Canonical (s.setEntry b c) :=
  h.agentWrite

theorem Canonical.setE {s : State} {b hi lo v} (h : Canonical s) : Canonical (s.setE b hi lo v) :=
  h.setEntry

theorem Canonical.noteEngine {s : State} {a} (h : Canonical s) : Canonical (s.noteEngine a) :=
  .ite h.update h

theorem Canonical.noteBlock {s : State} {b} (h : Canonical s) : Canonical (s.noteBlock b) :=
  h.update

theorem Canonical.noteHeal {s : State} {pa} (h : Canonical s) : Canonical (s.noteHeal pa) := by
  unfold State.noteHeal
  split
  · exact h
  split
  · exact h.noteEngine
  · exact h

theorem Canonical.putHeap {s : State} {a c} (h : Canonical s) : Canonical (s.putHeap a c) :=
  h.agentWrite.noteEngine

/-! ### Heap: Objects -/

theorem Canonical.modHeap {s : State} {f} (h : Canonical s) : Canonical (s.modHeap f) :=
  h.update

theorem Canonical.setStart {s : State} {a k} (h : Canonical s) : Canonical (s.setStart a k) :=
  h.modHeap

theorem Canonical.pushMark {s : State} {a dur} (h : Canonical s) : Canonical (s.pushMark a dur) :=
  .ite h.modHeap h.setE.modHeap

theorem Canonical.mark {s : State} {a dur} (h : Canonical s) : Canonical (s.mark a dur) :=
  have h1 := Canonical.ite h (Canonical.ite h.modHeap h.putHeap).setE
  have h2 := Canonical.ite h1.modHeap h1
  .ite h2.pushMark h2

theorem Canonical.learn {s : State} {v} (h : Canonical s) : Canonical (s.learn v) :=
  .ite h.setStart h

/-! ### Heap: Relocation chunks and forwarding (R232) -/

theorem Canonical.filler {s : State} {a n} (h : Canonical s) : Canonical (s.filler a n) :=
  .ite h h.putHeap

theorem Canonical.setChunk {s : State} {w bed v} (h : Canonical s) : Canonical (s.setChunk w bed v) := by
  unfold State.setChunk
  split
  · exact h.modCore
  · exact h.modHeap

theorem Canonical.destChunk {s t : State} {kind a} (h : Canonical s) (e : s.destChunk kind = some (a, t)) :
    Canonical t := by
  simp only [State.destChunk] at e
  split at e
  · cases e
  next b u eu =>
    have hu : Canonical u := by
      split at eu
      · cases eu; exact h
      split at eu
      · cases eu
      split at eu
      · cases eu
      · cases eu; exact h.setEntry
    cases e
    exact .ite hu.setE hu.setE

theorem Canonical.relocAlloc {s t : State} {w bed cons n a} (h : Canonical s)
    (e : s.relocAlloc w bed cons n = some (a, t)) :
    Canonical t := by
  unfold State.relocAlloc at e
  split at e
  extract_lets pad u at e
  have hu : Canonical u := .ite h.filler h
  split at e
  · obtain ⟨-, rfl⟩ := Prod.mk.inj (Option.some.inj e)
    exact hu.setChunk
  split at e
  · cases e
  next b v ev =>
    cases e
    exact (h.destChunk ev).filler.setChunk

theorem Canonical.setBrfull {s : State} (h : Canonical s) : Canonical s.setBrfull :=
  h.modHeap

theorem State.copyCells_succ (s : State) (src dst n : Nat) :
    s.copyCells src dst (n + 1) = (s.putHeap dst (s.heapCell src)).copyCells (src + 16) (dst + 16) n := by
  delta State.copyCells
  with_reducible rfl

theorem Canonical.copyCells {s : State} {src dst n} (h : Canonical s) : Canonical (s.copyCells src dst n) := by
  induction n generalizing s src dst with
  | zero => exact h
  | succ n ih =>
    rw [State.copyCells_succ]
    exact ih h.putHeap

theorem Canonical.forward {s : State} {w a} (h : Canonical s) : Canonical (s.forward w a).2 := by
  unfold State.forward
  extract_lets c cons n want bed s0
  have h0 : Canonical s0 := .ite h.setBrfull h
  split
  · exact h
  split
  · exact h0
  next d t e =>
    have h1 : Canonical (t.copyCells a d n) := (h0.relocAlloc e).copyCells
    dsimp only
    exact h1.putHeap.setStart.modHeap

/-! ### Heap: The barriers (R226, R229) -/

theorem Canonical.barrierAt {s t : State} {w v dur good a} (h : Canonical s)
    (e : s.barrierAt w v dur good = some (a, t)) :
    Canonical t := by
  simp only [State.barrierAt] at e
  split at e
  · cases e; exact h
  split at e
  · cases e; exact h
  split at e
  · cases e
  split at e
  · cases e; exact h.learn
  cases e
  have h1 : ∀ o, Canonical (if eRel (s.entry (blockOf v.pay)) then (s.learn v).forward w o else (o, s.learn v)).2
    := by
    intro o
    split
    · exact h.learn.forward
    · exact h.learn
  exact .ite (h1 _).mark (h1 _)

theorem Canonical.barrierValue {s t : State} {w v dur a} (h : Canonical s) (e : s.barrierValue w v dur = some (a, t))
    :
    Canonical t :=
  h.barrierAt e

theorem Canonical.heal {s : State} {pa v n} (h : Canonical s) : Canonical (s.heal pa v n) :=
  .ite h h.agentWrite

theorem Canonical.setCard {s : State} {n slot} (h : Canonical s) : Canonical (s.setCard n slot) :=
  .ite (.ite (.ite h.modHeap h.modHeap.setE) h) h

theorem Canonical.storeMark {s : State} {n} (h : Canonical s) : Canonical (s.storeMark n) := by
  simp only [State.storeMark]
  split
  · split
    · exact h.learn.mark
    · exact h.learn
  · exact h

theorem Canonical.engineSlot {s : State} {se a dur} (h : Canonical s) : Canonical (s.engineSlot se a dur) := by
  unfold State.engineSlot
  refine .ite h.modHeap ?_
  split
  next v s1 e1 =>
  have h1 : Canonical s1 := .snd (h.agentRead (pa := s.heapPa a)) e1
  extract_lets s2
  have h2 : Canonical s2 := by
    refine .ite ?_ h1
    split
    · exact h1.learn.mark
    · exact h1.learn
  split
  · exact h2
  next n t e =>
    have ht : Canonical t := h2.barrierValue e
    exact .ite ht.setCard ht.heal.noteEngine.setCard

theorem Canonical.engineSlots {s : State} {se dur n a} (h : Canonical s) : Canonical (s.engineSlots se dur n a) := by
  induction n generalizing s a with
  | zero => exact h
  | succ n ih => exact ih h.engineSlot

/-! ### Heap: Refill (R223, R224) -/

theorem Canonical.takeChunk {s t : State} {k a} (h : Canonical s) (e : s.takeChunk k = some (a, t)) :
    Canonical t := by
  simp only [State.takeChunk] at e
  split at e
  · cases e
  split at e
  · cases e
  next b u eu =>
    have hu : Canonical u := by
      split at eu
      · cases eu; exact h
      split at eu
      · cases eu
      split at eu
      · cases eu
      · cases eu; exact h.setEntry.modHeap
    cases e
    exact hu.setEntry

theorem Canonical.takeRun {s t : State} {cells a} (h : Canonical s) (e : s.takeRun cells = some (a, t)) :
    Canonical t := by
  simp only [State.takeRun] at e
  split at e
  · cases e
  split at e
  · cases e
  · cases e; exact h.foldUp fun _ _ h => h.setEntry

theorem Canonical.refillFailed {s : State} (h : Canonical s) : Canonical s.refillFailed :=
  .ite h.modHeap h

theorem Canonical.noteObject {s : State} {a cells cons} (h : Canonical s) : Canonical (s.noteObject a cells cons) :=
  .ite (.ite h.setStart.setE h.setStart) h

theorem Canonical.pin {s : State} {a up} (h : Canonical s) : Canonical (s.pin a up) :=
  .ite h.setE h

theorem Canonical.hold {s : State} {n a} (h : Canonical s) : Canonical (s.hold n a) :=
  h.modAux.pin

theorem Canonical.unhold {s : State} {n a} (h : Canonical s) : Canonical (s.unhold n a) :=
  .ite h.modAux.pin h

theorem Canonical.unholdAll {s : State} {n} (h : Canonical s) : Canonical (s.unholdAll n) :=
  h.foldl fun _ _ h => h.unhold

theorem Canonical.closeOpenBlocks {s : State} (h : Canonical s) : Canonical s.closeOpenBlocks :=
  h.modHeap

/-! ### Heap: Passes (R236) -/

theorem Canonical.healList {s : State} {w dur l} (h : Canonical s) : Canonical (s.healList w dur l).2 := by
  induction l generalizing s with
  | nil => exact h
  | cons v l ih =>
    refine ih ?_
    split
    next p e => exact h.barrierValue (a := p.1) e
    · exact h

theorem Canonical.markList {s : State} {dur l} (h : Canonical s) : Canonical (s.markList dur l) := by
  induction l generalizing s with
  | nil => exact h
  | cons v l ih =>
    refine ih (.ite ?_ h)
    split
    · exact h.learn.mark
    · exact h.learn

theorem Canonical.closeChunk {s : State} {p q} (h : Canonical s) : Canonical (s.closeChunk p q) :=
  .ite h.filler h

theorem Canonical.passRegs {s : State} {w p n r} (h : Canonical s) : Canonical (s.passRegs w p n r).2 := by
  simp only [State.passRegs]
  split
  · exact (Canonical.ite h.healList.markList h.healList).closeChunk
  · exact h.markList
  · exact h.healList

theorem Canonical.passLong {s : State} {w p l} (h : Canonical s) : Canonical (s.passLong w p l).2 := by
  simp only [State.passLong]
  split
  · exact h.markList
  · exact h.healList

theorem Canonical.passStopped {s : State} {w p l} (h : Canonical s) : Canonical (s.passStopped w p l).2 := by
  induction l generalizing s with
  | nil => exact h
  | cons x l ih => exact ih h.passLong

theorem Canonical.passKept {s : State} {w p n} (h : Canonical s) : Canonical (s.passKept w p n) := by
  unfold State.passKept
  extract_lets stopped s1
  have h1 : Canonical s1 := .ite h h.passStopped.modAux
  refine .ite h1 ?_
  split
  · exact h1.passLong.modSlot
  · exact h1

theorem Canonical.treatCtx {s : State} {w p n} (h : Canonical s) : Canonical (s.treatCtx w p n) :=
  h.passRegs.modCtxRegs.passKept.modHeap

theorem Canonical.startPass {s : State} {p} (h : Canonical s) : Canonical (s.startPass p) :=
  h.modHeap

theorem Canonical.dropFromPass {s : State} {c} (h : Canonical s) : Canonical (s.dropFromPass c) :=
  h.modHeap

theorem Canonical.flip {s : State} (h : Canonical s) : Canonical s.flip :=
  h.modHeap

theorem Canonical.corePass {s : State} {c} (h : Canonical s) : Canonical (s.corePass c) := by
  simp only [State.corePass]
  split
  · exact h
  split
  · exact h
  refine Canonical.modHeap ?_
  refine h.foldl fun _ _ h => ?_
  split
  · exact h
  · exact .ite h h.orderStores.passRegs.setRegs.passKept.modHeap

/-! ### Heap: The cycle (R231 to R235, R239) -/

theorem Canonical.cycleStart {s : State} (h : Canonical s) : Canonical s.cycleStart := by
  simp only [State.cycleStart]
  split
  · exact h
  split
  · exact h
  · exact (h.flip.modHeap.foldl fun _ _ h => .ite h.setE h).modHeap.startPass

theorem Canonical.traceRecord {s : State} {se n} (h : Canonical s) : Canonical (s.traceRecord se n) :=
  .ite h (Canonical.ite h h.treatCtx).modHeap

theorem Canonical.traceCard {s : State} {se k} (h : Canonical s) : Canonical (s.traceCard se k) :=
  .ite h.modHeap (Canonical.ite h.modHeap h.modHeap.setE).engineSlots

theorem Canonical.traceObject {s : State} {se} (h : Canonical s) : Canonical (s.traceObject se) := by
  simp only [State.traceObject]
  split
  · exact h
  · exact h.modHeap.engineSlots

theorem Canonical.traceBlock {s : State} {se b} (h : Canonical s) : Canonical (s.traceBlock se b) :=
  .ite h (h.setE.foldl fun _ _ h => Canonical.ite h.engineSlots h)

theorem Canonical.markEnd {s : State} (h : Canonical s) : Canonical s.markEnd :=
  .ite h (.ite h.modHeap.startPass h.modHeap)

theorem Canonical.treatFill {s : State} {c n} (h : Canonical s) : Canonical (s.treatFill c n) := by
  unfold State.treatFill
  split
  · exact h.treatCtx
  · exact h

theorem Canonical.sweepBlock {s : State} {b clear} (h : Canonical s) : Canonical (s.sweepBlock b clear) :=
  h.foldl fun _ _ h => .ite h ((Canonical.ite (h.foldUp fun _ _ h => h.putHeap) h).filler.setStart)

theorem Canonical.keepSilt {s : State} {b} (h : Canonical s) : Canonical (s.keepSilt b) := by
  unfold State.keepSilt
  extract_lets dur bed s0 s1 ch s2 c s3 s4
  have h1 : Canonical s1 := (Canonical.ite h.setBrfull h).sweepBlock
  have h4 : Canonical s4 := (Canonical.ite h1.filler h1).setEntry.modHeap
  exact .ite (h4.noteBlock.foldl fun _ _ h => h.modHeap) h4

theorem Canonical.select {s : State} (h : Canonical s) : Canonical s.select := by
  unfold State.select
  extract_lets
  refine .ite h ?_
  split
  extract_lets keep s1 s2 s3 s4 rest heads dead s5
  have h2 : Canonical s2 := Canonical.foldl (.ite h.modHeap h) fun _ _ h => h.keepSilt
  have h3 : Canonical s3 := h2.foldl fun _ _ h => h.setE
  have h4 : Canonical s4 := h3.foldl fun _ _ h => .ite h.setE.noteBlock h.setBrfull
  have h5 : Canonical s5 := h4.foldl fun _ _ h => h.sweepBlock
  exact h5.modHeap

theorem Canonical.relocateFlip {s : State} (h : Canonical s) : Canonical s.relocateFlip :=
  .ite h h.flip.modHeap.startPass

theorem Canonical.engineCopy {s : State} {se obj} (h : Canonical s) : Canonical (s.engineCopy se obj) :=
  .ite h h.forward

theorem Canonical.remap {s : State} (h : Canonical s) : Canonical s.remap :=
  .ite h h.modHeap.modHeap

theorem Canonical.engineHeal {s : State} {se it} (h : Canonical s) : Canonical (s.engineHeal se it) := by
  simp only [State.engineHeal]
  split
  · exact h
  refine Canonical.modHeap ?_
  split
  · exact .ite h h.treatCtx
  · exact h.engineSlot

theorem Canonical.keepUncopied {s : State} {b} (h : Canonical s) : Canonical (s.keepUncopied b) := by
  unfold State.keepUncopied
  refine Canonical.modHeap (Canonical.setE (Canonical.setE (h.foldl fun _ _ h => ?_)))
  exact .ite h.filler.setStart (.ite h h.filler.setStart)

theorem Canonical.closeReloc {s : State} {w bed} (h : Canonical s) : Canonical (s.closeReloc w bed) :=
  .ite h h.filler.setChunk

theorem Canonical.remapEnd {s : State} (h : Canonical s) : Canonical s.remapEnd := by
  unfold State.remapEnd
  refine .ite h ?_
  extract_lets s1 s2 rel left set s2' s3 bad s4
  have h2 : Canonical s2 :=
    (h.foldl fun _ _ h => h.closeReloc.closeReloc).foldl fun _ _ h => h.closeReloc.closeReloc
  have h3 : Canonical s3 := (h2.foldl fun _ _ h => h.keepUncopied).foldl fun _ _ h => h.setE
  have h4 : Canonical s4 := h3.modHeap
  exact .ite h4 (.ite h4.present (.ite h4.fresh.present h4.present))

theorem Canonical.zeroRange {s : State} {a n} (h : Canonical s) : Canonical (s.zeroRange a n) :=
  s.wf_zeroRange a n h

theorem Canonical.blockCleared {s : State} {b} (h : Canonical s) : Canonical (s.blockCleared b) :=
  .ite h h.zeroRange.setEntry.modHeap

/-! ### Journal -/

theorem Canonical.modJr {s : State} {f} (h : Canonical s) : Canonical (s.modJr f) :=
  h.update

/-! ### Journal: Wear units (R366, R374, R375) -/

theorem Canonical.wearOne {s : State} (h : Canonical s) : Canonical s.wearOne :=
  h.fresh.modJr

theorem Canonical.wearBytes {s : State} {bytes} (h : Canonical s) : Canonical (s.wearBytes bytes) :=
  h.foldUp fun _ _ h => h.wearOne

theorem Canonical.writeFails {s : State} (h : Canonical s) : Canonical s.writeFails :=
  h.fresh.modJr.wearOne

theorem Canonical.tuffWrite {s : State} {bytes} (h : Canonical s) : Canonical (s.tuffWrite bytes) :=
  .ite h (h.wearBytes.fresh.foldUp fun _ _ h => h.writeFails)

theorem Canonical.tuffError {s : State} (h : Canonical s) : Canonical s.tuffError :=
  h.fresh.modJr.logErr

theorem Canonical.tuffTry {s : State} {bytes} (h : Canonical s) : Canonical (s.tuffTry bytes).2 := by
  simp only [State.tuffTry]
  split
  · exact h.tuffWrite.fresh.writeFails.tuffError
  · exact h.tuffWrite.fresh

theorem Canonical.wearMove {s : State} {unit dest fails ok unread} (h : Canonical s) :
    Canonical (s.wearMove unit dest fails ok unread) := by
  unfold State.wearMove
  extract_lets count m t
  have hfail : ∀ n u, Canonical u → Canonical (Sys2Proof.foldUp (fun _ u => u.writeFails) n 0 u) :=
    fun _ _ h => h.foldUp fun _ _ h => h.writeFails
  have ht : Canonical t := .ite (hfail _ _ h.modJr).tuffError (.ite h.modJr (hfail _ _ h.modJr.modJr))
  exact .ite h (.ite ht.tuffError ht)

/-! ### Journal: Change lists (R229, R371) -/

theorem Canonical.claimCard {s : State} {k} (h : Canonical s) : Canonical (s.claimCard k) :=
  h.foldl fun _ _ h => h.agentTake

theorem Canonical.claimCards {s : State} {l} (h : Canonical s) : Canonical (s.claimCards l) :=
  h.foldl fun _ _ h => h.claimCard

theorem Canonical.checkLog {s : State} (h : Canonical s) : Canonical s.checkLog := by
  unfold State.checkLog
  split
  · exact h
  split
  · exact h
  · exact h.modJr.modAux

theorem Canonical.spill {s : State} {n} (h : Canonical s) : Canonical (s.spill n) :=
  h.claimCards.modJr.tuffWrite.modAux.checkLog

theorem Canonical.noteCard {s : State} {n k} (h : Canonical s) : Canonical (s.noteCard n k) :=
  .ite h (Canonical.ite h.spill h).modAux

theorem Canonical.storeBarrier {s : State} {n v slot} (h : Canonical s) : Canonical (s.storeBarrier n v slot) :=
  .ite h (.ite h.setCard.storeMark.noteCard h.setCard.storeMark)

/-! ### Journal: Durable marking (R240) -/

theorem Canonical.ckptBegin {s : State} {n resume} (h : Canonical s) : Canonical (s.ckptBegin n resume) :=
  have h1 := h.sleepAs.modAux
  .ite h1.modHeap h1

/-! ### Journal: Commits (R369 to R372) -/

theorem Canonical.accept {s : State} {c} (h : Canonical s) : Canonical (s.accept c) :=
  h.claimCards.modJr

theorem Canonical.ckptAccept {s : State} {n} (h : Canonical s) : Canonical (s.ckptAccept n) :=
  .ite h (.ite h.modAux.modHeap.wakeTo (.ite h.modAux.present h.setRecs.accept.modJr.modAux))

theorem Canonical.putBack {s : State} {c} (h : Canonical s) : Canonical (s.putBack c) := by
  simp only [State.putBack]
  split
  · exact .ite h.modJr h.modJr.modJr.modAux.checkLog
  · exact h.modJr

theorem Canonical.commitComplete {s : State} {fails ok} (h : Canonical s) :
    Canonical (s.commitComplete fails ok) := by
  unfold State.commitComplete
  split
  · exact h
  extract_lets s0 s1 good s2
  have h1 : Canonical s1 := h.modJr.wearBytes.foldUp fun _ _ h => h.writeFails
  have h2 : Canonical s2 := .ite h1.modJr (.ite h1.putBack h1.putBack.tuffError)
  split
  · exact .ite h2.present (.ite h2.fresh.present h2.present)
  · exact h2

theorem Canonical.afterCycle {s : State} (h : Canonical s) : Canonical s.afterCycle :=
  ((Canonical.ite h h.accept).foldl fun _ _ h => .ite (.ite h.fresh.modAux.present h.modAux) h).modHeap

theorem Canonical.moveSpills {s : State} (h : Canonical s) : Canonical s.moveSpills :=
  h.modJr

theorem Canonical.cycleEnd {s : State} (h : Canonical s) : Canonical s.cycleEnd :=
  .ite h.moveSpills.remapEnd.afterCycle h

/-! ### Journal: Commands (R367, R368) -/

theorem Canonical.wholeWrites {s : State} {a n} (h : Canonical s) : Canonical (s.wholeWrites a n) :=
  h.update

theorem Canonical.ringCopy {s : State} {pa p n} (h : Canonical s) : Canonical (s.ringCopy pa p n) := by
  induction n generalizing s pa p with
  | zero => exact h
  | succ n ih => exact ih h.agentWrite

theorem Canonical.ringBad {s : State} {pa n} (h : Canonical s) : Canonical (s.ringBad pa n).1 :=
  h.tuffError.fresh.fresh.foldUp fun _ _ h => .ite h.fresh.fresh.agentWrite h.fresh.fresh

theorem Canonical.jcmd {s : State} {v unread mesh} (h : Canonical s) : Canonical (s.jcmd v unread mesh) := by
  unfold State.jcmd
  refine .ite h ?_
  extract_lets u cmd arg done
  have hu : Canonical u := h.wakeTo
  have hdone : ∀ t a b, Canonical t → Canonical (done t a b) := fun _ _ _ h => h.present
  have hx : Canonical u.fresh.2 := hu.fresh
  refine .ite (hdone _ _ _ hx) (.ite (.ite (hdone _ _ _ hx) (hdone _ _ _ (.ite hx.modJr hx))) ?_)
  refine .ite (hdone _ _ _ hx) (.ite (hdone _ _ _ hx.meshLost) (.ite (hdone _ _ _ hx.fresh) ?_))
  refine .ite ?_ (hdone _ _ _ hx)
  extract_lets t
  have ht : Canonical t := hu.agentRead.agentRead.agentRead.wholeWrites.ringCopy
  exact .ite (hdone _ _ _ ht.ringBad) (hdone _ _ _ ht)

/-! ### Journal: The sample ring (R373) -/

theorem Canonical.ringFrame {s : State} {link time bytes} (h : Canonical s) :
    Canonical (s.ringFrame link time bytes) :=
  .ite h (.ite h.modJr h.tuffWrite.modJr)

/-! ### Journal: Power fail and restore (R376, R379) -/

theorem Canonical.finishStage {s : State} (h : Canonical s) : Canonical s.finishStage :=
  h.tuffTry.modJr

theorem Canonical.wipeCtx {s : State} {n} (h : Canonical s) : Canonical (s.wipeCtx n) :=
  h.update

theorem Canonical.wipeAll {s : State} (h : Canonical s) : Canonical s.wipeAll :=
  h.update

theorem Canonical.restoreCtx {s : State} {n c dormant} (h : Canonical s) : Canonical (s.restoreCtx n c dormant) := by
  simp only [State.restoreCtx]
  refine (Canonical.ite h.setRecs.setRec.setRec.setResidence.setRecField
    h.setRecs.setRec.setRec.setResidence.setRecField.setCtxState).setAux.update.foldl fun _ _ h => ?_
  split
  · exact h.setChan
  · exact h

theorem Canonical.walkStarts {s : State} {stop k a} (h : Canonical s) : Canonical (s.walkStarts stop k a) := by
  induction k generalizing s a with
  | zero => exact h
  | succ k ih => exact .ite h (.ite (.ite h (ih h.setStart)) (ih h.setStart))

theorem Canonical.zeroFrames {s : State} (h : Canonical s) : Canonical s.zeroFrames :=
  SMap.wf_filter _ _ _ h

theorem Canonical.restoreBedrock {s : State} (h : Canonical s) : Canonical s.restoreBedrock := by
  simp only [State.restoreBedrock]
  refine Canonical.foldl ?_ fun _ _ h => h.walkStarts
  refine (h.modHeap.zeroFrames.foldl fun _ _ h => h.setEntry).foldl fun _ _ h => ?_
  split
  · exact h.agentWrite
  · exact h

theorem Canonical.gtcForward {s : State} (h : Canonical s) : Canonical s.gtcForward :=
  .ite h.update h

theorem Canonical.restore {s : State} {dormant} (h : Canonical s) : Canonical (s.restore dormant) := by
  simp only [State.restore]
  refine (Canonical.modJr ?_).gtcForward
  refine h.wipeAll.update.restoreBedrock.foldl fun _ _ h => ?_
  split
  · exact .ite h h.restoreCtx
  · exact h

theorem Canonical.dropCheckpoint {s : State} {n} (h : Canonical s) : Canonical (s.dropCheckpoint n) :=
  h.modJr.accept

/-! ### Dispatcher: Time and budget (R201, R356) -/

theorem Canonical.chargeSlot {s : State} {q} (h : Canonical s) : Canonical (s.chargeSlot q) := by
  simp only [State.chargeSlot]
  split
  · exact h
  · exact .ite h (.ite h.setRecField.modAux h.setRecField)

theorem Canonical.charge {s : State} (h : Canonical s) : Canonical s.charge :=
  h.foldl fun _ _ h => h.chargeSlot

/-! ### Dispatcher: Placement (R198) -/

theorem Canonical.place {s : State} {n q} (h : Canonical s) : Canonical (s.place n q) :=
  .ite h h.evict.fill.ungate.treatFill

theorem Ends.execContextPlacement {s : State} (h : Canonical s) : Ends Canonical (execContextPlacement s) := by
  unfold Machine.execContextPlacement
  refine .next ?_
  split
  · exact h.place
  · exact h

theorem Ends.execDispatchQuantumExpiry {s : State} {core slot} (h : Canonical s) :
    Ends Canonical (execDispatchQuantumExpiry core slot s) := by
  unfold Machine.execDispatchQuantumExpiry
  refine .next ?_
  split
  · exact .ite h.place h
  · exact h

/-! ### HostBase -/

theorem Canonical.setFunc {s : State} {f v} (h : Canonical s) : Canonical (s.setFunc f v) :=
  h.update

theorem Canonical.modFunc {s : State} {f g} (h : Canonical s) : Canonical (s.modFunc f g) :=
  h.setFunc

theorem Canonical.modCfg {s : State} {f g} (h : Canonical s) : Canonical (s.modCfg f g) :=
  h.modFunc

theorem Canonical.signal {s : State} {f v} (h : Canonical s) : Canonical (s.signal f v) :=
  .ite h.emit h.setFunc

theorem Canonical.aer {s : State} {f code} (h : Canonical s) : Canonical (s.aer f code) :=
  h.modFunc.emit

/-! ### GeyserDesc: Access -/

theorem Canonical.setGy {s : State} {g v} (h : Canonical s) : Canonical (s.setGy g v) :=
  h.update

theorem Canonical.modGy {s : State} {g f} (h : Canonical s) : Canonical (s.modGy g f) :=
  h.setGy

theorem Canonical.setGySlot {s : State} {g n v} (h : Canonical s) : Canonical (s.setGySlot g n v) :=
  h.modGy

theorem Canonical.modGySlot {s : State} {g n f} (h : Canonical s) : Canonical (s.modGySlot g n f) :=
  h.setGySlot

/-! ### GeyserRun: Samples (R314) -/

theorem Canonical.gyInput {s : State} {g n v invalid time} (h : Canonical s) :
    Canonical (s.gyInput g n v invalid time) :=
  .ite h (.ite h.setGySlot h.setGySlot.modGy)

theorem Canonical.linkSample {s : State} {link lane fmt v valid time} (h : Canonical s) :
    Canonical (s.linkSample link lane fmt v valid time) :=
  h.foldl fun _ _ h => h.gyInput

/-! ### GeyserRun: Completion buffer (R325) -/

theorem Canonical.gyStreamPost {s : State} {g n code} (h : Canonical s) : Canonical (s.gyStreamPost g n code) :=
  h.fresh.setGySlot.modGy

theorem Canonical.gyComplete {s : State} {g c status value} (h : Canonical s) :
    Canonical (s.gyComplete g c status value) := by
  simp only [State.gyComplete]
  refine Canonical.modGy ?_
  split
  · exact h
  · exact h.fresh

/-! ### GeyserRun: Outputs (R322 to R326) -/

theorem Canonical.recordDone {s : State} {g n j prod arr lost failed delivered} (h : Canonical s) :
    Canonical (s.recordDone g n j prod arr lost failed delivered) := by
  unfold State.recordDone
  extract_lets y d late y1 o o1 s1
  have h1 : Canonical s1 := h.setGySlot
  refine .ite h1 ?_
  split
  next value s2 e2 =>
  have h2 : Canonical s2 := Canonical.snd (.iteSnd h1 (.iteSnd (by exact h1.fresh) h1)) e2
  exact .ite h2.setGy.modGySlot h2.setGy

theorem Canonical.agentCells {s : State} {a l} (h : Canonical s) : Canonical (s.agentCells a l) :=
  h.agentPut

theorem Canonical.ringWrite {s : State} {g n j x lateRec} (h : Canonical s) :
    Canonical (s.ringWrite g n j x lateRec) :=
  .ite h.recordDone h.agentCells.agentWrite.recordDone

theorem Canonical.ringRecord {s : State} {g n j x} (h : Canonical s) : Canonical (s.ringRecord g n j x) :=
  .ite h.modGySlot (.ite h.recordDone (.ite h.agentRead.agentRead.ringWrite
    (.ite h.agentRead.agentRead.ringWrite (.ite h.agentRead.agentRead.recordDone h.agentRead.agentRead.modGySlot))))

theorem Canonical.linkQueue {s : State} {link lane fmt bits time} (h : Canonical s) :
    Canonical (s.linkQueue link lane fmt bits time) :=
  .ite h h.update

theorem Canonical.gyOutput {s : State} {g n j x} (h : Canonical s) : Canonical (s.gyOutput g n j x) :=
  .ite h.ringRecord (.ite h.recordDone (.ite ((h.foldl fun _ _ h => h.linkQueue.modGySlot).recordDone) h.modGySlot))

theorem Canonical.zeroSome {s : State} {g n sel} (h : Canonical s) : Canonical (s.zeroSome g n sel) :=
  h.foldl fun _ _ h => .ite h.stampRead.linkQueue h

theorem Canonical.zeroLinks {s : State} {g n} (h : Canonical s) : Canonical (s.zeroLinks g n) :=
  h.zeroSome

theorem Canonical.zeroDrives {s : State} {g n} (h : Canonical s) : Canonical (s.zeroDrives g n) :=
  h.zeroSome

/-! ### GeyserRun: Ramps and aborts (R334, R335) -/

theorem Canonical.finishRamp {s : State} {g n e} (h : Canonical s) : Canonical (s.finishRamp g n e) := by
  simp only [State.finishRamp]
  split
  · exact h.modGySlot.zeroLinks
  · exact h.modGySlot.zeroDrives.gyComplete
  · exact h.modGySlot.zeroDrives.modGySlot.gyComplete

theorem Canonical.ltrUpdate {s : State} (h : Canonical s) : Canonical s.ltrUpdate :=
  h.foldl fun _ _ h => .ite h.modCfg.emit h

theorem Canonical.gyAbort {s : State} {g n code} (h : Canonical s) : Canonical (s.gyAbort g n code) := by
  simp only [State.gyAbort]
  split
  · exact h.setGySlot.gyStreamPost.ltrUpdate.modGySlot
  · exact .ite h.setGySlot.gyStreamPost.ltrUpdate.modGySlot h.setGySlot.gyStreamPost.ltrUpdate.zeroLinks

theorem Canonical.gyEmergencyOne {s : State} {g n} (h : Canonical s) : Canonical (s.gyEmergencyOne g n) := by
  simp only [State.gyEmergencyOne]
  split
  · exact h
  split
  · exact (Canonical.ite h.setGySlot.gyStreamPost h).finishRamp
  · exact .ite h.setGySlot.gyStreamPost h

theorem Canonical.gyEmergency {s : State} (h : Canonical s) : Canonical s.gyEmergency :=
  (h.foldl fun _ _ h => .ite h.gyEmergencyOne.zeroLinks h.gyEmergencyOne).ltrUpdate

/-! ### GeyserRun: Stages (R328) -/

theorem Canonical.setStage {s : State} {g n i st} (h : Canonical s) : Canonical (s.setStage g n i st) :=
  h.modGySlot

theorem Canonical.measure {s : State} {g n i x} (h : Canonical s) : Canonical (s.measure g n i x).1 :=
  Canonical.foldlFst h fun p _ h => by
    obtain ⟨t, ab⟩ := p
    dsimp only
    split
    · exact Canonical.modGySlot (Canonical.setStage h)
    · exact h

theorem Canonical.gyDeliver {s : State} {g n i x} (h : Canonical s) : Canonical (s.gyDeliver g n i x).1 :=
  (((h.foldl fun _ _ h => Canonical.ite h.setStage h).measure).foldl fun _ _ h =>
    Canonical.ite h.gyInput h).foldl fun _ _ h => .ite h.gyOutput h

theorem Canonical.gyResult {s : State} {g n i r time arr} (h : Canonical s) :
    Canonical (s.gyResult g n i r time arr) := by
  unfold State.gyResult
  extract_lets y s1 ramped flushed s2 recs
  have h2 : Canonical s2 := h.setStage.modGySlot.modGy
  split
  next s3 ab e =>
  have h3 : Canonical s3 := .fst (Canonical.foldlFst h2 fun _ _ h => by exact h.gyDeliver) e
  extract_lets s4
  have h4 : Canonical s4 := h3.foldl fun _ _ h => h.gyStreamPost
  split
  · exact .ite h4.gyAbort h4
  · exact h4

theorem Canonical.stageRun {s : State} {g n i x} (h : Canonical s) : Canonical (s.stageRun g n i x) := by
  simp only [State.stageRun]
  split
  · exact h.setGySlot.setStage.gyResult
  · exact h.setGySlot.setStage.stampRead.gyResult

theorem Canonical.stageValue {s : State} {g n i} (h : Canonical s) : Canonical (s.stageValue g n i) := by
  simp only [State.stageValue]
  split
  · exact h
  split
  · split
    · split
      · exact h
      split
      · exact h.stageRun
      split
      · exact h.stageRun
      · exact h
    · exact .ite h.stageRun h
  · exact .ite (.ite h.stageRun h.stampRead.gyDeliver) h

theorem Canonical.ringRecheck {s : State} {g n j} (h : Canonical s) : Canonical (s.ringRecheck g n j) :=
  .ite h (h.setGySlot.foldl fun _ _ h => h.ringRecord)

theorem Canonical.dmaRecord {s : State} {g n j cons} (h : Canonical s) : Canonical (s.dmaRecord g n j cons) := by
  unfold State.dmaRecord
  extract_lets y d o base idx c f
  split
  · exact h
  extract_lets s1 done cells s2 p s3 write
  have h1 : Canonical s1 := h.setGySlot
  have hdone : ∀ {t prod lost failed delivered}, Canonical t → Canonical (done t prod lost failed delivered) :=
    fun h => .ite h.recordDone.signal h.recordDone
  have hwrite : ∀ late, Canonical (write late) := fun _ => hdone h1.emit.emit.modGySlot
  refine .ite h ?_
  split
  · exact hdone h1
  · exact .ite (hdone h1) (.ite (hwrite _) (.ite (hwrite _) (.ite (hdone h1) h)))

theorem Canonical.sourceTimeout {s : State} {g n} (h : Canonical s) : Canonical (s.sourceTimeout g n) :=
  .ite h.gyAbort h

/-! ### GeyserCmd: LOAD (R304, R311, R312) -/

theorem Canonical.gyMeshFail {s : State} {g c pa} (h : Canonical s) : Canonical (s.gyMeshFail g c pa) :=
  h.meshLost.gyComplete

theorem Canonical.gyLoadCmd {s : State} {g c mesh} (h : Canonical s) : Canonical (s.gyLoadCmd g c mesh) := by
  unfold State.gyLoadCmd
  split
  · exact h.gyMeshFail
  · exact h.gyComplete
  · exact h.setGySlot.agentBytes.gyComplete

/-! ### GeyserCmd: RUN and CLEAR (R301, R316, R327, R333) -/

theorem Canonical.seedStages {s : State} {g n} (h : Canonical s) : Canonical (s.seedStages g n) :=
  h.foldl fun _ _ h => .ite h.setStage h

theorem Canonical.gyRunCmd {s : State} {g c} (h : Canonical s) : Canonical (s.gyRunCmd g c) :=
  .ite h.gyComplete (.ite h.gyComplete h.setGySlot.seedStages.gyComplete)

theorem Canonical.gyClearCmd {s : State} {g c} (h : Canonical s) : Canonical (s.gyClearCmd g c) :=
  h.setGySlot.modGy.seedStages.gyComplete

/-! ### GeyserCmd: PAUSE and STOP (R303, R334) -/

theorem Canonical.gyEndCmd {s : State} {g c e st} (h : Canonical s) : Canonical (s.gyEndCmd g c e st) :=
  .ite h.setGySlot.modGySlot h.setGySlot.finishRamp

/-! ### GeyserCmd: RELOAD and TRIG (R308, R332) -/

theorem Canonical.gyReloadCmd {s : State} {g c} (h : Canonical s) : Canonical (s.gyReloadCmd g c) :=
  .ite h.gyComplete h.setStage.gyComplete

theorem Canonical.gyTrigCmd {s : State} {g c} (h : Canonical s) : Canonical (s.gyTrigCmd g c) :=
  .ite h.gyComplete h.setStage.gyComplete

/-! ### GeyserCmd: LOADSM and READSM (R301) -/

theorem Canonical.readUnits {s : State} {g pk u a n} (h : Canonical s) : Canonical (s.readUnits g pk u a n) := by
  induction n generalizing s u a with
  | zero => exact h
  | succ n ih => exact .ite (ih h.agentPut.agentPut) (ih h.agentPut)

theorem Canonical.gySmCmd {s : State} {g c read mesh} (h : Canonical s) : Canonical (s.gySmCmd g c read mesh) := by
  unfold State.gySmCmd
  refine .ite h.gyMeshFail (.ite h.gyComplete ?_)
  have h1 := h.agentRead (pa := c.pay)
  refine .ite h1.gyComplete (.ite h1.gyComplete (.ite h1.gyComplete (.ite h1.gyComplete ?_)))
  refine .ite (.ite h1.gyComplete h1.readUnits.gyComplete) ?_
  exact .ite h1.gyComplete h1.agentBytes.modGy.gyComplete

/-! ### GeyserCmd: Commands in order (R300, R302, R303) -/

theorem Canonical.gyExec {s : State} {g c mesh} (h : Canonical s) : Canonical (s.gyExec g c mesh) := by
  unfold State.gyExec
  refine .ite h.gyComplete (.ite h.gyComplete (.ite h.gySmCmd (.ite h.gySmCmd ?_)))
  refine .ite h.gyComplete (.ite h.gyComplete (.ite h.gyComplete ?_))
  refine .ite h.gyLoadCmd (.ite h.gyRunCmd (.ite h.gyEndCmd (.ite h.gyEndCmd ?_)))
  exact .ite h.gyReloadCmd (.ite h.gyClearCmd h.gyTrigCmd)

theorem Canonical.gyPower {s : State} {g} (h : Canonical s) : Canonical (s.gyPower g) :=
  h.setDomain.pllsAfter

theorem Canonical.gyTake {s : State} {g l kept} (h : Canonical s) : Canonical (s.gyTake g l kept) := by
  induction l generalizing s kept with
  | nil => exact h.modGy.gyPower.ltrUpdate
  | cons c l ih => exact .ite (ih h) (ih h.gyExec)

theorem Canonical.gyDrain {s : State} {g} (h : Canonical s) : Canonical (s.gyDrain g) :=
  h.gyTake

theorem Canonical.gyWrite {s : State} {g c mesh} (h : Canonical s) : Canonical (s.gyWrite g c mesh) :=
  .ite h (.ite h.setGy (.ite h.setGy h.setGy.gyDrain))

theorem Canonical.rampEnd {s : State} {g n} (h : Canonical s) : Canonical (s.rampEnd g n) := by
  simp only [State.rampEnd]
  split
  · exact .ite h.finishRamp.gyDrain h
  · exact h

/-! ### GeyserCmd: Register values (R299) -/

theorem Canonical.gyRead {s : State} {g off} (h : Canonical s) : Canonical (s.gyRead g off).2 := by
  simp only [State.gyRead]
  split
  · exact h
  split
  · exact h
  split
  · exact h.modGy
  split
  · split
    · exact h
    split
    · exact h.setGySlot
    · exact h
  · exact h

theorem Canonical.gyPut {s : State} {g off v} (h : Canonical s) : Canonical (s.gyPut g off v) :=
  .ite h.gyWrite (.ite h.modGy h)

/-! ### Links: Access -/

theorem Canonical.setLink {s : State} {n l} (h : Canonical s) : Canonical (s.setLink n l) :=
  h.update

theorem Canonical.modLink {s : State} {n f} (h : Canonical s) : Canonical (s.modLink n f) :=
  h.setLink

/-! ### Links: Events (R352) -/

theorem Canonical.linkKick {s : State} {n} (h : Canonical s) : Canonical (s.linkKick n) :=
  .ite h.setLink h

theorem Canonical.linkFall {s : State} {n} (h : Canonical s) : Canonical (s.linkFall n) :=
  h.setLink.linkKick

theorem Canonical.kickLinks {s : State} (h : Canonical s) : Canonical s.kickLinks :=
  h.foldl fun _ _ h => h.linkKick

theorem Canonical.linksDown {s : State} (h : Canonical s) : Canonical s.linksDown :=
  h.foldl fun _ _ h => .ite h h.linkFall

theorem Canonical.jtagReset {s : State} (h : Canonical s) : Canonical s.jtagReset :=
  h.update

theorem Canonical.ioWatch {s : State} (h : Canonical s) : Canonical s.ioWatch :=
  have h1 := Canonical.ite h h.jtagReset
  .ite h1.kickLinks h1.linksDown

/-! ### Links: Frames (R340 to R344) -/

theorem Canonical.linkSend {s : State} {n type valid first cnt fmt payload time} (h : Canonical s) :
    Canonical (s.linkSend n type valid first cnt fmt payload time) :=
  h.setLink.emit

theorem Canonical.ctrlSend {s : State} {n} (h : Canonical s) : Canonical (s.ctrlSend n) := by
  simp only [State.ctrlSend]
  split
  · exact .ite h.setLink.linkSend h
  · exact h

/-! ### Links: Sending -/

theorem Canonical.trainSend {s : State} {n} (h : Canonical s) : Canonical (s.trainSend n) :=
  .ite h h.stampError.setLink.emit

theorem Canonical.samplesSend {s : State} {n} (h : Canonical s) : Canonical (s.samplesSend n) := by
  simp only [State.samplesSend]
  split
  · exact h
  · exact .ite h h.setLink.linkSend

theorem Canonical.timeSend {s : State} {n} (h : Canonical s) : Canonical (s.timeSend n) :=
  .ite h h.stamp.setLink.linkSend

theorem Canonical.creditIn {s : State} {n k} (h : Canonical s) : Canonical (s.creditIn n k) :=
  .ite h h.setLink.ctrlSend

/-! ### Links: Receiving (R350) -/

theorem Canonical.creditOut {s : State} {n} (h : Canonical s) : Canonical (s.creditOut n) :=
  .ite h (.ite h.fresh h.fresh.setLink.emit)

theorem Canonical.takeSamples {s : State} {n fmt valid time k lane b} (h : Canonical s) :
    Canonical (s.takeSamples n fmt valid time k lane b) := by
  induction k generalizing s valid lane b with
  | zero => exact h
  | succ k ih => exact ih h.linkSample

theorem Canonical.samplesIn {s : State} {n b} (h : Canonical s) : Canonical (s.samplesIn n b) := by
  simp only [State.samplesIn]
  refine Canonical.takeSamples ?_
  refine Canonical.ringFrame ?_
  split
  · exact h
  · exact h.stamp

theorem Canonical.trainIn {s : State} {n b} (h : Canonical s) : Canonical (s.trainIn n b) := by
  unfold State.trainIn
  extract_lets l p byte vmax l1
  refine .ite h.setLink (.ite ?_ h.setLink)
  refine .ite h.setLink ?_
  split
  next s0 e0 =>
  have h0 : Canonical s0 := h.stampError.snd e0
  extract_lets t4 x
  split
  next s1 e1 =>
  have h1 : Canonical s1 := Canonical.snd (.iteSnd h (.iteSnd (by exact h0) (by exact h0.fresh))) e1
  exact h1.setLink

theorem Canonical.ctrlIn {s : State} {n b} (h : Canonical s) : Canonical (s.ctrlIn n b) := by
  simp only [State.ctrlIn]
  split
  · exact h.setLink
  · exact h

theorem Canonical.statIn {s : State} {n b} (h : Canonical s) : Canonical (s.statIn n b) :=
  h.setLink

theorem Canonical.linkReceive {s : State} {n fr} (h : Canonical s) : Canonical (s.linkReceive n fr) := by
  unfold State.linkReceive
  extract_lets l b type reject seq gap s1 s2
  have hreject : ∀ l, Canonical (reject l) := fun _ => h.setLink.creditOut
  have h2 : Canonical s2 := .ite h.setLink.samplesIn (.ite h.setLink.ctrlIn h.setLink.statIn)
  refine .ite h (.ite (hreject _) (.ite (hreject _) (.ite (hreject _) ?_)))
  exact .ite h.trainIn (.ite h (.ite h.setLink h2.creditOut))

/-! ### Links: Timers and losses -/

theorem Canonical.linkLoss {s : State} {n c} (h : Canonical s) : Canonical (s.linkLoss n c) := by
  simp only [State.linkLoss]
  split
  · exact h
  split
  · exact .ite h.setLink.linkFall h.setLink
  · exact h.linkFall

theorem Canonical.trainTimeout {s : State} {n} (h : Canonical s) : Canonical (s.trainTimeout n) :=
  .ite h.linkFall h

theorem Canonical.noverRetrain {s : State} {n} (h : Canonical s) : Canonical (s.noverRetrain n) :=
  .ite h.setLink h

theorem Canonical.aligned {s : State} {n} (h : Canonical s) : Canonical (s.aligned n) :=
  .ite h.setLink h

theorem Canonical.ctrlTimeout {s : State} {n} (h : Canonical s) : Canonical (s.ctrlTimeout n) := by
  simp only [State.ctrlTimeout]
  split
  · exact .ite h.setLink h
  · exact h

/-! ### Links: Registers (R354, R356) -/

theorem Canonical.slctlWrite {s : State} {n v} (h : Canonical s) : Canonical (s.slctlWrite n v) :=
  .ite h.modLink.linkFall h.modLink.linkKick

theorem Canonical.slcmbWrite {s : State} {n v} (h : Canonical s) : Canonical (s.slcmbWrite n v) :=
  .ite h (.ite h.setLink h.setLink.ctrlSend)

theorem Canonical.linkRead {s : State} {n off} (h : Canonical s) : Canonical (s.linkRead n off).2 := by
  simp only [State.linkRead]
  split
  · exact h
  split
  · exact h
  split
  · exact h.setLink
  · exact h

theorem Canonical.linkPut {s : State} {n off v} (h : Canonical s) : Canonical (s.linkPut n off v) :=
  .ite h.slctlWrite (.ite h.slcmbWrite h)

theorem Canonical.stepGtc {s : State} {v} (h : Canonical s) : Canonical (s.stepGtc v) :=
  .ite h h.update

theorem Canonical.gtcPut {s : State} {vent off v} (h : Canonical s) : Canonical (s.gtcPut vent off v) :=
  .ite h (.ite h.update (.ite h.stepGtc h))

/-! ### Links: IEEE 1588 (R360, R361) -/

theorem Canonical.modTime {s : State} {f} (h : Canonical s) : Canonical (s.modTime f) :=
  h.update

theorem Canonical.servo {s : State} {o} (h : Canonical s) : Canonical (s.servo o) :=
  .ite h.modTime.modTime (.ite h.modTime.fresh.modTime.stepGtc h.modTime.fresh.modTime)

theorem Canonical.syncDone {s : State} {port t1 t2} (h : Canonical s) : Canonical (s.syncDone port t1 t2) :=
  h.servo.stamp.modTime.emit

theorem Canonical.ptpSync {s : State} {port m} (h : Canonical s) : Canonical (s.ptpSync port m) :=
  .ite h (.ite h.stamp.modTime h.stamp.syncDone)

theorem Canonical.ptpGeneral {s : State} {port x} (h : Canonical s) : Canonical (s.ptpGeneral port x) := by
  unfold State.ptpGeneral
  split
  · split
    · exact h
    split
    · exact .ite h.modTime (.ite h.modTime h)
    · exact h.modTime
  · split
    · exact h
    split
    · exact .ite h.syncDone h
    · exact h
  split
  · exact h
  split
  · exact .ite h.modTime h
  · exact h

theorem Canonical.ptpConfig {s : State} (h : Canonical s) : Canonical s.ptpConfig :=
  h.modTime

theorem Canonical.ptpExpire {s : State} (h : Canonical s) : Canonical s.ptpExpire :=
  .ite h.ptpConfig h

theorem Canonical.linksDrain {s : State} (h : Canonical s) : Canonical s.linksDrain :=
  h.foldl fun _ _ h => h.creditOut

/-! ### Panel -/

theorem Canonical.modPanel {s : State} {f} (h : Canonical s) : Canonical (s.modPanel f) :=
  h.update

theorem Canonical.setPanelInput {s : State} {g i x} (h : Canonical s) : Canonical (s.setPanelInput g i x) :=
  h.modPanel

/-! ### Panel: Events (R441 to R443) -/

theorem Canonical.eventIn {s : State} {w time} (h : Canonical s) : Canonical (s.eventIn w time) :=
  .ite h.modPanel.wakeTo h.modPanel

theorem Canonical.panelEvent {s : State} {code group input st count time} (h : Canonical s) :
    Canonical (s.panelEvent code group input st count time) :=
  .ite h.eventIn (.ite h.modPanel h.eventIn)

theorem Canonical.pnevtRead {s : State} (h : Canonical s) : Canonical (s.pnevtRead).2 := by
  simp only [State.pnevtRead]
  split
  · exact h
  split
  · exact h.modPanel.modPanel.eventIn
  · exact h.modPanel

/-! ### Panel: Scans (R435 to R440) -/

theorem Canonical.addGlitch {s : State} {g} (h : Canonical s) : Canonical (s.addGlitch g) :=
  h.modPanel

theorem Canonical.acceptChange {s : State} {g i r time} (h : Canonical s) : Canonical (s.acceptChange g i r time) :=
  .ite h.setPanelInput.panelEvent (.ite h.setPanelInput.panelEvent (.ite h.setPanelInput.panelEvent h.setPanelInput))

theorem Canonical.holdInput {s : State} {g i time} (h : Canonical s) : Canonical (s.holdInput g i time) :=
  .ite h.setPanelInput.panelEvent h.setPanelInput

theorem Canonical.windowEnd {s : State} {g i time} (h : Canonical s) : Canonical (s.windowEnd g i time) :=
  have h1 := h.setPanelInput
  .ite h1 (.ite h1.panelEvent h1.panelEvent)

theorem Canonical.scanInput {s : State} {g i r latch last time} (h : Canonical s) :
    Canonical (s.scanInput g i r latch last time) :=
  have h2 := (Canonical.ite h.addGlitch h).setPanelInput
  have h3 := Canonical.ite h2.acceptChange (.ite h2.holdInput h2)
  .ite h3.windowEnd h3

theorem Canonical.keyToDict {s : State} (h : Canonical s) : Canonical s.keyToDict :=
  h.update

theorem Canonical.panelScan {s : State} {p} (h : Canonical s) : Canonical (s.panelScan p) :=
  (h.foldl fun _ _ h => h.foldl fun _ _ h => h.scanInput).modPanel.keyToDict

theorem Canonical.acceptedChange {s : State} {g i} (h : Canonical s) : Canonical (s.acceptedChange g i) :=
  .ite h.setPanelInput.acceptChange.keyToDict h

theorem Canonical.stuckSet {s : State} {g i} (h : Canonical s) : Canonical (s.stuckSet g i) :=
  .ite h.holdInput.keyToDict h

theorem Canonical.groupWindowEnd {s : State} {g} (h : Canonical s) : Canonical (s.groupWindowEnd g) :=
  .ite (h.foldl fun _ _ h => h.windowEnd) h

/-! ### Panel: Emergency stop (R444 to R448) -/

theorem Canonical.estopForce {s : State} {channel} (h : Canonical s) : Canonical (s.estopForce channel) :=
  .ite h h.modPanel.panelEvent.gyEmergency.ioWatch

theorem Canonical.estopSample {s : State} {aHigh bHigh aPulse bPulse} (h : Canonical s) :
    Canonical (s.estopSample aHigh bHigh aPulse bPulse) :=
  have h1 := Canonical.ite h.addGlitch h
  have h2 := Canonical.ite h1.addGlitch h1
  .ite h2.modPanel.estopForce (.ite h2.modPanel.estopForce h2.modPanel)

theorem Canonical.estopRelease {s : State} (h : Canonical s) : Canonical s.estopRelease :=
  .ite h.modPanel h

theorem Canonical.discrepancy {s : State} (h : Canonical s) : Canonical s.discrepancy :=
  .ite h.modPanel.panelEvent.logErr h

theorem Canonical.estopReset {s : State} (h : Canonical s) : Canonical s.estopReset :=
  h.modPanel.panelEvent.ioWatch

/-! ### Panel: LEDs and buzzer (R444, R449) -/

theorem Canonical.buzzer {s : State} {n} (h : Canonical s) : Canonical (s.buzzer n) :=
  h.modPanel

theorem Canonical.buzzerExpiry {s : State} (h : Canonical s) : Canonical s.buzzerExpiry := by
  unfold State.buzzerExpiry
  split
  · exact .ite h.modPanel h
  · exact h

/-! ### Panel: Registers (R450) -/

theorem Canonical.panelRead {s : State} {off} (h : Canonical s) : Canonical (s.panelRead off).2 := by
  unfold State.panelRead
  split
  · exact h.pnevtRead
  split
  · exact h
  split
  · exact h
  split
  · exact h
  split
  · exact h
  split
  · exact h
  · exact h

/-! ### Retire -/

theorem Canonical.recordFault {s : State} {n} (h : Canonical s) : Canonical (s.recordFault n) :=
  h.evictCtx.setRecs.sleepAs.post.logErr.fresh.notice

theorem Canonical.losePoison {s : State} {g} (h : Canonical s) : Canonical (s.losePoison g) :=
  h.recall.setPoison

theorem Canonical.hbmCorrected {s : State} {g} (h : Canonical s) : Canonical (s.hbmCorrected g) :=
  h.countUp.logCoalesced

theorem Canonical.hbmLost {s : State} {g} (h : Canonical s) : Canonical (s.hbmLost g) :=
  h.losePoison.countUp.logErr.modDep

theorem Canonical.modL2 {s : State} {k f} (h : Canonical s) : Canonical (s.modL2 k f) :=
  h.update

theorem Canonical.eccFound {s : State} {k g ev} (h : Canonical s) : Canonical (s.eccFound k g ev) := by
  simp only [State.eccFound]
  split
  · exact h
  · exact h.modL2.logCoalesced
  · exact .ite h.l2Drop.modL2.logErr h
  · exact .ite h.modL2.losePoison.logErr h
  · exact h.hbmCorrected
  · exact h.hbmLost

theorem Canonical.eccAgent {s : State} {g ev} (h : Canonical s) : Canonical (s.eccAgent g ev) := by
  unfold State.eccAgent
  split
  · exact h.eccFound
  · exact .ite h.eccFound h

theorem Canonical.eccIn {s : State} {gs l} (h : Canonical s) : Canonical (s.eccIn gs l) :=
  .ite h (h.foldl fun _ _ h => h.eccAgent)

theorem Canonical.eccFinds {s : State} {pa n l} (h : Canonical s) : Canonical (s.eccFinds pa n l) :=
  .ite h h.eccIn

theorem Canonical.stopCore {s : State} {c badCtx badSectors} (h : Canonical s) :
    Canonical (s.stopCore c badCtx badSectors) := by
  simp only [State.stopCore]
  refine (Canonical.foldl ?_ fun _ _ h => .ite h.modCore.losePoison.fresh.logErr h).writeBackAll.drainMerge
  refine h.foldl fun _ _ h => ?_
  split
  · exact h
  · exact .ite h.recordFault h.evict

theorem Canonical.pickBad {s : State} {l} (h : Canonical s) : Canonical (s.pickBad l).2 := by
  induction l generalizing s with
  | nil => exact h
  | cons x l ih => exact ih h.fresh

theorem Canonical.retireCore {s : State} {c badCtx badSectors} (h : Canonical s) :
    Canonical (s.retireCore c badCtx badSectors) := by
  simp only [State.retireCore]
  split
  · exact h
  split
  · exact ((h.stopCore.foldl fun _ _ h => h.modAux).modCore.modDep.setDomain.foldl fun _ _ h =>
      h.fill.treatFill).setDomain.pllsAfter.logErr
  · exact (h.stopCore.foldl fun _ _ h => h.modAux).setCore.modDep.dropFromPass.setDomain.pllsAfter.logErr.mcFinish

theorem Canonical.retire {s : State} {c} (h : Canonical s) : Canonical (s.retire c) :=
  h.pickBad.pickBad.retireCore

theorem Canonical.replayGood {s : State} {c} (h : Canonical s) : Canonical (s.replayGood c) :=
  h.modDep.logCoalesced

theorem Canonical.replayBad {s : State} {c n} (h : Canonical s) : Canonical (s.replayBad c n).2 :=
  h.modDep.logErr.modCore

/-! ### PowerState: Domains and PLLs (R454, R457, R459) -/

theorem Canonical.setPs {s : State} {ps} (h : Canonical s) : Canonical (s.setPs ps) :=
  h.modPower.pllsAfter

theorem Canonical.refreshDomains {s : State} (h : Canonical s) : Canonical s.refreshDomains :=
  h.setPs

theorem Canonical.pllLock {s : State} {i} (h : Canonical s) : Canonical (s.pllLock i) :=
  .ite h.modPower h

/-! ### PowerState: Conditions and selection (R458, R462, R463) -/

theorem Canonical.tolWake {s : State} (h : Canonical s) : Canonical s.tolWake := by
  simp only [State.tolWake]
  split
  · exact h
  split
  · exact h.modPower
  split
  · exact .ite h h.modPower
  · exact h

theorem Canonical.evaluate {s : State} (h : Canonical s) : Canonical s.evaluate :=
  .ite h h.modPower.tolWake

theorem Canonical.dwellExpiry {s : State} (h : Canonical s) : Canonical s.dwellExpiry :=
  .ite h.modPower h

/-! ### PowerState: Rails (R468 to R470) -/

theorem Canonical.lowerRails {s : State} {f} (h : Canonical s) : Canonical (s.lowerRails f) :=
  h.modPower.ioWatch

theorem Canonical.raiseRails {s : State} {f} (h : Canonical s) : Canonical (s.raiseRails f) :=
  h.modPower.ioWatch

theorem Canonical.seqGo {s : State} {n k} (h : Canonical s) : Canonical (State.seqGo n k s) := by
  induction n generalizing s k with
  | zero => exact h.modPower
  | succ n ih => exact .ite (ih h.modPower) h.modPower.modPower

theorem Canonical.sequenceUp {s : State} (h : Canonical s) : Canonical s.sequenceUp :=
  .ite h h.modPower.seqGo.ioWatch

theorem Canonical.railGood {s : State} {g} (h : Canonical s) : Canonical (s.railGood g) := by
  simp only [State.railGood]
  split
  · exact .ite h.modPower.seqGo.ioWatch h.modPower.modPower
  · exact h.modPower

theorem Canonical.sequenceDown {s : State} (h : Canonical s) : Canonical s.sequenceDown :=
  .ite h.lowerRails (.ite h.lowerRails (.ite h.lowerRails h))

/-! ### PowerState: Entry (R464) -/

theorem Canonical.coreDown {s : State} {c} (h : Canonical s) : Canonical (s.coreDown c) :=
  h.stopCore.modCore.dropFromPass

theorem Canonical.enterPs2 {s : State} (h : Canonical s) : Canonical s.enterPs2 :=
  (h.foldl fun _ _ h => h.coreDown).update.modDep.mcFinish.setPs

theorem Canonical.trimCrystal {s : State} (h : Canonical s) : Canonical s.trimCrystal :=
  .ite h h.fresh.update

theorem Canonical.enterPs3 {s0 : State} (h : Canonical s0) : Canonical s0.enterPs3 :=
  h.trimCrystal.update.modPower.setPs

theorem Canonical.enterPs4 {s : State} (h : Canonical s) : Canonical s.enterPs4 := by
  unfold State.enterPs4
  exact h.dropVents.modDep.setPs.linksDown.lowerRails

theorem Canonical.finishCommits {s : State} {n} (h : Canonical s) : Canonical (s.finishCommits n) := by
  induction n generalizing s with
  | zero => exact h
  | succ n ih => exact ih h.commitComplete

theorem Canonical.enterPs5 {s : State} (h : Canonical s) : Canonical s.enterPs5 := by
  unfold State.enterPs5
  exact h.finishCommits.accept.finishCommits.setPs.lowerRails

theorem Canonical.enterOne {s : State} {ps} (h : Canonical s) : Canonical (s.enterOne ps) :=
  .ite h.enterPs2 (.ite h.enterPs3 (.ite h.enterPs4 h.enterPs5))

theorem Canonical.enterState {s : State} {n} (h : Canonical s) : Canonical (s.enterState n) := by
  unfold State.enterState
  split
  · refine .ite h (.ite h.modPower ?_)
    extract_lets t
    have ht : Canonical t := h.foldl fun _ _ h => h.enterOne
    exact .ite ht.modPower ht
  · exact h

/-! ### PowerState: Exit from PS4, PS3 and PS2 (R464) -/

theorem Canonical.ventRun {s : State} {v} (h : Canonical s) : Canonical (s.ventRun v) :=
  h.setCore.setAux.setRecField

theorem Canonical.startVents {s : State} (h : Canonical s) : Canonical s.startVents :=
  h.setDomain.modDep.foldl fun _ _ h => .ite h h.ventRun

theorem Canonical.leavePs4 {s : State} (h : Canonical s) : Canonical s.leavePs4 :=
  have h1 := h.raiseRails.startVents.setPs
  (Canonical.ite h1.modPower h1).kickLinks

theorem Canonical.leavePs3 {s : State} (h : Canonical s) : Canonical s.leavePs3 :=
  h.update.modPower.setPs

theorem Canonical.leavePs2 {s : State} (h : Canonical s) : Canonical s.leavePs2 :=
  (h.setPs.foldl fun _ _ h => h.modCore).foldl fun _ _ h => .ite h.modCore h

theorem Canonical.leaveOne {s : State} {ps} (h : Canonical s) : Canonical (s.leaveOne ps) :=
  .ite h.leavePs4 (.ite h.leavePs3 h.leavePs2)

theorem Canonical.leaveTo {s : State} {t} (h : Canonical s) : Canonical (s.leaveTo t) :=
  (h.foldl fun _ _ h => h.leaveOne).modPower

/-! ### PowerState: Preparation of a wake (R466) -/

theorem Canonical.wakePrepare {s : State} {n} (h : Canonical s) : Canonical (s.wakePrepare n) := by
  unfold State.wakePrepare
  refine .ite h (.ite h.wakeTo ?_)
  split
  · exact h.ungate
  · exact h

theorem Canonical.gateCore {s : State} {c} (h : Canonical s) : Canonical (s.gateCore c) :=
  .ite h.modCore h

/-! ### PowerState: Power fail and rail faults (R376, R470, R476) -/

theorem Canonical.commitErrors {s : State} (h : Canonical s) : Canonical s.commitErrors :=
  h.tuffWrite.modDep

theorem Canonical.mainDown {s : State} : Canonical s.mainDown :=
  Canonical.modPower (Canonical.foldl (Canonical.dropCores (Canonical.modDep Canonical.empty)) fun _ _ h =>
    h.setDomain)

theorem Canonical.powerFail {s : State} {staged} : Canonical (s.powerFail staged) :=
  Canonical.mainDown

theorem Canonical.railsFail {s : State} {staged trip} (h : Canonical s) : Canonical (s.railsFail staged trip) :=
  (Canonical.ite (Canonical.finishStage (Canonical.countUp .powerFail))
    (.ite h.finishStage h)).lowerRails.dropCores.modPower

theorem Canonical.railDown {s : State} {g staged} (h : Canonical s) : Canonical (s.railDown g staged) :=
  h.railsFail.countUp.logErr.commitErrors

theorem Canonical.railFault {s : State} {g staged} (h : Canonical s) : Canonical (s.railFault g staged) :=
  .ite h h.railDown

theorem Canonical.thermalTrip {s : State} {k staged} (h : Canonical s) : Canonical (s.thermalTrip k staged) :=
  .ite h (.ite (.ite h h.countUp.logErr.commitErrors.modPower) h.railsFail.countUp.logErr.commitErrors)

/-! ### PowerState: Temperature (R473 to R475) -/

theorem Canonical.sensor {s : State} {k mk} (h : Canonical s) : Canonical (s.sensor k mk) :=
  .ite h.modPower.modAux.checkInterrupts h.modPower

theorem Canonical.sensorRead {s : State} {mk} (h : Canonical s) : Canonical (s.sensorRead mk) := by
  unfold State.sensorRead
  refine h.foldUp fun _ _ h => ?_
  split
  · exact h.sensor
  · exact h

theorem Canonical.throttleTo {s : State} {k v} (h : Canonical s) : Canonical (s.throttleTo k v) :=
  h.modPower

theorem Canonical.throttleStep {s : State} {k} (h : Canonical s) : Canonical (s.throttleStep k) :=
  .ite (.ite h.throttleTo h) (.ite h.throttleTo (.ite h.modPower h))

/-! ### PowerState: PMBus (R472) -/

theorem Canonical.pmbPoll {s : State} {r} (h : Canonical s) : Canonical (s.pmbPoll r) :=
  .ite h (.ite h.modPower (.ite h.modPower.fresh.logErr h.modPower))

theorem Canonical.pmbFault {s : State} {r} (h : Canonical s) : Canonical (s.pmbFault r) :=
  .ite h (.ite h.logErr.fresh.railDown h.logErr)

/-! ### PowerState: Registers (R467) -/

theorem Canonical.powerPut {s : State} {off v} (h : Canonical s) : Canonical (s.powerPut off v) :=
  .ite h.modPower.tolWake h

/-! ### Boot -/

theorem Canonical.modBoot {s : State} {f} (h : Canonical s) : Canonical (s.modBoot f) :=
  h.update

theorem Canonical.modDict {s : State} {f} (h : Canonical s) : Canonical (s.modDict f) :=
  h.update

/-! ### Boot: The Smithar image (R512 to R514) -/

theorem Canonical.freshChk {s : State} (h : Canonical s) : Canonical (s.freshChk).2 :=
  h.fresh

/-! ### Boot: Sources (R507) -/

theorem Canonical.firstImage {s : State} {l} (h : Canonical s) : Canonical (s.firstImage l).2 := by
  induction l generalizing s with
  | nil => exact h
  | cons x l ih =>
    obtain ⟨src, _ | img⟩ := x
    · exact ih h.modBoot
    · exact h

/-! ### Boot: Installing and starting an image (R515 to R519) -/

theorem Canonical.loadBody {s : State} {i} (h : Canonical s) : Canonical (s.loadBody i) :=
  h.agentPut.modDep

theorem Canonical.installCores {s : State} {i} (h : Canonical s) : Canonical (s.installCores i) :=
  h.foldl fun _ _ h => h.setCore

theorem Canonical.writeService {s : State} {i kind} (h : Canonical s) : Canonical (s.writeService i kind) :=
  (h.foldUp fun _ _ h => h.agentWrite).foldl fun _ _ h => h.agentWrite

theorem Canonical.dropSubs {s : State} {n} (h : Canonical s) : Canonical (s.dropSubs n) := by
  simp only [State.dropSubs]
  refine h.foldl fun _ _ h => ?_
  split
  · exact h.setChan
  · exact h

theorem Canonical.withdrawOf {s : State} {n} (h : Canonical s) : Canonical (s.withdrawOf n) :=
  h.modDict

theorem Canonical.clearCtx {s : State} {n} (h : Canonical s) : Canonical (s.clearCtx n) :=
  h.evictCtx.dropSubs.unholdAll.wipeCtx

theorem Canonical.startContext {s : State} {i a} (h : Canonical s) : Canonical (s.startContext i a) :=
  have h3 := h.clearCtx.saveRegs.setRec.setRec.setRecField.setRecField.setRecField.makeReady
  .ite h3.evict.fill h3

theorem Canonical.discardPoints {s : State} (h : Canonical s) : Canonical s.discardPoints :=
  .ite h h.modJr.accept.finishCommits

theorem Canonical.restoreFor {s : State} {kind} (h : Canonical s) : Canonical (s.restoreFor kind).2 := by
  unfold State.restoreFor
  split
  · split
    · exact h.restore
    · exact h.discardPoints
  · exact h.restore

theorem Canonical.startImage {s : State} {src i kind} (h : Canonical s) : Canonical (s.startImage src i kind) :=
  have h1 := h.modJr.loadBody.restoreFor.installCores.startVents.setPs
  h1.modPower.modDep.modBoot.writeService.startContext.sendNotices

theorem Canonical.waitHost {s : State} {kind} (h : Canonical s) : Canonical (s.waitHost kind) :=
  h.modFunc.modBoot

theorem Canonical.bootFrom {s : State} {l kind} (h : Canonical s) : Canonical (s.bootFrom l kind) := by
  unfold State.bootFrom
  split
  next src i t e => exact (h.setPs.firstImage.snd e).startImage
  next t e => exact (h.setPs.firstImage.snd e).waitHost

theorem Canonical.hostLoaded {s : State} {v chk} (h : Canonical s) : Canonical (s.hostLoaded v chk) := by
  simp only [State.hostLoaded]
  split
  · exact h
  split
  · exact h.agentBytes.modBoot
  · exact h.agentBytes.modFunc.startImage

/-! ### Boot: Power-on reset (R502, R503, R510, R511) -/

theorem Canonical.cold {s : State} : Canonical s.cold :=
  Canonical.reset.same

theorem Canonical.shadowSafe {s : State} (h : Canonical s) : Canonical s.shadowSafe := by
  unfold State.shadowSafe
  split
  · exact h.setDict.setDict
  · exact h

theorem Canonical.stopBoot {s : State} {step err} (h : Canonical s) : Canonical (s.stopBoot step err) :=
  h.modBoot.modPower

theorem Canonical.repairRows {s : State} {spares} (h : Canonical s) : Canonical (s.repairRows spares) :=
  h.foldl fun _ _ h => .ite h.modDep.countUp.logErr h.logErr

theorem Canonical.latchBase {s : State} {c} (h : Canonical s) : Canonical (s.latchBase c) :=
  .ite h.modDict h

theorem Canonical.setShadow {s : State} (h : Canonical s) : Canonical s.setShadow :=
  h.modBoot

theorem Canonical.restoreDefaults {s : State} (h : Canonical s) : Canonical s.restoreDefaults :=
  h.modJr.modDep

theorem Canonical.readEntries {s : State} (h : Canonical s) : Canonical s.readEntries :=
  have h1 := Canonical.ite h.restoreDefaults h
  (Canonical.ite h1.modDict.setShadow h1.modDict).latchBase.latchBase.ptpConfig.modTime

theorem Canonical.clusterTest {s : State} {bad k} (h : Canonical s) : Canonical (s.clusterTest bad k) := by
  simp only [State.clusterTest]
  refine (Canonical.ite h.modDep.logErr h).foldUp fun _ _ h => ?_
  split
  · exact h
  split
  · exact h.modDep.logErr
  · exact h.modDep.logErr

theorem Canonical.sizeWindows {s : State} (h : Canonical s) : Canonical s.sizeWindows :=
  h.foldUp fun _ _ h => h.modFunc

theorem Canonical.powerOn {s : State} {env} : Canonical (s.powerOn env) := by
  unfold State.powerOn
  extract_lets s1 s2 s3 s4 s5 lvl s6
  have h1 : Canonical s1 := Canonical.shadowSafe (Canonical.modBoot .cold)
  have h2 : Canonical s2 := h1.ventRun.estopSample.estopSample
  have h4 : Canonical s4 := Canonical.repairRows (.ite h2.raiseRails.readEntries.tuffError h2.raiseRails.readEntries)
  have h6 : Canonical s6 := (h4.foldUp fun _ _ h => h.clusterTest).modDep.sizeWindows
  exact .ite h2.stopBoot (.ite h2.stopBoot h6.bootFrom)

theorem Canonical.powerOff {s : State} : Canonical s.powerOff :=
  Canonical.modBoot .cold

/-! ### Boot: Restart, warm reset and exit from PS5 (R378, R504, R507, R380) -/

theorem Canonical.restartMain {s : State} {env kind} (h : Canonical s) : Canonical (s.restartMain env kind) :=
  have h1 := h.update.modPower.modBoot
  (Canonical.ite h1.tuffError h1).bootFrom

theorem Canonical.warmReset {s : State} {env} (h : Canonical s) : Canonical (s.warmReset env) :=
  .ite h (Canonical.restartMain (Canonical.finishStage .powerFail))

theorem Canonical.powerReturn {s : State} {env} (h : Canonical s) : Canonical (s.powerReturn env) :=
  .ite h (Canonical.ite h.finishStage h).restartMain

theorem Canonical.railRestart {s : State} {env} (h : Canonical s) : Canonical (s.railRestart env) := by
  unfold State.railRestart
  refine .ite h ?_
  split
  · exact Canonical.railDown (Canonical.finishStage (Canonical.countUp Canonical.powerFail))
  · exact h.raiseRails.modPower.restartMain

theorem Canonical.leavePs5 {s : State} {env} : Canonical (s.leavePs5 env) :=
  Canonical.kickLinks (Canonical.restartMain (Canonical.modPower (Canonical.raiseRails Canonical.empty)))

theorem Canonical.exitFault {s : State} {g} (h : Canonical s) : Canonical (s.exitFault g) :=
  h.fresh.railDown

theorem Canonical.stateExit {s : State} {env} (h : Canonical s) : Canonical (s.stateExit env) := by
  have hexit : ∀ t, Canonical (if s.power.ps == 5 then s.leavePs5 env else s.leaveTo t) := fun _ =>
    .ite .leavePs5 h.leaveTo
  unfold State.stateExit
  split
  · refine .ite h ?_
    split
    · exact .ite h.exitFault (hexit _)
    · exact hexit _
  · exact h

/-! ### Boot: Per-cluster and per-context reset (R505, R506) -/

theorem Canonical.resetCluster {s : State} {k bad} (h : Canonical s) : Canonical (s.resetCluster k bad) :=
  ((h.foldl fun _ _ h => h.coreDown).update.dirSweep.foldl fun _ _ h => h.retireCore).foldl fun _ _ h => h.modCore

theorem Canonical.clusterReset {s : State} {k bad} (h : Canonical s) : Canonical (s.clusterReset k bad) :=
  have h1 := h.foldl fun _ _ h => h.evict
  .ite h1.resetCluster ((h1.foldl fun _ _ h => h.dropFromPass).modBoot)

theorem Canonical.clusterWrite {s : State} {k bad} (h : Canonical s) : Canonical (s.clusterWrite k bad) :=
  .ite h h.modBoot.clusterReset

theorem Canonical.takeImage {s : State} {c i} (h : Canonical s) : Canonical (s.takeImage c i) :=
  h.writeBackAll.drainMerge.modCore

theorem Canonical.finishMen {s : State} (h : Canonical s) : Canonical s.finishMen := by
  unfold State.finishMen
  split
  · exact h
  · exact h.foldl fun _ _ h => .ite h (Canonical.ite h.takeImage h).modBoot

theorem Canonical.finishStart {s : State} (h : Canonical s) : Canonical s.finishStart := by
  simp only [State.finishStart]
  split
  · exact h
  · exact .ite h (Canonical.ite h.modBoot.modHeap.closeOpenBlocks h.modBoot).startContext

theorem Canonical.finishResets {s : State} (h : Canonical s) : Canonical s.finishResets :=
  h.foldl fun _ _ h => h.modBoot.clusterReset

theorem Canonical.atBoundaries {s : State} (h : Canonical s) : Canonical s.atBoundaries :=
  h.finishResets.finishMen.finishStart

theorem Canonical.ctxReset {s : State} {n} (h : Canonical s) : Canonical (s.ctxReset n) :=
  h.evictCtx.dropSubs.unholdAll.withdrawOf.dropCheckpoint.wipeCtx

/-! ### Host: Functions -/

theorem Canonical.setErrs {s : State} {f verr merr} (h : Canonical s) : Canonical (s.setErrs f verr merr) :=
  .ite h.setFunc.signal h.setFunc

theorem Canonical.mailboxReset {s : State} {f} (h : Canonical s) : Canonical (s.mailboxReset f) :=
  h.modFunc.modDict

theorem Canonical.stopMailbox {s : State} {f} (h : Canonical s) : Canonical (s.stopMailbox f) :=
  h.mailboxReset.modFunc

theorem Canonical.negotiate {s : State} {f} (h : Canonical s) : Canonical (s.negotiate f) :=
  .ite h.modFunc.setErrs h.mailboxReset.modFunc

theorem Canonical.ohpctl {s : State} {f v} (h : Canonical s) : Canonical (s.ohpctl f v) :=
  have h2 := Canonical.ite h.modFunc.mailboxReset h.modFunc
  .ite (.ite h2 h2.negotiate) h2.stopMailbox

theorem Canonical.dbreq {s : State} {f v} (h : Canonical s) : Canonical (s.dbreq f v) :=
  .ite h.setFunc (.ite h.setErrs h.setFunc.wakeTo)

theorem Canonical.dbapp {s : State} {f v chk} (h : Canonical s) : Canonical (s.dbapp f v chk) :=
  have h1 := Canonical.ite h (.ite h.setFunc.post h.setFunc)
  .ite h1.hostLoaded h1

theorem Canonical.hfsig {s : State} {f v} (h : Canonical s) : Canonical (s.hfsig f v) :=
  .ite h (Canonical.ite h.setFunc.signal h.setFunc).signal

theorem Canonical.flushMsix {s : State} {f} (h : Canonical s) : Canonical (s.flushMsix f) :=
  h.foldl fun _ _ h => .ite h.setFunc.emit h

theorem Canonical.tlpLost {s t : State} {f poisoned ecrcBad} (h : Canonical s)
    (e : s.tlpLost f poisoned ecrcBad = some t) :
    Canonical t := by
  unfold State.tlpLost at e
  split at e
  · cases e; exact h.aer
  split at e
  · cases e; exact h.aer
  · cases e

/-! ### Host: The control window (R388) -/

theorem Canonical.ohpPut {s : State} {f off v hi} (h : Canonical s) : Canonical (s.ohpPut f off v hi) :=
  .ite h.setFunc (.ite h (.ite h.ohpctl (.ite h.setErrs (.ite h.dbreq
    (.ite h.setFunc (.ite h.freshChk.dbapp (.ite h.setFunc.tolWake h)))))))

theorem Canonical.controlWrite {s : State} {f off w} (h : Canonical s) : Canonical (s.controlWrite f off w) := by
  simp only [State.controlWrite]
  split
  · exact h
  split
  next t e =>
    exact h.tlpLost e
  · exact .ite h (.ite (.ite h.ohpPut h) h.modFunc.flushMsix)

/-! ### Host: The memory window (R384, R386, R387) -/

theorem Canonical.windowRead {s : State} {f off n mesh} (h : Canonical s) :
    Canonical (s.windowRead f off n mesh) := by
  unfold State.windowRead
  split
  · exact h.emit.aer
  · exact .ite h.agentBytes.meshLost.emit.aer (.ite h.agentBytes.emit.aer h.agentBytes.emit)

theorem Canonical.memRead {s : State} {f off r} (h : Canonical s) : Canonical (s.memRead f off r) := by
  unfold State.memRead
  refine h.foldl fun _ _ h => ?_
  refine Canonical.windowRead ?_
  split
  · exact h.eccFinds
  · exact h

theorem Canonical.refuseRead {s : State} {f} (h : Canonical s) : Canonical (s.refuseRead f) :=
  h.emit.aer

theorem Canonical.controlRead {s : State} {f off n} (h : Canonical s) : Canonical (s.controlRead f off n) :=
  .ite h.refuseRead (.ite h.emit h.emit)

theorem Canonical.configDword {s : State} {f off} (h : Canonical s) : Canonical (s.configDword f off).2 := by
  simp only [State.configDword]
  split
  · exact h
  split
  · exact h
  split
  · exact h
  split
  · exact h
  · exact h.fresh

theorem Canonical.hostRead {s : State} {f off r w} (h : Canonical s) : Canonical (s.hostRead f off r w) := by
  unfold State.hostRead
  split
  · exact h
  split
  · exact h.memRead
  · exact h.controlRead
  · exact h.refuseRead
  · exact h.configDword.emit

theorem Canonical.countDrop {s : State} {f} (h : Canonical s) : Canonical (s.countDrop f) :=
  h.modFunc

theorem Canonical.putGranule {s : State} {f pa data g} (h : Canonical s) : Canonical (s.putGranule f pa data g) :=
  .ite h.countDrop h.agentPut

theorem Canonical.windowWrite {s : State} {f off data} (h : Canonical s) : Canonical (s.windowWrite f off data) := by
  unfold State.windowWrite
  split
  · exact h.countDrop.aer
  · exact h.foldl fun _ _ h => h.putGranule

theorem Canonical.memWrite {s : State} {f off data m} (h : Canonical s) : Canonical (s.memWrite f off data m) := by
  unfold State.memWrite
  split
  · exact h
  split
  next t e =>
    exact h.tlpLost e
  · exact h.foldl fun _ _ h => h.windowWrite

/-! ### Host: The ingest window (R312, R313, R397) -/

theorem Canonical.setIngest {s : State} {k v} (h : Canonical s) : Canonical (s.setIngest k v) :=
  h.update

theorem Canonical.ingestSamples {s : State} {g n key y l k} (h : Canonical s) :
    Canonical (s.ingestSamples g n key y l k) := by
  induction k generalizing s l with
  | zero => exact h
  | succ k ih => exact ih h.gyInput.setIngest

theorem Canonical.addInval {s : State} {g n k} (h : Canonical s) : Canonical (s.addInval g n k) :=
  h.modGySlot

theorem Canonical.ingestGap {s : State} {g n key y k} (h : Canonical s) : Canonical (s.ingestGap g n key y k) := by
  induction k generalizing s with
  | zero => exact h
  | succ k ih => exact ih h.gyInput.addInval.setIngest

theorem Canonical.ingestData {s : State} {g n key y o data} (h : Canonical s) :
    Canonical (s.ingestData g n key y o data) :=
  h.ingestGap.addInval.setIngest.ingestSamples

theorem Canonical.ingestSlot {s : State} {f slot o data} (h : Canonical s) :
    Canonical (s.ingestSlot f slot o data) := by
  simp only [State.ingestSlot]
  split
  · exact h.modFunc
  · exact .ite (.ite h.setIngest h) h.ingestData

theorem Canonical.ingestWrite {s : State} {f off w} (h : Canonical s) : Canonical (s.ingestWrite f off w) := by
  simp only [State.ingestWrite]
  split
  · exact h
  split
  next t e =>
    exact h.tlpLost e
  · exact .ite h (h.foldl fun _ _ h => h.ingestSlot)

/-! ### Host: DMA (R400) -/

theorem Canonical.dmaDone {s : State} {v status value} (h : Canonical s) : Canonical (s.dmaDone v status value) :=
  h.present

theorem Canonical.dmaNext {s : State} {l} (h : Canonical s) : Canonical (s.dmaNext l) := by
  induction l generalizing s with
  | nil => exact h
  | cons x l ih =>
    obtain ⟨v, mesh⟩ := x
    rw [State.dmaNext]
    refine .ite (ih h.dmaDone) (.ite (ih h.dmaDone) (.ite (ih h.meshLost.dmaDone) (.ite (ih h.dmaDone) ?_)))
    split
    · exact ih h.dmaDone
    · exact .ite (ih h.agentBytes.dmaDone) h.agentBytes

theorem Canonical.dmcmd {s : State} {v mesh} (h : Canonical s) : Canonical (s.dmcmd v mesh) :=
  .ite h (.ite h.wakeTo.update h.wakeTo.dmaNext)

theorem Canonical.dmaEnd {s : State} {d status value} (h : Canonical s) : Canonical (s.dmaEnd d status value) :=
  h.update.dmaDone.dmaNext

theorem Canonical.dmaComplete {s0 : State} {r} (h : Canonical s0) : Canonical (s0.dmaComplete r) := by
  simp only [State.dmaComplete]
  split
  · exact h
  have h1 : Canonical (match r.meshAt with | some pa => s0.meshLost pa.toNat | none => s0) := by
    split
    · exact h.meshLost
    · exact h
  exact Canonical.ite h1.eccFinds.agentBytes.emit.dmaEnd h1.agentPut.dmaEnd

theorem Canonical.freePut {s : State} {pa n} (h : Canonical s) : Canonical (s.freePut pa n) := by
  induction n generalizing s pa with
  | zero => exact h
  | succ n ih => exact ih h.fresh.agentPut

theorem Canonical.dmaCut {s : State} {f} (h : Canonical s) : Canonical (s.dmaCut f) := by
  simp only [State.dmaCut]
  split
  · exact h
  · exact .ite h (Canonical.ite h.fresh.agentBytes.emit h.fresh.freePut).dmaEnd

/-! ### Host: Resets of the functions (R396, R502) -/

theorem Canonical.flr {s : State} {f} (h : Canonical s) : Canonical (s.flr f) :=
  h.stopMailbox.modFunc.dmaCut

theorem Canonical.dropLoaded {s : State} (h : Canonical s) : Canonical s.dropLoaded :=
  SMap.wf_filter _ _ _ h

theorem Canonical.perst {s : State} {high} (h : Canonical s) : Canonical (s.perst high) := by
  unfold State.perst
  refine .ite h.modPower.wakeTo ?_
  extract_lets t u
  have ht : Canonical t := h.foldUp fun _ _ h => h.flr
  have hu : Canonical u := .ite ht.dropLoaded ht
  exact hu.sizeWindows.modPower

theorem Canonical.configWrite {s : State} {f v x} (h : Canonical s) : Canonical (s.configWrite f v x) := by
  simp only [State.configWrite]
  split
  · exact .ite h.modFunc.flushMsix h.modFunc.dmaCut
  · exact .ite h h.modCfg
  · exact h.modCfg
  · exact h.modCfg.ltrUpdate
  · exact h.modCfg
  · exact h.modCfg
  · exact h.modCfg.flushMsix
  · exact h.modCfg
  · exact h.modCfg

theorem Canonical.linkChange {s : State} {st} (h : Canonical s) : Canonical (s.linkChange st) :=
  h.modPower

/-! ### Host: Machine-side registers (R398) -/

theorem Canonical.hfRead {s : State} {f off} (h : Canonical s) : Canonical (s.hfRead f off).2 := by
  simp only [State.hfRead]
  split
  · exact h
  split
  · exact h.setFunc
  split
  · exact h
  · exact h

theorem Canonical.hfPut {s t : State} {f off v} (h : Canonical s) (e : s.hfPut f off v = .ok t) : Canonical t := by
  simp only [State.hfPut] at e
  split at e
  · cases e; exact h.setFunc
  split at e
  · cases e; exact h.hfsig
  split at e
  · split at e
    · cases e
    · cases e; exact h.setFunc
  · cases e; exact h

/-! ### Depend: Microcode patches (R491 to R493) -/

theorem Canonical.mcPatch {s : State} {bytes chk} (h : Canonical s) : Canonical (s.mcPatch bytes chk).2 := by
  simp only [State.mcPatch]
  split
  · exact h
  split
  · exact h.modDep.modBoot.logErr
  · exact h.tuffWrite.modDep.foldl fun _ _ h => h.modCore

theorem Canonical.mcAct {s : State} {v} (h : Canonical s) : Canonical (s.mcAct v).2 := by
  simp only [State.mcAct]
  split
  · exact h
  split
  · exact h
  split
  · exact h
  · exact h.modDep.mcFinish

theorem Canonical.patchSwitch {s : State} {c} (h : Canonical s) : Canonical (s.patchSwitch c) :=
  .ite h.switchBanks h

/-! ### Depend: Vent cores and the vent patch (R489, R490) -/

theorem Canonical.vPatch {s : State} {bytes chk} (h : Canonical s) : Canonical (s.vPatch bytes chk).2 := by
  unfold State.vPatch
  split
  · exact h.modBoot.logErr
  · exact h.tuffWrite.modDep

theorem Canonical.vpAct {s : State} {v} (h : Canonical s) : Canonical (s.vpAct v) :=
  .ite h.modDep h

theorem Canonical.ventStart {s : State} {v} (h : Canonical s) : Canonical (s.ventStart v) :=
  have h1 := h.ventRun.modDep
  .ite h1 h1.modDep

theorem Canonical.ventFail {s : State} {v} (h : Canonical s) : Canonical (s.ventFail v) := by
  unfold State.ventFail
  refine .ite h ?_
  extract_lets recent t
  have ht : Canonical t := h.countUp.logErr.modDep
  exact .ite ht.setCore.modDep.logErr ht.setCore.modDep

theorem Canonical.ventRestart {s : State} {v} (h : Canonical s) : Canonical (s.ventRestart v) :=
  .ite (.ite h.ventStart h) (.ite h.modDep.ventStart (.ite h.ventFail.ventStart h.ventFail))

/-! ### Depend: Machine images (R494 to R496, R519) -/

theorem Canonical.setSlotImage {s : State} {k l} (h : Canonical s) : Canonical (s.setSlotImage k l) :=
  h.tuffTry.modJr

theorem Canonical.imgLoad {s : State} {chk} (h : Canonical s) : Canonical (s.imgLoad chk).2 := by
  unfold State.imgLoad
  extract_lets st src len u
  refine .iteSnd h ?_
  have hu : Canonical u := .ite h.eccFinds h
  split
  next t e =>
  have ht : Canonical t := .snd (.iteSnd hu.agentBytes hu) e
  split
  · exact ht.setSlotImage.modDep
  · exact ht.modDep.modBoot.logErr

theorem Canonical.imgHandOver {s : State} (h : Canonical s) : Canonical (s.imgHandOver).2 := by
  unfold State.imgHandOver
  split
  · exact h
  · exact h.fresh.modDep.notice

theorem Canonical.imgCancel {s : State} (h : Canonical s) : Canonical (s.imgCancel).2 := by
  unfold State.imgCancel
  split
  · exact h
  · exact h.setSlotImage.modDep

theorem Canonical.imgCmd {s : State} {v chk} (h : Canonical s) : Canonical (s.imgCmd v chk).2 := by
  unfold State.imgCmd
  split
  · exact h.imgLoad
  split
  · exact h.imgHandOver
  split
  · exact h.imgCancel
  · exact h

theorem Canonical.nextRequest {s t : State} {code tag arg} (h : Canonical s)
    (e : s.nextRequest = some (code, tag, arg, t)) :
    Canonical t := by
  simp only [State.nextRequest] at e
  split at e
  · cases e
  split at e
  · cases e
  · cases e; exact h.agentRead.agentRead.agentWrite

theorem Canonical.serviceNop {s0 : State} (h : Canonical s0) : Canonical s0.serviceNop := by
  simp only [State.serviceNop]
  split
  · exact h
  split
  · exact h.sendHeld
  next code tag fst t e =>
    exact Canonical.ite h.sendHeld (.ite (h.sendHeld.nextRequest e).notice (h.sendHeld.nextRequest e))

theorem Canonical.takeOver {s : State} {i a} (h : Canonical s) : Canonical (s.takeOver i a) :=
  h.modBoot.finishMen.finishStart

theorem Canonical.takeBack {s : State} {i a} (h : Canonical s) : Canonical (s.takeBack i a) :=
  (h.modBoot.foldl fun _ _ h => h.takeImage).finishStart

theorem Canonical.handoverAnswer {s : State} (h : Canonical s) : Canonical s.handoverAnswer := by
  simp only [State.handoverAnswer]
  split
  · exact h
  split
  · exact h
  next code fst block t e =>
    split
    · exact h
    split
    · exact h.nextRequest e
    · exact (h.nextRequest e).loadBody.modDep.modBoot.writeService.takeOver

theorem Canonical.imgConf {s : State} {v program} (h : Canonical s) : Canonical (s.imgConf v program).2 := by
  unfold State.imgConf
  split
  · exact h
  split
  · exact h
  · exact h.modDep.modBoot.logErr

theorem Canonical.imgTimeout {s : State} (h : Canonical s) : Canonical s.imgTimeout := by
  simp only [State.imgTimeout]
  split
  · exact h
  split
  · exact h
  split
  · exact .ite h.modDep.logErr h
  split
  · exact h
  split
  · exact h.modDep.logErr.takeBack
  · exact h.modDep.logErr

/-! ### Depend: Spares and the scrub (R483, R487, R488) -/

theorem Canonical.spareTest {s : State} {k ok} (h : Canonical s) : Canonical (s.spareTest k ok) := by
  unfold State.spareTest
  split
  · exact h
  · exact .ite h h.modDep.logErr

theorem Canonical.scrubOn {s : State} (h : Canonical s) : Canonical s.scrubOn :=
  h.modDep

theorem Canonical.scrubHit {s : State} {g} (h : Canonical s) : Canonical (s.scrubHit g) :=
  h.modDep

theorem Canonical.scrub {s0 : State} {r newer} (h : Canonical s0) : Canonical (s0.scrub r newer) := by
  simp only [State.scrub]
  split
  · exact h
  split
  · exact h.hbmServes.scrubOn
  · exact h.hbmServes.hbmCorrected.scrubHit.scrubOn
  · exact (Canonical.ite h.hbmServes h.hbmServes.hbmLost).scrubOn

/-! ### Depend: Debug unlock (R522 to R525) -/

theorem Canonical.setScope {s : State} {v} (h : Canonical s) : Canonical (s.setScope v) :=
  h.update

theorem Canonical.unlock {s : State} {l chk} (h : Canonical s) : Canonical (s.unlock l chk).2 := by
  simp only [State.unlock]
  split
  · exact h.setScope
  · exact h.update

theorem Canonical.lock {s : State} {v} (h : Canonical s) : Canonical (s.lock v) :=
  .ite h.setScope h

/-! ### DictWrite: What a write does -/

theorem Canonical.keepValue {s : State} {index sub e b fails} (h : Canonical s) :
    Canonical (s.keepValue index sub e b fails).2 := by
  unfold State.keepValue
  extract_lets hold t u v
  have hu : Canonical u := h.finishCommits.accept.commitComplete
  have hv : Canonical v := .ite hu.modDict.modJr hu.modDict
  exact .iteSnd h.modDict (.iteSnd h (.iteSnd hu (.ite hv.setShadow hv)))

theorem Canonical.afterValue {s old : State} {index sub} (h : Canonical s) : Canonical (s.afterValue old index sub) :=
  .ite h.ptpConfig (.ite (Canonical.ite h h.latchBase).refreshDomains
    (.ite h.refreshDomains (.ite h.tolWake (.ite h.modPower h))))

theorem Canonical.designate {s : State} {v} (h : Canonical s) : Canonical (s.designate v) :=
  .ite h h.modDict

theorem Canonical.publishedPost {s : State} {who index sub} (h : Canonical s) :
    Canonical (s.publishedPost who index sub) := by
  unfold State.publishedPost
  split
  · exact h.post
  · exact h

theorem Canonical.writeEntry {s : State} {who index sub e b x} (h : Canonical s) :
    Canonical (s.writeEntry who index sub e b x).2 := by
  unfold State.writeEntry
  extract_lets v prog keep
  have hkeep : ∀ r, Canonical r.2 → Canonical (keep r).2 := fun r hr => .iteSnd (Canonical.modDict hr) hr
  refine .iteSnd h ?_
  refine .iteSnd (.ite h.modJr h) ?_
  refine .iteSnd (.ite h.warmReset h) ?_
  refine .iteSnd h.clusterWrite ?_
  refine .iteSnd h.designate ?_
  refine .iteSnd (.ite h.estopReset h) ?_
  refine .iteSnd (hkeep _ h.buzzer) ?_
  refine .iteSnd h.retire.atBoundaries ?_
  refine .iteSnd (hkeep _ h.mcPatch) ?_
  refine .iteSnd h.mcAct ?_
  refine .iteSnd (hkeep _ h.vPatch) ?_
  refine .iteSnd (hkeep _ h.vpAct) ?_
  refine .iteSnd h.imgCmd ?_
  refine .iteSnd (hkeep _ h.imgConf) ?_
  refine .iteSnd h.unlock ?_
  refine .iteSnd (hkeep _ h.lock) ?_
  refine .iteSnd h.update (.iteSnd h.update (.iteSnd h.update ?_))
  exact .ite h.keepValue.afterValue.publishedPost h.keepValue

theorem Canonical.write {s : State} {who index sub auth form x} (h : Canonical s) :
    Canonical (s.write who index sub auth form x).2 := by
  unfold State.write
  split
  · exact h
  · exact h.writeEntry

theorem Canonical.freshEnv {s : State} (h : Canonical s) : Canonical (s.freshEnv).2 :=
  h.freshChk.fresh

theorem Canonical.heartbeat {s : State} {m} (h : Canonical s) : Canonical (s.heartbeat m) :=
  h.modDict

theorem Canonical.direct {s : State} {w index x} (h : Canonical s) : Canonical (s.direct w index x) := by
  simp only [State.direct]
  refine (Canonical.write ?_).emit
  split
  · exact h.heartbeat
  · exact h

/-! ### DictTick: Answers (R391, R422, R428) -/

theorem Canonical.respond {s : State} {r code p} (h : Canonical s) : Canonical (s.respond r code p) := by
  simp only [State.respond]
  split
  · exact .ite h h.setFunc.emit.signal
  · exact h.emit
  · exact h.emit
  · exact h.present

/-! ### DictTick: Arrival (R394, R411, R422) -/

theorem Canonical.enqueue {s : State} {r} (h : Canonical s) : Canonical (s.enqueue r) :=
  h.modDict

theorem Canonical.answerWith {s : State} {r code} (h : Canonical s) : Canonical (s.answerWith r code) :=
  h.enqueue

theorem Canonical.segment {s : State} {r} (h : Canonical s) : Canonical (s.segment r) := by
  simp only [State.segment]
  split
  · exact h.modDict.answerWith
  · exact .ite h.modDict.answerWith (.ite h.answerWith (.ite h.modDict.answerWith h.modDict.enqueue))

theorem Canonical.arrive {s : State} {m} (h : Canonical s) : Canonical (s.arrive m) :=
  .ite h.heartbeat.answerWith (.ite h.heartbeat.segment (.ite h.heartbeat.answerWith h.heartbeat.enqueue))

theorem Canonical.holdFrame {s : State} {port mac m} (h : Canonical s) : Canonical (s.holdFrame port mac m) :=
  (Canonical.ite h.modPower h).wakeTo

theorem Canonical.frameIn {s : State} {port mac m} (h : Canonical s) : Canonical (s.frameIn port mac m) :=
  .ite h.arrive (.ite h.holdFrame (.ite h.modPower h))

theorem Canonical.serveHeld {s : State} (h : Canonical s) : Canonical s.serveHeld :=
  .ite (h.modPower.foldl fun _ _ h => h.arrive) h

theorem Canonical.takeOhp {s : State} {f m} (h : Canonical s) : Canonical (s.takeOhp f m) :=
  h.modFunc.arrive

theorem Canonical.message {s : State} {t x} (h : Canonical s) : Canonical (s.message t x) := by
  unfold State.message
  split
  · split
    · exact .ite h.takeOhp h
    · exact h
  split
  · exact .ite h.frameIn h
  · exact h

/-! ### DictTick: The dictionary port (R428 to R430) -/

theorem Canonical.dxcmd {s : State} {v} (h : Canonical s) : Canonical (s.dxcmd v) := by
  unfold State.dxcmd
  refine .ite h ?_
  extract_lets cmd mid a n fieldsOk ok
  split
  next t e =>
  have ht : Canonical t := .snd (.iteSnd h.agentBytes h) e
  exact (Canonical.ite ht.heartbeat ht).enqueue.wakeTo

theorem Canonical.publish {s : State} {key x} (h : Canonical s) : Canonical (s.publish key x) :=
  .ite h.modDict h.modDict.modJr

theorem Canonical.withdraw {s : State} {v p} (h : Canonical s) : Canonical (s.withdraw v p).2 := by
  simp only [State.withdraw]
  split
  · exact h
  split
  · exact h
  split
  · exact h
  split
  · exact h
  · exact h.modDict

/-! ### DictTick: Ownership (R413 to R419) -/

theorem Canonical.setOwner {s : State} {m why} (h : Canonical s) : Canonical (s.setOwner m why) :=
  .ite h h.modDict

theorem Canonical.keyswitch {s : State} (h : Canonical s) : Canonical s.keyswitch :=
  .ite h (.ite h.modDict (.ite h.modDict.setOwner h.modDict))

theorem Canonical.lapse {s : State} (h : Canonical s) : Canonical s.lapse :=
  .ite h.setOwner h

theorem Canonical.desExpiry {s : State} (h : Canonical s) : Canonical s.desExpiry := by
  unfold State.desExpiry
  split
  · exact .ite h.modDict h
  · exact h

theorem Canonical.panelClaim {s : State} {l} (h : Canonical s) : Canonical (s.panelClaim l) :=
  .ite h (.ite h.setOwner h.modDict.setOwner)

theorem Canonical.acceptance {s : State} {l} (h : Canonical s) : Canonical (s.acceptance l) :=
  .ite h.setOwner h

theorem Canonical.grant {s : State} {l} (h : Canonical s) : Canonical (s.grant l) := by
  unfold State.grant
  split
  · exact h
  split
  · exact h.setOwner
  · exact h

/-! ### DictTick: Writes, reads and answers (R411 steps 5 to 8) -/

theorem Canonical.envFor {s : State} {index sub} (h : Canonical s) : Canonical (s.envFor index sub).2 := by
  unfold State.envFor
  split
  · exact h.freshEnv
  split
  · exact h.fresh
  · exact h

theorem Canonical.portRead {s : State} {v p} (h : Canonical s) : Canonical (s.portRead v p).2 := by
  simp only [State.portRead]
  split
  · exact h
  split
  · exact h.agentCells
  · exact h

theorem Canonical.answerReq {s : State} {codes e} (h : Canonical s) : Canonical (answerReq codes s e) := by
  simp only [Machine.answerReq]
  split
  · exact h.respond
  split
  · exact .ite h.portRead.respond h.respond
  · exact h.respond

theorem Canonical.notify {s : State} (h : Canonical s) : Canonical s.notify :=
  .ite h (((h.modDict.fresh.foldl fun _ _ h => Canonical.ite h.emit h).foldl fun _ _ h =>
    Canonical.ite h.emit h).foldl fun _ _ h => Canonical.ite h.signal h)

/-- The state of a dictionary tick after every request of a list. -/
theorem Canonical.foldTick {α : Type} {f : Tick → α → Tick} {l : List α} {t : Tick} (h : Canonical t.s)
    (hf : ∀ t a, Canonical t.s → Canonical (f t a).s) : Canonical (l.foldl f t).s := by
  induction l generalizing t with
  | nil => exact h
  | cons a l ih => exact ih (hf t a h)

theorem Canonical.claimsOf {t : Tick} {l} (h : Canonical t.s) : Canonical (claimsOf t l).1.s := by
  induction l generalizing t with
  | nil => exact h
  | cons x l ih =>
    obtain ⟨i, r⟩ := x
    unfold Machine.claimsOf
    extract_lets m
    split
    · exact ih (t := t.refuse i _) h
    dsimp only
    split
    · exact ih (t := t.refuse i _) h
    · exact ih h

theorem Canonical.ownership {t : Tick} {l} (h : Canonical t.s) : Canonical (ownership t l).s := by
  have h1 : ∀ cs, Canonical (releaseAll (Machine.claimsOf t l).1 cs).s := fun _ => h.claimsOf.foldTick fun t c h => by
    split
    · exact Canonical.setOwner h
    · exact h
  refine Canonical.foldTick ?_ fun t c h => ?_
  · exact (h1 _).panelClaim.acceptance.grant
  dsimp only
  split <;> exact h

theorem Canonical.writeReq {t : Tick} {e} (h : Canonical t.s) : Canonical (writeReq t e).s :=
  h.envFor.write

theorem Canonical.programReq {t : Tick} {e} (h : Canonical t.s) : Canonical (programReq t e).s := by
  unfold Machine.programReq
  extract_lets r
  split
  · split
    · split
      · exact h
      · exact h.publish
    split
    · exact h.withdraw
    · exact h.writeReq
  · exact h

theorem Canonical.serveTick {s : State} (h : Canonical s) : Canonical s.serveTick := by
  refine Canonical.notify (Canonical.foldl (Canonical.foldTick (Canonical.foldTick (Canonical.ownership ?_) ?_) ?_)
    ?_)
  · exact h.modDict.keyswitch.lapse.desExpiry
  · exact fun _ _ h => h.writeReq
  · exact fun _ _ h => h.programReq
  · exact fun _ _ h => h.answerReq

theorem Canonical.serveRows {s : State} (h : Canonical s) : Canonical s.serveRows :=
  h.modDict.foldl fun _ _ h => h.direct

theorem Canonical.dictTick {s0 : State} (h : Canonical s0) : Canonical s0.dictTick :=
  .ite (((h.sendHeld.serveHeld.serveRows.foldl fun _ _ h => Canonical.ite h.modFunc h).serveTick).modDict)
    h.sendHeld.modDict

/-! ### Device: Event channels (R202) -/

theorem Canonical.chanPut {s t : State} {n v} (h : Canonical s) (e : s.chanPut n v = .ok t) : Canonical t := by
  simp only [State.chanPut] at e
  split at e
  · cases e
  · cases e; exact .ite h.setChan.checkEvents h.setChan

/-! ### Device: Heap control (R219) -/

theorem Canonical.hwbPut {s : State} {v} (h : Canonical s) : Canonical (s.hwbPut v) :=
  .ite h.modHeap.closeOpenBlocks h.modHeap

theorem Canonical.hctlPut {s : State} {v} (h : Canonical s) : Canonical (s.hctlPut v) :=
  .ite h.modHeap.wakeTo h.modHeap

theorem Canonical.heapRegPut {s : State} {off v} (h : Canonical s) : Canonical (s.heapRegPut off v) :=
  .ite h.hwbPut (.ite h.modHeap (.ite h.modHeap (.ite h.hctlPut
    (.ite h.modHeap (.ite h.modHeap (.ite h.modHeap h))))))

/-! ### Device: Caches (R293, R294) -/

theorem Canonical.l1Read {s : State} {c off} (h : Canonical s) : Canonical (s.l1Read c off).2 := by
  simp only [State.l1Read]
  split
  · exact h
  split
  · exact h.setCore
  split
  · exact h
  · exact h

theorem Canonical.l1ctlPut {s : State} {c v} (h : Canonical s) : Canonical (s.l1ctlPut c v) :=
  have h1 := Canonical.ite h h.drainMerge
  have h2 := Canonical.ite h1.writeBackAll h1
  .ite h2.modCore h2.modCore.dirSweep

theorem Canonical.l1Put {s : State} {q c off v} (h : Canonical s) : Canonical (s.l1Put q c off v) :=
  .ite h (.ite h.l1ctlPut (.ite h.modCore h))

theorem Canonical.l2Read {s : State} {k off} (h : Canonical s) : Canonical (s.l2Read k off).2 := by
  simp only [State.l2Read]
  split
  · exact h.update
  split
  · exact h.update
  · exact h

/-! ### Device: The journal (R367) -/

theorem Canonical.journalPut {s : State} {off v} (h : Canonical s) : Canonical (s.journalPut off v) :=
  .ite h.modJr (.ite h.modJr h)

/-! ### Device: Per-context reset (R506) -/

theorem Canonical.ctxrstPut {s t : State} {q v} (h : Canonical s) (e : s.ctxrstPut q v = .ok t) : Canonical t := by
  simp only [State.ctxrstPut] at e
  split at e
  · cases e
  · cases e; exact h.ctxReset

/-! ### Device: The map -/

theorem Canonical.devValue {s : State} {pa} (h : Canonical s) : Canonical (s.devValue pa).2 := by
  simp only [State.devValue]
  split
  · exact h
  split
  · exact h
  split
  · split
    · exact h.l1Read
    · exact h.l2Read
  split
  · exact h.gyRead
  split
  · split
    · exact h.linkRead
    split
    · exact h
    · exact h
  split
  · exact h
  split
  · split
    · exact h.hfRead
    · exact h
  split
  · exact h.panelRead
  split
  · exact h
  · exact h

theorem Canonical.devRead {s : State} {_q pa} (h : Canonical s) : Canonical (s.devRead _q pa).2 :=
  h.devValue

theorem Canonical.portPut {s t : State} {pa v} (h : Canonical s) (e : s.portPut pa v = some t) : Canonical t := by
  simp only [State.portPut] at e
  split at e
  · cases e; exact h.gyPut
  split at e
  · cases e; exact h.jcmd
  split at e
  · cases e; exact h.dmcmd
  split at e
  · cases e; exact h.dxcmd
  · cases e

theorem Canonical.regPut {s t : State} {q pa v} (h : Canonical s) (e : s.regPut q pa v = .ok t) : Canonical t := by
  simp only [State.regPut] at e
  split at e
  · exact h.chanPut e
  split at e
  · cases e; exact h.heapRegPut
  split at e
  · cases e; exact .ite h.l1Put h
  split at e
  · cases e; exact h.gyPut
  split at e
  · cases e; exact .ite h.linkPut (.ite h h.gtcPut)
  split at e
  · cases e; exact h.journalPut
  split at e
  · split at e
    · exact h.hfPut e
    · cases e; exact h
  split at e
  · cases e; exact h.powerPut
  split at e
  · split at e
    · exact h.ctxrstPut e
    · cases e; exact h
  · cases e; exact h

theorem Canonical.devWrite {s t : State} {q pa v} (h : Canonical s) (e : s.devWrite q pa v = .ok t) :
    Canonical t := by
  simp only [State.devWrite] at e
  split at e
  next u eu => cases e; exact h.portPut eu
  split at e
  · cases e; exact h
  split at e
  · cases e
  · exact h.regPut e

/-! ### Ops -/

theorem KeepsM.heapLimit {α : Type} {e} : KeepsM Canonical (heapLimit e : M α) := by
  intro s h
  exact ⟨fun _ _ e => (by cases e), fun _ _ _ e => (by cases e; exact h)⟩

theorem KeepsM.regsM {e} : KeepsM Canonical (regsM e) :=
  .look _

theorem KeepsM.modRegsM {e f} : KeepsM Canonical (modRegsM e f) :=
  .act fun _ h => h.modRegs

theorem KeepsM.setA {e c} : KeepsM Canonical (setA e c) :=
  .modRegsM

/-! ### Ops: Breakpoints (R530, R531) -/

theorem KeepsM.translateSpan {e k va opn bva cells} : KeepsM Canonical (translateSpan e k va opn bva cells) := by
  unfold Machine.translateSpan
  refine .bind (.look _) fun s => ?_
  refine .ite ?_ ?_
  · exact .pure _
  split
  · exact .raise
  split
  · exact .raise
  refine .ite ?_ ?_
  · exact .pure _
  split
  · exact .raise
  · exact .pure _

theorem KeepsM.translate {e k va opn} : KeepsM Canonical (translate e k va opn) :=
  .translateSpan

/-! ### Ops: Authority (R145, R146, R157) -/

theorem KeepsM.checkBounds {e u va len opn} : KeepsM Canonical (checkBounds e u va len opn) := by
  unfold Machine.checkBounds
  split
  · exact .pure _
  · exact .ite (.pure _) .raise

theorem KeepsM.checkRights {e u va need opn} : KeepsM Canonical (checkRights e u va need opn) := by
  unfold Machine.checkRights
  split
  · exact .pure _
  · exact .ite (.pure _) .raise

theorem KeepsM.checkStore {e u va opn v} : KeepsM Canonical (checkStore e u va opn v) := by
  unfold Machine.checkStore
  split
  · exact .pure _
  · exact .ite .raise (.ite .raise (.ite .raise (.pure _)))

/-! ### Ops: Cells in memory -/

theorem KeepsM.readCell {e t pa va opn acc} : KeepsM Canonical (readCell e t pa va opn acc) := by
  unfold Machine.readCell
  refine .bind (.look _) fun s => ?_
  split
  · exact .raise
  · exact .pure _
  · exact .pure _
  · exact .takeM fun _ h => h.devRead
  · exact .ite .raise (.ite (.takeM fun _ h => h.strayWrite.fresh.fresh)
      (.bind (.orWait fun _ _ h e => h.loadTouch e) fun _ => .look _))

theorem Canonical.healSlot {s : State} {q t pa v n} (h : Canonical s) : Canonical (s.healSlot q t pa v n) :=
  .ite h (.ite (.ite h.update h) (.ite h (.ite (.ite h.setCore h) (.ite h.healBuffered h.heal.noteHeal))))

theorem KeepsM.passBarrier {e t pa opn v} : KeepsM Canonical (passBarrier e t pa opn v) := by
  refine .lookState fun s hs => ?_
  split
  · exact .raise
  next n s1 e1 =>
    refine fun _ _ => ⟨fun _ _ e2 => ?_, fun _ _ _ e2 => (by cases e2)⟩
    cases e2
    exact (hs.barrierAt e1).healSlot

theorem KeepsM.loadCell {e u va opn} : KeepsM Canonical (loadCell e u va opn) :=
  .bind .checkBounds fun _ => .bind .checkRights fun _ => .bind .translate fun _ => .bind .readCell fun _ =>
    .guard .checkRights fun _ => .passBarrier

theorem Canonical.failStore {s : State} {n pa acc} (h : Canonical s) : Canonical (s.failStore n pa acc) :=
  h.modAux

theorem KeepsM.writePhys {e wt pa fa opn acc v feeds after} (hafter : ∀ s, Canonical s → Canonical (after s)) :
    KeepsM Canonical (writePhys e wt pa fa opn acc v feeds after) := by
  unfold Machine.writePhys
  refine .lookState fun s hs => ?_
  split
  · exact .act fun _ h => h.endAround.failStore
  · exact .act fun _ h => h.failStore
  · exact .act fun _ h => h.update
  · split
    next s1 e =>
      exact .ite (.stall _) (.act fun _ h => (hs.endAround.devWrite e))
    · exact .raise
  · exact .ite .raise (.guard (.act fun _ h => h.strayWrite) fun _ =>
      .bind (.orWait fun _ _ h e => h.storeHbm e) fun _ => .act fun _ h => hafter _ h)

theorem KeepsM.writeCell {e t pa va opn v feeds} : KeepsM Canonical (writeCell e t pa va opn v feeds) :=
  .writePhys (fun _ h => h.storeBarrier)

theorem KeepsM.storeCell {e u va opn v feeds formed} : KeepsM Canonical (storeCell e u va opn v feeds formed) :=
  .bind .checkBounds fun _ => .bind .checkStore fun _ => .bind .translate fun _ => .guard .raise fun _ => .writeCell

theorem KeepsM.checkRange {e va opn} : KeepsM Canonical (checkRange e va opn) :=
  .ite (.pure _) (.ite .raise .raise)

/-! ### Ops: Headers (R553) -/

theorem KeepsM.judgeHdr {e c kind opn va} : KeepsM Canonical (judgeHdr e c kind opn va) :=
  .ite .raise (.ite .raise (.pure _))

theorem KeepsM.readHdr {e c opn} : KeepsM Canonical (readHdr e c opn) :=
  .bind .translate fun _ => .bind .readCell fun _ => .bind .judgeHdr fun _ => .pure _

theorem KeepsM.authOf {e c opn nine viaFS} : KeepsM Canonical (authOf e c opn nine viaFS) := by
  unfold Machine.authOf
  extract_lets jp1
  have hjp1 : ∀ r, KeepsM Canonical (jp1 r) := fun _ =>
    .ite (.pure _) (.ite (.pure _) (.ite (.pure _) (.bind .readHdr fun h => .pure _)))
  exact .ite (.guard .raise fun _ => .guard .raise fun _ => .ite (.bind .raise hjp1) (hjp1 ())) (hjp1 ())

theorem KeepsM.loadAt {e u va opn} : KeepsM Canonical (loadAt e u va opn) :=
  .bind .checkRange fun _ => .loadCell

/-! ### Ops: The stack (R101, R128, R193) -/

theorem KeepsM.push {e v} : KeepsM Canonical (push e v) :=
  .bind .regsM fun _ => .bind .authOf fun _ => .bind .checkRange fun _ => .bind .checkBounds fun _ =>
    .bind .checkStore fun _ => .bind .translate fun _ => .bind (.look _) fun _ => .guard .raise fun _ =>
    .bind .writeCell fun _ => .modRegsM

theorem KeepsM.pop {e} : KeepsM Canonical (pop e) :=
  .bind .regsM fun _ => .bind .authOf fun _ => .bind .loadAt fun _ => .bind .modRegsM fun _ => .pure _

theorem KeepsM.returnCap {e} : KeepsM Canonical (returnCap e) :=
  .look _

/-! ### Ops: Allocation (R122, R223 to R225) -/

theorem KeepsM.allocStore {e claim va v} : KeepsM Canonical (allocStore e claim va v) :=
  .bind .translate fun _ => .guard (.act fun _ h => h.zeroLine) fun _ => .writeCell

theorem KeepsM.fillerAt {e va n} : KeepsM Canonical (fillerAt e va n) :=
  .ite (.pure _) .allocStore

theorem KeepsM.closeTail {e} : KeepsM Canonical (closeTail e) :=
  .bind .regsM fun _ => .fillerAt

theorem KeepsM.setH {e h hl} : KeepsM Canonical (setH e h hl) :=
  .modRegsM

theorem KeepsM.reserve {e cells cons} : KeepsM Canonical (reserve e cells cons) := by
  unfold Machine.reserve
  refine .bind .regsM fun r => .ite ?_ (.ite ?_ ?_)
  · exact .guard .allocStore fun _ => .bind .setH fun _ => .pure _
  · refine .lookState fun s hs => ?_
    split
    · exact .heapLimit
    next a s1 e =>
      exact .bind (.act fun _ _ => hs.takeRun e) fun _ => .bind .closeTail fun _ => .guard .allocStore fun _ =>
        .bind .setH fun _ => .pure _
  refine .lookState fun s hs => ?_
  split
  · exact .heapLimit
  next a s1 e =>
    exact .bind (.act fun _ _ => hs.takeChunk e) fun _ => .bind .closeTail fun _ => .bind .setH fun _ => .pure _

theorem KeepsM.allocObject {e cells h} : KeepsM Canonical (allocObject e cells h) :=
  .bind .reserve fun _ => .bind .allocStore fun _ => .bind (.act fun _ h => h.noteObject) fun _ => .pure _

theorem KeepsM.refTo {t a} : KeepsM Canonical (refTo t a) :=
  .look _

/-! ### Ops: Control transfer (R93, R96, R128) -/

theorem KeepsM.checkTarget {e a} : KeepsM Canonical (checkTarget e a) :=
  .ite .raise (.ite .raise (.pure _))

theorem KeepsM.checkExec {e c opn faddr} : KeepsM Canonical (checkExec e c opn faddr) := by
  unfold Machine.checkExec
  refine .guard .raise fun _ => .guard .raise fun _ => .guard .raise fun _ => .guard .raise fun _ => ?_
  exact .bind .checkTarget fun _ => .pure _

/-! ### Ops: Taking a cause or going on (R171, R176, R185) -/

theorem Canonical.moveTo {s : State} {q a} (h : Canonical s) : Canonical (s.moveTo q a) :=
  h.modRegs

theorem Canonical.clearPrg {s : State} {q} (h : Canonical s) : Canonical (s.clearPrg q) :=
  h.modRegs

theorem Canonical.clearResume {s : State} {q} (h : Canonical s) : Canonical (s.clearResume q) :=
  .ite h.modRegs h

theorem Canonical.trapIn {s : State} {q t mra} (h : Canonical s) : Canonical (s.trapIn q t mra) :=
  .ite h.takeTrap (.ite h.enterSlot.modRegs (.ite h.ventFail h.takeTrap))

theorem Canonical.waitOn {s : State} {q x} (h : Canonical s) : Canonical (s.waitOn q x) := by
  unfold State.waitOn
  split
  · exact h.presentMiss
  · exact h.modSlot
  · exact h.modCore
  · exact h

theorem Canonical.settle {s : State} {e m} (h : Canonical s) (hm : KeepsM Canonical m) :
    Canonical (settle s e (m s)) :=
  settle_keeps e hm h (fun _ _ h => h.moveTo) (fun _ _ h => h.modRegs) (fun _ h => h.parkMid) (fun _ _ _ h =>
    h.trapIn)
    (fun _ _ h => h.waitOn) fun _ h => h.refillFailed

/-- A precise cause is taken. -/
theorem Canonical.settleTrap {s : State} {e t} (h : Canonical s) :
    Canonical (Machine.settle s e (.error (.trap t))) :=
  h.settle (m := fun _ => .error (.trap t)) fun _ _ => ⟨fun _ _ e => (by cases e), fun _ _ _ e => (by cases e)⟩

theorem Canonical.release {s : State} {q} (h : Canonical s) : Canonical (s.release q) :=
  (s.caches_release q).canonical h

/-- Each way to go on that a parity event leaves keeps the form. -/
theorem Canonical.meetParity {s : State} {q n p} (h : Canonical s) : (s.meetParity q n p).Canonical := by
  have hlost : ∀ t code sub, Canonical t → (if q.isVent then ParityEnd.retired (t.ventFail (q.core - 64)) else
      if (t.replayBad q.core n).1 then .retired ((t.replayBad q.core n).2.retire q.core)
      else .fail code sub (t.replayBad q.core n).2).Canonical := by
    intro t code sub ht
    split
    · exact ht.ventFail
    split
    · exact ht.replayBad.retire
    · exact ht.replayBad
  cases p with
  | none => exact h
  | replayed => exact h.replayGood
  | failed => exact hlost s _ _ h
  | checkFailed => exact hlost s _ _ h
  | ecc g ev => exact h.eccFound
  | meshFailed pa => exact hlost _ _ _ h.meshLost
  | cleanSector g => exact h.modCore.logCoalesced
  | dirtySector g =>
    simp only [State.meetParity]
    split
    · exact h.modCore.losePoison.logErr
    · exact h
  | scratchCell c =>
    simp only [State.meetParity]
    split
    · exact h.modCore.logErr
    · exact h

theorem Canonical.runIn {s : State} {i e body} (h : Canonical s) (hbody : KeepsM Canonical body) :
    Canonical (runIn s i e body) := by
  have hp : ((s.release e.q).meetParity e.q e.n i.parity).Canonical := h.release.meetParity
  unfold Machine.runIn
  split
  next t et =>
    rw [et] at hp
    exact Canonical.settle hp hbody
  next code sub t et =>
    rw [et] at hp
    exact Canonical.settleTrap hp
  next t et =>
    rw [et] at hp
    exact hp

theorem Canonical.fetchFirst {s : State} {e} (h : Canonical s) : Canonical (s.fetchFirst e) :=
  (s.caches_fetchFirst e).canonical h

theorem Canonical.issueIf {s : State} {came i word slots body} (h : Canonical s)
    (hbody : ∀ e, KeepsM Canonical (body e)) :
    Canonical (issueIf came i word slots body s) := by
  simp only [Machine.issueIf]
  split
  · exact h
  split
  · exact h
  split
  · exact h.takeAsync
  split
  · exact h.fetchFirst.settleTrap
  · exact h.fetchFirst.runIn (hbody _)

theorem Canonical.issue {s : State} {i word slots body} (h : Canonical s) (hbody : ∀ a, KeepsM Canonical (body a)) :
    Canonical (issue i word slots body s) :=
  h.issueIf (fun _ _ => hbody _ _)

/-! ### Operands: Formats (R94 to R97) -/

theorem KeepsM.judgeCode {e c opn va} : KeepsM Canonical (judgeCode e c opn va) :=
  .ite .raise (.ite .raise (.pure _))

theorem KeepsM.fetchCell {e a opn} : KeepsM Canonical (fetchCell e a opn) := by
  unfold Machine.fetchCell
  refine .bind .translate fun ⟨fst, pa⟩ => ?_
  refine .bind (.look _) fun s => ?_
  split
  · exact .bind .judgeCode fun _ => .pure _
  · exact .bind .judgeCode fun _ => .pure _
  · exact .guard .raise fun _ => .bind (.act fun _ h => Canonical.ite h.agentClean.hbmServes (.ite h h.fetchTouch))
      fun _ => .bind .judgeCode fun _ => .pure _
  · exact .raise

theorem KeepsM.fetchWord {e a opn} : KeepsM Canonical (fetchWord e a opn) := by
  unfold Machine.fetchWord
  refine .bind .translate fun x => ?_
  refine .bind (.look _) fun r => ?_
  split
  · exact .raise
  · exact .fetchCell

theorem KeepsM.fetchExt {e at_} : KeepsM Canonical (fetchExt e at_) :=
  .ite (.pure _) (.bind .fetchCell fun _ => .pure _)

theorem KeepsM.checkM {e at_ o ok} : KeepsM Canonical (checkM e at_ o ok) :=
  .guard .raise fun _ => .guard .raise fun _ => .ite .fetchExt (.pure _)

theorem Canonical.mForm {s : State} {i op o priv ok body} (h : Canonical s) (hbody : ∀ a, KeepsM Canonical (body a))
    : Canonical (mForm i op o priv ok body s) :=
  h.issue (fun _ => .guard .raise fun _ => .bind .checkM fun _ => .bind (.act fun _ h => h.clearResume) fun _ =>
    hbody _)

theorem Canonical.mRead {s : State} {i op o body} (h : Canonical s) (hbody : ∀ a, KeepsM Canonical (body a)) :
    Canonical (mRead i op o body s) :=
  h.mForm (fun _ => .bind (hbody _) fun _ => .pure _)

theorem Canonical.mWrite {s : State} {i op o body} (h : Canonical s) (hbody : ∀ a, KeepsM Canonical (body a)) :
    Canonical (mWrite i op o body s) :=
  h.mForm (fun _ => .bind (hbody _) fun _ => .pure _)

theorem Canonical.mNone {s : State} {i op o body} (h : Canonical s) (hbody : ∀ a, KeepsM Canonical (body a)) :
    Canonical (mNone i op o body s) :=
  h.mForm (fun _ _ => hbody _ _)

theorem Canonical.bForm {s : State} {i op off body} (h : Canonical s) (hbody : ∀ a, KeepsM Canonical (body a)) :
    Canonical (bForm i op off body s) :=
  h.issue (fun _ => .bind (.act fun _ h => h.clearResume) fun _ => hbody _)

theorem Canonical.sForm {s : State} {i op sub opnd priv subOk opndOk body} (h : Canonical s)
    (hbody : ∀ a, KeepsM Canonical (body a)) : Canonical (sForm i op sub opnd priv subOk opndOk body s) :=
  h.issue (fun _ => .guard .raise fun _ => .guard .raise fun _ => .guard .raise fun _ =>
    .bind (.act fun _ h => h.clearResume) fun _ => hbody _)

/-! ### Operands: Operands (R98 to R101) -/

theorem KeepsM.baseOf {e r b opn} : KeepsM Canonical (baseOf e r b opn) :=
  .ite (.bind .authOf fun _ => .pure _) (.pure _)

theorem KeepsM.formOpd {e o opn} : KeepsM Canonical (formOpd e o opn) := by
  unfold Machine.formOpd
  refine .bind .regsM fun r => ?_
  extract_lets b
  split
  · exact .pure _
  · exact .pure _
  · exact .pure _
  · exact .bind .authOf fun u => .bind .checkRange fun va => .pure _
  · exact .bind .checkRange fun va => .pure _
  · exact .bind .baseOf fun ⟨base, u⟩ => .bind .checkRange fun va => .pure _

theorem KeepsM.stepOpd {e p} : KeepsM Canonical (stepOpd e p) := by
  unfold Machine.stepOpd
  split
  · exact .modRegsM
  · exact .pure _

theorem KeepsM.loadOpd {e p opn} : KeepsM Canonical (loadOpd e p opn) := by
  unfold Machine.loadOpd
  split
  · exact .look _
  · exact .pure _
  · exact .loadCell

theorem KeepsM.readOpd {e o opn} : KeepsM Canonical (readOpd e o opn) :=
  .bind .formOpd fun _ => .bind .loadOpd fun _ => .bind .stepOpd fun _ => .pure _

theorem KeepsM.checkReserved {e c opn faddr} : KeepsM Canonical (checkReserved e c opn faddr) :=
  .ite .raise (.pure _)

theorem KeepsM.checkTag {e ok opn faddr} : KeepsM Canonical (checkTag e ok opn faddr) :=
  .ite (.pure _) .raise

theorem KeepsM.writeReg {e b vopn vfa v} : KeepsM Canonical (writeReg e b vopn vfa v) :=
  .ite .setA (.ite (.guard .raise fun _ => .modRegsM) (.bind .checkTag fun _ => .modRegsM))

theorem KeepsM.storeOpd {e p opn vopn vfa v} : KeepsM Canonical (storeOpd e p opn vopn vfa v) := by
  unfold Machine.storeOpd
  split
  · exact .writeReg
  · exact .raise
  · exact .bind .storeCell fun _ => .stepOpd

/-! ### Flags -/

theorem KeepsM.stickM {e n b} : KeepsM Canonical (stickM e n b) :=
  .modRegsM

/-! ### Generic: Long instructions -/

theorem KeepsM.setMid {e m} : KeepsM Canonical (setMid e m) :=
  .act fun _ h => h.modSlot

theorem KeepsM.goOn {e l} : KeepsM Canonical (goOn e l) :=
  .bind .setMid fun _ => .pure _

theorem KeepsM.endLong {e l} : KeepsM Canonical (endLong e l) :=
  .bind .setMid fun _ => .act fun _ h => (Canonical.ite h h.unhold).modRegs

theorem KeepsM.endAtOnce {e} : KeepsM Canonical (endAtOnce e) :=
  .bind (.act fun _ h => h.clearPrg) fun _ => .pure _

theorem KeepsM.resumeLong {e op} : KeepsM Canonical (resumeLong e op) := by
  unfold Machine.resumeLong
  refine .bind (.look _) fun s => ?_
  extract_lets prg
  split
  · refine .bind (.act fun _ h => h.modAux) fun _ => .ite
      (.bind (.act fun _ h => h.clearResume) fun _ => .bind .setMid fun _ => .pure _)
      (.bind (.act fun _ h => (Canonical.ite h h.unhold).modRegs) fun _ => fun s h => ?_)
    exact ⟨fun _ _ e => (by cases e), fun _ _ _ e => (by cases e; exact h)⟩
  · exact .raise

theorem KeepsM.resuming {e} : KeepsM Canonical (resuming e) :=
  .look _

/-! ### Generic: Cells of operand objects (R49, R553) -/

theorem KeepsM.objRead {e judge va key got} (hjudge : ∀ a, KeepsM Canonical (judge a)) :
    KeepsM Canonical (objRead e judge va key got) := by
  unfold Machine.objRead
  split
  · exact .bind (hjudge _) fun _ => .pure _
  · exact .bind .translate fun ⟨t, pa⟩ => .bind .readCell fun v => .bind .passBarrier fun c =>
      .bind (hjudge _) fun _ => .pure _

theorem KeepsM.objCell {e ok va key got} : KeepsM Canonical (objCell e ok va key got) :=
  .objRead (fun _ => .guard .raise fun _ => .ite .raise (.pure _))

theorem KeepsM.objHeader {e kind va got} : KeepsM Canonical (objHeader e kind va got) :=
  .objRead (fun _ => .judgeHdr)

theorem KeepsM.passRef {e l c} : KeepsM Canonical (passRef e l c) := by
  refine .lookState fun s hs => ?_
  split
  · exact .raise
  next n s1 e1 =>
    refine fun _ _ => ⟨fun _ _ e2 => ?_, fun _ _ _ e2 => (by cases e2)⟩
    cases e2
    exact hs.barrierValue e1

theorem KeepsM.scanBig {e c got} : KeepsM Canonical (scanBig e c got) :=
  .ite (.pure _) (.bind .objHeader fun _ => .pure _)

theorem KeepsM.scanArg {e c got} : KeepsM Canonical (scanArg e c got) :=
  .ite (.bind .objHeader fun _ => .bind .objCell fun _ => .bind .objCell fun _ => .bind .scanBig fun _ =>
    .bind .scanBig fun _ => .pure _) .scanBig

theorem KeepsM.readLimbs {e l limbs got} : KeepsM Canonical (readLimbs e l limbs got) := by
  induction limbs generalizing got with
  | nil => exact .pure _
  | cons x limbs ih => exact .bind .passRef fun _ => .bind .objCell fun _ => ih

/-! ### Generic: Results (R41, R44) -/

theorem KeepsM.storeLimbs {e n va m} : KeepsM Canonical (storeLimbs e n va m) := by
  induction n generalizing va m with
  | zero => exact .pure _
  | succ n ih => exact .bind .allocStore fun _ => ih

theorem KeepsM.boxInt {e i} : KeepsM Canonical (boxInt e i) :=
  .ite (.pure _) (.bind .allocObject fun _ => .bind .storeLimbs fun _ => .refTo)

theorem KeepsM.boxRat {e n d} : KeepsM Canonical (boxRat e n d) :=
  .ite .raise (.ite .boxInt (.bind .boxInt fun _ => .bind .boxInt fun _ => .bind .allocObject fun _ =>
    .bind .allocStore fun _ => .bind .allocStore fun _ => .refTo))

theorem KeepsM.deliver {e promote f1 f2 g} : KeepsM Canonical (deliver e promote f1 f2 g) := by
  unfold Machine.deliver
  extract_lets jp1
  have hjp1 : ∀ r, KeepsM Canonical (jp1 r) := fun c => .modRegsM
  split
  · exact .bind .raise fun c => hjp1 _
  · exact .bind (.pure _) fun c => hjp1 _
  · exact .ite (.bind .boxRat fun c => hjp1 _) (.ite (.bind (.pure _) fun c => hjp1 _) (.bind .raise fun c => hjp1 _))
  · exact .ite (.bind .raise fun c => hjp1 _) (.bind .raise fun c => hjp1 _)

theorem KeepsM.checkDen {e x opn faddr} : KeepsM Canonical (checkDen e x opn faddr) :=
  .ite .raise (.pure _)

theorem KeepsM.evalGen {e g promote x y faddr} : KeepsM Canonical (evalGen e g promote x y faddr) :=
  .bind .checkDen fun _ => .bind .checkDen fun _ => .bind (.look _) fun _ => .deliver

theorem KeepsM.earlyGen {e g x y faddr} : KeepsM Canonical (earlyGen e g x y faddr) := by
  unfold Machine.earlyGen
  refine .bind (.look _) fun st => ?_
  split
  · exact .ite .raise (.pure _)
  · exact .pure _

/-! ### Generic: The microcode routine -/

theorem KeepsM.microFirst {e op o g x y faddr} : KeepsM Canonical (microFirst e op o g x y faddr) := by
  refine .bind .scanArg fun _ => .ite (.bind .scanArg fun _ => ?_) (.bind (.pure _) fun _ => ?_) <;>
    exact .bind .allocObject fun _ => .bind (.act fun _ h => h.hold) fun _ => .goOn

theorem KeepsM.microNext {e l x y faddr got} : KeepsM Canonical (microNext e l x y faddr got) := by
  unfold Machine.microNext
  split
  · exact .pure _
  · exact .ite (.bind .readLimbs fun got => .goOn) (.bind (.look _) fun st =>
      .ite .goOn (.bind .evalGen fun _ => .bind .endLong fun _ => .pure _))

theorem KeepsM.startGen {e op o g x y faddr} : KeepsM Canonical (startGen e op o g x y faddr) :=
  .ite (.stepOne _ (.bind .earlyGen fun _ => .microFirst) fun _ _ h => h.modRegs) (.bind (.look _) fun _ =>
    .ite (.stepOne _ (.ite (.bind .evalGen fun _ => .pure _) .microFirst) fun _ _ h =>
    h.modRegs) (.bind .evalGen fun _ => .pure _))

theorem KeepsM.readGen {e o g} : KeepsM Canonical (readGen e o g) :=
  .ite (.bind .readOpd fun _ => .bind .regsM fun _ => .bind .checkReserved fun _ => .bind .checkReserved fun _ =>
    .bind .checkTag fun _ => .bind .checkTag fun _ => .pure _) (.bind .readOpd fun _ => .bind .checkReserved fun _ =>
    .bind .checkTag fun _ => .pure _)

theorem Canonical.genForm {s : State} {i op o g} (h : Canonical s) : Canonical (genForm i op o g s) := by
  unfold Machine.genForm
  refine h.issue fun e => ?_
  refine .bind .checkM fun _ => ?_
  refine .bind .resuming fun r => ?_
  refine .ite ?_ ?_
  · refine .bind .resumeLong fun l => ?_
    split
    · exact .microNext
    · exact .raise
  · exact .bind .readGen fun ⟨x, y, fa⟩ => .startGen

theorem Canonical.plainForm {s : State} {i op o g} (h : Canonical s) : Canonical (plainForm i op o g s) :=
  h.mRead (fun _ => .bind .readGen fun _ => .evalGen)

/-! ### Arithmetic -/

theorem Ends.execToex {s : State} {i o} (h : Canonical s) : Ends Canonical (execToex i o s) := by
  unfold Machine.execToex
  refine .next ?_
  refine h.mRead fun e => ?_
  refine .bind .readOpd fun ⟨c, fa⟩ => ?_
  refine .bind .checkReserved fun _ => ?_
  refine .bind .checkTag fun _ => ?_
  refine .ite ?_ ?_
  · exact .setA
  split
  · exact .deliver
  · exact .deliver

theorem Ends.execTochr {s : State} {i o} (h : Canonical s) : Ends Canonical (execTochr i o s) :=
  .next (h.mRead (fun _ => .bind .readOpd fun _ => .bind .checkReserved fun _ => .bind .checkTag fun _ =>
    .bind .checkTag fun _ => .setA))

/-! ### QuantityOps -/

theorem KeepsM.judge2 {e a c fa ok1 ok2} : KeepsM Canonical (judge2 e a c fa ok1 ok2) :=
  .bind .checkReserved fun _ => .bind .checkReserved fun _ => .bind .checkTag fun _ => .checkTag

theorem Canonical.qForm {s : State} {i op o ok1 ok2 f} (h : Canonical s)
    (hf : ∀ a b d g, KeepsM Canonical (f a b d g)) : Canonical (qForm i op o ok1 ok2 f s) :=
  h.mRead (fun _ => .bind .readOpd fun _ => .bind .regsM fun _ => .bind .judge2 fun _ => hf _ _ _ _)

theorem Canonical.qNone {s : State} {i op o ok f} (h : Canonical s) : Canonical (qNone i op o ok f s) :=
  h.mNone (fun _ => .bind .regsM fun _ => .bind .checkReserved fun _ => .bind .checkTag fun _ => .bind .setA fun _ =>
    .pure _)

/-! ### Lists: List -/

theorem KeepsM.consCell {e c off opn} : KeepsM Canonical (consCell e c off opn) :=
  .ite (.pure _) .loadCell

theorem Canonical.carForm {s : State} {i op o off} (h : Canonical s) : Canonical (carForm i op o off s) :=
  h.mRead (fun _ => .bind .readOpd fun _ => .bind .checkReserved fun _ => .bind .checkTag fun _ =>
    .bind .consCell fun _ => .setA)

theorem KeepsM.checkGlobal {e c opn} : KeepsM Canonical (checkGlobal e c opn) :=
  .ite .raise (.pure _)

theorem KeepsM.checkSystem {e c opn} : KeepsM Canonical (checkSystem e c opn) :=
  .ite .raise (.pure _)

theorem Ends.execCons {s : State} {i o} (h : Canonical s) : Ends Canonical (execCons i o s) :=
  .next (h.mRead (fun _ => .bind .readOpd fun _ => .bind .regsM fun _ => .bind .checkGlobal fun _ =>
    .bind .checkGlobal fun _ => .bind .reserve fun _ => .bind .translate fun _ => .bind .checkSystem fun _ =>
    .bind .checkSystem fun _ => .bind .allocStore fun _ => .bind .allocStore fun _ =>
    .bind (.act fun _ h => h.noteObject) fun _ => .bind .refTo fun _ => .setA))

theorem Canonical.setCarForm {s : State} {i op o off} (h : Canonical s) : Canonical (setCarForm i op o off s) :=
  h.mRead (fun _ => .bind .readOpd fun _ => .bind .regsM fun _ => .bind .checkReserved fun _ =>
    .bind .checkTag fun _ => .storeCell)

/-! ### Lists: Allocation -/

theorem KeepsM.checkCount {e c limit} : KeepsM Canonical (checkCount e c limit) :=
  .ite (.pure _) .raise

theorem Ends.execValloc {s : State} {i o} (h : Canonical s) : Ends Canonical (execValloc i o s) :=
  .next (h.mRead (fun _ => .bind .readOpd fun _ => .bind .checkReserved fun _ => .bind .checkTag fun _ =>
    .bind .checkCount fun _ => .bind .allocObject fun _ => .bind .refTo fun _ => .setA))

theorem Ends.execRalloc {s : State} {i o} (h : Canonical s) : Ends Canonical (execRalloc i o s) :=
  .next (h.mRead (fun _ => .bind .readOpd fun _ => .bind .regsM fun _ => .bind .judge2 fun _ =>
    .bind .checkCount fun _ => .bind .allocObject fun _ => .bind .refTo fun _ => .setA))

theorem Ends.execClalloc {s : State} {i o} (h : Canonical s) : Ends Canonical (execClalloc i o s) :=
  .next (h.mRead (fun _ => .bind .readOpd fun _ => .bind .regsM fun _ => .bind .judge2 fun _ =>
    .guard .raise fun _ => .bind .checkCount fun _ => .bind .allocObject fun _ => .bind .refTo fun _ => .setA))

theorem KeepsM.zeroBody {e n va} : KeepsM Canonical (zeroBody e n va) := by
  induction n generalizing va with
  | zero => exact .pure _
  | succ n ih => exact .bind .allocStore fun _ => ih

theorem KeepsM.sallocNext {e l a bytes done} : KeepsM Canonical (sallocNext e l a bytes done) :=
  .bind .zeroBody fun _ => .ite (.bind .refTo fun _ => .bind .setA fun _ => .bind .endLong fun _ => .pure _) .goOn

theorem Ends.execSalloc {s : State} {i o} (h : Canonical s) : Ends Canonical (execSalloc i o s) := by
  refine .next (h.issue fun e => .bind .checkM fun _ => .bind .resuming fun _ =>
    .ite (.bind .resumeLong fun l => ?_) ?_)
  · split
    · exact .sallocNext
    · exact .raise
  refine .stepOne _ ?_ fun _ _ h => h.modRegs
  refine .bind .readOpd fun _ => .bind .checkReserved fun _ => .bind .checkTag fun _ => .bind .checkCount fun n =>
    .bind .allocObject fun a => ?_
  exact .ite (.bind .refTo fun v => .bind .setA fun _ => .endAtOnce) (.bind (.act fun _ h => h.hold) fun _ => .goOn)

/-! ### Lists: Objects -/

theorem KeepsM.objOpd {e o opn ok} : KeepsM Canonical (objOpd e o opn ok) :=
  .bind .readOpd fun _ => .bind .checkReserved fun _ => .bind .checkTag fun _ => .bind .readHdr fun _ => .pure _

theorem KeepsM.stringCell {e c a x opn} : KeepsM Canonical (stringCell e c a x opn) := by
  unfold Machine.stringCell
  exact .guard .raise fun _ => .bind .loadCell fun v => .guard .raise fun _ => .guard .raise fun _ => .pure _

theorem Ends.execSldb {s : State} {i o} (h : Canonical s) : Ends Canonical (execSldb i o s) :=
  .next (h.mRead (fun _ => .bind .objOpd fun _ => .bind .regsM fun _ => .bind .stringCell fun _ => .setA))

theorem Ends.execSstb {s : State} {i o} (h : Canonical s) : Ends Canonical (execSstb i o s) :=
  .next (h.mRead (fun _ => .bind .readOpd fun _ => .bind .regsM fun _ => .bind .judge2 fun _ =>
    .bind .readHdr fun _ => .bind .stringCell fun _ => .storeCell))

/-! ### Lists: VCOPY (R125) -/

theorem KeepsM.vcopyNext {e l dst src x y k done} : KeepsM Canonical (vcopyNext e l dst src x y k done) :=
  .bind .passRef fun _ => .bind .passRef fun _ => .bind .loadCell fun _ => .bind .storeCell fun _ =>
    .ite (.bind .endLong fun _ => .pure _) .goOn

theorem KeepsM.checkSpan {e c h x k opn} : KeepsM Canonical (checkSpan e c h x k opn) :=
  .ite (.pure _) .raise

theorem Ends.execVcopy {s : State} {i o} (h : Canonical s) : Ends Canonical (execVcopy i o s) := by
  refine .next (h.issue fun e => .bind .checkM fun _ => .bind .resuming fun _ =>
    .ite (.bind .resumeLong fun l => ?_) ?_)
  · split
    · exact .vcopyNext
    · exact .raise
  refine .stepOne _ ?_ fun _ _ h => h.modRegs
  exact .bind .readOpd fun _ => .bind .regsM fun _ => .bind .judge2 fun _ => .bind .readHdr fun _ =>
    .bind .readHdr fun _ => .bind .checkSpan fun _ => .bind .checkSpan fun _ => .ite .endAtOnce .goOn

/-! ### Capabilities -/

theorem Canonical.capForm {s : State} {i op o ok1 ok2 f} (h : Canonical s) (hf : ∀ a b d, KeepsM Canonical (f a b d))
    : Canonical (capForm i op o ok1 ok2 f s) :=
  h.mRead (fun _ => .bind .readOpd fun _ => .bind .regsM fun _ => .bind .judge2 fun _ => .bind (hf _ _ _) fun _ =>
    .setA)

theorem Canonical.capNone {s : State} {i op o f} (h : Canonical s) : Canonical (capNone i op o f s) :=
  h.qNone

theorem Ends.execCbound {s : State} {i o} (h : Canonical s) : Ends Canonical (execCbound i o s) := by
  refine .next (h.capForm fun e _ _ => .bind .regsM fun r => ?_)
  dsimp only
  split
  · exact .pure _
  · exact .raise

theorem KeepsM.namedType {e c right} : KeepsM Canonical (namedType e c right) :=
  .guard .raise fun _ => .guard .raise fun _ => .pure _

theorem KeepsM.pushCall {e} : KeepsM Canonical (pushCall e) :=
  .bind .regsM fun _ => .bind .push fun _ => .bind .returnCap fun _ => .push

theorem Ends.execInvoke {s : State} {i o} (h : Canonical s) : Ends Canonical (execInvoke i o s) :=
  .next (h.mForm (fun _ => .bind .readOpd fun _ => .bind .checkReserved fun _ => .bind .checkTag fun _ =>
    .guard .raise fun _ => .guard .raise fun _ => .bind .loadAt fun _ => .bind .loadAt fun _ =>
    .bind .checkReserved fun _ => .bind .checkReserved fun _ => .guard .raise fun _ => .guard .raise fun _ =>
    .guard .raise fun _ => .guard .raise fun _ => .bind .checkTarget fun _ => .bind .pushCall fun _ =>
    .bind .modRegsM fun _ => .pure _))

/-! ### Collector -/

theorem Canonical.linkPop {s : State} {n event} (h : Canonical s) : Canonical (s.linkPop n event) := by
  simp only [State.linkPop]
  split
  · exact h.setLink.linkKick
  · exact h.setLink

theorem Canonical.linkPresent {s : State} (h : Canonical s) : Canonical s.linkPresent := by
  simp only [State.linkPresent]
  split
  · exact h.linkPop.update
  · exact h

theorem Canonical.portPop {s : State} {p} (h : Canonical s) : Canonical (s.portPop p) :=
  .ite h.modGy.gyDrain (.ite h.update (.ite h.modPanel h.update))

theorem Canonical.collAccept {s0 : State} (h : Canonical s0) : Canonical s0.collAccept :=
  h.linkPresent.update.foldl fun _ _ h => h.portPop

theorem Canonical.logRecord {s : State} {r} (h : Canonical s) : Canonical (s.logRecord r) :=
  h.logErr

theorem Canonical.collRetire {s : State} (h : Canonical s) : Canonical s.collRetire := by
  unfold State.collRetire
  split
  · exact h
  extract_lets t orphan u
  have hu : Canonical u := .ite h.update (.ite h.update.ckptComplete h.update.post)
  exact .ite hu.logRecord hu

/-! ### Control -/

theorem KeepsM.branchTo {e off} : KeepsM Canonical (branchTo e off) :=
  .ite (.pure _) .raise

theorem Canonical.branchForm {s : State} {i op off cond} (h : Canonical s) (hcond : ∀ a, KeepsM Canonical (cond a)) :
    Canonical (branchForm i op off cond s) :=
  h.bForm (fun _ => .bind (hcond _) fun _ => .ite .branchTo (.pure _))

theorem KeepsM.constCond {p e} : KeepsM Canonical (constCond p e) :=
  .bind .regsM fun _ => .bind .checkReserved fun _ => .bind .checkTag fun _ => .pure _

theorem KeepsM.nilCond {e} : KeepsM Canonical (nilCond e) :=
  .bind .regsM fun _ => .pure _

theorem Ends.execBknz {s : State} {i off} (h : Canonical s) : Ends Canonical (execBknz i off s) :=
  .next (h.branchForm (fun _ => .bind .regsM fun _ => .ite (.pure _) (.bind .modRegsM fun _ => .pure _)))

theorem KeepsM.targetOpd {e o} : KeepsM Canonical (targetOpd e o) :=
  .bind .readOpd fun _ => .checkExec

theorem Ends.execCall {s : State} {i o} (h : Canonical s) : Ends Canonical (execCall i o s) :=
  .next (h.mForm (fun _ => .bind .targetOpd fun _ => .bind .returnCap fun _ => .bind .push fun _ => .pure _))

theorem Ends.execCallc {s : State} {i o} (h : Canonical s) : Ends Canonical (execCallc i o s) :=
  .next (h.mForm (fun _ => .bind .objOpd fun _ => .bind .checkTarget fun _ => .bind .pushCall fun _ =>
    .bind (.look _) fun _ => .bind .modRegsM fun _ => .pure _))

theorem KeepsM.popTarget {e} : KeepsM Canonical (popTarget e) :=
  .bind .regsM fun _ => .bind .pop fun _ => .checkExec

theorem Ends.execRetc {s : State} {i o} (h : Canonical s) : Ends Canonical (execRetc i o s) :=
  .next (h.mForm (fun _ => .bind .popTarget fun _ => .bind .regsM fun _ => .bind .pop fun _ =>
    .bind .checkReserved fun _ => .guard .raise fun _ => .bind .modRegsM fun _ => .pure _))

/-! ### Pins: The JTAG port (R532, R533) -/

theorem Canonical.jtagLoad {s : State} {code} (h : Canonical s) : Canonical (s.jtagLoad code) :=
  .ite h h.update

theorem Canonical.samplePreload {s : State} {captured preload} (h : Canonical s) :
    Canonical (s.samplePreload captured preload) :=
  .ite h h.update

/-! ### DictRows: Entries with a command of their own -/

theorem Canonical.entryRow {s : State} {w index x} (h : Canonical s) : Canonical (s.entryRow w index x) :=
  .ite h.direct (.ite h.modDict h)

theorem Canonical.imgRow {s : State} {w v x} (h : Canonical s) : Canonical (s.imgRow w v x) :=
  .ite h.entryRow h

/-! ### Events -/

theorem KeepsM.checkName {e cell name right} : KeepsM Canonical (checkName e cell name right) := by
  unfold Machine.checkName
  refine .ite ?_ ?_
  · refine .bind (.look _) fun c => ?_
    refine .guard .raise fun _ => ?_
    refine .guard .raise fun _ => ?_
    split
    · exact .ite .raise (.pure _)
    · exact .pure _
  · exact .pure _

theorem KeepsM.evOpd {e o} : KeepsM Canonical (evOpd e o) :=
  .bind .readOpd fun _ => .bind .checkReserved fun _ => .bind .checkTag fun _ => .pure _

theorem Ends.execWfe {s : State} {i o} (h : Canonical s) : Ends Canonical (execWfe i o s) := by
  simp only [Machine.execWfe]
  refine .next ?_
  refine h.mNone fun e => ?_
  refine .bind (.look _) fun r => ?_
  split
  · exact .bind (.act fun _ h => h.setChan.setRecField) fun _ => .bind .setA fun _ => .pure _
  · exact .bind (.act fun _ h => h.sleepAs) fun _ => .pure _

theorem Ends.execWaitt {s : State} {i o} (h : Canonical s) : Ends Canonical (execWaitt i o s) :=
  .next (h.mForm (fun _ => .bind .formOpd fun _ => .bind .loadOpd fun _ => .bind .checkReserved fun _ =>
    .bind .checkTag fun _ => .bind (.look _) fun _ => .ite (.bind (.act fun _ h =>
    h.setRecField.sleepAs.modAux) fun _ => .pure _) (.bind .stepOpd fun _ => .bind .stickM fun _ => .pure _)))

theorem Canonical.evsub {s : State} {n ch} (h : Canonical s) : Canonical (s.evsub n ch).2 := by
  simp only [State.evsub]
  split
  · exact h
  split
  · exact h
  · exact h.setChan.modAux.setRecField

theorem Canonical.evunsub {s : State} {n ch} (h : Canonical s) : Canonical (s.evunsub n ch).2 := by
  simp only [State.evunsub]
  split
  · exact h.setChan.modAux.setRecField
  · exact h

theorem Ends.execEvsub {s : State} {i o} (h : Canonical s) : Ends Canonical (execEvsub i o s) :=
  .next (h.mRead (fun _ => .bind .evOpd fun _ => .bind .checkName fun _ => .bind (.takeM fun _ h => h.evsub) fun _ =>
    .setA))

theorem Ends.execEvpend {s : State} {i o} (h : Canonical s) : Ends Canonical (execEvpend i o s) :=
  .next (h.mRead (fun _ => .bind .evOpd fun _ => .bind .checkName fun _ => .bind (.look _) fun _ =>
    .bind (.act fun _ h => h.setChan) fun _ => .setA))

/-! ### GeyserRows -/

theorem Canonical.gyMeets {s : State} {g cmd c span} (h : Canonical s) : Canonical (s.gyMeets g cmd c span) :=
  (Canonical.ite h h.eccIn).gyWrite

theorem Ends.execStageValueProcessed {s : State} {g slot stage} (h : Canonical s) :
    Ends Canonical (execStageValueProcessed g slot stage s) := by
  unfold Machine.execStageValueProcessed
  refine .next ?_
  split
  · exact h
  split
  · exact h.stageValue
  · exact h.meshLost.modGy.stageValue.modGy

/-! ### HeapRows: The cycle -/

theorem Canonical.engineStep {s : State} {a f} (h : Canonical s) (hf : ∀ s, Canonical s → Canonical (f s)) :
    Canonical (s.engineStep a f) := by
  simp only [State.engineStep]
  split
  · exact hf _ h
  split
  · exact h.eccIn.meshLost.modHeap
  · exact hf _ h.eccIn

theorem Canonical.engineTrace {s : State} {se item} (h : Canonical s) : Canonical (s.engineTrace se item) := by
  unfold State.engineTrace
  split
  · exact h
  split
  · exact h.traceRecord
  · exact h.traceCard
  · exact h.traceObject
  · exact h.traceBlock

/-! ### HeapRows: The journal -/

theorem Canonical.commitHit {s : State} {a} (h : Canonical s) : Canonical (s.commitHit a) := by
  simp only [State.commitHit]
  split
  · exact h
  refine Canonical.modJr ?_
  split
  · exact h.eccIn.meshLost
  · exact h.eccIn

/-! ### HostRows -/

theorem Canonical.ifOpen {s t : State} {f} (h : Canonical s) (hold : Canonical t) : Canonical (s.ifOpen f t) :=
  .ite hold h

/-! ### HostRows: DMA (R400) -/

theorem Canonical.dmaCmd {s : State} {c cmd} (h : Canonical s) : Canonical (s.dmaCmd c cmd) :=
  (Canonical.ite h.eccFinds h).dmcmd

/-! ### Repeats: One iteration (R135) -/

theorem KeepsM.stepIndex {e o d} : KeepsM Canonical (stepIndex e o d) :=
  .modRegsM

theorem KeepsM.stepBoth {e d} : KeepsM Canonical (stepBoth e d) :=
  .modRegsM

theorem KeepsM.moveCell {e o d feeds} : KeepsM Canonical (moveCell e o d feeds) := by
  unfold Machine.moveCell
  refine .bind .formOpd fun src => .bind .loadOpd fun v => .bind .formOpd fun dst => ?_
  extract_lets jp1
  have hjp1 : ∀ r, KeepsM Canonical (jp1 r) := fun _ => .bind .stepBoth fun _ => .pure _
  split
  · exact .bind .storeCell hjp1
  · exact hjp1 ()

theorem KeepsM.fillCell {e o} : KeepsM Canonical (fillCell e o) :=
  .bind .formOpd fun _ => .bind .regsM fun _ => .bind .storeOpd fun _ => .bind .stepIndex fun _ => .pure _

theorem KeepsM.compareCell {e o} : KeepsM Canonical (compareCell e o) :=
  .bind .formOpd fun _ => .bind .loadOpd fun _ => .bind .formOpd fun _ => .bind .loadOpd fun _ =>
    .ite (.bind .stepBoth fun _ => .pure _) (.pure _)

theorem KeepsM.scanTag {e o} : KeepsM Canonical (scanTag e o) :=
  .bind .regsM fun _ => .ite (.pure _) (.bind .checkTag fun _ => .pure _)

theorem KeepsM.scanCell {e o same} : KeepsM Canonical (scanCell e o same) :=
  .bind .formOpd fun _ => .bind .loadOpd fun _ => .bind .scanTag fun _ =>
    .ite (.pure _) (.bind .stepIndex fun _ => .pure _)

theorem Canonical.zeroVent {s : State} {va} (h : Canonical s) : Canonical (s.zeroVent va) :=
  .ite h.update h

theorem KeepsM.zeroOne {e o} : KeepsM Canonical (zeroOne e o) := by
  unfold Machine.zeroOne
  refine .bind .formOpd fun p => ?_
  extract_lets done
  have hdone : ∀ r, KeepsM Canonical (done r) := fun _ => .bind .stepIndex fun _ => .pure _
  split
  · refine .bind .checkBounds fun _ => .bind .checkRights fun _ => ?_
    extract_lets write
    have hwrite : ∀ r, KeepsM Canonical (write r) := fun _ =>
      .bind .translateSpan fun _ => .bind (.look _) fun _ =>
        .guard (.act fun _ h => h.foldl fun _ _ h => h.zeroVent) fun _ =>
        .guard (.act fun _ h => h.failStore) fun _ =>
        .ite (.bind (.look _) fun _ => .guard (.stall _) fun _ =>
          .bind (.act fun _ h => Canonical.storeBarrier (.ite h.zeroLine h.zeroLine.setCells)) hdone) (hdone ())
    split
    · exact .ite (.bind .raise hwrite) (hwrite ())
    · exact hwrite ()
  · exact hdone ()

theorem KeepsM.searchStep {e o held} : KeepsM Canonical (searchStep e o held) := by
  unfold Machine.searchStep
  extract_lets search
  have hsearch : ∀ key, KeepsM Canonical (search key) := fun key =>
    .bind .regsM fun r => .bind .checkReserved fun _ => .bind .checkTag fun _ => .ite (.pure _)
      (.bind .loadCell fun entry => .bind .checkReserved fun _ => .bind .checkTag fun _ => .bind .loadCell fun k =>
        .ite (.bind .setA fun _ => .pure _) (.bind .loadCell fun d => .bind .setA fun _ => .pure _))
  split
  · exact .bind (.pure _) hsearch
  · exact .bind .readOpd fun _ => .bind (.pure _) hsearch

theorem KeepsM.iterate {e op o key} : KeepsM Canonical (iterate e op o key) := by
  unfold Machine.iterate
  refine .ite (.bind .searchStep fun _ => .pure _) ?_
  extract_lets done
  have hdone : ∀ b, KeepsM Canonical (done b) := fun _ => .pure _
  refine .ite (.bind .moveCell hdone) (.ite (.bind .moveCell hdone) (.ite (.bind .fillCell hdone) ?_))
  refine .ite (.bind .compareCell hdone) (.ite (.bind .scanCell hdone) (.ite (.bind .scanCell hdone) ?_))
  exact .bind .zeroOne hdone

theorem KeepsM.endIterations {e op ended} : KeepsM Canonical (endIterations e op ended) :=
  .ite .setA (.ite .setA (.pure _))

/-! ### Repeats: one execution -/

theorem Canonical.onceForm {s : State} {i op o ok} (h : Canonical s) : Canonical (onceForm i op o ok s) :=
  h.mForm (fun _ => .bind .iterate fun _ => .bind .endIterations fun _ => .pure _)

/-! ### Repeats: repeated execution -/

theorem KeepsM.repeatOnce {e rp} : KeepsM Canonical (repeatOnce e rp) :=
  .bind .iterate fun _ => .ite (.bind .setMid fun _ => .bind .modRegsM fun _ => .bind .endIterations fun _ =>
    .pure _) (.bind .setMid fun _ => .pure _)

theorem KeepsM.firstIteration {e rp} : KeepsM Canonical (firstIteration e rp) := by
  intro s h
  have h1 : Canonical (s.modSlot e.q fun v => { v with mid := .rep rp }) := h.modSlot
  simp only [Machine.firstIteration]
  split
  · refine ⟨fun _ _ e => (by cases e), fun _ _ _ e => ?_⟩
    cases e
    exact .ite h1.modRegs h1
  · exact KeepsM.repeatOnce _ h1

theorem KeepsM.prefixBody {e pop pm pb disp gop o} : KeepsM Canonical (prefixBody e pop pm pb disp gop o) := by
  unfold Machine.prefixBody
  refine .guard .raise fun _ => ?_
  refine .ite (.bind .fetchWord fun _ => ?_) ?_
  all_goals
    refine .guard .raise fun _ => .bind .checkM fun _ => .bind .regsM fun r =>
      .bind (.act fun _ h => h.clearResume) fun _ => ?_
    exact .ite (.bind .modRegsM fun _ => .pure _) .firstIteration

theorem Canonical.prefixForm {s : State} {i pop pm pb disp gop o} (h : Canonical s) :
    Canonical (prefixForm i pop pm pb disp gop o s) :=
  h.issue (fun _ => .prefixBody)

theorem Ends.execRepeatIteration {s : State} {i} (h : Canonical s) : Ends Canonical (execRepeatIteration i s) := by
  simp only [Machine.execRepeatIteration]
  refine .next ?_
  split
  · split
    · exact h
    split
    · exact h.takeAsync.atBoundaries
    · exact (h.runIn .repeatOnce).atBoundaries
  · exact h

/-! ### Maintenance: Lines (R278, R279) -/

theorem KeepsM.treatLine {e t pa op} : KeepsM Canonical (treatLine e t pa op) :=
  .ite (.bind (.look _) fun _ => .guard (.stall _) fun _ => .act fun _ h =>
    h.flushAround.drainLine.maintLine) (.pure _)

theorem Canonical.lineForm {s : State} {i op o kind} (h : Canonical s) : Canonical (lineForm i op o kind s) := by
  refine h.mForm fun e => .bind .formOpd fun p => ?_
  split
  · exact .bind .translate fun _ => .bind .treatLine fun _ => .bind .stepOpd fun _ => .pure _
  · exact .pure _

/-! ### Maintenance: DRANGE (R280) -/

theorem KeepsM.drangeNext {e l next stop sub} : KeepsM Canonical (drangeNext e l next stop sub) :=
  .bind .translate fun _ => .bind .treatLine fun _ => .ite (.bind .endLong fun _ => .pure _) .goOn

theorem Canonical.drangeForm {s : State} {i sub opnd} (h : Canonical s) : Canonical (drangeForm i sub opnd s) := by
  simp only [Machine.drangeForm]
  refine h.issue fun e => ?_
  refine .guard .raise fun _ => ?_
  refine .guard .raise fun _ => ?_
  refine .bind .resuming fun r => ?_
  refine .ite ?_ ?_
  · refine .bind .resumeLong fun l => ?_
    split
    · exact .drangeNext
    · exact .raise
  · exact .stepOne _ (.bind .regsM fun r => .guard .raise fun _ => .ite .endAtOnce .drangeNext) fun _ _ h => h.modRegs

/-! ### Maintenance: The executing core (R281 to R285) -/

theorem KeepsM.onCore {e f} (hf : ∀ s, Canonical s → Canonical (f s)) : KeepsM Canonical (onCore e f) :=
  .ite (.pure _) (.act fun _ h => hf _ h)

theorem Canonical.machineForm {s : State} {i op sub opnd opndOk body} (h : Canonical s)
    (hbody : ∀ a, KeepsM Canonical (body a)) : Canonical (machineForm i op sub opnd opndOk body s) :=
  h.sForm (fun _ _ => hbody _ _)

theorem Ends.execDinvall {s : State} {i sub opnd} (h : Canonical s) : Ends Canonical (execDinvall i sub opnd s) :=
  .next (h.machineForm (fun _ => .bind (.onCore (fun _ h => h.invalidateAll.modCore)) fun _ => .pure _))

theorem Canonical.shrinkCache {s : State} {c keep} (h : Canonical s) : Canonical (s.shrinkCache c keep) :=
  h.foldl fun _ _ h => h.writeBackEntry.modCore

theorem Canonical.lockEntries {s : State} {c n x} (h : Canonical s) : Canonical (s.lockEntries c n x) :=
  (h.modCore.foldl fun _ _ h => h.writeBackEntry).shrinkCache.modCore

theorem Ends.execL1lock {s : State} {i sub opnd} (h : Canonical s) : Ends Canonical (execL1lock i sub opnd s) :=
  .next (h.machineForm (fun _ => .bind .regsM fun _ => .guard .raise fun _ => .bind (.look _) fun _ =>
    .guard (.stall _) fun _ => .bind (.onCore (fun _ h => h.lockEntries)) fun _ => .pure _))

/-! ### Maintenance: TLBI (R261 to R263) -/

theorem Canonical.tlbi {s : State} {sel} (h : Canonical s) : Canonical (s.tlbi sel) :=
  (h.foldl fun _ _ h => h.modCore).update

theorem Canonical.tlbiForm {s : State} {i sub opnd ok sel} (h : Canonical s) :
    Canonical (tlbiForm i sub opnd ok sel s) :=
  h.sForm (fun _ => .bind .regsM fun _ => .guard .raise fun _ => .bind (.act fun _ h => h.tlbi) fun _ => .pure _)

/-! ### Maintenance: Events of the object cache -/

theorem Canonical.fillSector {s : State} {c line sec ev} (h : Canonical s) :
    Canonical (s.fillSector c line sec ev) := by
  unfold State.fillSector
  split
  · exact h
  extract_lets g s1 good
  have h1 : Canonical s1 := h.shareFor.eccFound
  exact .ite h (Canonical.ite h1.dirShare h1).modCore

/-! ### MachineLevel: Calls, returns and the mask level (R131, R160, R161, R186) -/

theorem Canonical.abandon {s : State} {q n} (h : Canonical s) : Canonical (s.abandon q n) := by
  simp only [State.abandon]
  split
  · exact h
  refine Canonical.modRegs ?_
  split
  · exact (Canonical.ite h h.unhold).modAux
  · exact h

theorem Ends.execMret {s : State} {i sub opnd} (h : Canonical s) : Ends Canonical (execMret i sub opnd s) :=
  .next (h.machineForm (fun _ => .bind .regsM fun _ => .bind .checkTarget fun _ =>
    .guard (.act fun _ h => h.abandon) fun _ => .bind .modRegsM fun _ => .bind (.act fun _ h => h.modSlot) fun _ =>
    .pure _))

/-! ### MachineLevel: Cells and machine registers (R35, R131, R132, R165 to R167) -/

theorem Canonical.setMachineReg {s : State} {q sub c} (h : Canonical s) : Canonical (s.setMachineReg q sub c) := by
  simp only [State.setMachineReg]
  split
  · exact h.modCore
  · exact h.modRegs
  · exact h.modRegs
  · exact h.modRegs
  · exact h.modRegs
  · exact h.modRegs
  · exact h.modRegs
  · exact h.modRegs
  · exact h.modRegs
  · exact h.modRegs
  · exact h.modRegs
  · exact h.modRegs
  · exact h.modRegs
  · exact h

theorem Ends.execMwr {s : State} {i sub opnd} (h : Canonical s) : Ends Canonical (execMwr i sub opnd s) := by
  refine .next (h.sForm fun e => .bind .regsM fun r => .ite ?_ ?_)
  · exact .bind .checkReserved fun _ => .bind .checkTag fun _ => .bind (.act fun _ h => h.setMachineReg) fun _ =>
      .pure _
  · exact .bind (.act fun _ h => h.setMachineReg) fun _ => .pure _

/-! ### MachineLevel: TLBW (R252 to R255, R263) -/

theorem Ends.execTlbw {s : State} {i sub opnd} (h : Canonical s) : Ends Canonical (execTlbw i sub opnd s) := by
  refine .next (h.machineForm fun e => .bind (.look _) fun v => .ite ?_ ?_)
  · exact .bind .checkReserved fun _ => .bind .checkTag fun _ => .guard .raise fun _ =>
      .bind (.onCore fun _ h => h.modCore) fun _ => .bind (.act fun _ h => h.modSlot) fun _ => .pure _
  · exact .bind (.act fun _ h => h.modSlot) fun _ => .pure _

/-! ### MachineLevel: Physical accesses (R250) -/

theorem KeepsM.physAddr {e acc} : KeepsM Canonical (physAddr e acc) :=
  .bind .regsM fun _ => .guard .raise fun _ => .pure _

theorem Ends.execPld {s : State} {i sub opnd} (h : Canonical s) : Ends Canonical (execPld i sub opnd s) :=
  .next (h.machineForm (fun _ => .bind .physAddr fun _ => .guard .raise fun _ => .bind .readCell fun _ =>
    .bind .passBarrier fun _ => .bind .setA fun _ => .pure _))

theorem Ends.execPst {s : State} {i sub opnd} (h : Canonical s) : Ends Canonical (execPst i sub opnd s) :=
  .next (h.machineForm (fun _ => .bind .physAddr fun _ => .bind .regsM fun _ =>
    .bind (.writePhys (fun _ h => Canonical.ite h.storeMark h)) fun _ => .pure _))

/-! ### MachineLevel: Context records (R196, R197) -/

theorem Canonical.ctxWrite {s : State} {n c v} (h : Canonical s) : Canonical (s.ctxWrite n c v) := by
  unfold State.ctxWrite
  extract_lets was t
  have ht : Canonical t := h.setRec
  refine .ite ?_ (.ite ht.modAux (.ite ht.checkInterrupts (.ite (.ite ht.makeReady ht.checkEvents) ht)))
  exact .ite ht.checkEvents.checkInterrupts
    (.ite ht.modAux.makeReady ht.modAux.sleepAs.checkEvents.checkInterrupts)

theorem KeepsM.recordAccess {e n c v} : KeepsM Canonical (recordAccess e n c v) := by
  unfold Machine.recordAccess
  split
  · refine .bind (.look _) fun x => .looked fun s hs => ?_
    split
    · exact .raise
    next y t e => exact .bind (.act fun _ _ => .ite (hs.barrierAt e) (hs.barrierAt e).setRec) fun _ => .setA
  refine .bind (.look _) fun r => ?_
  split
  · exact .raise
  · exact .act fun _ h => h.ctxWrite

theorem Canonical.recordForm {s : State} {i op sub opnd store} (h : Canonical s) :
    Canonical (recordForm i op sub opnd store s) := by
  refine h.machineForm fun e => .bind .regsM fun r => .guard .raise fun _ => .guard .raise fun _ =>
    .bind (.look _) fun t => .ite ?_ (.bind .recordAccess fun _ => .pure _)
  split
  · exact .raise
  · exact .bind (.act fun _ h => h.modSlot) fun _ => .pure _

theorem Canonical.evictForAccess {s : State} {i} (h : Canonical s) : Canonical (s.evictForAccess i) := by
  simp only [State.evictForAccess]
  split
  · exact .ite h (h.evictCtx.modSlot.runIn (.bind .recordAccess fun _ => .pure _))
  · exact h

/-! ### MachineLevel: Steps and boundaries -/

theorem KeepsM.stepLong {e l} : KeepsM Canonical (stepLong e l) := by
  unfold Machine.stepLong
  split
  · exact .microNext
  · exact .vcopyNext
  · exact .sallocNext
  · exact .drangeNext

theorem Ends.execLongInstructionStep {s : State} {i} (h : Canonical s) :
    Ends Canonical (execLongInstructionStep i s) := by
  simp only [Machine.execLongInstructionStep]
  refine .next ?_
  split
  · split
    · exact h
    split
    · exact h.takeAsync
    · exact h.runIn .stepLong
  · exact h

theorem Ends.execAsyncCauseTaken {s : State} {i} (h : Canonical s) : Ends Canonical (execAsyncCauseTaken i s) := by
  simp only [Machine.execAsyncCauseTaken]
  refine .next ?_
  split
  · exact h
  split
  · split
    · exact h.takeAsync
    · exact h
  · exact h

theorem Ends.execBusErrorStore {s : State} {i pa pst} (h : Canonical s) :
    Ends Canonical (execBusErrorStore i pa pst s) := by
  unfold Machine.execBusErrorStore
  refine .next ?_
  split
  · exact h
  · exact h.failStore

theorem Ends.execInstructionFetchFault {s : State} {i} (h : Canonical s) :
    Ends Canonical (execInstructionFetchFault i s) := by
  refine .next (h.issueIf fun e s h => ?_)
  split
  next x e1 =>
    refine ⟨fun _ _ e => (by cases e), fun _ _ _ e => ?_⟩
    cases e
    exact (KeepsM.fetchCell _ h).2 _ _ _ e1
  · exact ⟨fun _ _ e => (by cases e; exact h), fun _ _ _ e => (by cases e)⟩

/-! ### Movement: Shared forms -/

theorem Canonical.storeForm {s : State} {i op o opn v} (h : Canonical s) : Canonical (storeForm i op o opn v s) :=
  h.mWrite (fun _ => .bind .formOpd fun _ => .bind .regsM fun _ => .storeOpd)

theorem Canonical.loadWord {s : State} {i op o f} (h : Canonical s) : Canonical (loadWord i op o f s) :=
  h.mRead (fun _ => .bind .readOpd fun _ => .bind .checkReserved fun _ => .bind .checkTag fun _ => .modRegsM)

theorem Canonical.loadCap {s : State} {i op o f} (h : Canonical s) : Canonical (loadCap i op o f s) :=
  h.mRead (fun _ => .bind .readOpd fun _ => .bind .checkReserved fun _ => .guard .raise fun _ => .modRegsM)

theorem KeepsM.rmwOpd {e va u opn known need} (hneed : ∀ a, KeepsM Canonical (need a)) :
    KeepsM Canonical (rmwOpd e va u opn known need) := by
  unfold Machine.rmwOpd
  refine .bind (.act fun _ h => h.orderStores) fun _ => ?_
  refine .bind .checkBounds fun _ => ?_
  refine .bind .checkRights fun _ => ?_
  refine .bind .checkStore fun _ => ?_
  refine .bind .translate fun ⟨t, pa⟩ => ?_
  refine .bind .readCell fun v => ?_
  refine .guard .checkRights fun _ => ?_
  refine .bind .passBarrier fun old => ?_
  refine .bind (hneed _) fun r => ?_
  split
  · exact .pure _
  · exact .guard .raise fun _ => .bind .writeCell fun _ => .pure _

/-! ### Movement: The meanings -/

theorem Ends.execXchg {s : State} {i o} (h : Canonical s) : Ends Canonical (execXchg i o s) := by
  unfold Machine.execXchg
  refine .next ?_
  refine h.mWrite fun e => ?_
  refine .bind .formOpd fun p => ?_
  refine .bind .regsM fun r => ?_
  split
  · exact .bind (.rmwOpd (fun x => .pure _)) fun old => .bind .stepOpd fun _ => .setA
  · exact .bind (.act fun _ h => h.orderStores) fun _ => .bind .loadOpd fun old => .bind .storeOpd fun _ => .setA

theorem Ends.execCas {s : State} {i o} (h : Canonical s) : Ends Canonical (execCas i o s) := by
  simp only [Machine.execCas]
  refine .next ?_
  refine h.mWrite fun e => ?_
  refine .bind .formOpd fun p => ?_
  refine .bind .regsM fun r => ?_
  split
  · exact .bind (.rmwOpd (fun old => .bind (.bind .authOf fun u => .loadAt) fun n => .bind .checkStore fun _ =>
      .pure _)) fun old => .bind .stepOpd fun _ => .setA
  · exact .bind (.act fun _ h => h.orderStores) fun _ => .bind .loadOpd fun old =>
      .bind (.bind .authOf fun u => .loadAt) fun n => .guard .storeOpd fun _ => .setA

/-! ### PowerRows: Evaluation, entry and exit (R462 to R466) -/

theorem Canonical.wake {s : State} {x} (h : Canonical s) : Canonical (s.wake x) := by
  simp only [State.wake]
  split
  · exact h.wakeTo
  · exact h.wakeTo
  · exact .ite h h.wakeTo
  · exact h.wakeTo
  · exact h.wakeTo
  · exact .ite h.holdFrame h
  · exact h.evaluate

/-! ### PowerRows: Power fail and reset (R376, R378, R510, R543) -/

theorem Canonical.powerFailCommit {s : State} {staged} (h : Canonical s) : Canonical (s.powerFailCommit staged) :=
  .ite h (Canonical.ite .powerFail h).countUp

/-! ### Raw: Type tests -/

theorem Ends.execTypep {s : State} {i o} (h : Canonical s) : Ends Canonical (execTypep i o s) :=
  .next (h.mRead (fun _ => .bind .readOpd fun _ => .bind .regsM fun _ => .bind .checkTag fun _ =>
    .bind .checkTag fun _ => .setA))

/-! ### Raw: RAW -/

theorem KeepsM.rawBody {e o f} : KeepsM Canonical (rawBody e o f) :=
  .bind .readOpd fun _ => .bind .regsM fun _ => .bind .judge2 fun _ => .modRegsM

theorem Canonical.rawForm {s : State} {i op o f} (h : Canonical s) : Canonical (rawForm i op o f s) :=
  h.mRead (fun _ => .rawBody)

theorem Canonical.rawShift {s : State} {i op o f} (h : Canonical s) : Canonical (rawShift i op o f s) :=
  h.mForm (fun _ => .guard .raise fun _ => .bind .rawBody fun _ => .pure _)

theorem Canonical.rawConv {s : State} {i op o ok tag} (h : Canonical s) : Canonical (rawConv i op o ok tag s) :=
  h.mRead (fun _ => .bind .readOpd fun _ => .bind .checkReserved fun _ => .bind .checkTag fun _ => .setA)

/-! ### Raw: Bit fields -/

theorem Canonical.bfRead {s : State} {i op o body} (h : Canonical s) (hbody : ∀ a, KeepsM Canonical (body a)) :
    Canonical (bfRead i op o body s) :=
  .ite (h.issue (fun _ => .raise)) (h.mRead (fun _ _ => hbody _ _))

theorem Canonical.bfForm {s : State} {i op o f} (h : Canonical s) : Canonical (bfForm i op o f s) :=
  h.bfRead (fun _ => .bind .readOpd fun _ => .bind .regsM fun _ => .bind .judge2 fun _ => .setA)

theorem Canonical.bfCount {s : State} {i op o f} (h : Canonical s) : Canonical (bfCount i op o f s) :=
  h.bfRead (fun _ => .bind .readOpd fun _ => .bind .checkReserved fun _ => .bind .checkTag fun _ => .setA)

/-! ### RegisterRows -/

theorem Canonical.storeReg {s : State} {i pa v} (h : Canonical s) : Canonical (storeReg i pa v s) :=
  h.machineForm fun _ => .bind (.writePhys fun _ h => h) fun _ => .pure _

theorem Canonical.registerWrite {s : State} {x} (h : Canonical s) : Canonical (s.registerWrite x) := by
  unfold State.registerWrite
  split
  · exact .ite h.storeReg h
  · exact h.controlWrite

/-! ### Tick -/

theorem Canonical.tickClock {s : State} (h : Canonical s) : Canonical s.tickClock :=
  (Canonical.ite h.update.charge h.update).linksDrain.ptpExpire

theorem Canonical.toBoundary {s : State} {n} (h : Canonical s) : Canonical (s.toBoundary n) := by
  induction n generalizing s with
  | zero => exact h
  | succ n ih => exact .ite h.tickClock (ih h.tickClock)

theorem Ends.execBudgetTick {s : State} (h : Canonical s) : Ends Canonical (execBudgetTick s) :=
  .next (Canonical.unheld h h.toBoundary)

/-! ### Every command and every step -/

/-- The table of the commands: each arm names the form that the command has. -/
theorem Ends.exec {s : State} (i : Instr) (h : Canonical s) : Ends Canonical (exec i s) :=
  match i with
  | .lda .. => .next (h.mRead (fun _ => .bind .readOpd fun _ => .setA))
  | .sta .. => .next h.storeForm
  | .xchg .. => .execXchg h
  | .cas .. => .execCas h
  | .ldx .. => .next h.loadWord
  | .ldy .. => .next h.loadWord
  | .ldk .. => .next h.loadWord
  | .stx .. => .next h.storeForm
  | .sty .. => .next h.storeForm
  | .stk .. => .next h.storeForm
  | .ldf .. => .next h.loadCap
  | .lde .. => .next h.loadCap
  | .lds .. => .next h.loadCap
  | .ldc .. => .next h.loadCap
  | .stf .. => .next h.storeForm
  | .ste .. => .next h.storeForm
  | .sts .. => .next h.storeForm
  | .stc .. => .next h.storeForm
  | .movc .. => .next h.onceForm
  | .movcd .. => .next h.onceForm
  | .fillc .. => .next h.onceForm
  | .rdst .. => .next (h.mForm (fun _ => .bind .regsM fun _ => .bind .setA fun _ => .pure _))
  | .wrst .. => .next h.loadWord
  | .isync .. => .next (h.mNone (fun _ => .pure _))
  | .fence .. => .next (h.mNone (fun _ => .bind (.act fun _ h => h.orderStores) fun _ => .pure _))
  | .add .. => .next h.genForm
  | .sub .. => .next h.genForm
  | .mul .. => .next h.genForm
  | .div .. => .next h.genForm
  | .quot .. => .next h.genForm
  | .rem .. => .next h.genForm
  | .neg .. => .next h.genForm
  | .abs .. => .next h.genForm
  | .ash .. => .next h.genForm
  | .ipow .. => .next h.genForm
  | .sqrt .. => .next h.genForm
  | .addn .. => .next h.plainForm
  | .subn .. => .next h.plainForm
  | .muln .. => .next h.plainForm
  | .quotn .. => .next h.plainForm
  | .negn .. => .next h.plainForm
  | .absn .. => .next h.plainForm
  | .ashn .. => .next h.plainForm
  | .toflo .. => .next h.genForm
  | .toex .. => .execToex h
  | .rndi .. => .next h.genForm
  | .tons .. => .next h.genForm
  | .tosec .. => .next h.genForm
  | .tochr .. => .execTochr h
  | .totime .. => .next h.genForm
  | .toint .. => .next h.genForm
  | .qmk .. => .next (h.qForm (fun _ _ _ _ => .modRegsM))
  | .qstrip .. => .next h.qNone
  | .qdimeq .. => .next (h.qForm (fun _ _ _ _ => .setA))
  | .qgetu .. => .next h.qNone
  | .qsetu .. => .next (h.qForm (fun _ _ _ _ => .modRegsM))
  | .qgetua .. => .next h.qNone
  | .qsetua .. => .next (h.qForm (fun _ _ _ _ => .guard .raise fun _ => .guard .raise fun _ => .modRegsM))
  | .qgeth .. => .next h.qNone
  | .qseth .. => .next (h.qForm (fun _ _ _ _ => .bind .checkTag fun _ => .setA))
  | .qgeta .. => .next h.qNone
  | .qseta .. => .next (h.qForm (fun _ _ _ _ => .setA))
  | .ceq .. => .next h.genForm
  | .cne .. => .next h.genForm
  | .clt .. => .next h.genForm
  | .cle .. => .next h.genForm
  | .cgt .. => .next h.genForm
  | .cge .. => .next h.genForm
  | .eq .. => .next (h.mRead (fun _ => .bind .readOpd fun _ => .bind .regsM fun _ => .setA))
  | .cmpc .. => .next h.onceForm
  | .typep .. => .execTypep h
  | .tagx .. => .next (h.mRead (fun _ => .bind .readOpd fun _ => .setA))
  | .tscane .. => .next h.onceForm
  | .tscann .. => .next h.onceForm
  | .radd .. => .next h.rawForm
  | .rsub .. => .next h.rawForm
  | .rmul .. => .next h.rawForm
  | .rdivu .. => .next h.rawForm
  | .rremu .. => .next h.rawForm
  | .rdivs .. => .next h.rawForm
  | .rrems .. => .next h.rawForm
  | .rand .. => .next h.rawForm
  | .ror .. => .next h.rawForm
  | .rxor .. => .next h.rawForm
  | .rshl .. => .next h.rawShift
  | .rshr .. => .next h.rawShift
  | .rsar .. => .next h.rawShift
  | .toraw .. => .next h.rawConv
  | .rtofix .. => .next h.rawConv
  | .rtoflo .. => .next h.rawConv
  | .bfx .. => .next h.bfForm
  | .bfxs .. => .next h.bfForm
  | .bfi .. => .next h.bfForm
  | .clz .. => .next h.bfCount
  | .ctz .. => .next h.bfCount
  | .popc .. => .next h.bfCount
  | .bperm .. => .next h.bfForm
  | .car .. => .next h.carForm
  | .cdr .. => .next h.carForm
  | .cons .. => .execCons h
  | .setcar .. => .next h.setCarForm
  | .setcdr .. => .next h.setCarForm
  | .astep .. => .next h.onceForm
  | .valloc .. => .execValloc h
  | .salloc .. => .execSalloc h
  | .ralloc .. => .execRalloc h
  | .clalloc .. => .execClalloc h
  | .olen .. => .next (h.mRead (fun _ => .bind .objOpd fun _ => .setA))
  | .vcopy .. => .execVcopy h
  | .sldb .. => .execSldb h
  | .sstb .. => .execSstb h
  | .rtype .. => .next (h.mRead (fun _ => .bind .objOpd fun _ => .setA))
  | .cbound .. => .execCbound h
  | .crights .. => .next (h.capForm (fun _ _ _ => .pure _))
  | .cseal .. => .next (h.capForm (fun _ _ _ => .bind .namedType fun _ => .pure _))
  | .cunseal .. => .next (h.capForm (fun _ _ _ => .bind .namedType fun _ => .guard .raise fun _ => .pure _))
  | .invoke .. => .execInvoke h
  | .cgetb .. => .next h.capNone
  | .cgetl .. => .next h.capNone
  | .cgetr .. => .next h.capNone
  | .cgett .. => .next h.capNone
  | .csub .. => .next (h.capForm (fun _ _ _ => .pure _))
  | .br .. => .next (h.branchForm (fun _ => .pure _))
  | .bt .. => .next (h.branchForm fun _ => .constCond)
  | .bf .. => .next (h.branchForm fun _ => .constCond)
  | .bnil .. => .next (h.branchForm fun _ => .nilCond)
  | .bnnil .. => .next (h.branchForm (fun _ => .bind .nilCond fun _ => .pure _))
  | .bknz .. => .execBknz h
  | .jmp .. => .next (h.mForm (fun _ => .bind .targetOpd fun _ => .pure _))
  | .call .. => .execCall h
  | .callc .. => .execCallc h
  | .ret .. => .next (h.mForm (fun _ => .bind .popTarget fun _ => .pure _))
  | .retc .. => .execRetc h
  | .wfe .. => .execWfe h
  | .sev .. => .next (h.mRead (fun _ => .bind .evOpd fun _ => .bind .checkName fun _ => .act fun _ h => h.post))
  | .waitt .. => .execWaitt h
  | .ckpt .. => .next (h.mNone (fun _ => .bind (.act fun _ h => h.orderStores.ckptBegin) fun _ => .pure _))
  | .rdtime .. => .next (h.mNone (fun _ => .bind (.takeM fun _ h => h.readGtc) fun _ => .bind .setA fun _ => .pure _))
  | .evsub .. => .execEvsub h
  | .evunsub .. => .next (h.mRead (fun _ => .bind .evOpd fun _ => .bind (.takeM fun _ h => h.evunsub) fun _ => .setA))
  | .evpend .. => .execEvpend h
  | .zline .. => .next h.onceForm
  | .dinv .. => .next h.lineForm
  | .dclean .. => .next h.lineForm
  | .dcinv .. => .next h.lineForm
  | .drangeInvalidate .. => .next h.drangeForm
  | .drangeClean .. => .next h.drangeForm
  | .drangeCleanInvalidate .. => .next h.drangeForm
  | .dinvall .. => .execDinvall h
  | .iinv .. => .next (h.machineForm (fun _ => .bind (.onCore (fun _ h => h.modCore.dirSweep)) fun _ => .pure _))
  | .l1lock .. => .execL1lock h
  | .l1unlock .. => .next (h.machineForm (fun _ => .bind (.onCore (fun _ h => h.modCore)) fun _ => .pure _))
  | .tlbiAll .. => .next h.tlbiForm
  | .tlbiAsid .. => .next h.tlbiForm
  | .tlbiAddress .. => .next h.tlbiForm
  | .mcall .. => .next (h.sForm (fun _ => .raise))
  | .mret .. => .execMret h
  | .setml .. => .next (h.machineForm (fun _ => .bind .modRegsM fun _ => .pure _))
  | .mtag .. => .next (h.machineForm (fun _ => .bind .regsM fun _ => .bind .setA fun _ => .pure _))
  | .msplit .. => .next (h.machineForm (fun _ => .bind .modRegsM fun _ => .pure _))
  | .mrd .. => .next (h.sForm (fun _ => .bind (.look _) fun _ => .bind .setA fun _ => .pure _))
  | .mwr .. => .execMwr h
  | .tlbw .. => .execTlbw h
  | .pld .. => .execPld h
  | .pst .. => .execPst h
  | .ctxld .. => .next h.recordForm
  | .ctxst .. => .next h.recordForm
  | .rep .. => .next h.prefixForm
  | .repi .. => .next h.prefixForm
  | .repeatIteration .. => .execRepeatIteration h
  | .longInstructionStep .. => .execLongInstructionStep h
  | .asyncCauseTaken .. => .execAsyncCauseTaken h
  | .busErrorStore .. => .execBusErrorStore h
  | .objectCacheFill .. => .next h.fillSector
  | .mergingBufferDrain .. => .next h.drainMerge
  | .l1ctlWrite .. => .next h.storeReg
  | .budgetTick => .execBudgetTick h
  | .contextPlacement => .execContextPlacement h
  | .dispatchQuantumExpiry .. => .execDispatchQuantumExpiry h
  | .evictForRecordAccess .. => .next h.evictForAccess
  | .wakeReached .. => .next (.ite h.wakeReached h)
  | .completionRecordAccepted => .next (Canonical.unheld h (.ite h.collAccept h))
  | .completionRecordRetired => .next (.ite h.collRetire h)
  | .recordParityScan .. => .next (h.foldl fun _ _ h => .ite h h.recordFault)
  | .hwbWrite .. => .next h.storeReg
  | .hctlMin .. => .next h.storeReg
  | .hctlMaj .. => .next h.storeReg
  | .cycleStart => .next h.cycleStart
  | .corePass .. => .next h.corePass
  | .markEnd => .next h.markEnd
  | .select => .next h.select
  | .relocateFlip => .next h.relocateFlip
  | .engineCopy .. => .next (h.engineStep (fun _ h => h.engineCopy))
  | .remap => .next h.remap
  | .remapEnd => .next h.cycleEnd
  | .blockCleared .. => .next h.blockCleared
  | .gyNop .. => .next h.gyWrite
  | .gyLoad .. => .next h.gyMeets
  | .gyRun .. => .next h.gyWrite
  | .gyPause .. => .next h.gyWrite
  | .gyStop .. => .next h.gyWrite
  | .gyReload .. => .next h.gyWrite
  | .gyClear .. => .next h.gyWrite
  | .gyTrig .. => .next h.gyWrite
  | .loadsm .. => .next h.gyMeets
  | .readsm .. => .next h.gyMeets
  | .stageValueProcessed .. => .execStageValueProcessed h
  | .ringFullRecheck .. => .next h.ringRecheck
  | .dmaRingRecord .. => .next h.dmaRecord
  | .sourceTimeout .. => .next h.sourceTimeout
  | .rampEnd .. => .next h.rampEnd
  | .ingestWrite .. => .next h.ingestWrite
  | .hostMemoryRead .. => .next h.hostRead
  | .hostMemoryWrite .. => .next h.memWrite
  | .linkEnable .. => .next h.storeReg
  | .retr .. => .next h.storeReg
  | .aligned .. => .next h.aligned
  | .trainSend .. => .next h.trainSend
  | .trainReceived .. => .next h.linkReceive
  | .trainTimeout .. => .next h.trainTimeout
  | .noverRetrain .. => .next h.noverRetrain
  | .linkDown .. => .next h.linkLoss
  | .samplesFrameReceived .. => .next h.linkReceive
  | .samplesFrameSent .. => .next h.samplesSend
  | .timeFrame .. => .next h.timeSend
  | .credit .. => .next h.creditIn
  | .slcmb .. => .next h.storeReg
  | .ctrlReply .. => .next h.linkReceive
  | .ctrlTimeout .. => .next h.ctrlTimeout
  | .statFrame .. => .next h.linkReceive
  | .gtcstep .. => .next h.storeReg
  | .ptpEventMessage .. => .next h.ptpSync
  | .crossingModeChange => .next h.modTime
  | .ckptAcceptance .. => .next h.ckptAccept
  | .commitComplete .. => .next (Canonical.ite h h.commitHit).commitComplete
  | .jcmdNop .. => .next h.jcmd
  | .rread .. => .next (Canonical.ite h.eccFinds h).jcmd
  | .full .. => .next h.jcmd
  | .wearLevelMove .. => .next h.wearMove
  | .powerFailCommit .. => .next h.powerFailCommit
  | .pfdone => .next (.ite h.finishStage h)
  | .powerReturnRestart .. => .next h.powerReturn
  | .fenNegotiate .. => .next (.ite (Canonical.ifOpen h h.ohpctl) h)
  | .functionDisable .. => .next (.ite h (Canonical.ifOpen h h.ohpctl))
  | .mrst .. => .next (.ite (Canonical.ifOpen h h.ohpctl) h)
  | .dbreq .. => .next (Canonical.ifOpen h h.dbreq)
  | .dbapp .. => .next (Canonical.ifOpen h h.dbapp)
  | .hfsig .. => .next h.storeReg
  | .flr .. => .next h.flr
  | .perstN .. => .next h.perst
  | .dmcmdNop .. => .next h.dmcmd
  | .tohost .. => .next h.dmaCmd
  | .fromhost .. => .next h.dmaCmd
  | .dmaTransferComplete .. => .next h.dmaComplete
  | .ohpNop .. => .next h.message
  | .ident .. => .next h.message
  | .dread .. => .next h.message
  | .dwrite .. => .next h.message
  | .dreadseg .. => .next h.message
  | .dwriteseg .. => .next h.message
  | .dmread .. => .next h.message
  | .hbeat .. => .next h.message
  | .dictionaryTick => .next (Canonical.unheld h h.dictTick)
  | .heartbeatLapse => .next (.ite h.lapse h)
  | .designationExpiry => .next (.ite h.desExpiry h)
  | .dxcmdNop .. => .next h.dxcmd
  | .dxRead .. => .next h.dxcmd
  | .dxWrite .. => .next h.dxcmd
  | .publish .. => .next h.dxcmd
  | .withdraw .. => .next h.dxcmd
  | .panelScan .. => .next (Canonical.unheld h h.panelScan)
  | .acceptedChange .. => .next h.acceptedChange
  | .stuckSet .. => .next h.stuckSet
  | .chatterWindowEnd .. => .next h.groupWindowEnd
  | .pnevtRead => .next h.pnevtRead
  | .estopSample .. => .next (Canonical.unheld h h.estopSample)
  | .erel => .next h.estopRelease
  | .ereset .. => .next h.entryRow
  | .discrepancy => .next h.discrepancy
  | .bzon .. => .next h.entryRow
  | .buzzerExpiry => .next h.buzzerExpiry
  | .stateEvaluation => .next (Canonical.unheld h h.evaluate)
  | .dwellExpiry => .next h.dwellExpiry
  | .coreGating .. => .next h.gateCore
  | .ps2Entry => .next h.enterState
  | .ps3Entry => .next h.enterState
  | .ps4Entry => .next h.enterState
  | .ps5Entry => .next h.enterState
  | .wakeEvent .. => .next h.wake
  | .stateExit .. => .next h.stateExit.serveHeld
  | .wakePreparation .. => .next h.wakePrepare
  | .pllLock .. => .next h.pllLock
  | .sequenceUp => .next h.sequenceUp
  | .sequenceDown => .next h.sequenceDown
  | .railFault .. => .next h.railFault
  | .railFaultRestart .. => .next h.railRestart
  | .pmbusPoll .. => .next (h.foldl fun _ _ h => h.pmbPoll)
  | .pmbAlert .. => .next (h.foldl fun _ _ h => h.pmbFault)
  | .sensorRead .. => .next (Canonical.unheld h h.sensorRead)
  | .throttleStep .. => .next h.throttleStep
  | .thermalTrip .. => .next h.thermalTrip
  | .coreRetirement .. => .next (Canonical.unheld h h.retireCore.atBoundaries)
  | .spareSelfTest .. => .next (Canonical.unheld h h.spareTest)
  | .retire .. => .next h.entryRow
  | .hbmScrub .. => .next (Canonical.unheld h h.scrub)
  | .ventWatchdog .. => .next h.ventFail
  | .ventRestart .. => .next h.ventRestart
  | .vpatch .. => .next h.entryRow
  | .vpact .. => .next h.entryRow
  | .mcpatch .. => .next h.entryRow
  | .mcact .. => .next h.entryRow
  | .patchSwitch .. => .next h.patchSwitch
  | .imgLoad .. => .next h.imgRow
  | .imgHandOver .. => .next h.imgRow
  | .imgCancel .. => .next h.imgRow
  | .handoverAnswer => .next h.handoverAnswer
  | .imgconf .. => .next h.entryRow
  | .imgtmoExpiry => .next h.imgTimeout
  | .errorLogCommit => .next (.ite h.commitErrors h)
  | .powerOnReset .. => .next .powerOn
  | .warmrst .. => .next h.entryRow
  | .clurst .. => .next h.entryRow
  | .ctxrst .. => .next h.storeReg
  | .serviceNop => .next h.serviceNop
  | .unlock .. => .next h.entryRow
  | .lock .. => .next h.entryRow
  | .idcode => .next h.jtagLoad
  | .samplePreload .. => .next h.samplePreload
  | .extest => .next h.jtagLoad
  | .extestPulse => .next h.jtagLoad
  | .extestTrain => .next h.jtagLoad
  | .highz => .next h.jtagLoad
  | .clamp => .next h.jtagLoad
  | .bypass => .next h.jtagLoad
  | .deviceRegisterWrite .. => .next h.registerWrite
  | .undefinedOpcode .. => .next (.ite h (h.issue (fun _ => .ite (.ite .raise .raise) (.ite .raise .raise))))
  | .instructionFetchFault .. => .execInstructionFetchFault h
  | .engineTrace .. => .next (h.engineStep (fun _ h => h.engineTrace))
  | .engineHeal .. => .next (h.engineStep (fun _ h => h.engineHeal))
  | .powerOnResetAssertion => .next .powerOff
  | .railGood .. => .next (Canonical.unheld h h.railGood)
  | .hbmSelfRefreshEntry .. => .next (.ite h.modPower h)
  | .pcieLinkStateChange .. => .next (Canonical.unheld h h.linkChange)
  | .pcieConfigurationWrite .. => .next (Canonical.unheld h h.configWrite)
  | .ptpGeneralMessage .. => .next h.ptpGeneral

theorem Ends.step {s : State} (h : Canonical s) : Ends Canonical (step s) := by
  unfold Machine.step
  split
  · exact .next h.tickClock
  · exact .exec _ h.update

/-- Settles O4: every command ends in a state whose memory is canonical. -/
theorem everyStepKeepsMemoryCanonical : Obligations.EveryStepKeepsMemoryCanonical :=
  fun _ t h e => Ends.step h t e

/-- Settles O5: the reset state lists no byte. -/
theorem memoryIsCanonicalAtReset : Obligations.MemoryIsCanonicalAtReset :=
  ⟨wf_reset, rfl⟩

end Sys2Proof.Machine

/-! ## User accesses need their capability (O10) -/

namespace Sys2Proof.Machine

/-- An address in the range of addresses passes the range check (R99). -/
theorem checkRange_of_mem {e : Env} {va : Int} {opn : Nat} (s : State) (h0 : 0 ≤ va) (h1 : va ≤ 2 ^ 56 - 16) :
    checkRange e va opn s = .ok (va.toNat, s) := by
  have hr : (decide (0 ≤ va) && decide (va ≤ ((2 ^ 56 - 16 : Nat) : Int))) = true := by
    simp only [Bool.and_eq_true, decide_eq_true_eq]
    omega
  rw [checkRange, if_pos hr, pure_run]

/-- At user level a capability without a reserved field gives the authority over its own bounds (R145). -/
theorem authOf_cap {e : Env} {c : Cell} {opn : Nat} {viaFS : Bool} (s : State) (hu : e.user = true)
    (ht : c.tag = tagCAP) (hr : c.reserved = false) :
    authOf e c opn false viaFS s = .ok (.within c.capL c.capU c.rights viaFS none, s) := by
  simp [authOf, hu, ht, hr, Cell.isCapOrSeal, tagCAP, tagSEAL, Cell.tagDefined]

theorem capReg_eq (r : Regs) (b : BitVec 4) :
    r.capReg b.toNat = if b = 0 then r.f else if b = 1 then r.e else if b = 2 then r.s else r.c := by
  simp [Regs.capReg, ← BitVec.toNat_inj]

/-- The base address of a capability register and the authority of the capability that it holds. -/
theorem baseOf_cap {e : Env} {r : Regs} {b opn : Nat} (s : State) (hb : b < 4) (hu : e.user = true)
    (ht : (r.capReg b).tag = tagCAP) (hr : (r.capReg b).reserved = false) :
    ∃ viaFS, baseOf e r b opn s =
      .ok (((r.capReg b).pay, .within (r.capReg b).capL (r.capReg b).capU (r.capReg b).rights viaFS none), s) := by
  refine ⟨b == 0 || b == 2, ?_⟩
  rw [baseOf, if_pos hb, bind_ok (authOf_cap s hu ht hr), pure_run]

/-- A `MODE` 1 operand is the cell at the base address plus 16 × `DISP` (R98, R99). -/
theorem formOpd_mode1 {e : Env} {o : MOp} {opn : Nat} {base va : Int} {u : Auth} {s : State} (hm : o.mode = 1)
    (hb : baseOf e (s.regs e.q) o.base.toNat opn s = .ok ((base, u), s)) (hva : va = base + 16 * o.disp.toInt)
    (h0 : 0 ≤ va) (h1 : va ≤ 2 ^ 56 - 16) : formOpd e o opn s = .ok (.mem va.toNat u none, s) := by
  have hc := checkRange_of_mem (e := e) (opn := opn) s h0 h1
  rw [hva] at hc
  rw [formOpd, bind_ok (regsM_run e s), hm, hva]
  exact (bind_ok hb).trans (bind_ok hc)

/-- A cell that reaches outside the bounds fails the bounds check (R145). -/
theorem checkBounds_outside {e : Env} {lo hi : Int} {rights va len opn : Nat} {viaFS : Bool} {hdr : Option Nat}
    (s : State) (h : ((va / 16 * 16 : Nat) : Int) < lo ∨ hi < ((va / 16 * 16 : Nat) : Int) + len) :
    checkBounds e (.within lo hi rights viaFS hdr) va len opn s =
      .error (.trap { code := cCAP_BOUNDS, opn := opn, faddr := va, iword := e.iword }) := by
  have hc : ¬ (decide (lo ≤ ((va / 16 * 16 : Nat) : Int)) &&
      decide (((va / 16 * 16 + len : Nat) : Int) ≤ hi)) = true := by
    simp only [Bool.and_eq_true, decide_eq_true_eq]
    omega
  simp only [checkBounds, if_neg hc, fault_run]

theorem checkBounds_inside {e : Env} {lo hi : Int} {rights va len opn : Nat} {viaFS : Bool} {hdr : Option Nat}
    (s : State) (h0 : lo ≤ ((va / 16 * 16 : Nat) : Int)) (h1 : ((va / 16 * 16 : Nat) : Int) + len ≤ hi) :
    checkBounds e (.within lo hi rights viaFS hdr) va len opn s = .ok ((), s) := by
  have hc : (decide (lo ≤ ((va / 16 * 16 : Nat) : Int)) &&
      decide (((va / 16 * 16 + len : Nat) : Int) ≤ hi)) = true := by
    simp only [Bool.and_eq_true, decide_eq_true_eq]
    omega
  simp only [checkBounds, if_pos hc, pure_run]

/-- Rights that lack a bit which `need` has do not cover `need`. -/
theorem and_ne_of_testBit {rights need k : Nat} (hn : need.testBit k = true) (h : rights.testBit k = false) :
    rights &&& need ≠ need := by
  intro he
  have := congrArg (·.testBit k) he
  simp [Nat.testBit_and, hn, h] at this

theorem checkRights_lacks {e : Env} {lo hi : Int} {rights va need opn k : Nat} {viaFS : Bool} {hdr : Option Nat}
    (s : State) (hn : need.testBit k = true) (h : rights.testBit k = false) :
    checkRights e (.within lo hi rights viaFS hdr) va need opn s =
      .error (.trap { code := cCAP_RIGHTS, opn := opn, faddr := va, iword := e.iword }) := by
  simp only [checkRights, beq_iff_eq, if_neg (and_ne_of_testBit hn h), fault_run]

/-- Without the store right no store is allowed, of whatever cell (R145). -/
theorem checkStore_lacks {e : Env} {lo hi : Int} {rights va opn : Nat} {viaFS : Bool} {hdr : Option Nat} (v : Cell)
    (s : State) (h : rights.testBit rSTORE = false) :
    checkStore e (.within lo hi rights viaFS hdr) va opn v s =
      .error (.trap { code := cCAP_RIGHTS, opn := opn, faddr := va, iword := e.iword }) := by
  have hn : (2 ^ rSTORE + if v.isCapOrSeal = true then 2 ^ rSTCAP else 0).testBit rSTORE = true := by
    cases v.isCapOrSeal <;> decide
  simp only [checkStore, bne_iff_ne, if_pos (and_ne_of_testBit hn h), fault_run]

/-- Settles O10: the bounds and the rights are checked before the address is translated, so nothing is read or written. -/
theorem userAccessNeedsItsCapability : Obligations.UserAccessNeedsItsCapability := by
  intro s e o opn c v va feeds hu hb hm hc ht hr hva h0 h1 cell
  rw [← capReg_eq] at hc
  subst hc
  obtain ⟨viaFS, hbase⟩ := baseOf_cap (e := e) (opn := opn) s (by omega) hu ht hr
  have hcell : ((va.toNat / 16 * 16 : Nat) : Int) = cell := by omega
  refine ⟨_, formOpd_mode1 hm hbase hva h0 h1, fun hout => ?_, fun hlo hhi hload => ?_, fun hlo hhi hstore => ?_⟩
  · exact ⟨bind_error (checkBounds_outside s (hcell ▸ hout)), bind_error (checkBounds_outside s (hcell ▸ hout))⟩
  · exact (bind_ok (checkBounds_inside s (hcell ▸ hlo) (hcell ▸ hhi))).trans
      (bind_error (checkRights_lacks s (k := rLOAD) (by decide) hload))
  · exact (bind_ok (checkBounds_inside s (hcell ▸ hlo) (hcell ▸ hhi))).trans (bind_error (checkStore_lacks v s hstore))

end Sys2Proof.Machine

/-! ## Loads and stores reach one cell (O20) -/

namespace Sys2Proof.Machine

/-! ### Parity (R21) -/

/-- The parity bits written twice are as written last. -/
theorem setField_parity_parity (c : Cell) (v w : Nat) :
    setField (setField c 117 116 v) 117 116 w = setField c 117 116 w := by
  apply BitVec.eq_of_toNat_eq
  have hc := c.isLt
  simp only [setField, BitVec.toNat_ofNat, Nat.reduceAdd, Nat.reduceSub, Nat.reducePow] at hc ⊢
  omega

/-- Parity that is computed already is computed again to the same. -/
@[simp] theorem normalize_normalize (c : Cell) : normalize (normalize c) = normalize c := by
  simp only [normalize, setField_parity_parity]

/-! ### What the cache operations of an access leave -/

/-- A touch of the object cache moves an entry to the front, and marks it (R271). -/
theorem State.caches_ocTouch (s : State) (c pa : Nat) (store : Bool) : CachesOnly s (s.ocTouch c pa store) := by
  simp only [State.ocTouch]
  split
  next e he =>
    exact s.caches_modCore c
      (fun k => k.ocFront (if store then { e with dirty := setBit e.dirty (pa / 128 % 4) true } else e))
      fun _ => ⟨_, _, rfl⟩
  · exact .refl s

theorem State.caches_noteDirty (s : State) (c g : Nat) : CachesOnly s (s.noteDirty c g) := by
  unfold State.noteDirty
  split
  · exact .refl s
  · exact s.caches_setOcU _ _

theorem CachesOnly.sameButMemory {s t : State} (h : CachesOnly s t) : SameButMemory s t := by
  obtain ⟨_, _, _, _, _, _, _, _, ht⟩ := h.moved
  refine ⟨h.regs, by rw [ht], by rw [ht], by rw [ht], by rw [ht], ?_, by rw [ht]⟩
  rw [ht]
  exact ⟨rfl, rfl, rfl, rfl, rfl, rfl, rfl, rfl, rfl⟩

theorem SameButMemory.setCell {s t : State} (h : SameButMemory s t) (pa : Nat) (c : Cell) :
    SameButMemory s (t.setCell pa c) := by
  refine ⟨fun q => ?_, ?_, ?_, ?_, ?_, ?_, ?_⟩
  · rw [State.regs_of_cores (t.setCell_cores pa c), h.regs]
  · rw [State.setCell_ctxStore, h.records]
  · rw [State.setCell_aux, h.aux]
  · rw [State.setCell_channels, h.channels]
  · rw [State.setCell_heap, h.heap]
  · simpa using h.devices
  · rw [State.setCell_pending, h.queue]

/-- A change of a slot beside its registers changes no register. -/
theorem State.regs_modSlot (s : State) (q p : Cx) {f : Slot → Slot} (hf : ∀ v, (f v).regs = v.regs) :
    (s.modSlot q f).regs p = s.regs p := by
  by_cases hp : p = q
  · subst hp
    rw [State.regs, State.slot_modSlot_self, hf, State.regs]
  · rw [State.regs, State.slot_modSlot_ne _ _ hp, State.regs]

theorem SameButMemory.modSlot {s t : State} (h : SameButMemory s t) (q : Cx) {f : Slot → Slot}
    (hf : ∀ v, (f v).regs = v.regs) : SameButMemory s (t.modSlot q f) :=
  ⟨fun p => (t.regs_modSlot q p hf).trans (h.regs p), h.records, h.aux, h.channels, h.heap, h.devices, h.queue⟩

/-- An access that need not wait. -/
theorem orWait_of_ok {f : State → Except Wait State} {s t : State} (h : f s = .ok t) : orWait f s = .ok ((), t) := by
  simp only [orWait, h]

/-! ### The steps of a plain access -/

section
variable {s : State} {e : Env} {va pa : Nat}

theorem Plain.inScratch (h : Plain s e va pa) (a : Nat) : (s.core e.q.core).inScratch a = false := by
  simp [Core.inScratch, h.unlocked]

theorem Plain.reached (h : Plain s e va pa) : s.reached e.q pa = .hbm := by
  have hp := h.hbm
  have hram : ¬ ventRamAt ≤ pa := by
    simp only [hbmEnd, ventRamAt] at hp ⊢
    omega
  have hrom : ¬ ventRomAt ≤ pa := by
    simp only [hbmEnd, ventRomAt] at hp ⊢
    omega
  simp [State.reached, h.main, regionOf, hram, hrom, hp]

/-- At machine level a plain page lets a load and a store through, and no comparator stops them. -/
theorem Plain.translate (h : Plain s e va pa) (hu : e.user = false) {k : Access} (hk : k = .load ∨ k = .store)
    (opn : Nat) : ∃ t, t.wt = false ∧ translate e k va opn s = .ok ((t, pa), s) := by
  obtain ⟨t, ht, hr, hw, hwt, -, rfl⟩ := h.page
  have hgo : t.refuses e.user k = none := by
    rcases hk with rfl | rfl <;> simp [TlbEntry.refuses, hu, hr, hw]
  refine ⟨t, hwt, ?_⟩
  rcases hk with rfl | rfl <;>
    simp [Machine.translate, translateSpan, bind_ok (look_run id s), h.main, ht, hgo, State.bkAt, h.calm]

theorem Plain.buffered {t : State} (h : Plain s e va pa) (c : CachesOnly s t) (a : Nat) : t.buffered e.q a = none := by
  obtain ⟨_, hs⟩ := c.slots e.q
  obtain ⟨_, _, _, hc⟩ := c.core e.q.core
  simp [State.buffered, hs, hc, h.noBuffer, h.noMerge]

/-- A load that hits gives the cell in memory. -/
theorem Plain.readCell (h : Plain s e va pa) (t : TlbEntry) (opn acc : Nat) :
    readCell e t pa va opn acc s = .ok (s.cell pa, s.ocTouch e.q.core pa false) := by
  have hc := s.caches_ocTouch e.q.core pa false
  have hload : s.loadTouch e.q pa t.wt = .ok (s.ocTouch e.q.core pa false) := by
    simp [State.loadTouch, h.main, h.inScratch, h.cached, h.hit]
  have hvalue : (s.ocTouch e.q.core pa false).loadValue e.q pa = s.cell pa := by
    obtain ⟨_, _, _, hk⟩ := hc.core e.q.core
    simp [State.loadValue, Core.inScratch, hk, h.unlocked, h.buffered hc, State.cell, hc.mem]
  simp [Machine.readCell, bind_ok (look_run id s), h.reached, h.inScratch, h.whole, Core.undefinedCache, h.defined,
    bind_ok (orWait_of_ok (f := (·.loadTouch e.q pa t.wt)) hload), hvalue]

/-- The state after a write-back store of a cell that hits: the sector is claimed and dirty, the cell is written, and the
store detector notes it where the store feeds it (R268 to R273). -/
def State.storedBack (s : State) (q : Cx) (pa : Nat) (v : Cell) (feeds : Bool) : State :=
  let t := (((s.claimFor q.core (pa / 128)).ocTouch q.core pa true).noteDirty q.core (pa / 128)).setCell pa v
  if feeds then t.modSlot q fun w => { w with det := w.det.feed pa } else t

/-- From `s` to `t` the caches change alone; what a store of `v` to `pa` then leaves. -/
theorem CachesOnly.oneCell {s t : State} (h : CachesOnly s t) (pa : Nat) (v : Cell) :
    OneCell s (t.setCell pa v) pa v := by
  refine ⟨t.cell_setCell_self pa v, fun a ha => ?_⟩
  rw [t.readByte_setCell_out pa v ha, h.mem]

theorem OneCell.modSlot {s t : State} {pa : Nat} {v : Cell} (h : OneCell s t pa v) (q : Cx) (f : Slot → Slot) :
    OneCell s (t.modSlot q f) pa v := by
  simpa only [OneCell, State.cell, State.modSlot_mem] using h

theorem State.storedBack_spec (s : State) (q : Cx) (pa : Nat) (v : Cell) (feeds : Bool) :
    SameButMemory s (s.storedBack q pa v feeds) ∧ OneCell s (s.storedBack q pa v feeds) pa v := by
  have hc := ((s.caches_claimFor q.core (pa / 128)).trans (State.caches_ocTouch _ q.core pa true)).trans
    (State.caches_noteDirty _ q.core (pa / 128))
  have hs := hc.sameButMemory.setCell pa v
  have hone := hc.oneCell pa v
  simp only [State.storedBack]
  split
  · exact ⟨hs.modSlot q fun _ => rfl, hone.modSlot q _⟩
  · exact ⟨hs, hone⟩

theorem Plain.storeHbm (h : Plain s e va pa) (v : Cell) (feeds : Bool) :
    s.storeHbm e.q pa v false feeds = .ok (s.storedBack e.q pa (normalize v) feeds) := by
  have haround : s.goesAround e.q pa false feeds = false := by simp [State.goesAround, h.hit]
  have hflush : s.flushAround e.q = s := by simp [State.flushAround, h.noBuffer]
  simp [State.storeHbm, h.main, h.inScratch, State.storeBack, haround, h.cached, h.hit, hflush, State.storedBack]

theorem Plain.writeCell (h : Plain s e va pa) {t : TlbEntry} (ht : t.wt = false) (opn : Nat) (v : Cell) (feeds : Bool) :
    writeCell e t pa va opn v feeds s = .ok ((), s.storedBack e.q pa (normalize v) feeds) := by
  have hstore := h.storeHbm (normalize v) feeds
  rw [normalize_normalize] at hstore
  have hentry : s.entryAt pa = none := by simp [State.entryAt, h.noHeap]
  have hafter : (s.storedBack e.q pa (normalize v) feeds).storeBarrier e.n v va =
      s.storedBack e.q pa (normalize v) feeds := by
    simp [State.storeBarrier, (s.storedBack_spec e.q pa _ feeds).1.heap, h.noHeap]
  simp [Machine.writeCell, writePhys, bind_ok (look_run id s), h.reached, h.inScratch, h.whole, Core.undefinedCache,
    h.defined, hentry, ht, bind_ok (orWait_of_ok (f := (·.storeHbm e.q pa (normalize v) false feeds)) hstore), hafter]

end

/-- With the heap off a pointer that is loaded passes as it is (R226). -/
theorem passBarrier_of_noHeap {s : State} (h : s.heap.en = false) (e : Env) (t : TlbEntry) (pa opn : Nat) (v : Cell) :
    passBarrier e t pa opn v s = .ok (v, s) := by
  simp [passBarrier, bind_ok (look_run id s), State.barrierAt, h, State.healSlot]

/-- A load of the whole authority from a plain address. -/
theorem loadCell_of_plain {s : State} {e : Env} {va pa : Nat} (hu : e.user = false) (h : Plain s e va pa) (opn : Nat) :
    loadCell e .all va opn s = .ok (s.cell pa, s.ocTouch e.q.core pa false) := by
  obtain ⟨t, -, ht⟩ := h.translate hu (.inl rfl) opn
  have hheap : (s.ocTouch e.q.core pa false).heap.en = false := by
    rw [(s.caches_ocTouch e.q.core pa false).sameButMemory.heap, h.noHeap]
  have hrun : loadCell e .all va opn s = passBarrier e t pa opn (s.cell pa) (s.ocTouch e.q.core pa false) := by
    simp only [loadCell, checkBounds, checkRights]
    rw [bind_ok (pure_run () s), bind_ok (pure_run () s), bind_ok ht, bind_ok (h.readCell t opn 2)]
    simp
  rw [hrun, passBarrier_of_noHeap hheap]

theorem storeCell_of_plain {s : State} {e : Env} {va pa : Nat} (hu : e.user = false) (h : Plain s e va pa) (opn : Nat)
    (v : Cell) (feeds : Bool) :
    storeCell e .all va opn v feeds false s = .ok ((), s.storedBack e.q pa (normalize v) feeds) := by
  obtain ⟨t, hwt, ht⟩ := h.translate hu (.inr rfl) opn
  simp only [storeCell, checkBounds, checkStore]
  rw [bind_ok (pure_run () s), bind_ok (pure_run () s), bind_ok ht]
  simp [hu, h.writeCell hwt]

/-- Settles O20: at a plain address a load only touches the object cache, and a store changes that cell. -/
theorem loadsAndStoresReachOneCell : Obligations.LoadsAndStoresReachOneCell := by
  refine ⟨fun s e va pa opn hu h => ?_, fun s e va pa opn v feeds hu h => ?_⟩
  · have hc := s.caches_ocTouch e.q.core pa false
    exact ⟨_, loadCell_of_plain hu h opn, hc.sameButMemory, hc.mem⟩
  · obtain ⟨hs, hcell, hout⟩ := s.storedBack_spec e.q pa (normalize v) feeds
    rw [normalize_normalize] at hcell
    exact ⟨_, storeCell_of_plain hu h opn v feeds, hs, hcell, hout⟩

end Sys2Proof.Machine

/-! ## The machine registers (O34) -/

namespace Sys2Proof.Machine

theorem State.clearResume_of_clear {s : State} {q : Cx} (h : bit (s.regs q).st stRESUME = false) :
    s.clearResume q = s := by
  simp only [State.clearResume, h, Bool.false_eq_true, if_false]

/-- A change of registers is what it makes of the registers there are. -/
theorem State.modRegs_congr {s : State} {q : Cx} {f g : Regs → Regs} (h : f (s.regs q) = g (s.regs q)) :
    s.modRegs q f = s.modRegs q g := by
  simp only [State.modRegs, h]

/-- An instruction without an operand that starts anew at machine level does what its body does. -/
theorem sForm_of_fresh {s : State} {i : Issue} {n : Nat} {op sub : BitVec 8} {opnd : BitVec 16} {e : Env}
    {subOk opndOk : Bool} (h : Issues s i n (sWord op sub opnd) 1 e) (hu : e.user = false) (hf : Fresh s e)
    (h1 : subOk = true) (h2 : opndOk = true) (body : Env → M Flow) :
    sForm i op sub opnd true subOk opndOk body s = settle (s.started e) e (body e (s.started e)) := by
  rw [sForm_of_issues h (by simp [hu]) h1 h2, State.clearResume_of_clear (by simpa [Fresh] using hf)]

theorem machineForm_of_fresh {s : State} {i : Issue} {n : Nat} {op : BitVec 8} {opnd : BitVec 16} {e : Env}
    {opndOk : Bool} (h : Issues s i n (sWord op 0 opnd) 1 e) (hu : e.user = false) (hf : Fresh s e) (h2 : opndOk = true)
    (body : Env → M Flow) :
    machineForm i op 0 opnd opndOk body s = settle (s.started e) e (body e (s.started e)) :=
  sForm_of_fresh h hu hf rfl h2 body

/-- The executing slot is a vent core's exactly for an issue of a vent core. -/
theorem isVent_of (i : Issue) : (Cx.of i).isVent = i.vent := by
  have h := i.core.isLt
  cases hv : i.vent with
  | false =>
    simp [Cx.of, hv, Cx.isVent]
    omega
  | true => simp [Cx.of, hv, Cx.isVent, Cx.vent]

section
variable {s : State} {i : Issue} {n : Nat} {opnd : BitVec 16} {e : Env}

theorem execMtag_of_fresh (hu : e.user = false) (hf : Fresh s e) (h : Issues s i n (sWord 0xE3 0 opnd) 1 e) :
    exec (.mtag i 0 opnd) s =
      .next ((s.started e).finish e fun r => { r with a := normalize (normalize (r.x ++ r.y)) }) := by
  show execMtag i 0 opnd s = _
  rw [execMtag, machineForm_of_fresh h hu hf rfl, bind_ok (regsM_run _ _), bind_ok (setA_run _ _ _), pure_run, settle_next,
    State.finish, State.modRegs_congr]
  rfl

theorem execMsplit_of_fresh (hu : e.user = false) (hf : Fresh s e) (h : Issues s i n (sWord 0xE4 0 opnd) 1 e) :
    exec (.msplit i 0 opnd) s =
      .next ((s.started e).finish e fun r => { r with x := (normalize r.a).head, y := r.a.payload }) := by
  show execMsplit i 0 opnd s = _
  rw [execMsplit, machineForm_of_fresh h hu hf rfl]
  rfl

theorem execMrd_of_fresh {sub : BitVec 8} {c : Cell} (hu : e.user = false) (hf : Fresh s e)
    (h : Issues s i n (sWord 0xE5 sub opnd) 1 e) (hsub : machineSub sub = true)
    (hc : (s.started e).machineReg e.q sub.toNat = some c) :
    exec (.mrd i sub opnd) s = .next ((s.started e).finishA e c) := by
  show execMrd i sub opnd s = _
  rw [execMrd, sForm_of_fresh h hu hf hsub rfl, bind_ok (look_run _ _), hc]
  rfl

/-- A register that takes a whole cell takes any cell; another takes the `PAYLOAD` of a FIX or RAW (R131). -/
theorem execMwr_of_ok {sub : BitVec 8} (hu : e.user = false) (hf : Fresh s e) (hsub : machineSub sub = true)
    (ha : machineCellWide sub.toNat = true ∨ Is (s.regs e.q).a tagFIX ∨ Is (s.regs e.q).a tagRAW)
    (h : Issues s i n (sWord 0xE6 sub opnd) 1 e) :
    exec (.mwr i sub opnd) s =
      .next (((s.started e).setMachineReg e.q sub.toNat (s.regs e.q).a).moveTo e.q e.next) := by
  show execMwr i sub opnd s = _
  rw [execMwr, sForm_of_fresh h hu hf hsub rfl, bind_ok (regsM_run _ _), State.started_regs]
  cases hw : machineCellWide sub.toNat with
  | true =>
    simp only [Bool.not_true, Bool.false_eq_true, if_false]
    rw [bind_ok (act_run _ _), pure_run, settle_next]
  | false =>
    have ha' := ha.resolve_left (by simp [hw])
    have hres : (s.regs e.q).a.reserved = false := ha'.elim And.right And.right
    have htag : (s.regs e.q).a.isWordTag = true := by
      rcases ha' with ⟨h, -⟩ | ⟨h, -⟩ <;> simp [Cell.isWordTag, h]
    simp only [Bool.not_false, if_true, checkReserved, hres, Bool.false_eq_true, if_false, checkTag, htag]
    rw [bind_ok (pure_run () _), bind_ok (pure_run () _), bind_ok (act_run _ _), pure_run, settle_next]

/-- The write of a register that stands among those of the slot, and may rest on what they were. -/
theorem execMwr_finish {sub : BitVec 8} {f : Regs → Regs} (hu : e.user = false) (hf : Fresh s e)
    (hsub : machineSub sub = true)
    (ha : machineCellWide sub.toNat = true ∨ Is (s.regs e.q).a tagFIX ∨ Is (s.regs e.q).a tagRAW)
    (hset : ∀ t : State, t.setMachineReg e.q sub.toNat (t.regs e.q).a = t.modRegs e.q f)
    (h : Issues s i n (sWord 0xE6 sub opnd) 1 e) : exec (.mwr i sub opnd) s = .next ((s.started e).finish e f) := by
  rw [execMwr_of_ok hu hf hsub ha h, ← s.started_regs e e.q, hset, State.finish]

theorem State.setMachineReg_mca (s : State) (q : Cx) :
    s.setMachineReg q 0x01 (s.regs q).a = s.modRegs q fun r =>
      { r with mca := mkCell tagRAW 0 r.a.spec (r.a.payload &&& 0xFFFFFFFF0FF0FFFF).toNat } := by
  simp only [State.setMachineReg, mcaMask, State.modRegs, BitVec.ofNat_eq_ofNat]

theorem State.setMachineReg_mca2 (s : State) (q : Cx) :
    s.setMachineReg q 0x02 (s.regs q).a = s.modRegs q fun r =>
      { r with mca2 := mkCell tagRAW 0 r.a.spec (r.a.payload &&& 0xFFFFFFFF0FF0FFFF).toNat } := by
  simp only [State.setMachineReg, mcaMask, State.modRegs, BitVec.ofNat_eq_ofNat]

theorem State.regs_modCore_men (s : State) (q : Cx) (w : Word64) :
    (s.modCore q.core fun k => { k with men := w }).regs q = s.regs q := by
  simp [State.regs, State.slot, State.modCore, Core.slot]

/-- A write of `MEN` changes the core and no register of a slot. -/
theorem execMwr_men (hu : e.user = false) (hf : Fresh s e)
    (ha : Is (s.regs e.q).a tagFIX ∨ Is (s.regs e.q).a tagRAW) (h : Issues s i n (sWord 0xE6 0x00 opnd) 1 e) :
    ∃ t : State, exec (.mwr i 0x00 opnd) s = .next t ∧
      (t.core e.q.core).men = (s.regs e.q).a.payload &&& 0x00FFFFFFFFFFFFF4 ∧
      t.regs e.q = { s.regs e.q with pc := BitVec.ofNat 64 e.next } := by
  refine ⟨_, execMwr_of_ok hu hf rfl (.inr ha) h, ?_, ?_⟩
  · simp [State.setMachineReg, State.moveTo, State.modRegs, State.setRegs, State.setSlot, Core.setSlot,
      State.modCore, slotMask]
  · show ((State.modCore _ e.q.core _).moveTo e.q e.next).regs e.q = _
    rw [State.regs_moveTo_self, State.regs_modCore_men, State.started_regs]

theorem execMwr_of_tagMismatch {sub : BitVec 8} (hu : e.user = false) (hf : Fresh s e)
    (h : Issues s i n (sWord 0xE6 sub opnd) 1 e) (hsub : machineSub sub = true)
    (hw : machineCellWide sub.toNat = false) (hres : (s.regs e.q).a.reserved = false)
    (ha : ¬ (Is (s.regs e.q).a tagFIX ∨ Is (s.regs e.q).a tagRAW)) :
    exec (.mwr i sub opnd) s = .next (s.trapped e 0x01 0 1 0 0) := by
  have htag : (s.regs e.q).a.isWordTag = false := by
    simpa [Is, hres, Cell.isWordTag] using ha
  show execMwr i sub opnd s = _
  rw [execMwr, sForm_of_fresh h hu hf hsub rfl, bind_ok (regsM_run _ _), State.started_regs]
  simp only [hw, Bool.not_false, if_true, checkReserved, hres, Bool.false_eq_true, if_false, checkTag, htag]
  rw [bind_ok (pure_run () _), bind_error (fault_run _ _ _ _ _ _ _)]
  rfl

/-- `ML` is bits 55 to 52 of ST; the field is replaced and no other bit changes (R89). -/
theorem setField_ml (w : Word64) (m : Nat) (hm : m < 16) :
    field (setField w 55 52 m) 55 52 = m ∧ field (setField w 55 52 m) 51 0 = field w 51 0 ∧
      field (setField w 55 52 m) 63 56 = field w 63 56 := by
  have hw := w.isLt
  simp only [field, setField, BitVec.toNat_ofNat, Nat.reduceAdd, Nat.reduceSub, Nat.reducePow] at hw ⊢
  omega

theorem execSetml_of_fresh (hu : e.user = false) (hf : Fresh s e) (hm : opnd.toNat < 16)
    (h : Issues s i n (sWord 0xE2 0 opnd) 1 e) :
    exec (.setml i 0 opnd) s =
      .next ((s.started e).finish e fun r => { r with st := setField (s.regs e.q).st 55 52 opnd.toNat }) := by
  have hz : (field opnd 15 4 == 0) = true := by
    simp only [field, beq_iff_eq]
    omega
  have hl : field opnd 3 0 = opnd.toNat := by
    simp only [field]
    omega
  show execSetml i 0 opnd s = _
  rw [execSetml, machineForm_of_fresh h hu hf hz, hl]
  rw [bind_ok (modRegsM_run _ _ _), pure_run, settle_next, State.finish, State.modRegs_congr]
  rw [State.started_regs]

/-- A return with `MST.RESUME` 1, which keeps what the context holds for its stopped instruction (R132, R136). -/
theorem execMret_of_resume (hu : e.user = false) (hf : Fresh s e) (h : Issues s i n (sWord 0xE1 0 0) 1 e)
    (hm : bit (s.regs e.q).mst stRESUME = true) (h0 : (s.regs e.q).mra.toNat < 2 ^ 56)
    (h1 : (s.regs e.q).mra.toNat % 4 = 0) (h2 : (s.regs e.q).mra.toNat.testBit 3 = false) :
    exec (.mret i 0 0) s = .next ((((s.started e).modRegs e.q fun r =>
        { r with st := if e.q.isVent then setBit r.mst stLVL true else r.mst }).modSlot e.q fun v =>
        { v with walk := false, stale := false }).moveTo e.q (s.regs e.q).mra.toNat) := by
  have ht : checkTarget e (s.regs e.q).mra.toNat (s.started e) = .ok ((), s.started e) := by
    simp only [checkTarget, if_neg (Nat.not_le.mpr h0), h1, h2]
    rfl
  show execMret i 0 0 s = _
  rw [execMret, machineForm_of_fresh h hu hf (by decide), bind_ok (regsM_run _ _), State.started_regs, bind_ok ht]
  simp only [hm, Bool.not_true, Bool.false_eq_true, if_false]
  rw [bind_ok (modRegsM_run _ _ _), bind_ok (act_run _ _), pure_run, settle_goto]

/-- What that return leaves: ST from `MST`, PC from `MRA`, and the walk at its end. -/
theorem execMret_spec (hu : e.user = false) (hf : Fresh s e) (h : Issues s i n (sWord 0xE1 0 0) 1 e)
    (hm : bit (s.regs e.q).mst stRESUME = true) (h0 : (s.regs e.q).mra.toNat < 2 ^ 56)
    (h1 : (s.regs e.q).mra.toNat % 4 = 0) (h2 : (s.regs e.q).mra.toNat.testBit 3 = false) :
    ∃ t : State, exec (.mret i 0 0) s = .next t ∧ t.mem = s.mem ∧
      t.regs e.q = { s.regs e.q with
        st := if i.vent then setBit (s.regs e.q).mst 63 true else (s.regs e.q).mst, pc := (s.regs e.q).mra } ∧
      (∀ p, p ≠ e.q → t.regs p = s.regs p) ∧ (t.slot e.q).walk = false := by
  have hv : e.q.isVent = i.vent := by
    rw [h.env]
    exact isVent_of i
  refine ⟨_, execMret_of_resume hu hf h hm h0 h1 h2, by simp, ?_, fun p hp => ?_, ?_⟩
  · simp [State.regs_modSlot, hv, stLVL]
  · rw [State.moveTo, State.regs_modRegs_ne _ _ hp, State.regs_modSlot _ _ _ (fun _ => by rfl),
      State.regs_modRegs_ne _ _ hp, State.started_regs]
  · simp [State.moveTo, State.slot_modRegs_self]
end

/-- Settles O34, an instruction and a register at a time. -/
theorem machineRegistersReadAndWrite : Obligations.MachineRegistersReadAndWrite := by
  intro s i n opnd e hu hf r S word put
  refine ⟨execMret_spec hu hf, fun m hm h => ⟨_, execSetml_of_fresh hu hf hm h, setField_ml _ _ hm⟩,
    execMtag_of_fresh hu hf, execMsplit_of_fresh hu hf, fun sub c hc h => ?_, ?_⟩
  · have hreg : machineSub sub = true ∧ (s.started e).machineReg e.q sub.toNat = some c := by
      simp only [List.mem_cons, Prod.mk.injEq, List.not_mem_nil, or_false] at hc
      rcases hc with ⟨rfl, rfl⟩ | ⟨rfl, rfl⟩ | ⟨rfl, rfl⟩ | ⟨rfl, rfl⟩ | ⟨rfl, rfl⟩ | ⟨rfl, rfl⟩ | ⟨rfl, rfl⟩ | ⟨rfl, rfl⟩ |
        ⟨rfl, rfl⟩ | ⟨rfl, rfl⟩ | ⟨rfl, rfl⟩ | ⟨rfl, rfl⟩ | ⟨rfl, rfl⟩ <;>
        simp [machineSub, State.machineReg, r]
    exact execMrd_of_fresh hu hf h hreg.1 hreg.2
  · exact ⟨execMwr_finish hu hf rfl (.inl rfl) fun t => t.setMachineReg_mca e.q,
      execMwr_finish hu hf rfl (.inl rfl) fun t => t.setMachineReg_mca2 e.q,
      execMwr_finish hu hf rfl (.inl rfl) fun _ => rfl, execMwr_finish hu hf rfl (.inl rfl) fun _ => rfl,
      execMwr_finish hu hf rfl (.inl rfl) fun _ => rfl, execMwr_finish hu hf rfl (.inl rfl) fun _ => rfl,
      fun ha => ⟨execMwr_finish hu hf rfl (.inr ha) fun _ => rfl, execMwr_finish hu hf rfl (.inr ha) fun _ => rfl,
        execMwr_finish hu hf rfl (.inr ha) fun _ => rfl, execMwr_finish hu hf rfl (.inr ha) fun _ => rfl,
        execMwr_men hu hf ha⟩,
      fun hres ha h => execMwr_of_tagMismatch hu hf h rfl rfl hres ha⟩

end Sys2Proof.Machine

/-! ## What a unit's command leaves alone (O3)

`KeepsAllBut s₀ t ps` says that from `s₀` to `t` the parts outside `ps` stay. For each operation `f` of the units,
`KeepsAllBut.f` takes a frame of `s` to a frame of `s.f`, where `ps` holds the parts that `f` itself writes: its
footprint, which `decide` compares with `ps`. A chain of operations is then proved by the chain of their lemmas, and a
command by the operation that it names. The lemmas stand in the order of the model's definitions. -/

namespace Sys2Proof.Machine

/-! ### Footprints that several operations share -/

/-- What a write to HBM through the caches may change. -/
def Part.store : List Part := [.memory, .caches, .cores]

/-- An uncached agent's access to HBM, which may end a self-refresh as well. -/
def Part.hbm : List Part := [.memory, .caches, .cores, .power]

/-- What a context that becomes ready may change: the core that it wakes and the microcode banks that switch there. -/
def Part.wake : List Part := [.cores, .contexts, .collector, .power, .dependability]

/-- What the eviction of a context may change. -/
def Part.swap : List Part := [.memory, .caches, .cores, .registers, .contexts, .collector, .power, .dependability]

/-- The heap's own work on objects (R231 to R235). -/
def Part.reloc : List Part := [.memory, .caches, .cores, .heap, .power]

/-- A pass of the collector over contexts (R236). -/
def Part.pass : List Part := [.memory, .caches, .cores, .registers, .contexts, .heap, .power]

/-- What ECC finds and logs (R486). -/
def Part.ecc : List Part := [.memory, .caches, .cores, .collector, .journal, .dictionary, .dependability]

/-- What ends a stream: its outputs go to zero and the host is told (R334, R335). -/
def Part.stop : List Part := [.geysers, .links, .time, .host, .output]

/-- What the DMA queue changes beside the memory (R400). -/
def Part.dma : List Part := [.caches, .cores, .collector, .host, .power, .dependability]

/-- What a stage of a stream at work may change (R328): its outputs, and all that an abort ends. -/
def Part.stream : List Part := [.memory, .caches, .cores, .geysers, .links, .time, .host, .power, .output]

/-- What the commands that a geyser takes may change (R300 to R303). -/
def Part.geyser : List Part :=
  [.memory, .caches, .cores, .collector, .geysers, .links, .time, .host, .power, .dependability, .output]

section
-- A use of a default `by decide` waits for all declarations before it, so proofs side by side would only wait.
set_option Elab.async false

variable {s₀ s t : State} {ps : List Part}

/-! ### Frames of compound operations -/

/-- An operation within the footprint `k` keeps every frame that allows `k`. -/
theorem KeepsAllBut.past {k : List Part} (h : KeepsAllBut s₀ s ps) (hk : KeepsAllBut s t k) (hl : k ⊆ ps) :
    KeepsAllBut s₀ t ps :=
  h.trans (hk.mono fun _ hp => hl hp)

/-- It is enough to follow an operation within its own footprint. -/
theorem KeepsAllBut.step {k : List Part} (h : KeepsAllBut s₀ s ps) (hl : k ⊆ ps)
    (hk : ∀ r, KeepsAllBut r s k → KeepsAllBut r t k) : KeepsAllBut s₀ t ps :=
  h.past (hk s (.refl s k)) hl

theorem KeepsAllBut.ite {c : Prop} [Decidable c] (h : KeepsAllBut s₀ s ps) (k : KeepsAllBut s₀ t ps) :
    KeepsAllBut s₀ (if c then s else t) ps := by
  split
  · exact h
  · exact k

theorem KeepsAllBut.fold {α : Type} {f : State → α → State} {l : List α} (h : KeepsAllBut s₀ s ps)
    (hf : ∀ s a, KeepsAllBut s₀ s ps → KeepsAllBut s₀ (f s a) ps) : KeepsAllBut s₀ (l.foldl f s) ps := by
  induction l generalizing s with
  | nil => exact h
  | cons a l ih => exact ih (hf s a h)

theorem KeepsAllBut.foldUp {f : Nat → State → State} {n i : Nat} (h : KeepsAllBut s₀ s ps)
    (hf : ∀ i s, KeepsAllBut s₀ s ps → KeepsAllBut s₀ (f i s) ps) : KeepsAllBut s₀ (foldUp f n i s) ps := by
  induction n generalizing i s with
  | zero => exact h
  | succ n ih => exact ih (hf i s h)

/-- The state of a choice between two results with a state. -/
theorem KeepsAllBut.iteSnd {α : Type} {p q : α × State} {c : Prop} [Decidable c] (h : KeepsAllBut s₀ p.2 ps)
    (k : KeepsAllBut s₀ q.2 ps) : KeepsAllBut s₀ (if c then p else q).2 ps := by
  split
  · exact h
  · exact k

theorem KeepsAllBut.snd {α : Type} {p : α × State} {a : α} (h : KeepsAllBut s₀ p.2 ps) (e : p = (a, t)) :
    KeepsAllBut s₀ t ps := by
  cases e
  exact h

theorem KeepsAllBut.fst {α : Type} {p : State × α} {a : α} (h : KeepsAllBut s₀ p.1 ps) (e : p = (t, a)) :
    KeepsAllBut s₀ t ps := by
  cases e
  exact h

/-- A fold that keeps a result beside the state. -/
theorem KeepsAllBut.foldFst {α β : Type} {f : State × β → α → State × β} {l : List α} {p : State × β}
    (h : KeepsAllBut s₀ p.1 ps) (hf : ∀ p a, KeepsAllBut s₀ p.1 ps → KeepsAllBut s₀ (f p a).1 ps) :
    KeepsAllBut s₀ (l.foldl f p).1 ps := by
  induction l generalizing p with
  | nil => exact h
  | cons a l ih => exact ih (hf p a h)

/-- The caches change, and those of the cores with them. -/
theorem KeepsAllBut.cached (h : KeepsAllBut s₀ s ps) (hc : CachesOnly s t) (hl : [.caches, .cores] ⊆ ps := by decide) :
    KeepsAllBut s₀ t ps :=
  h.past hc.keeps hl

/-! ### One part changes -/

/-- Where all parts but one are kept, that part is the footprint; the registers live in the cores. -/
theorem KeepsAllBut.one (p : Part) (hpending : t.pending = s.pending) (hcores : t.cores = s.cores)
    (hkept : ∀ q, q ≠ p → q ≠ .registers → q.kept s t := by intro q _ _; cases q <;> simp_all [Part.kept]) :
    KeepsAllBut s t [p] := by
  refine ⟨hpending, fun q hq => ?_⟩
  by_cases hr : q = .registers
  · subst hr
    exact State.regs_of_cores hcores
  · exact hkept q (by simpa using hq) hr

theorem KeepsAllBut.withMemory {mem poison ventRam} (h : KeepsAllBut s₀ s ps) (hl : [.memory] ⊆ ps := by decide) :
    KeepsAllBut s₀ { s with mem := mem, poison := poison, ventRam := ventRam } ps :=
  h.past (.one .memory rfl rfl) hl

theorem KeepsAllBut.withCaches {ocUnder l2Under l2 l2Lines l2Queue dir} (h : KeepsAllBut s₀ s ps)
    (hl : [.caches] ⊆ ps := by decide) :
    KeepsAllBut s₀ { s with
      ocUnder := ocUnder, l2Under := l2Under, l2 := l2, l2Lines := l2Lines,
      l2Queue := l2Queue, dir := dir } ps :=
  h.past (.one .caches rfl rfl) hl

theorem KeepsAllBut.withContexts {ctxStore aux order} (h : KeepsAllBut s₀ s ps) (hl : [.contexts] ⊆ ps := by decide) :
    KeepsAllBut s₀ { s with ctxStore := ctxStore, aux := aux, order := order } ps :=
  h.past (.one .contexts rfl rfl) hl

theorem KeepsAllBut.withCollector {collQ ports collCycle heads linkWait} (h : KeepsAllBut s₀ s ps)
    (hl : [.collector] ⊆ ps := by decide) :
    KeepsAllBut s₀ { s with
      collQ := collQ, ports := ports, collCycle := collCycle, heads := heads,
      linkWait := linkWait } ps :=
  h.past (.one .collector rfl rfl) hl

theorem KeepsAllBut.withHost {funcs dma dmaQ} (h : KeepsAllBut s₀ s ps) (hl : [.host] ⊆ ps := by decide) :
    KeepsAllBut s₀ { s with funcs := funcs, dma := dma, dmaQ := dmaQ } ps :=
  h.past (.one .host rfl rfl) hl

theorem KeepsAllBut.withLinks {links} (h : KeepsAllBut s₀ s ps) (hl : [.links] ⊆ ps := by decide) :
    KeepsAllBut s₀ { s with links := links } ps :=
  h.past (.one .links rfl rfl) hl

theorem KeepsAllBut.withDebug {dbg} (h : KeepsAllBut s₀ s ps) (hl : [.debug] ⊆ ps := by decide) :
    KeepsAllBut s₀ { s with dbg := dbg } ps :=
  h.past (.one .debug rfl rfl) hl

theorem KeepsAllBut.withHeap {heap} (h : KeepsAllBut s₀ s ps) (hl : [.heap] ⊆ ps := by decide) :
    KeepsAllBut s₀ { s with heap := heap } ps :=
  h.past (s.keeps_modHeap fun _ => heap) hl

theorem KeepsAllBut.withTime {time} (h : KeepsAllBut s₀ s ps) (hl : [.time] ⊆ ps := by decide) :
    KeepsAllBut s₀ { s with time := time } ps :=
  h.past (s.keeps_modTime fun _ => time) hl

theorem KeepsAllBut.withJournal {jr} (h : KeepsAllBut s₀ s ps) (hl : [.journal] ⊆ ps := by decide) :
    KeepsAllBut s₀ { s with jr := jr } ps :=
  h.past (s.keeps_modJr fun _ => jr) hl

theorem KeepsAllBut.withDictionary {dict} (h : KeepsAllBut s₀ s ps) (hl : [.dictionary] ⊆ ps := by decide) :
    KeepsAllBut s₀ { s with dict := dict } ps :=
  h.past (s.keeps_modDict fun _ => dict) hl

theorem KeepsAllBut.withPower {power} (h : KeepsAllBut s₀ s ps) (hl : [.power] ⊆ ps := by decide) :
    KeepsAllBut s₀ { s with power := power } ps :=
  h.past (s.keeps_modPower fun _ => power) hl

theorem KeepsAllBut.withDependability {dep} (h : KeepsAllBut s₀ s ps) (hl : [.dependability] ⊆ ps := by decide) :
    KeepsAllBut s₀ { s with dep := dep } ps :=
  h.past (s.keeps_modDep fun _ => dep) hl

theorem KeepsAllBut.withBoot {boot} (h : KeepsAllBut s₀ s ps) (hl : [.boot] ⊆ ps := by decide) :
    KeepsAllBut s₀ { s with boot := boot } ps :=
  h.past (s.keeps_modBoot fun _ => boot) hl

/-- A change of a core that leaves its slots. -/
theorem KeepsAllBut.modCore {c} {f : Core → Core} (h : KeepsAllBut s₀ s ps)
    (hf : ∀ k, (f k).slots = k.slots := by intro _; rfl) (hl : [.cores] ⊆ ps := by decide) :
    KeepsAllBut s₀ (s.modCore c f) ps := by
  refine h.past (k := [.cores]) ⟨rfl, fun p hp => ?_⟩ hl
  by_cases hr : p = .registers
  · subst hr
    intro q
    by_cases hq : q.core = c
    · simp [State.regs, State.slot, Core.slot, State.modCore, hq, hf]
    · simp [State.regs, State.slot, State.modCore, State.core_setCore_ne _ _ hq]
  · exact (s.keeps_setCore c (f (s.core c))).2 p (by simp_all)

/-- A change of a slot that leaves its registers. -/
theorem KeepsAllBut.modSlot {q} {f : Slot → Slot} (h : KeepsAllBut s₀ s ps)
    (hf : ∀ v, (f v).regs = v.regs := by intro _; rfl) (hl : [.cores] ⊆ ps := by decide) :
    KeepsAllBut s₀ (s.modSlot q f) ps := by
  refine h.past (k := [.cores]) ⟨rfl, fun p hp => ?_⟩ hl
  by_cases hr : p = .registers
  · subst hr
    exact fun _ => s.regs_modSlot _ _ hf
  · exact (s.keeps_modSlot q f).2 p (by simp_all)

/-! ### Base: Cores and slots -/

theorem KeepsAllBut.setCore {c v} (h : KeepsAllBut s₀ s ps) (hl : [.cores, .registers] ⊆ ps := by decide) :
    KeepsAllBut s₀ (s.setCore c v) ps :=
  h.past (s.keeps_setCore c v) hl

theorem KeepsAllBut.setSlot {q v} (h : KeepsAllBut s₀ s ps) (hl : [.cores, .registers] ⊆ ps := by decide) :
    KeepsAllBut s₀ (s.setSlot q v) ps :=
  h.past (s.keeps_setSlot q v) hl

theorem KeepsAllBut.setRegs {q r} (h : KeepsAllBut s₀ s ps) (hl : [.cores, .registers] ⊆ ps := by decide) :
    KeepsAllBut s₀ (s.setRegs q r) ps :=
  h.setSlot hl

theorem KeepsAllBut.modRegs {q f} (h : KeepsAllBut s₀ s ps) (hl : [.cores, .registers] ⊆ ps := by decide) :
    KeepsAllBut s₀ (s.modRegs q f) ps :=
  h.past (s.keeps_modRegs q f) hl

theorem KeepsAllBut.setDomain {d on} (h : KeepsAllBut s₀ s ps) (hl : [.power] ⊆ ps := by decide) :
    KeepsAllBut s₀ (s.setDomain d on) ps :=
  h.step hl fun _ h => h.withPower

theorem KeepsAllBut.modPower {f} (h : KeepsAllBut s₀ s ps) (hl : [.power] ⊆ ps := by decide) :
    KeepsAllBut s₀ (s.modPower f) ps :=
  h.past (s.keeps_modPower f) hl

theorem KeepsAllBut.wakeTo {req} (h : KeepsAllBut s₀ s ps) (hl : [.power] ⊆ ps := by decide) :
    KeepsAllBut s₀ (s.wakeTo req) ps := by
  refine h.step hl fun _ h => ?_
  simp only [State.wakeTo]
  split
  · exact h.modPower
  · exact .ite h h.modPower
  · exact .ite h.modPower h

theorem KeepsAllBut.pllsAfter {old : State} (h : KeepsAllBut s₀ s ps) (hl : [.power] ⊆ ps := by decide) :
    KeepsAllBut s₀ (s.pllsAfter old) ps :=
  h.step hl fun _ h => h.modPower

/-! ### Base: Context records (R190 to R194) -/

theorem KeepsAllBut.setRec {n c v} (h : KeepsAllBut s₀ s ps) (hl : [.contexts] ⊆ ps := by decide) :
    KeepsAllBut s₀ (s.setRec n c v) ps :=
  h.past (s.keeps_setRec n c v) hl

theorem KeepsAllBut.setAux {n v} (h : KeepsAllBut s₀ s ps) (hl : [.contexts] ⊆ ps := by decide) :
    KeepsAllBut s₀ (s.setAux n v) ps :=
  h.step hl fun _ h => h.withContexts

theorem KeepsAllBut.modAux {n f} (h : KeepsAllBut s₀ s ps) (hl : [.contexts] ⊆ ps := by decide) :
    KeepsAllBut s₀ (s.modAux n f) ps :=
  h.past (s.keeps_modAux n f) hl

theorem KeepsAllBut.setRecField {n c hi lo v} (h : KeepsAllBut s₀ s ps) (hl : [.contexts] ⊆ ps := by decide) :
    KeepsAllBut s₀ (s.setRecField n c hi lo v) ps :=
  h.step hl fun _ h => h.setRec

theorem KeepsAllBut.setCtxState {n v} (h : KeepsAllBut s₀ s ps) (hl : [.contexts] ⊆ ps := by decide) :
    KeepsAllBut s₀ (s.setCtxState n v) ps :=
  h.step hl fun _ h => h.setRecField

/-! ### Base: Free values (log entry 2) -/

theorem KeepsAllBut.fresh (h : KeepsAllBut s₀ s ps) : KeepsAllBut s₀ s.fresh.2 ps :=
  h.trans ⟨rfl, fun p hp => by cases p <;> exact (KeepsAllBut.refl s ps).2 _ hp⟩

/-! ### Base: Outputs and completion records -/

theorem KeepsAllBut.emit {o} (h : KeepsAllBut s₀ s ps) (hl : [.output] ⊆ ps := by decide) :
    KeepsAllBut s₀ (s.emit o) ps :=
  h.past (s.keeps_emit o) hl

theorem KeepsAllBut.present {r} (h : KeepsAllBut s₀ s ps) (hl : [.collector] ⊆ ps := by decide) :
    KeepsAllBut s₀ (s.present r) ps :=
  h.past (s.keeps_present r) hl

theorem KeepsAllBut.stampError (h : KeepsAllBut s₀ s ps) : KeepsAllBut s₀ (s.stampError).2 ps :=
  h.fresh

theorem KeepsAllBut.stamp (h : KeepsAllBut s₀ s ps) : KeepsAllBut s₀ (s.stamp).2 ps :=
  h.stampError

theorem KeepsAllBut.stampRead (h : KeepsAllBut s₀ s ps) (hl : [.time] ⊆ ps := by decide) :
    KeepsAllBut s₀ (s.stampRead).2 ps :=
  h.step hl fun _ h => h.stamp.withTime

/-! ### Base: Dictionary values (R403), by 256 × index + subindex -/

theorem KeepsAllBut.setDict {index sub n v} (h : KeepsAllBut s₀ s ps) (hl : [.dictionary] ⊆ ps := by decide) :
    KeepsAllBut s₀ (s.setDict index sub n v) ps :=
  h.step hl fun _ h => h.withDictionary

theorem KeepsAllBut.setDictP {index sub n v} (h : KeepsAllBut s₀ s ps)
    (hl : [.journal, .dictionary] ⊆ ps := by decide) :
    KeepsAllBut s₀ (s.setDictP index sub n v) ps :=
  h.step hl fun _ h => h.setDict.withJournal

theorem KeepsAllBut.countUp {index sub n} (h : KeepsAllBut s₀ s ps) (hl : [.journal, .dictionary] ⊆ ps := by decide) :
    KeepsAllBut s₀ (s.countUp index sub n) ps :=
  h.step hl fun _ h => h.setDictP

/-! ### Base: Error records (R497 to R499) -/

theorem KeepsAllBut.logErr {src unit code sev addr det} (h : KeepsAllBut s₀ s ps)
    (hl : [.collector, .dependability] ⊆ ps := by decide) :
    KeepsAllBut s₀ (s.logErr src unit code sev addr det) ps :=
  h.step hl fun _ h => .ite h.withDependability.present h.withDependability

theorem KeepsAllBut.meshLost {pa} (h : KeepsAllBut s₀ s ps) (hl : [.collector, .dependability] ⊆ ps := by decide) :
    KeepsAllBut s₀ (s.meshLost pa) ps :=
  h.step hl fun _ h => h.logErr

theorem KeepsAllBut.logCoalesced {src unit code sev addr} (h : KeepsAllBut s₀ s ps)
    (hl : [.collector, .dependability] ⊆ ps := by decide) :
    KeepsAllBut s₀ (s.logCoalesced src unit code sev addr) ps := by
  refine h.step hl fun _ h => ?_
  simp only [State.logCoalesced]
  split
  · exact h.withDependability
  · exact h.logErr.withDependability

/-! ### Mem: Bytes -/

theorem KeepsAllBut.setCell {pa c} (h : KeepsAllBut s₀ s ps) (hl : [.memory] ⊆ ps := by decide) :
    KeepsAllBut s₀ (s.setCell pa c) ps :=
  h.past (s.keeps_setCell pa c) hl

/-! ### Mem: Poison (R292) -/

theorem KeepsAllBut.setPoison {g b} (h : KeepsAllBut s₀ s ps) (hl : [.memory] ⊆ ps := by decide) :
    KeepsAllBut s₀ (s.setPoison g b) ps :=
  h.past (s.keeps_setPoison g b) hl

/-! ### Mem: Values beneath dirty copies -/

theorem KeepsAllBut.setL2U {g u} (h : KeepsAllBut s₀ s ps) (hl : [.caches, .cores] ⊆ ps := by decide) :
    KeepsAllBut s₀ (s.setL2U g u) ps :=
  h.cached (s.caches_setL2U g u) hl

/-! ### Mem: Which clusters hold a copy (R288) -/

theorem KeepsAllBut.l2Put {k g} (h : KeepsAllBut s₀ s ps) (hl : [.caches, .cores] ⊆ ps := by decide) :
    KeepsAllBut s₀ (s.l2Put k g) ps :=
  h.cached (s.caches_l2Put k g) hl

theorem KeepsAllBut.l2Drop {g keep} (h : KeepsAllBut s₀ s ps) (hl : [.caches, .cores] ⊆ ps := by decide) :
    KeepsAllBut s₀ (s.l2Drop g keep) ps :=
  h.cached (s.caches_l2Drop g keep) hl

/-! ### Mem: Copies in the L1 caches -/

theorem KeepsAllBut.dropCopies {g valid keep} (h : KeepsAllBut s₀ s ps) (hl : [.caches, .cores] ⊆ ps := by decide) :
    KeepsAllBut s₀ (s.dropCopies g valid keep) ps :=
  h.cached (s.caches_dropCopies g valid keep) hl

/-! ### Mem: The directories (R288) -/

theorem KeepsAllBut.recall {g} (h : KeepsAllBut s₀ s ps) (hl : [.caches, .cores] ⊆ ps := by decide) :
    KeepsAllBut s₀ (s.recall g) ps :=
  h.cached (s.caches_recall g) hl

theorem KeepsAllBut.dirShare {k g} (h : KeepsAllBut s₀ s ps) (hl : [.caches, .cores] ⊆ ps := by decide) :
    KeepsAllBut s₀ (s.dirShare k g) ps :=
  h.cached (s.caches_dirShare k g) hl

/-! ### Mem: Requests of the cores (R288, R289) -/

theorem KeepsAllBut.ocToL2 {g} (h : KeepsAllBut s₀ s ps) (hl : [.caches, .cores] ⊆ ps := by decide) :
    KeepsAllBut s₀ (s.ocToL2 g) ps :=
  h.cached (s.caches_ocToL2 g) hl

theorem KeepsAllBut.recallFrom {g k} (h : KeepsAllBut s₀ s ps) (hl : [.caches, .cores] ⊆ ps := by decide) :
    KeepsAllBut s₀ (s.recallFrom g k) ps :=
  h.cached (s.caches_recallFrom g k) hl

theorem KeepsAllBut.shareFor {c g} (h : KeepsAllBut s₀ s ps) (hl : [.caches, .cores] ⊆ ps := by decide) :
    KeepsAllBut s₀ (s.shareFor c g) ps :=
  h.cached (s.caches_shareFor c g) hl

theorem KeepsAllBut.claimFor {c g} (h : KeepsAllBut s₀ s ps) (hl : [.caches, .cores] ⊆ ps := by decide) :
    KeepsAllBut s₀ (s.claimFor c g) ps :=
  h.cached (s.caches_claimFor c g) hl

/-! ### Mem: Uncached agents (R289) -/

theorem KeepsAllBut.hbmServes {g} (h : KeepsAllBut s₀ s ps) (hl : [.power] ⊆ ps := by decide) :
    KeepsAllBut s₀ (s.hbmServes g) ps :=
  h.step hl fun _ h => .ite h.modPower h

theorem KeepsAllBut.agentClean {g} (h : KeepsAllBut s₀ s ps) (hl : [.caches, .cores] ⊆ ps := by decide) :
    KeepsAllBut s₀ (s.agentClean g) ps :=
  h.cached (s.caches_agentClean g) hl

theorem KeepsAllBut.agentTake {g} (h : KeepsAllBut s₀ s ps) (hl : [.caches, .cores] ⊆ ps := by decide) :
    KeepsAllBut s₀ (s.agentTake g) ps :=
  h.cached (s.caches_agentTake g) hl

theorem KeepsAllBut.agentRead {pa} (h : KeepsAllBut s₀ s ps) (hl : [.caches, .cores, .power] ⊆ ps := by decide) :
    KeepsAllBut s₀ (s.agentRead pa).2 ps :=
  h.step hl fun _ h => h.agentClean.hbmServes

theorem KeepsAllBut.agentWrite {pa c} (h : KeepsAllBut s₀ s ps) (hl : Part.hbm ⊆ ps := by decide) :
    KeepsAllBut s₀ (s.agentWrite pa c) ps :=
  h.step hl fun _ h => h.agentTake.hbmServes.setCell

theorem KeepsAllBut.agentBytes {a n} (h : KeepsAllBut s₀ s ps) (hl : [.caches, .cores, .power] ⊆ ps := by decide) :
    KeepsAllBut s₀ (s.agentBytes a n).2 ps :=
  h.step hl fun _ h => h.fold fun _ _ h => h.agentClean.hbmServes

theorem KeepsAllBut.agentPut {a data} (h : KeepsAllBut s₀ s ps) (hl : Part.hbm ⊆ ps := by decide) :
    KeepsAllBut s₀ (s.agentPut a data) ps :=
  h.step hl fun _ h => ((h.fold fun _ _ h => h.agentTake.hbmServes).fold fun _ _ h => .ite h.setPoison h).withMemory

/-! ### Mem: L2 writes -/

theorem KeepsAllBut.l2Write {c g cells} (h : KeepsAllBut s₀ s ps) (hl : Part.store ⊆ ps := by decide) :
    KeepsAllBut s₀ (s.l2Write c g cells) ps := by
  refine h.step hl fun _ h => ?_
  simp only [State.l2Write]
  refine KeepsAllBut.fold ?_ fun _ _ h => h.setCell
  split
  · exact h.recallFrom.ocToL2.claimFor.dropCopies.l2Put
  · exact h.recallFrom.ocToL2.claimFor.dropCopies.l2Put.setL2U

theorem KeepsAllBut.drainEntry {c e} (h : KeepsAllBut s₀ s ps) (hl : Part.store ⊆ ps := by decide) :
    KeepsAllBut s₀ (s.drainEntry c e) ps :=
  h.step hl fun _ h => h.l2Write

theorem KeepsAllBut.drainMerge {c} (h : KeepsAllBut s₀ s ps) (hl : Part.store ⊆ ps := by decide) :
    KeepsAllBut s₀ (s.drainMerge c) ps :=
  h.step hl fun _ h => h.modCore.fold fun _ _ h => h.drainEntry

theorem KeepsAllBut.flushAround {q} (h : KeepsAllBut s₀ s ps)
    (hl : [.memory, .caches, .cores, .registers] ⊆ ps := by decide) :
    KeepsAllBut s₀ (s.flushAround q) ps := by
  refine h.step hl fun _ h => ?_
  simp only [State.flushAround]
  split
  · exact h
  · exact (KeepsAllBut.ite h.modSlot.setPoison h.modSlot).l2Write

theorem KeepsAllBut.endAround {q} (h : KeepsAllBut s₀ s ps)
    (hl : [.memory, .caches, .cores, .registers] ⊆ ps := by decide) :
    KeepsAllBut s₀ (s.endAround q) ps :=
  h.step hl fun _ h => .ite h.flushAround h.flushAround.modSlot

/-! ### Mem: Loads and stores of a core -/

theorem KeepsAllBut.orderStores {q} (h : KeepsAllBut s₀ s ps)
    (hl : [.memory, .caches, .cores, .registers] ⊆ ps := by decide) :
    KeepsAllBut s₀ (s.orderStores q) ps :=
  h.step hl fun _ h => h.flushAround.drainMerge

/-! ### Context: Event channels (R202 to R208) -/

theorem KeepsAllBut.setChan {n c} (h : KeepsAllBut s₀ s ps) (hl : [.channels] ⊆ ps := by decide) :
    KeepsAllBut s₀ (s.setChan n c) ps :=
  h.past (s.keeps_setChan n c) hl

/-! ### Context: Microcode banks and gated cores (R462, R493) -/

theorem KeepsAllBut.modDep {f} (h : KeepsAllBut s₀ s ps) (hl : [.dependability] ⊆ ps := by decide) :
    KeepsAllBut s₀ (s.modDep f) ps :=
  h.past (s.keeps_modDep f) hl

theorem KeepsAllBut.mcFinish (h : KeepsAllBut s₀ s ps) (hl : [.collector, .dependability] ⊆ ps := by decide) :
    KeepsAllBut s₀ s.mcFinish ps :=
  h.step hl fun _ h => .ite h h.modDep.logErr

theorem KeepsAllBut.switchBanks {c} (h : KeepsAllBut s₀ s ps)
    (hl : [.cores, .collector, .dependability] ⊆ ps := by decide) :
    KeepsAllBut s₀ (s.switchBanks c) ps :=
  h.step hl fun _ h => .ite h h.modCore.modDep.mcFinish

theorem KeepsAllBut.ungate {c} (h : KeepsAllBut s₀ s ps) (hl : [.cores, .collector, .dependability] ⊆ ps := by decide) :
    KeepsAllBut s₀ (s.ungate c) ps :=
  h.step hl fun _ h => .ite h.modCore.switchBanks h

/-! ### Context: Readiness and sleep -/

theorem KeepsAllBut.makeReady {n} (h : KeepsAllBut s₀ s ps) (hl : Part.wake ⊆ ps := by decide) :
    KeepsAllBut s₀ (s.makeReady n) ps :=
  h.step hl fun _ h => have h1 := h.setCtxState.modAux
    (KeepsAllBut.ite h1.withContexts.ungate h1.withContexts).wakeTo

theorem KeepsAllBut.sleepAs {n v} (h : KeepsAllBut s₀ s ps) (hl : [.contexts] ⊆ ps := by decide) :
    KeepsAllBut s₀ (s.sleepAs n v) ps :=
  h.step hl fun _ h => h.setCtxState.modAux.withContexts

theorem KeepsAllBut.checkEvents {n} (h : KeepsAllBut s₀ s ps) (hl : Part.wake ⊆ ps := by decide) :
    KeepsAllBut s₀ (s.checkEvents n) ps :=
  h.step hl fun _ h => .ite h.makeReady h

theorem KeepsAllBut.checkInterrupts {n} (h : KeepsAllBut s₀ s ps) (hl : Part.wake ⊆ ps := by decide) :
    KeepsAllBut s₀ (s.checkInterrupts n) ps :=
  h.step hl fun _ h => .ite h.makeReady.modAux h

theorem KeepsAllBut.deliver {n v} (h : KeepsAllBut s₀ s ps) (hl : Part.wake ⊆ ps := by decide) :
    KeepsAllBut s₀ (s.deliver n v) ps :=
  h.step hl fun _ h => h.modAux.checkInterrupts

theorem KeepsAllBut.post {n} (h : KeepsAllBut s₀ s ps) (hl : .channels :: Part.wake ⊆ ps := by decide) :
    KeepsAllBut s₀ (s.post n) ps :=
  h.step hl fun _ h => .ite h.deliver (.ite h.setChan.checkEvents h.setChan)

/-! ### Context: Notices of vent firmware (R519) -/

theorem KeepsAllBut.ringPut {base cells} (h : KeepsAllBut s₀ s ps) (e : s.ringPut base cells = some t)
    (hl : Part.hbm ⊆ ps := by decide) :
    KeepsAllBut s₀ t ps := by
  refine h.step hl fun _ h => ?_
  simp only [State.ringPut] at e
  split at e
  · cases e
  cases e
  exact (h.agentRead.agentRead.foldUp fun _ _ h => h.agentWrite).agentWrite

theorem KeepsAllBut.sendNotices {l} (h : KeepsAllBut s₀ s ps)
    (hl : .memory :: .caches :: .channels :: .boot :: Part.wake ⊆ ps := by decide) :
    KeepsAllBut s₀ (sendNotices l s) ps := by
  refine h.step hl fun _ k => ?_
  clear h
  induction l generalizing s with
  | nil => exact k.withBoot
  | cons x l ih =>
    obtain ⟨code, tag, arg⟩ := x
    rw [Machine.sendNotices]
    split
    · exact k.withBoot
    split
    · exact k.withBoot
    next t e => exact ih (k.ringPut e).post

theorem KeepsAllBut.sendHeld (h : KeepsAllBut s₀ s ps)
    (hl : .memory :: .caches :: .channels :: .boot :: Part.wake ⊆ ps := by decide) :
    KeepsAllBut s₀ s.sendHeld ps :=
  h.step hl fun _ h => .ite h h.sendNotices

theorem KeepsAllBut.notice {code tag arg} (h : KeepsAllBut s₀ s ps)
    (hl : .memory :: .caches :: .channels :: .boot :: Part.wake ⊆ ps := by decide) :
    KeepsAllBut s₀ (s.notice code tag arg) ps :=
  h.step hl fun _ h => h.withBoot.sendHeld

/-! ### Context: Progress of a stopped instruction (R136, R137, R182, R183) -/

theorem KeepsAllBut.parkMid {q} (h : KeepsAllBut s₀ s ps) (hl : [.cores, .registers, .contexts] ⊆ ps := by decide) :
    KeepsAllBut s₀ (s.parkMid q) ps := by
  refine h.step hl fun _ h => ?_
  simp only [State.parkMid]
  split
  · exact h.setSlot
  · exact .ite h.setSlot h.setSlot.modAux
  · exact h.setSlot

/-! ### Context: Eviction and fill (R188, R190, R199) -/

theorem KeepsAllBut.setRecs {n c l} (h : KeepsAllBut s₀ s ps) (hl : [.contexts] ⊆ ps := by decide) :
    KeepsAllBut s₀ (s.setRecs n c l) ps := by
  induction l generalizing s c with
  | nil => exact h
  | cons v l ih => exact ih (h.setRec hl)

theorem KeepsAllBut.saveRegs {n r} (h : KeepsAllBut s₀ s ps) (hl : [.contexts] ⊆ ps := by decide) :
    KeepsAllBut s₀ (s.saveRegs n r) ps :=
  h.step hl fun _ h => h.setRecs.setRecField

theorem KeepsAllBut.setResidence {n q} (h : KeepsAllBut s₀ s ps) (hl : [.contexts] ⊆ ps := by decide) :
    KeepsAllBut s₀ (s.setResidence n q) ps := by
  refine h.step hl fun _ h => ?_
  unfold State.setResidence
  split
  · exact h.setRecField.setRecField.setRecField
  · exact h.setRecField

theorem KeepsAllBut.freeSlot {q} (h : KeepsAllBut s₀ s ps) (hl : [.cores, .registers, .contexts] ⊆ ps := by decide) :
    KeepsAllBut s₀ (s.freeSlot q) ps := by
  refine h.step hl fun _ h => ?_
  simp only [State.freeSlot]
  split
  · exact .ite h.setSlot.modAux h.setSlot
  · exact h.setSlot

theorem KeepsAllBut.evict {q} (h : KeepsAllBut s₀ s ps) (hl : Part.swap ⊆ ps := by decide) :
    KeepsAllBut s₀ (s.evict q) ps := by
  refine h.step hl fun _ h => ?_
  unfold State.evict
  split
  · exact h
  extract_lets s1 s2
  have h2 : KeepsAllBut _ s2 _ := h.parkMid.endAround.saveRegs.setResidence.freeSlot
  exact .ite h2.makeReady h2

theorem KeepsAllBut.fill {q n} (h : KeepsAllBut s₀ s ps) (hl : [.cores, .registers, .contexts] ⊆ ps := by decide) :
    KeepsAllBut s₀ (s.fill q n) ps :=
  h.step hl fun _ h => (KeepsAllBut.ite h.setResidence.setSlot.modAux h.setResidence.setSlot).withContexts

theorem KeepsAllBut.evictCtx {n} (h : KeepsAllBut s₀ s ps) (hl : Part.swap ⊆ ps := by decide) :
    KeepsAllBut s₀ (s.evictCtx n) ps :=
  h.step hl fun _ h => .ite h.evict h

theorem KeepsAllBut.modCtxRegs {n f} (h : KeepsAllBut s₀ s ps)
    (hl : [.cores, .registers, .contexts] ⊆ ps := by decide) :
    KeepsAllBut s₀ (s.modCtxRegs n f) ps :=
  h.step hl fun _ h => .ite h.modRegs h.saveRegs

/-! ### Context: Completion of a CKPT (R215) -/

theorem KeepsAllBut.ckptComplete {n status value} (h : KeepsAllBut s₀ s ps)
    (hl : .registers :: Part.wake ⊆ ps := by decide) :
    KeepsAllBut s₀ (s.ckptComplete n status value) ps :=
  h.step hl fun _ h => (KeepsAllBut.ite h.setRecField h).modCtxRegs.makeReady.modAux

theorem KeepsAllBut.wakeReached {n} (h : KeepsAllBut s₀ s ps) (hl : .registers :: Part.wake ⊆ ps := by decide) :
    KeepsAllBut s₀ (s.wakeReached n) ps := by
  refine h.step hl fun _ h => ?_
  simp only [State.wakeReached]
  refine (KeepsAllBut.makeReady ?_).modAux
  split
  · exact h.modCtxRegs
  · exact h

/-! ### Heap: The window and the block table (R216, R220, R221) -/

theorem KeepsAllBut.setEntry {b c} (h : KeepsAllBut s₀ s ps) (hl : Part.hbm ⊆ ps := by decide) :
    KeepsAllBut s₀ (s.setEntry b c) ps :=
  h.step hl fun _ h => h.agentWrite

theorem KeepsAllBut.setE {b hi lo v} (h : KeepsAllBut s₀ s ps) (hl : Part.hbm ⊆ ps := by decide) :
    KeepsAllBut s₀ (s.setE b hi lo v) ps :=
  h.step hl fun _ h => h.setEntry

theorem KeepsAllBut.noteEngine {a} (h : KeepsAllBut s₀ s ps) (hl : [.heap] ⊆ ps := by decide) :
    KeepsAllBut s₀ (s.noteEngine a) ps :=
  h.step hl fun _ h => .ite h.withHeap h

theorem KeepsAllBut.noteBlock {b} (h : KeepsAllBut s₀ s ps) (hl : [.heap] ⊆ ps := by decide) :
    KeepsAllBut s₀ (s.noteBlock b) ps :=
  h.step hl fun _ h => h.withHeap

theorem KeepsAllBut.putHeap {a c} (h : KeepsAllBut s₀ s ps) (hl : Part.reloc ⊆ ps := by decide) :
    KeepsAllBut s₀ (s.putHeap a c) ps :=
  h.step hl fun _ h => h.agentWrite.noteEngine

/-! ### Heap: Objects -/

theorem KeepsAllBut.modHeap {f} (h : KeepsAllBut s₀ s ps) (hl : [.heap] ⊆ ps := by decide) :
    KeepsAllBut s₀ (s.modHeap f) ps :=
  h.past (s.keeps_modHeap f) hl

theorem KeepsAllBut.setStart {a k} (h : KeepsAllBut s₀ s ps) (hl : [.heap] ⊆ ps := by decide) :
    KeepsAllBut s₀ (s.setStart a k) ps :=
  h.step hl fun _ h => h.modHeap

theorem KeepsAllBut.pushMark {a dur} (h : KeepsAllBut s₀ s ps) (hl : Part.reloc ⊆ ps := by decide) :
    KeepsAllBut s₀ (s.pushMark a dur) ps :=
  h.step hl fun _ h => .ite h.modHeap h.setE.modHeap

theorem KeepsAllBut.mark {a dur} (h : KeepsAllBut s₀ s ps) (hl : Part.reloc ⊆ ps := by decide) :
    KeepsAllBut s₀ (s.mark a dur) ps :=
  h.step hl fun _ h => have h1 := KeepsAllBut.ite h (KeepsAllBut.ite h.modHeap h.putHeap).setE
    have h2 := KeepsAllBut.ite h1.modHeap h1
    .ite h2.pushMark h2

theorem KeepsAllBut.learn {v} (h : KeepsAllBut s₀ s ps) (hl : [.heap] ⊆ ps := by decide) :
    KeepsAllBut s₀ (s.learn v) ps :=
  h.step hl fun _ h => .ite h.setStart h

/-! ### Heap: Relocation chunks and forwarding (R232) -/

theorem KeepsAllBut.filler {a n} (h : KeepsAllBut s₀ s ps) (hl : Part.reloc ⊆ ps := by decide) :
    KeepsAllBut s₀ (s.filler a n) ps :=
  h.step hl fun _ h => .ite h h.putHeap

theorem KeepsAllBut.setChunk {w bed v} (h : KeepsAllBut s₀ s ps) (hl : [.cores, .heap] ⊆ ps := by decide) :
    KeepsAllBut s₀ (s.setChunk w bed v) ps := by
  refine h.step hl fun _ h => ?_
  unfold State.setChunk
  split
  · exact h.modCore fun _ => by split <;> rfl
  · exact h.modHeap

theorem KeepsAllBut.destChunk {kind a} (h : KeepsAllBut s₀ s ps) (e : s.destChunk kind = some (a, t))
    (hl : Part.hbm ⊆ ps := by decide) :
    KeepsAllBut s₀ t ps := by
  refine h.step hl fun r h => ?_
  simp only [State.destChunk] at e
  split at e
  · cases e
  next b u eu =>
    have hu : KeepsAllBut r u Part.hbm := by
      split at eu
      · cases eu; exact h
      split at eu
      · cases eu
      split at eu
      · cases eu
      · cases eu; exact h.setEntry
    cases e
    exact .ite hu.setE hu.setE

theorem KeepsAllBut.relocAlloc {w bed cons n a} (h : KeepsAllBut s₀ s ps) (e : s.relocAlloc w bed cons n = some (a, t))
    (hl : Part.reloc ⊆ ps := by decide) :
    KeepsAllBut s₀ t ps := by
  refine h.step hl fun _ h => ?_
  unfold State.relocAlloc at e
  split at e
  extract_lets pad u at e
  have hu : KeepsAllBut _ u _ := .ite h.filler h
  split at e
  · obtain ⟨-, rfl⟩ := Prod.mk.inj (Option.some.inj e)
    exact hu.setChunk
  split at e
  · cases e
  next b v ev =>
    cases e
    exact (h.destChunk ev).filler.setChunk

theorem KeepsAllBut.setBrfull (h : KeepsAllBut s₀ s ps) (hl : [.heap] ⊆ ps := by decide) :
    KeepsAllBut s₀ s.setBrfull ps :=
  h.step hl fun _ h => h.modHeap

theorem KeepsAllBut.copyCells {src dst n} (h : KeepsAllBut s₀ s ps) (hl : Part.reloc ⊆ ps := by decide) :
    KeepsAllBut s₀ (s.copyCells src dst n) ps := by
  induction n generalizing s src dst with
  | zero => exact h
  | succ n ih =>
    rw [State.copyCells_succ]
    exact ih (h.putHeap hl)

theorem KeepsAllBut.forward {w a} (h : KeepsAllBut s₀ s ps) (hl : Part.reloc ⊆ ps := by decide) :
    KeepsAllBut s₀ (s.forward w a).2 ps := by
  refine h.step hl fun _ h => ?_
  unfold State.forward
  extract_lets c cons n want bed s0
  have h0 : KeepsAllBut _ s0 _ := .ite h.setBrfull h
  split
  · exact h
  split
  · exact h0
  next d t e =>
    have h1 : KeepsAllBut _ (t.copyCells a d n) Part.reloc := (h0.relocAlloc e).copyCells
    dsimp only
    exact h1.putHeap.setStart.modHeap

/-! ### Heap: The barriers (R226, R229) -/

theorem KeepsAllBut.barrierAt {w v dur good a} (h : KeepsAllBut s₀ s ps) (e : s.barrierAt w v dur good = some (a, t))
    (hl : Part.reloc ⊆ ps := by decide) :
    KeepsAllBut s₀ t ps := by
  refine h.step hl fun _ h => ?_
  unfold State.barrierAt at e
  split at e
  · cases e; exact h
  split at e
  · cases e; exact h
  extract_lets c u at e
  have hu : KeepsAllBut _ u _ := h.learn
  clear_value u
  split at e
  · cases e
  split at e
  · cases e; exact hu
  split at e
  next e' =>
  cases e
  have hv := KeepsAllBut.snd (.iteSnd hu.forward hu) e'
  exact .ite hv.mark hv

theorem KeepsAllBut.barrierValue {w v dur a} (h : KeepsAllBut s₀ s ps) (e : s.barrierValue w v dur = some (a, t))
    (hl : Part.reloc ⊆ ps := by decide) :
    KeepsAllBut s₀ t ps :=
  h.step hl fun _ h => h.barrierAt e

theorem KeepsAllBut.heal {pa v n} (h : KeepsAllBut s₀ s ps) (hl : Part.hbm ⊆ ps := by decide) :
    KeepsAllBut s₀ (s.heal pa v n) ps :=
  h.step hl fun _ h => .ite h h.agentWrite

theorem KeepsAllBut.setCard {n slot} (h : KeepsAllBut s₀ s ps) (hl : Part.reloc ⊆ ps := by decide) :
    KeepsAllBut s₀ (s.setCard n slot) ps :=
  h.step hl fun _ h => .ite (.ite (.ite h.modHeap h.modHeap.setE) h) h

theorem KeepsAllBut.engineSlot {se a dur} (h : KeepsAllBut s₀ s ps) (hl : Part.reloc ⊆ ps := by decide) :
    KeepsAllBut s₀ (s.engineSlot se a dur) ps := by
  refine h.step hl fun r h => ?_
  unfold State.engineSlot
  refine .ite h.modHeap ?_
  split
  next v s1 e1 =>
  have h1 : KeepsAllBut _ s1 _ := .snd (h.agentRead (pa := s.heapPa a)) e1
  extract_lets s2
  have h2 : KeepsAllBut r s2 Part.reloc := by
    refine .ite ?_ h1
    split
    · exact h1.learn.mark
    · exact h1.learn
  split
  · exact h2
  next n t e =>
    have ht : KeepsAllBut _ t _ := h2.barrierValue e
    exact .ite ht.setCard ht.heal.noteEngine.setCard

theorem KeepsAllBut.engineSlots {se dur n a} (h : KeepsAllBut s₀ s ps) (hl : Part.reloc ⊆ ps := by decide) :
    KeepsAllBut s₀ (s.engineSlots se dur n a) ps := by
  induction n generalizing s a with
  | zero => exact h
  | succ n ih => exact ih (h.engineSlot hl)

/-! ### Heap: Passes (R236) -/

theorem KeepsAllBut.healList {w dur l} (h : KeepsAllBut s₀ s ps) (hl : Part.reloc ⊆ ps := by decide) :
    KeepsAllBut s₀ (s.healList w dur l).2 ps := by
  induction l generalizing s with
  | nil => exact h
  | cons v l ih =>
    refine ih ?_
    split
    next p e => exact h.barrierValue (a := p.1) e hl
    · exact h

theorem KeepsAllBut.markList {dur l} (h : KeepsAllBut s₀ s ps) (hl : Part.reloc ⊆ ps := by decide) :
    KeepsAllBut s₀ (s.markList dur l) ps := by
  refine h.step hl fun _ k => ?_
  clear h
  induction l generalizing s with
  | nil => exact k
  | cons v l ih =>
    refine ih (.ite ?_ k)
    split
    · exact k.learn.mark
    · exact k.learn

theorem KeepsAllBut.closeChunk {p q} (h : KeepsAllBut s₀ s ps) (hl : Part.reloc ⊆ ps := by decide) :
    KeepsAllBut s₀ (s.closeChunk p q) ps :=
  h.step hl fun _ h => .ite h.filler h

theorem KeepsAllBut.passRegs {w p n r} (h : KeepsAllBut s₀ s ps) (hl : Part.reloc ⊆ ps := by decide) :
    KeepsAllBut s₀ (s.passRegs w p n r).2 ps := by
  refine h.step hl fun _ h => ?_
  simp only [State.passRegs]
  split
  · exact (KeepsAllBut.ite h.healList.markList h.healList).closeChunk
  · exact h.markList
  · exact h.healList

theorem KeepsAllBut.passLong {w p l} (h : KeepsAllBut s₀ s ps) (hl : Part.reloc ⊆ ps := by decide) :
    KeepsAllBut s₀ (s.passLong w p l).2 ps := by
  refine h.step hl fun _ h => ?_
  simp only [State.passLong]
  split
  · exact h.markList
  · exact h.healList

theorem KeepsAllBut.passStopped {w p l} (h : KeepsAllBut s₀ s ps) (hl : Part.reloc ⊆ ps := by decide) :
    KeepsAllBut s₀ (s.passStopped w p l).2 ps := by
  induction l generalizing s with
  | nil => exact h
  | cons x l ih => exact ih (h.passLong hl)

theorem KeepsAllBut.passKept {w p n} (h : KeepsAllBut s₀ s ps) (hl : Part.pass ⊆ ps := by decide) :
    KeepsAllBut s₀ (s.passKept w p n) ps := by
  refine h.step hl fun _ h => ?_
  unfold State.passKept
  extract_lets stopped s1
  have h1 : KeepsAllBut _ s1 _ := .ite h h.passStopped.modAux
  refine .ite h1 ?_
  split
  · exact h1.passLong.modSlot
  · exact h1

theorem KeepsAllBut.treatCtx {w p n} (h : KeepsAllBut s₀ s ps) (hl : Part.pass ⊆ ps := by decide) :
    KeepsAllBut s₀ (s.treatCtx w p n) ps :=
  h.step hl fun _ h => h.passRegs.modCtxRegs.passKept.modHeap

theorem KeepsAllBut.startPass {p} (h : KeepsAllBut s₀ s ps) (hl : [.heap] ⊆ ps := by decide) :
    KeepsAllBut s₀ (s.startPass p) ps :=
  h.step hl fun _ h => h.modHeap

theorem KeepsAllBut.flip (h : KeepsAllBut s₀ s ps) (hl : [.heap] ⊆ ps := by decide) :
    KeepsAllBut s₀ s.flip ps :=
  h.step hl fun _ h => h.modHeap

theorem KeepsAllBut.corePass {c} (h : KeepsAllBut s₀ s ps) (hl : Part.pass ⊆ ps := by decide) :
    KeepsAllBut s₀ (s.corePass c) ps := by
  refine h.step hl fun _ h => ?_
  simp only [State.corePass]
  split
  · exact h
  split
  · exact h
  refine KeepsAllBut.modHeap ?_
  refine h.fold fun _ _ h => ?_
  split
  · exact h
  · exact .ite h h.orderStores.passRegs.setRegs.passKept.modHeap

/-! ### Heap: The cycle (R231 to R235, R239) -/

theorem KeepsAllBut.cycleStart (h : KeepsAllBut s₀ s ps) (hl : Part.reloc ⊆ ps := by decide) :
    KeepsAllBut s₀ s.cycleStart ps := by
  refine h.step hl fun _ h => ?_
  simp only [State.cycleStart]
  split
  · exact h
  split
  · exact h
  · exact (h.flip.modHeap.fold fun _ _ h => .ite h.setE h).modHeap.startPass

theorem KeepsAllBut.traceRecord {se n} (h : KeepsAllBut s₀ s ps) (hl : Part.pass ⊆ ps := by decide) :
    KeepsAllBut s₀ (s.traceRecord se n) ps :=
  h.step hl fun _ h => .ite h (KeepsAllBut.ite h h.treatCtx).modHeap

theorem KeepsAllBut.traceCard {se k} (h : KeepsAllBut s₀ s ps) (hl : Part.reloc ⊆ ps := by decide) :
    KeepsAllBut s₀ (s.traceCard se k) ps :=
  h.step hl fun _ h => .ite h.modHeap (KeepsAllBut.ite h.modHeap h.modHeap.setE).engineSlots

theorem KeepsAllBut.traceObject {se} (h : KeepsAllBut s₀ s ps) (hl : Part.reloc ⊆ ps := by decide) :
    KeepsAllBut s₀ (s.traceObject se) ps := by
  refine h.step hl fun _ h => ?_
  simp only [State.traceObject]
  split
  · exact h
  · exact h.modHeap.engineSlots

theorem KeepsAllBut.traceBlock {se b} (h : KeepsAllBut s₀ s ps) (hl : Part.reloc ⊆ ps := by decide) :
    KeepsAllBut s₀ (s.traceBlock se b) ps :=
  h.step hl fun _ h => .ite h (h.setE.fold fun _ _ h => KeepsAllBut.ite h.engineSlots h)

theorem KeepsAllBut.markEnd (h : KeepsAllBut s₀ s ps) (hl : [.heap] ⊆ ps := by decide) :
    KeepsAllBut s₀ s.markEnd ps :=
  h.step hl fun _ h => .ite h (.ite h.modHeap.startPass h.modHeap)

theorem KeepsAllBut.treatFill {c n} (h : KeepsAllBut s₀ s ps) (hl : Part.pass ⊆ ps := by decide) :
    KeepsAllBut s₀ (s.treatFill c n) ps := by
  refine h.step hl fun _ h => ?_
  unfold State.treatFill
  split
  · exact h.treatCtx
  · exact h

theorem KeepsAllBut.sweepBlock {b clear} (h : KeepsAllBut s₀ s ps) (hl : Part.reloc ⊆ ps := by decide) :
    KeepsAllBut s₀ (s.sweepBlock b clear) ps :=
  h.step hl fun _ h => h.fold fun _ _ h =>
    .ite h ((KeepsAllBut.ite (h.foldUp fun _ _ h => h.putHeap) h).filler.setStart)

theorem KeepsAllBut.keepSilt {b} (h : KeepsAllBut s₀ s ps) (hl : Part.reloc ⊆ ps := by decide) :
    KeepsAllBut s₀ (s.keepSilt b) ps := by
  refine h.step hl fun _ h => ?_
  unfold State.keepSilt
  extract_lets dur bed s0 s1 ch s2 c s3 s4
  have h1 : KeepsAllBut _ s1 _ := (KeepsAllBut.ite h.setBrfull h).sweepBlock
  have h4 : KeepsAllBut _ s4 _ := (KeepsAllBut.ite h1.filler h1).setEntry.modHeap
  exact .ite (h4.noteBlock.fold fun _ _ h => h.modHeap) h4

theorem KeepsAllBut.select (h : KeepsAllBut s₀ s ps) (hl : Part.reloc ⊆ ps := by decide) :
    KeepsAllBut s₀ s.select ps := by
  refine h.step hl fun _ h => ?_
  unfold State.select
  extract_lets
  refine .ite h ?_
  split
  extract_lets keep s1 s2 s3 s4 rest heads dead s5
  have h2 : KeepsAllBut _ s2 _ := KeepsAllBut.fold (.ite h.modHeap h) fun _ _ h => h.keepSilt
  have h3 : KeepsAllBut _ s3 _ := h2.fold fun _ _ h => h.setE
  have h4 : KeepsAllBut _ s4 _ := h3.fold fun _ _ h => .ite h.setE.noteBlock h.setBrfull
  have h5 : KeepsAllBut _ s5 _ := h4.fold fun _ _ h => h.sweepBlock
  exact h5.modHeap

theorem KeepsAllBut.relocateFlip (h : KeepsAllBut s₀ s ps) (hl : [.heap] ⊆ ps := by decide) :
    KeepsAllBut s₀ s.relocateFlip ps :=
  h.step hl fun _ h => .ite h h.flip.modHeap.startPass

theorem KeepsAllBut.engineCopy {se obj} (h : KeepsAllBut s₀ s ps) (hl : Part.reloc ⊆ ps := by decide) :
    KeepsAllBut s₀ (s.engineCopy se obj) ps :=
  h.step hl fun _ h => .ite h h.forward

theorem KeepsAllBut.remap (h : KeepsAllBut s₀ s ps) (hl : Part.reloc ⊆ ps := by decide) :
    KeepsAllBut s₀ s.remap ps :=
  h.step hl fun _ h => .ite h h.modHeap.modHeap

theorem KeepsAllBut.engineHeal {se it} (h : KeepsAllBut s₀ s ps) (hl : Part.pass ⊆ ps := by decide) :
    KeepsAllBut s₀ (s.engineHeal se it) ps := by
  refine h.step hl fun _ h => ?_
  simp only [State.engineHeal]
  split
  · exact h
  refine KeepsAllBut.modHeap ?_
  split
  · exact .ite h h.treatCtx
  · exact h.engineSlot

theorem KeepsAllBut.keepUncopied {b} (h : KeepsAllBut s₀ s ps) (hl : Part.reloc ⊆ ps := by decide) :
    KeepsAllBut s₀ (s.keepUncopied b) ps := by
  refine h.step hl fun _ h => ?_
  unfold State.keepUncopied
  refine KeepsAllBut.modHeap (KeepsAllBut.setE (KeepsAllBut.setE (h.fold fun _ _ h => ?_)))
  exact .ite h.filler.setStart (.ite h h.filler.setStart)

theorem KeepsAllBut.closeReloc {w bed} (h : KeepsAllBut s₀ s ps) (hl : Part.reloc ⊆ ps := by decide) :
    KeepsAllBut s₀ (s.closeReloc w bed) ps :=
  h.step hl fun _ h => .ite h h.filler.setChunk

theorem KeepsAllBut.remapEnd (h : KeepsAllBut s₀ s ps) (hl : .collector :: Part.reloc ⊆ ps := by decide) :
    KeepsAllBut s₀ s.remapEnd ps := by
  refine h.step hl fun _ h => ?_
  unfold State.remapEnd
  refine .ite h ?_
  extract_lets s1 s2 rel left set s2' s3 bad s4
  have h2 : KeepsAllBut _ s2 _ :=
    (h.fold fun _ _ h => h.closeReloc.closeReloc).fold fun _ _ h => h.closeReloc.closeReloc
  have h3 : KeepsAllBut _ s3 _ := (h2.fold fun _ _ h => h.keepUncopied).fold fun _ _ h => h.setE
  have h4 : KeepsAllBut _ s4 _ := h3.modHeap
  exact .ite h4 (.ite h4.present (.ite h4.fresh.present h4.present))

theorem KeepsAllBut.zeroRange {a n} (h : KeepsAllBut s₀ s ps) (hl : Part.store ⊆ ps := by decide) :
    KeepsAllBut s₀ (s.zeroRange a n) ps :=
  h.step hl fun _ h =>
    ((h.past (CachesOnly.of_map (s := s) _ fun _ => ⟨_, _, rfl⟩).keeps (by decide)).withCaches).withMemory

theorem KeepsAllBut.blockCleared {b} (h : KeepsAllBut s₀ s ps) (hl : Part.reloc ⊆ ps := by decide) :
    KeepsAllBut s₀ (s.blockCleared b) ps :=
  h.step hl fun _ h => .ite h h.zeroRange.setEntry.modHeap

/-! ### Journal -/

theorem KeepsAllBut.modJr {f} (h : KeepsAllBut s₀ s ps) (hl : [.journal] ⊆ ps := by decide) :
    KeepsAllBut s₀ (s.modJr f) ps :=
  h.past (s.keeps_modJr f) hl

/-! ### Journal: Wear units (R366, R374, R375) -/

theorem KeepsAllBut.wearOne (h : KeepsAllBut s₀ s ps) (hl : [.journal] ⊆ ps := by decide) :
    KeepsAllBut s₀ s.wearOne ps :=
  h.step hl fun _ h => h.fresh.modJr

theorem KeepsAllBut.wearBytes {bytes} (h : KeepsAllBut s₀ s ps) (hl : [.journal] ⊆ ps := by decide) :
    KeepsAllBut s₀ (s.wearBytes bytes) ps :=
  h.step hl fun _ h => h.foldUp fun _ _ h => h.wearOne

theorem KeepsAllBut.writeFails (h : KeepsAllBut s₀ s ps) (hl : [.journal] ⊆ ps := by decide) :
    KeepsAllBut s₀ s.writeFails ps :=
  h.step hl fun _ h => h.fresh.modJr.wearOne

theorem KeepsAllBut.tuffWrite {bytes} (h : KeepsAllBut s₀ s ps) (hl : [.journal] ⊆ ps := by decide) :
    KeepsAllBut s₀ (s.tuffWrite bytes) ps :=
  h.step hl fun _ h => .ite h (h.wearBytes.fresh.foldUp fun _ _ h => h.writeFails)

theorem KeepsAllBut.tuffError (h : KeepsAllBut s₀ s ps)
    (hl : [.collector, .journal, .dependability] ⊆ ps := by decide) :
    KeepsAllBut s₀ s.tuffError ps :=
  h.step hl fun _ h => h.fresh.modJr.logErr

theorem KeepsAllBut.tuffTry {bytes} (h : KeepsAllBut s₀ s ps)
    (hl : [.collector, .journal, .dependability] ⊆ ps := by decide) :
    KeepsAllBut s₀ (s.tuffTry bytes).2 ps := by
  refine h.step hl fun _ h => ?_
  simp only [State.tuffTry]
  split
  · exact h.tuffWrite.fresh.writeFails.tuffError
  · exact h.tuffWrite.fresh

theorem KeepsAllBut.wearMove {unit dest fails ok unread} (h : KeepsAllBut s₀ s ps)
    (hl : [.collector, .journal, .dependability] ⊆ ps := by decide) :
    KeepsAllBut s₀ (s.wearMove unit dest fails ok unread) ps := by
  refine h.step hl fun r h => ?_
  unfold State.wearMove
  extract_lets count m t
  have hfail : ∀ n t, KeepsAllBut r t [.collector, .journal, .dependability] →
      KeepsAllBut r (Sys2Proof.foldUp (fun _ t => t.writeFails) n 0 t) [.collector, .journal, .dependability] :=
    fun _ _ h => h.foldUp fun _ _ h => h.writeFails
  have ht : KeepsAllBut _ t _ := .ite (hfail _ _ h.modJr).tuffError (.ite h.modJr (hfail _ _ h.modJr.modJr))
  exact .ite h (.ite ht.tuffError ht)

/-! ### Journal: Change lists (R229, R371) -/

theorem KeepsAllBut.claimCard {k} (h : KeepsAllBut s₀ s ps) (hl : [.caches, .cores] ⊆ ps := by decide) :
    KeepsAllBut s₀ (s.claimCard k) ps :=
  h.step hl fun _ h => h.fold fun _ _ h => h.agentTake

theorem KeepsAllBut.claimCards {l} (h : KeepsAllBut s₀ s ps) (hl : [.caches, .cores] ⊆ ps := by decide) :
    KeepsAllBut s₀ (s.claimCards l) ps :=
  h.step hl fun _ h => h.fold fun _ _ h => h.claimCard

theorem KeepsAllBut.checkLog (h : KeepsAllBut s₀ s ps) (hl : [.contexts, .journal] ⊆ ps := by decide) :
    KeepsAllBut s₀ s.checkLog ps := by
  refine h.step hl fun _ h => ?_
  unfold State.checkLog
  split
  · exact h
  split
  · exact h
  · exact h.modJr.modAux

/-! ### Journal: Commits (R369 to R372) -/

theorem KeepsAllBut.accept {c} (h : KeepsAllBut s₀ s ps) (hl : [.caches, .cores, .journal] ⊆ ps := by decide) :
    KeepsAllBut s₀ (s.accept c) ps :=
  h.step hl fun _ h => h.claimCards.modJr

theorem KeepsAllBut.ckptAccept {n} (h : KeepsAllBut s₀ s ps)
    (hl : [.caches, .cores, .contexts, .collector, .heap, .journal, .power] ⊆ ps := by decide) :
    KeepsAllBut s₀ (s.ckptAccept n) ps :=
  h.step hl fun _ h => .ite h (.ite h.modAux.modHeap.wakeTo (.ite h.modAux.present h.setRecs.accept.modJr.modAux))

theorem KeepsAllBut.putBack {c} (h : KeepsAllBut s₀ s ps) (hl : [.contexts, .journal] ⊆ ps := by decide) :
    KeepsAllBut s₀ (s.putBack c) ps := by
  refine h.step hl fun _ h => ?_
  simp only [State.putBack]
  split
  · exact .ite h.modJr h.modJr.modJr.modAux.checkLog
  · exact h.modJr

theorem KeepsAllBut.commitComplete {fails ok} (h : KeepsAllBut s₀ s ps)
    (hl : [.contexts, .collector, .journal, .dependability] ⊆ ps := by decide) :
    KeepsAllBut s₀ (s.commitComplete fails ok) ps := by
  refine h.step hl fun _ h => ?_
  unfold State.commitComplete
  split
  · exact h
  extract_lets s0 s1 good s2
  have h1 : KeepsAllBut _ s1 _ := h.modJr.wearBytes.foldUp fun _ _ h => h.writeFails
  have h2 : KeepsAllBut _ s2 _ := .ite h1.modJr (.ite h1.putBack h1.putBack.tuffError)
  split
  · exact .ite h2.present (.ite h2.fresh.present h2.present)
  · exact h2

theorem KeepsAllBut.afterCycle (h : KeepsAllBut s₀ s ps)
    (hl : [.caches, .cores, .contexts, .collector, .heap, .journal] ⊆ ps := by decide) :
    KeepsAllBut s₀ s.afterCycle ps :=
  h.step hl fun _ h =>
    ((KeepsAllBut.ite h h.accept).fold fun _ _ h => .ite (.ite h.fresh.modAux.present h.modAux) h).modHeap

theorem KeepsAllBut.moveSpills (h : KeepsAllBut s₀ s ps) (hl : [.journal] ⊆ ps := by decide) :
    KeepsAllBut s₀ s.moveSpills ps :=
  h.step hl fun _ h => h.modJr

theorem KeepsAllBut.cycleEnd (h : KeepsAllBut s₀ s ps)
    (hl : .contexts :: .collector :: .journal :: Part.reloc ⊆ ps := by decide) :
    KeepsAllBut s₀ s.cycleEnd ps :=
  h.step hl fun _ h => .ite h.moveSpills.remapEnd.afterCycle h

/-! ### Journal: Commands (R367, R368) -/

theorem KeepsAllBut.wholeWrites {a n} (h : KeepsAllBut s₀ s ps) (hl : [.memory] ⊆ ps := by decide) :
    KeepsAllBut s₀ (s.wholeWrites a n) ps :=
  h.step hl fun _ h => h.withMemory

theorem KeepsAllBut.ringCopy {pa p n} (h : KeepsAllBut s₀ s ps) (hl : Part.hbm ⊆ ps := by decide) :
    KeepsAllBut s₀ (s.ringCopy pa p n) ps := by
  induction n generalizing s pa p with
  | zero => exact h
  | succ n ih => exact ih (h.agentWrite hl)

theorem KeepsAllBut.ringBad {pa n} (h : KeepsAllBut s₀ s ps)
    (hl : .collector :: .journal :: .dependability :: Part.hbm ⊆ ps := by decide) :
    KeepsAllBut s₀ (s.ringBad pa n).1 ps := by
  refine h.step hl fun _ h => ?_
  simp only [State.ringBad]
  exact h.tuffError.fresh.fresh.foldUp fun _ _ h => .ite h.fresh.fresh.agentWrite h.fresh.fresh

theorem KeepsAllBut.jcmd {v unread mesh} (h : KeepsAllBut s₀ s ps)
    (hl : .collector :: .journal :: .dependability :: Part.hbm ⊆ ps := by decide) :
    KeepsAllBut s₀ (s.jcmd v unread mesh) ps := by
  refine h.step hl fun r h => ?_
  unfold State.jcmd
  refine .ite h ?_
  extract_lets u cmd arg done
  have hu : KeepsAllBut _ u _ := h.wakeTo
  have hdone : ∀ t a b, KeepsAllBut r t (.collector :: .journal :: .dependability :: Part.hbm) →
      KeepsAllBut r (done t a b) (.collector :: .journal :: .dependability :: Part.hbm) := fun _ _ _ h => h.present
  clear_value done
  split
  next x sx e =>
  have hx : KeepsAllBut _ sx _ := hu.fresh.snd e
  refine .ite (hdone _ _ _ hx) (.ite (.ite (hdone _ _ _ hx) (hdone _ _ _ (.ite hx.modJr hx))) ?_)
  refine .ite (hdone _ _ _ hx) (.ite (hdone _ _ _ hx.meshLost) ?_)
  split
  next e₁ =>
  split
  next e₂ =>
  split
  next e₃ =>
  have h₃ := ((hu.agentRead.snd e₁).agentRead.snd e₂).agentRead.snd e₃
  refine .ite (hdone _ _ _ hx.fresh) (.ite (.ite ?_ ?_) (hdone _ _ _ hx))
  · exact hdone _ _ _ h₃.wholeWrites.ringCopy.ringBad
  · exact hdone _ _ _ h₃.wholeWrites.ringCopy

/-! ### Journal: The sample ring (R373) -/

theorem KeepsAllBut.ringFrame {link time bytes} (h : KeepsAllBut s₀ s ps) (hl : [.journal] ⊆ ps := by decide) :
    KeepsAllBut s₀ (s.ringFrame link time bytes) ps :=
  h.step hl fun _ h => .ite h (.ite h.modJr h.tuffWrite.modJr)

/-! ### Journal: Power fail and restore (R376, R379) -/

theorem KeepsAllBut.finishStage (h : KeepsAllBut s₀ s ps)
    (hl : [.collector, .journal, .dependability] ⊆ ps := by decide) :
    KeepsAllBut s₀ s.finishStage ps :=
  h.step hl fun _ h => h.tuffTry.modJr

/-! ### Dispatcher: Time and budget (R201, R356) -/

theorem KeepsAllBut.chargeSlot {q} (h : KeepsAllBut s₀ s ps) (hl : [.contexts] ⊆ ps := by decide) :
    KeepsAllBut s₀ (s.chargeSlot q) ps := by
  refine h.step hl fun _ h => ?_
  simp only [State.chargeSlot]
  split
  · exact h
  · exact .ite h (.ite h.setRecField.modAux h.setRecField)

theorem KeepsAllBut.charge (h : KeepsAllBut s₀ s ps) (hl : [.contexts] ⊆ ps := by decide) :
    KeepsAllBut s₀ s.charge ps :=
  h.step hl fun _ h => h.fold fun _ _ h => h.chargeSlot

/-! ### Dispatcher: Placement (R198) -/

theorem KeepsAllBut.place {n q} (h : KeepsAllBut s₀ s ps) (hl : .heap :: Part.swap ⊆ ps := by decide) :
    KeepsAllBut s₀ (s.place n q) ps :=
  h.step hl fun _ h => .ite h h.evict.fill.ungate.treatFill

/-! ### HostBase -/

theorem KeepsAllBut.setFunc {f v} (h : KeepsAllBut s₀ s ps) (hl : [.host] ⊆ ps := by decide) :
    KeepsAllBut s₀ (s.setFunc f v) ps :=
  h.past (s.keeps_setFunc f v) hl

theorem KeepsAllBut.modFunc {f g} (h : KeepsAllBut s₀ s ps) (hl : [.host] ⊆ ps := by decide) :
    KeepsAllBut s₀ (s.modFunc f g) ps :=
  h.past (s.keeps_modFunc f g) hl

theorem KeepsAllBut.modCfg {f g} (h : KeepsAllBut s₀ s ps) (hl : [.host] ⊆ ps := by decide) :
    KeepsAllBut s₀ (s.modCfg f g) ps :=
  h.step hl fun _ h => h.modFunc

theorem KeepsAllBut.signal {f v} (h : KeepsAllBut s₀ s ps) (hl : [.host, .output] ⊆ ps := by decide) :
    KeepsAllBut s₀ (s.signal f v) ps :=
  h.step hl fun _ h => .ite h.emit h.setFunc

theorem KeepsAllBut.aer {f code} (h : KeepsAllBut s₀ s ps) (hl : [.host, .output] ⊆ ps := by decide) :
    KeepsAllBut s₀ (s.aer f code) ps :=
  h.step hl fun _ h => h.modFunc.emit

/-! ### GeyserDesc: Access -/

theorem KeepsAllBut.setGy {g v} (h : KeepsAllBut s₀ s ps) (hl : [.geysers] ⊆ ps := by decide) :
    KeepsAllBut s₀ (s.setGy g v) ps :=
  h.past (s.keeps_setGy g v) hl

theorem KeepsAllBut.modGy {g f} (h : KeepsAllBut s₀ s ps) (hl : [.geysers] ⊆ ps := by decide) :
    KeepsAllBut s₀ (s.modGy g f) ps :=
  h.past (s.keeps_modGy g f) hl

theorem KeepsAllBut.setGySlot {g n v} (h : KeepsAllBut s₀ s ps) (hl : [.geysers] ⊆ ps := by decide) :
    KeepsAllBut s₀ (s.setGySlot g n v) ps :=
  h.past (s.keeps_setGySlot g n v) hl

theorem KeepsAllBut.modGySlot {g n f} (h : KeepsAllBut s₀ s ps) (hl : [.geysers] ⊆ ps := by decide) :
    KeepsAllBut s₀ (s.modGySlot g n f) ps :=
  h.step hl fun _ h => h.setGySlot

/-! ### GeyserRun: Samples (R314) -/

theorem KeepsAllBut.gyInput {g n v invalid time} (h : KeepsAllBut s₀ s ps) (hl : [.geysers] ⊆ ps := by decide) :
    KeepsAllBut s₀ (s.gyInput g n v invalid time) ps :=
  h.step hl fun _ h => .ite h (.ite h.setGySlot h.setGySlot.modGy)

theorem KeepsAllBut.linkSample {link lane fmt v valid time} (h : KeepsAllBut s₀ s ps)
    (hl : [.geysers] ⊆ ps := by decide) :
    KeepsAllBut s₀ (s.linkSample link lane fmt v valid time) ps :=
  h.step hl fun _ h => h.fold fun _ _ h => h.gyInput

/-! ### GeyserRun: Completion buffer (R325) -/

theorem KeepsAllBut.gyStreamPost {g n code} (h : KeepsAllBut s₀ s ps) (hl : [.geysers] ⊆ ps := by decide) :
    KeepsAllBut s₀ (s.gyStreamPost g n code) ps := by
  refine h.step hl fun _ h => ?_
  unfold State.gyStreamPost
  split
  next e => exact (h.fresh.snd e).setGySlot.modGy

theorem KeepsAllBut.gyComplete {g c status value} (h : KeepsAllBut s₀ s ps) (hl : [.geysers] ⊆ ps := by decide) :
    KeepsAllBut s₀ (s.gyComplete g c status value) ps := by
  refine h.step hl fun _ h => ?_
  simp only [State.gyComplete]
  refine KeepsAllBut.modGy ?_
  split
  · exact h
  · exact h.fresh

/-! ### GeyserRun: Outputs (R322 to R326) -/

theorem KeepsAllBut.recordDone {g n j prod arr lost failed delivered} (h : KeepsAllBut s₀ s ps)
    (hl : [.geysers] ⊆ ps := by decide) :
    KeepsAllBut s₀ (s.recordDone g n j prod arr lost failed delivered) ps := by
  refine h.step hl fun _ h => ?_
  unfold State.recordDone
  extract_lets y d late y1 o o1 s1
  have h1 : KeepsAllBut _ s1 _ := h.setGySlot
  refine .ite h1 ?_
  split
  next value s2 e2 =>
  have h2 : KeepsAllBut _ s2 _ := KeepsAllBut.snd (.iteSnd h1 (.iteSnd (by exact h1.fresh) h1)) e2
  exact .ite h2.setGy.modGySlot h2.setGy

theorem KeepsAllBut.agentCells {a l} (h : KeepsAllBut s₀ s ps) (hl : Part.hbm ⊆ ps := by decide) :
    KeepsAllBut s₀ (s.agentCells a l) ps :=
  h.step hl fun _ h => h.agentPut

theorem KeepsAllBut.ringWrite {g n j x lateRec} (h : KeepsAllBut s₀ s ps)
    (hl : .geysers :: Part.hbm ⊆ ps := by decide) :
    KeepsAllBut s₀ (s.ringWrite g n j x lateRec) ps :=
  h.step hl fun _ h => .ite h.recordDone h.agentCells.agentWrite.recordDone

theorem KeepsAllBut.ringRecord {g n j x} (h : KeepsAllBut s₀ s ps) (hl : .geysers :: Part.hbm ⊆ ps := by decide) :
    KeepsAllBut s₀ (s.ringRecord g n j x) ps := by
  refine h.step hl fun _ h => .ite h.modGySlot (.ite h.recordDone ?_)
  split
  next e₁ =>
  split
  next e₂ =>
  have h₂ := (h.agentRead.snd e₁).agentRead.snd e₂
  exact .ite h₂.ringWrite (.ite h₂.ringWrite (.ite h₂.recordDone h₂.modGySlot))

theorem KeepsAllBut.linkQueue {link lane fmt bits time} (h : KeepsAllBut s₀ s ps) (hl : [.links] ⊆ ps := by decide) :
    KeepsAllBut s₀ (s.linkQueue link lane fmt bits time) ps :=
  h.step hl fun _ h => .ite h h.withLinks

theorem KeepsAllBut.gyOutput {g n j x} (h : KeepsAllBut s₀ s ps)
    (hl : .geysers :: .links :: Part.hbm ⊆ ps := by decide) :
    KeepsAllBut s₀ (s.gyOutput g n j x) ps :=
  h.step hl fun _ h => .ite h.ringRecord (.ite h.recordDone
    (.ite (h.fold fun _ _ h => h.linkQueue.modGySlot).recordDone h.modGySlot))

theorem KeepsAllBut.zeroSome {g n sel} (h : KeepsAllBut s₀ s ps) (hl : [.links, .time] ⊆ ps := by decide) :
    KeepsAllBut s₀ (s.zeroSome g n sel) ps :=
  h.step hl fun _ h => h.fold fun _ _ h => .ite h.stampRead.linkQueue h

theorem KeepsAllBut.zeroLinks {g n} (h : KeepsAllBut s₀ s ps) (hl : [.links, .time] ⊆ ps := by decide) :
    KeepsAllBut s₀ (s.zeroLinks g n) ps :=
  h.step hl fun _ h => h.zeroSome

theorem KeepsAllBut.zeroDrives {g n} (h : KeepsAllBut s₀ s ps) (hl : [.links, .time] ⊆ ps := by decide) :
    KeepsAllBut s₀ (s.zeroDrives g n) ps :=
  h.step hl fun _ h => h.zeroSome

/-! ### GeyserRun: Ramps and aborts (R334, R335) -/

theorem KeepsAllBut.finishRamp {g n e} (h : KeepsAllBut s₀ s ps) (hl : [.geysers, .links, .time] ⊆ ps := by decide) :
    KeepsAllBut s₀ (s.finishRamp g n e) ps := by
  refine h.step hl fun _ h => ?_
  simp only [State.finishRamp]
  split
  · exact h.modGySlot.zeroLinks
  · exact h.modGySlot.zeroDrives.gyComplete
  · exact h.modGySlot.zeroDrives.modGySlot.gyComplete

theorem KeepsAllBut.ltrUpdate (h : KeepsAllBut s₀ s ps) (hl : [.host, .output] ⊆ ps := by decide) :
    KeepsAllBut s₀ s.ltrUpdate ps :=
  h.step hl fun _ h => h.fold fun _ _ h => .ite h.modCfg.emit h

theorem KeepsAllBut.gyAbort {g n code} (h : KeepsAllBut s₀ s ps) (hl : Part.stop ⊆ ps := by decide) :
    KeepsAllBut s₀ (s.gyAbort g n code) ps := by
  refine h.step hl fun _ h => ?_
  simp only [State.gyAbort]
  split
  · exact h.setGySlot.gyStreamPost.ltrUpdate.modGySlot
  · exact .ite h.setGySlot.gyStreamPost.ltrUpdate.modGySlot h.setGySlot.gyStreamPost.ltrUpdate.zeroLinks

theorem KeepsAllBut.gyEmergencyOne {g n} (h : KeepsAllBut s₀ s ps) (hl : [.geysers, .links, .time] ⊆ ps := by decide) :
    KeepsAllBut s₀ (s.gyEmergencyOne g n) ps := by
  refine h.step hl fun _ h => ?_
  simp only [State.gyEmergencyOne]
  split
  · exact h
  split
  · exact (KeepsAllBut.ite h.setGySlot.gyStreamPost h).finishRamp
  · exact .ite h.setGySlot.gyStreamPost h

theorem KeepsAllBut.gyEmergency (h : KeepsAllBut s₀ s ps) (hl : Part.stop ⊆ ps := by decide) :
    KeepsAllBut s₀ s.gyEmergency ps :=
  h.step hl fun _ h => (h.fold fun _ _ h => .ite h.gyEmergencyOne.zeroLinks h.gyEmergencyOne).ltrUpdate

/-! ### GeyserRun: Stages (R328) -/

theorem KeepsAllBut.setStage {g n i st} (h : KeepsAllBut s₀ s ps) (hl : [.geysers] ⊆ ps := by decide) :
    KeepsAllBut s₀ (s.setStage g n i st) ps :=
  h.step hl fun _ h => h.modGySlot

theorem KeepsAllBut.measure {g n i x} (h : KeepsAllBut s₀ s ps) (hl : [.geysers] ⊆ ps := by decide) :
    KeepsAllBut s₀ (s.measure g n i x).1 ps := by
  refine h.step hl fun _ h => KeepsAllBut.foldFst h fun p _ h => ?_
  obtain ⟨t, ab⟩ := p
  dsimp only at h ⊢
  split
  · dsimp only
    exact h.setStage.modGySlot
  · exact h

theorem KeepsAllBut.gyDeliver {g n i x} (h : KeepsAllBut s₀ s ps)
    (hl : .geysers :: .links :: Part.hbm ⊆ ps := by decide) :
    KeepsAllBut s₀ (s.gyDeliver g n i x).1 ps :=
  h.step hl fun _ h => (((h.fold fun _ _ h => KeepsAllBut.ite h.setStage h).measure).fold fun _ _ h =>
    KeepsAllBut.ite h.gyInput h).fold fun _ _ h => .ite h.gyOutput h

theorem KeepsAllBut.gyResult {g n i r time arr} (h : KeepsAllBut s₀ s ps) (hl : Part.stream ⊆ ps := by decide) :
    KeepsAllBut s₀ (s.gyResult g n i r time arr) ps := by
  refine h.step hl fun _ h => ?_
  unfold State.gyResult
  extract_lets y s1 ramped flushed s2 recs
  have h2 : KeepsAllBut _ s2 _ := h.setStage.modGySlot.modGy
  split
  next s3 ab e =>
  have h3 : KeepsAllBut _ s3 _ := .fst (KeepsAllBut.foldFst h2 fun _ _ h => by exact h.gyDeliver) e
  extract_lets s4
  have h4 : KeepsAllBut _ s4 _ := h3.fold fun _ _ h => h.gyStreamPost
  split
  · exact .ite h4.gyAbort h4
  · exact h4

theorem KeepsAllBut.stageRun {g n i x} (h : KeepsAllBut s₀ s ps) (hl : Part.stream ⊆ ps := by decide) :
    KeepsAllBut s₀ (s.stageRun g n i x) ps := by
  refine h.step hl fun _ h => ?_
  simp only [State.stageRun]
  split
  · exact h.setGySlot.setStage.gyResult
  · exact h.setGySlot.setStage.stampRead.gyResult

theorem KeepsAllBut.stageValue {g n i} (h : KeepsAllBut s₀ s ps) (hl : Part.stream ⊆ ps := by decide) :
    KeepsAllBut s₀ (s.stageValue g n i) ps := by
  refine h.step hl fun _ h => ?_
  unfold State.stageValue
  refine .ite h (.ite ?_ (.ite (.ite h.stageRun h.stampRead.gyDeliver) h))
  split
  · refine .ite h (.ite h.stageRun ?_)
    split
    · exact h.stageRun
    · exact h
  · exact .ite h.stageRun h

theorem KeepsAllBut.ringRecheck {g n j} (h : KeepsAllBut s₀ s ps) (hl : .geysers :: Part.hbm ⊆ ps := by decide) :
    KeepsAllBut s₀ (s.ringRecheck g n j) ps :=
  h.step hl fun _ h => .ite h (h.setGySlot.fold fun _ _ h => h.ringRecord)

theorem KeepsAllBut.dmaRecord {g n j cons} (h : KeepsAllBut s₀ s ps)
    (hl : [.geysers, .host, .output] ⊆ ps := by decide) :
    KeepsAllBut s₀ (s.dmaRecord g n j cons) ps := by
  refine h.step hl fun r h => ?_
  unfold State.dmaRecord
  extract_lets y d o base idx c f
  split
  · exact h
  extract_lets s1 done cells s2 p s3 write
  have h1 : KeepsAllBut _ s1 _ := h.setGySlot
  have hdone : ∀ {t prod lost failed delivered}, KeepsAllBut r t [.geysers, .host, .output] →
      KeepsAllBut r (done t prod lost failed delivered) [.geysers, .host, .output] :=
    fun h => .ite h.recordDone.signal h.recordDone
  have hwrite : ∀ late, KeepsAllBut _ (write late) _ := fun _ => hdone h1.emit.emit.modGySlot
  refine .ite h ?_
  split
  · exact hdone h1
  · exact .ite (hdone h1) (.ite (hwrite _) (.ite (hwrite _) (.ite (hdone h1) h)))

theorem KeepsAllBut.sourceTimeout {g n} (h : KeepsAllBut s₀ s ps) (hl : Part.stop ⊆ ps := by decide) :
    KeepsAllBut s₀ (s.sourceTimeout g n) ps :=
  h.step hl fun _ h => .ite h.gyAbort h

/-! ### GeyserCmd: LOAD (R304, R311, R312) -/

theorem KeepsAllBut.gyMeshFail {g c pa} (h : KeepsAllBut s₀ s ps)
    (hl : [.collector, .geysers, .dependability] ⊆ ps := by decide) :
    KeepsAllBut s₀ (s.gyMeshFail g c pa) ps :=
  h.step hl fun _ h => h.meshLost.gyComplete

theorem KeepsAllBut.gyLoadCmd {g c mesh} (h : KeepsAllBut s₀ s ps)
    (hl : [.caches, .cores, .collector, .geysers, .power, .dependability] ⊆ ps := by decide) :
    KeepsAllBut s₀ (s.gyLoadCmd g c mesh) ps := by
  refine h.step hl fun _ h => ?_
  unfold State.gyLoadCmd
  split
  · exact h.gyMeshFail
  · exact h.gyComplete
  · exact h.setGySlot.agentBytes.gyComplete

/-! ### GeyserCmd: RUN and CLEAR (R301, R316, R327, R333) -/

theorem KeepsAllBut.seedStages {g n} (h : KeepsAllBut s₀ s ps) (hl : [.geysers] ⊆ ps := by decide) :
    KeepsAllBut s₀ (s.seedStages g n) ps :=
  h.step hl fun _ h => h.fold fun _ _ h => .ite h.setStage h

theorem KeepsAllBut.gyRunCmd {g c} (h : KeepsAllBut s₀ s ps) (hl : [.geysers] ⊆ ps := by decide) :
    KeepsAllBut s₀ (s.gyRunCmd g c) ps :=
  h.step hl fun _ h => .ite h.gyComplete (.ite h.gyComplete h.setGySlot.seedStages.gyComplete)

theorem KeepsAllBut.gyClearCmd {g c} (h : KeepsAllBut s₀ s ps) (hl : [.geysers] ⊆ ps := by decide) :
    KeepsAllBut s₀ (s.gyClearCmd g c) ps :=
  h.step hl fun _ h => h.setGySlot.modGy.seedStages.gyComplete

/-! ### GeyserCmd: PAUSE and STOP (R303, R334) -/

theorem KeepsAllBut.gyEndCmd {g c e st} (h : KeepsAllBut s₀ s ps) (hl : [.geysers, .links, .time] ⊆ ps := by decide) :
    KeepsAllBut s₀ (s.gyEndCmd g c e st) ps :=
  h.step hl fun _ h => .ite h.setGySlot.modGySlot h.setGySlot.finishRamp

/-! ### GeyserCmd: RELOAD and TRIG (R308, R332) -/

theorem KeepsAllBut.gyReloadCmd {g c} (h : KeepsAllBut s₀ s ps) (hl : [.geysers] ⊆ ps := by decide) :
    KeepsAllBut s₀ (s.gyReloadCmd g c) ps :=
  h.step hl fun _ h => .ite h.gyComplete h.setStage.gyComplete

theorem KeepsAllBut.gyTrigCmd {g c} (h : KeepsAllBut s₀ s ps) (hl : [.geysers] ⊆ ps := by decide) :
    KeepsAllBut s₀ (s.gyTrigCmd g c) ps :=
  h.step hl fun _ h => .ite h.gyComplete h.setStage.gyComplete

/-! ### GeyserCmd: LOADSM and READSM (R301) -/

theorem KeepsAllBut.readUnits {g pk u a n} (h : KeepsAllBut s₀ s ps) (hl : Part.hbm ⊆ ps := by decide) :
    KeepsAllBut s₀ (s.readUnits g pk u a n) ps := by
  induction n generalizing s u a with
  | zero => exact h
  | succ n ih => exact .ite (ih ((h.agentPut hl).agentPut hl)) (ih (h.agentPut hl))

theorem KeepsAllBut.gySmCmd {g c read mesh} (h : KeepsAllBut s₀ s ps)
    (hl : .collector :: .geysers :: .dependability :: Part.hbm ⊆ ps := by decide) :
    KeepsAllBut s₀ (s.gySmCmd g c read mesh) ps := by
  refine h.step hl fun _ h => ?_
  unfold State.gySmCmd
  refine .ite h.gyMeshFail (.ite h.gyComplete ?_)
  have h1 := h.agentRead (pa := c.pay)
  refine .ite h1.gyComplete (.ite h1.gyComplete (.ite h1.gyComplete (.ite h1.gyComplete ?_)))
  refine .ite (.ite h1.gyComplete h1.readUnits.gyComplete) ?_
  exact .ite h1.gyComplete h1.agentBytes.modGy.gyComplete

/-! ### GeyserCmd: Commands in order (R300, R302, R303) -/

theorem KeepsAllBut.gyExec {g c mesh} (h : KeepsAllBut s₀ s ps)
    (hl : .collector :: .geysers :: .links :: .time :: .dependability :: Part.hbm ⊆ ps := by decide) :
    KeepsAllBut s₀ (s.gyExec g c mesh) ps := by
  refine h.step hl fun _ h => ?_
  unfold State.gyExec
  refine .ite h.gyComplete (.ite h.gyComplete (.ite h.gySmCmd (.ite h.gySmCmd ?_)))
  refine .ite h.gyComplete (.ite h.gyComplete (.ite h.gyComplete ?_))
  refine .ite h.gyLoadCmd (.ite h.gyRunCmd (.ite h.gyEndCmd (.ite h.gyEndCmd ?_)))
  exact .ite h.gyReloadCmd (.ite h.gyClearCmd h.gyTrigCmd)

theorem KeepsAllBut.gyPower {g} (h : KeepsAllBut s₀ s ps) (hl : [.power] ⊆ ps := by decide) :
    KeepsAllBut s₀ (s.gyPower g) ps :=
  h.step hl fun _ h => h.setDomain.pllsAfter

theorem KeepsAllBut.gyTake {g l kept} (h : KeepsAllBut s₀ s ps) (hl : Part.geyser ⊆ ps := by decide) :
    KeepsAllBut s₀ (s.gyTake g l kept) ps := by
  refine h.step hl fun _ k => ?_
  clear h
  induction l generalizing s kept with
  | nil => exact k.modGy.gyPower.ltrUpdate
  | cons c l ih => exact .ite (ih k) (ih k.gyExec)

theorem KeepsAllBut.gyDrain {g} (h : KeepsAllBut s₀ s ps) (hl : Part.geyser ⊆ ps := by decide) :
    KeepsAllBut s₀ (s.gyDrain g) ps :=
  h.step hl fun _ h => h.gyTake

theorem KeepsAllBut.gyWrite {g c mesh} (h : KeepsAllBut s₀ s ps) (hl : Part.geyser ⊆ ps := by decide) :
    KeepsAllBut s₀ (s.gyWrite g c mesh) ps :=
  h.step hl fun _ h => .ite h (.ite h.setGy (.ite h.setGy h.setGy.gyDrain))

theorem KeepsAllBut.rampEnd {g n} (h : KeepsAllBut s₀ s ps) (hl : Part.geyser ⊆ ps := by decide) :
    KeepsAllBut s₀ (s.rampEnd g n) ps := by
  refine h.step hl fun _ h => ?_
  simp only [State.rampEnd]
  split
  · exact .ite h.finishRamp.gyDrain h
  · exact h

/-! ### Links: Access -/

theorem KeepsAllBut.setLink {n l} (h : KeepsAllBut s₀ s ps) (hl : [.links] ⊆ ps := by decide) :
    KeepsAllBut s₀ (s.setLink n l) ps :=
  h.past (s.keeps_setLink n l) hl

/-! ### Links: Events (R352) -/

theorem KeepsAllBut.linkKick {n} (h : KeepsAllBut s₀ s ps) (hl : [.links] ⊆ ps := by decide) :
    KeepsAllBut s₀ (s.linkKick n) ps :=
  h.step hl fun _ h => .ite h.setLink h

theorem KeepsAllBut.linkFall {n} (h : KeepsAllBut s₀ s ps) (hl : [.links] ⊆ ps := by decide) :
    KeepsAllBut s₀ (s.linkFall n) ps :=
  h.step hl fun _ h => h.setLink.linkKick

theorem KeepsAllBut.kickLinks (h : KeepsAllBut s₀ s ps) (hl : [.links] ⊆ ps := by decide) :
    KeepsAllBut s₀ s.kickLinks ps :=
  h.step hl fun _ h => h.fold fun _ _ h => h.linkKick

theorem KeepsAllBut.linksDown (h : KeepsAllBut s₀ s ps) (hl : [.links] ⊆ ps := by decide) :
    KeepsAllBut s₀ s.linksDown ps :=
  h.step hl fun _ h => h.fold fun _ _ h => .ite h h.linkFall

theorem KeepsAllBut.jtagReset (h : KeepsAllBut s₀ s ps) (hl : [.debug] ⊆ ps := by decide) :
    KeepsAllBut s₀ s.jtagReset ps :=
  h.step hl fun _ h => h.withDebug

theorem KeepsAllBut.ioWatch (h : KeepsAllBut s₀ s ps) (hl : [.links, .debug] ⊆ ps := by decide) :
    KeepsAllBut s₀ s.ioWatch ps :=
  h.step hl fun _ h => have h1 := KeepsAllBut.ite h h.jtagReset
    .ite h1.kickLinks h1.linksDown

/-! ### Links: Frames (R340 to R344) -/

theorem KeepsAllBut.linkSend {n type valid first cnt fmt payload time} (h : KeepsAllBut s₀ s ps)
    (hl : [.links, .output] ⊆ ps := by decide) :
    KeepsAllBut s₀ (s.linkSend n type valid first cnt fmt payload time) ps :=
  h.step hl fun _ h => h.setLink.emit

theorem KeepsAllBut.ctrlSend {n} (h : KeepsAllBut s₀ s ps) (hl : [.links, .output] ⊆ ps := by decide) :
    KeepsAllBut s₀ (s.ctrlSend n) ps := by
  refine h.step hl fun _ h => ?_
  simp only [State.ctrlSend]
  split
  · exact .ite h.setLink.linkSend h
  · exact h

/-! ### Links: Sending -/

theorem KeepsAllBut.trainSend {n} (h : KeepsAllBut s₀ s ps) (hl : [.links, .output] ⊆ ps := by decide) :
    KeepsAllBut s₀ (s.trainSend n) ps :=
  h.step hl fun _ h => .ite h h.stampError.setLink.emit

theorem KeepsAllBut.samplesSend {n} (h : KeepsAllBut s₀ s ps) (hl : [.links, .output] ⊆ ps := by decide) :
    KeepsAllBut s₀ (s.samplesSend n) ps := by
  refine h.step hl fun _ h => ?_
  simp only [State.samplesSend]
  split
  · exact h
  · exact .ite h h.setLink.linkSend

theorem KeepsAllBut.timeSend {n} (h : KeepsAllBut s₀ s ps) (hl : [.links, .output] ⊆ ps := by decide) :
    KeepsAllBut s₀ (s.timeSend n) ps :=
  h.step hl fun _ h => .ite h h.stamp.setLink.linkSend

theorem KeepsAllBut.creditIn {n k} (h : KeepsAllBut s₀ s ps) (hl : [.links, .output] ⊆ ps := by decide) :
    KeepsAllBut s₀ (s.creditIn n k) ps :=
  h.step hl fun _ h => .ite h h.setLink.ctrlSend

/-! ### Links: Receiving (R350) -/

theorem KeepsAllBut.creditOut {n} (h : KeepsAllBut s₀ s ps) (hl : [.links, .output] ⊆ ps := by decide) :
    KeepsAllBut s₀ (s.creditOut n) ps :=
  h.step hl fun _ h => .ite h (.ite h.fresh h.fresh.setLink.emit)

theorem KeepsAllBut.takeSamples {n fmt valid time k lane b} (h : KeepsAllBut s₀ s ps)
    (hl : [.geysers] ⊆ ps := by decide) :
    KeepsAllBut s₀ (s.takeSamples n fmt valid time k lane b) ps := by
  induction k generalizing s valid lane b with
  | zero => exact h
  | succ k ih => exact ih (h.linkSample hl)

theorem KeepsAllBut.samplesIn {n b} (h : KeepsAllBut s₀ s ps) (hl : [.geysers, .journal] ⊆ ps := by decide) :
    KeepsAllBut s₀ (s.samplesIn n b) ps := by
  refine h.step hl fun _ h => ?_
  simp only [State.samplesIn]
  refine KeepsAllBut.takeSamples ?_
  refine KeepsAllBut.ringFrame ?_
  split
  · exact h
  · exact h.stamp

theorem KeepsAllBut.trainIn {n b} (h : KeepsAllBut s₀ s ps) (hl : [.links] ⊆ ps := by decide) :
    KeepsAllBut s₀ (s.trainIn n b) ps := by
  refine h.step hl fun _ h => ?_
  unfold State.trainIn
  extract_lets l p byte vmax l1
  refine .ite h.setLink (.ite ?_ h.setLink)
  refine .ite h.setLink ?_
  split
  next s0 e0 =>
  have h0 : KeepsAllBut _ s0 _ := h.stampError.snd e0
  extract_lets t4 x
  split
  next s1 e1 =>
  have h1 : KeepsAllBut _ s1 _ := KeepsAllBut.snd (.iteSnd h (.iteSnd (by exact h0) (by exact h0.fresh))) e1
  exact h1.setLink

theorem KeepsAllBut.ctrlIn {n b} (h : KeepsAllBut s₀ s ps) (hl : [.links] ⊆ ps := by decide) :
    KeepsAllBut s₀ (s.ctrlIn n b) ps := by
  refine h.step hl fun _ h => ?_
  simp only [State.ctrlIn]
  split
  · exact h.setLink
  · exact h

theorem KeepsAllBut.statIn {n b} (h : KeepsAllBut s₀ s ps) (hl : [.links] ⊆ ps := by decide) :
    KeepsAllBut s₀ (s.statIn n b) ps :=
  h.step hl fun _ h => h.setLink

theorem KeepsAllBut.linkReceive {n fr} (h : KeepsAllBut s₀ s ps)
    (hl : [.geysers, .links, .journal, .output] ⊆ ps := by decide) :
    KeepsAllBut s₀ (s.linkReceive n fr) ps := by
  refine h.step hl fun _ h => ?_
  unfold State.linkReceive
  extract_lets l b type reject seq gap s1 s2
  have hreject : ∀ l, KeepsAllBut _ (reject l) _ := fun _ => h.setLink.creditOut
  have h2 : KeepsAllBut _ s2 _ := .ite h.setLink.samplesIn (.ite h.setLink.ctrlIn h.setLink.statIn)
  refine .ite h (.ite (hreject _) (.ite (hreject _) (.ite (hreject _) ?_)))
  exact .ite h.trainIn (.ite h (.ite h.setLink h2.creditOut))

/-! ### Links: Timers and losses -/

theorem KeepsAllBut.linkLoss {n c} (h : KeepsAllBut s₀ s ps) (hl : [.links] ⊆ ps := by decide) :
    KeepsAllBut s₀ (s.linkLoss n c) ps := by
  refine h.step hl fun _ h => ?_
  simp only [State.linkLoss]
  split
  · exact h
  split
  · exact .ite h.setLink.linkFall h.setLink
  · exact h.linkFall

theorem KeepsAllBut.trainTimeout {n} (h : KeepsAllBut s₀ s ps) (hl : [.links] ⊆ ps := by decide) :
    KeepsAllBut s₀ (s.trainTimeout n) ps :=
  h.step hl fun _ h => .ite h.linkFall h

theorem KeepsAllBut.noverRetrain {n} (h : KeepsAllBut s₀ s ps) (hl : [.links] ⊆ ps := by decide) :
    KeepsAllBut s₀ (s.noverRetrain n) ps :=
  h.step hl fun _ h => .ite h.setLink h

theorem KeepsAllBut.aligned {n} (h : KeepsAllBut s₀ s ps) (hl : [.links] ⊆ ps := by decide) :
    KeepsAllBut s₀ (s.aligned n) ps :=
  h.step hl fun _ h => .ite h.setLink h

theorem KeepsAllBut.ctrlTimeout {n} (h : KeepsAllBut s₀ s ps) (hl : [.links] ⊆ ps := by decide) :
    KeepsAllBut s₀ (s.ctrlTimeout n) ps := by
  refine h.step hl fun _ h => ?_
  simp only [State.ctrlTimeout]
  split
  · exact .ite h.setLink h
  · exact h

/-! ### Links: Registers (R354, R356) -/

theorem KeepsAllBut.stepGtc {v} (h : KeepsAllBut s₀ s ps) (hl : [.time] ⊆ ps := by decide) :
    KeepsAllBut s₀ (s.stepGtc v) ps :=
  h.step hl fun _ h => .ite h h.withTime

/-! ### Links: IEEE 1588 (R360, R361) -/

theorem KeepsAllBut.modTime {f} (h : KeepsAllBut s₀ s ps) (hl : [.time] ⊆ ps := by decide) :
    KeepsAllBut s₀ (s.modTime f) ps :=
  h.past (s.keeps_modTime f) hl

theorem KeepsAllBut.servo {o} (h : KeepsAllBut s₀ s ps) (hl : [.time] ⊆ ps := by decide) :
    KeepsAllBut s₀ (s.servo o) ps :=
  h.step hl fun _ h => .ite h.modTime.modTime (.ite h.modTime.fresh.modTime.stepGtc h.modTime.fresh.modTime)

theorem KeepsAllBut.syncDone {port t1 t2} (h : KeepsAllBut s₀ s ps) (hl : [.time, .output] ⊆ ps := by decide) :
    KeepsAllBut s₀ (s.syncDone port t1 t2) ps :=
  h.step hl fun _ h => h.servo.stamp.modTime.emit

theorem KeepsAllBut.ptpSync {port m} (h : KeepsAllBut s₀ s ps) (hl : [.time, .output] ⊆ ps := by decide) :
    KeepsAllBut s₀ (s.ptpSync port m) ps :=
  h.step hl fun _ h => .ite h (.ite h.stamp.modTime h.stamp.syncDone)

theorem KeepsAllBut.ptpGeneral {port x} (h : KeepsAllBut s₀ s ps) (hl : [.time, .output] ⊆ ps := by decide) :
    KeepsAllBut s₀ (s.ptpGeneral port x) ps := by
  refine h.step hl fun _ h => ?_
  unfold State.ptpGeneral
  split
  · split
    · exact h
    split
    · exact .ite h.modTime (.ite h.modTime h)
    · exact h.modTime
  · split
    · exact h
    split
    · exact .ite h.syncDone h
    · exact h
  split
  · exact h
  split
  · exact .ite h.modTime h
  · exact h

theorem KeepsAllBut.ptpConfig (h : KeepsAllBut s₀ s ps) (hl : [.time] ⊆ ps := by decide) :
    KeepsAllBut s₀ s.ptpConfig ps :=
  h.step hl fun _ h => h.modTime

theorem KeepsAllBut.ptpExpire (h : KeepsAllBut s₀ s ps) (hl : [.time] ⊆ ps := by decide) :
    KeepsAllBut s₀ s.ptpExpire ps :=
  h.step hl fun _ h => .ite h.ptpConfig h

theorem KeepsAllBut.linksDrain (h : KeepsAllBut s₀ s ps) (hl : [.links, .output] ⊆ ps := by decide) :
    KeepsAllBut s₀ s.linksDrain ps :=
  h.step hl fun _ h => h.fold fun _ _ h => h.creditOut

/-! ### Panel -/

theorem KeepsAllBut.modPanel {f} (h : KeepsAllBut s₀ s ps) (hl : [.panel] ⊆ ps := by decide) :
    KeepsAllBut s₀ (s.modPanel f) ps :=
  h.past (s.keeps_modPanel f) hl

theorem KeepsAllBut.setPanelInput {g i x} (h : KeepsAllBut s₀ s ps) (hl : [.panel] ⊆ ps := by decide) :
    KeepsAllBut s₀ (s.setPanelInput g i x) ps :=
  h.past (s.keeps_setPanelInput g i x) hl

/-! ### Panel: Events (R441 to R443) -/

theorem KeepsAllBut.eventIn {w time} (h : KeepsAllBut s₀ s ps) (hl : [.panel, .power] ⊆ ps := by decide) :
    KeepsAllBut s₀ (s.eventIn w time) ps :=
  h.step hl fun _ h => .ite h.modPanel.wakeTo h.modPanel

theorem KeepsAllBut.panelEvent {code group input st count time} (h : KeepsAllBut s₀ s ps)
    (hl : [.panel, .power] ⊆ ps := by decide) :
    KeepsAllBut s₀ (s.panelEvent code group input st count time) ps :=
  h.step hl fun _ h => .ite h.eventIn (.ite h.modPanel h.eventIn)

/-! ### Panel: Scans (R435 to R440) -/

theorem KeepsAllBut.addGlitch {g} (h : KeepsAllBut s₀ s ps) (hl : [.panel] ⊆ ps := by decide) :
    KeepsAllBut s₀ (s.addGlitch g) ps :=
  h.step hl fun _ h => h.modPanel

theorem KeepsAllBut.acceptChange {g i r time} (h : KeepsAllBut s₀ s ps) (hl : [.panel, .power] ⊆ ps := by decide) :
    KeepsAllBut s₀ (s.acceptChange g i r time) ps :=
  h.step hl fun _ h => .ite h.setPanelInput.panelEvent (.ite h.setPanelInput.panelEvent
    (.ite h.setPanelInput.panelEvent h.setPanelInput))

theorem KeepsAllBut.holdInput {g i time} (h : KeepsAllBut s₀ s ps) (hl : [.panel, .power] ⊆ ps := by decide) :
    KeepsAllBut s₀ (s.holdInput g i time) ps :=
  h.step hl fun _ h => .ite h.setPanelInput.panelEvent h.setPanelInput

theorem KeepsAllBut.windowEnd {g i time} (h : KeepsAllBut s₀ s ps) (hl : [.panel, .power] ⊆ ps := by decide) :
    KeepsAllBut s₀ (s.windowEnd g i time) ps :=
  h.step hl fun _ h => have h1 := h.setPanelInput
    .ite h1 (.ite h1.panelEvent h1.panelEvent)

theorem KeepsAllBut.scanInput {g i r latch last time} (h : KeepsAllBut s₀ s ps)
    (hl : [.panel, .power] ⊆ ps := by decide) :
    KeepsAllBut s₀ (s.scanInput g i r latch last time) ps :=
  h.step hl fun _ h => have h2 := (KeepsAllBut.ite h.addGlitch h).setPanelInput
    have h3 := KeepsAllBut.ite h2.acceptChange (.ite h2.holdInput h2)
    .ite h3.windowEnd h3

theorem KeepsAllBut.keyToDict (h : KeepsAllBut s₀ s ps) (hl : [.dictionary] ⊆ ps := by decide) :
    KeepsAllBut s₀ s.keyToDict ps :=
  h.step hl fun _ h => h.withDictionary

theorem KeepsAllBut.panelScan {p} (h : KeepsAllBut s₀ s ps) (hl : [.dictionary, .panel, .power] ⊆ ps := by decide) :
    KeepsAllBut s₀ (s.panelScan p) ps :=
  h.step hl fun _ h => (h.fold fun _ _ h => h.fold fun _ _ h => h.scanInput).modPanel.keyToDict

theorem KeepsAllBut.acceptedChange {g i} (h : KeepsAllBut s₀ s ps)
    (hl : [.dictionary, .panel, .power] ⊆ ps := by decide) :
    KeepsAllBut s₀ (s.acceptedChange g i) ps :=
  h.step hl fun _ h => .ite h.setPanelInput.acceptChange.keyToDict h

theorem KeepsAllBut.stuckSet {g i} (h : KeepsAllBut s₀ s ps) (hl : [.dictionary, .panel, .power] ⊆ ps := by decide) :
    KeepsAllBut s₀ (s.stuckSet g i) ps :=
  h.step hl fun _ h => .ite h.holdInput.keyToDict h

theorem KeepsAllBut.groupWindowEnd {g} (h : KeepsAllBut s₀ s ps) (hl : [.panel, .power] ⊆ ps := by decide) :
    KeepsAllBut s₀ (s.groupWindowEnd g) ps :=
  h.step hl fun _ h => .ite (h.fold fun _ _ h => h.windowEnd) h

/-! ### Panel: Emergency stop (R444 to R448) -/

theorem KeepsAllBut.estopForce {channel} (h : KeepsAllBut s₀ s ps)
    (hl : .panel :: .power :: .debug :: Part.stop ⊆ ps := by decide) :
    KeepsAllBut s₀ (s.estopForce channel) ps :=
  h.step hl fun _ h => .ite h h.modPanel.panelEvent.gyEmergency.ioWatch

theorem KeepsAllBut.estopSample {aHigh bHigh aPulse bPulse} (h : KeepsAllBut s₀ s ps)
    (hl : .panel :: .power :: .debug :: Part.stop ⊆ ps := by decide) :
    KeepsAllBut s₀ (s.estopSample aHigh bHigh aPulse bPulse) ps :=
  h.step hl fun _ h => have h1 := KeepsAllBut.ite h.addGlitch h
    have h2 := KeepsAllBut.ite h1.addGlitch h1
    .ite h2.modPanel.estopForce (.ite h2.modPanel.estopForce h2.modPanel)

theorem KeepsAllBut.discrepancy (h : KeepsAllBut s₀ s ps)
    (hl : [.collector, .panel, .power, .dependability] ⊆ ps := by decide) :
    KeepsAllBut s₀ s.discrepancy ps :=
  h.step hl fun _ h => .ite h.modPanel.panelEvent.logErr h

/-! ### Retire -/

theorem KeepsAllBut.recordFault {n} (h : KeepsAllBut s₀ s ps) (hl : .channels :: .boot :: Part.swap ⊆ ps := by decide) :
    KeepsAllBut s₀ (s.recordFault n) ps :=
  h.step hl fun _ h => h.evictCtx.setRecs.sleepAs.post.logErr.fresh.notice

theorem KeepsAllBut.losePoison {g} (h : KeepsAllBut s₀ s ps) (hl : Part.store ⊆ ps := by decide) :
    KeepsAllBut s₀ (s.losePoison g) ps :=
  h.step hl fun _ h => h.recall.setPoison

theorem KeepsAllBut.hbmCorrected {g} (h : KeepsAllBut s₀ s ps)
    (hl : [.collector, .journal, .dictionary, .dependability] ⊆ ps := by decide) :
    KeepsAllBut s₀ (s.hbmCorrected g) ps :=
  h.step hl fun _ h => h.countUp.logCoalesced

theorem KeepsAllBut.hbmLost {g} (h : KeepsAllBut s₀ s ps) (hl : Part.ecc ⊆ ps := by decide) :
    KeepsAllBut s₀ (s.hbmLost g) ps :=
  h.step hl fun _ h => h.losePoison.countUp.logErr.modDep

theorem KeepsAllBut.modL2 {k f} (h : KeepsAllBut s₀ s ps) (hl : [.caches] ⊆ ps := by decide) :
    KeepsAllBut s₀ (s.modL2 k f) ps :=
  h.step hl fun _ h => h.withCaches

theorem KeepsAllBut.eccFound {k g ev} (h : KeepsAllBut s₀ s ps) (hl : Part.ecc ⊆ ps := by decide) :
    KeepsAllBut s₀ (s.eccFound k g ev) ps := by
  refine h.step hl fun _ h => ?_
  simp only [State.eccFound]
  split
  · exact h
  · exact h.modL2.logCoalesced
  · exact .ite h.l2Drop.modL2.logErr h
  · exact .ite h.modL2.losePoison.logErr h
  · exact h.hbmCorrected
  · exact h.hbmLost

theorem KeepsAllBut.eccAgent {g ev} (h : KeepsAllBut s₀ s ps) (hl : Part.ecc ⊆ ps := by decide) :
    KeepsAllBut s₀ (s.eccAgent g ev) ps := by
  refine h.step hl fun _ h => ?_
  unfold State.eccAgent
  split
  · exact h.eccFound
  · exact .ite h.eccFound h

theorem KeepsAllBut.eccIn {gs l} (h : KeepsAllBut s₀ s ps) (hl : Part.ecc ⊆ ps := by decide) :
    KeepsAllBut s₀ (s.eccIn gs l) ps :=
  h.step hl fun _ h => .ite h (h.fold fun _ _ h => h.eccAgent)

theorem KeepsAllBut.eccFinds {pa n l} (h : KeepsAllBut s₀ s ps) (hl : Part.ecc ⊆ ps := by decide) :
    KeepsAllBut s₀ (s.eccFinds pa n l) ps :=
  h.step hl fun _ h => .ite h h.eccIn

/-! ### PowerState: Conditions and selection (R458, R462, R463) -/

theorem KeepsAllBut.tolWake (h : KeepsAllBut s₀ s ps) (hl : [.power] ⊆ ps := by decide) :
    KeepsAllBut s₀ s.tolWake ps := by
  refine h.step hl fun _ h => ?_
  simp only [State.tolWake]
  split
  · exact h
  split
  · exact h.modPower
  split
  · exact .ite h h.modPower
  · exact h

theorem KeepsAllBut.evaluate (h : KeepsAllBut s₀ s ps) (hl : [.power] ⊆ ps := by decide) :
    KeepsAllBut s₀ s.evaluate ps :=
  h.step hl fun _ h => .ite h h.modPower.tolWake

/-! ### PowerState: Rails (R468 to R470) -/

theorem KeepsAllBut.lowerRails {f} (h : KeepsAllBut s₀ s ps) (hl : [.links, .power, .debug] ⊆ ps := by decide) :
    KeepsAllBut s₀ (s.lowerRails f) ps :=
  h.step hl fun _ h => h.modPower.ioWatch

theorem KeepsAllBut.seqGo {n k} (h : KeepsAllBut s₀ s ps) (hl : [.power] ⊆ ps := by decide) :
    KeepsAllBut s₀ (State.seqGo n k s) ps := by
  induction n generalizing s k with
  | zero => exact h.modPower hl
  | succ n ih => exact .ite (ih (h.modPower hl)) ((h.modPower hl).modPower hl)

theorem KeepsAllBut.sequenceUp (h : KeepsAllBut s₀ s ps) (hl : [.links, .power, .debug] ⊆ ps := by decide) :
    KeepsAllBut s₀ s.sequenceUp ps :=
  h.step hl fun _ h => .ite h h.modPower.seqGo.ioWatch

theorem KeepsAllBut.railGood {g} (h : KeepsAllBut s₀ s ps) (hl : [.links, .power, .debug] ⊆ ps := by decide) :
    KeepsAllBut s₀ (s.railGood g) ps := by
  refine h.step hl fun _ h => ?_
  simp only [State.railGood]
  split
  · exact .ite h.modPower.seqGo.ioWatch h.modPower.modPower
  · exact h.modPower

theorem KeepsAllBut.sequenceDown (h : KeepsAllBut s₀ s ps) (hl : [.links, .power, .debug] ⊆ ps := by decide) :
    KeepsAllBut s₀ s.sequenceDown ps :=
  h.step hl fun _ h => .ite h.lowerRails (.ite h.lowerRails (.ite h.lowerRails h))

/-! ### PowerState: Exit from PS4, PS3 and PS2 (R464) -/

theorem KeepsAllBut.ventRun {v} (h : KeepsAllBut s₀ s ps) (hl : [.cores, .registers, .contexts] ⊆ ps := by decide) :
    KeepsAllBut s₀ (s.ventRun v) ps :=
  h.step hl fun _ h => h.setCore.setAux.setRecField

/-! ### PowerState: Preparation of a wake (R466) -/

theorem KeepsAllBut.wakePrepare {n} (h : KeepsAllBut s₀ s ps)
    (hl : [.cores, .collector, .power, .dependability] ⊆ ps := by decide) :
    KeepsAllBut s₀ (s.wakePrepare n) ps := by
  refine h.step hl fun _ h => ?_
  unfold State.wakePrepare
  refine .ite h (.ite h.wakeTo ?_)
  split
  · exact h.ungate
  · exact h

/-! ### PowerState: Power fail and rail faults (R376, R470, R476) -/

theorem KeepsAllBut.commitErrors (h : KeepsAllBut s₀ s ps) (hl : [.journal, .dependability] ⊆ ps := by decide) :
    KeepsAllBut s₀ s.commitErrors ps :=
  h.step hl fun _ h => h.tuffWrite.modDep

/-! ### PowerState: Temperature (R473 to R475) -/

theorem KeepsAllBut.sensor {k mk} (h : KeepsAllBut s₀ s ps) (hl : Part.wake ⊆ ps := by decide) :
    KeepsAllBut s₀ (s.sensor k mk) ps :=
  h.step hl fun _ h => .ite h.modPower.modAux.checkInterrupts h.modPower

theorem KeepsAllBut.sensorRead {mk} (h : KeepsAllBut s₀ s ps) (hl : Part.wake ⊆ ps := by decide) :
    KeepsAllBut s₀ (s.sensorRead mk) ps := by
  refine h.step hl fun _ h => ?_
  unfold State.sensorRead
  refine h.foldUp fun _ _ h => ?_
  split
  · exact h.sensor
  · exact h

theorem KeepsAllBut.throttleTo {k v} (h : KeepsAllBut s₀ s ps) (hl : [.power] ⊆ ps := by decide) :
    KeepsAllBut s₀ (s.throttleTo k v) ps :=
  h.step hl fun _ h => h.modPower

theorem KeepsAllBut.throttleStep {k} (h : KeepsAllBut s₀ s ps) (hl : [.power] ⊆ ps := by decide) :
    KeepsAllBut s₀ (s.throttleStep k) ps :=
  h.step hl fun _ h => .ite (.ite h.throttleTo h) (.ite h.throttleTo (.ite h.modPower h))

/-! ### PowerState: PMBus (R472) -/

theorem KeepsAllBut.pmbPoll {r} (h : KeepsAllBut s₀ s ps)
    (hl : [.collector, .power, .dependability] ⊆ ps := by decide) :
    KeepsAllBut s₀ (s.pmbPoll r) ps :=
  h.step hl fun _ h => .ite h (.ite h.modPower (.ite h.modPower.fresh.logErr h.modPower))

/-! ### Boot -/

theorem KeepsAllBut.modDict {f} (h : KeepsAllBut s₀ s ps) (hl : [.dictionary] ⊆ ps := by decide) :
    KeepsAllBut s₀ (s.modDict f) ps :=
  h.past (s.keeps_modDict f) hl

/-! ### Boot: Power-on reset (R502, R503, R510, R511) -/

theorem KeepsAllBut.sizeWindows (h : KeepsAllBut s₀ s ps) (hl : [.host] ⊆ ps := by decide) :
    KeepsAllBut s₀ s.sizeWindows ps :=
  h.step hl fun _ h => h.foldUp fun _ _ h => h.modFunc

/-! ### Host: Functions -/

theorem KeepsAllBut.setErrs {f verr merr} (h : KeepsAllBut s₀ s ps) (hl : [.host, .output] ⊆ ps := by decide) :
    KeepsAllBut s₀ (s.setErrs f verr merr) ps :=
  h.step hl fun _ h => .ite h.setFunc.signal h.setFunc

theorem KeepsAllBut.mailboxReset {f} (h : KeepsAllBut s₀ s ps) (hl : [.host, .dictionary] ⊆ ps := by decide) :
    KeepsAllBut s₀ (s.mailboxReset f) ps :=
  h.step hl fun _ h => h.modFunc.modDict

theorem KeepsAllBut.stopMailbox {f} (h : KeepsAllBut s₀ s ps) (hl : [.host, .dictionary] ⊆ ps := by decide) :
    KeepsAllBut s₀ (s.stopMailbox f) ps :=
  h.step hl fun _ h => h.mailboxReset.modFunc

theorem KeepsAllBut.negotiate {f} (h : KeepsAllBut s₀ s ps) (hl : [.host, .dictionary, .output] ⊆ ps := by decide) :
    KeepsAllBut s₀ (s.negotiate f) ps :=
  h.step hl fun _ h => .ite h.modFunc.setErrs h.mailboxReset.modFunc

theorem KeepsAllBut.ohpctl {f v} (h : KeepsAllBut s₀ s ps) (hl : [.host, .dictionary, .output] ⊆ ps := by decide) :
    KeepsAllBut s₀ (s.ohpctl f v) ps :=
  h.step hl fun _ h => have h2 := KeepsAllBut.ite h.modFunc.mailboxReset h.modFunc
    .ite (.ite h2 h2.negotiate) h2.stopMailbox

theorem KeepsAllBut.flushMsix {f} (h : KeepsAllBut s₀ s ps) (hl : [.host, .output] ⊆ ps := by decide) :
    KeepsAllBut s₀ (s.flushMsix f) ps :=
  h.step hl fun _ h => h.fold fun _ _ h => .ite h.setFunc.emit h

theorem KeepsAllBut.tlpLost {f poisoned ecrcBad} (h : KeepsAllBut s₀ s ps) (e : s.tlpLost f poisoned ecrcBad = some t)
    (hl : [.host, .output] ⊆ ps := by decide) :
    KeepsAllBut s₀ t ps := by
  refine h.step hl fun _ h => ?_
  unfold State.tlpLost at e
  split at e
  · cases e; exact h.aer
  split at e
  · cases e; exact h.aer
  · cases e

/-! ### Host: The memory window (R384, R386, R387) -/

theorem KeepsAllBut.windowRead {f off n mesh} (h : KeepsAllBut s₀ s ps) (hl : .output :: Part.dma ⊆ ps := by decide) :
    KeepsAllBut s₀ (s.windowRead f off n mesh) ps := by
  refine h.step hl fun _ h => ?_
  unfold State.windowRead
  split
  · exact h.emit.aer
  · exact .ite h.agentBytes.meshLost.emit.aer (.ite h.agentBytes.emit.aer h.agentBytes.emit)

theorem KeepsAllBut.memRead {f off r} (h : KeepsAllBut s₀ s ps)
    (hl : .host :: .power :: .output :: Part.ecc ⊆ ps := by decide) :
    KeepsAllBut s₀ (s.memRead f off r) ps := by
  refine h.step hl fun _ h => ?_
  unfold State.memRead
  refine h.fold fun _ _ h => ?_
  refine KeepsAllBut.windowRead ?_
  split
  · exact h.eccFinds
  · exact h

theorem KeepsAllBut.refuseRead {f} (h : KeepsAllBut s₀ s ps) (hl : [.host, .output] ⊆ ps := by decide) :
    KeepsAllBut s₀ (s.refuseRead f) ps :=
  h.step hl fun _ h => h.emit.aer

theorem KeepsAllBut.controlRead {f off n} (h : KeepsAllBut s₀ s ps) (hl : [.host, .output] ⊆ ps := by decide) :
    KeepsAllBut s₀ (s.controlRead f off n) ps :=
  h.step hl fun _ h => .ite h.refuseRead (.ite h.emit h.emit)

theorem KeepsAllBut.configDword {f off} (h : KeepsAllBut s₀ s ps) : KeepsAllBut s₀ (s.configDword f off).2 ps :=
  .iteSnd h (.iteSnd h (.iteSnd h (.iteSnd h h.fresh)))

theorem KeepsAllBut.hostRead {f off r w} (h : KeepsAllBut s₀ s ps)
    (hl : .host :: .power :: .output :: Part.ecc ⊆ ps := by decide) :
    KeepsAllBut s₀ (s.hostRead f off r w) ps := by
  refine h.step hl fun _ h => ?_
  unfold State.hostRead
  split
  · exact h
  split
  · exact h.memRead
  · exact h.controlRead
  · exact h.refuseRead
  · exact h.configDword.emit

theorem KeepsAllBut.countDrop {f} (h : KeepsAllBut s₀ s ps) (hl : [.host] ⊆ ps := by decide) :
    KeepsAllBut s₀ (s.countDrop f) ps :=
  h.step hl fun _ h => h.modFunc

theorem KeepsAllBut.putGranule {f pa data g} (h : KeepsAllBut s₀ s ps) (hl : .host :: Part.hbm ⊆ ps := by decide) :
    KeepsAllBut s₀ (s.putGranule f pa data g) ps :=
  h.step hl fun _ h => .ite h.countDrop h.agentPut

theorem KeepsAllBut.windowWrite {f off data} (h : KeepsAllBut s₀ s ps)
    (hl : .host :: .output :: Part.hbm ⊆ ps := by decide) :
    KeepsAllBut s₀ (s.windowWrite f off data) ps := by
  refine h.step hl fun _ h => ?_
  unfold State.windowWrite
  split
  · exact h.countDrop.aer
  · exact h.fold fun _ _ h => h.putGranule

theorem KeepsAllBut.memWrite {f off data m} (h : KeepsAllBut s₀ s ps)
    (hl : .host :: .output :: Part.hbm ⊆ ps := by decide) :
    KeepsAllBut s₀ (s.memWrite f off data m) ps := by
  refine h.step hl fun _ h => ?_
  unfold State.memWrite
  split
  · exact h
  split
  next t e =>
    exact h.tlpLost e
  · exact h.fold fun _ _ h => h.windowWrite

/-! ### Host: The ingest window (R312, R313, R397) -/

theorem KeepsAllBut.setIngest {k v} (h : KeepsAllBut s₀ s ps) (hl : [.geysers] ⊆ ps := by decide) :
    KeepsAllBut s₀ (s.setIngest k v) ps :=
  h.past (s.keeps_setIngest k v) hl

theorem KeepsAllBut.ingestSamples {g n key y l k} (h : KeepsAllBut s₀ s ps) (hl : [.geysers] ⊆ ps := by decide) :
    KeepsAllBut s₀ (s.ingestSamples g n key y l k) ps := by
  induction k generalizing s l with
  | zero => exact h
  | succ k ih => exact ih ((h.gyInput hl).setIngest hl)

theorem KeepsAllBut.addInval {g n k} (h : KeepsAllBut s₀ s ps) (hl : [.geysers] ⊆ ps := by decide) :
    KeepsAllBut s₀ (s.addInval g n k) ps :=
  h.step hl fun _ h => h.modGySlot

theorem KeepsAllBut.ingestGap {g n key y k} (h : KeepsAllBut s₀ s ps) (hl : [.geysers] ⊆ ps := by decide) :
    KeepsAllBut s₀ (s.ingestGap g n key y k) ps := by
  induction k generalizing s with
  | zero => exact h
  | succ k ih => exact ih (((h.gyInput hl).addInval hl).setIngest hl)

theorem KeepsAllBut.ingestData {g n key y o data} (h : KeepsAllBut s₀ s ps) (hl : [.geysers] ⊆ ps := by decide) :
    KeepsAllBut s₀ (s.ingestData g n key y o data) ps :=
  h.step hl fun _ h => h.ingestGap.addInval.setIngest.ingestSamples

theorem KeepsAllBut.ingestSlot {f slot o data} (h : KeepsAllBut s₀ s ps) (hl : [.geysers, .host] ⊆ ps := by decide) :
    KeepsAllBut s₀ (s.ingestSlot f slot o data) ps := by
  refine h.step hl fun _ h => ?_
  simp only [State.ingestSlot]
  split
  · exact h.modFunc
  · exact .ite (.ite h.setIngest h) h.ingestData

theorem KeepsAllBut.ingestWrite {f off w} (h : KeepsAllBut s₀ s ps)
    (hl : [.geysers, .host, .output] ⊆ ps := by decide) :
    KeepsAllBut s₀ (s.ingestWrite f off w) ps := by
  refine h.step hl fun _ h => ?_
  simp only [State.ingestWrite]
  split
  · exact h
  split
  next t e =>
    exact h.tlpLost e
  · exact .ite h (h.fold fun _ _ h => h.ingestSlot)

/-! ### Host: DMA (R400) -/

theorem KeepsAllBut.dmaDone {v status value} (h : KeepsAllBut s₀ s ps) (hl : [.collector] ⊆ ps := by decide) :
    KeepsAllBut s₀ (s.dmaDone v status value) ps :=
  h.step hl fun _ h => h.present

theorem KeepsAllBut.dmaNext {l} (h : KeepsAllBut s₀ s ps) (hl : Part.dma ⊆ ps := by decide) :
    KeepsAllBut s₀ (s.dmaNext l) ps := by
  refine h.step hl fun _ k => ?_
  clear h
  induction l generalizing s with
  | nil => exact k.withHost
  | cons x l ih =>
    obtain ⟨v, mesh⟩ := x
    rw [State.dmaNext]
    refine .ite (ih k.dmaDone) (.ite (ih k.dmaDone) (.ite (ih k.meshLost.dmaDone) (.ite (ih k.dmaDone) ?_)))
    split
    · exact ih k.dmaDone
    · exact .ite (ih k.agentBytes.dmaDone) k.agentBytes.withHost

theorem KeepsAllBut.dmcmd {v mesh} (h : KeepsAllBut s₀ s ps) (hl : Part.dma ⊆ ps := by decide) :
    KeepsAllBut s₀ (s.dmcmd v mesh) ps :=
  h.step hl fun _ h => .ite h (.ite h.wakeTo.withHost h.wakeTo.dmaNext)

theorem KeepsAllBut.dmaEnd {d status value} (h : KeepsAllBut s₀ s ps) (hl : Part.dma ⊆ ps := by decide) :
    KeepsAllBut s₀ (s.dmaEnd d status value) ps :=
  h.step hl fun _ h => h.withHost.dmaDone.dmaNext

theorem KeepsAllBut.dmaComplete {r} (h : KeepsAllBut s₀ s ps)
    (hl : .host :: .power :: .output :: Part.ecc ⊆ ps := by decide) :
    KeepsAllBut s₀ (s.dmaComplete r) ps := by
  refine h.step hl fun r₀ h => ?_
  unfold State.dmaComplete
  split
  · exact h
  extract_lets bad u
  have hu : KeepsAllBut r₀ u (.host :: .power :: .output :: Part.ecc) := by
    unfold u
    split
    · exact h.meshLost
    · exact h
  exact KeepsAllBut.ite hu.eccFinds.agentBytes.emit.dmaEnd hu.agentPut.dmaEnd

theorem KeepsAllBut.freePut {pa n} (h : KeepsAllBut s₀ s ps) (hl : Part.hbm ⊆ ps := by decide) :
    KeepsAllBut s₀ (s.freePut pa n) ps := by
  induction n generalizing s pa with
  | zero => exact h
  | succ n ih => exact ih (h.fresh.agentPut hl)

theorem KeepsAllBut.dmaCut {f} (h : KeepsAllBut s₀ s ps) (hl : .memory :: .output :: Part.dma ⊆ ps := by decide) :
    KeepsAllBut s₀ (s.dmaCut f) ps := by
  refine h.step hl fun _ h => ?_
  simp only [State.dmaCut]
  split
  · exact h
  · exact .ite h (KeepsAllBut.ite h.fresh.agentBytes.emit h.fresh.freePut).dmaEnd

/-! ### Host: Resets of the functions (R396, R502) -/

theorem KeepsAllBut.flr {f} (h : KeepsAllBut s₀ s ps)
    (hl : .memory :: .dictionary :: .output :: Part.dma ⊆ ps := by decide) :
    KeepsAllBut s₀ (s.flr f) ps :=
  h.step hl fun _ h => h.stopMailbox.modFunc.dmaCut

theorem KeepsAllBut.dropLoaded (h : KeepsAllBut s₀ s ps) (hl : [.memory] ⊆ ps := by decide) :
    KeepsAllBut s₀ s.dropLoaded ps :=
  h.withMemory hl

theorem KeepsAllBut.perst {high} (h : KeepsAllBut s₀ s ps)
    (hl : .memory :: .dictionary :: .output :: Part.dma ⊆ ps := by decide) :
    KeepsAllBut s₀ (s.perst high) ps := by
  refine h.step hl fun _ h => ?_
  unfold State.perst
  refine .ite h.modPower.wakeTo ?_
  extract_lets t u
  have ht : KeepsAllBut _ t _ := h.foldUp fun _ _ h => h.flr
  have hu : KeepsAllBut _ u _ := .ite ht.dropLoaded ht
  exact hu.sizeWindows.modPower

theorem KeepsAllBut.configWrite {f v x} (h : KeepsAllBut s₀ s ps)
    (hl : .memory :: .output :: Part.dma ⊆ ps := by decide) :
    KeepsAllBut s₀ (s.configWrite f v x) ps := by
  refine h.step hl fun _ h => ?_
  simp only [State.configWrite]
  split
  · exact .ite h.modFunc.flushMsix h.modFunc.dmaCut
  · exact .ite h h.modCfg
  · exact h.modCfg
  · exact h.modCfg.ltrUpdate
  · exact h.modCfg
  · exact h.modCfg
  · exact h.modCfg.flushMsix
  · exact h.modCfg
  · exact h.modCfg

/-! ### Depend: Microcode patches (R491 to R493) -/

theorem KeepsAllBut.patchSwitch {c} (h : KeepsAllBut s₀ s ps)
    (hl : [.cores, .collector, .dependability] ⊆ ps := by decide) :
    KeepsAllBut s₀ (s.patchSwitch c) ps :=
  h.step hl fun _ h => .ite h.switchBanks h

/-! ### Depend: Vent cores and the vent patch (R489, R490) -/

theorem KeepsAllBut.ventStart {v} (h : KeepsAllBut s₀ s ps)
    (hl : [.cores, .registers, .contexts, .dependability] ⊆ ps := by decide) :
    KeepsAllBut s₀ (s.ventStart v) ps :=
  h.step hl fun _ h => have h1 := h.ventRun.modDep
    .ite h1 h1.modDep

theorem KeepsAllBut.ventFail {v} (h : KeepsAllBut s₀ s ps)
    (hl : [.cores, .registers, .collector, .journal, .dictionary, .dependability] ⊆ ps := by decide) :
    KeepsAllBut s₀ (s.ventFail v) ps := by
  refine h.step hl fun _ h => ?_
  unfold State.ventFail
  refine .ite h ?_
  extract_lets recent t
  have ht : KeepsAllBut _ t _ := h.countUp.logErr.modDep
  exact .ite ht.setCore.modDep.logErr ht.setCore.modDep

theorem KeepsAllBut.ventRestart {v} (h : KeepsAllBut s₀ s ps)
    (hl : [.cores, .registers, .contexts, .collector, .journal, .dictionary, .dependability] ⊆ ps := by decide) :
    KeepsAllBut s₀ (s.ventRestart v) ps :=
  h.step hl fun _ h => .ite (.ite h.ventStart h) (.ite h.modDep.ventStart (.ite h.ventFail.ventStart h.ventFail))

/-! ### Depend: Spares and the scrub (R483, R487, R488) -/

theorem KeepsAllBut.spareTest {k ok} (h : KeepsAllBut s₀ s ps) (hl : [.collector, .dependability] ⊆ ps := by decide) :
    KeepsAllBut s₀ (s.spareTest k ok) ps := by
  refine h.step hl fun _ h => ?_
  unfold State.spareTest
  split
  · exact h
  · exact .ite h h.modDep.logErr

theorem KeepsAllBut.scrubOn (h : KeepsAllBut s₀ s ps) (hl : [.dependability] ⊆ ps := by decide) :
    KeepsAllBut s₀ s.scrubOn ps :=
  h.step hl fun _ h => h.modDep

theorem KeepsAllBut.scrubHit {g} (h : KeepsAllBut s₀ s ps) (hl : [.dependability] ⊆ ps := by decide) :
    KeepsAllBut s₀ (s.scrubHit g) ps :=
  h.step hl fun _ h => h.modDep

theorem KeepsAllBut.scrub {r newer} (h : KeepsAllBut s₀ s ps) (hl : .power :: Part.ecc ⊆ ps := by decide) :
    KeepsAllBut s₀ (s.scrub r newer) ps := by
  refine h.step hl fun _ h => ?_
  simp only [State.scrub]
  split
  · exact h
  split
  · exact h.hbmServes.scrubOn
  · exact h.hbmServes.hbmCorrected.scrubHit.scrubOn
  · exact (KeepsAllBut.ite h.hbmServes h.hbmServes.hbmLost).scrubOn

/-! ### DictWrite: What a write does -/

theorem KeepsAllBut.heartbeat {m} (h : KeepsAllBut s₀ s ps) (hl : [.dictionary] ⊆ ps := by decide) :
    KeepsAllBut s₀ (s.heartbeat m) ps :=
  h.step hl fun _ h => h.modDict

/-! ### DictTick: Arrival (R394, R411, R422) -/

theorem KeepsAllBut.enqueue {r} (h : KeepsAllBut s₀ s ps) (hl : [.dictionary] ⊆ ps := by decide) :
    KeepsAllBut s₀ (s.enqueue r) ps :=
  h.step hl fun _ h => h.modDict

theorem KeepsAllBut.answerWith {r code} (h : KeepsAllBut s₀ s ps) (hl : [.dictionary] ⊆ ps := by decide) :
    KeepsAllBut s₀ (s.answerWith r code) ps :=
  h.step hl fun _ h => h.enqueue

theorem KeepsAllBut.segment {r} (h : KeepsAllBut s₀ s ps) (hl : [.dictionary] ⊆ ps := by decide) :
    KeepsAllBut s₀ (s.segment r) ps := by
  refine h.step hl fun _ h => ?_
  simp only [State.segment]
  split
  · exact h.modDict.answerWith
  · exact .ite h.modDict.answerWith (.ite h.answerWith (.ite h.modDict.answerWith h.modDict.enqueue))

theorem KeepsAllBut.arrive {m} (h : KeepsAllBut s₀ s ps) (hl : [.dictionary] ⊆ ps := by decide) :
    KeepsAllBut s₀ (s.arrive m) ps :=
  h.step hl fun _ h => have h1 := h.heartbeat
    .ite h1.answerWith (.ite h1.segment (.ite h1.answerWith h1.enqueue))

theorem KeepsAllBut.holdFrame {port mac m} (h : KeepsAllBut s₀ s ps) (hl : [.power] ⊆ ps := by decide) :
    KeepsAllBut s₀ (s.holdFrame port mac m) ps :=
  h.step hl fun _ h => (KeepsAllBut.ite h.modPower h).wakeTo

theorem KeepsAllBut.frameIn {port mac m} (h : KeepsAllBut s₀ s ps) (hl : [.dictionary, .power] ⊆ ps := by decide) :
    KeepsAllBut s₀ (s.frameIn port mac m) ps :=
  h.step hl fun _ h => .ite h.arrive (.ite h.holdFrame (.ite h.modPower h))

theorem KeepsAllBut.takeOhp {f m} (h : KeepsAllBut s₀ s ps) (hl : [.host, .dictionary] ⊆ ps := by decide) :
    KeepsAllBut s₀ (s.takeOhp f m) ps :=
  h.step hl fun _ h => h.modFunc.arrive

theorem KeepsAllBut.message {t x} (h : KeepsAllBut s₀ s ps) (hl : [.host, .dictionary, .power] ⊆ ps := by decide) :
    KeepsAllBut s₀ (s.message t x) ps := by
  refine h.step hl fun _ h => ?_
  unfold State.message
  split
  · split
    · exact .ite h.takeOhp h
    · exact h
  split
  · exact .ite h.frameIn h
  · exact h

/-! ### DictTick: The dictionary port (R428 to R430) -/

theorem KeepsAllBut.dxcmd {v} (h : KeepsAllBut s₀ s ps)
    (hl : [.caches, .cores, .dictionary, .power] ⊆ ps := by decide) :
    KeepsAllBut s₀ (s.dxcmd v) ps := by
  refine h.step hl fun _ h => ?_
  unfold State.dxcmd
  refine .ite h ?_
  extract_lets cmd mid a n fieldsOk ok
  split
  next t e =>
  have ht : KeepsAllBut _ t _ := .snd (.iteSnd h.agentBytes h) e
  exact (KeepsAllBut.ite ht.heartbeat ht).enqueue.wakeTo

/-! ### Collector -/

theorem KeepsAllBut.linkPop {n event} (h : KeepsAllBut s₀ s ps) (hl : [.links] ⊆ ps := by decide) :
    KeepsAllBut s₀ (s.linkPop n event) ps := by
  refine h.step hl fun _ h => ?_
  simp only [State.linkPop]
  split
  · exact h.setLink.linkKick
  · exact h.setLink

theorem KeepsAllBut.linkPresent (h : KeepsAllBut s₀ s ps) (hl : [.collector, .links] ⊆ ps := by decide) :
    KeepsAllBut s₀ s.linkPresent ps := by
  refine h.step hl fun _ h => ?_
  simp only [State.linkPresent]
  split
  · exact h.linkPop.withCollector
  · exact h

theorem KeepsAllBut.portPop {p} (h : KeepsAllBut s₀ s ps) (hl : .panel :: Part.geyser ⊆ ps := by decide) :
    KeepsAllBut s₀ (s.portPop p) ps :=
  h.step hl fun _ h => .ite h.modGy.gyDrain (.ite h.withCollector (.ite h.modPanel h.withCollector))

theorem KeepsAllBut.collAccept (h : KeepsAllBut s₀ s ps) (hl : .panel :: Part.geyser ⊆ ps := by decide) :
    KeepsAllBut s₀ s.collAccept ps :=
  h.step hl fun _ h => h.linkPresent.withCollector.fold fun _ _ h => h.portPop

theorem KeepsAllBut.logRecord {r} (h : KeepsAllBut s₀ s ps) (hl : [.collector, .dependability] ⊆ ps := by decide) :
    KeepsAllBut s₀ (s.logRecord r) ps :=
  h.step hl fun _ h => h.logErr

theorem KeepsAllBut.collRetire (h : KeepsAllBut s₀ s ps) (hl : .registers :: .channels :: Part.wake ⊆ ps := by decide) :
    KeepsAllBut s₀ s.collRetire ps := by
  refine h.step hl fun _ h => ?_
  unfold State.collRetire
  split
  · exact h
  extract_lets t orphan u
  have hu : KeepsAllBut _ u _ := .ite h.withCollector (.ite h.withCollector.ckptComplete h.withCollector.post)
  exact .ite hu.logRecord hu

/-! ### GeyserRows -/

theorem KeepsAllBut.gyMeets {g cmd c span} (h : KeepsAllBut s₀ s ps)
    (hl : .journal :: .dictionary :: Part.geyser ⊆ ps := by decide) :
    KeepsAllBut s₀ (s.gyMeets g cmd c span) ps :=
  h.step hl fun _ h => (KeepsAllBut.ite h h.eccIn).gyWrite

/-! ### HeapRows: The cycle -/

theorem KeepsAllBut.engineStep {a f} (h : KeepsAllBut s₀ s ps)
    (hf : ∀ s, KeepsAllBut s₀ s ps → KeepsAllBut s₀ (f s) ps) (hl : .heap :: Part.ecc ⊆ ps := by decide) :
    KeepsAllBut s₀ (s.engineStep a f) ps := by
  simp only [State.engineStep]
  split
  · exact hf _ h
  split
  · exact h.step hl fun _ h => h.eccIn.meshLost.modHeap
  · exact hf _ (h.step hl fun _ h => h.eccIn)

theorem KeepsAllBut.engineTrace {se item} (h : KeepsAllBut s₀ s ps) (hl : Part.pass ⊆ ps := by decide) :
    KeepsAllBut s₀ (s.engineTrace se item) ps := by
  refine h.step hl fun _ h => ?_
  unfold State.engineTrace
  split
  · exact h
  split
  · exact h.traceRecord
  · exact h.traceCard
  · exact h.traceObject
  · exact h.traceBlock

/-! ### HeapRows: The journal -/

theorem KeepsAllBut.commitHit {a} (h : KeepsAllBut s₀ s ps) (hl : Part.ecc ⊆ ps := by decide) :
    KeepsAllBut s₀ (s.commitHit a) ps := by
  refine h.step hl fun _ h => ?_
  simp only [State.commitHit]
  split
  · exact h
  refine KeepsAllBut.modJr ?_
  split
  · exact h.eccIn.meshLost
  · exact h.eccIn

/-! ### HostRows: DMA (R400) -/

theorem KeepsAllBut.dmaCmd {c cmd} (h : KeepsAllBut s₀ s ps) (hl : .host :: .power :: Part.ecc ⊆ ps := by decide) :
    KeepsAllBut s₀ (s.dmaCmd c cmd) ps :=
  h.step hl fun _ h => (KeepsAllBut.ite h.eccFinds h).dmcmd

/-! ### Maintenance: Events of the object cache -/

theorem KeepsAllBut.fillSector {c line sec ev} (h : KeepsAllBut s₀ s ps) (hl : Part.ecc ⊆ ps := by decide) :
    KeepsAllBut s₀ (s.fillSector c line sec ev) ps := by
  refine h.step hl fun _ h => ?_
  unfold State.fillSector
  split
  · exact h
  extract_lets g s1 good
  have h1 : KeepsAllBut _ s1 _ := h.shareFor.eccFound
  exact .ite h (KeepsAllBut.ite h1.dirShare h1).modCore

/-! ### Tick -/

theorem KeepsAllBut.tickClock (h : KeepsAllBut s₀ s ps) (hl : [.contexts, .links, .time, .output] ⊆ ps := by decide) :
    KeepsAllBut s₀ s.tickClock ps :=
  h.step hl fun _ h => (KeepsAllBut.ite h.withTime.charge h.withTime).linksDrain.ptpExpire

theorem KeepsAllBut.toBoundary {n} (h : KeepsAllBut s₀ s ps)
    (hl : [.contexts, .links, .time, .output] ⊆ ps := by decide) :
    KeepsAllBut s₀ (s.toBoundary n) ps := by
  induction n generalizing s with
  | zero => exact h
  | succ n ih => exact .ite (h.tickClock hl) (ih (h.tickClock hl))

/-! ### Commands -/

theorem KeepsAllBut.next (h : KeepsAllBut s₀ s ps) : Ends (KeepsAllBut s₀ · ps) (.next s) :=
  Ends.next h

theorem KeepsAllBut.unheld (h : KeepsAllBut s₀ s ps) (k : KeepsAllBut s₀ t ps) : KeepsAllBut s₀ (s.unheld t) ps :=
  .ite h k

theorem KeepsAllBut.ifOpen {f} (h : KeepsAllBut s₀ s ps) (k : KeepsAllBut s₀ t ps) : KeepsAllBut s₀ (s.ifOpen f t) ps :=
  .ite k h

theorem KeepsAllBut.contextPlacement (hl : .heap :: Part.swap ⊆ ps := by decide) :
    Ends (KeepsAllBut s · ps) (exec .contextPlacement s) := by
  refine .next ?_
  split
  · exact (KeepsAllBut.refl s ps).place hl
  · exact .refl s ps

theorem KeepsAllBut.dispatchQuantumExpiry {core slot} (hl : .heap :: Part.swap ⊆ ps := by decide) :
    Ends (KeepsAllBut s · ps) (exec (.dispatchQuantumExpiry core slot) s) := by
  refine .next ?_
  split
  · exact .ite ((KeepsAllBut.refl s ps).place hl) (.refl s ps)
  · exact .refl s ps

theorem KeepsAllBut.stageValueProcessed {g slot stage} (hl : Part.geyser ⊆ ps := by decide) :
    Ends (KeepsAllBut s · ps) (exec (.stageValueProcessed g slot stage) s) := by
  refine .next ((KeepsAllBut.refl s ps).step hl fun _ h => ?_)
  refine .ite h ?_
  split
  · exact h.stageValue
  · exact h.meshLost.modGy.stageValue.modGy

end

/-! ### The statement -/

/-- Settles O3: each command is an operation of its unit, or a choice between one and none, and `decide` finds the
operation's footprint in the command's list. -/
theorem deviceCommandsKeepTheOtherUnits : Obligations.DeviceCommandsKeepTheOtherUnits := by
  unfold Obligations.DeviceCommandsKeepTheOtherUnits
  intro s core f n g b8 ctx line ecc block se cy tr hl st c jc dc cons off off36 data wire mark fr cause m1 m2 unit dest
    v dr ra rr ce me cr via ps input pgd pr mk sr bads bad ok a b ap bp keeps
  have r : ∀ {l}, KeepsAllBut s s l := .refl s _
  have all {p : Out → Prop} {l : List Out} : l.Forall p → ∀ r ∈ l, p r := List.forall_iff_forall_mem.1
  exact ⟨
    -- The dispatcher and the completion records
    .next (.unheld r (.ite r.collAccept r)),
    .next (.ite r.collRetire r),
    all ⟨.contextPlacement, .dispatchQuantumExpiry⟩,
    .next (.unheld r r.toBoundary),
    .next (.ite r.wakeReached r),
    -- The caches
    r.drainMerge.next,
    r.fillSector.next,
    -- The heap
    all ⟨r.relocateFlip.next, r.markEnd.next⟩,
    all ⟨r.cycleStart.next, r.select.next, r.remap.next, r.blockCleared.next⟩,
    r.corePass.next,
    .next (r.engineStep fun _ h => h.engineCopy),
    all ⟨.next (r.engineStep fun _ h => h.engineTrace), .next (r.engineStep fun _ h => h.engineHeal)⟩,
    r.cycleEnd.next,
    -- The geysers
    all ⟨r.gyWrite.next, r.gyWrite.next, r.gyWrite.next, r.gyWrite.next, r.gyWrite.next, r.gyWrite.next, r.gyWrite.next,
      r.rampEnd.next, .stageValueProcessed⟩,
    all ⟨r.gyMeets.next, r.gyMeets.next, r.gyMeets.next⟩,
    r.ringRecheck.next,
    r.dmaRecord.next,
    r.sourceTimeout.next,
    r.ingestWrite.next,
    -- The links and the time
    all ⟨r.aligned.next, r.trainTimeout.next, r.noverRetrain.next, r.linkLoss.next, r.ctrlTimeout.next⟩,
    all ⟨r.trainSend.next, r.samplesSend.next, r.timeSend.next, r.creditIn.next⟩,
    all ⟨r.linkReceive.next, r.linkReceive.next, r.linkReceive.next, r.linkReceive.next⟩,
    all ⟨r.ptpSync.next, r.ptpGeneral.next⟩,
    -- The journal
    r.ckptAccept.next,
    .next (KeepsAllBut.ite r r.commitHit).commitComplete,
    all ⟨r.wearMove.next, .next (.ite r.finishStage r)⟩,
    all ⟨r.jcmd.next, r.jcmd.next⟩,
    .next (KeepsAllBut.ite r.eccFinds r).jcmd,
    -- The host
    all ⟨.next (.ite (.ifOpen r r.ohpctl) r), .next (.ite r (.ifOpen r r.ohpctl)), .next (.ite (.ifOpen r r.ohpctl) r)⟩,
    r.hostRead.next,
    r.memWrite.next,
    r.dmcmd.next,
    all ⟨r.dmaCmd.next, r.dmaCmd.next⟩,
    r.dmaComplete.next,
    .next (.unheld r r.configWrite),
    all ⟨r.flr.next, r.perst.next⟩,
    -- The dictionary
    all ⟨r.message.next, r.message.next, r.message.next, r.message.next, r.message.next, r.message.next, r.message.next,
      r.message.next⟩,
    all ⟨r.dxcmd.next, r.dxcmd.next, r.dxcmd.next, r.dxcmd.next, r.dxcmd.next⟩,
    -- The panel
    all ⟨.next (.unheld r r.panelScan), r.acceptedChange.next, r.stuckSet.next⟩,
    r.groupWindowEnd.next,
    .next (.unheld r r.estopSample),
    r.discrepancy.next,
    -- Power
    all ⟨.next (.unheld r r.evaluate), r.throttleStep.next⟩,
    all ⟨r.sequenceUp.next, r.sequenceDown.next, .next (.unheld r r.railGood)⟩,
    r.wakePrepare.next,
    .next (r.fold fun _ _ h => h.pmbPoll),
    .next (.unheld r r.sensorRead),
    -- Dependability
    .next (.unheld r r.spareTest),
    r.ventFail.next,
    r.ventRestart.next,
    .next (.unheld r r.scrub),
    r.patchSwitch.next,
    .next (r.fold fun _ _ h => .ite h h.recordFault),
    .next (.ite r.commitErrors r)⟩

end Sys2Proof.Machine

/-! ## Conses and association lists (O25) -/

namespace Sys2Proof

/-- A table whose entries are all changed under their keys: the value at `k` stands to the old one as `r` says. -/
theorem SMap.get_map_at {α : Type} (d : α) (f : Nat × α → Nat × α) (r : α → α → Prop) (hkey : ∀ e, (f e).1 = e.1) (hd : r d d)
    (k : Nat) (hf : ∀ v, r v (f (k, v)).2) (m : SMap α) : r (SMap.get d m k) (SMap.get d (m.map f) k) := by
  induction m with
  | nil => exact hd
  | cons e m ih =>
    obtain ⟨j, v⟩ := e
    have hj : f (j, v) = (j, (f (j, v)).2) := Prod.ext (hkey _) rfl
    rw [List.map_cons, hj]
    simp only [SMap.get]
    split
    next h =>
      subst h
      exact hf v
    · exact ih

end Sys2Proof

namespace Sys2Proof.Machine

/-! ### A sector that stays valid in the object cache -/

theorem Core.ocFind_ocFront (k : Core) (e : OcEntry) (line : Nat) :
    (k.ocFront e).ocFind line = if e.line = line then some e else k.ocFind line := by
  by_cases h : e.line = line
  · simp [Core.ocFind, Core.ocFront, h]
  · have hkeep : ∀ x : OcEntry, decide ((x.line != e.line) = true ∧ (x.line == line) = true) = (x.line == line) := by
      intro x
      by_cases hx : x.line = line
      · simp [hx, Ne.symm h]
      · simp [hx]
    simp only [Core.ocFind, Core.ocFront, List.find?_cons, beq_eq_false_iff_ne.mpr h, List.find?_filter, hkeep, if_neg h]

/-- A touch leaves every sector as valid as it was. -/
theorem State.ocHit_ocTouch (s : State) (c pa : Nat) (store : Bool) (pb : Nat) :
    ((s.ocTouch c pa store).core c).ocHit pb = (s.core c).ocHit pb := by
  simp only [State.ocTouch]
  split
  next x hx =>
    have hline : x.line = pa / 512 := by simpa using List.find?_some hx
    rw [State.core_setCore_self]
    by_cases hb : pa / 512 = pb / 512
    · have hf : (s.core c).ocFind (pb / 512) = some x := hb ▸ hx
      cases store <;> simp [Core.ocHit, Core.ocFind_ocFront, hline, hb, hf]
    · cases store <;> simp [Core.ocHit, Core.ocFind_ocFront, hline, hb]
  · rfl

/-- A sector that is dropped takes no other with it, and one that only becomes clean stays valid. -/
theorem Core.ocHit_dropGranule (k : Core) {g pa : Nat} {valid : Bool} (h : valid = false ∨ pa / 128 ≠ g) :
    (k.dropGranule g valid).ocHit pa = k.ocHit pa := by
  have hline : ∀ x : OcEntry, (x.drop g valid).line = x.line := fun x => by unfold OcEntry.drop; split <;> rfl
  have hfind : (k.dropGranule g valid).ocFind (pa / 512) = (k.ocFind (pa / 512)).map (·.drop g valid) := by
    simp only [Core.ocFind, Core.dropGranule, List.find?_map, Function.comp_def, hline]
  simp only [Core.ocHit, hfind]
  cases hx : k.ocFind (pa / 512) with
  | none => rfl
  | some x =>
    have hl : x.line = pa / 512 := by simpa using List.find?_some hx
    simp only [Option.map_some, OcEntry.drop]
    split
    next hg =>
      cases valid with
      | false => rfl
      | true =>
        have hne : pa / 128 % 4 ≠ g % 4 := by
          have := h.resolve_left (by simp)
          simp only [beq_iff_eq] at hg
          omega
        simp [bit_setBit, hne, Nat.mod_lt]
    · rfl

theorem State.core_of_cores {s t : State} (h : t.cores = s.cores) (c : Nat) : t.core c = s.core c := by
  simp only [State.core, h]

theorem State.ocHit_dropCopies (s : State) {g c pa : Nat} {valid : Bool} {keep : Nat → Bool}
    (h : valid = false ∨ keep c = true ∨ pa / 128 ≠ g) :
    ((s.dropCopies g valid keep).core c).ocHit pa = (s.core c).ocHit pa := by
  refine SMap.get_map_at {} (fun e => if keep e.1 then e else (e.1, e.2.dropGranule g valid))
    (fun k m : Core => m.ocHit pa = k.ocHit pa) (fun e => ?_) rfl c (fun v => ?_) s.cores
  · split <;> rfl
  · split
    · rfl
    next hk => exact v.ocHit_dropGranule (h.imp_right fun h => h.resolve_left hk)

theorem State.ocHit_dropCode (s : State) (g c pa : Nat) : ((s.dropCode g).core c).ocHit pa = (s.core c).ocHit pa :=
  SMap.get_map_at (α := Core) {} (fun e => (e.1, e.2.dropCode g)) (fun k m : Core => m.ocHit pa = k.ocHit pa) (fun _ => rfl) rfl c
    (fun _ => rfl) s.cores

theorem State.cores_l2Drop (s : State) (g : Nat) (keep : Nat → Bool) : (s.l2Drop g keep).cores = s.cores :=
  foldl_keeps State.cores _ (fun t k => by split <;> rfl) _ s

theorem State.cores_cleaned (s : State) (g : Nat) : (s.cleaned g).cores = s.cores := by
  simp only [State.cleaned, State.unqueue]
  split
  · rfl
  · exact foldl_keeps State.cores (fun (t : State) k => t.putWb k g ((t.wbQueue k g).filter (· != g))) (fun _ _ => rfl) _ _

/-- The recall of another granule (R288) leaves the sector valid. -/
theorem State.ocHit_recall (s : State) {g c pa : Nat} (h : pa / 128 ≠ g) :
    ((s.recall g).core c).ocHit pa = (s.core c).ocHit pa := by
  have hcores : (s.recall g).cores = ((s.dropCopies g true fun _ => false).dropCode g).cores := by
    simp only [State.recall, State.dirDrop, State.putDirSet, State.cores_cleaned, State.dropAll, State.cores_l2Drop]
  rw [State.core_of_cores hcores, State.ocHit_dropCode, State.ocHit_dropCopies _ (.inr (.inr h))]

theorem nthD_mem {α : Type} (d : α) (l : List α) (n : Nat) (h : n < l.length) : nthD d l n ∈ l := by
  induction l generalizing n with
  | nil => simp at h
  | cons a l ih =>
    cases n with
    | zero => simp [nthD]
    | succ n => exact List.mem_cons_of_mem _ (ih n (by simpa using h))

/-- A full directory set recalls another granule than the one that it records. -/
theorem State.ocHit_dirPut (s : State) (e : DirEntry) {c pa : Nat} (h : pa / 128 = e.granule) :
    ((s.dirPut e).core c).ocHit pa = (s.core c).ocHit pa := by
  simp only [State.dirPut]
  split
  · rfl
  next hnone =>
    split
    · rfl
    next hfull =>
      generalize hv : nthD e (s.dirSet e.granule) (s.fresh.1.toNat % 16) = victim
      have hvictim : pa / 128 ≠ victim.granule := by
        intro heq
        refine hnone (List.any_eq_true.mpr ⟨victim, hv ▸ nthD_mem e _ _ (by omega), ?_⟩)
        simp [← heq, h]
      have hcores : (((s.fresh.2.recall victim.granule).putDirSet e.granule
          ((s.fresh.2.recall victim.granule).dirSet e.granule ++ [e]))).cores = (s.fresh.2.recall victim.granule).cores := by
        simp only [State.putDirSet]
      have hfresh : s.fresh.2.cores = s.cores := by simp only [State.fresh]
      rw [State.core_of_cores hcores, State.ocHit_recall _ hvictim, State.core_of_cores hfresh]

theorem State.ocHit_dirOwn (s : State) {k c pa g : Nat} (h : pa / 128 = g) :
    ((s.dirOwn k g).core c).ocHit pa = (s.core c).ocHit pa := by
  unfold State.dirOwn
  split
  · rfl
  · exact s.ocHit_dirPut _ h

theorem State.ocHit_dirCleaned (s : State) {c pa g : Nat} (h : pa / 128 = g) :
    ((s.dirCleaned g).core c).ocHit pa = (s.core c).ocHit pa := by
  unfold State.dirCleaned
  split
  · exact s.ocHit_dirPut _ h
  · rfl

theorem State.ocHit_recallFrom (s : State) {k c pa g : Nat} (h : pa / 128 = g) :
    ((s.recallFrom g k).core c).ocHit pa = (s.core c).ocHit pa := by
  have hclean : ((((s.dropCopies g false fun _ => false).cleaned g).dirCleaned g).core c).ocHit pa = (s.core c).ocHit pa := by
    rw [State.ocHit_dirCleaned _ h, State.core_of_cores (State.cores_cleaned _ g), State.ocHit_dropCopies _ (.inl rfl)]
  have hif : ∀ b : Bool, ((if b then ((s.dropCopies g false fun _ => false).cleaned g).dirCleaned g else s).core c).ocHit pa =
      (s.core c).ocHit pa := fun b => by
    cases b
    · rfl
    · exact hclean
  exact hif _

/-- A core that claims a granule for a store keeps its own copy (R289). -/
theorem State.ocHit_claimFor (s : State) {c pa g : Nat} (h : pa / 128 = g) :
    ((s.claimFor c g).core c).ocHit pa = (s.core c).ocHit pa := by
  simp only [State.claimFor]
  rw [State.ocHit_dirOwn _ h, State.core_of_cores (State.cores_l2Drop _ g _), State.ocHit_dropCode,
    State.ocHit_dropCopies _ (.inr (.inl (by simp))), State.ocHit_recallFrom _ h]

end Sys2Proof.Machine

namespace Sys2Proof.Machine

/-! ### An address that stays plain -/

section
variable {s t : State} {e : Env} {va pa : Nat}

/-- What makes an address plain stays where the caches alone change and its sector stays valid. -/
theorem Plain.of_caches (h : Plain s e va pa) (c : CachesOnly s t) (hit : (t.core e.q.core).ocHit pa = true) :
    Plain t e va pa := by
  obtain ⟨_, hs⟩ := c.slots e.q
  obtain ⟨_, _, _, hc⟩ := c.core e.q.core
  have hasid : t.ctxAsid e.n = s.ctxAsid e.n := by simp only [State.ctxAsid, State.rcell, c.sameButMemory.records]
  have hpoison : t.poison = s.poison := by
    obtain ⟨_, _, _, _, _, _, _, _, rfl⟩ := c.moved
    rfl
  have hdbg : t.dbg = s.dbg := by
    obtain ⟨_, _, _, _, _, _, _, _, rfl⟩ := c.moved
    rfl
  constructor
  case page => simpa only [hc, hasid, Core.tlbFind] using h.page
  case hbm => exact h.hbm
  case calm => rw [hdbg, h.calm]
  case whole => simpa only [State.poisoned, hpoison] using h.whole
  case unlocked => rw [hc, h.unlocked]
  case noHeap => rw [c.sameButMemory.heap, h.noHeap]
  case noBuffer => rw [hs, h.noBuffer]
  case noMerge => rw [hc, h.noMerge]
  case cached => rw [hc, h.cached]
  case defined => rw [hc, h.defined]
  case main => exact h.main
  case hit => exact hit

/-- A load leaves every plain address plain. -/
theorem Plain.ocTouch (h : Plain s e va pa) (pb : Nat) (store : Bool) : Plain (s.ocTouch e.q.core pb store) e va pa :=
  h.of_caches (s.caches_ocTouch e.q.core pb store) ((s.ocHit_ocTouch e.q.core pb store pa).trans h.hit)

/-! ### Stores one after the other -/

/-- What a store of an instruction rests on: a plain address, but for what earlier stores of the instruction told the store
detector (R273). -/
structure Storable (s : State) (e : Env) (va pa : Nat) : Prop where
  page : ∃ t, (s.core e.q.core).tlbFind (s.ctxAsid e.n) va = some t ∧ t.w = true ∧ t.wt = false ∧
    (e.user = true → t.u = true) ∧ pa = t.pa va / 16 * 16
  hbm : pa < hbmEnd
  calm : s.dbg.bkctl = []
  whole : s.poisoned (pa / 128) = false
  unlocked : (s.core e.q.core).lockn = 0
  noHeap : s.heap.en = false
  noBuffer : (s.slot e.q).det.buf = []
  cached : (s.core e.q.core).den = true
  defined : (s.core e.q.core).ocDefined = true
  main : e.q.isVent = false
  hit : (s.core e.q.core).ocHit pa = true

theorem Plain.storable (h : Plain s e va pa) : Storable s e va pa := by
  obtain ⟨t, ht, -, hw, hwt, hu, hpa⟩ := h.page
  exact ⟨⟨t, ht, hw, hwt, hu, hpa⟩, h.hbm, h.calm, h.whole, h.unlocked, h.noHeap, by rw [h.noBuffer], h.cached, h.defined, h.main,
    h.hit⟩

/-- What a store looks at, its sector apart, is in `t` as it is in `s`. -/
structure Undisturbed (s t : State) (q : Cx) : Prop where
  core : ∃ slots oc icache, t.core q.core = { s.core q.core with slots := slots, oc := oc, icache := icache }
  buf : (t.slot q).det.buf = (s.slot q).det.buf
  records : t.ctxStore = s.ctxStore
  poison : t.poison = s.poison
  heap : t.heap = s.heap
  dbg : t.dbg = s.dbg

theorem Undisturbed.trans {u : State} {q : Cx} (h : Undisturbed s t q) (k : Undisturbed t u q) : Undisturbed s u q := by
  obtain ⟨_, _, _, hc⟩ := h.core
  obtain ⟨_, _, _, kc⟩ := k.core
  exact ⟨⟨_, _, _, by rw [kc, hc]⟩, k.buf.trans h.buf, k.records.trans h.records, k.poison.trans h.poison,
    k.heap.trans h.heap, k.dbg.trans h.dbg⟩

theorem CachesOnly.undisturbed (h : CachesOnly s t) (q : Cx) : Undisturbed s t q := by
  obtain ⟨_, hs⟩ := h.slots q
  have hc := h.core q.core
  obtain ⟨_, _, _, _, _, _, _, _, ht⟩ := h.moved
  exact ⟨hc, by rw [hs], by rw [ht], by rw [ht], by rw [ht], by rw [ht]⟩

/-- A change of the slot disturbs no store where it leaves the write-around buffer. -/
theorem State.undisturbed_modSlot (s : State) (q : Cx) {f : Slot → Slot} (hf : (f (s.slot q)).det.buf = (s.slot q).det.buf) :
    Undisturbed s (s.modSlot q f) q :=
  ⟨⟨((s.core q.core).setSlot q.slot (f (s.slot q))).slots, (s.core q.core).oc, (s.core q.core).icache,
      by simp [State.modSlot, State.setSlot, Core.setSlot]⟩,
    by rw [State.slot_modSlot_self, hf], by simp, by simp, by simp, by simp⟩

theorem State.undisturbed_modRegs (s : State) (q : Cx) (f : Regs → Regs) : Undisturbed s (s.modRegs q f) q :=
  s.undisturbed_modSlot q (f := fun v => { v with regs := f v.regs }) rfl

theorem State.undisturbed_setCell (s : State) (pa : Nat) (v : Cell) (q : Cx) : Undisturbed s (s.setCell pa v) q :=
  have hc : (s.setCell pa v).cores = s.cores := by simp
  ⟨⟨(s.core q.core).slots, (s.core q.core).oc, (s.core q.core).icache, by simp only [State.core, hc]⟩,
    by simp only [State.slot, State.core, hc], by simp, by simp, by simp, by simp⟩

theorem Storable.of_undisturbed (h : Storable s e va pa) (k : Undisturbed s t e.q)
    (hit : (t.core e.q.core).ocHit pa = (s.core e.q.core).ocHit pa) : Storable t e va pa := by
  obtain ⟨_, _, _, hc⟩ := k.core
  have hasid : t.ctxAsid e.n = s.ctxAsid e.n := by simp only [State.ctxAsid, State.rcell, k.records]
  constructor
  case page => simpa only [hc, hasid, Core.tlbFind] using h.page
  case hbm => exact h.hbm
  case calm => rw [k.dbg, h.calm]
  case whole => simpa only [State.poisoned, k.poison] using h.whole
  case unlocked => rw [hc, h.unlocked]
  case noHeap => rw [k.heap, h.noHeap]
  case noBuffer => rw [k.buf, h.noBuffer]
  case cached => rw [hc, h.cached]
  case defined => rw [hc, h.defined]
  case main => exact h.main
  case hit => rw [hit, h.hit]

theorem State.ocHit_modSlot (s : State) (q : Cx) (f : Slot → Slot) (pa : Nat) :
    ((s.modSlot q f).core q.core).ocHit pa = (s.core q.core).ocHit pa := by
  simp [State.modSlot, State.setSlot, Core.setSlot, Core.ocHit, Core.ocFind]

/-- The registers of the slot take no part in a store. -/
theorem Storable.modRegs (h : Storable s e va pa) (f : Regs → Regs) : Storable (s.modRegs e.q f) e va pa :=
  h.of_undisturbed (s.undisturbed_modRegs e.q f) (s.ocHit_modSlot e.q (fun v => { v with regs := f v.regs }) pa)

theorem Detector.buf_feed (d : Detector) (pa : Nat) : (d.feed pa).buf = d.buf := by
  simp only [Detector.feed]
  split
  · rfl
  · split <;> rfl

theorem State.ocHit_noteDirty (s : State) (c g pa : Nat) : ((s.noteDirty c g).core c).ocHit pa = (s.core c).ocHit pa := by
  unfold State.noteDirty
  split <;> rfl

/-- A store leaves the other cells of its granule open to further stores. -/
theorem Storable.storedBack {pb : Nat} (h : Storable s e va pa) (v : Cell) (feeds : Bool) (hg : pa / 128 = pb / 128) :
    Storable (s.storedBack e.q pb v feeds) e va pa := by
  have hc := ((s.caches_claimFor e.q.core (pb / 128)).trans (State.caches_ocTouch _ e.q.core pb true)).trans
    (State.caches_noteDirty _ e.q.core (pb / 128))
  have hcell := h.of_undisturbed ((hc.undisturbed e.q).trans (State.undisturbed_setCell _ pb v e.q))
    (by
      rw [State.core_of_cores (State.setCell_cores _ pb v), State.ocHit_noteDirty, State.ocHit_ocTouch,
        State.ocHit_claimFor _ hg])
  simp only [State.storedBack]
  split
  · exact hcell.of_undisturbed (State.undisturbed_modSlot _ _ (Detector.buf_feed _ _)) (State.ocHit_modSlot _ _ _ _)
  · exact hcell

theorem Storable.translate (h : Storable s e va pa) (opn : Nat) :
    ∃ t, t.wt = false ∧ translate e .store va opn s = .ok ((t, pa), s) := by
  obtain ⟨t, ht, hw, hwt, hu, rfl⟩ := h.page
  have hgo : t.refuses e.user .store = none := by
    cases hue : e.user with
    | false => simp [TlbEntry.refuses, hw]
    | true => simp [TlbEntry.refuses, hw, hu hue]
  refine ⟨t, hwt, ?_⟩
  simp [Machine.translate, translateSpan, bind_ok (look_run id s), h.main, ht, hgo, State.bkAt, h.calm]

theorem Storable.inScratch (h : Storable s e va pa) (a : Nat) : (s.core e.q.core).inScratch a = false := by
  simp [Core.inScratch, h.unlocked]

theorem Storable.reached (h : Storable s e va pa) : s.reached e.q pa = .hbm := by
  have hp := h.hbm
  have hram : ¬ ventRamAt ≤ pa := by
    simp only [hbmEnd, ventRamAt] at hp ⊢
    omega
  have hrom : ¬ ventRomAt ≤ pa := by
    simp only [hbmEnd, ventRomAt] at hp ⊢
    omega
  simp [State.reached, h.main, regionOf, hram, hrom, hp]

theorem Storable.storeHbm (h : Storable s e va pa) (v : Cell) (feeds : Bool) :
    s.storeHbm e.q pa v false feeds = .ok (s.storedBack e.q pa (normalize v) feeds) := by
  have haround : s.goesAround e.q pa false feeds = false := by simp [State.goesAround, h.hit]
  have hflush : s.flushAround e.q = s := by simp [State.flushAround, h.noBuffer]
  simp [State.storeHbm, h.main, h.inScratch, State.storeBack, haround, h.cached, h.hit, hflush, State.storedBack]

/-- A store of a cell that an allocation forms, no line being claimed (R225). -/
theorem Storable.allocStore (h : Storable s e va pa) (v : Cell) :
    allocStore e false va v s = .ok ((), s.storedBack e.q pa (normalize v) true) := by
  obtain ⟨t, hwt, ht⟩ := h.translate 0
  have hstore := h.storeHbm (normalize v) true
  rw [normalize_normalize] at hstore
  have hentry : s.entryAt pa = none := by simp [State.entryAt, h.noHeap]
  have hafter : (s.storedBack e.q pa (normalize v) true).storeBarrier e.n v va = s.storedBack e.q pa (normalize v) true := by
    simp [State.storeBarrier, (s.storedBack_spec e.q pa _ true).1.heap, h.noHeap]
  simp [Machine.allocStore, bind_ok ht, Machine.writeCell, writePhys, bind_ok (look_run id s), h.reached, h.inScratch, h.whole,
    Core.undefinedCache, h.defined, hentry, hwt,
    bind_ok (orWait_of_ok (f := (·.storeHbm e.q pa (normalize v) false true)) hstore), hafter]

end

/-! ### What an instruction leaves -/

@[simp] theorem State.finishA_mem (s : State) (e : Env) (c : Cell) : (s.finishA e c).mem = s.mem := by
  simp only [State.finishA, State.finish, State.moveTo_mem, State.modRegs_mem]

/-- A cell depends on memory alone. -/
theorem State.cell_of_mem {s t : State} (h : t.mem = s.mem) (pa : Nat) : t.cell pa = s.cell pa := by
  simp only [State.cell, h]

theorem OneCell.normalize_iff {s t : State} {pa : Nat} {v : Cell} : OneCell s t pa (normalize v) ↔ OneCell s t pa v := by
  rw [OneCell, OneCell, normalize_normalize]

theorem OneCell.of_mem {s t u : State} {pa : Nat} {v : Cell} (h : OneCell s t pa v) (hm : u.mem = t.mem) : OneCell s u pa v :=
  ⟨by rw [State.cell_of_mem hm, h.1], fun a ha => by rw [hm, h.2 a ha]⟩

theorem OneCell.moveTo {s t : State} {pa : Nat} {v : Cell} (h : OneCell s t pa v) (q : Cx) (a : Nat) :
    OneCell s (t.moveTo q a) pa v :=
  h.of_mem (t.moveTo_mem q a)

section
variable {s t u : State} {q : Cx} {r : Regs}

theorem Becomes.refl (s : State) (q : Cx) : Becomes s s q (s.regs q) :=
  ⟨rfl, fun _ _ => rfl, rfl, rfl, rfl, rfl, ⟨rfl, rfl, rfl, rfl, rfl, rfl, rfl, rfl, rfl⟩, rfl⟩

/-- A change of memory and caches beside. -/
theorem Becomes.memory (h : Becomes s t q r) (k : SameButMemory t u) : Becomes s u q r := by
  obtain ⟨a1, a2, a3, a4, a5, a6, a7, a8, a9⟩ := h.devices
  obtain ⟨b1, b2, b3, b4, b5, b6, b7, b8, b9⟩ := k.devices
  exact ⟨(k.regs q).trans h.own, fun p hp => (k.regs p).trans (h.others p hp), k.records.trans h.records, k.aux.trans h.aux,
    k.channels.trans h.channels, k.heap.trans h.heap, ⟨b1.trans a1, b2.trans a2, b3.trans a3, b4.trans a4, b5.trans a5,
      b6.trans a6, b7.trans a7, b8.trans a8, b9.trans a9⟩, k.queue.trans h.queue⟩

/-- A change of the slot's registers beside. -/
theorem Becomes.modRegs (h : Becomes s t q r) (f : Regs → Regs) : Becomes s (t.modRegs q f) q (f r) :=
  ⟨by rw [State.regs_modRegs_self, h.own], fun p hp => by rw [State.regs_modRegs_ne _ _ hp, h.others p hp], h.records, h.aux,
    h.channels, h.heap, h.devices, h.queue⟩

theorem Becomes.moveTo (h : Becomes s t q r) (a : Nat) : Becomes s (t.moveTo q a) q { r with pc := BitVec.ofNat 64 a } :=
  h.modRegs _

/-- The end of an instruction that gives A a cell. -/
theorem Becomes.finishA {e : Env} (h : Becomes s t e.q r) (c : Cell) :
    Becomes s (t.finishA e c) e.q { r with a := normalize c, pc := BitVec.ofNat 64 e.next } :=
  (h.modRegs _).moveTo _

end

/-! ### CAR, CDR, SETCAR and SETCDR -/

section
variable {s t : State} {i : Issue} {n : Nat} {op : BitVec 8} {o : MOp} {e : Env} {c : Cell} {fa pa off : Nat}

theorem checkReserved_of_is {tag : Nat} (hc : Is c tag) (opn faddr : Nat) (s : State) :
    checkReserved e c opn faddr s = .ok ((), s) := by
  simp [checkReserved, hc.2]

theorem checkTag_of_true {ok : Bool} (h : ok = true) (opn faddr : Nat) (s : State) : checkTag e ok opn faddr s = .ok ((), s) := by
  simp [checkTag, h]

/-- CAR and CDR of a cons give the cell `off` bytes after its address (R121). -/
theorem carForm_of_cons (hu : e.user = false) (hc : Is c tagCONS) (hp : Plain t e (c.pay + off) pa) (hr : Reads s e o 1 c fa t)
    (h : IssuesM s i n op o e) : carForm i op o off s = (t.ocTouch e.q.core pa false).finishA e (t.cell pa) := by
  have hv : consCell e c off 1 t = .ok (t.cell pa, t.ocTouch e.q.core pa false) := by
    simp only [consCell, hc.1]
    exact loadCell_of_plain hu hp 1
  refine mRead_of_reads h hr _ ?_
  show (checkReserved e c 1 fa >>= fun _ => checkTag e (isList c) 1 fa >>= fun _ => consCell e c off 1 >>= setA e) t = _
  rw [bind_ok (checkReserved_of_is hc 1 fa t), bind_ok (checkTag_of_true (by simp [isList, hc.1]) 1 fa t), bind_ok hv, setA_run]

/-- SETCAR and SETCDR store A in the cell `off` bytes after the address of a cons (R121). -/
theorem setCarForm_of_cons (hu : e.user = false) (hc : Is c tagCONS) (hp : Plain t e (c.pay + off) pa)
    (hr : Reads s e o 2 c fa t) (h : IssuesM s i n op o e) :
    setCarForm i op o off s = (t.storedBack e.q pa (normalize (t.regs e.q).a) true).moveTo e.q e.next := by
  have hauth : consAuth e c = .all := by simp [consAuth, hu]
  refine mRead_of_reads h hr _ ?_
  show (regsM e >>= fun r => checkReserved e c 2 fa >>= fun _ => checkTag e (c.tag == tagCONS) 2 fa >>= fun _ =>
    storeCell e (consAuth e c) (c.pay + off) 2 r.a) t = _
  rw [bind_ok (regsM_run e t), bind_ok (checkReserved_of_is hc 2 fa t), bind_ok (checkTag_of_true (by simp [hc.1]) 2 fa t), hauth,
    storeCell_of_plain hu hp 2 (t.regs e.q).a true]

theorem carForm_spec (hu : e.user = false) (hc : Is c tagCONS) (hp : Plain t e (c.pay + off) pa) (hr : Reads s e o 1 c fa t)
    (h : IssuesM s i n op o e) : ∃ u : State, (.next (carForm i op o off s) : Out) = .next u ∧
      Becomes t u e.q { t.regs e.q with a := normalize (t.cell pa), pc := BitVec.ofNat 64 e.next } ∧ u.mem = t.mem := by
  have hk := t.caches_ocTouch e.q.core pa false
  rw [carForm_of_cons hu hc hp hr h]
  exact ⟨_, rfl, ((Becomes.refl t e.q).memory hk.sameButMemory).finishA (t.cell pa), by rw [State.finishA_mem, hk.mem]⟩

theorem setCarForm_spec (hu : e.user = false) (hc : Is c tagCONS) (hp : Plain t e (c.pay + off) pa)
    (hr : Reads s e o 2 c fa t) (h : IssuesM s i n op o e) : ∃ u : State, (.next (setCarForm i op o off s) : Out) = .next u ∧
      Becomes t u e.q { t.regs e.q with pc := BitVec.ofNat 64 e.next } ∧ OneCell t u pa (t.regs e.q).a := by
  obtain ⟨hs, hone⟩ := t.storedBack_spec e.q pa (normalize (t.regs e.q).a) true
  rw [OneCell.normalize_iff] at hone
  rw [setCarForm_of_cons hu hc hp hr h]
  exact ⟨_, rfl, ((Becomes.refl t e.q).memory hs).moveTo e.next, hone.moveTo e.q e.next⟩

end

/-! ### CONS -/

section
variable {s t : State} {i : Issue} {n : Nat} {o : MOp} {e : Env} {c : Cell} {fa : Nat}

/-- An allocation that fits below HL takes its cells at H (R122). -/
theorem reserve_of_room {a cells : Nat} {cons : Bool} (hh : (t.regs e.q).h.toNat = a) (hpad : (cons && a % 32 == 16) = false)
    (hroom : a + 16 * cells ≤ (t.regs e.q).hl.toNat) :
    reserve e cells cons t = .ok (a, t.modRegs e.q fun r => { r with h := BitVec.ofNat 64 (a + 16 * cells) }) := by
  have hset : setH e (a + 16 * cells) (t.regs e.q).hl.toNat t =
      .ok ((), t.modRegs e.q fun r => { r with h := BitVec.ofNat 64 (a + 16 * cells) }) := by
    rw [setH, modRegsM_run, State.modRegs_congr]
    simp
  have hzero : ((0 : Nat) == 16) = false := rfl
  simp only [reserve, bind_ok (regsM_run e t), hh, hpad, Bool.false_eq_true, if_false, Nat.add_zero, if_pos hroom, hzero]
  rw [bind_ok hset, pure_run]

/-- With the heap off no object is noted in the block table. -/
theorem State.noteObject_of_noHeap (s : State) (h : s.heap.en = false) (a cells : Nat) (cons : Bool) :
    s.noteObject a cells cons = s := by
  simp [State.noteObject, State.inWindow, h]

/-- A page is whole pages of 16 KiB, so a translation keeps the place within one (R253). -/
theorem TlbEntry.pa_mod (t : TlbEntry) (va : Nat) : t.pa va % 2 ^ 14 = va % 2 ^ 14 := by
  have hsize : 2 ^ 14 ∣ t.size := by
    unfold TlbEntry.size
    split
    · exact dvd_rfl
    · split
      · exact ⟨2 ^ 7, by norm_num⟩
      · exact ⟨2 ^ 16, by norm_num⟩
  rw [TlbEntry.pa, Nat.add_mod, Nat.mod_mod_of_dvd _ hsize, Nat.dvd_iff_mod_eq_zero.mp (hsize.mul_left _), Nat.zero_add,
    Nat.mod_mod]

/-- The two cells of an aligned cons lie in one granule. -/
theorem Plain.cons_granule {va pa : Nat} (h : Plain t e va pa) (ha : va % 32 = 0) : (pa + 16) / 128 = pa / 128 := by
  obtain ⟨x, -, -, -, -, -, rfl⟩ := h.page
  have := x.pa_mod va
  omega

/-- A cell apart from the one written stays. -/
theorem OneCell.apart {u : State} {pa pb : Nat} {v : Cell} (h : OneCell s u pa v) (hb : Apart pb pa) : u.cell pb = s.cell pb := by
  unfold State.cell
  rw [readBytes_congr _ s.mem 16 pb fun a h1 h2 => h.2 a (by rcases hb with hb | hb <;> omega)]

theorem execCons_spec {h pa : Nat} (hu : e.user = false) (hr : Reads s e o 2 c fa t) (hi : IssuesM s i n 0x82 o e)
    (hh : (t.regs e.q).h.toNat = h) (ha : h % 32 = 0) (hl : h % 512 ≠ 0) (hroom : h + 32 ≤ (t.regs e.q).hl.toNat)
    (hp : Plain t e h pa) (hq : Plain t e (h + 16) (pa + 16)) : ∃ u : State, exec (.cons i o) s = .next u ∧
      Becomes t u e.q { t.regs e.q with
        h := (t.regs e.q).h + 32, a := normalize (mkCell tagCONS t.heap.good 0 h), pc := BitVec.ofNat 64 e.next } ∧
      u.cell pa = normalize (t.regs e.q).a ∧ u.cell (pa + 16) = normalize c ∧
      ∀ a, a < pa ∨ pa + 32 ≤ a → readByte u.mem a = readByte t.mem a := by
  have hreserve := reserve_of_room (t := t) (e := e) (cells := 2) (cons := true) hh (by simp [ha]) hroom
  generalize ht1 : (t.modRegs e.q fun r => { r with h := BitVec.ofNat 64 (h + 16 * 2) }) = t1 at hreserve
  have hs1 : Storable t1 e h pa := ht1 ▸ hp.storable.modRegs _
  obtain ⟨x, -, hx⟩ := hs1.translate 0
  have hstore1 := hs1.allocStore (t.regs e.q).a
  have hs2 := (ht1 ▸ hq.storable.modRegs _ : Storable t1 e (h + 16) (pa + 16)).storedBack (normalize (t.regs e.q).a) true
    (hp.cons_granule ha)
  have hstore2 := hs2.allocStore c
  obtain ⟨hsame1, hone1⟩ := t1.storedBack_spec e.q pa (normalize (t.regs e.q).a) true
  generalize t1.storedBack e.q pa (normalize (t.regs e.q).a) true = t2 at *
  obtain ⟨hsame2, hone2⟩ := t2.storedBack_spec e.q (pa + 16) (normalize c) true
  generalize t2.storedBack e.q (pa + 16) (normalize c) true = t3 at *
  have hheap : t3.heap = t.heap := by rw [hsame2.heap, hsame1.heap, ← ht1, State.modRegs_heap]
  have hrun : exec (.cons i o) s = .next (t3.finishA e (mkCell tagCONS t.heap.good 0 h)) := by
    refine congrArg _ (mRead_of_reads hi hr _ ?_)
    show (regsM e >>= fun r => checkGlobal e r.a 1 >>= fun _ => checkGlobal e c 2 >>= fun _ => reserve e 2 true >>= fun a =>
      Machine.translate e .store a 0 >>= fun _ => checkSystem e r.a 1 >>= fun _ => checkSystem e c 2 >>= fun _ =>
      Machine.allocStore e (a % 512 == 0) a r.a >>= fun _ => Machine.allocStore e false (a + 16) c >>= fun _ =>
      act (fun s => s.noteObject a 2 true) >>= fun _ => refTo tagCONS a >>= setA e) t = _
    have hglobal : ∀ x opn, checkGlobal e x opn = pure () := fun x opn => by simp [checkGlobal, hu]
    have hsystem : ∀ x opn, checkSystem e x opn = pure () := fun x opn => by simp [checkSystem, hu]
    have hline : (h % 512 == 0) = false := by simpa using hl
    have hoff : t3.heap.en = false := by rw [hheap, hp.noHeap]
    simp only [hglobal, hsystem, pure_bind]
    rw [bind_ok (regsM_run e t), bind_ok hreserve, bind_ok hx, hline, bind_ok hstore1, bind_ok hstore2, bind_ok (act_run _ t3),
      t3.noteObject_of_noHeap hoff, refTo, bind_ok (look_run _ t3), hheap, setA_run]
  have hregs : Becomes t t1 e.q { t.regs e.q with h := (t.regs e.q).h + 32 } := by
    have hadd : BitVec.ofNat 64 (h + 16 * 2) = (t.regs e.q).h + 32 := by rw [← hh]; bv_omega
    rw [← hadd, ← ht1]
    exact (Becomes.refl t e.q).modRegs _
  have hmem : t1.mem = t.mem := by rw [← ht1, State.modRegs_mem]
  refine ⟨_, hrun, ((hregs.memory hsame1).memory hsame2).finishA _, ?_, ?_, fun a ha => ?_⟩
  · rw [State.cell_of_mem (State.finishA_mem t3 e _), hone2.apart (.inl (by omega)), hone1.1, normalize_normalize]
  · rw [State.cell_of_mem (State.finishA_mem t3 e _), hone2.1, normalize_normalize]
  · rw [State.finishA_mem, hone2.2 a (by omega), hone1.2 a (by omega), hmem]

end

end Sys2Proof.Machine

namespace Sys2Proof.Machine

/-! ### ASTEP (R123) -/

section
variable {s t : State} {i : Issue} {n : Nat} {o : MOp} {e : Env}

/-- A register operand without a displacement reads as the register does, and moves nothing (R98). -/
theorem readOpd_reg (hm : o.mode = 0) (opn : Nat) (s : State) :
    readOpd e o opn s = .ok (((s.regs e.q).read o.base.toNat, 0), s) := by
  have hform : formOpd e o opn s = .ok (.reg o.base.toNat, s) := by
    rw [formOpd, bind_ok (regsM_run e s), hm]
    rfl
  rw [readOpd, bind_ok hform]
  rfl

/-- An association step with a register operand that starts anew does what one search step does. -/
theorem execAstep_of_searchStep {b : Bool} (hf : Fresh s e) (hm : o.mode = 0) (hd : o.disp = 0) (hb : o.base.toNat ≤ 6)
    (h : IssuesM s i n 0x85 o e)
    (hs : searchStep e o none (s.started e) = .ok ((b, (s.regs e.q).read o.base.toNat), t)) :
    exec (.astep i o) s = .next (t.moveTo e.q e.next) := by
  have hk : o.fieldsOk false = true := by simp [MOp.fieldsOk, hm, hd, hb]
  have hdec := decodes_plain (s := s) (e := e) (o := o) hk (by simp [MOp.privBase, hm]) (by simp [MOp.hasExt, hm])
  rw [State.clearResume_of_clear (by simpa [Fresh] using hf)] at hdec
  refine congrArg _ ((mForm_of_decodes h hdec _).trans ?_)
  have hiter : iterate e opASTEP o none (s.started e) = .ok ((b, some ((s.regs e.q).read o.base.toNat)), t) := by
    simp only [iterate, beq_self_eq_true, if_true]
    rw [bind_ok hs, pure_run]
  show settle (s.started e) e ((iterate e opASTEP o none >>= fun p => endIterations e opASTEP p.1 >>= fun _ => pure Flow.next)
    (s.started e)) = _
  rw [bind_ok hiter]
  rfl

/-- A search step with a register operand reads its key there. -/
theorem searchStep_of_key (hm : o.mode = 0) (s : State) : searchStep e o none s =
    searchStep e o (some ((s.regs e.q).read o.base.toNat)) s := by
  rw [searchStep, searchStep]
  rw [bind_ok (pure_run _ s), bind_ok (readOpd_reg hm 2 s)]
  exact bind_ok (pure_run _ s)

theorem searchStep_nil {key : Cell} (ha : Is (s.regs e.q).a tagCONST) (h0 : (s.regs e.q).a.pay = 0) :
    searchStep e o (some key) s = .ok ((true, key), s) := by
  have hlist : isList (s.regs e.q).a = true := by simp [isList, ha.1, h0]
  simp only [searchStep]
  rw [bind_ok (pure_run key s), bind_ok (regsM_run e s), bind_ok (checkReserved_of_is ha 1 0 s),
    bind_ok (checkTag_of_true hlist 1 0 s)]
  simp [ha.1]

/-- At an entry of the list, once the entry and its CAR have been loaded, the answer rests on the key alone. -/
theorem searchStep_entry {key : Cell} {pe pk : Nat} (hu : e.user = false) (ha : Is (s.regs e.q).a tagCONS)
    (hpe : Plain s e (s.regs e.q).a.pay pe) (he : Is (s.cell pe) tagCONS) (hpk : Plain s e (s.cell pe).pay pk) :
    searchStep e o (some key) s =
      (if eqCell (s.cell pk) key = true then setA e (s.cell pe) >>= fun _ => pure (true, key)
      else loadCell e .all ((s.regs e.q).a.pay + 16) 1 >>= fun d => setA e d >>= fun _ => pure (false, key))
        ((s.ocTouch e.q.core pe false).ocTouch e.q.core pk false) := by
  have hload := loadCell_of_plain hu (hpk.ocTouch pe false) 1
  rw [State.cell_of_mem (s.caches_ocTouch e.q.core pe false).mem] at hload
  simp only [searchStep]
  rw [bind_ok (pure_run key s), bind_ok (regsM_run e s), bind_ok (checkReserved_of_is ha 1 0 s),
    bind_ok (checkTag_of_true (by simp [isList, ha.1]) 1 0 s), ha.1]
  rw [if_neg (by decide), bind_ok (loadCell_of_plain hu hpe 1), bind_ok (checkReserved_of_is he 1 _ _),
    bind_ok (checkTag_of_true (by simp [he.1]) 1 _ _), bind_ok hload]

/-- What an association step leaves where it gives A a cell that it has loaded: the loads touched the caches alone. -/
theorem astep_gives {u : State} {c : Cell} {b : Bool} (hf : Fresh s e) (hm : o.mode = 0) (hd : o.disp = 0)
    (hb : o.base.toNat ≤ 6) (h : IssuesM s i n 0x85 o e) (hc : CachesOnly (s.started e) u)
    (hs : searchStep e o (some ((s.regs e.q).read o.base.toNat)) (s.started e) =
      (setA e c >>= fun _ => pure (b, (s.regs e.q).read o.base.toNat)) u) :
    ∃ t : State, exec (.astep i o) s = .next (t.finishA e c) ∧ SameButMemory s t ∧ t.mem = s.mem := by
  have hall := (s.caches_started e).trans hc
  refine ⟨u, execAstep_of_searchStep (b := b) hf hm hd hb h ?_, hall.sameButMemory, hall.mem⟩
  rw [searchStep_of_key hm, State.started_regs, hs, bind_ok (setA_run e c u), pure_run]

theorem execAstep_spec {pe pk pd : Nat} (hu : e.user = false) (hf : Fresh s e) (hm : o.mode = 0) (hd : o.disp = 0)
    (hb : o.base.toNat ≤ 6) (h : IssuesM s i n 0x85 o e) (ha : Is (s.regs e.q).a tagCONS)
    (hpe : Plain (s.started e) e (s.regs e.q).a.pay pe) (he : Is (s.cell pe) tagCONS)
    (hpk : Plain (s.started e) e (s.cell pe).pay pk) :
    (eqCell (s.cell pk) ((s.regs e.q).read o.base.toNat) = true → ∃ t : State,
      exec (.astep i o) s = .next (t.finishA e (s.cell pe)) ∧ SameButMemory s t ∧ t.mem = s.mem) ∧
    (eqCell (s.cell pk) ((s.regs e.q).read o.base.toNat) = false → Plain (s.started e) e ((s.regs e.q).a.pay + 16) pd →
      ∃ t : State, exec (.astep i o) s = .next (t.finishA e (s.cell pd)) ∧ SameButMemory s t ∧ t.mem = s.mem) := by
  have hcell : ∀ p, (s.started e).cell p = s.cell p := State.cell_of_mem (s.started_mem e)
  have hregs : (s.started e).regs e.q = s.regs e.q := State.started_regs s e e.q
  have ha' : Is ((s.started e).regs e.q).a tagCONS := by rw [hregs]; exact ha
  have hpe' : Plain (s.started e) e ((s.started e).regs e.q).a.pay pe := by rw [hregs]; exact hpe
  have he' : Is ((s.started e).cell pe) tagCONS := by rw [hcell]; exact he
  have hpk' : Plain (s.started e) e ((s.started e).cell pe).pay pk := by rw [hcell]; exact hpk
  have htouch := (State.caches_ocTouch (s.started e) e.q.core pe false).trans (State.caches_ocTouch _ e.q.core pk false)
  have hstep := searchStep_entry (s := s.started e) (o := o) (key := (s.regs e.q).read o.base.toNat) hu ha' hpe' he' hpk'
  rw [hcell, hcell, hregs] at hstep
  refine ⟨fun hkey => ?_, fun hkey hpd => ?_⟩
  · rw [if_pos hkey] at hstep
    exact astep_gives hf hm hd hb h htouch hstep
  · have hload := loadCell_of_plain hu ((hpd.ocTouch pe false).ocTouch pk false) 1
    rw [State.cell_of_mem htouch.mem, hcell] at hload
    rw [if_neg (by simp [hkey]), bind_ok hload] at hstep
    exact astep_gives hf hm hd hb h (htouch.trans (State.caches_ocTouch _ e.q.core pd false)) hstep

theorem execAstep_nil (hf : Fresh s e) (hm : o.mode = 0) (hd : o.disp = 0) (hb : o.base.toNat ≤ 6) (h : IssuesM s i n 0x85 o e)
    (ha : Is (s.regs e.q).a tagCONST) (h0 : (s.regs e.q).a.pay = 0) :
    exec (.astep i o) s = .next ((s.started e).moveTo e.q e.next) := by
  refine execAstep_of_searchStep (b := true) hf hm hd hb h ?_
  rw [searchStep_of_key hm, searchStep_nil (by rwa [State.started_regs]) (by rwa [State.started_regs]), State.started_regs]

end

/-- Settles O25: every cell of a list that an instruction reaches stays plain through the accesses before. -/
theorem consesAndAssociationLists : Obligations.ConsesAndAssociationLists := by
  refine ⟨fun s t i n o e c fa pa pd hu => ⟨fun hc hpa hpd => ⟨fun hr => ⟨carForm_spec hu hc hpa hr, carForm_spec hu hc hpd hr⟩,
    fun hr => ⟨setCarForm_spec hu hc hpa hr, setCarForm_spec hu hc hpd hr⟩⟩, fun h => execCons_spec hu⟩, ?_⟩
  intro s i n o e pe pk pd hu hf hm hd hb h
  exact ⟨execAstep_nil hf hm hd hb h, execAstep_spec hu hf hm hd hb h⟩

end Sys2Proof.Machine

/-! ## Allocations (O26) -/

namespace Sys2Proof.Machine

/-! ### A string whose hold writes the block table: O26 does not hold

Step 1 of SALLOC makes the string a work object, and the hold counts `PIN` of its block up (R186). `State.pin` asks for the
window of the heap alone, not for `EN`: with the heap hardware off and `VBASE` 0 the string at 0x110 is in the window, and the
entry of block 0 in the table at `BTADDR` 0, a cell apart from the header, changes. -/

section
set_option Elab.async false

/-- The page of the string: 16 KiB from virtual address 0 at HBM 0x10000, write-back. -/
def sallocPage : TlbEntry :=
  { sz := 0, g := true, vpn := 0, asid := 0, pfn := 4, dev := false, wt := false, u := true, x := true, w := true, r := true }

/-- Context 5 runs at machine level in slot 0 of core 0 and allocates at 0x110. Core 0 maps `sallocPage`, and its
object cache holds the line of the header. The heap hardware is as reset leaves it: off. -/
def sallocState : State :=
  let s := State.reset.setRec 5 24 (mkCell tagRAW 0 (2 * 2 ^ 17 + 2 ^ 16) 0)
  let s := s.modSlot ⟨0, 0⟩ (fun v => { v with ctx := some 5, regs :=
    { pc := 0x1000, st := 0x8000000000000000, h := 0x110, hl := 0x130 } })
  s.modCore 0 (fun k => { k with
    den := true, ocDefined := true, oc := [⟨128, 15, 0, false⟩], tlb := [(20, some sallocPage)] })

/-- SALLOC of eight bytes: the count is an immediate. -/
def sallocOpd : MOp := { mode := 4, base := 0, disp := 8 }

def sallocIssue : Issue := { core := 0, slot := 0, parity := .none }

def sallocEnv : Env := sallocState.envAt (Cx.of sallocIssue) 5 (mWord 0x91 sallocOpd) sallocOpd.slots

/-- What the read of the immediate leaves. -/
def sallocRead : State := (sallocState.started sallocEnv).clearResume sallocEnv.q

/-- What step 1 of SALLOC leaves. -/
def sallocLeft : State := match exec (.salloc sallocIssue sallocOpd) sallocState with
  | .next u => u
  | _ => sallocState

theorem sallocIssues : IssuesM sallocState sallocIssue 5 0x91 sallocOpd sallocEnv := by
  refine ⟨⟨by decide +kernel, by decide +kernel, ?_, by decide +kernel, rfl⟩, rfl, by decide +kernel⟩
  rfl

theorem sallocReads : Reads sallocState sallocEnv sallocOpd 1 (mkFIX 8) 0 sallocRead := by
  have hdec := decodes_plain (s := sallocState) (e := sallocEnv) (o := sallocOpd) (ok := true) (by decide) (by decide) (by decide)
  exact bind_ok hdec

theorem sallocPlain : Plain sallocRead sallocEnv 0x110 0x10110 where
  page := ⟨sallocPage, by decide +kernel⟩
  hbm := by decide
  calm := by decide +kernel
  whole := by decide +kernel
  unlocked := by decide +kernel
  noHeap := by decide +kernel
  noBuffer := by decide +kernel
  noMerge := by decide +kernel
  cached := by decide +kernel
  defined := by decide +kernel
  main := by decide +kernel
  hit := by decide +kernel

/-- The entry of block 0 counts the hold; the cell at 0 is not the header. -/
theorem sallocPins : readByte sallocLeft.mem 12 = 1 ∧ readByte sallocRead.mem 12 = 0 := by decide +kernel

end

/-- Refutes O26: the hold of the string in step 1 of SALLOC changes the block table though the heap hardware is off. -/
theorem not_allocationsWriteTheirHeader : ¬ Obligations.AllocationsWriteTheirHeader := by
  rintro ⟨-, h⟩
  obtain ⟨u, hu, ⟨-, hsame⟩, -⟩ := h sallocState sallocRead sallocIssue 5 sallocOpd sallocEnv (mkFIX 8) 0 0x10110 0x110 8
    (by decide +kernel) (by decide) sallocReads sallocIssues (by decide +kernel) (by decide) sallocPlain (by decide) (by decide)
    (by decide) (by decide +kernel)
  have hleft : sallocLeft = u := by rw [sallocLeft, hu]
  have h12 := hsame 12 (by decide)
  rw [← hleft, sallocPins.1, sallocPins.2] at h12
  exact absurd h12 (by decide)

end Sys2Proof.Machine

/-! ## The host's functions and windows (O59) -/

namespace Sys2Proof.Machine

/-! ### The functions' state -/

/-- A function with no request under way (R396). -/
def Func.emptied (x : Func) : Func := { x with reqpc := 0, rspcc := 0, rsppc := 0, taken := 0 }

/-- A function whose mailbox service has ended (R389, R396). -/
def Func.ended (x : Func) : Func := { x.emptied with en := false, fen := false, rdy := false, ver := 0 }

/-- The mailbox service of a function is off, and its counts are empty. -/
def Func.Off (y : Func) : Prop :=
  y.en = false ∧ y.fen = false ∧ y.rdy = false ∧ y.ver = 0 ∧ y.reqpc = 0 ∧ y.rspcc = 0 ∧ y.rsppc = 0

theorem Func.off_ended (x : Func) : x.ended.Off := ⟨rfl, rfl, rfl, rfl, rfl, rfl, rfl⟩

section
variable (s : State) (f : Nat)

theorem State.func_of_funcs {s t : State} (h : t.funcs = s.funcs) (g : Nat) : t.func g = s.func g := by
  rw [State.func, State.func, h]

@[simp] theorem State.func_modFunc_self (g : Func → Func) : (s.modFunc f g).func f = g (s.func f) :=
  s.func_setFunc_self f _

theorem State.func_modFunc_ne (g : Func → Func) {k : Nat} (h : k ≠ f) : (s.modFunc f g).func k = s.func k :=
  s.func_setFunc_ne f _ h

theorem State.funcs_mailboxReset : (s.mailboxReset f).funcs = (s.modFunc f Func.emptied).funcs := rfl

theorem State.func_mailboxReset : (s.mailboxReset f).func f = (s.func f).emptied :=
  (State.func_of_funcs (s.funcs_mailboxReset f) f).trans (s.func_modFunc_self f _)

theorem State.func_stopMailbox : (s.stopMailbox f).func f = (s.func f).ended := by
  rw [State.stopMailbox, State.func_modFunc_self, State.func_mailboxReset, Func.ended]

theorem State.func_stopMailbox_ne {k : Nat} (h : k ≠ f) : (s.stopMailbox f).func k = s.func k :=
  (State.func_modFunc_ne _ _ _ h).trans
    ((State.func_of_funcs (s.funcs_mailboxReset f) k).trans (s.func_modFunc_ne f _ h))

end

/-! ### The control window (R388 to R390, R396) -/

section
variable {s : State} {f : Nat} {v : Word64}

/-- The model's bit of a word is the library's. -/
theorem bit_eq (v : Word64) (n : Nat) : bit v n = v.getLsbD n := rfl

/-- The version that an offer of three bits stands for (R389). -/
theorem offer_version (v : Word64) :
    let offer := v.toNat / 16 % 8
    let set := if offer == 0 then 1 else offer % 8
    (if set.testBit 2 then ver30 else if set.testBit 1 then ver21 else if set.testBit 0 then ver12 else 0) =
      if v.getLsbD 6 then 0x0300 else if v.getLsbD 5 then 0x0201 else 0x0102 := by
  have h6 : v.getLsbD 6 = (v.toNat / 16 % 8).testBit 2 := by
    rw [show 8 = 2 ^ 3 from rfl, Nat.testBit_mod_two_pow, show 16 = 2 ^ 4 from rfl, Nat.testBit_div_two_pow]
    rfl
  have h5 : v.getLsbD 5 = (v.toNat / 16 % 8).testBit 1 := by
    rw [show 8 = 2 ^ 3 from rfl, Nat.testBit_mod_two_pow, show 16 = 2 ^ 4 from rfl, Nat.testBit_div_two_pow]
    rfl
  rw [h6, h5]
  have hlt : v.toNat / 16 % 8 < 8 := Nat.mod_lt _ (by decide)
  generalize v.toNat / 16 % 8 = n at hlt ⊢
  revert n
  decide

/-- Negotiation takes the highest version offered, or 1.2 where none is offered, and empties the counts (R389). -/
theorem State.func_negotiate (h : (s.func f).offer = v.toNat / 16 % 8) : (s.negotiate f).func f =
    { (s.func f).emptied with
      en := true, fen := true, rdy := false
      ver := if v.getLsbD 6 then 0x0300 else if v.getLsbD 5 then 0x0201 else 0x0102 } := by
  rw [State.negotiate, h]
  simp only [offer_version v]
  have hne : ((if v.getLsbD 6 then 0x0300 else if v.getLsbD 5 then 0x0201 else 0x0102) == 0) = false := by
    split
    · rfl
    · split <;> rfl
  rw [hne, if_neg Bool.false_ne_true, State.func_modFunc_self, State.func_mailboxReset]

/-- A write of OHPCTL by its three cases: MRST, FEN where the service is off, FEN cleared (R388, R389, R396). -/
theorem State.func_ohpctl_negotiates (h0 : v.getLsbD 0 = true) (h1 : v.getLsbD 1 = false) (hen : (s.func f).en = false) :
    (s.ohpctl f v).func f = { (s.func f).emptied with
      offer := v.toNat / 16 % 8, en := true, fen := true, rdy := false
      ver := if v.getLsbD 6 then 0x0300 else if v.getLsbD 5 then 0x0201 else 0x0102 } := by
  have hf : (s.modFunc f (fun x => { x with offer := field v 6 4 })).func f = { s.func f with offer := field v 6 4 } :=
    s.func_modFunc_self f _
  simp only [State.ohpctl, bit_eq, h0, h1, if_true, Bool.false_eq_true, if_false, hf, hen]
  rw [State.func_negotiate (v := v) (by rw [hf]; rfl), hf]
  rfl

theorem State.func_ohpctl_empties (h0 : v.getLsbD 0 = true) (h1 : v.getLsbD 1 = true) (hen : (s.func f).en = true) :
    (s.ohpctl f v).func f = { (s.func f).emptied with offer := v.toNat / 16 % 8 } := by
  have hf : ((s.modFunc f (fun x => { x with offer := field v 6 4 })).mailboxReset f).func f =
      { (s.func f).emptied with offer := field v 6 4 } := by
    rw [State.func_mailboxReset, State.func_modFunc_self]
    rfl
  simp only [State.ohpctl, bit_eq, h0, h1, if_true, hf, Func.emptied, hen]
  rfl

theorem State.off_ohpctl (h0 : v.getLsbD 0 = false) : ((s.ohpctl f v).func f).Off := by
  simp only [State.ohpctl, bit_eq, h0, Bool.false_eq_true, if_false]
  rw [State.func_stopMailbox]
  exact Func.off_ended _

theorem State.ifOpen_of_open {t : State} (hr : s.mainRuns = true) (hm : (s.func f).mse = true) : s.ifOpen f t = t := by
  rw [State.ifOpen, hr, hm]
  rfl

theorem State.ifOpen_of_shut {t : State} (h : (s.func f).mse = false ∨ s.mainRuns = false) : s.ifOpen f t = s := by
  rw [State.ifOpen]
  rcases h with h | h <;> simp [h]

/-! ### Doorbells (R390, R465, R509) -/

/-- How far a count is ahead of the responses consumed, in 16 bits (R390). -/
def Func.ahead (x : Func) (c : Nat) : Nat := (c + 65536 - x.rspcc) % 65536

theorem State.dbreq_takes (hen : (s.func f).en = true) (hd : (s.func f).ahead (v.toNat % 2 ^ 16) ≤ (s.func f).depth)
    (hf : (s.func f).ahead (s.func f).reqpc ≤ (s.func f).ahead (v.toNat % 2 ^ 16)) : s.dbreq f v =
      (s.setFunc f { s.func f with reqpc := v.toNat % 2 ^ 16 }).wakeTo 3 := by
  have hfield : field v 15 0 = v.toNat % 2 ^ 16 := by simp [field]
  rw [State.dbreq, hfield]
  rw [if_neg (by simp [hen]), if_neg (by simpa [Func.ahead] using And.intro hd hf)]

theorem State.func_signal_errs (s : State) (f n : Nat) : ((s.signal f n).func f).merr = (s.func f).merr ∧
    ((s.signal f n).func f).reqpc = (s.func f).reqpc := by
  simp only [State.signal]
  split
  · exact ⟨rfl, rfl⟩
  · rw [State.func_setFunc_self]
    exact ⟨rfl, rfl⟩

/-- A doorbell that goes back or beyond the depth sets MERR and is not taken (R390). -/
theorem State.dbreq_refuses (hen : (s.func f).en = true)
    (h : (s.func f).depth < (s.func f).ahead (v.toNat % 2 ^ 16) ∨
      (s.func f).ahead (v.toNat % 2 ^ 16) < (s.func f).ahead (s.func f).reqpc) :
    ((s.dbreq f v).func f).merr = true ∧ ((s.dbreq f v).func f).reqpc = (s.func f).reqpc := by
  have hfield : field v 15 0 = v.toNat % 2 ^ 16 := by simp [field]
  have herrs : s.dbreq f v = s.setErrs f (s.func f).verr true := by
    rw [State.dbreq, hfield]
    rw [if_neg (by simp [hen]), if_pos (by simpa [Func.ahead] using h)]
  rw [herrs]
  simp only [State.setErrs]
  split
  · rw [(State.func_signal_errs _ f 1).1, (State.func_signal_errs _ f 1).2, State.func_setFunc_self]
    exact ⟨rfl, rfl⟩
  · rw [State.func_setFunc_self]
    exact ⟨rfl, rfl⟩

end
end Sys2Proof.Machine

namespace Sys2Proof.Machine

section
variable {s t : State} {f : Nat} {v : Word64}

/-! ### What a frame says of the functions and the outputs -/

theorem KeepsAllBut.funcs {ps : List Part} (h : KeepsAllBut s t ps) (hp : .host ∉ ps := by decide) : t.funcs = s.funcs :=
  (h.2 .host hp).1

theorem KeepsAllBut.boot {ps : List Part} (h : KeepsAllBut s t ps) (hp : .boot ∉ ps := by decide) : t.boot = s.boot :=
  h.2 .boot hp

theorem KeepsAllBut.out {ps : List Part} (h : KeepsAllBut s t ps) (hp : .output ∉ ps := by decide) : t.out = s.out :=
  h.2 .output hp

theorem KeepsAllBut.channels {ps : List Part} (h : KeepsAllBut s t ps) (hp : .channels ∉ ps := by decide) :
    t.channels = s.channels :=
  h.2 .channels hp

/-! ### DBAPP (R388, R390, R509) -/

theorem satAt_eq_min (m n : Nat) : satAt m n = min m n := by
  rw [satAt]
  split <;> omega

/-- A post to a channel that delivers no vector counts it (R203). -/
theorem State.chan_post (s : State) (n : Nat) (h : (s.chan n).ivec = 0) :
    ((s.post n).chan n).count = min 0xFFFF ((s.chan n).count + 1) := by
  have hset : ∀ c : Channel, (s.setChan n c).chan n = c := s.chan_setChan_self n
  simp only [State.post, h, bne_self_eq_false, Bool.false_and, Bool.false_eq_true, if_false]
  split
  · have hk : ∀ u : State, ∀ m, (u.checkEvents m).channels = u.channels := fun u m =>
      (KeepsAllBut.checkEvents (.refl u Part.wake)).channels
    rw [State.chan, hk, ← State.chan, hset]
    exact satAt_eq_min _ _
  · rw [hset]
    exact satAt_eq_min _ _

/-- At version 1.2 the host's signal is discarded. -/
theorem State.dbapp_old {chk : SigCheck} (hen : (s.func f).en = true) (hv : (s.func f).ver = ver12) : s.dbapp f v chk = s := by
  have hsig : (s.func f).signals = false := by simp [Func.signals, hv]
  simp [State.dbapp, hsig, hen, hv]

/-- From version 2.1 on the value is kept and posted; no host load waits for it. -/
theorem State.dbapp_new {chk : SigCheck} (hen : (s.func f).en = true) (hv : (s.func f).ver ≠ ver12)
    (hw : s.boot.hostWait = none) : s.dbapp f v chk =
      if (s.func f).acen then (s.setFunc f { s.func f with appval := field v 31 0 }).post (s.func f).appch
      else s.setFunc f { s.func f with appval := field v 31 0 } := by
  have hsig : (s.func f).signals = true := by simp [Func.signals, hen, hv]
  have hload : ∀ t : State, t.boot = s.boot → t.hostLoaded (field v 31 0) chk = t := fun t ht => by
    rw [State.hostLoaded, ht, hw]
  simp only [State.dbapp, hsig, Bool.not_true, Bool.false_eq_true, if_false]
  split
  · refine hload _ ?_
    split
    · exact (KeepsAllBut.post (.refl _ (.channels :: Part.wake))).boot
    · rfl
  · rfl

theorem State.func_dbapp_new {chk : SigCheck} (hen : (s.func f).en = true) (hv : (s.func f).ver ≠ ver12)
    (hw : s.boot.hostWait = none) : ((s.dbapp f v chk).func f).appval = v.toNat % 2 ^ 32 ∧
      ((s.func f).acen = true → (s.chan (s.func f).appch).ivec = 0 →
        ((s.dbapp f v chk).chan (s.func f).appch).count = min 0xFFFF ((s.chan (s.func f).appch).count + 1)) := by
  have hfield : field v 31 0 = v.toNat % 2 ^ 32 := by simp [field]
  rw [State.dbapp_new hen hv hw, hfield]
  refine ⟨?_, fun hac hiv => ?_⟩
  · split
    · rw [State.func_of_funcs (KeepsAllBut.post (.refl _ (.channels :: Part.wake))).funcs, State.func_setFunc_self]
    · rw [State.func_setFunc_self]
  · rw [if_pos hac]
    exact State.chan_post (s.setFunc f _) _ hiv

/-! ### HFSIG (R390, R398) -/

/-- Vector `k` of the function is pending. -/
def Func.Pending (x : Func) (k : Nat) : Prop := (SMap.get 0 x.pba (k / 8)).getLsbD (k % 8) = true

/-- What a function's vectors rest on, their pending bits apart: `y` is `x` after messages have been sent or kept. -/
def Func.Signalled (x y : Func) : Prop := ∃ p, y = { x with pba := p }

theorem State.signal_sent {k : Nat} (h : (s.func f).sends k = true) : s.signal f k = s.emit (.msix f k) := by
  simp [State.signal, h]

theorem State.signal_kept {k : Nat} (h : (s.func f).sends k = false) : s.signal f k = s.setFunc f { s.func f with
    pba := SMap.set 0 (s.func f).pba (k / 8) (setBit (SMap.get 0 (s.func f).pba (k / 8)) (k % 8) true) } := by
  simp [State.signal, h]

theorem State.signalled_signal (s : State) (f k : Nat) : (s.func f).Signalled ((s.signal f k).func f) := by
  by_cases h : (s.func f).sends k = true
  · rw [State.signal_sent h]
    exact ⟨_, rfl⟩
  · rw [State.signal_kept (by simpa using h), State.func_setFunc_self]
    exact ⟨_, rfl⟩

/-- A byte of pending bits with one bit set. -/
theorem getLsbD_setBit_true (b : Byte) (k j : Nat) (hj : j < 8) :
    (setBit b k true).getLsbD j = (decide (j = k) || b.getLsbD j) := by
  have h := bit_setBit b j k true hj
  rw [bit, bit, BitVec.testBit_toNat, BitVec.testBit_toNat] at h
  rw [h]
  split <;> simp_all

theorem State.pending_signal {k : Nat} (h : (s.func f).sends k = false) : ((s.signal f k).func f).Pending k := by
  rw [State.signal_kept h, State.func_setFunc_self, Func.Pending, SMap.get_set_self,
    getLsbD_setBit_true _ _ _ (Nat.mod_lt _ (by decide))]
  simp

/-- A pending vector stays pending while another is signalled. -/
theorem Func.Pending.signal {j : Nat} (h : (s.func f).Pending j) (k : Nat) : ((s.signal f k).func f).Pending j := by
  by_cases hs : (s.func f).sends k = true
  · rw [State.signal_sent hs]
    exact h
  rw [State.signal_kept (by simpa using hs), State.func_setFunc_self, Func.Pending]
  by_cases hj : j / 8 = k / 8
  · rw [hj, SMap.get_set_self, getLsbD_setBit_true _ _ _ (Nat.mod_lt _ (by decide))]
    rw [Func.Pending, hj] at h
    exact Bool.or_eq_true _ _ ▸ Or.inr h
  · rw [SMap.get_set_ne _ _ _ hj]
    exact h

/-- What a function may send stays where only its pending bits change. -/
theorem Func.Signalled.sends {x y : Func} (h : x.Signalled y) (k : Nat) : y.sends k = x.sends k := by
  obtain ⟨p, rfl⟩ := h
  rfl

theorem Func.sends_iff (x : Func) (k : Nat) :
    x.sends k = true ↔ (x.bme = true ∧ x.cfg.msixEn = true ∧ x.cfg.msixMask = false) ∧ x.masked k = false := by
  simp [Func.sends, and_assoc]

theorem State.out_signal_kept {k : Nat} (h : (s.func f).sends k = false) : (s.signal f k).out = s.out := by
  rw [State.signal_kept h]
  rfl

/-- HFSIG at a version that has it: the bit is set, and vector 2 goes before the one named where the bit is new. -/
theorem State.hfsig_run (hen : (s.func f).en = true) (hv : (s.func f).ver ≠ ver12) : s.hfsig f v =
    (if (s.func f).hirq.getLsbD (v.toNat % 64) = true ∨ v.toNat / 2 ^ 32 % 2 ^ 11 = 2 then
      s.setFunc f { s.func f with hirq := setBit (s.func f).hirq (v.toNat % 64) true }
    else (s.setFunc f { s.func f with hirq := setBit (s.func f).hirq (v.toNat % 64) true }).signal f 2).signal f
      (v.toNat / 2 ^ 32 % 2 ^ 11) := by
  have hsig : (s.func f).signals = true := by simp [Func.signals, hen, hv]
  have h5 : field v 5 0 = v.toNat % 64 := by simp [field]
  have h42 : field v 42 32 = v.toNat / 2 ^ 32 % 2 ^ 11 := rfl
  simp only [State.hfsig, hsig, h5, h42, Bool.not_true, Bool.false_eq_true, if_false]
  congr 1
  by_cases hb : (s.func f).hirq.getLsbD (v.toNat % 64) = true
  · rw [if_pos (Or.inl hb), if_neg (by simp [bit_eq, hb])]
  · by_cases h2 : v.toNat / 2 ^ 32 % 2 ^ 11 = 2
    · rw [if_pos (Or.inr h2), h2]
      simp
    · rw [if_neg (not_or.mpr ⟨hb, h2⟩), if_pos (by simpa [bit_eq, hb] using h2)]

end
end Sys2Proof.Machine

namespace Sys2Proof.Machine

section
variable {s : State} {v : Cell} {i : Issue} {n : Nat} {e : Env}

/-! ### HFSIG as the store of a device register (R250, R398) -/

/-- Where HFSIG of function `f` stands. -/
def hfsigAt (f : BitVec 2) : Nat := 0xFE60_0000_0010 + 0x1000 * f.toNat

theorem regionOf_hfsigAt (f : BitVec 2) : regionOf (hfsigAt f) = .device := by
  revert f
  decide

theorem devRegion_hfsigAt (f : BitVec 2) : devRegion (hfsigAt f) = 0xFE6 := by
  revert f
  decide

theorem devOff_hfsigAt (f : BitVec 2) : devOff (hfsigAt f) = 0x1000 * f.toNat + 0x10 := by
  revert f
  decide

theorem hfsigAt_ne_ctxrst (f : BitVec 2) : (hfsigAt f / 16 == 0xFEA000000000 / 16) = false := by
  revert f
  decide

/-- A cell of tag FIX or RAW that HFSIG takes signals the function. -/
theorem State.devWrite_hfsigAt (s : State) (q : Cx) (f : BitVec 2) (hv : Is v tagFIX ∨ Is v tagRAW) :
    s.devWrite q (hfsigAt f) v = .ok (s.hfsig f.toNat v.payload) := by
  have hf := f.isLt
  have hport : s.portPut (hfsigAt f) v = none := by
    rw [State.portPut, devRegion_hfsigAt, devOff_hfsigAt]
    have hne : (0x1000 * f.toNat + 0x10 == 0x8000) = false := by
      rw [beq_eq_false_iff_ne]
      omega
    simp [hne]
  have htag : (v.tag != tagFIX && v.tag != tagRAW) = false := by
    rcases hv with ⟨h, -⟩ | ⟨h, -⟩ <;> simp [h]
  have hlt : 0x1000 * f.toNat + 0x10 < 0x4000 := by omega
  have hdiv : (0x1000 * f.toNat + 0x10) / 0x1000 = f.toNat := by omega
  have hmod : (0x1000 * f.toNat + 0x10) % 0x1000 = 0x10 := by omega
  rw [State.devWrite, hport, htag]
  simp only [State.regPut, devRegion_hfsigAt, devOff_hfsigAt, hlt, hdiv, hmod, State.hfPut]
  rfl

/-- HFSIG at machine level: the slot's buffer is written out, the function is signalled, and PC moves on. -/
theorem execHfsig_run (h : Issues s i n (sWord 0xE9 0 0) 1 e) (hu : e.user = false) (hf : Fresh s e) (f : BitVec 2)
    (hv : Is v tagFIX ∨ Is v tagRAW) : exec (.hfsig i f v) s =
      .next ((((s.started e).endAround e.q).hfsig f.toNat v.payload).moveTo e.q e.next) := by
  have hreach : (s.started e).reached e.q (hfsigAt f) = .device := by
    simp [State.reached, regionOf_hfsigAt]
  have hwait : (s.started e).resetWaits (hfsigAt f) v = false := by
    simp only [State.resetWaits, hfsigAt_ne_ctxrst, Bool.false_and]
  have hwrite : writePhys e false (hfsigAt f) (hfsigAt f) 0 6 v true id (s.started e) =
      .ok ((), ((s.started e).endAround e.q).hfsig f.toNat v.payload) := by
    rw [writePhys, bind_ok (look_run id _)]
    simp only [id, hreach, State.devWrite_hfsigAt _ e.q f hv, hwait]
    rfl
  show Host.Outcome.next (storeReg i (hfsigAt f) v s) = _
  rw [storeReg, machineForm_of_fresh h hu hf rfl, bind_ok hwrite, pure_run, settle_next]

theorem State.keeps_hfsigStart (s : State) (e : Env) :
    KeepsAllBut s ((s.started e).endAround e.q) [.memory, .caches, .cores, .registers] :=
  ((s.caches_started e).keeps.mono (by decide)).endAround

end

/-! ### What HFSIG sends and keeps -/

section
variable {s : State} {f : Nat} {w : Word64}

/-- Bit `b` of the function's interrupts is set. -/
def Func.raise (x : Func) (b : Nat) : Func := { x with hirq := setBit x.hirq b true }

theorem Func.hirq_raise (x : Func) {b : Nat} (hb : b < 64) (j : Nat) :
    (x.raise b).hirq.getLsbD j = (x.hirq.getLsbD j || decide (j = b)) := by
  by_cases hj : j < 64
  · have h := bit_setBit x.hirq j b true hj
    rw [bit_eq, bit_eq] at h
    rw [Func.raise, h]
    split <;> simp_all
  · have hne : j ≠ b := by omega
    rw [BitVec.getLsbD_of_ge _ _ (by omega), BitVec.getLsbD_of_ge _ _ (by omega)]
    simp [hne]

/-- HFSIG of bit `b` and vector `k`, by whether vector 2 goes first. -/
theorem State.hfsig_spec (hen : (s.func f).en = true) (hv : (s.func f).ver ≠ ver12) :
    let t := s.hfsig f w
    let b := w.toNat % 64
    let k := w.toNat / 2 ^ 32 % 2 ^ 11
    let x := s.func f
    let once := x.hirq.getLsbD b = true ∨ k = 2
    (∀ j, (t.func f).hirq.getLsbD j = (x.hirq.getLsbD j || decide (j = b))) ∧
    (x.sends k = true → once → t.out = s.out ++ [Output.msix f k]) ∧
    (x.sends k = true → x.sends 2 = true → ¬ once → t.out = s.out ++ [Output.msix f 2, .msix f k]) ∧
    (x.sends k = false → (t.func f).Pending k) ∧
    (x.sends k = false → once ∨ x.sends 2 = false → t.out = s.out) ∧
    (x.sends 2 = false → ¬ once → (t.func f).Pending 2) := by
  intro t b k x once
  let u := s.setFunc f (x.raise b)
  have hu : u.func f = x.raise b := s.func_setFunc_self f _
  have hsu : ∀ j, (u.func f).sends j = x.sends j := fun j => by rw [hu]; rfl
  have h2 := u.signalled_signal f 2
  have hs2 : ∀ j, ((u.signal f 2).func f).sends j = x.sends j := fun j => (h2.sends j).trans (hsu j)
  have ht : t = (if once then u else u.signal f 2).signal f k := State.hfsig_run hen hv
  have hirq : (t.func f).hirq = (x.raise b).hirq := by
    obtain ⟨p, hp⟩ := (if once then u else u.signal f 2).signalled_signal f k
    obtain ⟨p2, hp2⟩ := h2
    rw [ht, hp]
    split
    · rw [hu]
    · rw [hp2, hu]
  refine ⟨fun j => ?_, fun hk ho => ?_, fun hk h2s ho => ?_, fun hk => ?_, fun hk ho => ?_, fun h2s ho => ?_⟩
  · rw [hirq]
    exact x.hirq_raise (Nat.mod_lt _ (by decide)) j
  · rw [ht, if_pos ho, State.signal_sent (by rw [hsu, hk])]
    rfl
  · rw [ht, if_neg ho, State.signal_sent (by rw [hs2, hk]), State.signal_sent (by rw [hsu, h2s])]
    exact List.append_assoc _ _ _
  · rw [ht]
    refine State.pending_signal ?_
    split
    · rw [hsu, hk]
    · rw [hs2, hk]
  · rw [ht]
    by_cases h : once
    · rw [if_pos h, State.out_signal_kept (by rw [hsu, hk])]
      rfl
    · rw [if_neg h, State.out_signal_kept (by rw [hs2, hk]),
        State.out_signal_kept (by rw [hsu, ho.resolve_left h])]
      rfl
  · rw [ht, if_neg ho]
    exact (State.pending_signal (by rw [hsu, h2s])).signal k

end
end Sys2Proof.Machine

namespace Sys2Proof.Machine

/-- What every step of a counted loop leaves alone, the loop leaves alone. -/
theorem foldUp_keeps {σ γ : Type} (p : σ → γ) (f : Nat → σ → σ) (hf : ∀ i b, p (f i b) = p b) (n i : Nat) (b : σ) :
    p (foldUp f n i b) = p b := by
  induction n generalizing i b with
  | zero => rfl
  | succ n ih => rw [foldUp, ih, hf]

section
variable {s : State} {f : Nat}

/-! ### The DMA queue leaves the functions alone (R400) -/

theorem State.funcs_meshLost (s : State) (pa : Nat) : (s.meshLost pa).funcs = s.funcs :=
  (KeepsAllBut.meshLost (.refl s [.collector, .dependability])).funcs

theorem State.funcs_agentBytes (s : State) (a n : Nat) : (s.agentBytes a n).2.funcs = s.funcs :=
  (KeepsAllBut.agentBytes (.refl s [.caches, .cores, .power])).funcs

theorem State.funcs_ite {c : Prop} [Decidable c] {t u : State} {x : SMap Func} (h : t.funcs = x) (k : u.funcs = x) :
    (if c then t else u).funcs = x := by
  split
  · exact h
  · exact k

theorem State.funcs_dmaNext (l : List (Cell × Option Nat)) (s : State) : (s.dmaNext l).funcs = s.funcs := by
  induction l generalizing s with
  | nil => rfl
  | cons c l ih =>
    obtain ⟨v, mesh⟩ := c
    have hdone : ∀ (t : State) status, ((t.dmaDone v status 0).dmaNext l).funcs = t.funcs := fun t status => ih _
    rw [State.dmaNext]
    refine State.funcs_ite (hdone s _) (State.funcs_ite (hdone s _) (State.funcs_ite ?_ (State.funcs_ite (hdone s _) ?_)))
    · rw [hdone, State.funcs_meshLost]
    · split
      · exact hdone s _
      · refine State.funcs_ite ?_ (State.funcs_agentBytes s _ _)
        rw [hdone, State.funcs_agentBytes]

theorem State.funcs_dmaEnd (s : State) (d : Dma) (status value : Nat) : (s.dmaEnd d status value).funcs = s.funcs :=
  (State.funcs_dmaNext _ _).trans rfl

theorem State.funcs_dmaCut (s : State) (f : Nat) : (s.dmaCut f).funcs = s.funcs := by
  simp only [State.dmaCut]
  split
  · rfl
  split
  · rfl
  rw [State.funcs_dmaEnd]
  split
  · exact State.funcs_agentBytes _ _ _
  · exact (KeepsAllBut.freePut (.refl _ Part.hbm)).funcs

/-! ### Resets of the functions (R387, R396) -/

/-- A function after a function-level reset: the machine's registers are kept. -/
def Func.afterReset (x : Func) : Func := { x.ended with
  offer := 0, tolus := 0, hirq := 0, bme := false, mse := false, cfg := {}, msix := [], pba := [] }

theorem State.func_flr (s : State) (f : Nat) : (s.flr f).func f = (s.func f).afterReset := by
  rw [State.flr, State.func_of_funcs (State.funcs_dmaCut _ f), State.func_modFunc_self, State.func_stopMailbox]
  rfl

theorem State.func_flr_ne (s : State) {f k : Nat} (h : k ≠ f) : (s.flr f).func k = s.func k := by
  rw [State.flr, State.func_of_funcs (State.funcs_dmaCut _ f), State.func_modFunc_ne _ _ _ h, State.func_stopMailbox_ne _ _ h]

theorem State.func_flrAll (s : State) {g : Nat} (h : g < 4) :
    (foldUp (fun f u => u.flr f) 4 0 s).func g = (s.func g).afterReset := by
  show ((((s.flr 0).flr 1).flr 2).flr 3).func g = _
  match g, h with
  | 0, _ => rw [State.func_flr_ne _ (by decide), State.func_flr_ne _ (by decide), State.func_flr_ne _ (by decide), State.func_flr]
  | 1, _ => rw [State.func_flr_ne _ (by decide), State.func_flr_ne _ (by decide), State.func_flr, State.func_flr_ne _ (by decide)]
  | 2, _ => rw [State.func_flr_ne _ (by decide), State.func_flr, State.func_flr_ne _ (by decide), State.func_flr_ne _ (by decide)]
  | 3, _ => rw [State.func_flr, State.func_flr_ne _ (by decide), State.func_flr_ne _ (by decide), State.func_flr_ne _ (by decide)]

/-- A function but for the size of its window. -/
def Func.sansSize (x : Func) : Func := { x with mwsize := 0 }

/-- Only the size of its window changes in a function that takes it from its entry (R387). -/
theorem State.func_sizeWindows (s : State) (g : Nat) : (s.sizeWindows.func g).sansSize = (s.func g).sansSize := by
  refine foldUp_keeps (fun t : State => (t.func g).sansSize) _ (fun i t => ?_) 4 0 s
  by_cases hg : g = i
  · subst hg
    rw [State.func_modFunc_self]
    rfl
  · rw [State.func_modFunc_ne _ _ _ hg]

theorem State.funcs_modPower (s : State) (g : Power → Power) : (s.modPower g).funcs = s.funcs := rfl

/-- PERST_N low resets every function (R396, R502). -/
theorem State.func_perst_low (s : State) {g : Nat} (h : g < 4) :
    ((s.perst false).func g).sansSize = (s.func g).afterReset.sansSize := by
  have hdrop : ∀ t : State, (if s.boot.hostWait.isSome then t.dropLoaded else t).func g = t.func g := fun t => by
    split <;> rfl
  have hsize := State.func_sizeWindows
    (if s.boot.hostWait.isSome then (foldUp (fun f u => u.flr f) 4 0 s).dropLoaded else foldUp (fun f u => u.flr f) 4 0 s) g
  have hfuncs : (s.perst false).funcs =
      (if s.boot.hostWait.isSome then (foldUp (fun f u => u.flr f) 4 0 s).dropLoaded
        else foldUp (fun f u => u.flr f) 4 0 s).sizeWindows.funcs := by
    rw [State.perst, if_neg Bool.false_ne_true, State.funcs_modPower]
  rw [State.func_of_funcs hfuncs, hsize, hdrop, State.func_flrAll s h]

theorem State.power_perst_low (s : State) : (s.perst false).power.link = .down ∧ (s.perst false).power.trained = false ∧
    (s.perst false).power.perstLow = true := ⟨rfl, rfl, rfl⟩

/-! ### Configuration (R382, R383, R396) -/

@[simp] theorem State.func_emit (s : State) (o : Output) (f : Nat) : (s.emit o).func f = s.func f := rfl

/-- A function but for its pending bits. -/
def Func.sansPba (x : Func) : Func := { x with pba := [] }

theorem Func.of_sansPba {x y : Func} (h : y.sansPba = x.sansPba) : y.bme = x.bme ∧ y.mse = x.mse ∧ y.cfg = x.cfg := by
  have hbme : y.sansPba.bme = x.sansPba.bme := by rw [h]
  have hmse : y.sansPba.mse = x.sansPba.mse := by rw [h]
  have hcfg : y.sansPba.cfg = x.sansPba.cfg := by rw [h]
  exact ⟨hbme, hmse, hcfg⟩

/-- The messages that may now be sent change no more of the function than its pending bits. -/
theorem State.func_flushMsix (s : State) (f : Nat) : ((s.flushMsix f).func f).sansPba = (s.func f).sansPba := by
  refine foldl_keeps (fun t : State => (t.func f).sansPba) _ (fun t k => ?_) _ s
  dsimp only
  split
  · rw [State.func_emit, State.func_setFunc_self]
    rfl
  · rfl

theorem State.ltr_ltrUpdate (s : State) (g : Nat) : (s.ltrUpdate.func g).cfg.ltr = (s.func g).cfg.ltr := by
  refine foldl_keeps (fun t : State => (t.func g).cfg.ltr) _ (fun t k => ?_) _ s
  dsimp only
  split
  · rw [State.func_emit, State.modCfg]
    by_cases hg : g = k
    · subst hg
      rw [State.func_modFunc_self]
    · rw [State.func_modFunc_ne _ _ _ hg]
  · rfl

theorem State.unheld_of_free {s : State} (h : s.boot.held = false) (t : State) : s.unheld t = t := by
  simp [State.unheld, h]

theorem State.unheld_of_held {s : State} (h : s.boot.held = true) (t : State) : s.unheld t = s := by
  simp [State.unheld, h]

theorem State.func_configWrite_command (s : State) (f : Nat) (v : Word64) :
    ((s.configWrite f v .command).func f).bme = v.getLsbD 2 ∧ ((s.configWrite f v .command).func f).mse = v.getLsbD 1 := by
  have hset : (s.modFunc f (fun x => { x with bme := bit v 2, mse := bit v 1 })).func f =
      { s.func f with bme := bit v 2, mse := bit v 1 } := s.func_modFunc_self f _
  simp only [State.configWrite]
  split
  · obtain ⟨hbme, hmse, -⟩ := Func.of_sansPba
      (State.func_flushMsix (s.modFunc f (fun x => { x with bme := bit v 2, mse := bit v 1 })) f)
    rw [hbme, hmse, hset]
    exact ⟨rfl, rfl⟩
  · rw [State.func_of_funcs (State.funcs_dmaCut _ f), hset]
    exact ⟨rfl, rfl⟩

theorem State.func_configWrite_msix (s : State) (f : Nat) (v : Word64) :
    ((s.configWrite f v .msixControl).func f).cfg.msixEn = v.getLsbD 15 ∧
    ((s.configWrite f v .msixControl).func f).cfg.msixMask = v.getLsbD 14 := by
  obtain ⟨-, -, hcfg⟩ := Func.of_sansPba
    (State.func_flushMsix (s.modCfg f (fun c => { c with msixEn := bit v 15, msixMask := bit v 14 })) f)
  simp only [State.configWrite]
  rw [hcfg, State.modCfg, State.func_modFunc_self]
  exact ⟨rfl, rfl⟩

theorem State.func_configWrite_ltr (s : State) (f : Nat) (v : Word64) :
    ((s.configWrite f v .deviceControl2).func f).cfg.ltr = v.getLsbD 10 := by
  simp only [State.configWrite]
  rw [State.ltr_ltrUpdate, State.modCfg, State.func_modFunc_self]
  rfl

end
end Sys2Proof.Machine

namespace Sys2Proof.Machine

section
variable {s : State} {f : BitVec 2} {v : Word64}

/-! ### The commands of the control window -/

theorem execFenNegotiate_spec (hr : s.mainRuns = true) (hm : (s.func f.toNat).mse = true) (h0 : v.getLsbD 0 = true)
    (h1 : v.getLsbD 1 = false) (hen : (s.func f.toNat).en = false) : ∃ t : State, exec (.fenNegotiate f v) s = .next t ∧
      t.func f.toNat = { (s.func f.toNat).emptied with
        offer := v.toNat / 16 % 8, en := true, fen := true, rdy := false
        ver := if v.getLsbD 6 then 0x0300 else if v.getLsbD 5 then 0x0201 else 0x0102 } := by
  refine ⟨s.ohpctl f.toNat v, ?_, State.func_ohpctl_negotiates h0 h1 hen⟩
  show execFenNegotiate f v s = _
  rw [execFenNegotiate, bit_eq, h0, if_pos rfl, State.ifOpen_of_open hr hm]

theorem execFunctionDisable_spec (hr : s.mainRuns = true) (hm : (s.func f.toNat).mse = true) (h0 : v.getLsbD 0 = false) :
    ∃ t : State, exec (.functionDisable f v) s = .next t ∧ (t.func f.toNat).Off := by
  refine ⟨s.ohpctl f.toNat v, ?_, State.off_ohpctl h0⟩
  show execFunctionDisable f v s = _
  rw [execFunctionDisable, bit_eq, h0, if_neg Bool.false_ne_true, State.ifOpen_of_open hr hm]

theorem execMrst_spec (hr : s.mainRuns = true) (hm : (s.func f.toNat).mse = true) (h0 : v.getLsbD 0 = true)
    (h1 : v.getLsbD 1 = true) (hen : (s.func f.toNat).en = true) : ∃ t : State, exec (.mrst f v) s = .next t ∧
      t.func f.toNat = { (s.func f.toNat).emptied with offer := v.toNat / 16 % 8 } := by
  refine ⟨s.ohpctl f.toNat v, ?_, State.func_ohpctl_empties h0 h1 hen⟩
  show execMrst f v s = _
  rw [execMrst, bit_eq, h1, if_pos rfl, State.ifOpen_of_open hr hm]

theorem execDbreq_of_open (hr : s.mainRuns = true) (hm : (s.func f.toNat).mse = true) :
    exec (.dbreq f v) s = .next (s.dbreq f.toNat v) := by
  show execDbreq f v s = _
  rw [execDbreq, State.ifOpen_of_open hr hm]

theorem execDbapp_of_open (hr : s.mainRuns = true) (hm : (s.func f.toNat).mse = true) (chk : SigCheck) :
    exec (.dbapp f v chk) s = .next (s.dbapp f.toNat v chk) := by
  show execDbapp f v chk s = _
  rw [execDbapp, State.ifOpen_of_open hr hm]

/-- While the window is shut, a write of it changes nothing (R376, R384). -/
theorem controlWindow_shut (h : (s.func f.toNat).mse = false ∨ s.mainRuns = false) (chk : SigCheck) :
    exec (.fenNegotiate f v) s = .next s ∧ exec (.functionDisable f v) s = .next s ∧ exec (.mrst f v) s = .next s ∧
    exec (.dbreq f v) s = .next s ∧ exec (.dbapp f v chk) s = .next s := by
  have hshut : ∀ t, s.ifOpen f.toNat t = s := fun t => State.ifOpen_of_shut h
  refine ⟨?_, ?_, ?_, congrArg _ (hshut _), congrArg _ (hshut _)⟩
  · show execFenNegotiate f v s = _
    rw [execFenNegotiate, hshut, ite_self]
  · show execFunctionDisable f v s = _
    rw [execFunctionDisable, hshut, ite_self]
  · show execMrst f v s = _
    rw [execMrst, hshut, ite_self]

/-- What HFSIG leaves, as the statement of O59 reads it. -/
theorem execHfsig_spec {i : Issue} {n : Nat} {e : Env} {v : Cell} (h : Issues s i n (sWord 0xE9 0 0) 1 e) (hu : e.user = false)
    (hf : Fresh s e) (hv : Is v tagFIX ∨ Is v tagRAW) (hen : (s.func f.toNat).en = true)
    (hver : (s.func f.toNat).ver ≠ ver12) :
    let x := s.func f.toNat
    let b := v.pay % 64
    let vec := v.pay / 2 ^ 32 % 2 ^ 11
    ∃ t : State, exec (.hfsig i f v) s = .next t ∧
      (∀ j, (t.func f.toNat).hirq.getLsbD j = (x.hirq.getLsbD j || decide (j = b))) ∧
      (let sent := x.bme = true ∧ x.cfg.msixEn = true ∧ x.cfg.msixMask = false
        let once := x.hirq.getLsbD b = true ∨ vec = 2;
        (sent → x.masked vec = false → once → t.out = s.out ++ [Output.msix f.toNat vec]) ∧
        (sent → x.masked vec = false → x.masked 2 = false → ¬ once →
          t.out = s.out ++ [Output.msix f.toNat 2, .msix f.toNat vec]) ∧
        (¬ sent ∨ (x.masked vec = true ∧ once) → t.out = s.out ∧ (t.func f.toNat).Pending vec) ∧
        (¬ sent → ¬ once → (t.func f.toNat).Pending 2)) := by
  intro x b vec
  have hk := s.keeps_hfsigStart e
  have hx : ((s.started e).endAround e.q).func f.toNat = x := State.func_of_funcs hk.funcs _
  have hout : ((s.started e).endAround e.q).out = s.out := hk.out
  have hspec := State.hfsig_spec (s := (s.started e).endAround e.q) (f := f.toNat) (w := v.payload) (by rw [hx, hen])
    (by rw [hx]; exact hver)
  have hrun := execHfsig_run h hu hf f hv
  have hpay : v.payload.toNat = v.pay := by simp [Cell.payload, Cell.pay, field]
  rw [hpay] at hspec
  generalize ((s.started e).endAround e.q).hfsig f.toNat v.payload = t at hspec hrun
  simp only [hx, hout] at hspec
  obtain ⟨hirq, honce, htwice, hpend, hkept, hpend2⟩ := hspec
  refine ⟨t.moveTo e.q e.next, hrun, hirq, ?_⟩
  intro sent once
  have hsends : ∀ k, sent → x.masked k = false → x.sends k = true := fun k hs hm => (x.sends_iff k).mpr ⟨hs, hm⟩
  have hnot : ∀ k, ¬ sent ∨ x.masked k = true → x.sends k = false := fun k hs => by
    rw [Bool.eq_false_iff, ne_eq, x.sends_iff]
    rintro ⟨h1, h2⟩
    rcases hs with hs | hs
    · exact hs h1
    · rw [h2] at hs
      cases hs
  refine ⟨fun hs hm ho => honce (hsends _ hs hm) ho,
    fun hs hm hm2 ho => htwice (hsends _ hs hm) (hsends _ hs hm2) ho, fun hs => ?_, fun hs ho => hpend2 (hnot 2 (.inl hs)) ho⟩
  rcases hs with hs | ⟨hm, ho⟩
  · exact ⟨hkept (hnot _ (.inl hs)) (.inr (hnot 2 (.inl hs))), hpend (hnot _ (.inl hs))⟩
  · exact ⟨hkept (hnot _ (.inr hm)) (.inl ho), hpend (hnot _ (.inr hm))⟩

/-- A configuration write that changes the configuration space of the function alone. -/
theorem configWrite_modCfg {r : ConfigReg} {c : PciConfig} (hb : s.boot.held = false)
    (h : s.configWrite f.toNat v r = s.setFunc f.toNat { s.func f.toNat with cfg := c }) :
    exec (.pcieConfigurationWrite f r v) s =
      .next { s with funcs := SMap.set {} s.funcs f.toNat { s.func f.toNat with cfg := c } } := by
  show execPcieConfigurationWrite f r v s = _
  rw [execPcieConfigurationWrite, State.unheld_of_free hb, h]
  rfl

theorem execPcieConfigurationWrite_of_free (hb : s.boot.held = false) (r : ConfigReg) :
    exec (.pcieConfigurationWrite f r v) s = .next (s.configWrite f.toNat v r) := by
  show execPcieConfigurationWrite f r v s = _
  rw [execPcieConfigurationWrite, State.unheld_of_free hb]

/-- The size of the window is no part of what a reset clears. -/
theorem Func.off_of_sansSize {x y : Func} (h : y.sansSize = x.afterReset.sansSize) : y.Off ∧ y.bme = false ∧ y.mse = false :=
  ⟨⟨congrArg Func.en h, congrArg Func.fen h, congrArg Func.rdy h, congrArg Func.ver h, congrArg Func.reqpc h,
    congrArg Func.rspcc h, congrArg Func.rsppc h⟩, congrArg Func.bme h, congrArg Func.mse h⟩

/-- PERST_N rising in a settled low-power state wakes the device (R465). -/
theorem execPerstN_high (h : s.power.trans = .settled) (hps : 3 < s.power.ps) : exec (.perstN true) s =
    .next { s with power := { s.power with perstLow := false, trans := .leaving 3 } } := by
  show execPerstN true s = _
  rw [execPerstN, State.perst, if_pos rfl]
  simp [State.wakeTo, State.modPower, h, hps]

/-- What the host's writes of an open control window do. -/
theorem controlWindow_spec (hr : s.mainRuns = true) (hm : (s.func f.toNat).mse = true) (v : Word64) :
    let x := s.func f.toNat
    (v.getLsbD 0 = true → v.getLsbD 1 = false → x.en = false → ∃ t : State, exec (.fenNegotiate f v) s = .next t ∧
      t.func f.toNat = { x with
        offer := v.toNat / 16 % 8, reqpc := 0, rspcc := 0, rsppc := 0, taken := 0, en := true, fen := true, rdy := false
        ver := if v.getLsbD 6 then 0x0300 else if v.getLsbD 5 then 0x0201 else 0x0102 }) ∧
    (v.getLsbD 0 = false → v.getLsbD 1 = false → ∃ t : State, exec (.functionDisable f v) s = .next t ∧ (t.func f.toNat).Off) ∧
    (v.getLsbD 0 = true → v.getLsbD 1 = true → x.en = true → ∃ t : State, exec (.mrst f v) s = .next t ∧
      t.func f.toNat = { x with offer := v.toNat / 16 % 8, reqpc := 0, rspcc := 0, rsppc := 0, taken := 0 }) ∧
    (let n := v.toNat % 2 ^ 16;
      (x.en = true → x.ahead n ≤ x.depth → x.ahead x.reqpc ≤ x.ahead n → exec (.dbreq f v) s =
        .next (State.wakeTo { s with funcs := SMap.set {} s.funcs f.toNat { x with reqpc := n } } 3)) ∧
      (x.en = true → x.depth < x.ahead n ∨ x.ahead n < x.ahead x.reqpc → ∃ t : State, exec (.dbreq f v) s = .next t ∧
        (t.func f.toNat).merr = true ∧ (t.func f.toNat).reqpc = x.reqpc)) ∧
    (∀ chk, x.en = true → x.ver = ver12 → exec (.dbapp f v chk) s = .next s) ∧
    (∀ chk, x.en = true → x.ver ≠ ver12 → s.boot.hostWait = none → ∃ t : State, exec (.dbapp f v chk) s = .next t ∧
      (t.func f.toNat).appval = v.toNat % 2 ^ 32 ∧
      (x.acen = true → (s.chan x.appch).ivec = 0 → (t.chan x.appch).count = min 0xFFFF ((s.chan x.appch).count + 1))) := by
  refine ⟨fun h0 h1 hen => execFenNegotiate_spec hr hm h0 h1 hen, fun h0 _ => execFunctionDisable_spec hr hm h0,
    fun h0 h1 hen => execMrst_spec hr hm h0 h1 hen, ⟨fun hen hd ha => ?_, fun hen hb => ?_⟩, fun chk hen hv => ?_,
    fun chk hen hv hw => ?_⟩
  · rw [execDbreq_of_open hr hm, State.dbreq_takes hen hd ha]
    rfl
  · exact ⟨s.dbreq f.toNat v, execDbreq_of_open hr hm, State.dbreq_refuses hen hb⟩
  · rw [execDbapp_of_open hr hm, State.dbapp_old hen hv]
  · exact ⟨s.dbapp f.toNat v chk, execDbapp_of_open hr hm chk, State.func_dbapp_new hen hv hw⟩

/-- A function-level reset ends the service and clears what the host had set; the machine's side is kept (R396). -/
theorem execFlr_spec (s : State) (f : BitVec 2) : ∃ t : State, exec (.flr f) s = .next t ∧
    (t.func f.toNat).Off ∧ (t.func f.toNat).offer = 0 ∧ (t.func f.toNat).hirq = 0 ∧
    (t.func f.toNat).bme = false ∧ (t.func f.toNat).mse = false ∧ (t.func f.toNat).cfg = {} ∧ (t.func f.toNat).msix = [] ∧
    (t.func f.toNat).pba = [] ∧ (t.func f.toNat).mw = (s.func f.toNat).mw ∧
    (t.func f.toNat).appch = (s.func f.toNat).appch := by
  refine ⟨s.flr f.toNat, rfl, ?_⟩
  rw [State.func_flr]
  exact ⟨Func.off_ended (s.func f.toNat), rfl, rfl, rfl, rfl, rfl, rfl, rfl, rfl, rfl⟩

theorem execPerstN_low_spec (s : State) : ∃ t : State, exec (.perstN false) s = .next t ∧
    (∀ g, g < 4 → (t.func g).Off ∧ (t.func g).bme = false ∧ (t.func g).mse = false) ∧
    t.power.link = .down ∧ t.power.trained = false ∧ t.power.perstLow = true := by
  have hfuncs : ∀ g, g < 4 → ((s.perst false).func g).Off ∧ ((s.perst false).func g).bme = false ∧
      ((s.perst false).func g).mse = false := fun g hg => Func.off_of_sansSize (s.func_perst_low hg)
  exact ⟨s.perst false, rfl, hfuncs, s.power_perst_low⟩

/-- What a configuration write changes (R382, R383). -/
theorem configWrite_spec (hb : s.boot.held = false) (v : Word64) :
    let x := s.func f.toNat
    let writes := fun (r : ConfigReg) (c : PciConfig) => exec (.pcieConfigurationWrite f r v) s =
      .next { s with funcs := SMap.set {} s.funcs f.toNat { x with cfg := c } };
    (∃ t : State, exec (.pcieConfigurationWrite f .command v) s = .next t ∧ (t.func f.toNat).bme = v.getLsbD 2 ∧
      (t.func f.toNat).mse = v.getLsbD 1) ∧
    writes (.bar 0) { x.cfg with bars := SMap.set 0 x.cfg.bars 0 (v.toNat / 2 ^ 16 * 2 ^ 16) } ∧
    writes (.bar 1) { x.cfg with bars := SMap.set 0 x.cfg.bars 1 (v.toNat / 2 ^ (30 + x.mwsize) * 2 ^ (30 + x.mwsize)) } ∧
    writes (.bar 2) { x.cfg with bars := SMap.set 0 x.cfg.bars 2 (v.toNat / 2 ^ 28 * 2 ^ 28) } ∧
    writes .linkControl { x.cfg with l1 := v.getLsbD 1 } ∧
    writes .l1Control { x.cfg with l12 := v.getLsbD 0, l11 := v.getLsbD 1 } ∧
    writes .aerStatus { x.cfg with aerStat := x.cfg.aerStat &&& ~~~v.setWidth 32 } ∧
    writes .aerControl { x.cfg with ecrcGen := v.getLsbD 6, ecrcCheck := v.getLsbD 8 } ∧
    writes .deviceControl { x.cfg with
      mps := if v.toNat / 2 ^ 5 % 8 ≤ 2 then v.toNat / 2 ^ 5 % 8 else x.cfg.mps
      mrrs := if v.toNat / 2 ^ 12 % 8 ≤ 5 then v.toNat / 2 ^ 12 % 8 else x.cfg.mrrs } ∧
    (∃ t : State, exec (.pcieConfigurationWrite f .deviceControl2 v) s = .next t ∧ (t.func f.toNat).cfg.ltr = v.getLsbD 10) ∧
    ∃ t : State, exec (.pcieConfigurationWrite f .msixControl v) s = .next t ∧ (t.func f.toNat).cfg.msixEn = v.getLsbD 15 ∧
      (t.func f.toNat).cfg.msixMask = v.getLsbD 14 :=
  ⟨⟨_, execPcieConfigurationWrite_of_free hb .command, s.func_configWrite_command f.toNat v⟩,
    configWrite_modCfg hb rfl, configWrite_modCfg hb rfl, configWrite_modCfg hb rfl, configWrite_modCfg hb rfl,
    configWrite_modCfg hb rfl, configWrite_modCfg hb rfl, configWrite_modCfg hb rfl, configWrite_modCfg hb rfl,
    ⟨_, execPcieConfigurationWrite_of_free hb .deviceControl2, s.func_configWrite_ltr f.toNat v⟩,
    _, execPcieConfigurationWrite_of_free hb .msixControl, s.func_configWrite_msix f.toNat v⟩

end

end Sys2Proof.Machine

namespace Sys2Proof.Machine

/-! ### What an agent writes (R38) -/

section
variable {m : List Host.Cell} {a n : Nat} {l : List Byte}

theorem getElem_readBytes (m : List Host.Cell) (n a k : Nat) (h : k < (readBytes m n a).length) :
    (readBytes m n a)[k] = readByte m (a + k) := by
  induction n generalizing a k with
  | zero => simp [readBytes] at h
  | succ n ih =>
    cases k with
    | zero => rfl
    | succ k =>
      have := ih (a + 1) k (by simpa [readBytes] using h)
      rw [show a + (k + 1) = a + 1 + k by omega, ← this]
      rfl

/-- A part of bytes that were written reads back as that part. -/
theorem readBytes_writeBytes_part (m : List Host.Cell) (a : Nat) {l : List Byte} {k n : Nat} (h : k + n ≤ l.length) :
    readBytes (writeBytes m a l) n (a + k) = (l.drop k).take n := by
  refine List.ext_getElem ?_ fun j h1 h2 => ?_
  · rw [length_readBytes, List.length_take, List.length_drop]
    omega
  · rw [length_readBytes] at h1
    rw [getElem_readBytes, Nat.add_assoc, readByte_writeBytes_in _ _ _ _ (by omega), List.getElem_take, List.getElem_drop]

/-- The cell at `pa` as memory `m` holds it. -/
def cellIn (m : List Host.Cell) (pa : Nat) : Cell := BitVec.ofNat 128 (leValue (readBytes m 16 pa))

theorem cellIn_congr {m k : List Host.Cell} {pa : Nat} (h : ∀ c, pa ≤ c → c < pa + 16 → readByte m c = readByte k c) :
    cellIn m pa = cellIn k pa := by rw [cellIn, cellIn, readBytes_congr m k 16 pa h]

/-- The parity of the cell at `pa` is computed (R21). -/
def recomputed (m : List Host.Cell) (pa : Nat) : List Host.Cell := writeBytes m pa (cellBytes (normalize (cellIn m pa)))

theorem readByte_recomputed_out (m : List Host.Cell) {pa c : Nat} (h : c < pa ∨ pa + 16 ≤ c) :
    readByte (recomputed m pa) c = readByte m c := by
  have hlen : (cellBytes (normalize (cellIn m pa))).length = 16 := length_leBytes 16 _
  rw [recomputed, readByte_writeBytes_out _ _ _ (by rw [hlen]; exact h)]

theorem cellIn_recomputed (m : List Host.Cell) (pa : Nat) : cellIn (recomputed m pa) pa = normalize (cellIn m pa) := by
  have hlen : (cellBytes (normalize (cellIn m pa))).length = 16 := length_leBytes 16 _
  have h := readBytes_writeBytes m pa (cellBytes (normalize (cellIn m pa)))
  rw [hlen] at h
  rw [cellIn, recomputed, h, ofNat_leValue_cellBytes]

/-- The cells from `a` on, `n` of them, have their parity computed. -/
def recomputedAll (m : List Host.Cell) (a n : Nat) : List Host.Cell :=
  (List.range n).foldl (fun t i => recomputed t (a + 16 * i)) m

theorem foldl_range_succ {α : Type} (f : α → Nat → α) (x : α) (n : Nat) :
    (List.range (n + 1)).foldl f x = f ((List.range n).foldl f x) n := by
  rw [List.range_succ, List.foldl_append, List.foldl_cons, List.foldl_nil]

theorem recomputedAll_succ (m : List Host.Cell) (a n : Nat) :
    recomputedAll m a (n + 1) = recomputed (recomputedAll m a n) (a + 16 * n) := by
  rw [recomputedAll, foldl_range_succ, ← recomputedAll]

theorem readByte_recomputedAll_out (m : List Host.Cell) {a n c : Nat} (h : c < a ∨ a + 16 * n ≤ c) :
    readByte (recomputedAll m a n) c = readByte m c := by
  induction n with
  | zero => rfl
  | succ n ih => rw [recomputedAll_succ, readByte_recomputed_out _ (by omega), ih (by omega)]

theorem cellIn_recomputedAll (m : List Host.Cell) {a n k : Nat} (h : k < n) :
    cellIn (recomputedAll m a n) (a + 16 * k) = normalize (cellIn m (a + 16 * k)) := by
  induction n with
  | zero => omega
  | succ n ih =>
    rw [recomputedAll_succ]
    by_cases hk : k = n
    · subst hk
      rw [cellIn_recomputed, cellIn_congr fun c h1 h2 => readByte_recomputedAll_out m (by omega)]
    · rw [cellIn_congr fun c h1 h2 => readByte_recomputed_out _ (by omega), ih (by omega)]

/-- A write of whole cells: their bytes go to memory, and the parity of each is computed. -/
theorem mergeBytes_of_cells (ha : a % 16 = 0) (hn : 0 < n) (hl : l.length = 16 * n) :
    mergeBytes m a l = recomputedAll (writeBytes m a l) a n := by
  have hne : l.isEmpty = false := by
    rw [List.isEmpty_eq_false_iff, ← List.length_pos_iff]
    omega
  have hcount : (a + l.length - 1) / 16 + 1 - a / 16 = n := by omega
  have haddr : ∀ i, 16 * (a / 16 + i) = a + 16 * i := fun i => by omega
  simp only [mergeBytes, hne, Bool.false_eq_true, if_false, hcount, haddr]
  rfl

theorem readByte_mergeBytes_out (ha : a % 16 = 0) (hl : l.length = 16 * n) {c : Nat} (h : c < a ∨ a + 16 * n ≤ c) :
    readByte (mergeBytes m a l) c = readByte m c := by
  rcases Nat.eq_zero_or_pos n with rfl | hn
  · obtain rfl : l = [] := List.length_eq_zero_iff.mp (by simpa using hl)
    rfl
  · rw [mergeBytes_of_cells ha hn hl, readByte_recomputedAll_out _ h, readByte_writeBytes_out _ _ _ (by omega)]

theorem cellIn_mergeBytes (ha : a % 16 = 0) (hl : l.length = 16 * n) {k : Nat} (h : k < n) :
    cellIn (mergeBytes m a l) (a + 16 * k) = normalize (BitVec.ofNat 128 (leValue ((l.drop (16 * k)).take 16))) := by
  rw [mergeBytes_of_cells ha (by omega) hl, cellIn_recomputedAll _ h, cellIn, readBytes_writeBytes_part _ _ (by omega)]

end

section
variable (s : State) (a : Nat) (data : List Byte)

theorem State.mem_agentPut : (s.agentPut a data).mem = mergeBytes s.mem a data := by
  simp only [State.agentPut]
  rw [foldl_keeps State.mem _ (fun t g => by split <;> rfl), foldl_keeps State.mem _ (fun t g => by simp)]

/-- A write of `n` whole cells by an agent (R38). -/
theorem State.agentPut_cells {n : Nat} (ha : a % 16 = 0) (hl : data.length = 16 * n) :
    (∀ k, k < n → (s.agentPut a data).cell (a + 16 * k) =
      normalize (BitVec.ofNat 128 (leValue ((data.drop (16 * k)).take 16)))) ∧
    ∀ c, c < a ∨ a + 16 * n ≤ c → readByte (s.agentPut a data).mem c = readByte s.mem c := by
  have hmem := s.mem_agentPut a data
  constructor
  · intro k hk
    rw [State.cell, hmem]
    exact cellIn_mergeBytes ha hl hk
  · intro c hc
    rw [hmem, readByte_mergeBytes_out ha hl hc]

end

/-! ### The parts of an access -/

/-- An access that crosses no unit has one part (R384). -/
theorem unitParts_of_within {off n : Nat} (hn : 0 < n) (h : off % 2 ^ 30 + n ≤ 2 ^ 30) : unitParts off n = [(off, n)] := by
  have hcount : (off + n - 1) / 2 ^ 30 + 1 - off / 2 ^ 30 = 1 := by omega
  have hlo : max off ((off / 2 ^ 30 + 0) * 2 ^ 30) = off := by omega
  have hhi : min (off + n) ((off / 2 ^ 30 + 0 + 1) * 2 ^ 30) - off = n := by omega
  rw [unitParts, hcount, if_neg (by simp; omega)]
  simp only [List.range_one, List.map_cons, List.map_nil, hlo, hhi]

/-- A cell lies in one granule. -/
theorem granulesOf_cell {pa : Nat} (h : pa % 16 = 0) : granulesOf pa 16 = [pa / 128] := by
  have hcount : (pa + 16 - 1) / 128 + 1 - pa / 128 = 1 := by omega
  rw [granulesOf, hcount]
  simp

end Sys2Proof.Machine

namespace Sys2Proof.Machine

section
variable {s : State} {f : Nat}

/-! ### What AER logs (R382, R386) -/

/-- A function whose error status also shows error `code`. -/
def Func.withError (x : Func) (code : Nat) : Func := { x with cfg := { x.cfg with aerStat := x.cfg.aerStat ||| (1#32 <<< code) } }

theorem State.refuseRead_eq (s : State) (f : Nat) : s.refuseRead f =
    { s with funcs := SMap.set {} s.funcs f ((s.func f).withError 20), out := s.out ++ [Output.unsupported f, .aer f 20] } := by
  have happ : s.out ++ [Output.unsupported f, .aer f 20] = s.out ++ [Output.unsupported f] ++ [Output.aer f 20] := by simp
  rw [happ]
  rfl

theorem State.tlpLost_poisoned (s : State) (f : Nat) (b : Bool) : s.tlpLost f true b = some (s.aer f 12) := rfl

theorem State.tlpLost_ecrc (h : (s.func f).cfg.ecrcCheck = true) : s.tlpLost f false true = some (s.aer f 19) := by
  simp [State.tlpLost, h, aerEcrc]

theorem State.tlpLost_whole (s : State) (f : Nat) : s.tlpLost f false false = none := rfl

/-! ### Reads of the windows (R383 to R386) -/

/-- Eight bytes of a register of the control window. -/
theorem State.controlRead_register {off : Nat} (hm : (s.func f).mse = true) (ho : off < 0x100) (h8 : off % 8 = 0) :
    s.controlRead f off 8 = s.emit (.readData f (leBytes 8 (s.ohpReg f off))) := by
  have hoff : off / 8 * 8 = off := by omega
  have htake : (leBytes 8 (s.ohpReg f off)).take 8 = leBytes 8 (s.ohpReg f off) :=
    List.take_of_length_le (by rw [length_leBytes])
  rw [State.controlRead, if_neg (by simp [hm]), if_pos (by simp [ho, h8]), hoff, h8, List.drop_zero, htake]

theorem State.windowPa_some {off : Nat} {write : Bool} {m : MwEntry} (hu : SMap.get {} (s.func f).mw (off / 2 ^ 30) = m)
    (hm : (s.func f).mse = true) (hs : off / 2 ^ 30 < 2 ^ (s.func f).mwsize) (hv : m.v = true)
    (hr : (if write then m.wr else m.rd) = true) : s.windowPa f off write = some (m.hbase * 2 ^ 30 + off % 2 ^ 30) := by
  subst hu
  simp only [State.windowPa, hm, hv, hr, decide_eq_true hs, Bool.and_self, if_true]

theorem State.windowPa_none {off : Nat} {write : Bool} {m : MwEntry} (hu : SMap.get {} (s.func f).mw (off / 2 ^ 30) = m)
    (h : ¬ ((s.func f).mse = true ∧ off / 2 ^ 30 < 2 ^ (s.func f).mwsize ∧ m.v = true) ∨ (if write then m.wr else m.rd) = false) :
    s.windowPa f off write = none := by
  subst hu
  refine if_neg fun hc => ?_
  rw [Bool.and_eq_true, Bool.and_eq_true, Bool.and_eq_true, decide_eq_true_eq] at hc
  obtain ⟨⟨⟨h1, h2⟩, h3⟩, h4⟩ := hc
  rcases h with h | h
  · exact h ⟨h1, h2, h3⟩
  · rw [h] at h4
    cases h4

/-- A read of `n` bytes that lies in one unit and meets nothing on its way. -/
theorem State.memRead_part {off n : Nat} (hn : 0 < n) (h : off % 2 ^ 30 + n ≤ 2 ^ 30) :
    s.memRead f off ⟨n, [], false⟩ = s.windowRead f off n false := by
  have hecc : ∀ pa, s.eccFinds pa n [] = s := fun pa => rfl
  simp only [State.memRead, unitParts_of_within hn h, List.foldl_cons, List.foldl_nil, hecc]
  split <;> rfl

theorem State.windowRead_unmapped {off n : Nat} (h : s.windowPa f off false = none) :
    s.windowRead f off n false = s.refuseRead f := by
  rw [State.windowRead, h]
  rfl

theorem State.out_agentBytes (s : State) (a n : Nat) : (s.agentBytes a n).2.out = s.out :=
  (KeepsAllBut.agentBytes (.refl s [.caches, .cores, .power])).out

theorem State.windowRead_whole {off n pa : Nat} (h : s.windowPa f off false = some pa)
    (hp : ∀ g ∈ granulesOf pa n, s.poisoned g = false) :
    s.windowRead f off n false = (s.agentBytes pa n).2.emit (.readData f (readBytes s.mem n pa)) := by
  have hany : (granulesOf pa n).any s.poisoned = false := by
    rw [List.any_eq_false]
    exact fun g hg => by simp [hp g hg]
  simp only [State.windowRead, h, hany, Bool.false_eq_true, if_false]
  rfl

theorem State.windowRead_poisoned {off n pa g : Nat} (h : s.windowPa f off false = some pa) (hg : g ∈ granulesOf pa n)
    (hp : s.poisoned g = true) :
    s.windowRead f off n false = ((s.agentBytes pa n).2.emit (.poisoned f (readBytes s.mem n pa))).aer f 12 := by
  have hany : (granulesOf pa n).any s.poisoned = true := List.any_eq_true.mpr ⟨g, hg, hp⟩
  simp only [State.windowRead, h, hany, Bool.false_eq_true, if_false, if_true]
  rfl

/-- A read that meets a poisoned granule has the poisoned indication, and AER logs it (R386). -/
theorem State.windowRead_poisoned_spec {off n pa g : Nat} (h : s.windowPa f off false = some pa) (hg : g ∈ granulesOf pa n)
    (hp : s.poisoned g = true) :
    (s.windowRead f off n false).out = s.out ++ [Output.poisoned f (readBytes s.mem n pa), .aer f 12] ∧
    (s.windowRead f off n false).mem = s.mem := by
  have hmem := s.mem_agentBytes pa n
  have hout := s.out_agentBytes pa n
  rw [State.windowRead_poisoned h hg hp]
  generalize (s.agentBytes pa n).2 = u at hmem hout ⊢
  refine ⟨?_, hmem⟩
  show u.out ++ [Output.poisoned f (readBytes s.mem n pa)] ++ [Output.aer f 12] = _
  rw [hout, List.append_assoc]
  rfl

/-! ### Writes of the memory window (R384, R386, R387) -/

/-- A cell is written in one unit and in one granule. -/
theorem State.memWrite_cell {off : Nat} {data : List Byte} (hr : s.mainRuns = true) (hl : data.length = 16) (ho : off % 16 = 0) :
    s.memWrite f off data .whole = s.windowWrite f off data := by
  have hparts : unitParts off 16 = [(off, 16)] := unitParts_of_within (by decide) (by omega)
  have htake : data.take 16 = data := List.take_of_length_le (by omega)
  have hlost : s.tlpLost f (TlpMark.whole == .poison) (TlpMark.whole == .ecrcBad) = none := rfl
  simp only [State.memWrite, hr, hlost, hl, hparts, Bool.not_true, Bool.false_eq_true, if_false, List.foldl_cons, List.foldl_nil,
    Nat.sub_self, List.drop_zero, htake]

theorem State.windowWrite_cell {off pa : Nat} {data : List Byte} (h : s.windowPa f off true = some pa) (hl : data.length = 16)
    (ha : pa % 16 = 0) : s.windowWrite f off data =
      if s.poisoned (pa / 128) then s.countDrop f else s.agentPut pa data := by
  have hlo : max pa (128 * (pa / 128)) = pa := by omega
  have hhi : min (pa + 16) (128 * (pa / 128) + 128) - pa = 16 := by omega
  have htake : data.take 16 = data := List.take_of_length_le (by omega)
  simp only [State.windowWrite, h, hl, granulesOf_cell ha, List.foldl_cons, List.foldl_nil, State.putGranule, hlo, hhi,
    Nat.sub_self, List.drop_zero, htake]
  simp

theorem State.countDrop_eq (s : State) (f : Nat) : s.countDrop f =
    s.setFunc f { s.func f with mwdrop := min 0xFFFFFFFF ((s.func f).mwdrop + 1) } := by
  rw [State.countDrop, State.modFunc, satAt_eq_min]

theorem State.mem_refusedWrite (s : State) (f code : Nat) : ((s.countDrop f).aer f code).mem = s.mem :=
  ((KeepsAllBut.countDrop (.refl s [.host, .output])).aer.2 .memory (by decide)).1

theorem State.mwdrop_refusedWrite (s : State) (f code : Nat) :
    (((s.countDrop f).aer f code).func f).mwdrop = min 0xFFFFFFFF ((s.func f).mwdrop + 1) := by
  rw [State.aer, State.func_emit, State.func_modFunc_self, State.countDrop_eq, State.func_setFunc_self]

theorem State.agentPut_cell {pa : Nat} {data : List Byte} (ha : pa % 16 = 0) (hl : data.length = 16) :
    OneCell s (s.agentPut pa data) pa (BitVec.ofNat 128 (leValue data)) := by
  obtain ⟨hin, hout⟩ := s.agentPut_cells pa data (n := 1) ha hl
  have h0 := hin 0 (by decide)
  rw [Nat.mul_zero, Nat.add_zero, List.drop_zero, List.take_of_length_le (by omega)] at h0
  exact ⟨h0, fun c hc => hout c (by omega)⟩

theorem State.out_agentPut (s : State) (a : Nat) (data : List Byte) : (s.agentPut a data).out = s.out :=
  (KeepsAllBut.agentPut (.refl s Part.hbm)).out

end

/-! ### The commands of the windows -/

section
variable {s : State} {f : BitVec 2}

theorem execHostMemoryRead_memory (hr : s.mainRuns = true) (off : BitVec 36) (r : ReadRun) :
    exec (.hostMemoryRead f ⟨.memory, off⟩ r) s = .next (s.memRead f.toNat off.toNat r) := by
  show Host.Outcome.next (s.hostRead f.toNat off.toNat r .memory) = _
  simp [State.hostRead, hr]

theorem execHostMemoryRead_control (hr : s.mainRuns = true) (hm : (s.func f.toNat).mse = true) {off : BitVec 36}
    (ho : off.toNat < 0x100) (h8 : off.toNat % 8 = 0) : exec (.hostMemoryRead f ⟨.control, off⟩ ⟨8, [], false⟩) s =
      .next (s.emit (.readData f.toNat (leBytes 8 (s.ohpReg f.toNat off.toNat)))) := by
  show Host.Outcome.next (s.hostRead f.toNat off.toNat ⟨8, [], false⟩ .control) = _
  simp only [State.hostRead, hr, Bool.not_true, Bool.false_eq_true, if_false, State.controlRead_register hm ho h8]

theorem execHostMemoryRead_ingest (hr : s.mainRuns = true) (off : BitVec 36) (r : ReadRun) :
    exec (.hostMemoryRead f ⟨.ingest, off⟩ r) s = .next (s.refuseRead f.toNat) := by
  show Host.Outcome.next (s.hostRead f.toNat off.toNat r .ingest) = _
  simp [State.hostRead, hr]

/-- With PCIe off the host reaches nothing (R376). -/
theorem hostWindows_off (hr : s.mainRuns = false) (at_ : ReadAt) (run : ReadRun) (off : BitVec 36) (data : List Byte)
    (m : TlpMark) : exec (.hostMemoryRead f at_ run) s = .next s ∧ exec (.hostMemoryWrite f off data m) s = .next s := by
  constructor
  · show Host.Outcome.next (s.hostRead f.toNat at_.off.toNat run at_.window) = _
    simp [State.hostRead, hr]
  · show Host.Outcome.next (s.memWrite f.toNat off.toNat data m) = _
    simp [State.memWrite, hr]

/-- Reads of the control window and of the configuration space. -/
theorem registers_read (hr : s.mainRuns = true) :
    let reads := fun (w : HostWindow) (off : BitVec 36) (n v : Nat) => exec (.hostMemoryRead f ⟨w, off⟩ ⟨n, [], false⟩) s =
      .next { s with out := s.out ++ [Output.readData f.toNat (leBytes n v)] };
    ((s.func f.toNat).mse = true → reads .control 0x80 8 (s.func f.toNat).reqpc ∧ reads .control 0x40 8 (s.func f.toNat).ver ∧
      reads .control 0 8 (0x6416 * 2 ^ 48 + 0xB1 * 2 ^ 40 + 7 * 2 ^ 32 + f.toNat)) ∧
    reads .config 0 4 (0x6416 * 2 ^ 16 + 0x1E9B) ∧ reads .config 8 4 (0x118000 * 2 ^ 8 + 0xB1) := by
  refine ⟨fun hm => ⟨?_, ?_, ?_⟩, ?_, ?_⟩
  · exact (execHostMemoryRead_control hr hm (by decide) (by decide)).trans rfl
  · exact (execHostMemoryRead_control hr hm (by decide) (by decide)).trans rfl
  · exact (execHostMemoryRead_control hr hm (by decide) (by decide)).trans rfl
  · show Host.Outcome.next (s.hostRead f.toNat 0 ⟨4, [], false⟩ .config) = _
    simp only [State.hostRead, hr, Bool.not_true, Bool.false_eq_true, if_false]
    rfl
  · show Host.Outcome.next (s.hostRead f.toNat 8 ⟨4, [], false⟩ .config) = _
    simp only [State.hostRead, hr, Bool.not_true, Bool.false_eq_true, if_false]
    rfl

end
end Sys2Proof.Machine

namespace Sys2Proof.Machine

section
variable {s : State} {f : BitVec 2} {off : BitVec 36}

/-- A read of the memory window within one unit (R384, R386). -/
theorem memoryWindow_reads (hr : s.mainRuns = true) {m : MwEntry} (hu : SMap.get {} (s.func f.toNat).mw (off.toNat / 2 ^ 30) = m)
    {n : Nat} (hn : 0 < n) (hoff : off.toNat % 2 ^ 30 + n ≤ 2 ^ 30) :
    let x := s.func f.toNat
    let pa := m.hbase * 2 ^ 30 + off.toNat % 2 ^ 30
    let mapped := x.mse = true ∧ off.toNat / 2 ^ 30 < 2 ^ x.mwsize ∧ m.v = true
    (mapped → m.rd = true → (∀ g ∈ granulesOf pa n, s.poisoned g = false) → ∃ t : State,
      exec (.hostMemoryRead f ⟨.memory, off⟩ ⟨n, [], false⟩) s = .next t ∧
      t.out = s.out ++ [Output.readData f.toNat (readBytes s.mem n pa)] ∧ t.mem = s.mem) ∧
    (mapped → m.rd = true → ∀ g ∈ granulesOf pa n, s.poisoned g = true → ∃ t : State,
      exec (.hostMemoryRead f ⟨.memory, off⟩ ⟨n, [], false⟩) s = .next t ∧
      t.out = s.out ++ [Output.poisoned f.toNat (readBytes s.mem n pa), .aer f.toNat 12] ∧ t.mem = s.mem) ∧
    (¬ mapped ∨ m.rd = false → exec (.hostMemoryRead f ⟨.memory, off⟩ ⟨n, [], false⟩) s = .next (s.refuseRead f.toNat)) := by
  intro x pa mapped
  have hexec : exec (.hostMemoryRead f ⟨.memory, off⟩ ⟨n, [], false⟩) s = .next (s.windowRead f.toNat off.toNat n false) := by
    rw [execHostMemoryRead_memory hr, State.memRead_part hn hoff]
  refine ⟨fun ⟨hm, hs, hv⟩ hrd hp => ⟨_, hexec, ?_⟩, fun ⟨hm, hs, hv⟩ hrd g hg hp => ⟨_, hexec, ?_⟩, fun h => ?_⟩
  · rw [State.windowRead_whole (State.windowPa_some hu hm hs hv hrd) hp]
    exact ⟨congrArg (· ++ _) (s.out_agentBytes pa n), s.mem_agentBytes pa n⟩
  · exact State.windowRead_poisoned_spec (State.windowPa_some hu hm hs hv hrd) hg hp
  · rw [hexec, State.windowRead_unmapped (State.windowPa_none hu h)]

/-- A write of a cell through the memory window (R38, R384, R386, R387). -/
theorem memoryWindow_writes (hr : s.mainRuns = true) {m : MwEntry} (hu : SMap.get {} (s.func f.toNat).mw (off.toNat / 2 ^ 30) = m)
    {data : List Byte} (hl : data.length = 16) (ho : off.toNat % 16 = 0) :
    let x := s.func f.toNat
    let pa := m.hbase * 2 ^ 30 + off.toNat % 2 ^ 30
    let mapped := x.mse = true ∧ off.toNat / 2 ^ 30 < 2 ^ x.mwsize ∧ m.v = true
    (mapped → m.wr = true → s.poisoned (pa / 128) = false → ∃ t : State, exec (.hostMemoryWrite f off data .whole) s = .next t ∧
      OneCell s t pa (BitVec.ofNat 128 (leValue data)) ∧ t.out = s.out) ∧
    (mapped → m.wr = true → s.poisoned (pa / 128) = true → exec (.hostMemoryWrite f off data .whole) s =
      .next { s with funcs := SMap.set {} s.funcs f.toNat { x with mwdrop := min 0xFFFFFFFF (x.mwdrop + 1) } }) ∧
    (¬ mapped ∨ m.wr = false → ∃ t : State, exec (.hostMemoryWrite f off data .whole) s = .next t ∧ t.mem = s.mem ∧
      (t.func f.toNat).mwdrop = min 0xFFFFFFFF (x.mwdrop + 1)) ∧
    (x.cfg.ecrcCheck = true → exec (.hostMemoryWrite f off data .ecrcBad) s = .next (s.aer f.toNat 19)) ∧
    exec (.hostMemoryWrite f off data .poison) s = .next (s.aer f.toNat 12) := by
  intro x pa mapped
  have ha : pa % 16 = 0 := by omega
  have hexec : exec (.hostMemoryWrite f off data .whole) s = .next (s.windowWrite f.toNat off.toNat data) :=
    congrArg Host.Outcome.next (State.memWrite_cell hr hl ho)
  refine ⟨fun ⟨hm, hs, hv⟩ hwr hp => ⟨s.agentPut pa data, ?_, State.agentPut_cell ha hl, s.out_agentPut pa data⟩,
    fun ⟨hm, hs, hv⟩ hwr hp => ?_, fun h => ⟨(s.countDrop f.toNat).aer f.toNat aerUnsupported, ?_,
      s.mem_refusedWrite f.toNat _, s.mwdrop_refusedWrite f.toNat _⟩, fun hc => ?_, ?_⟩
  · rw [hexec, State.windowWrite_cell (State.windowPa_some hu hm hs hv hwr) hl ha, hp, if_neg Bool.false_ne_true]
  · rw [hexec, State.windowWrite_cell (State.windowPa_some hu hm hs hv hwr) hl ha, hp, if_pos rfl, State.countDrop_eq]
    rfl
  · rw [hexec, State.windowWrite, State.windowPa_none (write := true) hu h]
  · show Host.Outcome.next (s.memWrite f.toNat off.toNat data .ecrcBad) = _
    have hlost : s.tlpLost f.toNat (TlpMark.ecrcBad == .poison) (TlpMark.ecrcBad == .ecrcBad) = some (s.aer f.toNat 19) :=
      State.tlpLost_ecrc hc
    simp only [State.memWrite, hr, hlost, Bool.not_true, Bool.false_eq_true, if_false]
  · show Host.Outcome.next (s.memWrite f.toNat off.toNat data .poison) = _
    have hlost : s.tlpLost f.toNat (TlpMark.poison == .poison) (TlpMark.poison == .ecrcBad) = some (s.aer f.toNat 12) :=
      State.tlpLost_poisoned s f.toNat false
    simp only [State.memWrite, hr, hlost, Bool.not_true, Bool.false_eq_true, if_false]

end
end Sys2Proof.Machine

namespace Sys2Proof.Machine

/-! ### The fields of a DMA command and of its block (R400) -/

/-- The parity bits lie in no other field (R21). -/
theorem field_normalize (c : Cell) {hi lo : Nat} (h : hi < 116 ∨ 117 < lo) (hw : hi < 128) :
    field (normalize c) hi lo = field c hi lo := by
  rw [normalize, field_setField_of_apart _ _ h hw, field_setField_of_apart _ _ h hw]

/-- The bits of a cell below its parity, and those above, from its fields. -/
theorem field_mkCell (tag epoch spec pay : Nat) {hi lo : Nat} (h : hi < 116 ∨ 117 < lo) (hw : hi < 128) :
    field (mkCell tag epoch spec pay) hi lo =
      ((tag % 256) * 2 ^ 120 + (epoch % 4) * 2 ^ 118 + (spec % 2 ^ 52) * 2 ^ 64 + pay % 2 ^ 64) / 2 ^ lo % 2 ^ (hi + 1 - lo) := by
  have hlt : (tag % 256) * 2 ^ 120 + (epoch % 4) * 2 ^ 118 + (spec % 2 ^ 52) * 2 ^ 64 + pay % 2 ^ 64 < 2 ^ 128 := by omega
  rw [mkCell, field_normalize _ h hw, field, BitVec.toNat_ofNat, Nat.mod_eq_of_lt hlt]

theorem tag_mkRAW (v : Nat) : (mkRAW v).tag = tagRAW := by
  rw [Cell.tag, mkRAW, plain, field_mkCell _ _ _ _ (.inr (by decide)) (by decide)]
  simp only [tagRAW]
  omega

theorem pay_mkRAW {v : Nat} (h : v < 2 ^ 64) : (mkRAW v).pay = v := by
  rw [Cell.pay, mkRAW, plain, field_mkCell _ _ _ _ (.inl (by decide)) (by decide)]
  omega

/-- The third cell of a block: the function and the length, with 0 between (R400). -/
theorem fields_blockLength {f len : Nat} (hf : f < 4) (hl : len < 2 ^ 32) :
    field (mkRAW (f * 2 ^ 62 + len)) 31 0 = len ∧ field (mkRAW (f * 2 ^ 62 + len)) 61 32 = 0 ∧
    field (mkRAW (f * 2 ^ 62 + len)) 63 62 = f := by
  refine ⟨?_, ?_, ?_⟩
  · rw [mkRAW, plain, field_mkCell _ _ _ _ (.inl (by decide)) (by decide)]
    omega
  · rw [mkRAW, plain, field_mkCell _ _ _ _ (.inl (by decide)) (by decide)]
    omega
  · rw [mkRAW, plain, field_mkCell _ _ _ _ (.inl (by decide)) (by decide)]
    omega

section
variable (c : JCmd) {cmd : Nat}

theorem JCmd.tag_cell : (JCmd.cell c cmd).tag = c.tag.toNat := by
  have := c.tag.isLt
  rw [Cell.tag, JCmd.cell, field_mkCell _ _ _ _ (.inr (by decide)) (by decide)]
  omega

theorem JCmd.epoch_cell : (JCmd.cell c cmd).epoch = c.epoch.toNat := by
  have := c.epoch.isLt
  rw [Cell.epoch, JCmd.cell, field_mkCell _ _ _ _ (.inr (by decide)) (by decide)]
  omega

theorem JCmd.cmd_cell (h : cmd < 16) : field (JCmd.cell c cmd) 115 112 = cmd := by
  have h1 := c.dest.isLt
  have h2 := c.rtag.isLt
  have h3 := c.rsvd.isLt
  have h4 : b2n c.dk ≤ 1 := by cases c.dk <;> decide
  rw [JCmd.cell, field_mkCell _ _ _ _ (.inl (by decide)) (by decide)]
  omega

theorem JCmd.rsvd_cell : field (JCmd.cell c cmd) 78 48 = c.rsvd.toNat := by
  have h1 := c.dest.isLt
  have h2 := c.rtag.isLt
  have h3 := c.rsvd.isLt
  have h4 : b2n c.dk ≤ 1 := by cases c.dk <;> decide
  have h5 := c.arg.isLt
  rw [JCmd.cell, field_mkCell _ _ _ _ (.inl (by decide)) (by decide)]
  omega

theorem JCmd.arg_cell : field (JCmd.cell c cmd) 47 0 = c.arg.toNat := by
  have h5 := c.arg.isLt
  rw [JCmd.cell, field_mkCell _ _ _ _ (.inl (by decide)) (by decide)]
  omega

end

end Sys2Proof.Machine

namespace Sys2Proof.Machine

/-! ### DMA commands (R400) -/

/-- From `s` to `t` the completion of the DMA command `c` has been put on port 10. -/
def State.Posted (s t : State) (c : Cell) (status value : Nat) : Prop := SMap.get [] t.ports 10 = SMap.get [] s.ports 10 ++
  [⟨10, c.getLsbD 111, status, c.toNat / 2 ^ 95 % 2 ^ 16, c.toNat / 2 ^ 79 % 2 ^ 16, value⟩]

section
variable {s t : State} {c : Cell} {status value : Nat} {l : List (Cell × Option Nat)}

theorem State.posted_dmaDone (s : State) (c : Cell) (status value : Nat) : s.Posted (s.dmaDone c status value) c status value :=
  SMap.get_set_self _ _ _ _

/-- What goes before a completion and after it leaves port 10 alone. -/
theorem State.Posted.of_ports (h : s.Posted t c status value) {s' t' : State}
    (hs : SMap.get [] s.ports 10 = SMap.get [] s'.ports 10) (ht : t'.ports = t.ports) : s'.Posted t' c status value := by
  rw [State.Posted, ht, ← hs]
  exact h

theorem State.ports_meshLost (s : State) (pa : Nat) : SMap.get [] (s.meshLost pa).ports 10 = SMap.get [] s.ports 10 := by
  simp only [State.meshLost, State.logErr]
  split
  · exact SMap.get_set_ne _ _ _ (show (10 : Nat) ≠ 14 by decide)
  · rfl

theorem KeepsAllBut.ports {ps : List Part} (h : KeepsAllBut s t ps) (hp : .collector ∉ ps := by decide) : t.ports = s.ports :=
  (h.2 .collector hp).2.1

theorem KeepsAllBut.dmaState {ps : List Part} (h : KeepsAllBut s t ps) (hp : .host ∉ ps := by decide) :
    t.dma = s.dma ∧ t.dmaQ = s.dmaQ := (h.2 .host hp).2

theorem KeepsAllBut.memState {ps : List Part} (h : KeepsAllBut s t ps) (hp : .memory ∉ ps := by decide) :
    t.mem = s.mem ∧ t.poison = s.poison := ⟨(h.2 .memory hp).1, (h.2 .memory hp).2.1⟩

theorem State.keeps_wakeTo (s : State) (req : Nat) : KeepsAllBut s (s.wakeTo req) [.power] :=
  KeepsAllBut.wakeTo (.refl s [.power])

theorem State.keeps_agentBytes (s : State) (a n : Nat) : KeepsAllBut s (s.agentBytes a n).2 [.caches, .cores, .power] :=
  KeepsAllBut.agentBytes (.refl s _)

theorem State.keeps_meshLost (s : State) (pa : Nat) : KeepsAllBut s (s.meshLost pa) [.collector, .dependability] :=
  KeepsAllBut.meshLost (.refl s _)

/-! ### The first of the waiting commands -/

theorem State.dmaNext_reserved {mesh : Option Nat} (h : 2 < field c 115 112 ∨ field c 78 48 ≠ 0) :
    s.dmaNext ((c, mesh) :: l) = (s.dmaDone c 0x47 0).dmaNext l := by
  have hbad : (decide (2 < field c 115 112) || field c 78 48 != 0 || field c 115 112 == 0 && field c 47 0 != 0) = true := by
    rcases h with h | h <;> simp [h]
  rw [State.dmaNext, if_pos hbad]

theorem State.dmaNext_nop {mesh : Option Nat} (h0 : field c 115 112 = 0) (hr : field c 78 48 = 0) (ha : field c 47 0 = 0) :
    s.dmaNext ((c, mesh) :: l) = (s.dmaDone c 0 0).dmaNext l := by
  rw [State.dmaNext]
  simp [h0, hr, ha]

/-- A transfer whose fields are in order goes on to its block. -/
theorem State.dmaNext_transfer {mesh : Option Nat} {k : Nat} (hk : k = 1 ∨ k = 2) (hc : field c 115 112 = k)
    (hr : field c 78 48 = 0) : s.dmaNext ((c, mesh) :: l) =
      if mesh.isSome then ((s.meshLost (mesh.getD 0)).dmaDone c 0x46 0).dmaNext l
      else if field c 47 0 % 16 == 0 && (granulesOf (field c 47 0) 48).any s.poisoned then (s.dmaDone c 0x46 0).dmaNext l
      else match s.dmaBlock c with
        | none => (s.dmaDone c 0x47 0).dmaNext l
        | some d =>
          if !(s.func d.func).bme then ((s.agentBytes (field c 47 0) 48).2.dmaDone c 0x46 0).dmaNext l
          else { (s.agentBytes (field c 47 0) 48).2 with dma := some d, dmaQ := l } := by
  have hbad : (decide (2 < field c 115 112) || field c 78 48 != 0 || field c 115 112 == 0 && field c 47 0 != 0) = false := by
    rcases hk with rfl | rfl <;> simp [hc, hr]
  have h0 : (field c 115 112 == 0) = false := by
    rcases hk with rfl | rfl <;> simp [hc]
  rw [State.dmaNext, hbad, h0, if_neg Bool.false_ne_true, if_neg Bool.false_ne_true] <;> rfl

theorem State.dmaNext_mesh {pa k : Nat} (hk : k = 1 ∨ k = 2) (hc : field c 115 112 = k) (hr : field c 78 48 = 0) :
    s.dmaNext ((c, some pa) :: l) = ((s.meshLost pa).dmaDone c 0x46 0).dmaNext l := by
  rw [State.dmaNext_transfer hk hc hr]
  rfl

/-- A transfer begins with what its block says. -/
theorem State.dmaNext_begins {d : Dma} {k : Nat} (hk : k = 1 ∨ k = 2) (hc : field c 115 112 = k) (hr : field c 78 48 = 0)
    (hp : ∀ g, s.poisoned g = false) (hb : s.dmaBlock c = some d) (hm : (s.func d.func).bme = true) :
    s.dmaNext ((c, none) :: l) = { (s.agentBytes (field c 47 0) 48).2 with dma := some d, dmaQ := l } := by
  have hany : (granulesOf (field c 47 0) 48).any s.poisoned = false := by
    rw [List.any_eq_false]
    exact fun g _ => by simp [hp g]
  rw [State.dmaNext_transfer hk hc hr, hb]
  simp only [Option.isSome_none, Bool.false_eq_true, if_false, hany, Bool.and_false, hm, Bool.not_true]

/-- The block of a transfer in order (R400). -/
theorem State.dmaBlock_of_cells {k a hbm bus f len : Nat} (hc : field c 115 112 = k) (ha : field c 47 0 = a) (h16 : a % 16 = 0)
    (hend : a + 48 ≤ hbmEnd) (h0 : s.cell a = mkRAW hbm) (h1 : s.cell (a + 16) = mkRAW bus)
    (h2 : s.cell (a + 32) = mkRAW (f * 2 ^ 62 + len)) (hf : f < 4) (hh : hbm % 16 = 0) (hb : bus % 16 = 0) (hb64 : bus < 2 ^ 64)
    (hl : len % 16 = 0) (hpos : 0 < len) (hl32 : len < 2 ^ 32) (hfits : hbm + len ≤ hbmEnd) :
    s.dmaBlock c = some ⟨c, k == 1, hbm, bus, f, len⟩ := by
  obtain ⟨hlen, hzero, hfunc⟩ := fields_blockLength hf hl32
  have hh64 : hbm < 2 ^ 64 := by
    have : hbmEnd < 2 ^ 64 := by decide
    omega
  have hpay0 := pay_mkRAW hh64
  have hpay1 := pay_mkRAW hb64
  have hn1 : ¬ hbmEnd < a + 48 := by omega
  have hn2 : ¬ hbmEnd < hbm + len := by omega
  have hn3 : len ≠ 0 := by omega
  simp only [State.dmaBlock, hc, ha, h0, h1, h2, tag_mkRAW, hpay0, hpay1, hlen, hzero, hfunc]
  simp [h16, hh, hb, hl, hn1, hn2, hn3]

/-- A DMCMD write that the port takes (R400). -/
theorem State.dmcmd_of_taken {mesh : Option Nat} (ht : c.tag = tagRAW) (he : c.epoch = 0) (hh : s.boot.held = false) :
    s.dmcmd c mesh = if (s.wakeTo 3).dma.isSome then { s.wakeTo 3 with dmaQ := (s.wakeTo 3).dmaQ ++ [(c, mesh)] }
      else (s.wakeTo 3).dmaNext [(c, mesh)] := by
  have hok : (c.tag != tagRAW || c.epoch != 0 || s.boot.held) = false := by simp [ht, he, hh]
  rw [State.dmcmd, hok, if_neg Bool.false_ne_true]

end
end Sys2Proof.Machine

namespace Sys2Proof.Machine

section
variable {s u : State} {c : Cell} {k status value : Nat}

/-- A command that completes while nothing transfers and nothing waits. -/
theorem State.dmaDone_completes (hp : SMap.get [] u.ports 10 = SMap.get [] s.ports 10) (hd : u.dma = none) :
    s.Posted ((u.dmaDone c status value).dmaNext []) c status value ∧ ((u.dmaDone c status value).dmaNext []).dma = none := by
  have hnil : (u.dmaDone c status value).dmaNext [] = { u.dmaDone c status value with dmaQ := [] } := by rw [State.dmaNext]
  rw [hnil]
  exact ⟨(u.posted_dmaDone c status value).of_ports hp rfl, hd⟩

theorem State.wakeTo_dma (s : State) (req : Nat) (h : s.dma = none) :
    SMap.get [] (s.wakeTo req).ports 10 = SMap.get [] s.ports 10 ∧ (s.wakeTo req).dma = none :=
  ⟨congrArg (SMap.get [] · 10) (s.keeps_wakeTo req).ports, ((s.keeps_wakeTo req).dmaState.1).trans h⟩

/-- While a transfer is under way a command waits. -/
theorem State.dmcmd_waits {d : Dma} {mesh : Option Nat} (ht : c.tag = tagRAW) (he : c.epoch = 0) (hh : s.boot.held = false)
    (hd : s.dma = some d) : s.dmcmd c mesh = { s.wakeTo 3 with dmaQ := s.dmaQ ++ [(c, mesh)] } := by
  obtain ⟨hdma, hq⟩ := (s.keeps_wakeTo 3).dmaState
  rw [State.dmcmd_of_taken ht he hh, hdma, hd, Option.isSome_some, if_pos rfl, hq]

theorem State.dmcmd_begins {mesh : Option Nat} (ht : c.tag = tagRAW) (he : c.epoch = 0) (hh : s.boot.held = false)
    (hd : s.dma = none) : s.dmcmd c mesh = (s.wakeTo 3).dmaNext [(c, mesh)] := by
  rw [State.dmcmd_of_taken ht he hh, (s.keeps_wakeTo 3).dmaState.1, hd, if_neg (by simp)]

end

section
variable {s : State} {c : JCmd}

/-- A command whose block's read meets nothing is the write of its cell. -/
theorem State.dmaCmd_of_calm (h : c.hit.ecc = []) (s : State) (k : Nat) :
    s.dmaCmd c k = s.dmcmd (JCmd.cell c k) (c.hit.meshAt.map (·.toNat)) := by
  have hecc : s.eccFinds c.arg.toNat 48 c.hit.ecc = s := by rw [h]; rfl
  rw [State.dmaCmd, hecc, ite_self]

theorem JCmd.tagRAW_cell (h : c.tag = 0x3F) (k : Nat) : (JCmd.cell c k).tag = tagRAW := by
  rw [JCmd.tag_cell, h]
  rfl

theorem JCmd.epochZero_cell (h : c.epoch = 0) (k : Nat) : (JCmd.cell c k).epoch = 0 := by
  rw [JCmd.epoch_cell, h]
  rfl

/-- DMA commands while one transfers. -/
theorem dmaCommands_wait (ht : c.tag = 0x3F) (he : c.epoch = 0) (hh : s.boot.held = false) (hc : c.hit = {}) {d : Dma}
    (hd : s.dma = some d) :
    exec (.dmcmdNop c) s = .next { s.wakeTo 3 with dmaQ := s.dmaQ ++ [(JCmd.cell c 0, none)] } ∧
    exec (.tohost c) s = .next { s.wakeTo 3 with dmaQ := s.dmaQ ++ [(JCmd.cell c 1, none)] } ∧
    exec (.fromhost c) s = .next { s.wakeTo 3 with dmaQ := s.dmaQ ++ [(JCmd.cell c 2, none)] } := by
  have hwaits : ∀ k, s.dmcmd (JCmd.cell c k) = { s.wakeTo 3 with dmaQ := s.dmaQ ++ [(JCmd.cell c k, none)] } := fun k =>
    State.dmcmd_waits (JCmd.tagRAW_cell ht k) (JCmd.epochZero_cell he k) hh hd
  have hcmd : ∀ k, s.dmaCmd c k = s.dmcmd (JCmd.cell c k) := fun k => by
    rw [State.dmaCmd_of_calm (by rw [hc]), hc]
    rfl
  exact ⟨congrArg Host.Outcome.next (hwaits 0), congrArg Host.Outcome.next ((hcmd 1).trans (hwaits 1)),
    congrArg Host.Outcome.next ((hcmd 2).trans (hwaits 2))⟩

theorem dmcmdNop_completes (ht : c.tag = 0x3F) (he : c.epoch = 0) (hh : s.boot.held = false) (hd : s.dma = none)
    (hr : c.rsvd = 0) (ha : c.arg = 0) :
    ∃ t : State, exec (.dmcmdNop c) s = .next t ∧ s.Posted t (JCmd.cell c 0) 0 0 ∧ t.dma = none := by
  have hrun : s.dmcmd (JCmd.cell c 0) = ((s.wakeTo 3).dmaDone (JCmd.cell c 0) 0 0).dmaNext [] := by
    rw [State.dmcmd_begins (JCmd.tagRAW_cell ht 0) (JCmd.epochZero_cell he 0) hh hd,
      State.dmaNext_nop (JCmd.cmd_cell c (by decide)) (by rw [JCmd.rsvd_cell, hr]; rfl) (by rw [JCmd.arg_cell, ha]; rfl)]
  obtain ⟨hp, hw⟩ := s.wakeTo_dma 3 hd
  exact ⟨_, congrArg Host.Outcome.next hrun, State.dmaDone_completes hp hw⟩

/-- A transfer whose reserved field is not 0 completes with 0x47. -/
theorem dmaCmd_reserved (ht : c.tag = 0x3F) (he : c.epoch = 0) (hh : s.boot.held = false) (hc : c.hit = {}) (hd : s.dma = none)
    (hr : c.rsvd ≠ 0) (k : Nat) : s.Posted (s.dmaCmd c k) (JCmd.cell c k) 0x47 0 ∧ (s.dmaCmd c k).dma = none := by
  have hne : field (JCmd.cell c k) 78 48 ≠ 0 := by
    rw [JCmd.rsvd_cell]
    exact fun h => hr (BitVec.eq_of_toNat_eq h)
  rw [State.dmaCmd_of_calm (by rw [hc]), State.dmcmd_begins (JCmd.tagRAW_cell ht k) (JCmd.epochZero_cell he k) hh hd,
    State.dmaNext_reserved (.inr hne)]
  obtain ⟨hp, hw⟩ := s.wakeTo_dma 3 hd
  exact State.dmaDone_completes hp hw

/-- A transfer whose block could not be transferred over the mesh completes with 0x46. -/
theorem dmaCmd_mesh (ht : c.tag = 0x3F) (he : c.epoch = 0) (hh : s.boot.held = false) {a : BitVec 48}
    (hc : c.hit = { meshAt := some a }) (hd : s.dma = none) (hr : c.rsvd = 0) {k : Nat} (hk : k = 1 ∨ k = 2) :
    s.Posted (s.dmaCmd c k) (JCmd.cell c k) 0x46 0 ∧ (s.dmaCmd c k).dma = none := by
  have hmesh : c.hit.meshAt.map (·.toNat) = some a.toNat := by rw [hc]; rfl
  have hrsvd : field (JCmd.cell c k) 78 48 = 0 := by rw [JCmd.rsvd_cell, hr]; rfl
  rw [State.dmaCmd_of_calm (by rw [hc]), hmesh, State.dmcmd_begins (JCmd.tagRAW_cell ht k) (JCmd.epochZero_cell he k) hh hd,
    State.dmaNext_mesh hk (JCmd.cmd_cell c (by omega)) hrsvd]
  obtain ⟨hp, hw⟩ := s.wakeTo_dma 3 hd
  exact State.dmaDone_completes (((s.wakeTo 3).ports_meshLost a.toNat).trans hp)
    (((s.wakeTo 3).keeps_meshLost a.toNat).dmaState.1.trans hw)

/-- A transfer in order begins, and reading its block leaves memory as it is. -/
theorem State.dmaNext_begins_spec {v : Cell} {d : Dma} {k : Nat} (hk : k = 1 ∨ k = 2) (hv : field v 115 112 = k)
    (hr : field v 78 48 = 0) (hp : ∀ g, s.poisoned g = false) (hb : s.dmaBlock v = some d) (hm : (s.func d.func).bme = true) :
    (s.dmaNext [(v, none)]).mem = s.mem ∧ (s.dmaNext [(v, none)]).dma = some d := by
  rw [State.dmaNext_begins hk hv hr hp hb hm]
  exact ⟨s.mem_agentBytes _ _, rfl⟩

theorem State.dmaBlock_of_mem {t : State} (h : t.mem = s.mem) (v : Cell) : t.dmaBlock v = s.dmaBlock v := by
  have hcell : ∀ p, t.cell p = s.cell p := fun p => by rw [State.cell, State.cell, h]
  simp only [State.dmaBlock, hcell]

theorem dmaCmd_begins (ht : c.tag = 0x3F) (he : c.epoch = 0) (hh : s.boot.held = false) (hc : c.hit = {}) (hd : s.dma = none)
    (hr : c.rsvd = 0) {k hbm bus f len : Nat} (hk : k = 1 ∨ k = 2) (h16 : c.arg.toNat % 16 = 0) (hend : c.arg.toNat + 48 ≤ hbmEnd)
    (h0 : s.cell c.arg.toNat = mkRAW hbm) (h1 : s.cell (c.arg.toNat + 16) = mkRAW bus)
    (h2 : s.cell (c.arg.toNat + 32) = mkRAW (f * 2 ^ 62 + len)) (hf : f < 4) (hhbm : hbm % 16 = 0) (hbus : bus % 16 = 0)
    (hb64 : bus < 2 ^ 64) (hl : len % 16 = 0) (hpos : 0 < len) (hl32 : len < 2 ^ 32) (hfits : hbm + len ≤ hbmEnd)
    (hm : (s.func f).bme = true) (hp : ∀ g, s.poisoned g = false) :
    (s.dmaCmd c k).mem = s.mem ∧ (s.dmaCmd c k).dma = some ⟨JCmd.cell c k, k == 1, hbm, bus, f, len⟩ := by
  have hw := s.keeps_wakeTo 3
  obtain ⟨hmem, hpoison⟩ := hw.memState
  have hcmd : field (JCmd.cell c k) 115 112 = k := JCmd.cmd_cell c (by omega)
  have hrsvd : field (JCmd.cell c k) 78 48 = 0 := by rw [JCmd.rsvd_cell, hr]; rfl
  have hblock : (s.wakeTo 3).dmaBlock (JCmd.cell c k) = some ⟨JCmd.cell c k, k == 1, hbm, bus, f, len⟩ :=
    (State.dmaBlock_of_mem hmem _).trans (State.dmaBlock_of_cells hcmd (JCmd.arg_cell c) h16 hend h0 h1 h2 hf hhbm hbus hb64 hl
      hpos hl32 hfits)
  have hfree : ∀ g, (s.wakeTo 3).poisoned g = false := fun g => (congrArg (SMap.get false · g) hpoison).trans (hp g)
  have hbme : ((s.wakeTo 3).func f).bme = true := by rw [State.func_of_funcs hw.funcs, hm]
  have hrun : s.dmaCmd c k = (s.wakeTo 3).dmaNext [(JCmd.cell c k, none)] := by
    have hmesh : c.hit.meshAt.map (·.toNat) = none := by rw [hc]; rfl
    rw [State.dmaCmd_of_calm (by rw [hc]), hmesh,
      State.dmcmd_begins (JCmd.tagRAW_cell ht k) (JCmd.epochZero_cell he k) hh hd]
  obtain ⟨hmem', hdma⟩ := State.dmaNext_begins_spec hk hcmd hrsvd hfree hblock hbme
  rw [hrun]
  exact ⟨hmem'.trans hmem, hdma⟩

end

/-! ### The end of a transfer -/

section
variable {s : State} {d : Dma} {r : DmaResult}

/-- A transfer that ends while no other waits. -/
theorem State.dmaEnd_completes {u : State} {status value : Nat} (hp : u.ports = s.ports) (hq : u.dmaQ = []) :
    s.Posted (u.dmaEnd d status value) d.cmd status value ∧ (u.dmaEnd d status value).dma = none ∧
    (u.dmaEnd d status value).mem = u.mem ∧ (u.dmaEnd d status value).out = u.out := by
  have hend : u.dmaEnd d status value = (({ u with dma := none } : State).dmaDone d.cmd status value).dmaNext [] := by
    have hdone : (({ u with dma := none } : State).dmaDone d.cmd status value).dmaQ = [] := hq
    rw [State.dmaEnd, hdone]
  have hnil : (({ u with dma := none } : State).dmaDone d.cmd status value).dmaNext [] =
      { ({ u with dma := none } : State).dmaDone d.cmd status value with dmaQ := [] } := by rw [State.dmaNext]
  obtain ⟨h1, h2⟩ := State.dmaDone_completes (s := s) (u := { u with dma := none }) (c := d.cmd) (status := status)
    (value := value) (congrArg (SMap.get [] · 10) hp) rfl
  rw [hend]
  refine ⟨h1, h2, ?_⟩
  rw [hnil]
  exact ⟨rfl, rfl⟩

theorem dmaToHost_completes (hd : s.dma = some d) (hq : s.dmaQ = []) (hh : d.toHost = true) (hfail : r.failed = false)
    (hmesh : r.meshAt = none) (hecc : r.ecc = []) (hp : ∀ g ∈ granulesOf d.hbm d.len, s.poisoned g = false) :
    ∃ t : State, exec (.dmaTransferComplete r) s = .next t ∧ t.dma = none ∧ s.Posted t d.cmd 0 d.len ∧
      t.out = s.out ++ [Output.hostWrite d.func d.bus (readBytes s.mem d.len d.hbm)] ∧ t.mem = s.mem := by
  have hfind : (granulesOf d.hbm d.len).find? s.poisoned = none := by
    rw [List.find?_eq_none]
    exact fun g hg => by simp [hp g hg]
  have hfinds : s.eccFinds d.hbm d.len r.ecc = s := by rw [hecc]; rfl
  have hrun : s.dmaComplete r =
      ((s.agentBytes d.hbm d.len).2.emit (Output.hostWrite d.func d.bus (readBytes s.mem d.len d.hbm))).dmaEnd d 0 d.len := by
    simp only [State.dmaComplete, hd, hfail, hmesh, hh, hfinds, hfind, Option.isSome_none, Bool.or_self, Bool.false_eq_true,
      if_false, if_true, Bool.false_or, Nat.lt_irrefl, decide_false]
    rfl
  have hk := s.keeps_agentBytes d.hbm d.len
  obtain ⟨h1, h2, h3, h4⟩ := State.dmaEnd_completes (s := s) (d := d) (status := 0) (value := d.len)
    (u := (s.agentBytes d.hbm d.len).2.emit (Output.hostWrite d.func d.bus (readBytes s.mem d.len d.hbm))) hk.ports
    (hk.dmaState.2.trans hq)
  refine ⟨_, congrArg Host.Outcome.next hrun, h2, h1, ?_, h3.trans hk.memState.1⟩
  rw [h4]
  exact congrArg (· ++ _) hk.out

theorem dmaFromHost_completes (hd : s.dma = some d) (hq : s.dmaQ = []) (hh : d.toHost = false) (hfail : r.failed = false)
    (hmesh : r.meshAt = none) (hlen : r.data.length = d.len) (ha : d.hbm % 16 = 0) (hl : d.len % 16 = 0)
    (hp : ∀ g ∈ granulesOf d.hbm d.len, s.poisoned g = false) :
    ∃ t : State, exec (.dmaTransferComplete r) s = .next t ∧ t.dma = none ∧ s.Posted t d.cmd 0 d.len ∧
      (∀ k, k < d.len / 16 → t.cell (d.hbm + 16 * k) =
        normalize (BitVec.ofNat 128 (leValue ((r.data.drop (16 * k)).take 16)))) ∧
      ∀ a, a < d.hbm ∨ d.hbm + d.len ≤ a → readByte t.mem a = readByte s.mem a := by
  have htake : r.data.take d.len = r.data := List.take_of_length_le (by omega)
  have hfind : (granulesOf d.hbm d.len).find? (fun g =>
      s.poisoned g && !(d.hbm ≤ 128 * g && 128 * g + 128 ≤ d.hbm + d.len)) = none := by
    rw [List.find?_eq_none]
    exact fun g hg => by simp [hp g hg]
  have hrun : s.dmaComplete r = (s.agentPut d.hbm r.data).dmaEnd d 0 d.len := by
    simp only [State.dmaComplete, hd, hfail, hmesh, hh, Option.isSome_none, Bool.or_self, Bool.false_eq_true, if_false,
      Bool.false_or, htake, hlen, hfind, Nat.lt_irrefl, decide_false]
  have hk : KeepsAllBut s (s.agentPut d.hbm r.data) Part.hbm := KeepsAllBut.agentPut (.refl s _)
  obtain ⟨h1, h2, h3, -⟩ := State.dmaEnd_completes (s := s) (d := d) (status := 0) (value := d.len)
    (u := s.agentPut d.hbm r.data) hk.ports (hk.dmaState.2.trans hq)
  obtain ⟨hin, hout⟩ := s.agentPut_cells d.hbm r.data (n := d.len / 16) ha (by omega)
  refine ⟨_, congrArg Host.Outcome.next hrun, h2, h1, fun k hlt => ?_, fun a h => ?_⟩
  · rw [State.cell, h3, ← State.cell]
    exact hin k hlt
  · rw [h3]
    exact hout a (by omega)

theorem dmaComplete_idle (hd : s.dma = none) (r : DmaResult) : exec (.dmaTransferComplete r) s = .next s := by
  show Host.Outcome.next (s.dmaComplete r) = _
  rw [State.dmaComplete, hd]

end
end Sys2Proof.Machine

namespace Sys2Proof.Machine

section
variable {s : State} {f : BitVec 2} {wire : WireData} {off : BitVec 28}

/-! ### The ingest window (R307, R312, R313, R386, R397) -/

theorem State.ingestWrite_off (hr : s.mainRuns = false) (g off : Nat) (w : WireData) : s.ingestWrite g off w = s := by
  simp [State.ingestWrite, hr]

theorem State.ingestWrite_lost {g off : Nat} {w : WireData} (hr : s.mainRuns = true) (hp : w.poisoned = true) :
    s.ingestWrite g off w = s.aer g 12 := by
  simp only [State.ingestWrite, hr, hp, State.tlpLost_poisoned, Bool.not_true, Bool.false_eq_true, if_false]

/-- A whole write within one slot. -/
theorem State.ingestWrite_slot {g off : Nat} {w : WireData} (hr : s.mainRuns = true) (hp : w.poisoned = false)
    (he : w.ecrcBad = false) (hm : (s.func g).mse = true) (hn : 0 < w.bytes.length) (hoff : off < 2 ^ 28)
    (hin : off % 2 ^ 20 + w.bytes.length ≤ 2 ^ 20) :
    s.ingestWrite g off w = s.ingestSlot g (off / 2 ^ 20) (off % 2 ^ 20) w.bytes := by
  have hcount : (off + w.bytes.length - 1) / 2 ^ 20 + 1 - off / 2 ^ 20 = 1 := by omega
  have hne : (w.bytes.length == 0) = false := by
    rw [beq_eq_false_iff_ne]
    omega
  have hlo : max off ((off / 2 ^ 20 + 0) * 2 ^ 20) = off := by omega
  have hhi : min (off + w.bytes.length) ((off / 2 ^ 20 + 0 + 1) * 2 ^ 20) - off = w.bytes.length := by omega
  have hslot : (off / 2 ^ 20 + 0) % 256 = off / 2 ^ 20 := by omega
  have htake : w.bytes.take w.bytes.length = w.bytes := List.take_length
  simp only [State.ingestWrite, hr, hp, he, hm, hne, hcount, State.tlpLost_whole, Bool.not_true, Bool.or_self, Bool.false_eq_true,
    if_false, List.range_one, List.foldl_cons, List.foldl_nil, hlo, hhi, hslot, Nat.sub_self, List.drop_zero, htake]

/-- A write to a slot that feeds no running stream is counted (R397). -/
theorem State.ingestSlot_unfed {g slot o : Nat} {data : List Byte}
    (h : (s.fedBy 2 g slot).filter (fun e => e.2.2.running) = []) :
    s.ingestSlot g slot o data = s.setFunc g { s.func g with idrop := min 0xFFFFFFFF ((s.func g).idrop + 1) } := by
  simp only [State.ingestSlot, h, State.modFunc, satAt_eq_min]

/-- The eight bytes at the end of a slot set the anchor of its samples (R313). -/
theorem State.ingestSlot_anchor {g slot n m : Nat} {y : GySlot} {data : List Byte}
    (h : (s.fedBy 2 g slot).filter (fun e => e.2.2.running) = [(n, m, y)]) (hl : data.length = 8) :
    s.ingestSlot g slot 0xFFFF0 data = s.setIngest (256 * g + slot)
      { s.ingestOf (256 * g + slot) with anchor := leValue data, since := 0 } := by
  simp only [State.ingestSlot, h, hl, ingestEnd]
  simp

/-- A value that arrives where there is room: it enters the stream's FIFO (R307). -/
theorem State.gyInput_enters {g n v time : Nat} (hrun : (s.gySlot g n).running = true)
    (hroom : (nthD {} (s.gySlot g n).stages 0).inbox.length < dFdep (s.gySlot g n).desc) :
    let y := s.gySlot g n
    let st := nthD {} y.stages 0
    let t := s.gyInput g n v false time
    (t.gySlot g n).stages = setNth y.stages 0 { st with inbox := st.inbox ++ [{ vals := [], time := time, arr := s.now }] } ∧
    (t.gy g).smem = putWords (s.gy g).smem [(fifoByte y.desc (y.fifoPos + st.inbox.length), v)] := by
  have hfull : ¬ dFdep (s.gySlot g n).desc ≤ (nthD {} (s.gySlot g n).stages 0).inbox.length := by omega
  simp only [State.gyInput, hrun, hfull, Bool.not_true, Bool.false_eq_true, if_false]
  simp [State.gySlot, State.setGySlot, State.modGy, Geyser.slot]

/-- A sample that the slot expects: nothing is skipped, and it enters the stream. -/
theorem State.ingestData_sample {g n key o : Nat} {y : GySlot} {data : List Byte} (hnext : o = (s.ingestOf key).next)
    (hl : data.length = fmtBytes (dFmt y.desc)) (hpos : 0 < data.length) :
    let i := s.ingestOf key
    let w := { i with next := (o + data.length) % ingestEnd }
    s.ingestData g n key y o data = (((s.addInval g n 0).setIngest key w).gyInput g n
      (sampleValue (dFmt y.desc) (leValue data)) false (ingestTime i.anchor i.since y.desc)).setIngest key
      { w with since := i.since + 1 } := by
  intro i w
  have hskip : (o + ingestEnd - (s.ingestOf key).next) % ingestEnd / data.length = 0 := by
    rw [← hnext, Nat.add_sub_cancel_left, Nat.mod_self, Nat.zero_div]
  have hone : data.length / data.length = 1 := Nat.div_self hpos
  have htake : data.take data.length = data := List.take_length
  have hw : (s.addInval g n 0).ingestOf key = s.ingestOf key := rfl
  simp only [State.ingestData, ← hl, hskip, hone, htake, State.ingestGap, Nat.mod_self, beq_self_eq_true, if_true,
    State.ingestSamples, State.ingestOf_setIngest_self, hw]
  rfl

theorem State.ingestSlot_data {g slot o n m : Nat} {y : GySlot} {data : List Byte}
    (h : (s.fedBy 2 g slot).filter (fun e => e.2.2.running) = [(n, m, y)]) (hpos : 0 < data.length)
    (hin : o + data.length ≤ 0xFFFF0) : s.ingestSlot g slot o data = s.ingestData n m (256 * g + slot) y o data := by
  have hlt : ¬ ingestEnd ≤ o := by
    rw [ingestEnd]
    omega
  have htake : data.take (ingestEnd - o) = data := List.take_of_length_le (by rw [ingestEnd]; omega)
  simp only [State.ingestSlot, h, hlt, htake, if_false]

end

/-! ### The commands of the ingest window -/

section
variable {s : State} {f : BitVec 2} {off : BitVec 28} {wire : WireData}

theorem execIngestWrite_slot (hr : s.mainRuns = true) (hp : wire.poisoned = false) (he : wire.ecrcBad = false)
    (hm : (s.func f.toNat).mse = true) (hn : 0 < wire.bytes.length) (hin : off.toNat % 2 ^ 20 + wire.bytes.length ≤ 2 ^ 20) :
    exec (.ingestWrite f off wire) s =
      .next (s.ingestSlot f.toNat (off.toNat / 2 ^ 20) (off.toNat % 2 ^ 20) wire.bytes) :=
  congrArg Host.Outcome.next (State.ingestWrite_slot hr hp he hm hn off.isLt hin)

/-- The streams that a slot of the ingest window feeds now. -/
def State.fedRuns (s : State) (f slot : Nat) : List (Nat × Nat × GySlot) :=
  (s.fedBy 2 f slot).filter (fun e => e.2.2.running)

theorem State.running_of_fedRuns {g slot n m : Nat} {y : GySlot} (h : s.fedRuns g slot = [(n, m, y)]) : y.running = true := by
  have hmem : (n, m, y) ∈ s.fedRuns g slot := by
    rw [h]
    exact List.mem_singleton_self _
  exact (List.mem_filter.mp hmem).2

/-- The sample that a slot expects (R307, R312, R313). -/
theorem ingestSample_spec {slot g n m o : Nat} {y : GySlot} {data : List Byte} (hruns : s.fedRuns g slot = [(n, m, y)])
    (hy : y = s.gySlot n m) (hnext : o = (s.ingestOf (256 * g + slot)).next) (hl : data.length = fmtBytes (dFmt y.desc))
    (hpos : 0 < data.length) (hin : o + data.length ≤ 0xFFFF0) (hroom : (nthD {} y.stages 0).inbox.length < dFdep y.desc) :
    let w := s.ingestOf (256 * g + slot)
    let st := nthD {} y.stages 0
    let t := s.ingestSlot g slot o data
    t.ingestOf (256 * g + slot) = { w with next := (o + data.length) % 0xFFFF0, since := w.since + 1 } ∧
    (t.gySlot n m).stages = setNth y.stages 0 { st with inbox := st.inbox ++ [{
      vals := [], time := ingestTime w.anchor w.since y.desc, arr := s.now }] } ∧
    (t.gy n).smem = putWords (s.gy n).smem [(fifoByte y.desc (y.fifoPos + st.inbox.length),
      sampleValue (dFmt y.desc) (leValue data))] := by
  intro w st t
  let w' : Ingest := { w with next := (o + data.length) % ingestEnd }
  let u := (s.addInval n m 0).setIngest (256 * g + slot) w'
  have hu : u.gySlot n m = { y with inval := satAt 0xFF (y.inval + 0) } := by
    rw [hy]
    exact State.gySlot_setGySlot_self s n m _
  have hsmem : (u.gy n).smem = (s.gy n).smem := by
    show (SMap.get {} (SMap.set {} s.geysers n _) n).smem = _
    rw [SMap.get_set_self]
  have hrun : (u.gySlot n m).running = true := by
    have hy' := State.running_of_fedRuns hruns
    rw [hu]
    exact hy'
  have ht : t = (u.gyInput n m (sampleValue (dFmt y.desc) (leValue data)) false (ingestTime w.anchor w.since y.desc)).setIngest
      (256 * g + slot) { w' with since := w.since + 1 } :=
    (State.ingestSlot_data hruns hpos hin).trans (State.ingestData_sample hnext hl hpos)
  obtain ⟨hstages, hmem⟩ := State.gyInput_enters (s := u) (v := sampleValue (dFmt y.desc) (leValue data))
    (time := ingestTime w.anchor w.since y.desc) hrun (by rw [hu]; exact hroom)
  rw [hu] at hstages hmem
  rw [hsmem] at hmem
  generalize u.gyInput n m (sampleValue (dFmt y.desc) (leValue data)) false (ingestTime w.anchor w.since y.desc) = x
    at hstages hmem ht
  rw [ht]
  exact ⟨State.ingestOf_setIngest_self _ _ _, hstages, hmem⟩

end
end Sys2Proof.Machine

namespace Sys2Proof.Machine

/-! ### The statement -/

section
variable {s : State} {f : BitVec 2}

/-- The windows of a function while PCIe is on. -/
theorem hostWindows_spec (hr : s.mainRuns = true) (f : BitVec 2) :
    let x := s.func f.toNat
    let logged := fun code : Nat => SMap.set {} s.funcs f.toNat (x.withError code)
    let refused := { s with funcs := logged 20, out := s.out ++ [Output.unsupported f.toNat, .aer f.toNat 20] }
    let reads := fun (w : HostWindow) (off : BitVec 36) (n v : Nat) => exec (.hostMemoryRead f ⟨w, off⟩ ⟨n, [], false⟩) s =
      .next { s with out := s.out ++ [Output.readData f.toNat (leBytes n v)] };
    (x.mse = true → reads .control 0x80 8 x.reqpc ∧ reads .control 0x40 8 x.ver ∧
      reads .control 0 8 (0x6416 * 2 ^ 48 + 0xB1 * 2 ^ 40 + 7 * 2 ^ 32 + f.toNat)) ∧
    reads .config 0 4 (0x6416 * 2 ^ 16 + 0x1E9B) ∧ reads .config 8 4 (0x118000 * 2 ^ 8 + 0xB1) ∧
    (∀ off run, exec (.hostMemoryRead f ⟨.ingest, off⟩ run) s = .next refused) ∧
    (∀ off : BitVec 36, let u := off.toNat / 2 ^ 30
      let m := SMap.get {} x.mw u
      let pa := m.hbase * 2 ^ 30 + off.toNat % 2 ^ 30
      let mapped := x.mse = true ∧ u < 2 ^ x.mwsize ∧ m.v = true
      (∀ n, 0 < n → off.toNat % 2 ^ 30 + n ≤ 2 ^ 30 →
        (mapped → m.rd = true → (∀ g ∈ granulesOf pa n, s.poisoned g = false) → ∃ t : State,
          exec (.hostMemoryRead f ⟨.memory, off⟩ ⟨n, [], false⟩) s = .next t ∧
          t.out = s.out ++ [Output.readData f.toNat (readBytes s.mem n pa)] ∧ t.mem = s.mem) ∧
        (mapped → m.rd = true → ∀ g ∈ granulesOf pa n, s.poisoned g = true → ∃ t : State,
          exec (.hostMemoryRead f ⟨.memory, off⟩ ⟨n, [], false⟩) s = .next t ∧
          t.out = s.out ++ [Output.poisoned f.toNat (readBytes s.mem n pa), .aer f.toNat 12] ∧ t.mem = s.mem) ∧
        (¬ mapped ∨ m.rd = false → exec (.hostMemoryRead f ⟨.memory, off⟩ ⟨n, [], false⟩) s = .next refused)) ∧
      (∀ data : List Byte, data.length = 16 → off.toNat % 16 = 0 →
        (mapped → m.wr = true → s.poisoned (pa / 128) = false → ∃ t : State,
          exec (.hostMemoryWrite f off data .whole) s = .next t ∧
          OneCell s t pa (BitVec.ofNat 128 (leValue data)) ∧ t.out = s.out) ∧
        (mapped → m.wr = true → s.poisoned (pa / 128) = true → exec (.hostMemoryWrite f off data .whole) s =
          .next { s with funcs := SMap.set {} s.funcs f.toNat { x with mwdrop := min 0xFFFFFFFF (x.mwdrop + 1) } }) ∧
        (¬ mapped ∨ m.wr = false → ∃ t : State, exec (.hostMemoryWrite f off data .whole) s = .next t ∧ t.mem = s.mem ∧
          (t.func f.toNat).mwdrop = min 0xFFFFFFFF (x.mwdrop + 1)) ∧
        (x.cfg.ecrcCheck = true → exec (.hostMemoryWrite f off data .ecrcBad) s =
          .next { s with funcs := logged 19, out := s.out ++ [Output.aer f.toNat 19] }) ∧
        exec (.hostMemoryWrite f off data .poison) s =
          .next { s with funcs := logged 12, out := s.out ++ [Output.aer f.toNat 12] })) := by
  obtain ⟨hcontrol, hid, hclass⟩ := registers_read (f := f) hr
  refine ⟨hcontrol, hid, hclass, fun off run => ?_, fun off => ⟨fun n hn hoff => ?_, fun data hl ho => ?_⟩⟩
  · rw [execHostMemoryRead_ingest hr, State.refuseRead_eq]
  · obtain ⟨hwhole, hpoisoned, hrefused⟩ := memoryWindow_reads (f := f) hr rfl hn hoff
    refine ⟨hwhole, hpoisoned, fun h => ?_⟩
    rw [hrefused h, State.refuseRead_eq]
  · exact memoryWindow_writes hr rfl hl ho

/-- DMA commands whose block's read meets nothing (R400). -/
theorem dmaCommands_spec {c : JCmd} (f : BitVec 2) (ht : c.tag = 0x3F) (he : c.epoch = 0) (hh : s.boot.held = false)
    (hc : c.hit = {}) (hd : s.dma = none) :
    (c.rsvd = 0 → c.arg = 0 → ∃ t : State, exec (.dmcmdNop c) s = .next t ∧ s.Posted t (JCmd.cell c 0) 0 0 ∧ t.dma = none) ∧
    (c.rsvd ≠ 0 → (∃ t : State, exec (.tohost c) s = .next t ∧ s.Posted t (JCmd.cell c 1) 0x47 0 ∧ t.dma = none) ∧
      ∃ t : State, exec (.fromhost c) s = .next t ∧ s.Posted t (JCmd.cell c 2) 0x47 0 ∧ t.dma = none) ∧
    (∀ hbm bus len, c.rsvd = 0 → c.arg.toNat % 16 = 0 → c.arg.toNat + 48 ≤ hbmEnd → s.cell c.arg.toNat = mkRAW hbm →
      s.cell (c.arg.toNat + 16) = mkRAW bus → s.cell (c.arg.toNat + 32) = mkRAW (f.toNat * 2 ^ 62 + len) → hbm % 16 = 0 →
      bus % 16 = 0 → bus < 2 ^ 64 → len % 16 = 0 → 0 < len → len < 2 ^ 32 → hbm + len ≤ hbmEnd → (s.func f.toNat).bme = true →
      (∀ g, s.poisoned g = false) →
      (∃ t : State, exec (.tohost c) s = .next t ∧ t.mem = s.mem ∧
        t.dma = some ⟨JCmd.cell c 1, true, hbm, bus, f.toNat, len⟩) ∧
      ∃ t : State, exec (.fromhost c) s = .next t ∧ t.mem = s.mem ∧
        t.dma = some ⟨JCmd.cell c 2, false, hbm, bus, f.toNat, len⟩) := by
  refine ⟨dmcmdNop_completes ht he hh hd, fun hr => ⟨⟨s.dmaCmd c 1, rfl, dmaCmd_reserved ht he hh hc hd hr 1⟩,
    s.dmaCmd c 2, rfl, dmaCmd_reserved ht he hh hc hd hr 2⟩, ?_⟩
  intro hbm bus len hr h16 hend h0 h1 h2 hhbm hbus hb64 hl hpos hl32 hfits hm hp
  have hbegins : ∀ k, k = 1 ∨ k = 2 → (s.dmaCmd c k).mem = s.mem ∧
      (s.dmaCmd c k).dma = some ⟨JCmd.cell c k, k == 1, hbm, bus, f.toNat, len⟩ := fun k hk =>
    dmaCmd_begins ht he hh hc hd hr hk h16 hend h0 h1 h2 f.isLt hhbm hbus hb64 hl hpos hl32 hfits hm hp
  exact ⟨⟨s.dmaCmd c 1, rfl, hbegins 1 (.inl rfl)⟩, s.dmaCmd c 2, rfl, hbegins 2 (.inr rfl)⟩

/-- A write of samples to the ingest window (R397). -/
theorem ingestWindow_spec {off : BitVec 28} {wire : WireData} (hr : s.mainRuns = true) (hp : wire.poisoned = false)
    (he : wire.ecrcBad = false) (hm : (s.func f.toNat).mse = true) (hn : 0 < wire.bytes.length)
    (hin : off.toNat % 2 ^ 20 + wire.bytes.length ≤ 2 ^ 20) :
    let data := wire.bytes
    let slot := off.toNat / 2 ^ 20
    let o := off.toNat % 2 ^ 20
    let key := 256 * f.toNat + slot
    let runs := s.fedRuns f.toNat slot
    let w := s.ingestOf key
    (runs = [] → ∃ t : State, exec (.ingestWrite f off wire) s = .next t ∧ t.geysers = s.geysers ∧
      (t.func f.toNat).idrop = min 0xFFFFFFFF ((s.func f.toNat).idrop + 1)) ∧
    (∀ g n y, runs = [(g, n, y)] → y = s.gySlot g n →
      (o = 0xFFFF0 → data.length = 8 → ∃ t : State, exec (.ingestWrite f off wire) s = .next t ∧
        t.ingestOf key = { w with anchor := leValue data, since := 0 } ∧ t.geysers = s.geysers) ∧
      (o = w.next → data.length = fmtBytes (dFmt y.desc) → o + data.length ≤ 0xFFFF0 →
        let st := nthD {} y.stages 0
        let v := sampleValue (dFmt y.desc) (leValue data)
        st.inbox.length < dFdep y.desc → ∃ t : State, exec (.ingestWrite f off wire) s = .next t ∧
          t.ingestOf key = { w with next := (o + data.length) % 0xFFFF0, since := w.since + 1 } ∧
          (t.gySlot g n).stages = setNth y.stages 0 { st with inbox := st.inbox ++ [{
            vals := [], time := ingestTime w.anchor w.since y.desc, arr := s.now }] } ∧
          (t.gy g).smem = putWords (s.gy g).smem [(fifoByte y.desc (y.fifoPos + st.inbox.length), v)])) := by
  intro data slot o key runs w
  have hexec := execIngestWrite_slot hr hp he hm hn hin
  refine ⟨fun h => ⟨_, hexec, ?_⟩, fun g n y h hy => ⟨fun ho hl => ⟨_, hexec, ?_⟩, fun ho hl hend hroom => ⟨_, hexec, ?_⟩⟩⟩
  · rw [State.ingestSlot_unfed h]
    exact ⟨rfl, congrArg Func.idrop (State.func_setFunc_self _ _ _)⟩
  · have hslot : s.ingestSlot f.toNat slot o data = s.setIngest key { w with anchor := leValue data, since := 0 } := by
      rw [ho]
      exact State.ingestSlot_anchor h hl
    rw [hslot]
    exact ⟨State.ingestOf_setIngest_self _ _ _, rfl⟩
  · exact ingestSample_spec h hy ho hl hn hend hroom

end

/-- Settles O59, by the three parts of the interface: the control window with the functions' resets and configuration, the
memory window with DMA, and the ingest window. -/
theorem hostFunctionsAndWindows : Obligations.HostFunctionsAndWindows := by
  refine ⟨fun s f => ⟨fun hr hm => controlWindow_spec hr hm, fun h v chk => controlWindow_shut h chk,
    fun i n e v h hu hf hv hen hver => execHfsig_spec h hu hf hv hen hver, execFlr_spec s f, execPerstN_low_spec s,
    execPerstN_high, fun hb => configWrite_spec hb, fun hb r v st => ?_, fun hb st => ?_⟩,
    fun s f => ⟨fun hr at_ run off data m => hostWindows_off hr at_ run off data m, fun hr => hostWindows_spec hr f,
      fun c ht he hh hc => ⟨fun d hd => dmaCommands_wait ht he hh hc hd, dmaCommands_spec f ht he hh hc⟩,
      fun c a ht he hh hd hr hc => ?_, fun hd r => dmaComplete_idle hd r, fun d hd hq => ⟨?_, ?_⟩⟩,
    fun s f off wire => ⟨fun hr => ?_, fun hr hp => ?_, fun hr hp he hm hn hin => ingestWindow_spec hr hp he hm hn hin⟩⟩
  · exact ⟨congrArg Host.Outcome.next (State.unheld_of_held hb _), congrArg Host.Outcome.next (State.unheld_of_held hb _)⟩
  · exact congrArg Host.Outcome.next (State.unheld_of_free hb _)
  · exact ⟨⟨s.dmaCmd c 1, rfl, dmaCmd_mesh ht he hh hc hd hr (.inl rfl)⟩,
      s.dmaCmd c 2, rfl, dmaCmd_mesh ht he hh hc hd hr (.inr rfl)⟩
  · exact fun r hh hfail hmesh hecc hp => dmaToHost_completes hd hq hh hfail hmesh hecc hp
  · exact fun r hh hfail hmesh hlen ha hl hp => dmaFromHost_completes hd hq hh hfail hmesh hlen ha hl hp
  · exact congrArg Host.Outcome.next (State.ingestWrite_off hr _ _ _)
  · exact ⟨s.aer f.toNat 12, congrArg Host.Outcome.next (State.ingestWrite_lost hr hp), rfl, rfl, rfl⟩

end Sys2Proof.Machine

/-! ## Generic arithmetic (O11 to O14, O17) -/

namespace Sys2Proof.Machine

/-! ### The decode leaves the registers (R102) -/

theorem State.regs_hbmServes (s : State) (g : Nat) (q : Cx) : (s.hbmServes g).regs q = s.regs q := by
  unfold State.hbmServes
  split <;> rfl

/-- The fetch of a further cell changes no register. -/
theorem keepsRegs_fetchCell (e : Env) (a opn : Nat) (q : Cx) (r : Regs) :
    KeepsM (fun u => u.regs q = r) (fetchCell e a opn) := by
  have htranslate : KeepsM (fun u => u.regs q = r) (translate e .fetch a opn) := by
    unfold Machine.translate translateSpan
    refine .bind (.look _) fun s => .ite (.pure _) ?_
    split
    · exact .raise
    · split
      · exact .raise
      · exact .ite (.pure _) (by split; exacts [.raise, .pure _])
  have hjudge : ∀ c va, KeepsM (fun u => u.regs q = r) (judgeCode e c opn va) := fun _ _ =>
    .ite .raise (.ite .raise (.pure _))
  unfold Machine.fetchCell
  refine .bind htranslate fun ⟨_, pa⟩ => .bind (.look _) fun s => ?_
  split
  · exact .bind (hjudge _ _) fun _ => .pure _
  · exact .bind (hjudge _ _) fun _ => .pure _
  · refine .guard .raise fun _ => .bind (.act fun u h => ?_) fun _ => .bind (hjudge _ _) fun _ => .pure _
    split
    · rw [State.regs_hbmServes, (u.caches_agentClean _).regs, h]
    · split
      · exact h
      · rw [(u.caches_fetchTouch _ _).regs, h]
  · exact .raise

/-- The decode checks change no register. -/
theorem regs_of_checkM {e : Env} {a : Nat} {o : MOp} {ok : Bool} {s t : State} (h : checkM e a o ok s = .ok ((), t)) (q : Cx) :
    t.regs q = s.regs q := by
  have hkeeps : KeepsM (fun u => u.regs q = s.regs q) (checkM e a o ok) :=
    .guard .raise fun _ => .guard .raise fun _ =>
      .ite (.ite (.pure _) (.bind (keepsRegs_fetchCell e _ 4 q _) fun _ => .pure _)) (.pure _)
  exact (hkeeps s rfl).1 () t h

/-! ### Issue and operand of a generic instruction (R31, R102, R185) -/

section
variable {s t : State} {i : Issue} {n : Nat} {op : BitVec 8} {o : MOp} {e : Env} {g : GenOp} {c : Cell} {fa : Nat}

/-- An instruction that issues anew with its operand in hand: what follows the read of the operand. -/
theorem genForm_of_fresh {x y : Cell} {opn : Nat} (h : IssuesM s i n op o e) (hf : Fresh s e) (hr : Reads s e o opn c fa t)
    (hread : ∀ u, readOpd e o opn u = .ok ((c, fa), t) → readGen e o g u = .ok ((x, y, fa), t)) :
    genForm i op o g s = settle (s.started e) e (startGen e op o g x y fa t) := by
  obtain ⟨⟨⟩, u, hd, hopd⟩ := bind_eq_ok hr
  obtain ⟨⟨⟩, v, hcheck, hclear⟩ := bind_eq_ok hd
  have hnew : bit (v.regs e.q).st stRESUME = false := by rw [regs_of_checkM hcheck, State.started_regs]; exact hf
  obtain rfl : v = u := by
    simpa [act_run, State.clearResume_of_clear hnew] using hclear
  rw [genForm, issue_of_issues h, bind_ok hcheck, resuming, bind_ok (look_run _ v), hnew]
  simp only [Bool.false_eq_true, if_false]
  rw [bind_ok (hread v hopd)]

/-- Two operands, A the first, without a reserved field and of accepted tags. -/
theorem genForm_two (h : IssuesM s i n op o e) (hf : Fresh s e) (hr : Reads s e o 2 c fa t) (htwo : g.two = true)
    (hra : (t.regs e.q).a.reserved = false) (hrc : c.reserved = false) (ha : g.ok1 (t.regs e.q).a = true)
    (hc : g.ok2 (t.regs e.q).a c = true) :
    genForm i op o g s = settle (s.started e) e (startGen e op o g (t.regs e.q).a c fa t) := by
  refine genForm_of_fresh h hf hr fun u hu => ?_
  simp only [readGen, if_pos htwo, bind_ok hu, bind_ok (regsM_run e t), checkReserved, checkTag, hra, hrc, ha, hc,
    Bool.false_eq_true, if_true, if_false]
  rfl

/-- One operand, without a reserved field and of an accepted tag. -/
theorem genForm_one (h : IssuesM s i n op o e) (hf : Fresh s e) (hr : Reads s e o 1 c fa t) (htwo : g.two = false)
    (hrc : c.reserved = false) (hc : g.ok1 c = true) :
    genForm i op o g s = settle (s.started e) e (startGen e op o g c c fa t) := by
  refine genForm_of_fresh h hf hr fun u hu => ?_
  rw [readGen, if_neg (by simp [htwo]), bind_ok hu]
  simp only [checkReserved, checkTag, hrc, hc, Bool.false_eq_true, if_true, if_false]
  rfl

end

/-! ### Operands outside the heap -/

/-- The value of a FIX stands in its cell. -/
theorem argOf_fix {c : Cell} (h : c.tag = tagFIX) : argOf [] c = { c := c, n := c.int } := by
  simp [argOf, Cell.isInt, intOf, h, tagFIX, tagRATIO, tagBIG]

theorem argOf_other {c : Cell} (h : c.isExact = false) : argOf [] c = { c := c } := by
  obtain ⟨h1, h2⟩ : c.isInt = false ∧ c.tag ≠ tagRATIO := by simpa [Cell.isExact] using h
  simp [argOf, h1, h2]

theorem Cell.not_ratio_of_unboxed {c : Cell} (h : c.isBoxed = false) : (c.tag == tagRATIO) = false := by
  simp only [Cell.isBoxed, Bool.or_eq_false_iff] at h
  exact h.2

theorem argOf_c (got : List (Nat × Cell)) (c : Cell) : (argOf got c).c = c := by
  unfold argOf
  split
  · rfl
  · split <;> rfl

/-! ### Results (R44, R57, R61, R77) -/

/-- The registers after a result: A takes the cell, ST the flags. -/
def delivered (r : GOut) (c : Cell) (g : Regs) : Regs :=
  { g with a := normalize c, st := stick (stick (orFlags g.st r.fl) stUNCSAT r.sat) stV r.v }

section
variable {s t : State} {e : Env} {op : BitVec 8} {o : MOp} {g : GenOp} {x y : Cell} {fa : Nat} {r : GOut}

/-- The fault address of operand `opn` of a generic instruction (R169). -/
def GenOp.faddrOf (g : GenOp) (fa opn : Nat) : Nat := if opn == 2 then fa else g.faddr1 fa

theorem evalGen_of_unboxed (hx : x.isBoxed = false) (hy : y.isBoxed = false) (promote : Bool) :
    evalGen e g promote (argOf [] x) (argOf [] y) fa t =
      deliver e promote (g.faddr1 fa) fa (g.eval (t.regs e.q).st (argOf [] x) (argOf [] y)) t := by
  simp only [evalGen, checkDen, argOf_c, Cell.not_ratio_of_unboxed hx, Cell.not_ratio_of_unboxed hy, Bool.false_and,
    Bool.false_eq_true, if_false]
  rfl

/-- Where the instruction does not compute in microcode and its result needs no heap object, it ends in one step (R47). -/
theorem startGen_of_plain (hx : x.isBoxed = false) (hy : y.isBoxed = false) (hm : g.micro x = false)
    (he : g.eval (t.regs e.q).st (argOf [] x) (argOf [] y) = r) (hb : r.res.boxed = false) :
    startGen e op o g x y fa t = (deliver e true (g.faddr1 fa) fa r >>= fun _ => pure .next) t := by
  have hrun : startGen e op o g x y fa t = (evalGen e g true (argOf [] x) (argOf [] y) fa >>= fun _ => pure .next) t := by
    simp only [startGen, hx, hy, Bool.and_false, Bool.or_false, Bool.false_eq_true, if_false]
    rw [bind_ok (look_run _ t)]
    simp only [he, hm, hb, Bool.or_self, Bool.false_eq_true, if_false]
  rw [hrun]
  show (StateT.bind _ _) t = (StateT.bind _ _) t
  simp only [StateT.bind, evalGen_of_unboxed hx hy, he]

theorem startGen_cell (hx : x.isBoxed = false) (hy : y.isBoxed = false) (hm : g.micro x = false) {c : Cell}
    (he : g.eval (t.regs e.q).st (argOf [] x) (argOf [] y) = r) (hc : r.res = .cell c) :
    settle s e (startGen e op o g x y fa t) = t.finish e (delivered r c) := by
  rw [startGen_of_plain hx hy hm he (by rw [hc]; rfl), deliver, hc]
  rfl

theorem startGen_stop (hx : x.isBoxed = false) (hy : y.isBoxed = false) (hm : g.micro x = false) {code sub opn : Nat}
    (he : g.eval (t.regs e.q).st (argOf [] x) (argOf [] y) = r) (hc : r.res = .stop code sub opn) :
    settle (s.started e) e (startGen e op o g x y fa t) = s.trapped e code sub opn 0 (g.faddrOf fa opn) := by
  rw [startGen_of_plain hx hy hm he (by rw [hc]; rfl), deliver, hc]
  rfl

end

end Sys2Proof.Machine

namespace Sys2Proof.Machine

/-! ### RAW arithmetic (R63, R64): O17 -/

/-- `PAYLOAD` as a number is that of the word. -/
theorem Cell.pay_eq (c : Cell) : c.pay = c.payload.toNat := by
  simp [Cell.payload, Cell.pay, field]

/-- A 64-bit pattern read as signed is the word's signed value. -/
theorem s64_toNat (w : Word64) : s64 w.toNat = w.toInt := by
  have h := w.isLt
  rw [BitVec.toInt_eq_toNat_cond, s64, signedOf]
  split <;> split <;> omega

theorem wrapInt_eq (z : Int) : wrapInt 64 z = (BitVec.ofInt 64 z).toNat := by
  rw [BitVec.toNat_ofInt, wrapInt]

theorem offRange_eq (z : Int) : offRange z = decide (z < -2 ^ 63 ∨ 2 ^ 63 ≤ z) := by
  rw [offRange, Bool.eq_iff_iff]
  simp only [Bool.or_eq_true, decide_eq_true_eq]
  omega

theorem rawAdd_toNat (a b : Word64) : rawAdd a.toNat b.toNat =
    { v := (a + b).toNat, c := decide (2 ^ 64 ≤ a.toNat + b.toNat)
      o := decide (a.toInt + b.toInt < -2 ^ 63 ∨ 2 ^ 63 ≤ a.toInt + b.toInt) } := by
  rw [rawAdd, offRange_eq, s64_toNat, s64_toNat, BitVec.toNat_add]

theorem rawSub_toNat (a b : Word64) : rawSub a.toNat b.toNat =
    { v := (a - b).toNat, c := decide (a.toNat < b.toNat)
      o := decide (a.toInt - b.toInt < -2 ^ 63 ∨ 2 ^ 63 ≤ a.toInt - b.toInt) } := by
  have hv : (a.toNat + 2 ^ 64 - b.toNat) % 2 ^ 64 = (a - b).toNat := by
    have := b.isLt
    rw [BitVec.toNat_sub]
    omega
  rw [rawSub, hv, offRange_eq, s64_toNat, s64_toNat]

theorem rawMul_toNat (a b : Word64) : rawMul a.toNat b.toNat =
    { v := (a * b).toNat, c := decide (2 ^ 64 ≤ a.toNat * b.toNat)
      o := decide (a.toInt * b.toInt < -2 ^ 63 ∨ 2 ^ 63 ≤ a.toInt * b.toInt) } := by
  rw [rawMul, offRange_eq, s64_toNat, s64_toNat, BitVec.toNat_mul]

theorem rawDivU_zero (rem : Bool) (a : Word64) : rawDivU rem a.toNat (0 : Word64).toNat =
    { v := (if rem then a else BitVec.allOnes 64).toNat, dz := true } := by
  cases rem <;> rfl

theorem rawDivU_toNat (rem : Bool) (a : Word64) {b : Word64} (h : b ≠ 0) : rawDivU rem a.toNat b.toNat =
    { v := (if rem then a % b else a / b).toNat } := by
  have hb : (b.toNat == 0) = false := by simpa [← BitVec.toNat_inj] using h
  cases rem <;> simp [rawDivU, hb]

theorem rawDivS_zero (rem : Bool) (a : Word64) : rawDivS rem a.toNat (0 : Word64).toNat =
    { v := (if rem then a else BitVec.allOnes 64).toNat, dz := true } := by
  cases rem <;> rfl

theorem wrapInt_tdiv (a b : Word64) : wrapInt 64 (a.toInt.tdiv b.toInt) = (a.sdiv b).toNat := by
  rw [wrapInt_eq]
  congr 1
  rw [← BitVec.toInt_inj, BitVec.toInt_ofInt, BitVec.toInt_sdiv]

theorem wrapInt_tmod (a b : Word64) : wrapInt 64 (a.toInt.tmod b.toInt) = (a.srem b).toNat := by
  rw [wrapInt_eq, ← BitVec.toInt_srem, BitVec.ofInt_toInt]

/-- A signed quotient overflows for the least number over −1 alone (R64). -/
theorem offRange_tdiv (a b : Word64) :
    offRange (a.toInt.tdiv b.toInt) = decide (a = BitVec.intMin 64 ∧ b = BitVec.allOnes 64) := by
  by_cases h : a = BitVec.intMin 64 ∧ b = BitVec.allOnes 64
  · obtain ⟨rfl, rfl⟩ := h
    decide
  · have hne : a ≠ BitVec.intMin 64 ∨ b ≠ -1#64 := not_and_or.mp h
    have hlo := BitVec.le_toInt (a.sdiv b)
    have hhi := BitVec.toInt_lt (x := a.sdiv b)
    rw [offRange_eq, ← BitVec.toInt_sdiv_of_ne_or_ne a b hne, decide_eq_false h, decide_eq_false_iff_not]
    omega

theorem rawDivS_toNat (rem : Bool) (a : Word64) {b : Word64} (h : b ≠ 0) : rawDivS rem a.toNat b.toNat =
    { v := (if rem then a.srem b else a.sdiv b).toNat, o := decide (a = BitVec.intMin 64 ∧ b = BitVec.allOnes 64) } := by
  have hb : (b.toNat == 0) = false := by simpa [← BitVec.toNat_inj] using h
  cases rem <;> simp [rawDivS, hb, s64_toNat, wrapInt_tdiv, wrapInt_tmod, offRange_tdiv]

theorem isWordTag_of_is {c : Cell} (h : Is c tagFIX ∨ Is c tagRAW) : c.isWordTag = true := by
  rcases h with h | h <;> simp [Cell.isWordTag, h.1]

theorem judge2_of_ok {e : Env} {a c : Cell} {ok1 ok2 : Bool} (hra : a.reserved = false) (hrc : c.reserved = false)
    (h1 : ok1 = true) (h2 : ok2 = true) (fa : Nat) (s : State) : judge2 e a c fa ok1 ok2 s = .ok ((), s) := by
  simp only [judge2, checkReserved, checkTag, hra, hrc, h1, h2, Bool.false_eq_true, if_true, if_false]
  rfl

/-- A RAW instruction on FIX or RAW operands: its result and its flags (R63). -/
theorem rawForm_of_reads {s t : State} {i : Issue} {n : Nat} {op : BitVec 8} {o : MOp} {e : Env} {c : Cell} {fa : Nat}
    {f : Nat → Nat → RawRes} {x : RawRes} (hr : Reads s e o 2 c fa t) (ha : Is (t.regs e.q).a tagFIX ∨ Is (t.regs e.q).a tagRAW)
    (hc : Is c tagFIX ∨ Is c tagRAW) (h : IssuesM s i n op o e)
    (hf : f (t.regs e.q).a.payload.toNat c.payload.toNat = x) :
    rawForm i op o f s = t.finish e fun r => { r with a := mkRAW x.v, st := x.flags r.st } := by
  refine mRead_of_reads h hr (fun e p => regsM e >>= fun r => judge2 e r.a p.1 p.2 r.a.isWordTag p.1.isWordTag >>= fun _ =>
    modRegsM e fun g => { g with a := mkRAW (f r.a.pay p.1.pay).v, st := (f r.a.pay p.1.pay).flags g.st }) ?_
  rw [bind_ok (regsM_run e t), bind_ok (judge2_of_ok (ha.elim And.right And.right) (hc.elim And.right And.right)
    (isWordTag_of_is ha) (isWordTag_of_is hc) fa t), modRegsM_run]
  simp only [Cell.pay_eq, hf]

/-- Settles O17: each instruction is its operation on words, the division with its two cases. -/
theorem rawArithmeticAndFlags : Obligations.RawArithmeticAndFlags := by
  intro s t i n o e c fa hr ha hc a b gives outside
  have run : ∀ {op : BitVec 8} (f : Nat → Nat → RawRes) {v : Word64} {cy ov dz : Bool}, IssuesM s i n op o e →
      f a.toNat b.toNat = { v := v.toNat, c := cy, o := ov, dz := dz } →
      Host.Outcome.next (rawForm i op o f s) = gives v cy ov dz := by
    intro op f v cy ov dz h hf
    rw [rawForm_of_reads hr ha hc h hf]
    rfl
  refine ⟨fun h => run rawAdd h (rawAdd_toNat a b), fun h => run rawSub h (rawSub_toNat a b),
    fun h => run rawMul h (rawMul_toNat a b), fun h => ?_, fun h => ?_, fun h => ?_, fun h => ?_,
    fun h => run (fun x y => rawLogic (x &&& y)) h (by rw [rawLogic, BitVec.toNat_and]),
    fun h => run (fun x y => rawLogic (x ||| y)) h (by rw [rawLogic, BitVec.toNat_or]),
    fun h => run (fun x y => rawLogic (x ^^^ y)) h (by rw [rawLogic, BitVec.toNat_xor])⟩
  · split
    next hb => exact run (rawDivU false) h (hb ▸ rawDivU_zero false a)
    next hb => exact run (rawDivU false) h (rawDivU_toNat false a hb)
  · split
    next hb => exact run (rawDivU true) h (hb ▸ rawDivU_zero true a)
    next hb => exact run (rawDivU true) h (rawDivU_toNat true a hb)
  · split
    next hb => exact run (rawDivS false) h (hb ▸ rawDivS_zero false a)
    next hb => exact run (rawDivS false) h (rawDivS_toNat false a hb)
  · split
    next hb => exact run (rawDivS true) h (hb ▸ rawDivS_zero true a)
    next hb => exact run (rawDivS true) h (rawDivS_toNat true a hb)

end Sys2Proof.Machine

namespace Sys2Proof.Machine

/-! ### Comparisons and type tests (R55, R111, R117, R121): O12 -/

/-- An integer is in canonical form. -/
theorem canonRat_one (z : Int) : canonRat z 1 = (z, 1) := by
  simp only [canonRat, Int.natAbs_one, Nat.gcd_one_right, Nat.div_one]
  by_cases h : z < 0
  · simp [h, abs_of_neg h]
  · simp [h, abs_of_nonneg (not_lt.mp h)]

/-- A result without flags changes A alone. -/
theorem delivered_cell (c d : Cell) : delivered { res := .cell d } c = fun r => { r with a := normalize c } := rfl

theorem relate_fix {a c : Cell} (ha : a.tag = tagFIX) (hc : c.tag = tagFIX) :
    relate { c := a, n := a.int } { c := c, n := c.int } = .ok (relInt a.int c.int, {}) := by
  simp [relate, ha, hc, Cell.ptOf, Cell.isExact, Cell.isInt, canonRat_one, tagFIX, tagTIME, tagCHR, tagQTY]

theorem relate_plain {a c : Cell} (ha : a.tag = tagTIME ∨ a.tag = tagCHR) :
    relate { c := a } { c := c } = .ok (relInt (a.pay : Int) (c.pay : Int), {}) := by
  rcases ha with ha | ha <;> simp [relate, ha]

/-- The pairs of operands with values of one kind, and the values (R55). -/
def Ordered (a c : Cell) (x y : Int) : Prop :=
  (Is a tagFIX ∧ Is c tagFIX ∧ x = a.int ∧ y = c.int) ∨
  (((Is a tagTIME ∧ Is c tagTIME) ∨ (Is a tagCHR ∧ Is c tagCHR)) ∧ x = a.pay ∧ y = c.pay)

/-- A comparison of two values of one kind gives a constant by their order. -/
theorem genForm_cmp {s t : State} {i : Issue} {n : Nat} {op : BitVec 8} {o : MOp} {e : Env} {c : Cell} {fa : Nat} {x y : Int}
    (holds : Rel → Bool) (hr : Reads s e o 2 c fa t) (hf : Fresh s e) (hv : Ordered (t.regs e.q).a c x y)
    (h : IssuesM s i n op o e) : genForm i op o (cmpOp holds) s = t.finishA e (constBool (holds (relInt x y))) := by
  have hrun : (t.regs e.q).a.reserved = false ∧ c.reserved = false ∧ (cmpOp holds).ok1 (t.regs e.q).a = true ∧
      (cmpOp holds).ok2 (t.regs e.q).a c = true ∧ (t.regs e.q).a.isBoxed = false ∧ c.isBoxed = false ∧
      relate (argOf [] (t.regs e.q).a) (argOf [] c) = .ok (relInt x y, {}) := by
    generalize (t.regs e.q).a = a at hv
    rcases hv with ⟨⟨ha, hra⟩, ⟨hc, hrc⟩, rfl, rfl⟩ | ⟨⟨⟨ha, hra⟩, hc, hrc⟩ | ⟨⟨ha, hra⟩, hc, hrc⟩, rfl, rfl⟩
    · refine ⟨hra, hrc, ?_, ?_, ?_, ?_, ?_⟩
      case refine_5 => rw [argOf_fix ha, argOf_fix hc, relate_fix ha hc]
      all_goals simp [cmpOp, Cell.isNumber, Cell.isExact, Cell.isInt, Cell.isBoxed, ha, hc, tagFIX, tagTIME, tagCHR, tagBIG, tagRATIO]
    all_goals
      refine ⟨hra, hrc, ?_, ?_, ?_, ?_, ?_⟩
      case refine_5 =>
        rw [argOf_other (by simp [Cell.isExact, Cell.isInt, ha, tagFIX, tagTIME, tagCHR, tagBIG, tagRATIO]),
          argOf_other (by simp [Cell.isExact, Cell.isInt, hc, tagFIX, tagTIME, tagCHR, tagBIG, tagRATIO]),
          relate_plain (by simp [ha])]
      all_goals simp [cmpOp, Cell.isBoxed, ha, hc, tagTIME, tagCHR, tagBIG, tagRATIO]
  obtain ⟨hra, hrc, h1, h2, hxa, hxc, hrel⟩ := hrun
  rw [genForm_two h hf hr rfl hra hrc h1 h2, startGen_cell hxa hxc rfl (r := { res := .cell (constBool (holds (relInt x y))) })
    (by simp only [cmpOp, evalCmp, hrel]) rfl, delivered_cell]
  rfl

theorem constBool_decide (p : Prop) [Decidable p] : constBool (decide p) = if p then constTrue else constFalse := by
  by_cases h : p <;> simp [constBool, h]

theorem constBool_not_decide (p : Prop) [Decidable p] : constBool (!decide p) = if p then constFalse else constTrue := by
  by_cases h : p <;> simp [constBool, h]

/-- Each comparison of two integers is what its name says. -/
theorem rel_relInt (x y : Int) :
    relEq (relInt x y) = decide (x = y) ∧ relNe (relInt x y) = !decide (x = y) ∧ relLt (relInt x y) = decide (x < y) ∧
      relLe (relInt x y) = decide (x ≤ y) ∧ relGt (relInt x y) = decide (y < x) ∧ relGe (relInt x y) = decide (y ≤ x) := by
  rcases lt_trichotomy x y with h | rfl | h
  · have hrel : relInt x y = .less := by simp [relInt, h]
    rw [hrel]
    simp [relEq, relNe, relLt, relLe, relGt, relGe, h, h.le, h.ne, h.not_gt, h.not_ge]
  · have hrel : relInt x x = .equal := by simp [relInt]
    rw [hrel]
    simp [relEq, relNe, relLt, relLe, relGt, relGe]
  · have hrel : relInt x y = .greater := by simp [relInt, h.not_gt, h.ne']
    rw [hrel]
    simp [relEq, relNe, relLt, relLe, relGt, relGe, h, h.le, h.ne', h.not_gt, h.not_ge]

section
variable {s t : State} {i : Issue} {n : Nat} {op : BitVec 8} {o : MOp} {e : Env} {c : Cell} {fa opn : Nat}

/-- An instruction whose body faults after its operand has been read takes the cause. -/
theorem mRead_of_fault {code sub fopn acc faddr : Nat} (h : IssuesM s i n op o e) (hr : Reads s e o opn c fa t)
    (f : Env → Cell × Nat → M Unit)
    (hf : f e (c, fa) t = .error (.trap { code := code, sub := sub, acc := acc, opn := fopn, faddr := faddr, iword := e.iword })) :
    mRead i op o (fun e => readOpd e o opn >>= f e) s = s.trapped e code sub fopn acc faddr := by
  obtain ⟨_, u, hd, hopd⟩ := bind_eq_ok hr
  rw [mRead, mForm_of_decodes h hd]
  simp only [bind_assoc]
  rw [bind_ok hopd, bind_error hf]
  rfl

theorem checkTag_of_false (opn faddr : Nat) (s : State) : checkTag e false opn faddr s =
    .error (.trap { code := cTAG_MISMATCH, opn := opn, faddr := faddr, iword := e.iword }) := rfl

theorem execEq_of_reads (hr : Reads s e o 2 c fa t) (h : IssuesM s i n 0x56 o e) :
    exec (.eq i o) s = .next (t.finishA e (constBool (eqCell (t.regs e.q).a c))) := by
  refine congrArg Host.Outcome.next (mRead_of_reads h hr (fun e p => regsM e >>= fun r => setA e (constBool (eqCell r.a p.1))) ?_)
  rw [bind_ok (regsM_run e t), setA_run]

theorem eqCell_eq (a b : Cell) : eqCell a b = decide (a.tag = b.tag ∧ a.spec = b.spec ∧ a.pay = b.pay) := by
  rw [eqCell, Bool.eq_iff_iff]
  simp [and_assoc]

/-- TYPEP with a number of a tag (R32). -/
theorem execTypep_of_number (hr : Reads s e o 2 c fa t) (h : IssuesM s i n 0x58 o e) (hc : c.isWordTag = true) (hp : c.pay ≤ 255) :
    exec (.typep i o) s = .next (t.finishA e (constBool ((t.regs e.q).a.tag == c.pay))) := by
  refine congrArg Host.Outcome.next (mRead_of_reads h hr (fun e p => regsM e >>= fun r => checkTag e p.1.isWordTag 2 p.2 >>= fun _ =>
    checkTag e (p.1.pay ≤ 255) 2 p.2 >>= fun _ => setA e (constBool (r.a.tag == p.1.pay))) ?_)
  rw [bind_ok (regsM_run e t), bind_ok (checkTag_of_true hc 2 fa t), bind_ok (checkTag_of_true (decide_eq_true hp) 2 fa t), setA_run]

theorem execTypep_of_other (hr : Reads s e o 2 c fa t) (h : IssuesM s i n 0x58 o e) (hc : c.isWordTag = false ∨ 255 < c.pay) :
    exec (.typep i o) s = .next (s.trapped e 0x01 0 2 0 fa) := by
  refine congrArg Host.Outcome.next (mRead_of_fault h hr (fun e p => regsM e >>= fun r => checkTag e p.1.isWordTag 2 p.2 >>= fun _ =>
    checkTag e (p.1.pay ≤ 255) 2 p.2 >>= fun _ => setA e (constBool (r.a.tag == p.1.pay))) ?_)
  rw [bind_ok (regsM_run e t)]
  cases hw : c.isWordTag with
  | false => exact bind_error (checkTag_of_false 2 fa t)
  | true =>
    have hp : decide (c.pay ≤ 255) = false := decide_eq_false (Nat.not_le.mpr (hc.resolve_left (by simp [hw])))
    rw [bind_ok (checkTag_of_true rfl 2 fa t), hp]
    exact bind_error (checkTag_of_false 2 fa t)

theorem execTagx_of_reads (hr : Reads s e o 1 c fa t) (h : IssuesM s i n 0x59 o e) :
    exec (.tagx i o) s = .next (t.finishA e (fixOfNat c.tag)) :=
  congrArg Host.Outcome.next (mRead_of_reads h hr (fun e p => setA e (fixOfNat p.1.tag)) (setA_run e _ t))

/-- CAR and CDR of nil give nil (R121). -/
theorem carForm_of_nil (hr : Reads s e o 1 c fa t) (h : IssuesM s i n op o e) (hc : Is c tagCONST) (hp : c.pay = 0) (off : Nat) :
    carForm i op o off s = t.finishA e constNil := by
  refine mRead_of_reads h hr (fun e p => checkReserved e p.1 1 p.2 >>= fun _ => checkTag e (isList p.1) 1 p.2 >>= fun _ =>
    consCell e p.1 off 1 >>= setA e) ?_
  have hnil : consCell e c off 1 t = .ok (constNil, t) := by simp [consCell, hc.1]
  rw [bind_ok (checkReserved_of_is hc 1 fa t), bind_ok (checkTag_of_true (by simp [isList, hc.1, hp]) 1 fa t), bind_ok hnil, setA_run]

end

/-- Settles O12: the comparisons by the order of the values, each other instruction by its own lemma. -/
theorem comparisonsAndTypeTests : Obligations.ComparisonsAndTypeTests := by
  refine ⟨fun s t i n o e c fa x y hr hf hv => ?_, fun s t i n o e c fa => ⟨fun hr => ⟨fun h => ?_, fun h hc hp => ?_, fun h hc => ?_⟩,
    fun hr => ⟨execTagx_of_reads hr, fun h hc hp => ?_, fun h hc hp => ?_⟩⟩⟩
  · have run : ∀ {op : BitVec 8} (holds : Rel → Bool), IssuesM s i n op o e →
        (.next (genForm i op o (cmpOp holds) s) : Out) = .next (t.finishA e (constBool (holds (relInt x y)))) :=
      fun holds h => congrArg _ (genForm_cmp holds hr hf hv h)
    obtain ⟨heq, hne, hlt, hle, hgt, hge⟩ := rel_relInt x y
    exact ⟨fun h => (run relEq h).trans (by rw [heq, constBool_decide]),
      fun h => (run relNe h).trans (by rw [hne, constBool_not_decide]),
      fun h => (run relLt h).trans (by rw [hlt, constBool_decide]),
      fun h => (run relLe h).trans (by rw [hle, constBool_decide]),
      fun h => (run relGt h).trans (by rw [hgt, constBool_decide]),
      fun h => (run relGe h).trans (by rw [hge, constBool_decide])⟩
  · rw [execEq_of_reads hr h, eqCell_eq, constBool_decide]
  · rw [execTypep_of_number hr h (by simpa [Cell.isWordTag] using hc) hp, ← constBool_decide]
    rfl
  · exact execTypep_of_other hr h (by simpa [Cell.isWordTag] using hc)
  · exact congrArg Host.Outcome.next (carForm_of_nil hr h hc hp 0)
  · exact congrArg Host.Outcome.next (carForm_of_nil hr h hc hp 16)

end Sys2Proof.Machine

namespace Sys2Proof.Machine

/-! ### Inexact operands (R45, R60, R61, R73) -/

theorem Cell.isInexact_of_flo {c : Cell} (h : c.tag = tagFLO) : c.isInexact = true := by
  simp [Cell.isInexact, h]

theorem Cell.isExact_of_inexact {c : Cell} (h : c.isInexact = true) : c.isExact = false := by
  simp only [Cell.isInexact, Bool.or_eq_true, beq_iff_eq] at h
  rcases h with h | h <;> simp [Cell.isExact, Cell.isInt, h, tagFLO, tagQTY, tagFIX, tagBIG, tagRATIO]

theorem Cell.not_time_of_inexact {c : Cell} (h : c.isInexact = true) : (c.tag == tagTIME) = false := by
  simp only [Cell.isInexact, Bool.or_eq_true, beq_iff_eq] at h
  rcases h with h | h <;> simp [h, tagFLO, tagQTY, tagTIME]

/-- An inexact operand is its `PAYLOAD` (R45). -/
theorem conv_of_inexact {c : Cell} (h : c.isInexact = true) : Arg.conv { c := c } = (c.pay, {}) := by
  simp [Arg.conv, Cell.isExact_of_inexact h]

theorem FpFlags.none_or (f : FpFlags) : FpFlags.or {} f = f := rfl

/-- An encoding of binary64 is ±0 where nothing but its sign is set. -/
theorem fpIsZero_iff (x : Nat) : fpIsZero f64 x = true ↔ x % 2 ^ 63 = 0 := by
  simp only [fpIsZero, fpOf, f64, Fmt.emaxField, Fmt.width, Nat.reduceAdd, Nat.reduceSub, Nat.reducePow, beq_iff_eq]
  by_cases hmax : x / 4503599627370496 % 2048 = 2047
  · have hne : x % 9223372036854775808 ≠ 0 := by omega
    by_cases hfr : x % 4503599627370496 = 0 <;> simp [hmax, hfr, hne]
  · by_cases hsub : x / 4503599627370496 % 2048 = 0
    · have hfr : x % 9223372036854775808 = 0 ↔ x % 4503599627370496 = 0 := by omega
      simp [hsub, hfr]
    · have hne : x % 9223372036854775808 ≠ 0 := by omega
      simp [hmax, hsub, hne]

theorem isZero_of_inexact {c : Cell} (h : c.isInexact = true) : Arg.isZero { c := c } = decide (c.pay % 2 ^ 63 = 0) := by
  rw [Arg.isZero, conv_of_inexact h, Bool.eq_iff_iff, fpIsZero_iff, decide_eq_true_iff]

section
variable {a c : Cell} {st : Word64} (ha : a.isInexact = true) (hc : c.isInexact = true)
include hc

theorem evalSqrt_goes (hq : qStop .root st c c 1 = none) : evalSqrt st { c := c } =
    QOp.root.deliver (bit st stUNCOFF) c c c.pay c.pay (fpSqrt f64 (frmOf st) c.pay).1 (fpSqrt f64 (frmOf st) c.pay).2 := by
  simp only [evalSqrt, hq, conv_of_inexact hc, FpFlags.none_or]

include ha

theorem floatOp_goes {op : QOp} (f : Nat → Nat → Nat → Nat × FpFlags) (hq : qStop op st a c 2 = none) :
    floatOp op f st { c := a } { c := c } = op.deliver (bit st stUNCOFF) a c a.pay c.pay (f (frmOf st) a.pay c.pay).1
      (f (frmOf st) a.pay c.pay).2 := by
  simp only [floatOp, hq, conv_of_inexact ha, conv_of_inexact hc, FpFlags.none_or]

theorem evalAdd_inexact (sub : Bool) : evalAdd sub st { c := a } { c := c } =
    floatOp (if sub then .sub else .add) (if sub then fpSub f64 else fpAdd f64) st { c := a } { c := c } := by
  simp only [evalAdd, Cell.not_time_of_inexact ha, Cell.not_time_of_inexact hc, Cell.isExact_of_inexact ha, Bool.false_and,
    Bool.false_eq_true, if_false]

omit hc in
theorem evalMul_inexact : evalMul st { c := a } { c := c } = floatOp .mul (fpMul f64) st { c := a } { c := c } := by
  simp only [evalMul, Cell.isExact_of_inexact ha, Bool.false_and, Bool.false_eq_true, if_false]

/-- DIV by a divisor that is not ±0, or untrapped (R61). -/
theorem evalDiv_goes (hq : qStop .div st a c 2 = none) (h : bit st stFTRAP = false ∨ c.pay % 2 ^ 63 ≠ 0) :
    evalDiv st { c := a } { c := c } = floatOp .div (fpDiv f64) st { c := a } { c := c } := by
  have hgo : (Arg.isZero { c := c } && bit st stFTRAP) = false := by
    rw [isZero_of_inexact hc]
    rcases h with h | h
    · rw [h, Bool.and_false]
    · rw [decide_eq_false h, Bool.false_and]
  simp only [evalDiv, Cell.isExact_of_inexact ha, Bool.false_and, hq, hgo, Bool.false_eq_true, if_false]

theorem evalDiv_traps (hq : qStop .div st a c 2 = none) (h : bit st stFTRAP = true) (hz : c.pay % 2 ^ 63 = 0) :
    evalDiv st { c := a } { c := c } = { res := .stop 0x07 1 2 } := by
  have hgo : (Arg.isZero { c := c } && bit st stFTRAP) = true := by
    rw [isZero_of_inexact hc, h, decide_eq_true hz, Bool.and_true]
  simp only [evalDiv, Cell.isExact_of_inexact ha, Bool.false_and, hq, hgo, Bool.false_eq_true, if_false, if_true]

end

/-! ### FLO results and powers (R60 to R62, R113, R115) -/

/-- No rule for quantities stops an instruction on other operands (R73). -/
theorem qStop_of_flo {a b : Cell} (ha : a.tag = tagFLO) (hb : b.tag = tagFLO) (op : QOp) (st : Word64) (opn : Nat) :
    qStop op st a b opn = none := by
  simp [qStop, ha, hb, tagFLO, tagQTY]

/-- The FLO result of a binary64 operation, with its flags. -/
def floOut (z : Nat × FpFlags) : GOut := { res := .cell (mkFLO (BitVec.ofNat 64 z.1)), fl := z.2 }

theorem deliver_of_flo {a b : Cell} (ha : a.tag = tagFLO) (hb : b.tag = tagFLO) (op : QOp) (off : Bool) (x y : Nat)
    (z : Nat × FpFlags) : op.deliver off a b x y z.1 z.2 = floOut z := by
  simp [QOp.deliver, floOut, ha, hb, tagFLO, tagQTY]

theorem floatOp_flo {a c : Cell} (ha : a.tag = tagFLO) (hc : c.tag = tagFLO) (op : QOp) (f : Nat → Nat → Nat → Nat × FpFlags)
    (st : Word64) : floatOp op f st { c := a } { c := c } = floOut (f (frmOf st) a.pay c.pay) :=
  (floatOp_goes (Cell.isInexact_of_flo ha) (Cell.isInexact_of_flo hc) f (qStop_of_flo ha hc op st 2)).trans
    (deliver_of_flo ha hc op _ _ _ _)

theorem evalToflo_flo {c : Cell} (hc : c.tag = tagFLO) (st : Word64) :
    evalToflo st { c := c } = floOut (if fpIsNaN f64 c.pay then f64.quiet c.pay else c.pay, {}) := by
  simp only [evalToflo, conv_of_inexact (Cell.isInexact_of_flo hc), floOut]

/-- IPOW of a FLO with exponent 0 (R115). -/
theorem powFloat_zero {a : Cell} (ha : a.tag = tagFLO) (st : Word64) : powFloat st { c := a } 0 false = floOut (one64, {}) := by
  simp only [powFloat, qStop_of_flo ha ha, Bool.false_and, Bool.false_eq_true, if_false, beq_self_eq_true, if_true,
    Int.lt_irrefl]
  exact deliver_of_flo ha ha _ _ _ _ (one64, {})

/-- IPOW of a FLO other than ±0 and ±1 with a positive exponent: the product of its powers (R115). -/
theorem powFloat_pos {a : Cell} (ha : a.tag = tagFLO) {st : Word64} {n : Int} (h0 : fpAbs f64 a.pay ≠ 0)
    (h1 : fpAbs f64 a.pay ≠ one64) (hn : 0 < n) :
    powFloat st { c := a } n false = floOut (fpPow (frmOf st) 64 n.natAbs a.pay one64 {}) := by
  have hz : (n == 0) = false := beq_eq_false_iff_ne.mpr hn.ne'
  have hu : (fpAbs f64 a.pay == 0 || fpAbs f64 a.pay == one64) = false := by simp [h0, h1]
  simp only [powFloat, qStop_of_flo ha ha, Bool.false_and, Bool.false_eq_true, if_false, hz, hu, hn.not_gt]
  exact deliver_of_flo ha ha _ _ _ _ _

/-- With a negative exponent the quotient of 1.0 and that product. -/
theorem powFloat_neg {a : Cell} (ha : a.tag = tagFLO) {st : Word64} {n : Int} (h0 : fpAbs f64 a.pay ≠ 0)
    (h1 : fpAbs f64 a.pay ≠ one64) (hn : n < 0) {p : Nat × FpFlags} (hp : fpPow (frmOf st) 64 n.natAbs a.pay one64 {} = p)
    (hd : fpIsZero f64 p.1 = false ∨ bit st stFTRAP = false) :
    powFloat st { c := a } n false =
      floOut ((fpDiv f64 (frmOf st) one64 p.1).1, p.2.or (fpDiv f64 (frmOf st) one64 p.1).2) := by
  have hz : (n == 0) = false := beq_eq_false_iff_ne.mpr hn.ne
  have hu : (fpAbs f64 a.pay == 0 || fpAbs f64 a.pay == one64) = false := by simp [h0, h1]
  have hgo : (fpIsZero f64 p.1 && bit st stFTRAP) = false := by rcases hd with h | h <;> simp [h]
  simp only [powFloat, qStop_of_flo ha ha, Bool.false_and, Bool.false_eq_true, if_false, hz, hu, hn, if_true, hp, hgo]
  exact deliver_of_flo ha ha _ _ _ _ ((fpDiv f64 (frmOf st) one64 p.1).1, p.2.or (fpDiv f64 (frmOf st) one64 p.1).2)

theorem evalPow_flo {a c : Cell} (ha : a.tag = tagFLO) (hc : c.tag = tagFIX) (st : Word64) :
    evalPow st { c := a } { c := c, n := c.int } = powFloat st { c := a } c.int false := by
  have hb : (c.tag == tagBIG) = false := by rw [hc]; rfl
  simp only [evalPow, Cell.isExact_of_inexact (Cell.isInexact_of_flo ha), hb, Bool.false_eq_true, if_false]

/-! ### Exact results that no FIX holds (R41, R47, R180, R186) -/

theorem Cell.isBoxed_of_fix {c : Cell} (h : c.tag = tagFIX) : c.isBoxed = false := by
  simp [Cell.isBoxed, h, tagFIX, tagBIG, tagRATIO]

theorem Cell.isExact_of_fix {c : Cell} (h : c.tag = tagFIX) : c.isExact = true := by
  simp [Cell.isExact, Cell.isInt, h]

theorem boxed_of_int {z : Int} (h : fitsFix z = false) : (GRes.exact z 1).boxed = true := by
  simp [GRes.boxed, canonRat_one, h]

/-- The canonical form of a quotient has its value. -/
theorem canonRat_value (n : Int) {d : Int} (hd : d ≠ 0) : n * (canonRat n d).2 = (canonRat n d).1 * d := by
  obtain ⟨a, ha⟩ := Nat.gcd_dvd_left n.natAbs d.natAbs
  obtain ⟨b, hb⟩ := Nat.gcd_dvd_right n.natAbs d.natAbs
  have hg : 0 < Nat.gcd n.natAbs d.natAbs := Nat.gcd_pos_of_pos_right _ (Int.natAbs_pos.mpr hd)
  simp only [canonRat]
  generalize Nat.gcd n.natAbs d.natAbs = g at *
  have hab : n.natAbs / g = a ∧ d.natAbs / g = b := by
    rw [ha, hb]
    exact ⟨Nat.mul_div_cancel_left _ hg, Nat.mul_div_cancel_left _ hg⟩
  rw [hab.1, hab.2]
  have hn : (n.natAbs : Int) = g * a := by exact_mod_cast ha
  have hd' : (d.natAbs : Int) = g * b := by exact_mod_cast hb
  by_cases h1 : n < 0 <;> by_cases h2 : d < 0
  · have h3 : n = -(g * a) := by omega
    have h4 : d = -(g * b) := by omega
    simp only [h1, h2, bne_self_eq_false, Bool.false_eq_true, if_false, decide_true]
    rw [h3, h4]; ring
  · have h3 : n = -(g * a) := by omega
    have h4 : d = g * b := by omega
    simp only [h1, h2, decide_true, decide_false, Bool.bne_false, if_true]
    rw [h3, h4]; ring
  · have h3 : n = g * a := by omega
    have h4 : d = -(g * b) := by omega
    simp only [h1, h2, decide_true, decide_false, Bool.bne_true, Bool.not_false, if_true]
    rw [h3, h4]; ring
  · have h3 : n = g * a := by omega
    have h4 : d = g * b := by omega
    simp only [h1, h2, bne_self_eq_false, Bool.false_eq_true, if_false, decide_false]
    rw [h3, h4]; ring

/-- A quotient without a FIX value needs a heap object. -/
theorem boxed_of_quotient {x y : Int} (hy : y ≠ 0) (h : ∀ z : Int, x = z * y → fitsFix z = false) :
    (GRes.exact x y).boxed = true := by
  have hval := canonRat_value x hy
  simp only [GRes.boxed, Bool.not_eq_true', Bool.and_eq_false_iff, beq_eq_false_iff_ne]
  by_cases hq : (canonRat x y).2 = 1
  · rw [hq, Nat.cast_one, mul_one] at hval
    exact .inr (h _ hval)
  · exact .inl hq

theorem evalAdd_fix {a c : Cell} (ha : a.tag = tagFIX) (hc : c.tag = tagFIX) (sub : Bool) (st : Word64) :
    evalAdd sub st { c := a, n := a.int } { c := c, n := c.int } =
      { res := .exact (if sub then a.int - c.int else a.int + c.int) 1 } := by
  have hta : (a.tag == tagTIME) = false := by rw [ha]; rfl
  have htc : (c.tag == tagTIME) = false := by rw [hc]; rfl
  cases sub
  · simp [evalAdd, hta, htc, Cell.isExact_of_fix ha, Cell.isExact_of_fix hc]
  · simp [evalAdd, hta, htc, Cell.isExact_of_fix ha, Cell.isExact_of_fix hc, sub_eq_add_neg]

theorem evalMul_fix {a c : Cell} (ha : a.tag = tagFIX) (hc : c.tag = tagFIX) (st : Word64) :
    evalMul st { c := a, n := a.int } { c := c, n := c.int } = { res := .exact (a.int * c.int) 1 } := by
  simp [evalMul, Cell.isExact_of_fix ha, Cell.isExact_of_fix hc]

theorem evalDiv_fix {a c : Cell} (ha : a.tag = tagFIX) (hc : c.tag = tagFIX) (h : c.int ≠ 0) (st : Word64) :
    evalDiv st { c := a, n := a.int } { c := c, n := c.int } = { res := .exact a.int c.int } := by
  simp [evalDiv, Cell.isExact_of_fix ha, Cell.isExact_of_fix hc, h]

theorem evalQuot_fix {a c : Cell} (h : c.int ≠ 0) (st : Word64) :
    evalQuot false st { c := a, n := a.int } { c := c, n := c.int } = { res := .exact (a.int.tdiv c.int) 1 } := by
  simp [evalQuot, h]

end Sys2Proof.Machine

namespace Sys2Proof.Machine

theorem int_bounds (c : Cell) : -2 ^ 63 ≤ c.int ∧ c.int < 2 ^ 63 := ⟨BitVec.le_toInt _, BitVec.toInt_lt⟩

theorem bitLen_le {n k : Nat} (h : n < 2 ^ k) : bitLen n ≤ k := by
  unfold bitLen
  split
  · exact Nat.zero_le k
  next hn =>
    have hne : n ≠ 0 := by simpa using hn
    exact (Nat.log2_lt hne).mpr h

/-- A shift to the left that no FIX holds, by a count in reach of a BIG (R56). -/
theorem evalAsh_left {a c : Cell} {k : Nat} (hy : c.int = k) (hk : k < 64 * 4294967000)
    (h : fitsFix (a.int * 2 ^ k) = false) (st : Word64) :
    evalAsh st { c := a, n := a.int } { c := c, n := c.int } = { res := .exact (a.int * 2 ^ k) 1 } := by
  obtain ⟨hlo, hhi⟩ := int_bounds a
  have hx : (a.int == 0) = false := by
    refine beq_eq_false_iff_ne.mpr fun h0 => ?_
    rw [h0, Int.zero_mul] at h
    exact absurd h (by decide)
  have hbl : bitLen a.int.natAbs ≤ 64 := bitLen_le (by omega)
  have hroom : ¬ ((bigBits - bitLen a.int.natAbs : Nat) : Int) < k := by
    simp only [bigBits]
    omega
  have hpos : (0 : Int) ≤ (k : Int) := Int.natCast_nonneg k
  simp only [evalAsh, hx, hy, hpos, hroom, Bool.false_eq_true, if_false, if_true, Int.toNat_natCast, Nat.cast_pow,
    Nat.cast_ofNat]

/-- A power of a FIX within the size of a BIG, not 0 to a negative exponent, has a value (R115). -/
theorem evalPow_goes_on {a c : Cell} (ha : a.tag = tagFIX) (hc : c.tag = tagFIX) (h0 : a.int ≠ 0 ∨ 0 ≤ c.int)
    (hsize : a.int.natAbs ≤ 1 ∨ (bitLen a.int.natAbs - 1) * c.int.natAbs < bigBits) (st : Word64) :
    (evalPow st { c := a, n := a.int } { c := c, n := c.int }).res.stops = false := by
  have hb : (c.tag == tagBIG) = false := by rw [hc]; rfl
  simp only [evalPow, Cell.isExact_of_fix ha, canonRat_one, hb, if_true, beq_self_eq_true, Bool.true_and, decide_eq_true_eq]
  by_cases h1 : a.int.natAbs ≤ 1
  · simp only [h1, if_true]
    by_cases hz : a.int = 0
    · have hn : ¬ c.int < 0 := not_lt.mpr (h0.resolve_left (not_not.mpr hz))
      simp only [hz, hn, beq_self_eq_true, if_true, if_false]
      rfl
    · simp only [beq_eq_false_iff_ne.mpr hz, Bool.false_eq_true, if_false]
      rfl
  · have hlen : ¬ bitLen a.int.natAbs < bitLen 1 := by
      have hne : a.int.natAbs ≠ 0 := by omega
      have hone : Nat.log2 1 = 0 := rfl
      simp [bitLen, hne, hone]
    have hfits : ¬ bigBits ≤ (bitLen a.int.natAbs - 1) * c.int.natAbs := not_le.mpr (hsize.resolve_left h1)
    simp only [h1, hlen, hfits, Bool.false_eq_true, if_false]
    split <;> rfl

section
variable {s t u : State} {e : Env} {op : BitVec 8} {o : MOp} {g : GenOp} {x y : Cell} {fa h : Nat} {r : GOut}

/-- The state in which step 1 of a routine on two FIX operands leaves the slot: the work object at `h` held, the routine under way. -/
def State.routineOf (u : State) (e : Env) (op : BitVec 8) (o : MOp) (x y : Cell) (fa h : Nat) : State :=
  (u.hold e.n h).modSlot e.q fun v => { v with
    mid := .long { word := mwordOf op o, step := 1, work := h, routine := .micro x y fa [] } }

theorem scanArg_fix (hx : x.tag = tagFIX) (got : List (Nat × Cell)) (s : State) : scanArg e x got s = .ok ((1, got), s) := by
  simp [scanArg, scanBig, hx, tagFIX, tagRATIO, tagBIG]

/-- Two FIX operands with a result for the microcode: step 1 makes a work object of five cells and goes on (R47, R184, R186). -/
theorem startGen_micro (htwo : g.two = true) (hx : x.tag = tagFIX) (hy : y.tag = tagFIX)
    (he : g.eval (t.regs e.q).st (argOf [] x) (argOf [] y) = r) (hm : (g.micro x || r.res.boxed) = true)
    (hgo : r.res.stops = false) (ha : allocObject e 5 (mkHDR tagSTR 5 0) t = .ok (h, u)) :
    settle s e (startGen e op o g x y fa t) = u.routineOf e op o x y fa h := by
  have hrefs : keptRefs (x :: y :: ([] : List (Nat × Cell)).map (·.2)) = [] := by
    simp [keptRefs, Cell.isPointer, hx, hy, tagFIX, tagCAP, tagSEAL, tagFWD]
  have hfirst : microFirst e op o g x y fa t = .ok (.stay, u.routineOf e op o x y fa h) := by
    simp only [microFirst, bind_ok (scanArg_fix hx [] t), htwo, if_true, bind_ok (scanArg_fix hy [] t), Nat.reduceAdd,
      Nat.reduceMul, bind_ok ha, bind_ok (act_run _ u), hrefs]
    rfl
  have hstart : startGen e op o g x y fa t = stepOne e (microFirst e op o g x y fa) t := by
    simp only [startGen, Cell.isBoxed_of_fix hx, Cell.isBoxed_of_fix hy, Bool.and_false, Bool.or_false, Bool.false_eq_true,
      if_false]
    rw [bind_ok (look_run _ t)]
    simp only [he, hm, hgo, Bool.false_eq_true, if_true, if_false]
  rw [hstart, stepOne, hfirst]
  rfl

end

section
variable {s t : State} {i : Issue} {n : Nat} {op : BitVec 8} {o : MOp} {e : Env} {g : GenOp} {c : Cell} {fa : Nat} {r : GOut}

theorem Cell.isBoxed_of_inexact {c : Cell} (h : c.isInexact = true) : c.isBoxed = false := by
  have hexact := Cell.isExact_of_inexact h
  simp only [Cell.isExact, Cell.isInt, Bool.or_eq_false_iff] at hexact
  simp [Cell.isBoxed, hexact]

theorem argOf_inexact {c : Cell} (h : c.isInexact = true) : argOf [] c = { c := c } := argOf_other (Cell.isExact_of_inexact h)

section
variable (h : IssuesM s i n op o e) (hf : Fresh s e) (hr : Reads s e o 2 c fa t) (htwo : g.two = true)
  (hra : (t.regs e.q).a.reserved = false) (hrc : c.reserved = false) (h1 : g.ok1 (t.regs e.q).a = true)
  (h2 : g.ok2 (t.regs e.q).a c = true) (hm : g.micro (t.regs e.q).a = false) (ha : (t.regs e.q).a.isInexact = true)
  (hc : c.isInexact = true) (he : g.eval (t.regs e.q).st { c := (t.regs e.q).a } { c := c } = r)
include h hf hr htwo hra hrc h1 h2 hm ha hc he

/-- Two inexact operands: the result is delivered in one step. -/
theorem genForm_inexact2 {d : Cell} (hd : r.res = .cell d) : genForm i op o g s = t.finish e (delivered r d) := by
  rw [genForm_two h hf hr htwo hra hrc h1 h2, startGen_cell (Cell.isBoxed_of_inexact ha) (Cell.isBoxed_of_inexact hc) hm
    (by rw [argOf_inexact ha, argOf_inexact hc, he]) hd]

/-- Two inexact operands with a fault of their own. -/
theorem genForm_inexact2_stop {code sub opn : Nat} (hd : r.res = .stop code sub opn) :
    genForm i op o g s = s.trapped e code sub opn 0 (g.faddrOf fa opn) := by
  rw [genForm_two h hf hr htwo hra hrc h1 h2, startGen_stop (Cell.isBoxed_of_inexact ha) (Cell.isBoxed_of_inexact hc) hm
    (by rw [argOf_inexact ha, argOf_inexact hc, he]) hd]

end

section
variable (h : IssuesM s i n op o e) (hf : Fresh s e) (hr : Reads s e o 1 c fa t) (htwo : g.two = false)
  (hrc : c.reserved = false) (h1 : g.ok1 c = true) (hm : g.micro c = false) (hc : c.isInexact = true)
  (he : g.eval (t.regs e.q).st { c := c } { c := c } = r)
include h hf hr htwo hrc h1 hm hc he

/-- One inexact operand. -/
theorem genForm_inexact1 {d : Cell} (hd : r.res = .cell d) : genForm i op o g s = t.finish e (delivered r d) := by
  rw [genForm_one h hf hr htwo hrc h1, startGen_cell (Cell.isBoxed_of_inexact hc) (Cell.isBoxed_of_inexact hc) hm
    (by rw [argOf_inexact hc, he]) hd]

theorem genForm_inexact1_stop {code sub opn : Nat} (hd : r.res = .stop code sub opn) :
    genForm i op o g s = s.trapped e code sub opn 0 (g.faddrOf fa opn) := by
  rw [genForm_one h hf hr htwo hrc h1, startGen_stop (Cell.isBoxed_of_inexact hc) (Cell.isBoxed_of_inexact hc) hm
    (by rw [argOf_inexact hc, he]) hd]

end

/-- Two FIX operands whose result goes to the microcode. -/
theorem genForm_micro {u : State} {h : Nat} (hr : Reads s e o 2 c fa t) (hf : Fresh s e) (ha : Is (t.regs e.q).a tagFIX)
    (hc : Is c tagFIX) (halloc : allocObject e 5 (mkHDR tagSTR 5 0) t = .ok (h, u)) (htwo : g.two = true)
    (h1 : g.ok1 (t.regs e.q).a = true) (h2 : g.ok2 (t.regs e.q).a c = true) (hi : IssuesM s i n op o e)
    (he : g.eval (t.regs e.q).st { c := (t.regs e.q).a, n := (t.regs e.q).a.int } { c := c, n := c.int } = r)
    (hm : (g.micro (t.regs e.q).a || r.res.boxed) = true) (hgo : r.res.stops = false) :
    genForm i op o g s = u.routineOf e op o (t.regs e.q).a c fa h := by
  rw [genForm_two hi hf hr htwo ha.2 hc.2 h1 h2, startGen_micro htwo ha.1 hc.1
    (by rw [argOf_fix ha.1, argOf_fix hc.1, he]) hm hgo halloc]

end

theorem isNumber_of_inexact {c : Cell} (h : c.isInexact = true) : c.isNumber = true := by
  rw [Cell.isNumber, h, Bool.or_true]

theorem isNumber_of_fix {c : Cell} (h : c.tag = tagFIX) : c.isNumber = true := by
  simp [Cell.isNumber, Cell.isExact_of_fix h]

theorem isInt_of_fix {c : Cell} (h : c.tag = tagFIX) : c.isInt = true := by
  simp [Cell.isInt, h]

theorem numTime_of_number {c : Cell} (h : c.isNumber = true) : numTime c = true := by
  simp [numTime, h]

/-- Two numbers are operands of ADD and of SUB (R50). -/
theorem addOk2_of_numbers {a c : Cell} (ha : a.isNumber = true) (hc : c.isNumber = true) (sub : Bool) : addOk2 sub a c = true := by
  have htime : ∀ x : Cell, x.isNumber = true → (x.tag == tagTIME) = false := fun x hx => by
    refine beq_eq_false_iff_ne.mpr fun h => ?_
    simp [Cell.isNumber, Cell.isExact, Cell.isInexact, Cell.isInt, h, tagTIME, tagFIX, tagBIG, tagRATIO, tagFLO, tagQTY] at hx
  simp only [addOk2, htime a ha, htime c hc, Bool.false_eq_true, if_false, hc]

/-- Settles O13: the instructions on FLO operands, the powers, and the routines that exact operands start. -/
theorem floatArithmeticSticksItsFlags : Obligations.FloatArithmeticSticksItsFlags := by
  refine ⟨?_, ?_, ?_⟩
  · intro s t i n o e c fa hf hc rm into
    refine ⟨fun hr ha => ?_, fun hr => ?_⟩
    · have hia := Cell.isInexact_of_flo ha.1
      have hic := Cell.isInexact_of_flo hc.1
      have hq := qStop_of_flo ha.1 hc.1 .div (t.regs e.q).st 2
      have hna := isNumber_of_inexact hia
      have hnc := isNumber_of_inexact hic
      have run : ∀ {op : BitVec 8} (g : GenOp) {z : Nat × FpFlags}, g.two = true → g.ok1 (t.regs e.q).a = true →
          g.ok2 (t.regs e.q).a c = true → g.micro (t.regs e.q).a = false → IssuesM s i n op o e →
          g.eval (t.regs e.q).st { c := (t.regs e.q).a } { c := c } = floOut z →
          (.next (genForm i op o g s) : Out) = into z := by
        intro op g z htwo h1 h2 hm h he
        rw [genForm_inexact2 h hf hr htwo ha.2 hc.2 h1 h2 hm (Cell.isInexact_of_flo ha.1) (Cell.isInexact_of_flo hc.1) he rfl]
        rfl
      have flo := floatOp_flo ha.1 hc.1
      refine ⟨fun h => run genAdd rfl (numTime_of_number hna) (addOk2_of_numbers hna hnc false) rfl h
          ((evalAdd_inexact hia hic false).trans (flo _ _ _)),
        fun h => run genSub rfl (numTime_of_number hna) (addOk2_of_numbers hna hnc true) rfl h
          ((evalAdd_inexact hia hic true).trans (flo _ _ _)),
        fun h => run genMul rfl hna hnc rfl h ((evalMul_inexact hia).trans (flo _ _ _)),
        fun h hd => run genDiv rfl hna hnc rfl h ((evalDiv_goes hia hic hq hd).trans (flo _ _ _)),
        fun h ht hz => congrArg Host.Outcome.next ?_⟩
      exact genForm_inexact2_stop h hf hr rfl ha.2 hc.2 hna hnc rfl hia hic (evalDiv_traps hia hic hq ht hz) rfl
    · have run : ∀ {op : BitVec 8} (g : GenOp) {z : Nat × FpFlags}, g.two = false → g.ok1 c = true → g.micro c = false →
          IssuesM s i n op o e → g.eval (t.regs e.q).st { c := c } { c := c } = floOut z →
          (.next (genForm i op o g s) : Out) = into z := by
        intro op g z htwo h1 hm h he
        rw [genForm_inexact1 h hf hr htwo hc.2 h1 hm (Cell.isInexact_of_flo hc.1) he rfl]
        rfl
      have hic := Cell.isInexact_of_flo hc.1
      exact ⟨fun h => run genSqrt rfl (isNumber_of_inexact hic) rfl h
          ((evalSqrt_goes hic (qStop_of_flo hc.1 hc.1 _ _ _)).trans (deliver_of_flo hc.1 hc.1 _ _ _ _ _)),
        fun h => run genToflo rfl (by simp [genToflo, oneOp, hc.1]) rfl h (evalToflo_flo hc.1 (t.regs e.q).st)⟩
  · intro s t i n o e c fa hr hf h hc a rm into
    have hint := isInt_of_fix hc.1
    have run : ∀ {z : Nat × FpFlags}, Is a tagFLO → powFloat (t.regs e.q).st { c := a } c.int false = floOut z →
        (.next (genForm i 0x29 o genIpow s) : Out) = into z := by
      intro z ha he
      have hia := Cell.isInexact_of_flo ha.1
      rw [genForm_two h hf hr rfl ha.2 hc.2 (isNumber_of_inexact hia) hint, startGen_cell (Cell.isBoxed_of_inexact hia)
        (Cell.isBoxed_of_fix hc.1) (Cell.isExact_of_inexact hia) (r := floOut z)
        (by rw [argOf_inexact hia, argOf_fix hc.1]; exact (evalPow_flo ha.1 hc.1 _).trans he) rfl]
      rfl
    refine ⟨fun ha h0 u halloc hsize => congrArg Host.Outcome.next ?_,
      fun ha hn => run ha (by rw [hn]; exact powFloat_zero ha.1 _),
      fun ha h0 h1 => ⟨fun hn => run ha (powFloat_pos ha.1 h0 h1 hn),
        fun hn hd => run ha (powFloat_neg ha.1 h0 h1 hn rfl hd)⟩⟩
    have hmicro : genIpow.micro a = true := Cell.isExact_of_fix ha.1
    exact genForm_micro hr hf ha hc halloc rfl (isNumber_of_fix ha.1) hint h rfl (by rw [hmicro, Bool.true_or])
      (evalPow_goes_on ha.1 hc.1 h0 hsize _)
  · intro s t u i n o e c fa hr hf ha hc halloc a x y k starts
    have hna := isNumber_of_fix ha.1
    have hnc := isNumber_of_fix hc.1
    have run : ∀ {op : BitVec 8} (g : GenOp) {p q : Int}, g.two = true → g.ok1 a = true → g.ok2 a c = true →
        IssuesM s i n op o e → g.eval (t.regs e.q).st { c := a, n := x } { c := c, n := y } = { res := .exact p q } →
        (GRes.exact p q).boxed = true → starts op (.next (genForm i op o g s)) := by
      intro op g p q htwo h1 h2 h he hb
      exact congrArg _ (genForm_micro hr hf ha hc halloc htwo h1 h2 h he (by rw [hb, Bool.or_true]) rfl)
    exact ⟨fun h hz => run genAdd rfl (numTime_of_number hna) (addOk2_of_numbers hna hnc false) h (evalAdd_fix ha.1 hc.1 false _)
        (boxed_of_int hz),
      fun h hz => run genSub rfl (numTime_of_number hna) (addOk2_of_numbers hna hnc true) h (evalAdd_fix ha.1 hc.1 true _)
        (boxed_of_int hz),
      fun h hz => run genMul rfl hna hnc h (evalMul_fix ha.1 hc.1 _) (boxed_of_int hz),
      fun h hy hz => run genDiv rfl hna hnc h (evalDiv_fix ha.1 hc.1 hy _) (boxed_of_quotient hy hz),
      fun h hy hz => run genQuot rfl (isInt_of_fix ha.1) (isInt_of_fix hc.1) h (evalQuot_fix hy (t.regs e.q).st)
        (boxed_of_int hz),
      fun m h hy hm hz => run genAsh rfl (isInt_of_fix ha.1) (isInt_of_fix hc.1) h (evalAsh_left hy hm hz (t.regs e.q).st)
        (boxed_of_int hz)⟩

end Sys2Proof.Machine

namespace Sys2Proof.Machine

/-! ### Dimensions (R66 to R69) -/

theorem wrapInt_four_lt (z : Int) : wrapInt 4 z < 16 := by
  unfold wrapInt
  omega

theorem signedOf_wrapInt_four {z : Int} (h : -8 ≤ z ∧ z ≤ 7) : signedOf 4 (wrapInt 4 z) = z := by
  unfold signedOf wrapInt
  split <;> omega

theorem wrapInt_signedOf_four (m : Nat) : wrapInt 4 (signedOf 4 m) = m % 16 := by
  unfold signedOf wrapInt
  split <;> omega

theorem dimDigit_bounds (d k : Nat) : -8 ≤ dimDigit d k ∧ dimDigit d k ≤ 7 := by
  unfold dimDigit signedOf
  split <;> omega

/-- `DIM` as the sum of its seven digits. -/
theorem dimMake_eq (f : Nat → Int) : dimMake f = wrapInt 4 (f 0) + wrapInt 4 (f 1) * 16 + wrapInt 4 (f 2) * 16 ^ 2 +
    wrapInt 4 (f 3) * 16 ^ 3 + wrapInt 4 (f 4) * 16 ^ 4 + wrapInt 4 (f 5) * 16 ^ 5 + wrapInt 4 (f 6) * 16 ^ 6 := by
  simp [dimMake, foldUp]

theorem dimMake_lt (f : Nat → Int) : dimMake f < 2 ^ 28 := by
  have h := fun k => wrapInt_four_lt (f k)
  have := h 0; have := h 1; have := h 2; have := h 3; have := h 4; have := h 5; have := h 6
  rw [dimMake_eq]
  omega

theorem signedOf_four_congr {m n : Nat} (h : m % 16 = n % 16) : signedOf 4 m = signedOf 4 n := by
  simp only [signedOf, Nat.reducePow, h]

/-- Exponents in range are read back from the `DIM` that they make. -/
theorem dimDigit_dimMake {f : Nat → Int} {k : Nat} (hk : k < 7) (hf : -8 ≤ f k ∧ f k ≤ 7) : dimDigit (dimMake f) k = f k := by
  have h := fun k => wrapInt_four_lt (f k)
  have := h 0; have := h 1; have := h 2; have := h 3; have := h 4; have := h 5; have := h 6
  rw [← signedOf_wrapInt_four hf, dimDigit]
  apply signedOf_four_congr
  rw [dimMake_eq]
  interval_cases k <;> omega

/-- A `DIM` is the one that its exponents make. -/
theorem dimMake_dimDigit {d : Nat} (h : d < 2 ^ 28) : dimMake (dimDigit d) = d := by
  rw [dimMake_eq]
  simp only [dimDigit, wrapInt_signedOf_four]
  omega

theorem dimFits_iff (f : Nat → Int) : dimFits f = true ↔ ∀ k, k < 7 → -8 ≤ f k ∧ f k ≤ 7 := by
  simp [dimFits, List.all_eq_true]

theorem dimOdd_eq_false_iff (d : Nat) : dimOdd d = false ↔ ∀ k, k < 7 → dimDigit d k % 2 = 0 := by
  simp [dimOdd, List.any_eq_false]

/-! ### Uncertainty (R74, R75, R77) -/

/-- A larger code stands for a larger uncertainty. -/
theorem uncUnits_mono {c d : Nat} (h : c ≤ d) (hd : d < 2 ^ 16) : uncUnits c ≤ uncUnits d := by
  have hc : c / 1024 % 64 = c / 1024 := by omega
  have hd' : d / 1024 % 64 = d / 1024 := by omega
  have hle : c / 1024 ≤ d / 1024 := Nat.div_le_div_right h
  simp only [uncUnits, hc, hd', beq_iff_eq]
  generalize hx : c / 1024 = x at *
  generalize hy : d / 1024 = y at *
  by_cases heq : x = y
  · subst heq
    by_cases h0 : x = 0
    · simp only [h0, if_true]
      omega
    · simp only [h0, if_false]
      exact Nat.mul_le_mul_right _ (by omega)
  · have hlt : x ≤ y - 1 := by omega
    have hy0 : y ≠ 0 := by omega
    have hpow : 2 ^ x ≤ 2 ^ (y - 1) := Nat.pow_le_pow_right (by norm_num) hlt
    simp only [hy0, if_false]
    refine le_trans ?_ (Nat.mul_le_mul_right (2 ^ (y - 1)) (Nat.le_add_right 1024 (d % 1024)))
    by_cases h0 : x = 0
    · simp only [h0, if_true] at hpow ⊢
      omega
    · obtain ⟨z, rfl⟩ := Nat.exists_eq_succ_of_ne_zero h0
      simp only [h0, if_false, Nat.succ_eq_add_one, Nat.add_sub_cancel] at hpow ⊢
      have hf : 1024 + c % 1024 ≤ 1024 * 2 := by omega
      calc (1024 + c % 1024) * 2 ^ z ≤ 1024 * 2 * 2 ^ z := Nat.mul_le_mul_right _ hf
        _ = 1024 * 2 ^ (z + 1) := by ring
        _ ≤ 1024 * 2 ^ (y - 1) := Nat.mul_le_mul_left _ hpow

/-- The search for the least code: where `below` holds of a lower part of the codes from `c`, and not of the last of them, the
result is the first code of which it does not hold. -/
theorem leastCode_spec {below : Nat → Bool} {n c : Nat} (hmono : ∀ i j, i ≤ j → j < c + 2 ^ n → below j = true → below i = true)
    (hlow : ∀ k, k < c → below k = true) (hlast : below (c + 2 ^ n - 1) = false) :
    leastCode below n c < c + 2 ^ n ∧ below (leastCode below n c) = false ∧ ∀ k, k < leastCode below n c → below k = true := by
  induction n generalizing c with
  | zero => exact ⟨by simp [leastCode], by simpa [leastCode] using hlast, fun k hk => hlow k (by simpa [leastCode] using hk)⟩
  | succ n ih =>
    have hpow : 2 ^ (n + 1) = 2 ^ n + 2 ^ n := by rw [pow_succ]; omega
    have hpos : 0 < 2 ^ n := by positivity
    rw [leastCode]
    split
    next h =>
      have hrec := ih (c := c + 2 ^ n) (fun i j hij hj => hmono i j hij (by omega))
        (fun k hk => hmono k _ (by omega) (by omega) h) (by rwa [Nat.add_assoc, ← hpow])
      rwa [Nat.add_assoc, ← hpow] at hrec
    next h =>
      obtain ⟨h1, h2⟩ := ih (c := c) (fun i j hij hj => hmono i j hij (by omega)) hlow (by simpa using h)
      exact ⟨by omega, h2⟩

/-- The code of an uncertainty whose square is p/q: the least code whose value is not less (R75). -/
theorem uncEncodeSq_spec {p q : Nat} (h : ¬ uncMax * uncMax * q < p) :
    uncEncodeSq p q < 2 ^ 16 ∧ p ≤ uncUnits (uncEncodeSq p q) ^ 2 * q ∧ ∀ k, k < uncEncodeSq p q → uncUnits k ^ 2 * q < p := by
  have hmax : uncUnits 65535 = uncMax := by decide
  obtain ⟨hlt, hat, hbelow⟩ := leastCode_spec (below := fun c => uncUnits c * uncUnits c * q < p) (n := 16) (c := 0)
    (fun i j hij hj hb => by
      have hu := uncUnits_mono hij (by simpa using hj)
      exact decide_eq_true (lt_of_le_of_lt (Nat.mul_le_mul_right q (Nat.mul_le_mul hu hu)) (of_decide_eq_true hb)))
    (fun k hk => absurd hk (Nat.not_lt_zero k)) (by simpa [hmax] using h)
  simp only [uncEncodeSq, if_neg h, pow_two]
  exact ⟨by simpa using hlt, not_lt.mp (of_decide_eq_false hat), fun k hk => of_decide_eq_true (hbelow k hk)⟩

/-- `UNC` of a result is a code, and follows R75 and R77. -/
theorem unc_follows (op : QOp) (off : Bool) {cx cy : Nat} (x y z : Nat) : (op.unc off cx cy x y z).1 < 2 ^ 16 ∧
    UncFollows off cx cy (op.uncSq (uncUnits cx) (uncUnits cy) x y z) (op.unc off cx cy x y z).1 (op.unc off cx cy x y z).2 := by
  unfold QOp.unc UncFollows
  by_cases h1 : off = true
  · simp [h1]
  by_cases h2 : cx = 0xFFFF ∨ cy = 0xFFFF
  · simp [h1, h2]
  by_cases h3 : cx = 0 ∧ cy = 0
  · simp [h1, h3]
  have h2' : (cx == 0xFFFF || cy == 0xFFFF) = false := by simpa using h2
  have h3' : (cx == 0 && cy == 0) = false := by simpa using h3
  simp only [h1, h2, h3, h2', h3', Bool.false_eq_true, if_false]
  cases op.uncSq (uncUnits cx) (uncUnits cy) x y z with
  | none => simp
  | some w =>
    obtain ⟨p, q⟩ := w
    have hsq : (65504 * 2 ^ 57) ^ 2 = uncMax * uncMax := by rw [uncMax, pow_two]
    simp only [hsq]
    by_cases h4 : uncMax * uncMax * q < p
    · simp [h4]
    · obtain ⟨h5, h6, h7⟩ := uncEncodeSq_spec h4
      simp only [h4, if_false]
      exact ⟨h5, trivial, h6, h7⟩

/-! ### QTY cells (R22) -/

section
variable (dim unc abs hint : Nat) (pay : Word64)

theorem tag_mkQTY : (mkQTY dim unc abs hint pay).tag = tagQTY := by
  rw [Cell.tag, mkQTY, field_mkCell _ _ _ _ (.inr (by decide)) (by decide)]
  simp only [tagQTY]
  omega

theorem pay_mkQTY : (mkQTY dim unc abs hint pay).pay = pay.toNat := by
  have := pay.isLt
  rw [Cell.pay, mkQTY, field_mkCell _ _ _ _ (.inl (by decide)) (by decide)]
  omega

theorem qDim_mkQTY : (mkQTY dim unc abs hint pay).qDim = dim % 2 ^ 28 := by
  have := pay.isLt
  rw [Cell.qDim, mkQTY, field_mkCell _ _ _ _ (.inl (by decide)) (by decide)]
  omega

theorem qUnc_mkQTY : (mkQTY dim unc abs hint pay).qUnc = unc % 2 ^ 16 := by
  have := pay.isLt
  rw [Cell.qUnc, mkQTY, field_mkCell _ _ _ _ (.inl (by decide)) (by decide)]
  omega

theorem qAbs_mkQTY : (mkQTY dim unc abs hint pay).qAbs = abs % 2 := by
  have := pay.isLt
  rw [Cell.qAbs, mkQTY, field_mkCell _ _ _ _ (.inl (by decide)) (by decide)]
  omega

theorem qHint_mkQTY : (mkQTY dim unc abs hint pay).qHint = hint % 128 := by
  have := pay.isLt
  rw [Cell.qHint, mkQTY, field_mkCell _ _ _ _ (.inl (by decide)) (by decide)]
  omega

end

end Sys2Proof.Machine

namespace Sys2Proof.Machine

/-! ### Quantities in an instruction (R67 to R73, R76, R77, R81): O14 -/

theorem Cell.isInexact_of_qty {c : Cell} (h : c.tag = tagQTY) : c.isInexact = true := by
  simp [Cell.isInexact, h]

theorem qDim_lt (c : Cell) : c.qDim < 2 ^ 28 := Nat.mod_lt _ (by norm_num)
theorem qAbs_lt (c : Cell) : c.qAbs < 2 := Nat.mod_lt _ (by norm_num)
theorem qHint_lt (c : Cell) : c.qHint < 128 := Nat.mod_lt _ (by norm_num)

theorem hintOf_lt (c : Cell) : c.hintOf < 128 := by
  unfold Cell.hintOf
  split
  · exact qHint_lt c
  · norm_num

theorem hint_lt (op : QOp) (a b : Cell) (d : Nat) : op.hint a b d < 128 := by
  have ha := hintOf_lt a
  have hb := hintOf_lt b
  unfold QOp.hint
  cases op <;> dsimp only <;> (repeat' split) <;> omega

section
variable {a c : Cell} (ha : a.tag = tagQTY)
include ha

theorem dimOf_qty : a.dimOf = a.qDim := by simp [Cell.dimOf, ha]
theorem uncOf_qty : a.uncOf = a.qUnc := by simp [Cell.uncOf, ha]
theorem hintOf_qty : a.hintOf = a.qHint := by simp [Cell.hintOf, ha]
theorem ptOf_qty : a.ptOf = decide (a.qAbs = 1) := by simp [Cell.ptOf, ha, beq_eq_decide]

/-- The faults of one quantity (R69, R71). -/
theorem fault_neg (ok : Bool) : QOp.neg.fault ok a a = if a.qAbs = 1 ∧ ok = false then some 0x05 else none := by
  unfold QOp.fault
  simp [ptOf_qty ha]

omit ha in
theorem fault_abs (ok : Bool) : QOp.abs.fault ok a a = none := by
  unfold QOp.fault
  simp

theorem fault_root (ok : Bool) : QOp.root.fault ok a a =
    if dimOdd a.qDim = true then some 0x03 else if a.qAbs = 1 ∧ ok = false then some 0x05 else none := by
  unfold QOp.fault
  simp [ptOf_qty ha, dimOf_qty ha]

/-- A fault of R73 stops the instruction. -/
theorem qStop_of_fault {op : QOp} {st : Word64} {code : Nat} (h : op.fault (bit st stAFFOK) a c = some code) (opn : Nat) :
    qStop op st a c opn = some (.stop code 0 opn) := by
  simp [qStop, ha, h]

omit ha in
theorem qStop_of_no_fault {op : QOp} {st : Word64} (h : op.fault (bit st stAFFOK) a c = none) (opn : Nat) :
    qStop op st a c opn = none := by
  simp [qStop, h]

variable (hc : c.tag = tagQTY)
include hc

/-- The faults of two quantities (R67, R68, R71). -/
theorem fault_add (ok : Bool) : QOp.add.fault ok a c =
    if a.qDim ≠ c.qDim then some 0x03 else if a.qAbs = 1 ∧ c.qAbs = 1 then some 0x05 else none := by
  unfold QOp.fault
  simp [ptOf_qty ha, ptOf_qty hc, dimOf_qty ha, dimOf_qty hc]

theorem fault_sub (ok : Bool) : QOp.sub.fault ok a c =
    if a.qDim ≠ c.qDim then some 0x03 else if ¬ a.qAbs = 1 ∧ c.qAbs = 1 then some 0x05 else none := by
  unfold QOp.fault
  simp [ptOf_qty ha, ptOf_qty hc, dimOf_qty ha, dimOf_qty hc]

theorem fault_mul (ok : Bool) : QOp.mul.fault ok a c =
    if ¬ dimFits (QOp.mul.dim a.qDim c.qDim) = true then some 0x04
    else if (a.qAbs = 1 ∨ c.qAbs = 1) ∧ ok = false then some 0x05 else none := by
  unfold QOp.fault
  simp [ptOf_qty ha, ptOf_qty hc, dimOf_qty ha, dimOf_qty hc]

theorem fault_div (ok : Bool) : QOp.div.fault ok a c =
    if ¬ dimFits (QOp.div.dim a.qDim c.qDim) = true then some 0x04
    else if (a.qAbs = 1 ∨ c.qAbs = 1) ∧ ok = false then some 0x05 else none := by
  unfold QOp.fault
  simp [ptOf_qty ha, ptOf_qty hc, dimOf_qty ha, dimOf_qty hc]

end

/-- What a QTY result `r` of the operation on `a` and `b` is, for the binary64 payload `z`; `sat` = it sets `ST.UNCSAT`. -/
structure QtyResult (op : QOp) (off : Bool) (a b : Cell) (z : Nat) (r : Cell) (sat : Bool) : Prop where
  tag : r.tag = tagQTY
  dim : r.qDim = dimMake (op.dim a.qDim b.qDim)
  hint : r.qHint = op.hint a b r.qDim
  abs : r.qAbs = b2n (op.pt a b)
  pay : r.pay = z % 2 ^ 64
  unc : UncFollows off a.qUnc b.qUnc (op.uncSq (uncUnits a.qUnc) (uncUnits b.qUnc) a.pay b.pay z) r.qUnc sat

theorem deliver_qty {a b : Cell} (ha : a.tag = tagQTY) (hb : b.tag = tagQTY) (op : QOp) (off : Bool) (z : Nat × FpFlags) :
    ∃ r sat, op.deliver off a b a.pay b.pay z.1 z.2 = { res := .cell r, fl := z.2, sat := sat } ∧
      QtyResult op off a b z.1 r sat := by
  obtain ⟨hlt, hunc⟩ := unc_follows op off (cx := a.qUnc) (cy := b.qUnc) a.pay b.pay z.1
  have hdim := dimMake_lt (op.dim a.qDim b.qDim)
  refine ⟨_, _, by simp [QOp.deliver, ha, dimOf_qty ha, dimOf_qty hb, uncOf_qty ha, uncOf_qty hb]; exact ⟨rfl, rfl⟩, ?_⟩
  constructor
  case tag => exact tag_mkQTY _ _ _ _ _
  case dim => rw [qDim_mkQTY, Nat.mod_eq_of_lt hdim]
  case hint => rw [qHint_mkQTY, qDim_mkQTY, Nat.mod_eq_of_lt hdim, Nat.mod_eq_of_lt (hint_lt _ _ _ _)]
  case abs => rw [qAbs_mkQTY]; cases op.pt a b <;> rfl
  case pay => rw [pay_mkQTY, BitVec.toNat_ofNat]
  case unc => rwa [qUnc_mkQTY, Nat.mod_eq_of_lt hlt]

/-- The registers after a QTY result: A takes it, and ST, `st` before, the exceptions. -/
def tookQty (st : Word64) (r : Cell) (fl : FpFlags) (sat : Bool) (g : Regs) : Regs :=
  { g with a := normalize r, st := stuck st fl sat }

theorem finish_congr {t : State} {e : Env} {f g : Regs → Regs} (h : f (t.regs e.q) = g (t.regs e.q)) :
    t.finish e f = t.finish e g := by
  rw [State.finish, State.finish, State.modRegs_congr h]

section
variable {s t : State} {i : Issue} {n : Nat} {op : BitVec 8} {o : MOp} {e : Env} {g : GenOp} {c : Cell} {fa : Nat}

/-- An instruction on two quantities whose operation goes through. -/
theorem genForm_qty2 {qop : QOp} {z : Nat × FpFlags} (hr : Reads s e o 2 c fa t) (hf : Fresh s e)
    (ha : Is (t.regs e.q).a tagQTY) (hc : Is c tagQTY) (htwo : g.two = true) (h1 : g.ok1 (t.regs e.q).a = true)
    (h2 : g.ok2 (t.regs e.q).a c = true) (hm : g.micro (t.regs e.q).a = false) (h : IssuesM s i n op o e)
    (he : g.eval (t.regs e.q).st { c := (t.regs e.q).a } { c := c } =
      qop.deliver (bit (t.regs e.q).st stUNCOFF) (t.regs e.q).a c (t.regs e.q).a.pay c.pay z.1 z.2) :
    ∃ r sat, genForm i op o g s = t.finish e (tookQty (t.regs e.q).st r z.2 sat) ∧
      QtyResult qop (bit (t.regs e.q).st stUNCOFF) (t.regs e.q).a c z.1 r sat := by
  obtain ⟨r, sat, hd, hres⟩ := deliver_qty ha.1 hc.1 qop (bit (t.regs e.q).st stUNCOFF) z
  exact ⟨r, sat, (genForm_inexact2 h hf hr htwo ha.2 hc.2 h1 h2 hm (Cell.isInexact_of_qty ha.1) (Cell.isInexact_of_qty hc.1)
    (he.trans hd) rfl).trans (finish_congr rfl), hres⟩

/-- An instruction on one quantity whose operation goes through. -/
theorem genForm_qty1 {qop : QOp} {z : Nat × FpFlags} (hr : Reads s e o 1 c fa t) (hf : Fresh s e) (hc : Is c tagQTY)
    (htwo : g.two = false) (h1 : g.ok1 c = true) (hm : g.micro c = false) (h : IssuesM s i n op o e)
    (he : g.eval (t.regs e.q).st { c := c } { c := c } =
      qop.deliver (bit (t.regs e.q).st stUNCOFF) c c c.pay c.pay z.1 z.2) :
    ∃ r sat, genForm i op o g s = t.finish e (tookQty (t.regs e.q).st r z.2 sat) ∧
      QtyResult qop (bit (t.regs e.q).st stUNCOFF) c c z.1 r sat := by
  obtain ⟨r, sat, hd, hres⟩ := deliver_qty hc.1 hc.1 qop (bit (t.regs e.q).st stUNCOFF) z
  exact ⟨r, sat, (genForm_inexact1 h hf hr htwo hc.2 h1 hm (Cell.isInexact_of_qty hc.1) (he.trans hd) rfl).trans
    (finish_congr rfl), hres⟩

end

theorem floatOp_stops {op : QOp} {a c : Cell} {st : Word64} {r : GRes} (f : Nat → Nat → Nat → Nat × FpFlags)
    (h : qStop op st a c 2 = some r) : floatOp op f st { c := a } { c := c } = { res := r } := by
  simp only [floatOp, h]

theorem evalDiv_stops {a c : Cell} {st : Word64} {r : GRes} (ha : a.isInexact = true) (h : qStop .div st a c 2 = some r) :
    evalDiv st { c := a } { c := c } = { res := r } := by
  simp only [evalDiv, Cell.isExact_of_inexact ha, Bool.false_and, Bool.false_eq_true, if_false, h]

theorem evalSqrt_stops {c : Cell} {st : Word64} {r : GRes} (h : qStop .root st c c 1 = some r) :
    evalSqrt st { c := c } = { res := r } := by
  simp only [evalSqrt, h]

theorem evalSign_stops {c : Cell} {st : Word64} {r : GRes} (hc : c.isInexact = true) (neg : Bool)
    (h : qStop (if neg then .neg else .abs) st c c 1 = some r) : evalSign neg st { c := c } = { res := r } := by
  simp only [evalSign, Cell.isExact_of_inexact hc, Bool.false_eq_true, if_false, h]

theorem evalSign_goes {c : Cell} {st : Word64} (hc : c.isInexact = true) (neg : Bool)
    (h : qStop (if neg then .neg else .abs) st c c 1 = none) : evalSign neg st { c := c } =
      (if neg then QOp.neg else .abs).deliver (bit st stUNCOFF) c c c.pay c.pay
        (if neg then fpNeg f64 c.pay else fpAbs f64 c.pay) {} := by
  simp only [evalSign, Cell.isExact_of_inexact hc, Bool.false_eq_true, if_false, h]

end Sys2Proof.Machine

namespace Sys2Proof.Machine

/-! ### The quantity instructions (R67 to R73, R113): O14 -/

section
variable {s t : State} {i : Issue} {n : Nat} {o : MOp} {e : Env} {c : Cell} {fa : Nat} (hr : Reads s e o 2 c fa t)
  (hf : Fresh s e) (ha : Is (t.regs e.q).a tagQTY) (hc : Is c tagQTY)
include hr hf ha hc

/-- ADD or SUB of two quantities that R73 faults. -/
theorem genForm_sum_faults {op : BitVec 8} {g : GenOp} {sub : Bool} {code : Nat} (hg : g = if sub then genSub else genAdd)
    (h : IssuesM s i n op o e)
    (hfault : (if sub then QOp.sub else .add).fault (bit (t.regs e.q).st stAFFOK) (t.regs e.q).a c = some code) :
    genForm i op o g s = s.trapped e code 0 2 0 fa := by
  have hia := Cell.isInexact_of_qty ha.1
  have hic := Cell.isInexact_of_qty hc.1
  have hna := isNumber_of_inexact hia
  have hok := addOk2_of_numbers hna (isNumber_of_inexact hic) sub
  have he := (evalAdd_inexact hia hic sub).trans (floatOp_stops _ (qStop_of_fault ha.1 hfault 2))
  cases sub <;> subst hg <;>
    exact genForm_inexact2_stop h hf hr rfl ha.2 hc.2 (numTime_of_number hna) hok rfl hia hic he rfl

/-- ADD or SUB of two quantities that goes through. -/
theorem genForm_sum {op : BitVec 8} {g : GenOp} {sub : Bool} (hg : g = if sub then genSub else genAdd)
    (h : IssuesM s i n op o e)
    (hfault : (if sub then QOp.sub else .add).fault (bit (t.regs e.q).st stAFFOK) (t.regs e.q).a c = none) :
    let z := (if sub then fpSub f64 else fpAdd f64) (frmOf (t.regs e.q).st) (t.regs e.q).a.pay c.pay
    ∃ r sat, genForm i op o g s = t.finish e (tookQty (t.regs e.q).st r z.2 sat) ∧
      QtyResult (if sub then QOp.sub else .add) (bit (t.regs e.q).st stUNCOFF) (t.regs e.q).a c z.1 r sat := by
  have hia := Cell.isInexact_of_qty ha.1
  have hic := Cell.isInexact_of_qty hc.1
  have hna := isNumber_of_inexact hia
  have hok := addOk2_of_numbers hna (isNumber_of_inexact hic) sub
  have he := (evalAdd_inexact hia hic sub).trans (floatOp_goes hia hic _ (qStop_of_no_fault hfault 2))
  cases sub <;> subst hg <;> exact genForm_qty2 hr hf ha hc rfl (numTime_of_number hna) hok rfl h he

/-- MUL or DIV of two quantities that R73 faults. -/
theorem genForm_product_faults {op : BitVec 8} {g : GenOp} {div : Bool} {code : Nat} (hg : g = if div then genDiv else genMul)
    (h : IssuesM s i n op o e)
    (hfault : (if div then QOp.div else .mul).fault (bit (t.regs e.q).st stAFFOK) (t.regs e.q).a c = some code) :
    genForm i op o g s = s.trapped e code 0 2 0 fa := by
  have hia := Cell.isInexact_of_qty ha.1
  have hic := Cell.isInexact_of_qty hc.1
  have hstop := qStop_of_fault ha.1 hfault 2
  cases div <;> subst hg
  · exact genForm_inexact2_stop h hf hr rfl ha.2 hc.2 (isNumber_of_inexact hia) (isNumber_of_inexact hic) rfl hia hic
      ((evalMul_inexact hia).trans (floatOp_stops _ hstop)) rfl
  · exact genForm_inexact2_stop h hf hr rfl ha.2 hc.2 (isNumber_of_inexact hia) (isNumber_of_inexact hic) rfl hia hic
      (evalDiv_stops hia hstop) rfl

/-- MUL or DIV of two quantities that goes through: a division by a divisor that is not ±0, or untrapped. -/
theorem genForm_product {op : BitVec 8} {g : GenOp} {div : Bool} (hg : g = if div then genDiv else genMul)
    (h : IssuesM s i n op o e)
    (hfault : (if div then QOp.div else .mul).fault (bit (t.regs e.q).st stAFFOK) (t.regs e.q).a c = none)
    (hz : div = true → bit (t.regs e.q).st stFTRAP = false ∨ c.pay % 2 ^ 63 ≠ 0) :
    let z := (if div then fpDiv f64 else fpMul f64) (frmOf (t.regs e.q).st) (t.regs e.q).a.pay c.pay
    ∃ r sat, genForm i op o g s = t.finish e (tookQty (t.regs e.q).st r z.2 sat) ∧
      QtyResult (if div then QOp.div else .mul) (bit (t.regs e.q).st stUNCOFF) (t.regs e.q).a c z.1 r sat := by
  have hia := Cell.isInexact_of_qty ha.1
  have hic := Cell.isInexact_of_qty hc.1
  have hgo := qStop_of_no_fault hfault 2
  cases div <;> subst hg
  · exact genForm_qty2 hr hf ha hc rfl (isNumber_of_inexact hia) (isNumber_of_inexact hic) rfl h
      ((evalMul_inexact hia).trans (floatOp_goes hia hic _ hgo))
  · exact genForm_qty2 hr hf ha hc rfl (isNumber_of_inexact hia) (isNumber_of_inexact hic) rfl h
      ((evalDiv_goes hia hic hgo (hz rfl)).trans (floatOp_goes hia hic _ hgo))

/-- DIV of two quantities by ±0 where it traps (R61). -/
theorem genForm_div_traps (h : IssuesM s i n 0x23 o e)
    (hfault : QOp.div.fault (bit (t.regs e.q).st stAFFOK) (t.regs e.q).a c = none)
    (htrap : bit (t.regs e.q).st stFTRAP = true) (hz : c.pay % 2 ^ 63 = 0) :
    genForm i 0x23 o genDiv s = s.trapped e 0x07 1 2 0 fa := by
  have hia := Cell.isInexact_of_qty ha.1
  have hic := Cell.isInexact_of_qty hc.1
  exact genForm_inexact2_stop h hf hr rfl ha.2 hc.2 (isNumber_of_inexact hia) (isNumber_of_inexact hic) rfl hia hic
    (evalDiv_traps hia hic (qStop_of_no_fault hfault 2) htrap hz) rfl

end

section
variable {s t : State} {i : Issue} {n : Nat} {o : MOp} {e : Env} {c : Cell} {fa : Nat} (hr : Reads s e o 1 c fa t)
  (hf : Fresh s e) (hc : Is c tagQTY)
include hr hf hc

theorem genForm_neg_faults {code : Nat} (h : IssuesM s i n 0x26 o e)
    (hfault : QOp.neg.fault (bit (t.regs e.q).st stAFFOK) c c = some code) :
    genForm i 0x26 o genNeg s = s.trapped e code 0 1 0 fa := by
  have hic := Cell.isInexact_of_qty hc.1
  exact genForm_inexact1_stop h hf hr rfl hc.2 (isNumber_of_inexact hic) rfl hic
    (evalSign_stops hic true (qStop_of_fault hc.1 hfault 1)) rfl

/-- NEG or ABS of a quantity that goes through. -/
theorem genForm_sign {op : BitVec 8} {g : GenOp} {neg : Bool} (hg : g = if neg then genNeg else genAbs)
    (h : IssuesM s i n op o e)
    (hfault : (if neg then QOp.neg else .abs).fault (bit (t.regs e.q).st stAFFOK) c c = none) :
    ∃ r sat, genForm i op o g s = t.finish e (tookQty (t.regs e.q).st r {} sat) ∧
      QtyResult (if neg then QOp.neg else .abs) (bit (t.regs e.q).st stUNCOFF) c c
        (if neg then fpNeg f64 c.pay else fpAbs f64 c.pay) r sat := by
  have hic := Cell.isInexact_of_qty hc.1
  have hgo := qStop_of_no_fault hfault 1
  cases neg <;> subst hg
  · exact genForm_qty1 (z := (fpAbs f64 c.pay, {})) hr hf hc rfl (isNumber_of_inexact hic) rfl h (evalSign_goes hic false hgo)
  · exact genForm_qty1 (z := (fpNeg f64 c.pay, {})) hr hf hc rfl (isNumber_of_inexact hic) rfl h (evalSign_goes hic true hgo)

theorem genForm_sqrt_faults {code : Nat} (h : IssuesM s i n 0x2A o e)
    (hfault : QOp.root.fault (bit (t.regs e.q).st stAFFOK) c c = some code) :
    genForm i 0x2A o genSqrt s = s.trapped e code 0 1 0 fa := by
  have hic := Cell.isInexact_of_qty hc.1
  exact genForm_inexact1_stop h hf hr rfl hc.2 (isNumber_of_inexact hic) rfl hic
    (evalSqrt_stops (qStop_of_fault hc.1 hfault 1)) rfl

theorem genForm_sqrt (h : IssuesM s i n 0x2A o e) (hfault : QOp.root.fault (bit (t.regs e.q).st stAFFOK) c c = none) :
    let z := fpSqrt f64 (frmOf (t.regs e.q).st) c.pay
    ∃ r sat, genForm i 0x2A o genSqrt s = t.finish e (tookQty (t.regs e.q).st r z.2 sat) ∧
      QtyResult .root (bit (t.regs e.q).st stUNCOFF) c c z.1 r sat := by
  have hic := Cell.isInexact_of_qty hc.1
  exact genForm_qty1 hr hf hc rfl (isNumber_of_inexact hic) rfl h (evalSqrt_goes hic (qStop_of_no_fault hfault 1))

end

/-! ### What a QTY result is, by operation (R68 to R71, R76, R81) -/

namespace QtyResult

variable {off : Bool} {a b r : Cell} {z : Nat} {sat : Bool}

/-- The operand's `DIM` where the operation keeps it. -/
theorem dim_kept {op : QOp} (h : QtyResult op off a b z r sat) (hdim : op.dim a.qDim b.qDim = dimDigit a.qDim) :
    r.qDim = a.qDim := by
  rw [h.dim, hdim, dimMake_dimDigit (qDim_lt a)]

/-- The exponents of the operation where they are in range. -/
theorem dimDigit_eq {op : QOp} (h : QtyResult op off a b z r sat) {k : Nat} (hk : k < 7)
    (hfits : -8 ≤ op.dim a.qDim b.qDim k ∧ op.dim a.qDim b.qDim k ≤ 7) : dimDigit r.qDim k = op.dim a.qDim b.qDim k := by
  rw [h.dim, dimDigit_dimMake hk hfits]

variable (ha : a.tag = tagQTY) (hb : b.tag = tagQTY)
include ha

theorem hint_sum {sub : Bool} (h : QtyResult (if sub then .sub else .add) off a b z r sat) : r.qHint = a.qHint := by
  rw [h.hint, ← hintOf_qty ha]
  cases sub <;> simp [QOp.hint, ha]

theorem abs_kept (h : QtyResult .abs off a a z r sat) : r.qAbs = a.qAbs := by
  have hlt := qAbs_lt a
  rw [h.abs, QOp.pt, ptOf_qty ha]
  generalize a.qAbs = x at *
  obtain rfl | rfl : x = 0 ∨ x = 1 := by omega
  all_goals rfl

omit ha in
/-- The square root halves an even exponent. -/
theorem dimDigit_root (h : QtyResult .root off a a z r sat) {k : Nat} (hk : k < 7) (heven : dimDigit a.qDim k % 2 = 0) :
    2 * dimDigit r.qDim k = dimDigit a.qDim k := by
  obtain ⟨hlo, hhi⟩ := dimDigit_bounds a.qDim k
  have hdim : QOp.root.dim a.qDim a.qDim k = dimDigit a.qDim k / 2 := rfl
  rw [h.dimDigit_eq hk (by omega), hdim]
  omega

include hb

theorem abs_add (h : QtyResult .add off a b z r sat) (hle : a.qAbs + b.qAbs ≤ 1) : r.qAbs = a.qAbs + b.qAbs := by
  rw [h.abs, QOp.pt, ptOf_qty ha, ptOf_qty hb]
  generalize a.qAbs = x at *
  generalize b.qAbs = y at *
  obtain ⟨rfl, rfl⟩ | ⟨rfl, rfl⟩ | ⟨rfl, rfl⟩ : x = 0 ∧ y = 0 ∨ x = 0 ∧ y = 1 ∨ x = 1 ∧ y = 0 := by omega
  all_goals rfl

theorem abs_sub (h : QtyResult .sub off a b z r sat) (hle : b.qAbs ≤ a.qAbs) : r.qAbs = a.qAbs - b.qAbs := by
  have hlt := qAbs_lt a
  rw [h.abs, QOp.pt, ptOf_qty ha, ptOf_qty hb]
  generalize a.qAbs = x at *
  generalize b.qAbs = y at *
  obtain ⟨rfl, rfl⟩ | ⟨rfl, rfl⟩ | ⟨rfl, rfl⟩ : x = 0 ∧ y = 0 ∨ x = 1 ∧ y = 0 ∨ x = 1 ∧ y = 1 := by omega
  all_goals rfl

theorem hint_product {div : Bool} (h : QtyResult (if div then .div else .mul) off a b z r sat) :
    r.qHint = if r.qDim = a.qDim then a.qHint else if r.qDim = b.qDim then b.qHint else 0 := by
  rw [h.hint]
  cases div <;> simp [QOp.hint, ha, hb, hintOf_qty ha, hintOf_qty hb, dimOf_qty ha, dimOf_qty hb]

end QtyResult

end Sys2Proof.Machine

namespace Sys2Proof.Machine

/-- An instruction's outcome and A's contents, stated of the register form, hold of the outcome. -/
theorem next_of_qty {x : State} {f : Cell → Bool → State} {P Q : Cell → Bool → Prop} (h : ∃ r sat, x = f r sat ∧ P r sat)
    (hPQ : ∀ r sat, P r sat → Q r sat) : ∃ r sat, (.next x : Out) = .next (f r sat) ∧ Q r sat := by
  obtain ⟨r, sat, rfl, hp⟩ := h
  exact ⟨r, sat, rfl, hPQ r sat hp⟩

/-- The uncertainty of a sum and of a difference, as R76 writes it. -/
theorem UncFollows.linear {off : Bool} {cx cy ux uy x y z unc : Nat} {sat : Bool}
    (h : UncFollows off cx cy (QOp.add.uncSq ux uy x y z) unc sat) :
    UncFollows off cx cy (match fpRat f64 x, fpRat f64 y, fpRat f64 z with
      | some (xn, xd), some (yn, yd), some (zn, zd) => if zn = 0 then none else some
          (((xn.natAbs * ux * yd) ^ 2 + (yn.natAbs * uy * xd) ^ 2) * zd ^ 2, (xd * yd * zn.natAbs) ^ 2)
      | _, _, _ => none) unc sat := by
  unfold QOp.uncSq at h
  generalize fpRat f64 x = fx at *
  generalize fpRat f64 y = fy at *
  generalize fpRat f64 z = fz at *
  rcases fx with _ | ⟨xn, xd⟩ <;> rcases fy with _ | ⟨yn, yd⟩ <;> rcases fz with _ | ⟨zn, zd⟩ <;> try exact h
  convert h using 1
  by_cases h0 : zn = 0
  · simp [h0]
  · simp only [beq_iff_eq, h0, if_false]
    congr 2 <;> ring

/-- Settles O14. Each instruction goes through or stops as its operation's faults say, and its QTY result is read off
`QtyResult`. -/
theorem quantityArithmeticKeepsDimensions : Obligations.QuantityArithmeticKeepsDimensions := by
  refine ⟨?_, ?_, ?_⟩
  · intro s t i n o e c fa hr hf ha hc a st rm ua uc w gives
    have hone : a.qAbs + c.qAbs ≤ 1 → ¬ (a.qAbs = 1 ∧ c.qAbs = 1) := by omega
    have hless : c.qAbs ≤ a.qAbs → ¬ (¬ a.qAbs = 1 ∧ c.qAbs = 1) := by have := qAbs_lt a; omega
    have hdifference : a.qAbs = 0 → ¬ a.qAbs = 1 := by omega
    refine ⟨fun h => ⟨fun hd => ?_, fun hd h1 h2 => ?_, fun hd hab => ?_⟩,
      fun h => ⟨fun hd => ?_, fun hd h1 h2 => ?_, fun hd hab => ?_⟩⟩
    · refine congrArg _ (genForm_sum_faults (sub := false) hr hf ha hc rfl h ?_)
      exact (fault_add ha.1 hc.1 _).trans (if_pos hd)
    · refine congrArg _ (genForm_sum_faults (sub := false) hr hf ha hc rfl h ?_)
      exact (fault_add ha.1 hc.1 _).trans ((if_neg (not_not.mpr hd)).trans (if_pos ⟨h1, h2⟩))
    · refine next_of_qty (genForm_sum (sub := false) hr hf ha hc rfl h ?_) fun r sat hq =>
        ⟨hq.tag, hq.dim_kept rfl, hq.hint_sum (sub := false) ha.1, hq.abs_add ha.1 hc.1 hab, hq.pay, hq.unc.linear⟩
      exact (fault_add ha.1 hc.1 _).trans ((if_neg (not_not.mpr hd)).trans (if_neg (hone hab)))
    · refine congrArg _ (genForm_sum_faults (sub := true) hr hf ha hc rfl h ?_)
      exact (fault_sub ha.1 hc.1 _).trans (if_pos hd)
    · refine congrArg _ (genForm_sum_faults (sub := true) hr hf ha hc rfl h ?_)
      exact (fault_sub ha.1 hc.1 _).trans ((if_neg (not_not.mpr hd)).trans (if_pos ⟨hdifference h1, h2⟩))
    · refine next_of_qty (genForm_sum (sub := true) hr hf ha hc rfl h ?_) fun r sat hq =>
        ⟨hq.tag, hq.dim_kept rfl, hq.hint_sum (sub := true) ha.1, hq.abs_sub ha.1 hc.1 hab, hq.pay, hq.unc.linear⟩
      exact (fault_sub ha.1 hc.1 _).trans ((if_neg (not_not.mpr hd)).trans (if_neg (hless hab)))
  · intro s t i n o e c fa hr hf ha hc a st gives sum dif fits
    have hmul := dimFits_iff (QOp.mul.dim a.qDim c.qDim)
    have hdiv := dimFits_iff (QOp.div.dim a.qDim c.qDim)
    have hunc : some (uncUnits a.qUnc ^ 2 + uncUnits c.qUnc ^ 2, 1) =
        QOp.mul.uncSq (uncUnits a.qUnc) (uncUnits c.qUnc) 0 0 0 := by
      simp only [QOp.uncSq, pow_two]
    have hopen : (a.qAbs = 0 ∧ c.qAbs = 0) ∨ bit st stAFFOK = true →
        ¬ ((a.qAbs = 1 ∨ c.qAbs = 1) ∧ bit st stAFFOK = false) := by
      rintro (h | h) ⟨h1, h2⟩
      · omega
      · exact absurd (h.symm.trans h2) (by decide)
    have hnofault : fits dif → (a.qAbs = 0 ∧ c.qAbs = 0) ∨ bit st stAFFOK = true →
        QOp.div.fault (bit st stAFFOK) a c = none :=
      fun hfit hok => (fault_div ha.1 hc.1 _).trans ((if_neg (not_not.mpr (hdiv.mpr hfit))).trans (if_neg (hopen hok)))
    refine ⟨fun h => ⟨fun hfit => ?_, fun hfit hp hok => ?_, fun hfit hok => ?_⟩,
      fun h => ⟨fun hfit => ?_, fun hfit hp hok => ?_, fun hfit hok => ⟨fun hz => ?_, fun ht hz => ?_⟩⟩⟩
    · refine congrArg _ (genForm_product_faults (div := false) hr hf ha hc rfl h ?_)
      exact (fault_mul ha.1 hc.1 _).trans (if_pos (mt hmul.mp hfit))
    · refine congrArg _ (genForm_product_faults (div := false) hr hf ha hc rfl h ?_)
      exact (fault_mul ha.1 hc.1 _).trans ((if_neg (not_not.mpr (hmul.mpr hfit))).trans (if_pos ⟨hp, hok⟩))
    · refine next_of_qty (genForm_product (div := false) hr hf ha hc rfl h ?_ (by simp)) fun r sat hq =>
        ⟨hq.tag, hq.abs, fun k hk => hq.dimDigit_eq hk (hfit k hk), hq.pay,
          hq.hint_product (div := false) ha.1 hc.1, hunc ▸ hq.unc⟩
      exact (fault_mul ha.1 hc.1 _).trans ((if_neg (not_not.mpr (hmul.mpr hfit))).trans (if_neg (hopen hok)))
    · refine congrArg _ (genForm_product_faults (div := true) hr hf ha hc rfl h ?_)
      exact (fault_div ha.1 hc.1 _).trans (if_pos (mt hdiv.mp hfit))
    · refine congrArg _ (genForm_product_faults (div := true) hr hf ha hc rfl h ?_)
      exact (fault_div ha.1 hc.1 _).trans ((if_neg (not_not.mpr (hdiv.mpr hfit))).trans (if_pos ⟨hp, hok⟩))
    · exact next_of_qty (genForm_product (div := true) hr hf ha hc rfl h (hnofault hfit hok) fun _ => hz) fun r sat hq =>
        ⟨hq.tag, hq.abs, fun k hk => hq.dimDigit_eq hk (hfit k hk), hq.pay,
          hq.hint_product (div := true) ha.1 hc.1, hunc ▸ hq.unc⟩
    · exact congrArg _ (genForm_div_traps hr hf ha hc h (hnofault hfit hok) ht hz)
  · intro s t i n o e c fa hr hf hc st gives even barred
    have hodd : even ↔ ¬ dimOdd c.qDim = true := by rw [Bool.not_eq_true]; exact (dimOdd_eq_false_iff c.qDim).symm
    have hunc : ∀ q : Nat, some (uncUnits c.qUnc ^ 2, q) = some (uncUnits c.qUnc * uncUnits c.qUnc, q) :=
      fun q => by rw [pow_two]
    have hhint : c.hintOf = c.qHint := hintOf_qty hc.1
    refine ⟨fun h => ⟨fun hb => ?_, fun hb => ?_⟩, fun h => ?_,
      fun h => ⟨fun hev => ?_, fun hev hb => ?_, fun hev hb => ?_⟩⟩
    · refine congrArg _ (genForm_neg_faults hr hf hc h ?_)
      exact (fault_neg hc.1 _).trans (if_pos hb)
    · refine next_of_qty (genForm_sign (neg := true) hr hf hc rfl h ?_) fun r sat hq =>
        ⟨hq.tag, hq.abs, hq.pay, fun _ => ⟨hq.dim_kept rfl, hq.hint.trans hhint⟩,
          fun h4 => absurd h4 (by decide), hunc 1 ▸ hq.unc⟩
      exact (fault_neg hc.1 _).trans (if_neg hb)
    · refine next_of_qty (genForm_sign (neg := false) hr hf hc rfl h (fault_abs _)) fun r sat hq =>
        ⟨hq.tag, hq.abs_kept hc.1, hq.pay, fun _ => ⟨hq.dim_kept rfl, hq.hint.trans hhint⟩,
          fun h4 => absurd h4 (by decide), hunc 1 ▸ hq.unc⟩
    · refine congrArg _ (genForm_sqrt_faults hr hf hc h ?_)
      exact (fault_root hc.1 _).trans (if_pos (not_not.mp (mt hodd.mpr hev)))
    · refine congrArg _ (genForm_sqrt_faults hr hf hc h ?_)
      exact (fault_root hc.1 _).trans ((if_neg (hodd.mp hev)).trans (if_pos hb))
    · refine next_of_qty (genForm_sqrt hr hf hc h ?_) fun r sat hq =>
        ⟨hq.tag, hq.abs, hq.pay, fun h1 => absurd h1 (by decide),
          fun _ => ⟨hq.hint, fun k hk => hq.dimDigit_root hk (hev k hk)⟩, hunc 4 ▸ hq.unc⟩
      exact (fault_root hc.1 _).trans ((if_neg (hodd.mp hev)).trans (if_neg hb))

end Sys2Proof.Machine

/-! ## Long integer arithmetic whose hold writes the block table: O11 does not hold -/

namespace Sys2Proof.Machine

/-! The last step of a microcode routine releases the hold on its work object, and the release counts `PIN` of the object's
block down (R186). `State.pin` asks for the window of the heap alone, not for `EN`: with the heap hardware off and `VBASE` 0 the
work object at 0x110 is in the window, and the entry of block 0 in the table at `BTADDR` 0 changes. -/

section
set_option Elab.async false

/-- The exponent of IPOW, an immediate. -/
def pinnedOpd : MOp := { mode := 4, base := 0, disp := 3 }

/-- The routine of IPOW, 2 to the power 3, before its last step, its work object at 0x110. -/
def pinnedLong : LongOp :=
  { word := mwordOf 0x29 pinnedOpd, step := 1, work := 0x110, routine := .micro (mkFIX 2) (mkFIX 3) 0 [] }

/-- Context 5 runs at machine level in slot 0 of core 0 in the middle of `pinnedLong`, whose work object it holds; the block
table counts one hold of block 0. The heap hardware is as reset leaves it: off. -/
def pinnedState : State :=
  let s := State.reset.setRec 5 24 (mkCell tagRAW 0 (2 * 2 ^ 17 + 2 ^ 16) 0)
  let s := s.modSlot ⟨0, 0⟩ (fun v => { v with ctx := some 5, mid := .long pinnedLong, regs :=
    { pc := 0x1000, st := 0x8000000000000000, a := normalize (mkFIX 2) } })
  let s := s.modAux 5 (fun x => { x with holds := [0x110] })
  s.setCell 0 (mkCell tagRAW 0 (2 ^ 32) 0)

def pinnedIssue : Issue := { core := 0, slot := 0, parity := .none }

/-- What the last step leaves. -/
def pinnedLeft : State := match exec (.longInstructionStep pinnedIssue) pinnedState with
  | .next u => u
  | _ => pinnedState

/-- The entry of block 0 counts the hold before the step, and not after it. -/
theorem pinnedLeft_unpins : readByte pinnedState.mem 12 = 1 ∧ readByte pinnedLeft.mem 12 = 0 := by decide +kernel

end

/-- Refutes O11: the last step of a routine releases the hold on its work object, which changes the block table though the
heap hardware is off, where the statement keeps memory. -/
theorem not_integerInstructionsAreExact : ¬ Obligations.IntegerInstructionsAreExact := by
  rintro ⟨-, -, -, h⟩
  obtain ⟨hpow, -⟩ := h pinnedState pinnedIssue 5 pinnedLong (mkFIX 2) (mkFIX 3) 0 0 (fun _ => 0) (by decide +kernel)
    (by decide +kernel) (by decide +kernel) (by decide +kernel) rfl rfl (by decide) (by decide) (by decide +kernel)
    (by decide +kernel)
  obtain ⟨hfix, -⟩ := hpow 8 (le_refl 1) (.inr (.inr (.inr (by decide))))
  obtain ⟨t, ht, hmem, -⟩ := hfix (by decide)
  have hleft : pinnedLeft = t := by rw [pinnedLeft, ht]
  have h12 := congrArg (readByte · 12) hmem
  rw [← hleft] at h12
  exact absurd (pinnedLeft_unpins.2.symm.trans (h12.trans pinnedLeft_unpins.1)) (by decide)

end Sys2Proof.Machine

/-! ## The quantity instructions (O15, O16) -/

namespace Sys2Proof.Machine

/-! ### Uncertainty codes and binary64 (R74, R75, R83): O16 -/

/-- What a code stands for is a number of eleven bits at most, shifted. -/
theorem uncUnits_eq (code : Nat) : ∃ m j, m < 2048 ∧ j ≤ 62 ∧ uncUnits code = m * 2 ^ j := by
  by_cases h : code / 1024 % 64 = 0
  · exact ⟨code % 1024, 0, by omega, by omega, by simp [uncUnits, h]⟩
  · exact ⟨1024 + code % 1024, code / 1024 % 64 - 1, by omega, by omega, by simp [uncUnits, h]⟩

/-- The next code stands for more. -/
theorem uncUnits_lt_succ {c : Nat} (h : c + 1 < 2 ^ 16) : uncUnits c < uncUnits (c + 1) := by
  have hexp : c / 1024 % 64 = c / 1024 := by omega
  have hexp' : (c + 1) / 1024 % 64 = (c + 1) / 1024 := by omega
  simp only [uncUnits, hexp, hexp', beq_iff_eq]
  by_cases hlast : c % 1024 = 1023
  · have hx : (c + 1) / 1024 = c / 1024 + 1 := by omega
    have hf : (c + 1) % 1024 = 0 := by omega
    rw [hx, hf, hlast, if_neg (Nat.succ_ne_zero _), Nat.add_sub_cancel]
    generalize c / 1024 = x
    cases x with
    | zero => norm_num
    | succ x =>
      rw [if_neg (Nat.succ_ne_zero _), Nat.add_sub_cancel, pow_succ]
      have := Nat.two_pow_pos x
      omega
  · have hx : (c + 1) / 1024 = c / 1024 := by omega
    have hf : (c + 1) % 1024 = c % 1024 + 1 := by omega
    rw [hx, hf]
    split
    · omega
    · exact Nat.mul_lt_mul_of_pos_right (by omega) (Nat.two_pow_pos _)

theorem uncUnits_strictMono {c d : Nat} (h : c < d) (hd : d < 2 ^ 16) : uncUnits c < uncUnits d :=
  (uncUnits_lt_succ (by omega)).trans_le (uncUnits_mono h hd)

/-- The value of a code below the saturated one is encoded as that code. -/
theorem uncEncode_uncUnits {code d : Nat} (h : code < 0xFFFF) (hd : 0 < d) : uncEncode (uncUnits code * d) d = code := by
  have hmax : uncUnits 0xFFFF = uncMax := by decide
  have hlt : uncUnits code < uncMax := hmax ▸ uncUnits_strictMono h (by decide)
  rw [uncEncode, if_neg (not_lt.mpr (Nat.mul_le_mul_right d hlt.le))]
  simp only [Nat.mul_lt_mul_right hd]
  obtain ⟨hc, hat, hless⟩ := leastCode_spec (below := fun k => uncUnits k < uncUnits code) (n := 16) (c := 0)
    (fun i j hij hj hb => decide_eq_true ((uncUnits_mono hij (by simpa using hj)).trans_lt (of_decide_eq_true hb)))
    (fun k hk => absurd hk (Nat.not_lt_zero k)) (decide_eq_false (by simpa [hmax] using hlt.le))
  generalize leastCode _ 16 0 = r at *
  have hge : ¬ r < code := fun hr => of_decide_eq_false hat (uncUnits_strictMono hr (by omega))
  have hle : ¬ code < r := fun hr => lt_irrefl _ (of_decide_eq_true (hless code hr))
  omega

theorem log2_mul_two_pow {n : Nat} (hn : n ≠ 0) (k : Nat) : Nat.log2 (n * 2 ^ k) = Nat.log2 n + k := by
  obtain ⟨hlo, hhi⟩ := (Nat.log2_eq_iff hn).mp rfl
  refine (Nat.log2_eq_iff (by positivity)).mpr ⟨?_, ?_⟩
  · rw [pow_add]
    exact Nat.mul_le_mul_right _ hlo
  · rw [Nat.add_right_comm, pow_add]
    exact Nat.mul_lt_mul_of_pos_right hhi (Nat.two_pow_pos k)

/-- The encoding of q · 2^−x as a normal number of binary64. -/
def normalBits (neg : Bool) (q x : Nat) : Nat := b2n neg * 2 ^ 63 + (q - 2 ^ 52 + (1075 - x) * 2 ^ 52)

section
variable (neg : Bool) {q x : Nat} (hlo : 2 ^ 52 ≤ q) (hhi : q < 2 ^ 53) (hx : 0 < x) (hmax : x ≤ 1074)
include hlo hhi hx hmax

theorem fpRat_normalBits : fpRat f64 (normalBits neg q x) = some (signedMag neg q, 2 ^ x) := by
  have hneg : (normalBits neg q x).testBit 63 = neg := by
    rw [Nat.testBit_eq_decide_div_mod_eq]
    cases neg <;> simp [normalBits, b2n] <;> omega
  have hex : normalBits neg q x / 2 ^ 52 % 2 ^ 11 = 1075 - x := by
    cases neg <;> simp [normalBits, b2n] <;> omega
  have hfr : normalBits neg q x % 2 ^ 52 = q - 2 ^ 52 := by
    cases neg <;> simp [normalBits, b2n] <;> omega
  have hdecode : fpOf f64 (normalBits neg q x) = .fin neg q (-(x : Int)) := by
    have hmaxField : (1075 - x == f64.emaxField) = false := beq_eq_false_iff_ne.mpr (by simp [f64, Fmt.emaxField]; omega)
    have hzero : (1075 - x == 0) = false := beq_eq_false_iff_ne.mpr (by omega)
    simp only [fpOf, show f64.width - 1 = 63 from rfl, show f64.p - 1 = 52 from rfl, show f64.eb = 11 from rfl, hneg, hex, hfr,
      hmaxField, hzero, Bool.false_eq_true, if_false, show f64.emin = -1074 from rfl, Fp.fin.injEq, true_and]
    omega
  rw [fpRat, hdecode]
  simp [hx]

/-- A dyadic rational that binary64 holds as a normal number, q · 2^−x with q of 53 bits, rounds to itself. -/
theorem roundRat_of_normal (rm : Nat) {num k : Nat} (h : num * 2 ^ x = q * 2 ^ k) :
    roundRat f64 rm neg num (2 ^ k) = (normalBits neg q x, {}) := by
  have hnum : num ≠ 0 := by
    rintro rfl
    have := Nat.two_pow_pos k
    rw [Nat.zero_mul, eq_comm, Nat.mul_eq_zero] at h
    omega
  have hlog : Nat.log2 num + x = 52 + k := by
    have hq : Nat.log2 q = 52 := (Nat.log2_eq_iff (by omega)).mpr ⟨hlo, hhi⟩
    rw [← log2_mul_two_pow hnum, h, log2_mul_two_pow (by omega), hq]
  have hscaled : scaledDiv num (2 ^ k) (-(x : Int)) = (q, 0, 2 ^ k) := by
    simp [scaledDiv, hx, h]
  have hexp : ratExponent 53 num (2 ^ k) = -(x : Int) := by
    have hest : (Nat.log2 num : Int) - (Nat.log2 (2 ^ k) : Int) - ((53 - 1 : Nat) : Int) = -(x : Int) := by
      rw [Nat.log2_two_pow]
      omega
    simp only [ratExponent, hest, hscaled]
    rw [if_neg (by omega)]
  have hnum0 : (num == 0) = false := by simpa using hnum
  have hin : ¬ -(x : Int) < -1074 := by omega
  have hexact : ∀ d, roundsUp rm neg q 0 d = false := fun _ => rfl
  have hmag : (-(x : Int) - -1074 + 1).toNat = 1075 - x := by omega
  simp only [roundRat, hnum0, show f64.p = 53 from rfl, hexp, show f64.emin = -1074 from rfl, hin, if_false, hscaled, hexact,
    Bool.false_eq_true, Nat.add_one_sub_one, not_lt.mpr hlo, hmag, show f64.emaxField = 2047 from rfl, decide_false,
    Bool.false_and, bne_self_eq_false]
  rw [if_neg (by omega)]
  rfl

end

/-- A number of eleven bits, shifted, is in units of 2^−57 a normal number of binary64. -/
theorem exists_normal {m j : Nat} (hm0 : m ≠ 0) (hm : m < 2048) (hj : j ≤ 62) :
    ∃ q x, 2 ^ 52 ≤ q ∧ q < 2 ^ 53 ∧ 0 < x ∧ x ≤ 1074 ∧ m * 2 ^ j * 2 ^ x = q * 2 ^ 57 := by
  obtain ⟨hlo, hhi⟩ := (Nat.log2_eq_iff hm0).mp rfl
  have hl : Nat.log2 m < 11 := (Nat.log2_lt hm0).mpr hm
  generalize Nat.log2 m = l at *
  refine ⟨m * 2 ^ (52 - l), 109 - l - j, ?_, ?_, by omega, by omega, ?_⟩
  · calc 2 ^ 52 = 2 ^ l * 2 ^ (52 - l) := by rw [← pow_add]; congr 1; omega
      _ ≤ m * 2 ^ (52 - l) := Nat.mul_le_mul_right _ hlo
  · calc m * 2 ^ (52 - l) < 2 ^ (l + 1) * 2 ^ (52 - l) := Nat.mul_lt_mul_of_pos_right hhi (Nat.two_pow_pos _)
      _ = 2 ^ 53 := by rw [← pow_add]; congr 1; omega
  · rw [Nat.mul_assoc, Nat.mul_assoc, ← pow_add, ← pow_add]
    congr 2
    omega

/-- QGETU's binary64 number is the value of the code. -/
theorem fpRat_uncFlo {code : Nat} (h : code < 0xFFFF) :
    ∃ n d : Nat, 0 < d ∧ fpRat f64 (uncFlo code) = some ((n : Int), d) ∧ n * 2 ^ 57 = uncUnits code * d := by
  obtain ⟨m, j, hm, hj, hu⟩ := uncUnits_eq code
  have hcode : (code == 0xFFFF) = false := beq_eq_false_iff_ne.mpr h.ne
  rw [uncFlo, hcode, if_neg Bool.false_ne_true, hu]
  by_cases hm0 : m = 0
  · have hzero : fpRat f64 0 = some ((0 : Int), 2 ^ (-f64.emin).toNat) := rfl
    exact ⟨0, _, Nat.two_pow_pos _, by rw [hm0, Nat.zero_mul]; exact hzero, by simp [hm0]⟩
  · obtain ⟨q, x, hlo, hhi, hx, hmax, hq⟩ := exists_normal hm0 hm hj
    refine ⟨q, 2 ^ x, Nat.two_pow_pos x, ?_, hq.symm⟩
    rw [roundRat_of_normal false hlo hhi hx hmax 0 hq]
    exact fpRat_normalBits false hlo hhi hx hmax

/-- A code decoded by QGETU and encoded by QSETU (R83). -/
theorem uncOfFlo_uncFlo {code : Nat} (h : code < 65536) : uncOfFlo (uncFlo code) = code := by
  by_cases hsat : code = 0xFFFF
  · rw [hsat]
    rfl
  · obtain ⟨n, d, hd, hrat, hval⟩ := fpRat_uncFlo (code := code) (by omega)
    simp only [uncOfFlo, hrat, Int.natAbs_natCast, hval]
    exact uncEncode_uncUnits (by omega) hd

/-! ### One field of a cell replaced (R22) -/

/-- `a` with the field [hi:lo] replaced by `v`, its parity computed (R21). -/
def withField (a : Cell) (hi lo v : Nat) : Cell := normalize (setField a hi lo v)

@[simp] theorem normalize_withField (a : Cell) (hi lo v : Nat) : normalize (withField a hi lo v) = withField a hi lo v :=
  normalize_normalize _

theorem withUnc_eq (a : Cell) (u : Nat) : withUnc a u = withField a 87 72 u := rfl

theorem field_withField_self (a : Cell) {hi lo : Nat} (v : Nat) (h : lo ≤ hi) (hhi : hi < 116) :
    field (withField a hi lo v) hi lo = v % 2 ^ (hi + 1 - lo) := by
  rw [withField, field_normalize _ (.inl hhi) (by omega), field_setField_self _ _ h (by omega)]

theorem field_withField_of_apart (a : Cell) {hi lo hi' lo' : Nat} (v : Nat) (h : hi' < lo ∨ hi < lo')
    (hp : hi' < 116 ∨ 117 < lo') (hw : hi' < 128) : field (withField a hi lo v) hi' lo' = field a hi' lo' := by
  rw [withField, field_normalize _ hp hw, field_setField_of_apart _ _ h hw]

/-- A field between `PAYLOAD` and `DIM` replaced leaves both, and the tag. -/
theorem withField_keeps (a : Cell) {hi lo : Nat} (v : Nat) (hlo : 63 < lo) (hhi : hi < 88) :
    (withField a hi lo v).tag = a.tag ∧ (withField a hi lo v).qDim = a.qDim ∧ (withField a hi lo v).pay = a.pay :=
  ⟨field_withField_of_apart a v (.inr (by omega)) (.inr (by decide)) (by decide),
    field_withField_of_apart a v (.inr hhi) (.inl (by decide)) (by decide),
    field_withField_of_apart a v (.inl hlo) (.inl (by decide)) (by decide)⟩

/-- `UNC` replaced by a code. -/
theorem qUnc_withUnc (a : Cell) {u : Nat} (h : u < 65536) : (withField a 87 72 u).qUnc = u :=
  (field_withField_self a u (by decide) (by decide)).trans (Nat.mod_eq_of_lt h)

theorem withUnc_keeps (a : Cell) (u : Nat) : (withField a 87 72 u).qHint = a.qHint ∧ (withField a 87 72 u).qAbs = a.qAbs :=
  ⟨field_withField_of_apart a u (.inl (by decide)) (.inl (by decide)) (by decide),
    field_withField_of_apart a u (.inl (by decide)) (.inl (by decide)) (by decide)⟩

/-- `HINT` replaced. -/
theorem fields_withHint (a : Cell) {v : Nat} (h : v ≤ 127) : (withField a 70 64 v).qUnc = a.qUnc ∧
    (withField a 70 64 v).qHint = v ∧ (withField a 70 64 v).qAbs = a.qAbs :=
  ⟨field_withField_of_apart a v (.inr (by decide)) (.inl (by decide)) (by decide),
    (field_withField_self a v (by decide) (by decide)).trans (Nat.mod_eq_of_lt (by omega)),
    field_withField_of_apart a v (.inr (by decide)) (.inl (by decide)) (by decide)⟩

/-- `ABS` replaced. -/
theorem fields_withAbs (a : Cell) {v : Nat} (h : v < 2) : (withField a 71 71 v).qUnc = a.qUnc ∧
    (withField a 71 71 v).qHint = a.qHint ∧ (withField a 71 71 v).qAbs = v :=
  ⟨field_withField_of_apart a v (.inr (by decide)) (.inl (by decide)) (by decide),
    field_withField_of_apart a v (.inl (by decide)) (.inl (by decide)) (by decide),
    (field_withField_self a v (by decide) (by decide)).trans (Nat.mod_eq_of_lt (by omega))⟩

/-! ### The forms of the quantity instructions (R31, R83) -/

section
variable {s t : State} {i : Issue} {n : Nat} {op : BitVec 8} {o : MOp} {e : Env} {c : Cell} {fa tagA tagC : Nat}
  {ok1 ok2 : Cell → Bool} {f : Env → Cell → Cell → Nat → M Unit} (hr : Reads s e o 2 c fa t) (h : IssuesM s i n op o e)
  (ha : Is (t.regs e.q).a tagA) (hc : Is c tagC) (h1 : ok1 (t.regs e.q).a = true) (h2 : ok2 c = true)
include ha hc h1 h2

/-- Operands of accepted tags, without a reserved field, go to the body. -/
theorem qBody_of_ok : (regsM e >>= fun r => judge2 e r.a c fa (ok1 r.a) (ok2 c) >>= fun _ => f e r.a c fa) t =
    f e (t.regs e.q).a c fa t := by
  rw [bind_ok (regsM_run e t), bind_ok (judge2_of_ok ha.2 hc.2 h1 h2 fa t)]

include hr h

/-- The body changes the registers by `g`. -/
theorem qForm_of_sets {g : Regs → Regs} (hf : f e (t.regs e.q).a c fa t = .ok ((), t.modRegs e.q g)) :
    qForm i op o ok1 ok2 f s = t.finish e g :=
  mRead_of_reads h hr (fun e p => regsM e >>= fun r => judge2 e r.a p.1 p.2 (ok1 r.a) (ok2 p.1) >>= fun _ => f e r.a p.1 p.2)
    ((qBody_of_ok ha hc h1 h2).trans hf)

theorem qForm_of_fault {code sub opn acc faddr : Nat} (hf : f e (t.regs e.q).a c fa t =
      .error (.trap { code := code, sub := sub, acc := acc, opn := opn, faddr := faddr, iword := e.iword })) :
    qForm i op o ok1 ok2 f s = s.trapped e code sub opn acc faddr :=
  mRead_of_fault h hr (fun e p => regsM e >>= fun r => judge2 e r.a p.1 p.2 (ok1 r.a) (ok2 p.1) >>= fun _ => f e r.a p.1 p.2)
    ((qBody_of_ok ha hc h1 h2).trans hf)

end

/-! ### Quotients by ±0 (R61, R83) -/

theorem fpIsZero_eq (x : Nat) : fpIsZero f64 x = decide (x % 2 ^ 63 = 0) := by
  rw [Bool.eq_iff_iff, fpIsZero_iff, decide_eq_true_iff]

/-- An encoding that is not an infinity or a NaN has a magnitude. -/
theorem fpOf_finite {x : Nat} (h : x / 2 ^ 52 % 2048 ≠ 2047) : ∃ neg m ex, fpOf f64 x = .fin neg m ex := by
  have hmax : (x / 2 ^ 52 % 2 ^ 11 == f64.emaxField) = false := beq_eq_false_iff_ne.mpr h
  simp only [fpOf, show f64.p - 1 = 52 from rfl, show f64.eb = 11 from rfl, hmax, Bool.false_eq_true, if_false]
  split <;> exact ⟨_, _, _, rfl⟩

/-- The quotient of a finite number that is not 0 and 0 is an infinity (R61). -/
theorem fpDiv_zero {x rm : Nat} (h : x / 2 ^ 52 % 2048 ≠ 2047) (hx : fpIsZero f64 x = false) :
    ∃ neg, (fpDiv f64 rm x 0).1 = f64.infBits neg := by
  obtain ⟨neg, m, ex, hof⟩ := fpOf_finite h
  have hm : (m == 0) = false := by simpa [fpIsZero, hof] using hx
  have hzero : fpOf f64 0 = .fin false 0 f64.emin := rfl
  exact ⟨neg, by simp [fpDiv, nanOf2, hof, hzero, hm]⟩

/-- A non-zero finite uncertainty of a `PAYLOAD` ±0 is the saturated code (R83). -/
theorem uncAbs_zero_divisor {p c : Nat} (hp : p % 2 ^ 63 = 0) (hc : c % 2 ^ 63 ≠ 0) (hfin : c / 2 ^ 52 % 2048 ≠ 2047) :
    uncAbs p c = 0xFFFF := by
  have hsign : f64.signBit = 2 ^ 63 := rfl
  have hcz : fpIsZero f64 c = false := (fpIsZero_eq c).trans (decide_eq_false hc)
  have habs : fpIsZero f64 (c % 2 ^ 63) = false := (fpIsZero_eq _).trans (decide_eq_false (by omega))
  obtain ⟨neg, hdiv⟩ := fpDiv_zero (x := c % 2 ^ 63) (rm := 0) (by omega) habs
  rw [uncAbs, hcz, if_neg Bool.false_ne_true, fpAbs, fpAbs, hsign, hp, hdiv]
  cases neg <;> rfl

/-! ### QMK, QDIMEQ and the replaced fields (R83, R116): O15 -/

section
variable {s t : State} {i : Issue} {n : Nat} {o : MOp} {e : Env} {c : Cell} {fa : Nat} (hr : Reads s e o 2 c fa t)
include hr

theorem execQmk_of_flo (h : IssuesM s i n 0x40 o e) (ha : Is (t.regs e.q).a tagFLO) (hc : Is c tagRAW) :
    exec (.qmk i o) s = .next (t.finishA e (mkCell tagQTY 0 (c.pay % 2 ^ 52) (t.regs e.q).a.pay)) := by
  have hexact : (t.regs e.q).a.isExact = false := Cell.isExact_of_inexact (Cell.isInexact_of_flo ha.1)
  refine congrArg Host.Outcome.next (qForm_of_sets hr h ha hc (by simp [ha.1]) (by simp [hc.1]) ?_)
  simp only [Arg.conv, hexact, mkCell, normalize_normalize, Bool.false_eq_true, if_false]
  rfl

/-- QDIMEQ compares the dimension of A with the operand's. -/
theorem execQdimeq_of_reads {ta tc : Nat} (h : IssuesM s i n 0x42 o e) (ha : Is (t.regs e.q).a ta) (hc : Is c tc)
    (hinexact : (t.regs e.q).a.isInexact = true) (htag : tc = tagQTY ∨ tc = tagRAW) :
    exec (.qdimeq i o) s = .next (t.finishA e (constBool ((t.regs e.q).a.dimOf ==
      (if isQTY c then c.qDim else c.pay % 2 ^ 28)))) :=
  congrArg Host.Outcome.next (qForm_of_sets hr h ha hc (by simp [hinexact]) (by simpa [isQTY, hc.1] using htag) rfl)

/-- QSETU with a code other than the saturated one replaces `UNC` alone. -/
theorem execQsetu_of_code {u tc : Nat} (h : IssuesM s i n 0x44 o e) (ha : Is (t.regs e.q).a tagQTY) (hc : Is c tc)
    (htag : tc = tagFLO ∨ tc = tagRAW) (hu : (if c.tag == tagFLO then uncOfFlo c.pay else c.pay % 65536) = u)
    (hsat : u ≠ 0xFFFF) : exec (.qsetu i o) s = .next (t.finishA e (withField (t.regs e.q).a 87 72 u)) := by
  refine congrArg Host.Outcome.next (qForm_of_sets hr h ha hc (by simp [isQTY, ha.1]) (by simpa [hc.1] using htag) ?_)
  simp only [hu, beq_eq_false_iff_ne.mpr hsat, withUnc_eq, normalize_withField]
  rfl

theorem execQseth_of_reads (h : IssuesM s i n 0x48 o e) (ha : Is (t.regs e.q).a tagQTY) (hc : Is c tagFIX)
    (hp : c.pay ≤ 127) : exec (.qseth i o) s = .next (t.finishA e (withField (t.regs e.q).a 70 64 c.pay)) := by
  refine congrArg Host.Outcome.next (qForm_of_sets hr h ha hc (by simp [isQTY, ha.1]) (by simp [hc.1]) ?_)
  rw [bind_ok (checkTag_of_true (decide_eq_true hp) 2 fa t)]
  rfl

theorem execQseta_of_reads (h : IssuesM s i n 0x4A o e) (ha : Is (t.regs e.q).a tagQTY) (hc : Is c tagCONST)
    (hp : c.pay = 1 ∨ c.pay = 2) :
    exec (.qseta i o) s = .next (t.finishA e (withField (t.regs e.q).a 71 71 (2 - c.pay))) := by
  have habs : b2n (c.pay == 1) = 2 - c.pay := by rcases hp with hp | hp <;> rw [hp] <;> rfl
  rw [← habs]
  exact congrArg Host.Outcome.next (qForm_of_sets hr h ha hc (by simp [isQTY, ha.1]) (by simpa [hc.1] using hp) rfl)

/-! ### QSETUA (R83) -/

variable (h : IssuesM s i n 0x46 o e) (ha : Is (t.regs e.q).a tagQTY) (hc : Is c tagQTY)
include h ha hc

theorem execQsetua_of_dim (hd : (t.regs e.q).a.qDim ≠ c.qDim) : exec (.qsetua i o) s = .next (s.trapped e 0x03 0 2 0 fa) := by
  refine congrArg Host.Outcome.next (qForm_of_fault hr h ha hc (by simp [isQTY, ha.1]) (by simp [isQTY, hc.1]) ?_)
  simp only [bne_iff_ne.mpr hd, if_true]
  exact bind_error (fault_run e _ _ _ _ _ t)

theorem execQsetua_of_point (hd : (t.regs e.q).a.qDim = c.qDim) (hp : c.qAbs = 1) :
    exec (.qsetua i o) s = .next (s.trapped e 0x05 0 2 0 fa) := by
  refine congrArg Host.Outcome.next (qForm_of_fault hr h ha hc (by simp [isQTY, ha.1]) (by simp [isQTY, hc.1]) ?_)
  simp only [hd, hp, bne_self_eq_false, beq_self_eq_true, Bool.false_eq_true, if_false, if_true]
  exact bind_error (fault_run e _ _ _ _ _ t)

/-- With an operand that fits, `UNC` is replaced, and `ST.UNCSAT` set for a non-zero operand over ±0. -/
theorem execQsetua_of_difference (hd : (t.regs e.q).a.qDim = c.qDim) (hp : c.qAbs = 0) {u : Nat} {sat : Bool}
    (hu : uncAbs (t.regs e.q).a.pay c.pay = u) (hsat : (fpIsZero f64 (t.regs e.q).a.pay && !fpIsZero f64 c.pay) = sat) :
    exec (.qsetua i o) s = .next (t.finish e fun r => { r with
      a := normalize (withField (t.regs e.q).a 87 72 u), st := stick r.st stUNCSAT sat }) := by
  have hdiff : (c.qAbs == 1) = false := by rw [hp]; rfl
  refine congrArg Host.Outcome.next (qForm_of_sets hr h ha hc (by simp [isQTY, ha.1]) (by simp [isQTY, hc.1]) ?_)
  simp only [hd, hdiff, hu, hsat, bne_self_eq_false, Bool.false_eq_true, if_false, withUnc_eq, normalize_withField]
  rfl

theorem execQsetua_of_zero (hd : (t.regs e.q).a.qDim = c.qDim) (hp : c.qAbs = 0) (hz : c.pay % 2 ^ 63 = 0) :
    exec (.qsetua i o) s = .next (t.finishA e (withField (t.regs e.q).a 87 72 0)) := by
  have hcz : fpIsZero f64 c.pay = true := (fpIsZero_iff _).mpr hz
  exact execQsetua_of_difference hr h ha hc hd hp (sat := false) (by rw [uncAbs, hcz, if_pos rfl])
    (by rw [hcz, Bool.not_true, Bool.and_false])

theorem execQsetua_over_zero (hd : (t.regs e.q).a.qDim = c.qDim) (hp : c.qAbs = 0) (hz : c.pay % 2 ^ 63 ≠ 0)
    (hfin : c.pay / 2 ^ 52 % 2048 ≠ 2047) (haz : (t.regs e.q).a.pay % 2 ^ 63 = 0) :
    exec (.qsetua i o) s = .next (t.finish e fun r => { r with
      a := normalize (withField (t.regs e.q).a 87 72 0xFFFF), st := setBit r.st 10 true }) := by
  have hcz : fpIsZero f64 c.pay = false := (fpIsZero_eq _).trans (decide_eq_false hz)
  exact execQsetua_of_difference hr h ha hc hd hp (sat := true) (uncAbs_zero_divisor haz hz hfin)
    (by rw [hcz, (fpIsZero_iff _).mpr haz]; rfl)

theorem execQsetua_over_nonzero (hd : (t.regs e.q).a.qDim = c.qDim) (hp : c.qAbs = 0)
    (haz : (t.regs e.q).a.pay % 2 ^ 63 ≠ 0) :
    exec (.qsetua i o) s =
      .next (t.finishA e (withField (t.regs e.q).a 87 72 (uncAbs (t.regs e.q).a.pay c.pay))) := by
  have hnz : fpIsZero f64 (t.regs e.q).a.pay = false := (fpIsZero_eq _).trans (decide_eq_false haz)
  exact execQsetua_of_difference hr h ha hc hd hp (sat := false) rfl (by rw [hnz, Bool.false_and])

end

/-- Settles O16. A code's value is a binary64 number, and the least code not below it is that code. -/
theorem uncertaintyCodesRoundTrip : Obligations.UncertaintyCodesRoundTrip := by
  refine ⟨fun code h => uncOfFlo_uncFlo h, fun s t i n o e c fa code hr h ha hc hcode hpay => ?_⟩
  have hu : (if c.tag == tagFLO then uncOfFlo c.pay else c.pay % 65536) = code := by
    rw [hc.1, if_pos (beq_self_eq_true _), hpay, uncOfFlo_uncFlo (by omega)]
  exact ⟨_, execQsetu_of_code hr h ha hc (.inl rfl) hu hcode.ne, qUnc_withUnc _ (by omega),
    (withField_keeps _ code (by decide) (by decide)).2.2⟩

/-! ### The quantity instructions without an operand (R83): O15 -/

/-- The result is a cell that A alone determines. -/
theorem qNone_of_fresh {s : State} {i : Issue} {n : Nat} {op : BitVec 8} {o : MOp} {e : Env} {ok : Cell → Bool} {f : Cell → Cell}
    {tag : Nat} (h : IssuesM s i n op o e) (hf : Fresh s e) (hz : o.zero = true) (ha : Is (s.regs e.q).a tag)
    (hok : ok (s.regs e.q).a = true) : qNone i op o ok f s = (s.started e).finishA e (f (s.regs e.q).a) := by
  rw [qNone, mNone_of_issues h hz, State.clearResume_of_clear (by rwa [State.started_regs]), bind_ok (regsM_run _ _),
    State.started_regs, bind_ok (checkReserved_of_is ha 1 0 _), bind_ok (checkTag_of_true hok 1 0 _), bind_ok (setA_run _ _ _)]
  rfl

/-! ### TOSEC and TONS (R113, R114): O15 -/

section
variable {s t : State} {i : Issue} {n : Nat} {o : MOp} {e : Env} {c : Cell} {fa : Nat} (hr : Reads s e o 1 c fa t)
  (hf : Fresh s e)

/-- An integer result that a FIX holds is delivered in one step. -/
theorem startGen_fix {op : BitVec 8} {g : GenOp} {x y : Cell} {r : GOut} (hx : x.isBoxed = false) (hy : y.isBoxed = false)
    (hm : g.micro x = false) {z : Int} (he : g.eval (t.regs e.q).st (argOf [] x) (argOf [] y) = r) (hz : r.res = .exact z 1)
    (hfit : fitsFix z = true) : settle s e (startGen e op o g x y fa t) = t.finish e (delivered r (mkFIX z)) := by
  have hbox : boxRat e z 1 t = .ok (mkFIX z, t) := by
    have hlen : bitLen z.natAbs ≤ 64 := by
      simp only [fitsFix, Bool.and_eq_true, decide_eq_true_eq] at hfit
      exact bitLen_le (by omega)
    have hbig : ¬ bigBits < bitLen z.natAbs := by
      simp only [bigBits]
      omega
    have hone : ¬ bigBits < bitLen 1 := by decide
    simp only [boxRat, canonRat_one, hbig, hone, boxInt, hfit, decide_false, Bool.or_self, Bool.false_eq_true, if_false,
      beq_self_eq_true, if_true]
    rfl
  rw [startGen_of_plain hx hy hm he (by simp [hz, GRes.boxed, canonRat_one, hfit]), deliver, hz]
  simp only [if_true, bind_assoc]
  rw [bind_ok hbox]
  rfl

include hr hf

/-- TOSEC of a FIX of nanoseconds. -/
theorem execTosec_of_fix (h : IssuesM s i n 0x3C o e) (hc : Is c tagFIX) {z : Nat × FpFlags}
    (hz : ratToF64 (frmOf (t.regs e.q).st) c.int 1000000000 = z) {q : Cell}
    (hq : mkQTY 0x0010000 0 0 0 (BitVec.ofNat 64 z.1) = q) :
    exec (.tosec i o) s = .next (t.finish e (delivered { res := .cell q, fl := z.2 } q)) := by
  have hb := Cell.isBoxed_of_fix hc.1
  have he : genTosec.eval (t.regs e.q).st (argOf [] c) (argOf [] c) = { res := .cell q, fl := z.2 } := by
    rw [argOf_fix hc.1, ← hq, ← hz]
    rfl
  exact congrArg Host.Outcome.next ((genForm_one h hf hr rfl hc.2 (isInt_of_fix hc.1)).trans (startGen_cell hb hb rfl he rfl))

variable (h : IssuesM s i n 0x3B o e) (hc : Is c tagQTY)
include h hc

/-- TONS of a quantity whose conversion faults. -/
theorem execTons_of_stop {code : Nat} (he : evalTons (t.regs e.q).st { c := c } = { res := .stop code 0 1 }) :
    exec (.tons i o) s = .next (s.trapped e code 0 1 0 fa) :=
  congrArg Host.Outcome.next (genForm_inexact1_stop h hf hr rfl hc.2 (beq_iff_eq.mpr hc.1) rfl (Cell.isInexact_of_qty hc.1) he
    rfl)

/-- TONS of a finite difference of time whose nearest integer of nanoseconds is `z`. -/
theorem execTons_of_finite {m z : Int} {d : Nat} (hd : c.qDim = 0x0010000) (hp : c.qAbs = 0) (hrat : fpRat f64 c.pay = some (m, d))
    (hz : roundInt 0 (m * 1000000000) d = z) (hfit : fitsFix z = true) :
    ∃ r, exec (.tons i o) s = .next (t.finish e (delivered r (mkFIX z))) := by
  have hi := Cell.isInexact_of_qty hc.1
  have hb := Cell.isBoxed_of_inexact hi
  have hdiff : (c.qAbs == 1) = false := by rw [hp]; rfl
  have he : evalTons (t.regs e.q).st { c := c } =
      { res := .exact z 1, fl := { nx := decide (z * (d : Int) ≠ m * 1000000000) } } := by
    simp only [evalTons, hd, hdiff, hrat, hz, bne_self_eq_false, Bool.false_eq_true, if_false]
  exact ⟨_, congrArg Host.Outcome.next ((genForm_one h hf hr rfl hc.2 (beq_iff_eq.mpr hc.1)).trans
    (startGen_fix hb hb rfl ((congrArg (fun x => genTons.eval (t.regs e.q).st x x) (argOf_inexact hi)).trans he) rfl hfit))⟩

end

/-- Rounding to nearest goes up from half a unit, and down to half a unit (R60). -/
theorem roundsUp_nearest (neg : Bool) (q r d : Nat) :
    (roundsUp 0 neg q r d = true → d ≤ 2 * r) ∧ (¬ roundsUp 0 neg q r d = true → 2 * r ≤ d) := by
  by_cases hr : r = 0
  · simp [roundsUp, hr]
  · simp only [roundsUp, beq_eq_false_iff_ne.mpr hr, Bool.false_eq_true, if_false, Bool.or_eq_true, Bool.and_eq_true,
      decide_eq_true_eq, beq_iff_eq]
    omega

/-- Rounding to nearest misses by half a unit at most (R60). -/
theorem roundInt_error (m : Int) {d : Nat} (hd : 0 < d) : 2 * |m - roundInt 0 m d * d| ≤ d := by
  have hdiv := Nat.div_add_mod m.natAbs d
  have hmod := Nat.mod_lt m.natAbs hd
  simp only [roundInt]
  generalize m.natAbs / d = q at *
  generalize m.natAbs % d = r at *
  obtain ⟨hup, hdown⟩ := roundsUp_nearest (decide (m < 0)) q r d
  generalize hk : (if roundsUp 0 (decide (m < 0)) q r d then q + 1 else q) = k
  have hnear : 2 * |(m.natAbs : Int) - k * d| ≤ d := by
    rw [← hdiv, ← hk]
    push_cast
    split
    next h =>
      have hhalf := hup h
      rw [show (d : Int) * q + r - (q + 1) * d = -(d - r) by ring, abs_neg, abs_of_nonneg (by omega)]
      omega
    next h =>
      have hhalf := hdown h
      rw [show (d : Int) * q + r - q * d = r by ring, abs_of_nonneg (by omega)]
      omega
  split
  next hneg =>
    rw [show m - -(k : Int) * d = -((m.natAbs : Int) - k * d) by rw [Int.ofNat_natAbs_of_nonpos hneg.le]; ring, abs_neg]
    exact hnear
  next hpos =>
    rwa [Int.natAbs_of_nonneg (not_lt.mp hpos)] at hnear

/-- An integer less than half a unit away is what rounding to nearest gives. -/
theorem roundInt_of_near {m z : Int} {d : Nat} (hd : 0 < d) (h : 2 * |m - z * d| < d) : roundInt 0 m d = z := by
  have herr := roundInt_error m hd
  generalize roundInt 0 m d = y at *
  have hdist : |(y - z) * d| < d := by
    have hsum := abs_add_le (m - z * d) (-(m - y * d))
    rw [abs_neg, show m - z * d + -(m - y * d) = (y - z) * d by ring] at hsum
    omega
  rw [abs_mul, Nat.abs_cast] at hdist
  have hone : |y - z| < 1 := lt_of_mul_lt_mul_right (by rwa [one_mul]) (Int.natCast_nonneg d)
  exact sub_eq_zero.mp (Int.abs_lt_one_iff.mp hone)

/-! ### The statement: O15 -/

/-- A result with its flags is its cell in A and some ST. -/
theorem finish_delivered (t : State) (e : Env) (r : GOut) (c : Cell) :
    t.finish e (delivered r c) =
      t.finish e (fun g => { g with a := normalize c, st := (delivered r c (t.regs e.q)).st }) :=
  finish_congr rfl

/-- Settles O15, an instruction at a time: each result is a cell of the operands' fields, or A with one field replaced. -/
theorem quantityFieldsReadAndReplace : Obligations.QuantityFieldsReadAndReplace := by
  refine ⟨fun s t i n o e c fa => ⟨fun hr => ?_, fun hf hz ha => ?_⟩,
    fun s t i n o e c fa hf => ⟨fun hr h ha hc => ?_, fun hr => ⟨fun h hc h0 => ?_, fun h hc => ?_, fun h hc => ?_⟩⟩⟩
  · intro a keeps
    refine ⟨fun h ha hc => execQmk_of_flo hr h ha hc, fun h ha hc => ?_, fun h ha hc => ?_, fun h ha hc hu => ?_,
      fun h ha hc hp => ?_, fun h ha hc hp => ?_⟩
    · have hqty : isQTY c = true := beq_iff_eq.mpr hc.1
      rw [execQdimeq_of_reads hr h ha hc (Cell.isInexact_of_qty ha.1) (.inl rfl), dimOf_qty ha.1, hqty, if_pos rfl,
        beq_eq_decide, constBool_decide]
    · have hraw : isQTY c = false := by rw [isQTY, hc.1]; rfl
      have hdim : (t.regs e.q).a.dimOf = 0 := by rw [Cell.dimOf, ha.1]; rfl
      rw [execQdimeq_of_reads hr h ha hc (Cell.isInexact_of_flo ha.1) (.inr rfl), hdim, hraw, if_neg Bool.false_ne_true,
        beq_eq_decide, constBool_decide]
      simp only [eq_comm]
    · have hcode : (if c.tag == tagFLO then uncOfFlo c.pay else c.pay % 65536) = c.pay % 65536 := by rw [hc.1]; rfl
      obtain ⟨htag, hkeeps⟩ := withField_keeps a (hi := 87) (lo := 72) (c.pay % 65536) (by decide) (by decide)
      exact ⟨_, execQsetu_of_code hr h ha hc (.inr rfl) hcode hu, ⟨htag.trans ha.1, hkeeps⟩,
        qUnc_withUnc a (Nat.mod_lt _ (by decide)), withUnc_keeps a _⟩
    · obtain ⟨htag, hkeeps⟩ := withField_keeps a (hi := 70) (lo := 64) c.pay (by decide) (by decide)
      exact ⟨_, execQseth_of_reads hr h ha hc hp, ⟨htag.trans ha.1, hkeeps⟩, fields_withHint a hp⟩
    · obtain ⟨htag, hkeeps⟩ := withField_keeps a (hi := 71) (lo := 71) (2 - c.pay) (by decide) (by decide)
      exact ⟨_, execQseta_of_reads hr h ha hc hp, ⟨htag.trans ha.1, hkeeps⟩, fields_withAbs a (by omega)⟩
  · intro a
    have run : ∀ {op : BitVec 8} {ok : Cell → Bool} (f : Cell → Cell), IssuesM s i n op o e → ok a = true →
        (.next (qNone i op o ok f s) : Out) = .next ((s.started e).finishA e (f a)) :=
      fun f h hok => congrArg _ (qNone_of_fresh h hf hz ha hok)
    have hqty : isQTY a = true := beq_iff_eq.mpr ha.1
    exact ⟨fun h => run (fun a => mkFLO a.payload) h (by rw [hqty]; rfl),
      fun h => run (fun a => plain tagFLO (uncFlo a.qUnc)) h hqty,
      fun h => run (fun a => mkQTY a.qDim 0 0 a.qHint
        (BitVec.ofNat 64 (fpMul f64 0 (fpAbs f64 a.pay) (uncFlo a.qUnc)).1)) h hqty,
      fun h => run (fun a => fixOfNat a.qHint) h hqty,
      fun h => (run (fun a => constBool (a.qAbs == 1)) h hqty).trans (by rw [beq_eq_decide, constBool_decide])⟩
  · intro a
    have hkeeps := fun u => (withField_keeps a (hi := 87) (lo := 72) u (by decide) (by decide)).2
    exact ⟨execQsetua_of_dim hr h ha hc, execQsetua_of_point hr h ha hc,
      fun hd hp hz => ⟨_, execQsetua_of_zero hr h ha hc hd hp hz, qUnc_withUnc a (by decide), hkeeps 0⟩,
      fun hd hp hz hfin haz =>
        ⟨_, execQsetua_over_zero hr h ha hc hd hp hz hfin haz, qUnc_withUnc a (by decide), hkeeps 0xFFFF⟩,
      fun hd hp haz => ⟨_, execQsetua_over_nonzero hr h ha hc hd hp haz, hkeeps _⟩⟩
  · have hzero : ratToF64 (frmOf (t.regs e.q).st) c.int 1000000000 = (0, {}) := by rw [h0]; rfl
    exact execTosec_of_fix hr hf h hc hzero rfl
  · refine ⟨_, _, (execTosec_of_fix hr hf h hc rfl rfl).trans (congrArg _ (finish_delivered _ _ _ _)),
      tag_mkQTY _ _ _ _ _, qDim_mkQTY _ _ _ _ _, qUnc_mkQTY _ _ _ _ _, qAbs_mkQTY _ _ _ _ _, qHint_mkQTY _ _ _ _ _, ?_⟩
    rw [pay_mkQTY, BitVec.toNat_ofNat]
    rfl
  · refine ⟨fun hd => execTons_of_stop hr hf h hc ?_, fun hd hp => execTons_of_stop hr hf h hc ?_,
      fun m d z hd hp hrat hd0 hnear hfit => ?_⟩
    · simp only [evalTons, bne_iff_ne.mpr hd, if_true]
    · simp only [evalTons, hd, hp, bne_self_eq_false, beq_self_eq_true, Bool.false_eq_true, if_false, if_true]
    · obtain ⟨r, hrun⟩ := execTons_of_finite hr hf h hc hd hp hrat (roundInt_of_near hd0 hnear) hfit
      exact ⟨_, hrun.trans (congrArg _ (finish_delivered _ _ _ _))⟩

end Sys2Proof.Machine

/-! ## Shifts (O18) -/

namespace Sys2Proof.Machine

/-! ### The shifts on words (R64, R65, R119) -/

theorem rawShl_toNat (a : Word64) (k : Nat) : rawShl a.toNat k =
    { v := (a <<< k).toNat, c := decide (0 < k ∧ k ≤ 64) && a.getLsbD (64 - k) } := by
  rcases Nat.eq_zero_or_pos k with rfl | hk
  · simp [rawShl]
  · by_cases h64 : 64 < k
    · simp [rawShl, hk.ne', h64, Nat.not_le.mpr h64, BitVec.shiftLeft_eq_zero (x := a) h64.le]
    · simp [rawShl, hk, hk.ne', h64, Nat.not_lt.mp h64, BitVec.getLsbD, Nat.shiftLeft_eq]

theorem rawShr_toNat (a : Word64) (k : Nat) : rawShr a.toNat k =
    { v := (a >>> k).toNat, c := decide (0 < k ∧ k ≤ 64) && a.getLsbD (k - 1) } := by
  rcases Nat.eq_zero_or_pos k with rfl | hk
  · simp [rawShr]
  · by_cases h64 : 64 < k
    · simp [rawShr, hk.ne', h64, Nat.not_le.mpr h64, BitVec.ushiftRight_eq_zero (x := a) h64.le]
    · simp [rawShr, hk, hk.ne', h64, Nat.not_lt.mp h64, BitVec.getLsbD, Nat.shiftRight_eq_div_pow]

/-- A shift by more than 64 bits leaves the 64 copies of the sign that one by 64 leaves (R65). -/
theorem sshiftRight_of_le {a : Word64} {k : Nat} (h : 64 ≤ k) : a.sshiftRight k = a.sshiftRight 64 := by
  refine BitVec.eq_of_getLsbD_eq fun j hj => ?_
  simp [BitVec.getLsbD_sshiftRight, Nat.not_lt.mpr (Nat.le_add_right_of_le h)]

theorem rawSar_toNat (a : Word64) (k : Nat) : rawSar a.toNat k =
    { v := (a.sshiftRight k).toNat, c := decide (0 < k) && a.getLsbD (min (k - 1) 63) } := by
  have hval : ∀ j : Nat, wrapInt 64 (s64 a.toNat / ((2 ^ j : Nat) : Int)) = (a.sshiftRight j).toNat := fun j => by
    rw [wrapInt_eq, s64_toNat, BitVec.sshiftRight, Int.shiftRight_eq_div_pow]
  rcases Nat.eq_zero_or_pos k with rfl | hk
  · simp [rawSar]
  · by_cases h64 : 64 < k
    · simp only [rawSar, beq_iff_eq, hk.ne', h64, if_true, if_false, hval, sshiftRight_of_le h64.le, hk, decide_true,
        Bool.true_and, min_eq_right (show 63 ≤ k - 1 by omega), BitVec.getLsbD]
    · simp only [rawSar, beq_iff_eq, hk.ne', h64, if_false, hval, hk, decide_true, Bool.true_and,
        min_eq_left (show k - 1 ≤ 63 by omega), BitVec.getLsbD]

/-! ### The count (R119) -/

section
variable {s t : State} {i : Issue} {n : Nat} {op : BitVec 8} {o : MOp} {e : Env} {c : Cell} {fa : Nat} {f : Nat → Nat → RawRes}

/-- A `MODE` 4 count above 63 is refused at the decode. -/
theorem rawShift_of_wide_disp (hm : o.mode = 4) (hd : 63 < o.disp.toNat) (h : IssuesM s i n op o e) :
    rawShift i op o f s = s.trapped e 0x11 0 0 0 0 := by
  have hok : (o.fieldsOk false && (o.mode != 4 || o.disp.toNat ≤ 63)) = false := by simp [hm, hd]
  rw [rawShift, mForm, issue_of_issues h, hok]
  rfl

/-- A `MODE` 5 count above 63 is refused when the extension word is in hand. -/
theorem rawShift_of_wide_ext (hm : o.mode = 5) (hx : 63 < o.ext.toNat) (hd : Decodes s e o (o.fieldsOk false) t)
    (h : IssuesM s i n op o e) : rawShift i op o f s = s.trapped e 0x11 0 0 0 0 := by
  have hok : (o.fieldsOk false && (o.mode != 4 || o.disp.toNat ≤ 63)) = o.fieldsOk false := by simp [hm]
  have hwide : (o.mode == 5 && decide (63 < o.ext.toNat)) = true := by simp [hm, hx]
  rw [rawShift, hok, mForm_of_decodes h hd, if_pos hwide]
  rfl

/-- An immediate operand reads as its number (R98). -/
theorem readOpd_immediate {x : Int} (h : (o.mode = 4 ∧ x = o.d) ∨ (o.mode = 5 ∧ x = o.e)) (opn : Nat) (s : State) :
    readOpd e o opn s = .ok ((mkFIX x, 0), s) := by
  rcases h with ⟨hm, rfl⟩ | ⟨hm, rfl⟩ <;>
    simp only [readOpd, formOpd, hm] <;> rfl

/-- An immediate that is no count above 63 is one of 0 to 63: a negative one is far above (R119). -/
theorem toNat_le_of_wrapInt {w : Nat} {v : BitVec w} (hw : w ≤ 32) (h : wrapInt 64 v.toInt ≤ 63) : v.toNat ≤ 63 := by
  have hpow : 2 ^ w ≤ 2 ^ 32 := Nat.pow_le_pow_right (by decide) hw
  have := v.isLt
  rw [wrapInt, BitVec.toInt_eq_toNat_cond] at h
  split at h <;> omega

theorem pay_mkFIX (x : Int) : (mkFIX x).pay = wrapInt 64 x := by
  have hlt : wrapInt 64 x < 2 ^ 64 := by simp only [wrapInt]; omega
  rw [Cell.pay, mkFIX, plain, field_mkCell _ _ _ _ (.inl (by decide)) (by decide)]
  omega

/-- A shift on FIX or RAW operands, an immediate one by at most 63: its result and its flags (R63, R119). -/
theorem rawShift_of_reads {x : RawRes} (hr : Reads s e o 2 c fa t) (ha : Is (t.regs e.q).a tagFIX ∨ Is (t.regs e.q).a tagRAW)
    (hc : Is c tagFIX ∨ Is c tagRAW) (hk : o.mode = 4 ∨ o.mode = 5 → c.pay ≤ 63) (h : IssuesM s i n op o e)
    (hf : f (t.regs e.q).a.pay c.pay = x) :
    rawShift i op o f s = t.finish e fun r => { r with a := mkRAW x.v, st := x.flags r.st } := by
  obtain ⟨_, u, hd, hopd⟩ := bind_eq_ok hr
  have himm : ∀ {w : Nat} {v : BitVec w}, w ≤ 32 → o.mode = 4 ∧ v.toInt = o.d ∨ o.mode = 5 ∧ v.toInt = o.e → v.toNat ≤ 63 :=
    fun hw hv => by
      have hread := hopd.symm.trans (readOpd_immediate hv 2 u)
      simp only [Except.ok.injEq, Prod.mk.injEq] at hread
      exact toNat_le_of_wrapInt hw (pay_mkFIX _ ▸ hread.1.1 ▸ hk (hv.imp And.left And.left))
  have hok : (o.fieldsOk false && (o.mode != 4 || o.disp.toNat ≤ 63)) = o.fieldsOk false := by
    by_cases hm : o.mode = 4
    · rw [decide_eq_true (himm (by decide) (.inl ⟨hm, rfl⟩)), Bool.or_true, Bool.and_true]
    · rw [bne_iff_ne.mpr hm, Bool.true_or, Bool.and_true]
  have hnarrow : ¬ (o.mode == 5 && decide (63 < o.ext.toNat)) = true := by
    simpa using fun hm => himm (by decide) (.inr ⟨hm, rfl⟩)
  rw [rawShift, hok, mForm_of_decodes h hd, if_neg hnarrow, rawBody]
  simp only [bind_assoc]
  rw [bind_ok hopd, bind_ok (regsM_run e t), bind_ok (judge2_of_ok (ha.elim And.right And.right)
    (hc.elim And.right And.right) (isWordTag_of_is ha) (isWordTag_of_is hc) fa t), bind_ok (modRegsM_run _ _ _), hf]
  rfl

end

/-- Settles O18: the count is refused at the decode or after it, and each shift is its operation on words. -/
theorem shiftCountsAreBounded : Obligations.ShiftCountsAreBounded := by
  refine ⟨fun s t i n o e hwide => ?_, fun s t i n o e c fa hr ha hc => ?_⟩
  · have refused : ∀ {op : BitVec 8} (f : Nat → Nat → RawRes), IssuesM s i n op o e →
        Host.Outcome.next (ρ := Refusal) (φ := Fault) (rawShift i op o f s) = .next (s.trapped e 0x11 0 0 0 0) := fun f h =>
      congrArg _ (hwide.elim (fun hd => rawShift_of_wide_disp hd.1 hd.2 h)
        fun hx => rawShift_of_wide_ext hx.1 hx.2.1 hx.2.2 h)
    exact ⟨refused rawShl, refused rawShr, refused rawSar⟩
  · intro a k gives hk
    have run : ∀ {op : BitVec 8} (f : Nat → Nat → RawRes) {v : Word64} {cy : Bool}, IssuesM s i n op o e →
        f a.toNat k = { v := v.toNat, c := cy } → Host.Outcome.next (rawShift i op o f s) = gives v cy := fun f _ _ h hf => by
      rw [rawShift_of_reads hr ha hc hk h ((congrArg (f · k) (Cell.pay_eq _)).trans hf)]
      rfl
    exact ⟨fun h => run rawShl h (rawShl_toNat a k), fun h => run rawShr h (rawShr_toNat a k),
      fun h => run rawSar h (rawSar_toNat a k)⟩

end Sys2Proof.Machine

/-! ## Bit fields, counts and conversions (O19) -/

namespace Sys2Proof.Machine

/-! ### Words from numbers -/

/-- A RAW cell takes the low 64 bits of its number. -/
theorem mkRAW_ofNat (v : Nat) : mkRAW (BitVec.ofNat 64 v).toNat = mkRAW v := by
  simp only [mkRAW, plain, mkCell, BitVec.toNat_ofNat, Nat.mod_mod]

theorem getLsbD_ofNat_of_lt (v : Nat) {j : Nat} (hj : j < 64) : (BitVec.ofNat 64 v).getLsbD j = v.testBit j := by
  rw [BitVec.getLsbD_ofNat, decide_eq_true hj, Bool.true_and]

/-! ### Fields (R120) -/

theorem testBit_bfExtract (a v j : Nat) :
    (bfExtract a v).testBit j = (decide (j < bfWidth v) && a.testBit (bfPos v + j)) := by
  rw [bfExtract, Nat.testBit_mod_two_pow, Nat.testBit_div_two_pow, Nat.add_comm]

theorem signedOf_eq_toInt {w : Nat} (hw : 0 < w) (x : Nat) : signedOf w x = (BitVec.ofNat w x).toInt := by
  obtain ⟨k, rfl⟩ : ∃ k, w = k + 1 := ⟨w - 1, by omega⟩
  have hpow : 2 ^ (k + 1) = 2 * 2 ^ k := Nat.pow_succ'
  simp only [signedOf, BitVec.toInt_eq_toNat_cond, BitVec.toNat_ofNat, Nat.add_sub_cancel]
  split <;> split <;> omega

/-- A field extended with its sign: each bit above its width is its top bit. -/
theorem testBit_wrapInt_signedOf {w : Nat} (hw : 0 < w) (x : Nat) {j : Nat} (hj : j < 64) :
    (wrapInt 64 (signedOf w x)).testBit j = x.testBit (min j (w - 1)) := by
  have hbit : (wrapInt 64 (signedOf w x)).testBit j = ((BitVec.ofNat w x).signExtend 64).getLsbD j := by
    rw [wrapInt_eq, signedOf_eq_toInt hw]
    rfl
  rw [hbit, BitVec.getLsbD_signExtend, decide_eq_true hj, Bool.true_and, BitVec.msb_eq_getLsbD_last]
  split
  next hlt => rw [BitVec.getLsbD_ofNat, decide_eq_true hlt, Bool.true_and, min_eq_left (by omega)]
  next hge =>
    rw [BitVec.getLsbD_ofNat, decide_eq_true (by omega : w - 1 < w), Bool.true_and, min_eq_right (by omega)]

theorem testBit_bfInsert (a v x : Nat) {j : Nat} (hj : j < 64) : (bfInsert a v x).testBit j =
    if bfPos v ≤ j ∧ j < bfPos v + bfWidth v then x.testBit (j - bfPos v) else a.testBit j := by
  rw [bfInsert, Nat.testBit_mod_two_pow, decide_eq_true hj, Bool.true_and, testBit_replace]

/-! ### Bytes (R120) -/

theorem bpermByte_lt (a v i : Nat) : bpermByte a v i < 256 := by
  simp only [bpermByte]
  split <;> omega

theorem bperm_byte (a v : Nat) {j : Nat} (hj : j < 8) : bperm a v / 256 ^ j % 256 = bpermByte a v j := by
  have hlt := bpermByte_lt a v
  generalize hb : bpermByte a v = b at hlt
  have h0 := hlt 0
  have h1 := hlt 1
  have h2 := hlt 2
  have h3 := hlt 3
  have h4 := hlt 4
  have h5 := hlt 5
  have h6 := hlt 6
  have h7 := hlt 7
  simp only [bperm, foldUp, hb, Nat.reduceAdd, Nat.reducePow]
  interval_cases j <;> simp only [Nat.reducePow] <;> omega

theorem testBit_bperm (a v : Nat) {j k : Nat} (hj : j < 8) (hk : k < 8) : (bperm a v).testBit (8 * j + k) =
    (decide (v / 16 ^ j % 16 < 8) && a.testBit (8 * (v / 16 ^ j % 16) + k)) := by
  have hbyte : ∀ m i : Nat, m.testBit (8 * i + k) = (m / 256 ^ i % 256).testBit k := fun m i => by
    rw [show 256 = 2 ^ 8 by rfl, ← Nat.pow_mul, Nat.testBit_mod_two_pow, Nat.testBit_div_two_pow, decide_eq_true hk,
      Bool.true_and, Nat.add_comm]
  rw [hbyte, bperm_byte a v hj, bpermByte]
  split
  next h => simp [Nat.not_lt.mpr h]
  next h => rw [decide_eq_true (Nat.not_le.mp h), Bool.true_and, hbyte]

/-! ### Counts (R120) -/

theorem testBit_of_bitLen_le {v j : Nat} (h : bitLen v ≤ j) : v.testBit j = false := by
  refine Nat.testBit_lt_two_pow ?_
  rw [bitLen] at h
  split at h
  next h0 => rw [beq_iff_eq.mp h0]; positivity
  next => exact Nat.lt_log2_self.trans_le (Nat.pow_le_pow_right (by decide) h)

theorem testBit_bitLen_sub_one {v : Nat} (h : bitLen v ≠ 0) : v.testBit (bitLen v - 1) = true := by
  rw [bitLen] at h ⊢
  split at h
  next => exact absurd rfl h
  next h0 => rw [if_neg h0]; exact Nat.testBit_log2 (by simpa using h0)

/-- The first number for which `p` holds: it does not hold below. -/
theorem findFrom_getD_spec (p : Nat → Bool) (n i : Nat) : ∃ k, (findFrom p n i).getD (i + n) = k ∧ i ≤ k ∧ k ≤ i + n ∧
    (∀ j, i ≤ j → j < k → p j = false) ∧ (k < i + n → p k = true) := by
  induction n generalizing i with
  | zero => exact ⟨i, rfl, le_rfl, le_rfl, fun j h1 h2 => absurd h2 (by omega), fun h => absurd h (by omega)⟩
  | succ n ih =>
    rw [findFrom]
    split
    next hp => exact ⟨i, rfl, le_rfl, by omega, fun j h1 h2 => absurd h2 (by omega), fun _ => hp⟩
    next hp =>
      obtain ⟨k, hk, hle, hge, hbelow, hat⟩ := ih (i + 1)
      rw [Nat.add_right_comm] at hk hge hat
      refine ⟨k, hk, by omega, hge, fun j h1 h2 => ?_, hat⟩
      rcases Nat.eq_or_lt_of_le h1 with rfl | h1
      · exact Bool.eq_false_iff.mpr hp
      · exact hbelow j h1 h2

theorem clz64_spec (w : Word64) : clz64 w.toNat ≤ 64 ∧ (∀ j, 64 - clz64 w.toNat ≤ j → w.getLsbD j = false) ∧
    (clz64 w.toNat < 64 → w.getLsbD (63 - clz64 w.toNat) = true) := by
  have hle : bitLen w.toNat ≤ 64 := bitLen_le w.isLt
  refine ⟨Nat.sub_le _ _, fun j hj => testBit_of_bitLen_le ?_, fun hlt => ?_⟩
  · simp only [clz64] at hj
    omega
  · simp only [clz64] at hlt
    rw [BitVec.getLsbD, show 63 - clz64 w.toNat = bitLen w.toNat - 1 by simp only [clz64]; omega,
      testBit_bitLen_sub_one (by omega)]

theorem ctz64_spec (w : Word64) : ctz64 w.toNat ≤ 64 ∧ (∀ j, j < ctz64 w.toNat → w.getLsbD j = false) ∧
    (ctz64 w.toNat < 64 → w.getLsbD (ctz64 w.toNat) = true) := by
  obtain ⟨k, hk, -, hle, hbelow, hat⟩ := findFrom_getD_spec (fun j => w.toNat.testBit j) 64 0
  rw [show ctz64 w.toNat = k from hk]
  exact ⟨hle, fun j hj => hbelow j (Nat.zero_le j) hj, hat⟩

theorem popcount_eq (n v : Nat) : popcount n v = ((List.range n).filter (fun j => v.testBit j)).length := by
  induction n generalizing v with
  | zero => rfl
  | succ n ih =>
    have hrest : (List.map Nat.succ (List.range n)).filter (fun j => v.testBit j) =
        ((List.range n).filter fun j => (v / 2).testBit j).map Nat.succ := by
      rw [List.filter_map]
      simp only [Function.comp_def, Nat.succ_eq_add_one, Nat.testBit_add_one]
    rw [popcount, ih, List.range_succ_eq_map, List.filter_cons, hrest, Nat.testBit_zero]
    split
    next h => simp only [List.length_cons, List.length_map]; rw [of_decide_eq_true h, Nat.add_comm]
    next h =>
      have hzero : v % 2 = 0 := by simpa using h
      rw [hzero, Nat.zero_add, List.length_map]

/-! ### The forms of the instructions (R31, R104, R118, R120) -/

section
variable {s t : State} {i : Issue} {n : Nat} {op : BitVec 8} {o : MOp} {e : Env} {c : Cell} {fa : Nat}

/-- The bit-field group is emulated on a vent core (R104). -/
theorem bfRead_of_vent (hv : i.vent = true) (h : IssuesM s i n op o e) (body : Env → M Unit) :
    bfRead i op o body s = s.trapped e 0x10 1 0 0 0 := by
  rw [bfRead, if_pos hv, issue_of_issues h]
  rfl

theorem bfForm_of_reads (hv : i.vent = false) (hr : Reads s e o 2 c fa t)
    (ha : Is (t.regs e.q).a tagFIX ∨ Is (t.regs e.q).a tagRAW) (hc : Is c tagFIX ∨ Is c tagRAW) (h : IssuesM s i n op o e)
    (f : Regs → Nat → Nat) : bfForm i op o f s = t.finishA e (mkRAW (f (t.regs e.q) c.pay)) := by
  rw [bfForm, bfRead, if_neg (by simp [hv])]
  refine mRead_of_reads h hr (fun e p => regsM e >>= fun r => judge2 e r.a p.1 p.2 r.a.isWordTag p.1.isWordTag >>= fun _ =>
    setA e (mkRAW (f r p.1.pay))) ?_
  rw [bind_ok (regsM_run e t), bind_ok (judge2_of_ok (ha.elim And.right And.right) (hc.elim And.right And.right)
    (isWordTag_of_is ha) (isWordTag_of_is hc) fa t), setA_run]

/-- An instruction on one FIX or RAW operand that gives A a cell of its `PAYLOAD`. -/
theorem mRead_of_word (hr : Reads s e o 1 c fa t) (hc : Is c tagFIX ∨ Is c tagRAW) (h : IssuesM s i n op o e) {ok : Cell → Bool}
    (hok : ok c = true) (g : Cell → Cell) : mRead i op o (fun e => readOpd e o 1 >>= fun p => checkReserved e p.1 1 p.2 >>= fun _ =>
      checkTag e (ok p.1) 1 p.2 >>= fun _ => setA e (g p.1)) s = t.finishA e (g c) := by
  refine mRead_of_reads h hr (fun e p => checkReserved e p.1 1 p.2 >>= fun _ => checkTag e (ok p.1) 1 p.2 >>= fun _ =>
    setA e (g p.1)) ?_
  have hres : checkReserved e c 1 fa t = .ok ((), t) := hc.elim (checkReserved_of_is · 1 fa t) (checkReserved_of_is · 1 fa t)
  rw [bind_ok hres, bind_ok (checkTag_of_true hok 1 fa t), setA_run]

theorem bfCount_of_reads (hv : i.vent = false) (hr : Reads s e o 1 c fa t) (hc : Is c tagFIX ∨ Is c tagRAW)
    (h : IssuesM s i n op o e) (f : Nat → Nat) : bfCount i op o f s = t.finishA e (fixOfNat (f c.pay)) := by
  rw [bfCount, bfRead, if_neg (by simp [hv])]
  exact mRead_of_word hr hc h (isWordTag_of_is hc) fun c => fixOfNat (f c.pay)

end

/-- Settles O19: each instruction by its form, and the bits of each result by what its operation does to a number. -/
theorem bitFieldsAndConversions : Obligations.BitFieldsAndConversions := by
  intro s t i n o e c fa hc a v p w
  have hword : c.isWordTag = true := isWordTag_of_is hc
  have hraw : (c.isValue || c.isHandle) = true := by rcases hc with ⟨h, -⟩ | ⟨h, -⟩ <;> simp [Cell.isValue, h, tagFIX, tagRAW]
  have ha : ∀ j, a.getLsbD j = (t.regs e.q).a.pay.testBit j := fun j => by rw [Cell.pay_eq]; rfl
  have hv : ∀ j, v.getLsbD j = c.pay.testBit j := fun j => by rw [Cell.pay_eq]; rfl
  have hpos : bfPos c.pay = p := by rw [Cell.pay_eq]; rfl
  have hwidth : bfWidth c.pay = w := by rw [Cell.pay_eq]; rfl
  refine ⟨fun hvent => ?_, fun hmain hr haw => ?_, fun hr => ?_⟩
  · have emulated : ∀ {op : BitVec 8} (body : Env → M Unit), IssuesM s i n op o e →
        Host.Outcome.next (ρ := Refusal) (φ := Fault) (bfRead i op o body s) = .next (s.trapped e 0x10 1 0 0 0) :=
      fun body h => congrArg _ (bfRead_of_vent hvent h body)
    exact ⟨emulated _, emulated _, emulated _, emulated _, emulated _, emulated _, emulated _⟩
  · have run : ∀ {op : BitVec 8} (f : Regs → Nat → Nat) {P : Word64 → Prop}, IssuesM s i n op o e →
        P (BitVec.ofNat 64 (f (t.regs e.q) c.pay)) → ∃ z : Word64, (.next (bfForm i op o f s) : Out) =
          .next (t.finishA e (mkRAW z.toNat)) ∧ P z :=
      fun f P h hP => ⟨_, by rw [bfForm_of_reads hmain hr haw hc h f, mkRAW_ofNat], hP⟩
    refine ⟨fun h => run _ h fun j hj => ?_, fun h => run _ h fun j hj => ?_, fun h => run _ h fun j hj => ?_,
      fun h => run _ h fun j k hj hk => ?_⟩
    · rw [getLsbD_ofNat_of_lt _ hj, testBit_bfExtract, hpos, hwidth, ha]
    · have hlast : min j (w - 1) < w := by omega
      rw [getLsbD_ofNat_of_lt _ hj, hwidth, testBit_wrapInt_signedOf (by omega) _ hj, testBit_bfExtract, hpos, hwidth, ha,
        decide_eq_true hlast, Bool.true_and]
    · rw [getLsbD_ofNat_of_lt _ hj, testBit_bfInsert _ _ _ hj, hpos, hwidth, ha]
      rfl
    · rw [getLsbD_ofNat_of_lt _ (by omega), testBit_bperm _ _ hj hk, Cell.pay_eq c, ha]
  · refine ⟨fun h => congrArg _ (mRead_of_word hr hc h (ok := fun c => c.isValue || c.isHandle) hraw fun c => plain tagRAW c.pay),
      fun h => congrArg _ (mRead_of_word hr hc h hword fun c => plain tagFIX c.pay), fun h => ?_, fun hmain h => ?_,
      fun hmain h => ?_, fun hmain h => ?_⟩
    · rw [mkFLO, ← Cell.pay_eq]
      exact congrArg _ (mRead_of_word hr hc h hword fun c => plain tagFLO c.pay)
    · exact ⟨_, congrArg _ (bfCount_of_reads hmain hr hc h clz64), Cell.pay_eq c ▸ clz64_spec v⟩
    · exact ⟨_, congrArg _ (bfCount_of_reads hmain hr hc h ctz64), Cell.pay_eq c ▸ ctz64_spec v⟩
    · simp only [hv]
      rw [← popcount_eq]
      exact congrArg _ (bfCount_of_reads hmain hr hc h (popcount 64))

end Sys2Proof.Machine

/-! ## Exchanges and fences (O22) -/

namespace Sys2Proof

theorem SMap.erase_insert {α : Type} (m : SMap α) (k : Nat) (v : α) : SMap.erase (SMap.insert m k v) k = SMap.erase m k := by
  induction m with
  | nil => simp [SMap.insert, SMap.erase]
  | cons e m ih =>
    obtain ⟨j, x⟩ := e
    simp only [SMap.insert]
    split
    next h => simp [SMap.erase]
    next h =>
      split
      next hk => simp [SMap.erase, hk]
      next hk => simp [SMap.erase, Ne.symm hk, ih]

theorem SMap.insert_insert {α : Type} (m : SMap α) (k : Nat) (v w : α) :
    SMap.insert (SMap.insert m k v) k w = SMap.insert m k w := by
  induction m with
  | nil => simp [SMap.insert]
  | cons e m ih =>
    obtain ⟨j, x⟩ := e
    simp only [SMap.insert]
    split
    next h => simp [SMap.insert]
    next h =>
      split
      next hk => simp [SMap.insert]
      next hk => simp [SMap.insert, h, hk, ih]

/-- The second of two writes at one key stands, where the first wrote a value to list. -/
theorem SMap.set_set {α : Type} [DecidableEq α] {d v : α} (hv : v ≠ d) (m : SMap α) (k : Nat) (w : α) :
    SMap.set d (SMap.set d m k v) k w = SMap.set d m k w := by
  simp only [SMap.set, if_neg hv]
  split
  · exact m.erase_insert k v
  · exact m.insert_insert k v w

end Sys2Proof

namespace Sys2Proof.Machine

/-! ### Registers written twice -/

theorem State.setSlot_setSlot {s : State} {q : Cx} {v : Slot} (hv : v ≠ {}) (w : Slot) :
    (s.setSlot q v).setSlot q w = s.setSlot q w := by
  have hslots : SMap.set {} (s.core q.core).slots q.slot v ≠ [] := fun h => by
    have hget := SMap.get_set_self {} (s.core q.core).slots q.slot v
    rw [h] at hget
    exact hv hget.symm
  have hcore : (s.core q.core).setSlot q.slot v ≠ {} := fun h => hslots (congrArg Core.slots h)
  simp only [State.setSlot, State.core_setCore_self]
  simp only [State.setCore, Core.setSlot] at hcore ⊢
  rw [SMap.set_set hcore, SMap.set_set hv]

/-- Two changes of the registers of a slot that holds a context are one change. -/
theorem State.modRegs_modRegs {s : State} {q : Cx} {n : Nat} (h : (s.slot q).ctx = some n) (f g : Regs → Regs) :
    (s.modRegs q f).modRegs q g = s.modRegs q fun r => g (f r) := by
  have hv : ({ s.slot q with regs := f (s.regs q) } : Slot) ≠ {} := fun he => by
    have := congrArg Slot.ctx he
    simp [h] at this
  rw [State.modRegs, State.regs_modRegs_self]
  simp only [State.modRegs, State.setRegs, State.slot_setSlot_self]
  exact State.setSlot_setSlot hv _

/-! ### Stores one list after another -/

theorem Stored.of_mem {s s' t t' : State} {l : List (Nat × Cell)} (h : Stored s t l) (hs : s'.mem = s.mem) (ht : t'.mem = t.mem) :
    Stored s' t' l :=
  ⟨fun ha pa v hf => by rw [State.cell_of_mem ht, h.cells ha pa v hf], fun a ha => by rw [ht, hs, h.others a ha]⟩

theorem Stored.refl (s : State) : Stored s s [] :=
  ⟨fun _ _ _ h => by simp at h, fun _ _ => rfl⟩

theorem Stored.one (s : State) (w : Nat × Cell) : Stored s (s.setCell w.1 w.2) [w] := by
  refine ⟨fun _ pa v h => ?_, fun a ha => s.readByte_setCell_out _ _ (ha w (List.mem_singleton.mpr rfl))⟩
  simp only [List.reverse_singleton, List.find?_singleton] at h
  split at h
  next hpa =>
    obtain rfl := Option.some.inj h
    exact s.cell_setCell_self pa v
  · exact absurd h (by simp)

/-- A cell that none of the written ones overlaps is as before. -/
theorem Stored.cell_of_not_mem {s t : State} {l : List (Nat × Cell)} (h : Stored s t l) (ha : ∀ w ∈ l, w.1 % 16 = 0) {pa : Nat}
    (hpa : pa % 16 = 0) (hn : ∀ w ∈ l, w.1 ≠ pa) : t.cell pa = s.cell pa := by
  unfold State.cell
  rw [readBytes_congr _ s.mem 16 pa fun a h1 h2 => h.others a fun w hw => ?_]
  have := ha w hw
  have := hn w hw
  omega

theorem Stored.append {s t u : State} {l m : List (Nat × Cell)} (h : Stored s t l) (k : Stored t u m) : Stored s u (l ++ m) := by
  refine ⟨fun ha pa v hf => ?_, fun a ha => ?_⟩
  · have hl : ∀ w ∈ l, w.1 % 16 = 0 := fun w hw => ha w (List.mem_append_left m hw)
    have hm : ∀ w ∈ m, w.1 % 16 = 0 := fun w hw => ha w (List.mem_append_right l hw)
    rw [List.reverse_append, List.find?_append] at hf
    cases hlast : m.reverse.find? (fun w => w.1 == pa) with
    | some w =>
      rw [hlast, Option.some_or] at hf
      exact k.cells hm pa v (hlast.trans hf)
    | none =>
      rw [hlast, Option.none_or] at hf
      have hpa : pa % 16 = 0 := hl (pa, v) (List.mem_reverse.mp (List.mem_of_find?_eq_some hf))
      have hn : ∀ w ∈ m, w.1 ≠ pa := fun w hw => by
        simpa using List.find?_eq_none.mp hlast w (List.mem_reverse.mpr hw)
      rw [k.cell_of_not_mem hm hpa hn, h.cells hl pa v hf]
  · rw [k.others a fun w hw => ha w (List.mem_append_right l hw), h.others a fun w hw => ha w (List.mem_append_left m hw)]

/-- `t` is `s` with the cells of `l` written to memory: of a slot at most the line that it holds on changes, and no buffer. -/
structure WrittenOut (s t : State) (l : List (Nat × Cell)) : Prop where
  stored : Stored s t l
  slots : ∀ q, ∃ h, t.slot q = { s.slot q with hold := h }
  core : ∀ c, ∃ slots oc icache, t.core c = { s.core c with slots := slots, oc := oc, icache := icache }
  records : t.ctxStore = s.ctxStore

theorem WrittenOut.append {s t u : State} {l m : List (Nat × Cell)} (h : WrittenOut s t l) (k : WrittenOut t u m) :
    WrittenOut s u (l ++ m) := by
  refine ⟨h.stored.append k.stored, fun q => ?_, fun c => ?_, k.records.trans h.records⟩
  · obtain ⟨_, ha⟩ := h.slots q
    obtain ⟨b, hb⟩ := k.slots q
    exact ⟨b, by rw [hb, ha]⟩
  · obtain ⟨_, _, _, ha⟩ := h.core c
    obtain ⟨x, y, z, hb⟩ := k.core c
    exact ⟨x, y, z, by rw [hb, ha]⟩

theorem CachesOnly.writtenOut {s t : State} (h : CachesOnly s t) : WrittenOut s t [] :=
  ⟨(Stored.refl s).of_mem rfl h.mem, h.slots, h.core, h.sameButMemory.records⟩

theorem State.writtenOut_setCell (s : State) (w : Nat × Cell) : WrittenOut s (s.setCell w.1 w.2) [w] := by
  have hcores := s.setCell_cores w.1 w.2
  refine ⟨.one s w, fun q => ⟨(s.slot q).hold, ?_⟩, fun c => ⟨_, _, _, State.core_of_cores hcores c⟩,
    s.setCell_ctxStore w.1 w.2⟩
  rw [State.slot, State.core_of_cores hcores, State.slot]

theorem State.writtenOut_foldl (l : List (Nat × Cell)) (s : State) :
    WrittenOut s (l.foldl (fun u e => u.setCell e.1 e.2) s) l := by
  induction l generalizing s with
  | nil => exact (CachesOnly.refl s).writtenOut
  | cons w l ih => exact (s.writtenOut_setCell w).append (ih _)

theorem State.writtenOut_l2Write (s : State) (c g : Nat) (l : List (Nat × Cell)) : WrittenOut s (s.l2Write c g l) l := by
  have hclaim := (((s.caches_recallFrom g (c / 8)).trans (State.caches_ocToL2 _ g)).trans (State.caches_claimFor _ c g)).trans
    ((State.caches_dropCopies _ g false fun n => n != c).trans (State.caches_l2Put _ (c / 8) g))
  simp only [State.l2Write]
  split
  · exact hclaim.writtenOut.append (State.writtenOut_foldl l _)
  · exact (hclaim.trans (State.caches_setL2U _ g _)).writtenOut.append (State.writtenOut_foldl l _)

theorem State.writtenOut_drains (c : Nat) (l : List MergeEntry) (s : State) :
    WrittenOut s (l.foldl (fun t e => t.drainEntry c e) s) (mergedCells l) := by
  induction l generalizing s with
  | nil => exact (CachesOnly.refl s).writtenOut
  | cons x l ih => exact (s.writtenOut_l2Write c x.granule _).append (ih _)

/-! ### The buffers written out (R273 to R275) -/

/-- A change of a core that keeps its slots changes no slot. -/
theorem State.slot_modCore (s : State) (c : Nat) {f : Core → Core} (hf : (f (s.core c)).slots = (s.core c).slots) (q : Cx) :
    (s.modCore c f).slot q = s.slot q := by
  by_cases h : q.core = c
  · subst h
    simp only [State.slot, State.modCore, State.core_setCore_self, Core.slot, hf]
  · simp only [State.slot, State.modCore, State.core_setCore_ne _ _ h]

/-- What stands when the stores that wait have been written out: memory, and every slot but for its hold and its detector. -/
structure Flushed (s t : State) (q : Cx) (l : List (Nat × Cell)) : Prop where
  stored : Stored s t l
  slots : ∀ p, ∃ hold det, t.slot p = { s.slot p with hold := hold, det := det }
  empty : (t.slot q).det.buf = []
  records : t.ctxStore = s.ctxStore

section
variable {s t u : State} {q : Cx} {l m : List (Nat × Cell)}

theorem Flushed.regs (h : Flushed s t q l) (p : Cx) : t.regs p = s.regs p := by
  obtain ⟨_, _, hp⟩ := h.slots p
  simp only [State.regs, hp]

theorem Flushed.ctx (h : Flushed s t q l) (p : Cx) : (t.slot p).ctx = (s.slot p).ctx := by
  obtain ⟨_, _, hp⟩ := h.slots p
  rw [hp]

theorem Flushed.mid (h : Flushed s t q l) (p : Cx) : (t.slot p).mid = (s.slot p).mid := by
  obtain ⟨_, _, hp⟩ := h.slots p
  rw [hp]

theorem WrittenOut.flushed (h : WrittenOut s t l) (he : (s.slot q).det.buf = []) : Flushed s t q l := by
  refine ⟨h.stored, fun p => ?_, ?_, h.records⟩
  · obtain ⟨hold, hp⟩ := h.slots p
    exact ⟨hold, _, hp⟩
  · obtain ⟨_, hq⟩ := h.slots q
    rw [hq, he]

theorem Flushed.trans (h : Flushed s t q l) (k : Flushed t u q m) : Flushed s u q (l ++ m) := by
  refine ⟨h.stored.append k.stored, fun p => ?_, k.empty, k.records.trans h.records⟩
  obtain ⟨_, _, ha⟩ := h.slots p
  obtain ⟨x, y, hb⟩ := k.slots p
  exact ⟨x, y, by rw [hb, ha]⟩

end

/-- What a slot's write-around buffer leaves of the cores once it has been written out: their merging buffers and entry
points. -/
theorem State.flushAround_spec (s : State) (q : Cx) : Flushed s (s.flushAround q) q (s.slot q).det.buf ∧
    ∀ c, ((s.flushAround q).core c).merge = (s.core c).merge ∧ ((s.flushAround q).core c).men = (s.core c).men := by
  simp only [State.flushAround]
  split
  next hbuf => exact ⟨hbuf ▸ (CachesOnly.refl s).writtenOut.flushed hbuf, fun _ => ⟨rfl, rfl⟩⟩
  next a _ _ _ =>
    generalize hu : s.modSlot q (fun v => { v with det := { v.det with buf := [] } }) = u
    have hslots : ∀ p, ∃ hold det, u.slot p = { s.slot p with hold := hold, det := det } := fun p => by
      by_cases hp : p = q
      · rw [hp, ← hu, State.slot_modSlot_self]
        exact ⟨_, _, rfl⟩
      · rw [← hu, State.slot_modSlot_ne _ _ hp]
        exact ⟨_, _, rfl⟩
    have hcore : ∀ c, (u.core c).merge = (s.core c).merge ∧ (u.core c).men = (s.core c).men := fun c => by
      by_cases hc : c = q.core
      · rw [hc, ← hu, State.modSlot, State.setSlot, State.core_setCore_self, Core.setSlot]
        exact ⟨rfl, rfl⟩
      · rw [← hu, State.modSlot, State.setSlot, State.core_setCore_ne _ _ hc]
        exact ⟨rfl, rfl⟩
    have hempty : (u.slot q).det.buf = [] := by rw [← hu, State.slot_modSlot_self]
    have hone : Flushed s u q [] := ⟨(Stored.refl s).of_mem rfl (by rw [← hu, State.modSlot_mem]), hslots, hempty,
      by rw [← hu, State.modSlot_ctxStore]⟩
    have hgo : ∀ t : State, t.cores = u.cores → t.mem = u.mem → t.ctxStore = u.ctxStore →
        Flushed s (t.l2Write q.core (a / 128) (s.slot q).det.buf) q (s.slot q).det.buf ∧
        ∀ c, ((t.l2Write q.core (a / 128) (s.slot q).det.buf).core c).merge = (s.core c).merge ∧
          ((t.l2Write q.core (a / 128) (s.slot q).det.buf).core c).men = (s.core c).men := fun t hc hm hr => by
      have hslot : ∀ p, t.slot p = u.slot p := fun p => by rw [State.slot, State.core_of_cores hc, State.slot]
      have hw := t.writtenOut_l2Write q.core (a / 128) (s.slot q).det.buf
      have hf := hw.flushed (q := q) (by rw [hslot, hempty])
      refine ⟨hone.trans ⟨hf.stored.of_mem hm.symm rfl, fun p => hslot p ▸ hf.slots p, hf.empty, hf.records.trans hr⟩,
        fun c => ?_⟩
      obtain ⟨_, _, _, hk⟩ := hw.core c
      rw [hk, State.core_of_cores hc]
      exact hcore c
    split
    · exact hgo _ rfl rfl rfl
    · exact hgo _ rfl rfl rfl

/-- FENCE, XCHG and CAS write out what waits (R112, R274, R275). -/
theorem State.orderStores_spec (s : State) (q : Cx) :
    Flushed s (s.orderStores q) q (s.waiting q) ∧ (s.orderStores q).waiting q = [] := by
  obtain ⟨hflush, hcore⟩ := s.flushAround_spec q
  generalize hu : s.flushAround q = u at hflush hcore
  generalize hv : (u.modCore q.core fun k => { k with merge := [] }) = v
  have hslot : ∀ p, v.slot p = u.slot p := fun p => by rw [← hv]; exact u.slot_modCore q.core rfl p
  have hvm : (v.core q.core).merge = [] := by rw [← hv, State.modCore, State.core_setCore_self]
  have hone : Flushed u v q [] := ⟨(Stored.refl u).of_mem rfl (by rw [← hv, State.modCore_mem]),
    fun p => ⟨_, _, hslot p⟩, by rw [hslot, hflush.empty], by rw [← hv, State.modCore_ctxStore]⟩
  have hw := v.writtenOut_drains q.core (u.core q.core).merge
  have hrun : s.orderStores q = (u.core q.core).merge.foldl (fun t e => t.drainEntry q.core e) v := by
    rw [State.orderStores, hu, State.drainMerge, hv]
  have hall := hflush.trans (hone.trans (hw.flushed hone.empty))
  rw [← hrun, List.nil_append, (hcore _).1] at hall
  refine ⟨hall, ?_⟩
  obtain ⟨_, _, _, hk⟩ := hw.core q.core
  rw [State.waiting, hall.empty, hrun, hk, hvm]
  rfl

/-! ### Operands at machine level (R98, R99) -/

section
variable {s : State} {e : Env} {o : MOp} {va pa : Nat}

theorem decodes_fresh {ok : Bool} (hf : Fresh s e) (hk : ok = true) (hp : (e.user && o.privBase) = false)
    (hx : o.hasExt = false) : Decodes s e o ok (s.started e) := by
  have hd := decodes_plain (s := s) hk hp hx
  rwa [State.clearResume_of_clear (by simpa [Fresh] using hf)] at hd

/-- At machine level a capability register's base address comes with every authority. -/
theorem baseOf_capReg {r : Regs} {b opn : Nat} (s : State) (hu : e.user = false) (hb : b ≤ 3) :
    baseOf e r b opn s = .ok ((((r.capReg b).pay : Int), .all), s) := by
  have hauth : ∀ viaFS, authOf e (r.capReg b) opn false viaFS s = .ok (.all, s) := fun viaFS => by
    simp only [authOf, hu, Bool.or_self, Bool.not_false, Bool.false_eq_true, if_true, if_false]
    rfl
  rw [baseOf, if_pos (Nat.lt_succ_of_le hb), bind_ok (hauth _), pure_run]

/-- The index of an operand in `MODE` 1, 2 or 3: none, X or Y (R98). -/
def indexOf (o : MOp) (r : Regs) : Int := if o.mode = 2 then r.x.toInt else if o.mode = 3 then r.y.toInt else 0

/-- At machine level the operand of `MODE` 1, 2 or 3 over a capability register is the cell at its address. -/
theorem formOpd_capReg (hu : e.user = false) (hm : o.mode = 1 ∨ o.mode = 2 ∨ o.mode = 3) (hb : o.base.toNat ≤ 3)
    (hva : (va : Int) = ((s.regs e.q).capReg o.base.toNat).pay + 16 * (indexOf o (s.regs e.q) + o.disp.toInt))
    (hle : va ≤ 2 ^ 56 - 16) (opn : Nat) : formOpd e o opn s = .ok (.mem va .all none, s) := by
  have hrange := checkRange_of_mem (e := e) (va := va) (opn := opn) s (Int.natCast_nonneg va) (by omega)
  rw [Int.toNat_natCast, hva] at hrange
  rw [formOpd, bind_ok (regsM_run e s)]
  rcases hm with hm | hm | hm <;> simp only [hm, indexOf] at hrange ⊢ <;> refine (bind_ok (baseOf_capReg s hu hb)).trans ?_
  · rw [if_neg (by decide), if_neg (by decide), Int.zero_add] at hrange
    exact bind_ok hrange
  · exact bind_ok hrange
  · exact bind_ok hrange

theorem SameButMemory.andThen {s t u : State} (h : SameButMemory s t) (k : SameButMemory t u) : SameButMemory s u := by
  obtain ⟨a1, a2, a3, a4, a5, a6, a7, a8, a9⟩ := h.devices
  obtain ⟨b1, b2, b3, b4, b5, b6, b7, b8, b9⟩ := k.devices
  exact ⟨fun q => (k.regs q).trans (h.regs q), k.records.trans h.records, k.aux.trans h.aux, k.channels.trans h.channels,
    k.heap.trans h.heap, ⟨b1.trans a1, b2.trans a2, b3.trans a3, b4.trans a4, b5.trans a5, b6.trans a6, b7.trans a7,
      b8.trans a8, b9.trans a9⟩, k.queue.trans h.queue⟩

/-! ### The indivisible access (R37, R112) -/

/-- Where no store waits, ordering the stores changes nothing that an access looks at. -/
theorem Plain.orderStores (h : Plain s e va pa) : CachesOnly s (s.orderStores e.q) ∧
    ∀ c pb, ((s.orderStores e.q).core c).ocHit pb = (s.core c).ocHit pb := by
  have hrun : s.orderStores e.q = s.modCore e.q.core id := by
    have hflush : s.flushAround e.q = s := by simp only [State.flushAround, h.noBuffer]
    have hcore : { s.core e.q.core with merge := [] } = s.core e.q.core := by rw [← h.noMerge]
    simp only [State.orderStores, hflush, State.drainMerge, h.noMerge, List.foldl_nil, State.modCore, hcore, id_eq]
  rw [hrun]
  refine ⟨s.caches_modCore _ _ fun _ => ⟨_, _, rfl⟩, fun c pb => ?_⟩
  by_cases hc : c = e.q.core
  · rw [hc, State.modCore, State.core_setCore_self, id_eq]
  · rw [State.modCore, State.core_setCore_ne _ _ hc]

theorem Plain.translate_rmw (h : Plain s e va pa) (hu : e.user = false) (opn : Nat) :
    ∃ t, t.wt = false ∧ Machine.translate e .rmw va opn s = .ok ((t, pa), s) := by
  obtain ⟨t, ht, hr, hw, hwt, -, rfl⟩ := h.page
  have hgo : t.refuses e.user .rmw = none := by simp [TlbEntry.refuses, hu, hr, hw]
  exact ⟨t, hwt, by simp [Machine.translate, translateSpan, bind_ok (look_run id s), h.main, ht, hgo, State.bkAt, h.calm]⟩

/-- The state in which the old cell of an indivisible access has been read. -/
def State.rmwRead (s : State) (q : Cx) (pa : Nat) : State := (s.orderStores q).ocTouch q.core pa false

theorem Plain.rmwRead (h : Plain s e va pa) : CachesOnly s (s.rmwRead e.q pa) ∧
    ∀ {vb pb : Nat}, Plain s e vb pb → Plain (s.rmwRead e.q pa) e vb pb := by
  obtain ⟨hc, hhit⟩ := h.orderStores
  exact ⟨hc.trans (State.caches_ocTouch _ _ _ _), fun hb => (hb.of_caches hc ((hhit _ _).trans hb.hit)).ocTouch pa false⟩

/-- An indivisible access to a plain address: the old cell, and the store of the cell that its need names, if any. -/
theorem rmwOpd_of_plain {t : State} {known : Cell} {need : Cell → M (Option Cell)} {w : Option Cell} (h : Plain s e va pa)
    (hu : e.user = false) (hneed : need (s.cell pa) (s.rmwRead e.q pa) = .ok (w, t)) (ht : Plain t e va pa) (opn : Nat) :
    rmwOpd e va .all opn known need s =
      .ok (s.cell pa, w.elim t fun w => t.storedBack e.q pa (normalize w) true) := by
  obtain ⟨hc, hhit⟩ := h.orderStores
  have h1 := h.of_caches hc ((hhit _ _).trans h.hit)
  obtain ⟨x, hwt, hx⟩ := h1.translate_rmw hu opn
  have hoff : (s.rmwRead e.q pa).heap.en = false := by rw [h.rmwRead.1.sameButMemory.heap, h.noHeap]
  have hread := h1.readCell x opn 4
  rw [State.cell_of_mem hc.mem] at hread
  have hrun : rmwOpd e va .all opn known need s = (need (s.cell pa) >>= fun w => match w with
      | none => pure (s.cell pa)
      | some w => do
        if e.user && (w.tag == tagFWD || w.tag == tagHDR) then fault e cPRIV 0 opn
        writeCell e x pa va opn w true
        pure (s.cell pa)) (s.rmwRead e.q pa) := by
    simp only [rmwOpd, checkBounds, checkRights, checkStore]
    rw [bind_ok (act_run _ s), bind_ok (pure_run () _), bind_ok (pure_run () _), bind_ok (pure_run () _), bind_ok hx,
      bind_ok hread]
    have hpass := passBarrier_of_noHeap hoff e x pa opn (s.cell pa)
    split
    · rw [bind_ok (pure_run () _)]
      exact bind_ok hpass
    · exact bind_ok hpass
  rw [hrun, bind_ok hneed]
  cases w with
  | none => rfl
  | some w =>
    simp only [hu, Bool.false_and, Bool.false_eq_true, if_false]
    exact bind_ok (ht.writeCell hwt opn w true)

end

/-! ### XCHG, CAS and FENCE -/

section
variable {s : State} {i : Issue} {n : Nat} {o : MOp} {e : Env} {va pa : Nat}

theorem privBase_of_capReg (hb : o.base.toNat ≤ 3) : o.privBase = false := by
  have h4 : (o.base == 4) = false := beq_eq_false_iff_ne.mpr fun h => by simp [h] at hb
  have h5 : (o.base == 5) = false := beq_eq_false_iff_ne.mpr fun h => by simp [h] at hb
  simp only [MOp.privBase, h4, h5, Bool.or_self, Bool.false_and]

/-- A store operand in `MODE` 1 over a capability register decodes (R98, R102). -/
theorem decodes_mode1 (hf : Fresh s e) (hm : o.mode = 1) (hb : o.base.toNat ≤ 3) : Decodes s e o (o.fieldsOk true) (s.started e) := by
  refine decodes_fresh hf ?_ (by rw [privBase_of_capReg hb, Bool.and_false]) (by simp [MOp.hasExt, hm])
  simp only [MOp.fieldsOk, hm]
  exact decide_eq_true (by omega)

/-- XCHG with A itself only writes out what waits (R112). -/
theorem execXchg_a (hf : Fresh s e) (hm : o.mode = 0) (hb : o.base = 6) (hd : o.disp = 0) (h : IssuesM s i n 0x03 o e) :
    exec (.xchg i o) s = .next (((s.started e).orderStores e.q).finishA e (s.regs e.q).a) := by
  have hdec : Decodes s e o (o.fieldsOk true) (s.started e) :=
    decodes_fresh hf (by simp [MOp.fieldsOk, hm, hb, hd]) (by simp [MOp.privBase, hm]) (by simp [MOp.hasExt, hm])
  have hform : formOpd e o 2 (s.started e) = .ok (.reg 6, s.started e) := by
    rw [formOpd, bind_ok (regsM_run _ _), hm, hb]
    rfl
  obtain ⟨hflush, -⟩ := (s.started e).orderStores_spec e.q
  have hctx : (((s.started e).orderStores e.q).slot e.q).ctx = some n := by
    rw [hflush.ctx, State.started_ctx, h.env]
    exact h.ready.holds
  have hregs : ((s.started e).orderStores e.q).regs e.q = s.regs e.q := by rw [hflush.regs, State.started_regs]
  generalize hu : (s.started e).orderStores e.q = u at hctx hregs
  refine congrArg _ ((mForm_of_decodes h hdec _).trans ?_)
  simp only [bind_assoc]
  rw [bind_ok hform, bind_ok (regsM_run _ _), State.started_regs]
  simp only [bind_assoc]
  rw [bind_ok (act_run _ _), hu]
  have hload : loadOpd e (.reg 6) 2 u = .ok ((s.regs e.q).a, u) := by
    rw [loadOpd, look_run, hregs]
    rfl
  have hstore : storeOpd e (.reg 6) 2 1 0 (s.regs e.q).a u =
      .ok ((), u.modRegs e.q fun r => { r with a := normalize (s.regs e.q).a }) := rfl
  rw [bind_ok hload, bind_ok hstore, bind_ok (setA_run _ _ _), State.modRegs_modRegs hctx]
  rfl

/-- The steps of XCHG and of CAS with a memory operand, once its old cell is in hand. -/
theorem execXchg_mem (hu : e.user = false) (hf : Fresh s e) (hm : o.mode = 1) (hb : o.base.toNat ≤ 3)
    (hp : Plain (s.started e) e va pa) (hle : va ≤ 2 ^ 56 - 16)
    (hva : (va : Int) = ((s.regs e.q).capReg o.base.toNat).pay + 16 * o.disp.toInt) (h : IssuesM s i n 0x03 o e) :
    ∃ t : State, exec (.xchg i o) s = .next (t.finishA e (s.cell pa)) ∧ SameButMemory s t ∧ OneCell s t pa (s.regs e.q).a := by
  have hform := formOpd_capReg (s := s.started e) (o := o) hu (.inl hm) hb
    (by simp only [indexOf, hm]; rw [State.started_regs, hva, if_neg (by decide), if_neg (by decide), Int.zero_add]) hle 2
  obtain ⟨hc, hplain⟩ := hp.rmwRead
  have hrmw := rmwOpd_of_plain (known := (s.regs e.q).a) (need := fun _ => pure (some (s.regs e.q).a)) hp hu (pure_run _ _)
    (hplain hp) 2
  rw [State.cell_of_mem (s.started_mem e)] at hrmw
  have hall := (s.caches_started e).trans hc
  obtain ⟨hsame, hone⟩ := ((s.started e).rmwRead e.q pa).storedBack_spec e.q pa (normalize (s.regs e.q).a) true
  rw [OneCell.normalize_iff] at hone
  refine ⟨_, congrArg _ ((mForm_of_decodes h (decodes_mode1 hf hm hb) _).trans ?_), hall.sameButMemory.andThen hsame, hone.1,
    fun a ha => by rw [hone.2 a ha, hall.mem]⟩
  simp only [bind_assoc]
  rw [bind_ok hform, bind_ok (regsM_run _ _), State.started_regs]
  simp only [bind_assoc]
  rw [bind_ok hrmw]
  rfl

theorem execCas_mem {sp pb : Nat} (hu : e.user = false) (hf : Fresh s e) (hm : o.mode = 1) (hb : o.base.toNat ≤ 3)
    (hp : Plain (s.started e) e va pa) (hle : va ≤ 2 ^ 56 - 16)
    (hva : (va : Int) = ((s.regs e.q).capReg o.base.toNat).pay + 16 * o.disp.toInt) (hs : (s.regs e.q).s.pay = sp)
    (hpb : Plain (s.started e) e sp pb) (hsp : sp ≤ 2 ^ 56 - 16) (h : IssuesM s i n 0x04 o e) :
    ∃ t : State, CachesOnly s t ∧ exec (.cas i o) s = .next (((if eqCell (s.cell pa) (s.regs e.q).a = true then
      t.storedBack e.q pa (normalize (s.cell pb)) true else t)).finishA e (s.cell pa)) := by
  have hform := formOpd_capReg (s := s.started e) (o := o) hu (.inl hm) hb
    (by simp only [indexOf, hm]; rw [State.started_regs, hva, if_neg (by decide), if_neg (by decide), Int.zero_add]) hle 2
  obtain ⟨hc, hplain⟩ := hp.rmwRead
  have hcell : ∀ p, (s.started e).cell p = s.cell p := State.cell_of_mem (s.started_mem e)
  have hnew : (authOf e (s.regs e.q).s 3 false true >>= fun u => loadAt e u (s.regs e.q).s.pay 3)
      ((s.started e).rmwRead e.q pa) = .ok (s.cell pb, ((s.started e).rmwRead e.q pa).ocTouch e.q.core pb false) := by
    have hauth : authOf e (s.regs e.q).s 3 false true ((s.started e).rmwRead e.q pa) = .ok (.all, (s.started e).rmwRead e.q pa) := by
      simp only [authOf, hu, Bool.or_self, Bool.not_false, Bool.false_eq_true, if_true, if_false]
      rfl
    have hrange := checkRange_of_mem (e := e) (va := sp) (opn := 3) ((s.started e).rmwRead e.q pa) (Int.natCast_nonneg sp) (by omega)
    rw [Int.toNat_natCast] at hrange
    have hload := loadCell_of_plain hu (hplain hpb) 3
    rw [State.cell_of_mem hc.mem, hcell] at hload
    rw [bind_ok hauth, hs, loadAt, bind_ok hrange, hload]
  generalize ht : ((s.started e).rmwRead e.q pa).ocTouch e.q.core pb false = t at hnew
  have hneed := bind_ok (f := fun m => checkStore e .all va 2 m >>= fun _ =>
    pure (if eqCell (s.cell pa) (s.regs e.q).a = true then some m else none)) hnew
  have hrmw := rmwOpd_of_plain (known := emptyCell) (need := fun old =>
    (authOf e (s.regs e.q).s 3 false true >>= fun u => loadAt e u (s.regs e.q).s.pay 3) >>= fun m =>
    checkStore e .all va 2 m >>= fun _ => pure (if eqCell old (s.regs e.q).a = true then some m else none)) hp hu
    (by rw [hcell]; exact hneed) (ht ▸ (hplain hp).ocTouch pb false) 2
  rw [hcell] at hrmw
  refine ⟨t, (s.caches_started e).trans (hc.trans (ht ▸ State.caches_ocTouch _ _ _ _)),
    congrArg _ ((mForm_of_decodes h (decodes_mode1 hf hm hb) _).trans ?_)⟩
  simp only [bind_assoc]
  rw [bind_ok hform, bind_ok (regsM_run _ _), State.started_regs]
  simp only [bind_assoc] at hrmw ⊢
  rw [bind_ok hrmw]
  split <;> rfl

theorem execFence_spec (hf : Fresh s e) (hz : o.zero = true) (h : IssuesM s i n 0x1F o e) :
    ∃ t : State, exec (.fence i o) s = .next (t.moveTo e.q e.next) ∧ Stored s t (s.waiting e.q) ∧ t.waiting e.q = [] ∧
      (∀ q, t.regs q = s.regs q) ∧ t.ctxStore = s.ctxStore := by
  have hwait : (s.started e).waiting e.q = s.waiting e.q := by
    obtain ⟨_, hs⟩ := (s.caches_started e).slots e.q
    obtain ⟨_, _, _, hc⟩ := (s.caches_started e).core e.q.core
    simp only [State.waiting, hs, hc]
  obtain ⟨hflush, hempty⟩ := (s.started e).orderStores_spec e.q
  rw [hwait] at hflush
  refine ⟨(s.started e).orderStores e.q, ?_, hflush.stored.of_mem (s.started_mem e).symm rfl, hempty,
    fun q => by rw [hflush.regs, State.started_regs], by rw [hflush.records, State.started_ctxStore]⟩
  show execFence i o s = _
  rw [execFence, mNone_of_issues h hz, State.clearResume_of_clear (by simpa [Fresh] using hf)]
  rfl

end

/-- Settles O22: what waits is written out, and the access that follows reaches plain addresses alone. -/
theorem exchangesAndFences : Obligations.ExchangesAndFences := by
  refine ⟨fun s i n o e va pa sp hu hf => ⟨execXchg_a hf, fun hm hb hp hle hva =>
    ⟨execXchg_mem hu hf hm hb hp hle hva, fun hs pb hpb hsp h => ?_⟩⟩, fun s i n o e hf hz => ⟨fun h => ?_, fun h => ?_,
      execFence_spec hf hz⟩⟩
  · obtain ⟨t, hc, hrun⟩ := execCas_mem hu hf hm hb hp hle hva hs hpb hsp h
    refine ⟨fun heq => ?_, fun hne => ?_⟩
    · obtain ⟨hsame, hone⟩ := t.storedBack_spec e.q pa (normalize (s.cell pb)) true
      rw [if_pos heq] at hrun
      rw [OneCell.normalize_iff] at hone
      exact ⟨_, hrun, hc.sameButMemory.andThen hsame, hone.1, fun a ha => by rw [hone.2 a ha, hc.mem]⟩
    · rw [if_neg (by simp [hne])] at hrun
      exact ⟨t, hrun, hc.sameButMemory, hc.mem⟩
  · have hz' : o.mode = 0 ∧ o.base = 0 ∧ o.disp = 0 := by simpa [MOp.zero, and_assoc] using hz
    have hdec : Decodes s e o (o.fieldsOk false) (s.started e) :=
      decodes_fresh hf (by simp [MOp.fieldsOk, hz']) (by simp [MOp.privBase, hz']) (by simp [MOp.hasExt, hz'])
    refine congrArg _ ((mForm_of_decodes h hdec _).trans ?_)
    rw [bind_ok (regsM_run _ _), bind_ok (setA_run _ _ _), State.started_regs]
    rfl
  · show execIsync i o s = _
    rw [execIsync, mNone_of_issues h hz, State.clearResume_of_clear (by simpa [Fresh] using hf)]
    rfl

end Sys2Proof.Machine

/-! ## The time and the sleeps (O32) -/

namespace Sys2Proof.Machine

/-! ### Reading an operand leaves the registers

A device register that is read, the line that a load touches and what an undefined cache answers change none of a slot's
registers; a `TIME` cell is no pointer, so the load barrier does nothing for it. -/

/-- What a read of a core's registers clears stands beside its slots. -/
theorem State.liveRegs_l1Read (s : State) (c off : Nat) (q : Cx) : (s.l1Read c off).2.regs q = s.regs q := by
  simp only [State.l1Read]
  split
  · rfl
  split
  · exact congrArg Slot.regs (s.slot_modCore c (f := fun k => { k with cperr := 0, dperr := 0 }) rfl q)
  split <;> rfl

/-- A panel event that is read makes room for the one that stands for those lost. -/
theorem State.liveRegs_panelRead (s : State) (off : Nat) (q : Cx) : (s.panelRead off).2.regs q = s.regs q := by
  simp only [State.panelRead]
  split
  · simp only [State.pnevtRead]
    split
    · rfl
    split
    · exact ((KeepsAllBut.refl _ [.panel, .power]).eventIn).2 .registers (by decide) q
    · rfl
  · split_ifs <;> rfl

/-- A read of a device register changes no register of a slot (R219). -/
theorem State.liveRegs_devRead (s : State) (p : Cx) (pa : Nat) (q : Cx) : (s.devRead p pa).2.regs q = s.regs q := by
  have hl2 : ∀ k off, (s.l2Read k off).2.cores = s.cores := fun k off => by
    simp only [State.l2Read]
    split_ifs <;> rfl
  have hgeyser : ∀ g off, (s.gyRead g off).2.cores = s.cores := fun g off => by
    simp only [State.gyRead]
    split_ifs <;> rfl
  have hlink : ∀ l off, (s.linkRead l off).2.cores = s.cores := fun l off => by
    simp only [State.linkRead]
    split_ifs <;> rfl
  have hhost : ∀ f off, (s.hfRead f off).2.cores = s.cores := fun f off => by
    simp only [State.hfRead]
    split_ifs <;> rfl
  simp only [State.devRead, State.devValue, apply_ite Prod.snd]
  split
  · rfl
  split
  · rfl
  split
  · split
    · exact s.liveRegs_l1Read _ _ q
    · exact State.regs_of_cores (hl2 _ _) q
  split
  · exact State.regs_of_cores (hgeyser _ _) q
  split
  · split
    · exact State.regs_of_cores (hlink _ _) q
    · split <;> rfl
  split
  · rfl
  split
  · split
    · exact State.regs_of_cores (hhost _ _) q
    · rfl
  split
  · exact s.liveRegs_panelRead _ q
  · split <;> rfl

/-- The line that an undefined cache writes back is in memory alone (R294). -/
theorem State.cores_strayWrite (s : State) : s.strayWrite.cores = s.cores := by
  simp only [State.strayWrite]
  split
  · rfl
  · rw [foldUp_keeps State.cores _ (fun i t => by simp [State.fresh])]
    rfl

theorem State.liveRegs_of_loadTouch {s t : State} {p : Cx} {pa : Nat} {wt : Bool} (h : s.loadTouch p pa wt = .ok t) (q : Cx) :
    t.regs q = s.regs q := by
  simp only [State.loadTouch] at h
  split at h
  · cases h
    rw [State.regs_hbmServes, (s.caches_agentClean _).regs]
  split at h
  · cases h; rfl
  split at h
  · cases h
    split
    · rfl
    · exact (s.caches_shareFor _ _).regs q
  split at h
  · cases h
    exact (s.caches_ocTouch _ _ _).regs q
  split at h
  · cases h; rfl
  · cases h

section
variable (e : Env) (q : Cx) (r : Regs)

theorem translate_keepsRegs (k : Access) (va opn : Nat) : KeepsM (fun u => u.regs q = r) (translate e k va opn) := by
  unfold Machine.translate translateSpan
  refine .bind (.look _) fun s => .ite (.pure _) ?_
  split
  · exact .raise
  split
  · exact .raise
  refine .ite (.pure _) ?_
  split
  · exact .raise
  · exact .pure _

theorem readCell_keepsRegs (x : TlbEntry) (pa va opn acc : Nat) :
    KeepsM (fun u => u.regs q = r) (readCell e x pa va opn acc) := by
  unfold Machine.readCell
  refine .bind (.look _) fun s => ?_
  split
  · exact .raise
  · exact .pure _
  · exact .pure _
  · exact .takeM fun u hu => (u.liveRegs_devRead _ _ q).trans hu
  · exact .ite .raise (.ite (.takeM fun u hu => (State.regs_of_cores u.cores_strayWrite q).trans hu)
      (.bind (.orWait fun _ _ hu ht => (State.liveRegs_of_loadTouch ht q).trans hu) fun _ => .look _))

theorem authOf_keepsRegs (c : Cell) (opn : Nat) (nine viaFS : Bool) :
    KeepsM (fun u => u.regs q = r) (authOf e c opn nine viaFS) := by
  have hheader : KeepsM (fun u => u.regs q = r) (readHdr e c opn) :=
    .bind (translate_keepsRegs e q r .load c.pay opn) fun _ => .bind (readCell_keepsRegs e q r _ _ _ _ _) fun _ =>
      .bind (.ite .raise (.ite .raise (.pure _))) fun _ => .pure _
  unfold Machine.authOf
  extract_lets rest
  have hrest : ∀ u, KeepsM (fun u => u.regs q = r) (rest u) := fun _ =>
    .ite (.pure _) (.ite (.pure _) (.ite (.pure _) (.bind hheader fun h => .pure _)))
  exact .ite (.guard .raise fun _ => .guard .raise fun _ => .ite (.bind .raise hrest) (hrest ())) (hrest ())

/-- Forming an operand leaves the registers: the step of its base comes later (R101). -/
theorem formOpd_keepsRegs (o : MOp) (opn : Nat) : KeepsM (fun u => u.regs q = r) (formOpd e o opn) := by
  have hrange : ∀ va : Int, KeepsM (fun u => u.regs q = r) (checkRange e va opn) :=
    fun _ => .ite (.pure _) (.ite .raise .raise)
  unfold Machine.formOpd
  refine .bind (.look _) fun g => ?_
  extract_lets b
  split
  · exact .pure _
  · exact .pure _
  · exact .pure _
  · exact .bind (authOf_keepsRegs e q r _ _ _ _) fun u => .bind (hrange _) fun va => .pure _
  · exact .bind (hrange _) fun va => .pure _
  · exact .bind (.ite (.bind (authOf_keepsRegs e q r _ _ _ _) fun u => .pure _) (.pure _)) fun ⟨base, u⟩ =>
      .bind (hrange _) fun va => .pure _

end

/-! ### A cell that is no pointer passes the load barrier as it is (R226) -/

theorem tag_withEpoch (v : Cell) (good : Nat) : (v.withEpoch good).tag = v.tag := by
  rw [Cell.tag, Cell.withEpoch, field_normalize _ (by omega) (by omega), field_setField_of_apart _ _ (by omega) (by omega)]
  rfl

/-- A pointer that is moved keeps its tag (R226). -/
theorem tag_retarget (v : Cell) (o d good : Nat) : (retarget v o d good).tag = v.tag := by
  simp only [retarget]
  split
  · exact tag_withEpoch v good
  split
  · rw [Cell.tag, mkCap, field_mkCell _ _ _ _ (by omega) (by omega)]
    have : v.tag < 2 ^ 8 := Nat.mod_lt _ (by norm_num)
    omega
  · rw [tag_withEpoch, Cell.tag, Cell.withPay, field_normalize _ (by omega) (by omega),
      field_setField_of_apart _ _ (by omega) (by omega)]
    rfl

theorem isPointer_of_tag {v c : Cell} (h : c.tag = v.tag) : c.isPointer = v.isPointer := by
  simp only [Cell.isPointer, h]

/-- What the load barrier gives is a pointer, or it is the cell itself and nothing has changed. -/
theorem State.barrierAt_of_not_pointer {s t : State} {w : Copier} {v c : Cell} {dur : Bool} {good : Nat}
    (h : s.barrierAt w v dur good = some (c, t)) (hc : c.isPointer = false) : c = v ∧ t = s := by
  have hsame : ∀ {x : Cell} {u : State}, x.tag = v.tag → ¬ (!s.heap.en || !v.isPointer || v.epoch == good) = true →
      some (x, u) = some (c, t) → c = v ∧ t = s := fun hx hp hxu => by
    cases hxu
    rw [isPointer_of_tag hx] at hc
    exact absurd (by simp [hc]) hp
  simp only [State.barrierAt] at h
  split at h
  · cases h
    exact ⟨rfl, rfl⟩
  next hp =>
    split at h
    · exact hsame (tag_withEpoch v good) hp h
    split at h
    · cases h
    split at h
    · exact hsame (tag_withEpoch v good) hp h
    · exact hsame (tag_retarget v _ _ good) hp h

/-- A load that gives a cell that is no pointer leaves the registers. -/
theorem regs_of_loadCell {e : Env} {u : Auth} {va opn : Nat} {s t : State} {c : Cell} (hc : c.isPointer = false)
    (h : loadCell e u va opn s = .ok (c, t)) (q : Cx) : t.regs q = s.regs q := by
  have hbounds : KeepsM (fun v => v.regs q = s.regs q) (checkBounds e u va 16 opn) := by
    unfold checkBounds
    split
    · exact .pure _
    · exact .ite (.pure _) .raise
  have hrights : ∀ need, KeepsM (fun v => v.regs q = s.regs q) (checkRights e u va need opn) := fun need => by
    unfold checkRights
    split
    · exact .pure _
    · exact .ite (.pure _) .raise
  have hbarrier : ∀ x pa v s1, passBarrier e x pa opn v s1 = .ok (c, t) → t = s1 := fun x pa v s1 h => by
    rw [passBarrier, bind_ok (look_run _ _)] at h
    cases hb : s1.barrierAt (.core e.q.core) v false (s1.goodFor e.q.core) with
    | none =>
      simp only [id, hb] at h
      cases h
    | some x =>
      simp only [id, hb] at h
      cases h
      obtain ⟨rfl, rfl⟩ := State.barrierAt_of_not_pointer hb hc
      simp only [State.healSlot, beq_self_eq_true, Bool.or_true, if_true]
  obtain ⟨⟨⟩, s1, h1, h⟩ := bind_eq_ok h
  obtain ⟨⟨⟩, s2, h2, h⟩ := bind_eq_ok h
  obtain ⟨⟨x, pa⟩, s3, h3, h⟩ := bind_eq_ok h
  obtain ⟨v, s4, h4, h⟩ := bind_eq_ok h
  have hkept : s4.regs q = s.regs q := by
    have hs1 := (hbounds s rfl).1 _ _ h1
    have hs2 := (hrights _ s1 hs1).1 _ _ h2
    have hs3 := (translate_keepsRegs e q _ .load va opn s2 hs2).1 _ _ h3
    exact (readCell_keepsRegs e q _ x pa va opn 2 s3 hs3).1 _ _ h4
  dsimp only at h
  split at h
  · obtain ⟨⟨⟩, s5, h5, h⟩ := bind_eq_ok h
    rw [hbarrier _ _ _ _ h]
    exact (hrights _ s4 hkept).1 _ _ h5
  · rw [hbarrier _ _ _ _ h, hkept]

/-! ### The fields of a context's record -/

/-- A field of cells 24 to 26 that hardware writes reads as written (R190). -/
theorem State.field_setRecField_self (s : State) (n c v : Nat) {hi lo : Nat} (h : lo ≤ hi) (hw : hi < 116) :
    field ((s.setRecField n c hi lo v).rcell n c) hi lo = v % 2 ^ (hi + 1 - lo) := by
  rw [State.setRecField, State.rcell_setRec_self, hwField, field_normalize _ (.inl hw) (by omega),
    field_normalize _ (.inl hw) (by omega), field_setField_of_apart _ _ (by omega) (by omega),
    field_setField_self _ _ h (by omega)]

/-- A field apart from the one that hardware writes reads as before. -/
theorem State.field_setRecField_of_apart (s : State) (n c v : Nat) {hi lo hi' lo' : Nat} (h : hi' < lo ∨ hi < lo')
    (hw : hi' < 116) : field ((s.setRecField n c hi lo v).rcell n c) hi' lo' = field (s.rcell n c) hi' lo' := by
  rw [State.setRecField, State.rcell_setRec_self, hwField, field_normalize _ (.inl hw) (by omega),
    field_normalize _ (.inl hw) (by omega), field_setField_of_apart _ _ (by omega) (by omega),
    field_setField_of_apart _ _ h (by omega)]

theorem State.rcell_congr {s t : State} (h : t.ctxStore = s.ctxStore) (n c : Nat) : t.rcell n c = s.rcell n c := by
  rw [State.rcell, State.rcell, h]

theorem State.sleepAs_ctxStore (s : State) (n v : Nat) : (s.sleepAs n v).ctxStore = (s.setRecField n 24 83 81 v).ctxStore := by
  simp only [State.sleepAs, State.modAux_ctxStore, State.setCtxState]

theorem State.sleepAs_cores (s : State) (n v : Nat) : (s.sleepAs n v).cores = s.cores :=
  ((KeepsAllBut.refl s [.contexts]).sleepAs).2 .cores (by decide)

/-- A context that goes to sleep is in that `STATE`, its `WAKE` as before. -/
theorem State.ctxState_of_sleepAs {s t : State} {n v : Nat} (h : t.ctxStore = (s.sleepAs n v).ctxStore) (hv : v < 8) :
    t.ctxState n = v := by
  rw [State.ctxState, State.rcell_congr (h.trans (s.sleepAs_ctxStore n v)),
    State.field_setRecField_self _ _ _ _ (by decide) (by decide)]
  exact Nat.mod_eq_of_lt hv

theorem State.ctxWake_of_sleepAs {s t : State} {n v : Nat} (h : t.ctxStore = (s.sleepAs n v).ctxStore) :
    t.ctxWake n = s.ctxWake n := by
  rw [State.ctxWake, State.rcell_congr (h.trans (s.sleepAs_ctxStore n v)),
    State.field_setRecField_of_apart _ _ _ _ (by decide) (by decide), State.ctxWake]

/-! ### RDTIME, CKPT and WAITT -/

section
variable {s t : State} {i : Issue} {n : Nat} {o : MOp} {e : Env} {c : Cell} {fa : Nat}

theorem State.started_clearResume (hf : Fresh s e) : (s.started e).clearResume e.q = s.started e :=
  State.clearResume_of_clear (by rw [State.started_regs]; exact hf)

theorem execRdtime_of_fresh (hf : Fresh s e) (hz : o.zero = true) (h : IssuesM s i n 0xC4 o e) :
    exec (.rdtime i o) s = .next ((s.started e).readGtc.2.finishA e (mkTIME s.now)) := by
  have hnow : (s.started e).now = s.now := by rw [State.now, State.started_time]; rfl
  show execRdtime i o s = _
  rw [execRdtime, mNone_of_issues h hz, State.started_clearResume hf,
    bind_ok (show takeM State.readGtc _ = .ok (_, (s.started e).readGtc.2) from rfl), bind_ok (setA_run _ _ _), hnow]
  rfl

/-- What CKPT begins: the context is in `STATE` 5, and continues at `resume` once its checkpoint is accepted. -/
theorem State.ckptBegin_spec (s : State) (n resume : Nat) (q : Cx) : (s.ckptBegin n resume).ctxState n = 5 ∧
    (s.ckptBegin n resume).regs q = s.regs q ∧ ((s.ckptBegin n resume).auxOf n).resumePc = some resume ∧
    ((s.ckptBegin n resume).auxOf n).ckptWait = true := by
  simp only [State.ckptBegin]
  generalize (s.heap.en && s.needsDurable n) = need
  generalize ht : (s.sleepAs n 5).modAux n (fun a =>
    { a with ckptWait := true, resumePc := some resume, durWait := need }) = t
  have hstore : t.ctxStore = (s.sleepAs n 5).ctxStore := by rw [← ht, State.modAux_ctxStore]
  have hcores : t.cores = s.cores := by rw [← ht, State.modAux_cores, State.sleepAs_cores]
  have haux : (t.auxOf n).resumePc = some resume ∧ (t.auxOf n).ckptWait = true := by
    rw [← ht, State.auxOf_modAux_self]
    exact ⟨rfl, rfl⟩
  split
  · refine ⟨State.ctxState_of_sleepAs ((State.modHeap_ctxStore _ _).trans hstore) (by decide),
      State.regs_of_cores ((State.modHeap_cores _ _).trans hcores) q, ?_⟩
    rw [State.auxOf, State.modHeap_aux]
    exact haux
  · exact ⟨State.ctxState_of_sleepAs hstore (by decide), State.regs_of_cores hcores q, haux⟩

theorem execCkpt_of_fresh (hf : Fresh s e) (hz : o.zero = true) (h : IssuesM s i n 0xC3 o e) :
    ∃ u : State, exec (.ckpt i o) s = .next u ∧ u.ctxState n = 5 ∧ u.regs e.q = s.regs e.q ∧
      (u.auxOf n).resumePc = some e.next ∧ (u.auxOf n).ckptWait = true := by
  have hn : e.n = n := by rw [h.env]; rfl
  obtain ⟨hstate, hregs, hresume, hwait⟩ := ((s.started e).orderStores e.q).ckptBegin_spec n e.next e.q
  refine ⟨_, ?_, hstate, hregs.trans ?_, hresume, hwait⟩
  · show execCkpt i o s = _
    rw [execCkpt, mNone_of_issues h hz, State.started_clearResume hf, bind_ok (act_run _ _), hn]
    rfl
  · rw [((s.started e).orderStores_spec e.q).1.regs, State.started_regs]

/-- The step of an operand's base changes registers alone (R101). -/
theorem stepOpd_leaves {p : Opd} (h : stepOpd e p s = .ok ((), t)) : t.mem = s.mem ∧ t.now = s.now := by
  unfold stepOpd at h
  split at h
  · cases h
    exact ⟨rfl, rfl⟩
  · cases h
    exact ⟨rfl, rfl⟩

/-- What WAITT leaves of a context that sleeps until `wake`. -/
def State.waittSleep (s : State) (n wake resume : Nat) (base : Option (Nat × Int)) : State :=
  ((s.setRecField n 24 63 0 wake).sleepAs n 4).modAux n (fun a => { a with resumePc := some resume, resumeBase := base })

theorem State.waittSleep_spec (s : State) (n resume : Nat) (base : Option (Nat × Int)) {wake : Nat} (hw : wake < 2 ^ 64) (q : Cx) :
    let u := s.waittSleep n wake resume base
    u.ctxState n = 4 ∧ u.ctxWake n = wake ∧ u.regs q = s.regs q ∧ (u.auxOf n).resumePc = some resume ∧ u.mem = s.mem := by
  intro u
  have hstore : u.ctxStore = ((s.setRecField n 24 63 0 wake).sleepAs n 4).ctxStore := State.modAux_ctxStore _ _ _
  refine ⟨State.ctxState_of_sleepAs hstore (by decide), (State.ctxWake_of_sleepAs hstore).trans ?_, ?_, ?_, ?_⟩
  · exact (State.field_setRecField_self s n 24 wake (by decide) (by decide)).trans (Nat.mod_eq_of_lt hw)
  · refine State.regs_of_cores ?_ q
    rw [show u.cores = _ from State.modAux_cores _ _ _, State.sleepAs_cores, State.setRecField_cores]
  · rw [show u.auxOf n = _ from State.auxOf_modAux_self _ _ _]
  · exact (((KeepsAllBut.refl s [.contexts]).setRecField.sleepAs).modAux.2 .memory (by decide)).1

/-- WAITT with its operand in hand: what it does once the `TIME` cell is judged. -/
theorem execWaitt_of_reads (hr : Reads s e o 1 c fa t) (h : IssuesM s i n 0xC2 o e) (hc : Is c tagTIME) :
    (c.pay ≤ t.now → exec (.waitt i o) s = .next (t.finish e (fun r => { r with st := setBit r.st 9 true }))) ∧
      (t.now < c.pay → ∃ u : State, exec (.waitt i o) s = .next u ∧ u.ctxState n = 4 ∧ u.ctxWake n = c.pay ∧
        u.regs e.q = (s.clearResume e.q).regs e.q ∧ (u.auxOf n).resumePc = some e.next ∧ u.mem = t.mem) := by
  have hn : e.n = n := by rw [h.env]; rfl
  have hpointer : c.isPointer = false := by simp [Cell.isPointer, hc.1, tagTIME, tagCAP, tagSEAL, tagFWD]
  obtain ⟨⟨⟩, s1, hdec, hopd⟩ := bind_eq_ok hr
  obtain ⟨p, u1, hform, hopd⟩ := bind_eq_ok hopd
  obtain ⟨c', u2, hload, hopd⟩ := bind_eq_ok hopd
  obtain ⟨⟨⟩, u3, hstep, hopd⟩ := bind_eq_ok hopd
  cases hopd
  obtain ⟨hmem, hnow⟩ := stepOpd_leaves hstep
  have hdecoded : s1.regs e.q = (s.clearResume e.q).regs e.q := by
    obtain ⟨⟨⟩, v, hcheck, hclear⟩ := bind_eq_ok hdec
    cases hclear
    have hv : v.regs e.q = s.regs e.q := by rw [regs_of_checkM hcheck, State.started_regs]
    simp only [State.clearResume, hv, apply_ite (State.regs · e.q), State.regs_modRegs_self]
  have hregs : u2.regs e.q = (s.clearResume e.q).regs e.q := by
    refine Eq.trans ?_ (((formOpd_keepsRegs e e.q _ o 1 s1 rfl).1 _ _ hform).trans hdecoded)
    unfold loadOpd at hload
    split at hload
    · cases hload; rfl
    · cases hload; rfl
    · exact regs_of_loadCell hpointer hload e.q
  refine ⟨fun hle => ?_, fun hlt => ?_⟩
  · show execWaitt i o s = _
    rw [execWaitt, mForm_of_decodes h hdec, bind_ok hform, bind_ok hload, bind_ok (checkReserved_of_is hc 1 _ _),
      bind_ok (checkTag_of_true (by simp [hc.1]) 1 _ _), bind_ok (look_run _ _), if_neg (by omega), bind_ok hstep]
    rfl
  · have hw : c.pay < 2 ^ 64 := Nat.mod_lt _ (Nat.two_pow_pos 64)
    obtain ⟨hstate, hwake, hkept, hresume, hsame⟩ := u2.waittSleep_spec n e.next p.stepOf hw e.q
    refine ⟨_, ?_, hstate, hwake, hkept.trans hregs, hresume, hsame.trans hmem.symm⟩
    show execWaitt i o s = _
    rw [execWaitt, mForm_of_decodes h hdec, bind_ok hform, bind_ok hload, bind_ok (checkReserved_of_is hc 1 _ _),
      bind_ok (checkTag_of_true (by simp [hc.1]) 1 _ _), bind_ok (look_run _ _), if_pos (by omega), bind_ok (act_run _ _), hn]
    rfl

end

/-- Settles O32: the time is read in one step, and a sleep is a change of the context's record alone. -/
theorem timeAndCheckpointSleeps : Obligations.TimeAndCheckpointSleeps := fun _ _ _ _ _ _ _ _ =>
  ⟨fun hf hz => ⟨execRdtime_of_fresh hf hz, execCkpt_of_fresh hf hz⟩, fun hr h hc => execWaitt_of_reads hr h hc⟩

end Sys2Proof.Machine

/-! ## A copy whose hold writes the block table: O27 does not hold -/

namespace Sys2Proof.Machine

/-! The further steps of VCOPY are stated for every long operation whose routine is VCOPY, with or without a work object. The
last step releases the hold on the work object (`endLong`, R186), and `State.unpin` counts `PIN` of its block down whatever
`EN` is: with the heap hardware off, a byte of the block table changes beside the destination cell. -/

section
set_option Elab.async false

/-- VCOPY of one element from the vector at 0x200 to the vector at 0x400, before its copying step, its work object at
0x110. -/
def vcopyHeldLong : LongOp :=
  { word := mwordOf 0x95 { mode := 0, base := 0, disp := 0 }, step := 1, work := 0x110,
    routine := .vcopy (mkCell tagVEC 0 0 0x400) (mkCell tagVEC 0 0 0x200) 0 0 1 0 }

/-- Context 5 runs at machine level in slot 0 of core 0 in the middle of `vcopyHeldLong`, whose work object it holds; the
block table counts one hold of block 0. Core 0 maps `sallocPage`, and its object cache holds the lines of both elements.
The heap hardware is as reset leaves it: off. -/
def vcopyHeldState : State :=
  let s := State.reset.setRec 5 24 (mkCell tagRAW 0 (2 * 2 ^ 17 + 2 ^ 16) 0)
  let s := s.modSlot ⟨0, 0⟩ (fun v => { v with ctx := some 5, mid := .long vcopyHeldLong, regs :=
    { pc := 0x1000, st := 0x8000000000000000 } })
  let s := s.modAux 5 (fun x => { x with holds := [0x110] })
  let s := s.modCore 0 (fun k => { k with
    den := true, ocDefined := true, oc := [⟨129, 15, 0, false⟩, ⟨130, 15, 0, false⟩], tlb := [(20, some sallocPage)] })
  s.setCell 0 (mkCell tagRAW 0 (2 ^ 32) 0)

def vcopyHeldIssue : Issue := { core := 0, slot := 0, parity := .none }

def vcopyHeldEnv : Env := vcopyHeldState.midEnv (Cx.of vcopyHeldIssue) 5 vcopyHeldLong.word false

/-- What the copying step leaves. -/
def vcopyHeldLeft : State := match exec (.longInstructionStep vcopyHeldIssue) vcopyHeldState with
  | .next u => u
  | _ => vcopyHeldState

/-- Through `sallocPage`, an address whose line the object cache holds is plain. -/
theorem vcopyHeldPlain {va pa : Nat} (hva : va = 0x210 ∧ pa = 0x10210 ∨ va = 0x410 ∧ pa = 0x10410) :
    Plain vcopyHeldState vcopyHeldEnv va pa where
  page := by
    obtain ⟨rfl, rfl⟩ | ⟨rfl, rfl⟩ := hva
    · exact ⟨sallocPage, by decide +kernel⟩
    · exact ⟨sallocPage, by decide +kernel⟩
  hbm := by
    obtain ⟨-, rfl⟩ | ⟨-, rfl⟩ := hva
    · decide
    · decide
  calm := by decide +kernel
  whole := by
    obtain ⟨-, rfl⟩ | ⟨-, rfl⟩ := hva
    · decide +kernel
    · decide +kernel
  unlocked := by decide +kernel
  noHeap := by decide +kernel
  noBuffer := by decide +kernel
  noMerge := by decide +kernel
  cached := by decide +kernel
  defined := by decide +kernel
  main := by decide +kernel
  hit := by
    obtain ⟨-, rfl⟩ | ⟨-, rfl⟩ := hva
    · decide +kernel
    · decide +kernel

/-- The entry of block 0 counts the hold before the step, and not after it. -/
theorem vcopyHeldLeft_unpins : readByte vcopyHeldState.mem 12 = 1 ∧ readByte vcopyHeldLeft.mem 12 = 0 := by
  decide +kernel

end

/-- Refutes O27: the last step of a VCOPY with a work object releases the hold on it, which changes the block table though
the heap hardware is off, where the statement keeps every byte beside the destination. -/
theorem not_objectsAreReadThroughTheirHeader : ¬ Obligations.ObjectsAreReadThroughTheirHeader := by
  rintro ⟨-, h⟩
  obtain ⟨-, hstep⟩ := h vcopyHeldState vcopyHeldIssue 5
  obtain ⟨t, ht, ⟨-, hsame⟩, -⟩ := hstep vcopyHeldLong (mkCell tagVEC 0 0 0x400) (mkCell tagVEC 0 0 0x200) 0 0 1 0 0x10210
    0x10410 (by decide +kernel) (by decide +kernel) (by decide +kernel) (by decide +kernel) rfl (by decide +kernel) rfl
    (by decide) (le_refl 0) (le_refl 0) (vcopyHeldPlain (.inl (by decide +kernel)))
    (vcopyHeldPlain (.inr (by decide +kernel)))
  have hleft : vcopyHeldLeft = t := by rw [vcopyHeldLeft, ht]
  have h12 := hsame 12 (by decide)
  rw [← hleft, vcopyHeldLeft_unpins.1, vcopyHeldLeft_unpins.2] at h12
  exact absurd h12 (by decide)

end Sys2Proof.Machine

/-! ## ZLINE on a device page: O23 does not hold -/

namespace Sys2Proof.Machine

/-! On a page with `DEV` = 1 ZLINE passes the rights checks and completes with no effect (R130, R278). `Plain` asks of the page
that it reads, writes and is write-back, and not that its `DEV` is 0: a plain address may lie on a device page whose frame is in
HBM, and the line of that frame stays as it is. -/

section
set_option Elab.async false

/-- The page of `sallocPage` with `DEV` 1. -/
def zlinePage : TlbEntry := { sallocPage with dev := true }

/-- ZLINE at the cell that F names, indexed by X. -/
def zlineOpd : MOp := { mode := 2, base := 0, disp := 0 }

def zlineIssue : Issue := { core := 0, slot := 0, parity := .none }

/-- Context 5 runs at machine level in slot 0 of core 0 with F at 0x210 and X 0. Core 0 maps `zlinePage`, its object cache holds
the line of the address, and the cell in memory there is not zero. -/
def zlineState : State :=
  let s := State.reset.setRec 5 24 (mkCell tagRAW 0 (2 * 2 ^ 17 + 2 ^ 16) 0)
  let s := s.modSlot ⟨0, 0⟩ (fun v => { v with ctx := some 5, regs :=
    { pc := 0x1000, st := 0x8000000000000000, f := mkRAW 0x210 } })
  let s := s.modCore 0 (fun k => { k with
    den := true, ocDefined := true, oc := [⟨129, 15, 0, false⟩], tlb := [(20, some zlinePage)] })
  s.setCell 0x10210 (mkRAW 1)

def zlineEnv : Env := zlineState.envAt (Cx.of zlineIssue) 5 (mWord 0xD0 zlineOpd) zlineOpd.slots

/-- What ZLINE leaves. -/
def zlineLeft : State := match exec (.zline zlineIssue zlineOpd) zlineState with
  | .next u => u
  | _ => zlineState

theorem zlineIssues : IssuesM zlineState zlineIssue 5 0xD0 zlineOpd zlineEnv := by
  refine ⟨⟨by decide +kernel, by decide +kernel, ?_, by decide +kernel, rfl⟩, rfl, by decide +kernel⟩
  rfl

theorem zlinePlain : Plain (zlineState.started zlineEnv) zlineEnv 0x210 0x10210 where
  page := ⟨zlinePage, by decide +kernel⟩
  hbm := by decide
  calm := by decide +kernel
  whole := by decide +kernel
  unlocked := by decide +kernel
  noHeap := by decide +kernel
  noBuffer := by decide +kernel
  noMerge := by decide +kernel
  cached := by decide +kernel
  defined := by decide +kernel
  main := by decide +kernel
  hit := by decide +kernel

/-- The first byte of the cell at the address is as before. -/
theorem zlineLeft_kept : readByte zlineLeft.mem 0x10210 = 1 := by decide +kernel

end

/-- Refutes O23: ZLINE on a device page leaves the line that the statement has it zero. -/
theorem not_blockInstructionsDoOneIteration : ¬ Obligations.BlockInstructionsDoOneIteration := by
  rintro ⟨h, -⟩
  obtain ⟨-, -, -, hzline⟩ := h zlineState zlineIssue 5 zlineOpd zlineEnv 0x210 0x210 0x10210 0x10210 (by decide +kernel)
    (by decide +kernel) rfl (by decide) (by decide) (by decide) zlinePlain zlinePlain (by decide +kernel) (by decide +kernel)
  obtain ⟨t, ht, -, hzero, -⟩ := hzline zlineIssues (by decide +kernel)
  have hleft : zlineLeft = t := by rw [zlineLeft, ht]
  have hbyte := hzero 0x10210 rfl
  rw [← hleft, zlineLeft_kept] at hbyte
  exact absurd hbyte (by decide)

end Sys2Proof.Machine

/-! ## Repeats (O24) -/

namespace Sys2Proof.Machine

/-! ### One iteration of a repeat (R135, R138) -/

section
variable {s t : State} {e : Env} {rp : Repeat} {ended : Bool} {key : Option Cell}

theorem setMid_run (e : Env) (m : Mid) (s : State) :
    setMid e m s = .ok ((), s.modSlot e.q (fun v => { v with mid := m })) := rfl

/-- Where it neither ends the repeat nor is the last, an iteration leaves the slot in the repeat. -/
theorem repeatOnce_goesOn (h : iterate e rp.word.op rp.word.opd rp.key s = .ok ((false, key), t)) (hlt : rp.done + 1 < rp.count) :
    repeatOnce e rp s =
      .ok (.stay, t.modSlot e.q (fun v => { v with mid := .rep { rp with done := rp.done + 1, key := key } })) := by
  rw [repeatOnce, bind_ok h]
  simp only [Bool.false_or, decide_eq_true_eq, if_neg (not_le.mpr hlt)]
  rfl

/-- The instructions of the repeatable set that leave A at the end (R135). -/
theorem endIterations_keepsA {op : BitVec 8} (hop : op = 0x13 ∨ op = 0x14 ∨ op = 0x15 ∨ op = 0xD0) :
    endIterations e op ended s = .ok ((), s) := by
  obtain rfl | rfl | rfl | rfl := hop
  all_goals rfl

/-- The last iteration, or one that ends the repeat, leaves K at the iterations not executed. -/
theorem repeatOnce_ends (h : iterate e rp.word.op rp.word.opd rp.key s = .ok ((ended, key), t))
    (hend : ended = true ∨ rp.count ≤ rp.done + 1)
    (hop : rp.word.op = 0x13 ∨ rp.word.op = 0x14 ∨ rp.word.op = 0x15 ∨ rp.word.op = 0xD0) :
    repeatOnce e rp s = .ok (.next, (t.modSlot e.q (fun v => { v with mid := .none })).modRegs e.q
      (fun r => { r with k := BitVec.ofNat 32 (rp.count - (rp.done + 1)) })) := by
  rw [repeatOnce, bind_ok h]
  simp only [Bool.or_eq_true, decide_eq_true_eq, if_pos hend]
  rw [bind_ok (setMid_run _ _ _), bind_ok (modRegsM_run _ _ _), bind_ok (endIterations_keepsA hop)]
  rfl

end

/-! ### The first iteration under REP or REPI (R133, R134) -/

section
variable {s t : State} {i : Issue} {n : Nat} {disp : BitVec 16} {gop pop : BitVec 8} {o : MOp} {e : Env} {key : Option Cell}

/-- The count of a REP or REPI that starts (R134). -/
def startCount (disp : BitVec 16) (r : Regs) : Nat := if disp = 0 then r.k.toNat else disp.toNat

/-- The repeat that the REP or REPI with opcode `pop` starts. -/
def startRepeat (pop : BitVec 8) (disp : BitVec 16) (gop : BitVec 8) (o : MOp) (count : Nat) : Repeat :=
  { pfx := pop ++ (0 : BitVec 4) ++ (0 : BitVec 4) ++ disp, word := mwordOf gop o, count := count, done := 0, key := none }

/-- The word after the first of a cell lies in that cell. -/
theorem nextSlot_same_cell {a : Nat} (h : a.testBit 2 = false) : nextSlot a / 16 = a / 16 := by
  have h2 : a / 4 % 2 = 0 := by simpa [Nat.testBit_eq_decide_div_mod_eq] using h
  rw [nextSlot, h, if_neg (by simp)]
  omega

/-- A REP or REPI that starts anew, with its governed instruction in its own cell and their fields allowed: the count, and the first
iteration. -/
theorem prefixForm_of_fresh (hf : Fresh s e) (hpc : e.pc.testBit 2 = false) (hrep : repeatable gop = true)
    (hok : repeatOk gop o = true) (hx : o.hasExt = false) (hp : (e.user && o.privBase) = false)
    (h : Issues s i n (pop ++ (0 : BitVec 4) ++ (0 : BitVec 4) ++ disp) (1 + o.slots) e) :
    prefixForm i pop 0 0 disp gop o s = settle (s.started e) e
      (if startCount disp (s.regs e.q) = 0 then .ok (.next, (s.started e).modRegs e.q (fun r => { r with k := 0 }))
       else firstIteration (e.governed (mwordOf gop o)) (startRepeat pop disp gop o (startCount disp (s.regs e.q)))
        (s.started e)) := by
  have hnew : bit ((s.started e).regs e.q).st stRESUME = false := by rw [State.started_regs]; exact hf
  have hcheck : checkM (e.governed (mwordOf gop o)) (nextSlot e.pc) o (repeatOk gop o) (s.started e) = .ok ((), s.started e) := by
    have hp' : ((e.governed (mwordOf gop o)).user && o.privBase) = false := hp
    simp only [checkM, hok, hp', hx, Bool.not_true, Bool.false_eq_true, if_false]
    rfl
  rw [prefixForm, issue_of_issues h]
  congr 1
  simp only [prefixBody, nextSlot_same_cell hpc, hrep, bne_self_eq_false, Bool.or_self, Bool.not_true, Bool.false_eq_true, if_false]
  rw [bind_ok hcheck, bind_ok (regsM_run _ _), bind_ok (act_run _ _), State.clearResume_of_clear hnew, hnew, State.started_regs]
  simp only [Bool.false_eq_true, if_false, Bool.false_and, beq_iff_eq, startCount]
  split
  · split <;> rfl
  · split <;> rfl

/-- A first iteration that goes on. -/
theorem firstIteration_goesOn {rp : Repeat} (hd : rp.done = 0)
    (h : iterate e rp.word.op rp.word.opd rp.key (s.modSlot e.q (fun v => { v with mid := .rep rp })) = .ok ((false, key), t))
    (hlt : 1 < rp.count) : firstIteration e rp s =
      .ok (.stay, t.modSlot e.q (fun v => { v with mid := .rep { rp with done := 1, key := key } })) := by
  have hgo := repeatOnce_goesOn h (by omega)
  simp only [hd, Nat.zero_add] at hgo
  simp only [firstIteration, hgo]

end

/-! ### At a boundary inside a repeat (R136, R138) -/

section
variable {s t : State} {i : Issue} {n : Nat} {rp : Repeat}

/-- An iteration at a boundary that takes no cause. -/
theorem execRepeatIteration_of_calm (hctx : (s.slot (Cx.of i)).ctx = some n) (hgo : s.issuable (Cx.of i) n = true)
    (hmid : (s.slot (Cx.of i)).mid = .rep rp) (hpar : i.parity = .none)
    (hcalm : s.asyncDue n (s.slot (Cx.of i)).regs.st = none ∨ (bit rp.pfx 24 = false ∧ rp.done % 64 ≠ 0)) {r : Flow × State}
    (hrun : repeatOnce (s.midEnv (Cx.of i) n rp.word true) rp (s.release (Cx.of i)) = .ok r) :
    exec (.repeatIteration i) s =
      .next (settle (s.release (Cx.of i)) (s.midEnv (Cx.of i) n rp.word true) (.ok r)).atBoundaries := by
  have hnone : (if rp.atBoundary then s.asyncDue n (s.slot (Cx.of i)).regs.st else none) = none := by
    obtain hc | ⟨hb, hd⟩ := hcalm
    · rw [hc, ite_self]
    · rw [if_neg (by simp [Repeat.atBoundary, hb, hd])]
  show execRepeatIteration i s = _
  simp only [execRepeatIteration, hctx, hmid, hgo, hnone, Bool.not_true, Bool.false_eq_true, if_false, runIn, hpar,
    State.meetParity]
  exact congrArg (fun x => Host.Outcome.next (settle _ _ x).atBoundaries) hrun

/-- The end of a slot's write-around: registers and entry point stay, and what is under way. -/
theorem State.endAround_spec (s : State) (q : Cx) : (s.endAround q).regs q = s.regs q ∧
    ((s.endAround q).slot q).mid = (s.slot q).mid ∧ ((s.endAround q).core q.core).men = (s.core q.core).men := by
  obtain ⟨hflush, hcore⟩ := s.flushAround_spec q
  simp only [State.endAround]
  split
  · exact ⟨hflush.regs q, hflush.mid q, (hcore _).2⟩
  · refine ⟨?_, ?_, ?_⟩
    · rw [State.regs, State.slot_modSlot_self]
      exact hflush.regs q
    · rw [State.slot_modSlot_self]
      exact hflush.mid q
    · rw [State.modSlot, State.setSlot, State.core_setCore_self]
      exact (hcore _).2

/-- A cause that is taken enters at `MEN` with the slot's registers as R171 states. -/
theorem State.enterSlot_spec (s : State) (q : Cx) (c : Trap) (mra : Nat) (esc : Bool) :
    (s.enterSlot q c mra esc).regs q = (s.regs q).enter (s.core q.core).men mra c.cell esc ∧
      ((s.enterSlot q c mra esc).slot q).mid = (s.slot q).mid := by
  obtain ⟨hregs, hmid, hmen⟩ := s.endAround_spec q
  simp only [State.enterSlot]
  generalize hu : (s.endAround q).modRegs q (fun r => r.enter ((s.endAround q).core q.core).men mra c.cell esc) = u
  have hown : u.regs q = (s.regs q).enter (s.core q.core).men mra c.cell esc := by
    rw [← hu, State.regs_modRegs_self, hregs, hmen]
  have hkept : (u.slot q).mid = (s.slot q).mid := by
    rw [← hu, State.modRegs, State.setRegs, State.slot_setSlot_self]
    exact hmid
  split
  · rw [State.regs, State.slot_modSlot_self]
    exact ⟨hown, hkept⟩
  · exact ⟨hown, hkept⟩

/-- A repeat that stops leaves K at the iterations left, and `RESUME` set (R137). -/
theorem State.parkMid_rep {q : Cx} (hmid : (s.slot q).mid = .rep rp) (hkey : rp.key = none) :
    s.parkMid q = s.setSlot q { s.slot q with
      mid := .none
      regs := { s.regs q with k := BitVec.ofNat 32 (rp.count - rp.done), st := setBit (s.regs q).st stRESUME true } } := by
  simp only [State.parkMid, hmid, hkey]
  rfl

/-- An interrupt inside a repeat, at a boundary that takes one. -/
theorem execRepeatIteration_of_due {c : Trap} (hctx : (s.slot (Cx.of i)).ctx = some n) (hgo : s.issuable (Cx.of i) n = true)
    (hmid : (s.slot (Cx.of i)).mid = .rep rp) (hdue : s.asyncDue n (s.slot (Cx.of i)).regs.st = some c)
    (hb : bit rp.pfx 24 = true ∨ rp.done % 64 = 0) :
    exec (.repeatIteration i) s = .next (s.takeAsync (Cx.of i) n c).atBoundaries := by
  have hat : rp.atBoundary = true := by simpa [Repeat.atBoundary] using hb
  show execRepeatIteration i s = _
  simp only [execRepeatIteration, hctx, hmid, hgo, hat, hdue, Bool.not_true, Bool.false_eq_true, if_false, if_true]

theorem State.takeAsync_rep {q : Cx} (c : Trap) (hmid : (s.slot q).mid = .rep rp) (hkey : rp.key = none) :
    let t := s.takeAsync q n c
    (t.slot q).mid = .none ∧ (t.regs q).mra = (s.regs q).pc ∧ (t.regs q).k = BitVec.ofNat 32 (rp.count - rp.done) ∧
      bit (t.regs q).mst 61 = true ∧ (t.regs q).pc = (s.core q.core).men ∧ (t.regs q).mca = c.cell ∧
      (t.regs q).x = (s.regs q).x ∧ (t.regs q).y = (s.regs q).y ∧ (t.regs q).a = (s.regs q).a := by
  intro t
  generalize hu : (s.parkMid q).modAux n (fun a => a.clearCause c) = u
  have hcores : u.cores = (s.parkMid q).cores := by rw [← hu, State.modAux_cores]
  have hslot : u.slot q = { s.slot q with
      mid := .none
      regs := { s.regs q with k := BitVec.ofNat 32 (rp.count - rp.done), st := setBit (s.regs q).st stRESUME true } } := by
    rw [State.slot, State.core_of_cores hcores, ← State.slot, State.parkMid_rep hmid hkey, State.slot_setSlot_self]
  have hmen : (u.core q.core).men = (s.core q.core).men := by
    rw [State.core_of_cores hcores, State.parkMid_rep hmid hkey, State.setSlot, State.core_setCore_self]
    rfl
  obtain ⟨hregs, hnone⟩ := u.enterSlot_spec q c (u.regs q).pc.toNat false
  have ht : t = u.enterSlot q c (u.regs q).pc.toNat false := by rw [← hu]; rfl
  rw [← ht] at hregs hnone
  rw [hnone, hregs, State.regs, hslot, hmen]
  refine ⟨rfl, BitVec.ofNat_toNat _ _ |>.trans (BitVec.setWidth_eq _), rfl, ?_, rfl, rfl, rfl, rfl, rfl⟩
  exact (bit_setBit (s.regs q).st 61 61 true (by decide)).trans (by simp)

end

/-- Settles O24: one iteration is a step of its own, and a boundary takes a cause before it. -/
theorem repeatsCountAndStop : Obligations.RepeatsCountAndStop := by
  refine ⟨fun s t i n disp gop o e key repi hf hpc hrep hok hx hp => ?_, fun s t i n rp ended key => ?_, fun s i n rp c => ?_⟩
  · intro op word run count g rp s1 h
    have hrun : run = .next (settle (s.started e) e (if count = 0 then
        .ok (.next, (s.started e).modRegs e.q (fun r => { r with k := 0 }))
        else firstIteration g rp (s.started e))) := by
      cases repi with
      | false => exact congrArg Host.Outcome.next (prefixForm_of_fresh hf hpc hrep hok hx hp h)
      | true => exact congrArg Host.Outcome.next (prefixForm_of_fresh hf hpc hrep hok hx hp h)
    refine ⟨fun h0 => ?_, fun hlt hit => ?_⟩
    · rw [hrun, if_pos h0]
      rfl
    · rw [hrun, if_neg (by omega), firstIteration_goesOn (rp := rp) rfl hit hlt]
      rfl
  · intro q e hctx hgo hmid hpar hcalm hit n1
    refine ⟨fun hend hlt => ?_, fun hend hop => ?_⟩
    · subst hend
      exact execRepeatIteration_of_calm hctx hgo hmid hpar hcalm (repeatOnce_goesOn hit hlt)
    · exact execRepeatIteration_of_calm hctx hgo hmid hpar hcalm (repeatOnce_ends hit hend hop)
  · intro q hctx hgo hmid hkey hdue hb
    exact ⟨_, execRepeatIteration_of_due hctx hgo hmid hdue hb, State.takeAsync_rep c hmid hkey⟩

end Sys2Proof.Machine

/-! ## Where contexts sit

From `s₀` to `t` every slot keeps its context and what it waits for, and every record keeps its `RES`: an operation that neither
fills nor frees a slot. `Seated.f` takes such a step to `s` on to `s.f`, as `KeepsAllBut.f` does for the parts of the state; the
lemmas stand in the order of the model's definitions. -/

namespace Sys2Proof.Machine

structure Seated (s t : State) : Prop where
  slots : ∀ q, (t.slot q).ctx = (s.slot q).ctx ∧ (t.slot q).waits = (s.slot q).waits
  res : ∀ m, field (t.rcell m 24) 80 80 = field (s.rcell m 24) 80 80

section
-- A use of a default `by decide` waits for all declarations before it, so proofs side by side would only wait.
set_option Elab.async false

variable {s₀ s t : State}

theorem Seated.refl (s : State) : Seated s s := ⟨fun _ => ⟨rfl, rfl⟩, fun _ => rfl⟩

theorem Seated.trans {u : State} (h : Seated s t) (k : Seated t u) : Seated s u :=
  ⟨fun q => ⟨(k.slots q).1.trans (h.slots q).1, (k.slots q).2.trans (h.slots q).2⟩, fun m => (k.res m).trans (h.res m)⟩

theorem Seated.ite {c : Prop} [Decidable c] (h : Seated s₀ s) (k : Seated s₀ t) : Seated s₀ (if c then s else t) := by
  split
  · exact h
  · exact k

theorem Seated.foldUp {f : Nat → State → State} {n i : Nat} (h : Seated s₀ s)
    (hf : ∀ i s, Seated s₀ s → Seated s₀ (f i s)) : Seated s₀ (foldUp f n i s) := by
  induction n generalizing i s with
  | zero => exact h
  | succ n ih => exact ih (hf i s h)

theorem State.slot_of_cores (h : t.cores = s.cores) (q : Cx) : t.slot q = s.slot q := by
  rw [State.slot, State.core_of_cores h, State.slot]

theorem Seated.of_slots (hs : ∀ q, t.slot q = s.slot q) (hr : t.ctxStore = s.ctxStore) : Seated s t :=
  ⟨fun q => by rw [hs]; exact ⟨rfl, rfl⟩, fun m => by rw [State.rcell_congr hr]⟩

/-- An operation whose footprint holds neither the cores nor the contexts. -/
theorem Seated.past {ps : List Part} (h : Seated s₀ s) (hk : KeepsAllBut s t ps) (h1 : .cores ∉ ps := by decide)
    (h2 : .contexts ∉ ps := by decide) : Seated s₀ t :=
  h.trans (.of_slots (State.slot_of_cores (hk.2 .cores h1)) (hk.2 .contexts h2).1)

theorem Seated.caches (h : Seated s₀ s) (c : CachesOnly s t) : Seated s₀ t := by
  refine h.trans ⟨fun q => ?_, fun m => by rw [State.rcell_congr c.sameButMemory.records]⟩
  obtain ⟨_, hq⟩ := c.slots q
  rw [hq]
  exact ⟨rfl, rfl⟩

theorem Seated.modCore {c : Nat} {f : Core → Core} (h : Seated s₀ s) (hf : ∀ k : Core, (f k).slots = k.slots) :
    Seated s₀ (s.modCore c f) :=
  h.trans (.of_slots (s.slot_modCore c (hf _)) (State.modCore_ctxStore s c f))

theorem Seated.modSlot {q : Cx} {f : Slot → Slot} (h : Seated s₀ s) (hf : ∀ v, (f v).ctx = v.ctx ∧ (f v).waits = v.waits) :
    Seated s₀ (s.modSlot q f) := by
  refine h.trans ⟨fun p => ?_, fun m => by rw [State.rcell_congr (State.modSlot_ctxStore s q f)]⟩
  by_cases hp : p = q
  · rw [hp, State.slot_modSlot_self]
    exact hf _
  · rw [State.slot_modSlot_ne _ _ hp]
    exact ⟨rfl, rfl⟩

theorem Seated.modRegs {q : Cx} {f : Regs → Regs} (h : Seated s₀ s) : Seated s₀ (s.modRegs q f) :=
  h.modSlot (f := fun v => { v with regs := f v.regs }) fun _ => ⟨rfl, rfl⟩

/-! ### Records (R190) -/

theorem Seated.modAux {n : Nat} {f : CtxAux → CtxAux} (h : Seated s₀ s) : Seated s₀ (s.modAux n f) :=
  h.trans (.of_slots (State.slot_of_cores (State.modAux_cores s n f)) (State.modAux_ctxStore s n f))

theorem Seated.withOrder {order : Nat} (h : Seated s₀ s) : Seated s₀ { s with order := order } :=
  h.trans (.of_slots (fun _ => rfl) rfl)

/-- A cell of a record other than cell 24. -/
theorem Seated.setRec {n c : Nat} {v : Cell} (h : Seated s₀ s) (hc : c < 32 ∧ c ≠ 24) : Seated s₀ (s.setRec n c v) :=
  h.trans ⟨fun q => by rw [State.slot_of_cores (State.setRec_cores s n c v)]; exact ⟨rfl, rfl⟩,
    fun m => by rw [State.rcell_setRec_ne _ _ (by omega)]⟩

theorem Seated.setRecs {n c : Nat} {l : List Cell} (h : Seated s₀ s) (hc : c + l.length ≤ 24 ∨ (24 < c ∧ c + l.length ≤ 32)) :
    Seated s₀ (s.setRecs n c l) := by
  induction l generalizing s c with
  | nil => exact h
  | cons v l ih =>
    rw [List.length_cons] at hc
    exact ih (h.setRec (by omega)) (by omega)

/-- A field of cell 24 apart from `RES`. -/
theorem Seated.setRecField {n hi lo v : Nat} (h : Seated s₀ s) (hf : 80 < lo ∨ hi < 80) :
    Seated s₀ (s.setRecField n 24 hi lo v) := by
  refine h.trans ⟨fun q => ?_, fun m => ?_⟩
  · rw [State.slot_of_cores (State.setRecField_cores s n 24 hi lo v)]
    exact ⟨rfl, rfl⟩
  · by_cases hm : m = n
    · rw [hm, State.field_setRecField_of_apart _ _ _ _ hf (by decide)]
    · rw [State.setRecField, State.rcell_setRec_ne _ _ (by omega)]

theorem Seated.saveRegs {n : Nat} {r : Regs} (h : Seated s₀ s) : Seated s₀ (s.saveRegs n r) :=
  (h.setRecs (.inl (by simp [Regs.toCells]))).setRecField (.inl (by decide))

/-! ### Memory and the buffers -/

theorem Seated.agentRead {pa : Nat} (h : Seated s₀ s) : Seated s₀ (s.agentRead pa).2 :=
  (h.caches (s.caches_agentClean _)).past ((KeepsAllBut.refl _ [.power]).hbmServes)

theorem Seated.agentWrite {pa : Nat} {c : Cell} (h : Seated s₀ s) : Seated s₀ (s.agentWrite pa c) :=
  ((h.caches (s.caches_agentTake _)).past ((KeepsAllBut.refl _ [.power]).hbmServes)).past
    ((KeepsAllBut.refl _ [.memory]).setCell)

theorem Seated.flushed {q : Cx} {l : List (Nat × Cell)} (h : Seated s₀ s) (hf : Flushed s t q l) : Seated s₀ t := by
  refine h.trans ⟨fun p => ?_, fun m => by rw [State.rcell_congr hf.records]⟩
  obtain ⟨_, _, hp⟩ := hf.slots p
  rw [hp]
  exact ⟨rfl, rfl⟩

theorem Seated.endAround {q : Cx} (h : Seated s₀ s) : Seated s₀ (s.endAround q) :=
  have hflush := h.flushed (s.flushAround_spec q).1
  .ite hflush (hflush.modSlot fun _ => ⟨rfl, rfl⟩)

/-! ### Readiness, sleep and posts (R198, R203, R208) -/

theorem Seated.switchBanks {c : Nat} (h : Seated s₀ s) : Seated s₀ (s.switchBanks c) := by
  have hcore := h.modCore (c := c) (f := fun k => { k with patch := .of k.patch.idle k.patch.active }) fun _ => rfl
  unfold State.switchBanks
  split
  · exact h
  · exact (hcore.past ((KeepsAllBut.refl _ [.dependability]).modDep)).past
      ((KeepsAllBut.refl _ [.collector, .dependability]).mcFinish)

theorem Seated.ungate {c : Nat} (h : Seated s₀ s) : Seated s₀ (s.ungate c) :=
  .ite (h.modCore (f := fun k => { k with gated := false }) fun _ => rfl).switchBanks h

theorem Seated.makeReady {n : Nat} (h : Seated s₀ s) : Seated s₀ (s.makeReady n) := by
  unfold State.makeReady
  extract_lets t u
  have hu : Seated s₀ u := (h.setRecField (.inl (by decide))).modAux.withOrder
  exact (Seated.ite hu.ungate hu).past ((KeepsAllBut.refl _ [.power]).wakeTo)

theorem Seated.sleepAs {n v : Nat} (h : Seated s₀ s) : Seated s₀ (s.sleepAs n v) :=
  (h.setRecField (.inl (by decide))).modAux.withOrder

theorem Seated.post {n : Nat} (h : Seated s₀ s) : Seated s₀ (s.post n) := by
  have hset : ∀ {c}, Seated s₀ (s.setChan n c) := h.past ((KeepsAllBut.refl _ [.channels]).setChan)
  have hdeliver : ∀ {m v}, Seated s₀ (s.deliver m v) := .ite h.modAux.makeReady.modAux h.modAux
  exact .ite hdeliver (.ite (.ite hset.makeReady hset) hset)

/-! ### Notices of vent firmware (R519) -/

theorem Seated.withBoot {b : Boot} (h : Seated s₀ s) : Seated s₀ { s with boot := b } :=
  h.past ((KeepsAllBut.refl _ [.boot]).withBoot)

theorem Seated.ringPut {base : Nat} {cells : List Cell} (h : Seated s₀ s) (e : s.ringPut base cells = some t) : Seated s₀ t := by
  simp only [State.ringPut] at e
  split at e
  · cases e
  · cases e
    exact (h.agentRead.agentRead.foldUp fun _ _ h => h.agentWrite).agentWrite

theorem Seated.sendNotices {l : List (Nat × Nat × Nat)} (h : Seated s₀ s) : Seated s₀ (sendNotices l s) := by
  induction l generalizing s with
  | nil => exact h.withBoot
  | cons x l ih =>
    obtain ⟨code, tag, arg⟩ := x
    rw [Machine.sendNotices]
    split
    · exact h.withBoot
    split
    · exact h.withBoot
    next u e => exact ih (h.ringPut e).post

theorem Seated.notice {code tag arg : Nat} (h : Seated s₀ s) : Seated s₀ (s.notice code tag arg) :=
  .ite h.withBoot h.withBoot.sendNotices

/-! ### The heap's work at the load barrier (R226, R228, R232) -/

theorem Seated.modHeap {f : Heap → Heap} (h : Seated s₀ s) : Seated s₀ (s.modHeap f) :=
  h.past ((KeepsAllBut.refl _ [.heap]).modHeap)

theorem Seated.putHeap {a : Nat} {c : Cell} (h : Seated s₀ s) : Seated s₀ (s.putHeap a c) :=
  h.agentWrite.past ((KeepsAllBut.refl _ [.heap]).noteEngine)

theorem Seated.setE {b hi lo v : Nat} (h : Seated s₀ s) : Seated s₀ (s.setE b hi lo v) :=
  h.agentWrite

theorem Seated.pushMark {a : Nat} {dur : Bool} (h : Seated s₀ s) : Seated s₀ (s.pushMark a dur) :=
  .ite h.modHeap h.setE.modHeap

theorem Seated.mark {a : Nat} {dur : Bool} (h : Seated s₀ s) : Seated s₀ (s.mark a dur) :=
  have h1 := Seated.ite h (Seated.ite h.modHeap h.putHeap).setE
  have h2 := Seated.ite h1.modHeap h1
  .ite h2.pushMark h2

theorem Seated.filler {a n : Nat} (h : Seated s₀ s) : Seated s₀ (s.filler a n) :=
  .ite h h.putHeap

theorem Seated.setChunk {w : Copier} {bed : Bool} {v : Nat × Nat} (h : Seated s₀ s) : Seated s₀ (s.setChunk w bed v) := by
  unfold State.setChunk
  split
  · exact h.modCore fun _ => by split <;> rfl
  · exact h.modHeap

theorem Seated.destChunk {kind a : Nat} (h : Seated s₀ s) (e : s.destChunk kind = some (a, t)) : Seated s₀ t := by
  simp only [State.destChunk] at e
  split at e
  · cases e
  next b u eu =>
    have hu : Seated s₀ u := by
      split at eu
      · cases eu; exact h
      split at eu
      · cases eu
      split at eu
      · cases eu
      · cases eu; exact h.agentWrite
    cases e
    exact .ite hu.setE hu.setE

theorem Seated.relocAlloc {w : Copier} {bed cons : Bool} {n a : Nat} (h : Seated s₀ s)
    (e : s.relocAlloc w bed cons n = some (a, t)) : Seated s₀ t := by
  unfold State.relocAlloc at e
  split at e
  extract_lets pad u at e
  have hu : Seated s₀ u := .ite h.filler h
  split at e
  · obtain ⟨-, rfl⟩ := Prod.mk.inj (Option.some.inj e)
    exact hu.setChunk
  split at e
  · cases e
  next b v ev =>
    cases e
    exact (h.destChunk ev).filler.setChunk

theorem Seated.copyCells {src dst n : Nat} (h : Seated s₀ s) : Seated s₀ (s.copyCells src dst n) := by
  induction n generalizing s src dst with
  | zero => exact h
  | succ n ih =>
    rw [State.copyCells_succ]
    exact ih h.putHeap

theorem Seated.forward {w : Copier} {a : Nat} (h : Seated s₀ s) : Seated s₀ (s.forward w a).2 := by
  unfold State.forward
  extract_lets c cons n want bed s0
  have h0 : Seated s₀ s0 := .ite h.modHeap h
  split
  · exact h
  split
  · exact h0
  next d t e =>
    have h1 : Seated s₀ (t.copyCells a d n) := (h0.relocAlloc e).copyCells
    dsimp only
    exact (h1.putHeap.past ((KeepsAllBut.refl _ [.heap]).setStart)).modHeap

theorem Seated.barrierAt {w : Copier} {v y : Cell} {dur : Bool} {good : Nat} (h : Seated s₀ s)
    (e : s.barrierAt w v dur good = some (y, t)) : Seated s₀ t := by
  unfold State.barrierAt at e
  split at e
  · cases e; exact h
  split at e
  · cases e; exact h
  extract_lets c u at e
  have hu : Seated s₀ u := h.past ((KeepsAllBut.refl _ [.heap]).learn)
  clear_value u
  split at e
  · cases e
  split at e
  · cases e; exact hu
  next o _ =>
    have hmoved : Seated s₀ (if eRel c = true then u.forward w o else (o, u)).2 := by
      split
      · exact hu.forward
      · exact hu
    split at e
    next d x hx =>
    rw [hx] at hmoved
    cases e
    exact .ite hmoved.mark hmoved

/-! ### The entry of a cause (R171) -/

theorem Seated.parkMid {q : Cx} (h : Seated s₀ s) : Seated s₀ (s.parkMid q) := by
  have hslot : ∀ {v : Slot}, v.ctx = (s.slot q).ctx ∧ v.waits = (s.slot q).waits → Seated s₀ (s.setSlot q v) :=
      fun {v} hv => by
    refine h.trans ⟨fun p => ?_, fun m => by rw [State.rcell_congr (State.setSlot_ctxStore s q v)]⟩
    by_cases hp : p = q
    · rw [hp, State.slot_setSlot_self]
      exact hv
    · rw [State.slot_setSlot_ne _ _ hp]
      exact ⟨rfl, rfl⟩
  simp only [State.parkMid]
  split
  · exact hslot ⟨rfl, rfl⟩
  · split
    · exact hslot ⟨rfl, rfl⟩
    · refine Seated.modAux ?_
      exact hslot ⟨rfl, rfl⟩
  · exact hslot ⟨rfl, rfl⟩

theorem Seated.enterSlot {q : Cx} {c : Trap} {mra : Nat} {esc : Bool} (h : Seated s₀ s) : Seated s₀ (s.enterSlot q c mra esc) :=
  .ite (h.endAround.modRegs.modSlot fun _ => ⟨rfl, rfl⟩) h.endAround.modRegs

end

/-! ### A context that has left its slot (R196, R199) -/

/-- Slot `q` waits for no eviction; context `m` is in slot `p` no longer, and its record says so. -/
structure Evicted (t : State) (q p : Cx) (m : Nat) : Prop where
  waits : (t.slot q).waits = none
  left : (t.slot p).ctx = none
  res : field (t.rcell m 24) 80 80 = 0

section
variable {s t : State} {q p : Cx} {m : Nat}

theorem Evicted.seated (h : Evicted s q p m) (k : Seated s t) : Evicted t q p m :=
  ⟨(k.slots q).2.trans h.waits, (k.slots p).1.trans h.left, (k.res m).trans h.res⟩

theorem Evicted.setSlot_empty (h : Evicted s q p m) (r : Cx) : Evicted (s.setSlot r {}) q p m := by
  have hempty : ∀ x : Cx, (s.setSlot r {}).slot x = {} ∨ (s.setSlot r {}).slot x = s.slot x := fun x => by
    by_cases hx : x = r
    · exact .inl (by rw [hx, State.slot_setSlot_self])
    · exact .inr (State.slot_setSlot_ne _ _ hx)
  refine ⟨?_, ?_, by rw [State.rcell_congr (State.setSlot_ctxStore s r {})]; exact h.res⟩
  · obtain hx | hx := hempty q
    · rw [hx]
    · rw [hx, h.waits]
  · obtain hx | hx := hempty p
    · rw [hx]
    · rw [hx, h.left]

theorem Evicted.setCore_empty (h : Evicted s q p m) (c : Nat) : Evicted (s.setCore c {}) q p m := by
  have hempty : ∀ x : Cx, (s.setCore c {}).slot x = {} ∨ (s.setCore c {}).slot x = s.slot x := fun x => by
    by_cases hx : x.core = c
    · refine .inl ?_
      rw [State.slot, hx, State.core_setCore_self]
      rfl
    · exact .inr (by rw [State.slot, State.core_setCore_ne _ _ hx, State.slot])
  refine ⟨?_, ?_, by rw [State.rcell_congr (State.setCore_ctxStore s c {})]; exact h.res⟩
  · obtain hx | hx := hempty q
    · rw [hx]
    · rw [hx, h.waits]
  · obtain hx | hx := hempty p
    · rw [hx]
    · rw [hx, h.left]

/-- `RES`, `CORE` and `SLOT` of a record are 0. -/
theorem State.res_setResidence_none (s : State) (n : Nat) : field ((s.setResidence n none).rcell n 24) 80 80 = 0 := by
  have h := s.field_setRecField_self n 24 0 (by decide : 72 ≤ 80) (by decide)
  rw [State.setResidence]
  simp only [field] at h ⊢
  omega

theorem Evicted.setResidence_none (h : Evicted s q p m) (n : Nat) : Evicted (s.setResidence n none) q p m := by
  have hcores : (s.setResidence n none).cores = s.cores := State.setRecField_cores s n 24 80 72 0
  refine ⟨?_, ?_, ?_⟩
  · rw [State.slot_of_cores hcores, h.waits]
  · rw [State.slot_of_cores hcores, h.left]
  · by_cases hm : m = n
    · rw [hm, State.res_setResidence_none]
    · rw [State.setResidence, State.setRecField, State.rcell_setRec_ne _ _ (by omega), h.res]

theorem Evicted.freeSlot (h : Evicted s q p m) (r : Cx) : Evicted (s.freeSlot r) q p m := by
  simp only [State.freeSlot]
  split
  · split
    · exact (h.setSlot_empty r).seated (Seated.refl _).modAux
    · exact h.setSlot_empty r
  · exact h.setSlot_empty r

/-- A cause that is taken, or ends its context (R176 to R178). -/
theorem Evicted.takeTrap (h : Evicted s q p m) (r : Cx) (c : Trap) (mra : Nat) : Evicted (s.takeTrap r c mra) q p m := by
  have hfatal : Evicted (s.fatal r c mra) q p m := by
    unfold State.fatal
    split
    · exact h
    next n _ =>
      have hsaved := h.seated ((Seated.refl s).endAround (q := r) |>.saveRegs (n := n) (r := (s.endAround r).regs r))
      have hfault : ∀ {u : State} {l : List Cell}, l.length = 5 → Seated u ((u.setRecs n 27 l).sleepAs n 6) := fun hl =>
        ((Seated.refl _).setRecs (.inr ⟨by decide, by omega⟩)).sleepAs
      exact ((hsaved.setResidence_none n).freeSlot r).seated
        (((hfault rfl).post.past (KeepsAllBut.refl _ []).fresh).notice)
  simp only [State.takeTrap]
  split
  · exact hfatal
  · split
    · exact h.seated (Seated.refl _).enterSlot
    · exact h.seated (Seated.refl _).enterSlot

theorem Evicted.ventFail (h : Evicted s q p m) (v : Nat) : Evicted (s.ventFail v) q p m := by
  unfold State.ventFail
  split
  · exact h
  extract_lets recent t
  have ht : Evicted t q p m := h.seated ((Seated.refl s).past
    ((KeepsAllBut.refl s [.collector, .journal, .dictionary, .dependability]).countUp.logErr.modDep))
  have hrestart : ∀ f, Evicted ((t.setCore (64 + v) {}).modDep f) q p m := fun f =>
    (ht.setCore_empty (64 + v)).seated ((Seated.refl _).past ((KeepsAllBut.refl _ [.dependability]).modDep))
  split
  · exact (hrestart _).seated ((Seated.refl _).past ((KeepsAllBut.refl _ [.collector, .dependability]).logErr))
  · exact hrestart _

end

end Sys2Proof.Machine

/-! ## Physical and record accesses (O36) -/

namespace Sys2Proof.Machine

/-! ### The cell at a physical address (R131, R250) -/

/-- The HBM cell at `pa` is whole and nothing but it takes part in an access to it by a main core: no scratch window, heap or
waiting store is in force, and the enabled object cache holds its sector. `Plain` says the same of a virtual address. -/
structure AtPhysical (s : State) (e : Env) (pa : Nat) : Prop where
  hbm : pa < hbmEnd
  whole : s.poisoned (pa / 128) = false
  unlocked : (s.core e.q.core).lockn = 0
  noHeap : s.heap.en = false
  noBuffer : (s.slot e.q).det = {}
  noMerge : (s.core e.q.core).merge = []
  cached : (s.core e.q.core).den = true
  defined : (s.core e.q.core).ocDefined = true
  main : e.q.isVent = false
  hit : (s.core e.q.core).ocHit pa = true

section
variable {s : State} {e : Env} {pa : Nat}

theorem regionOf_of_hbm (h : pa < hbmEnd) : regionOf pa = .hbm := by
  have hram : ¬ ventRamAt ≤ pa := by
    simp only [hbmEnd, ventRamAt] at h ⊢
    omega
  have hrom : ¬ ventRomAt ≤ pa := by
    simp only [hbmEnd, ventRomAt] at h ⊢
    omega
  simp [regionOf, hram, hrom, h]

theorem AtPhysical.reached (h : AtPhysical s e pa) : s.reached e.q pa = .hbm := by
  simp [State.reached, h.main, regionOf_of_hbm h.hbm]

theorem AtPhysical.inScratch (h : AtPhysical s e pa) (a : Nat) : (s.core e.q.core).inScratch a = false := by
  simp [Core.inScratch, h.unlocked]

theorem AtPhysical.readCell (h : AtPhysical s e pa) (t : TlbEntry) (va opn acc : Nat) :
    readCell e t pa va opn acc s = .ok (s.cell pa, s.ocTouch e.q.core pa false) := by
  have hc := s.caches_ocTouch e.q.core pa false
  have hload : s.loadTouch e.q pa t.wt = .ok (s.ocTouch e.q.core pa false) := by
    simp [State.loadTouch, h.main, h.inScratch, h.cached, h.hit]
  have hvalue : (s.ocTouch e.q.core pa false).loadValue e.q pa = s.cell pa := by
    obtain ⟨_, hs⟩ := hc.slots e.q
    obtain ⟨_, _, _, hk⟩ := hc.core e.q.core
    simp [State.loadValue, Core.inScratch, hk, h.unlocked, State.buffered, hs, h.noBuffer, h.noMerge, State.cell, hc.mem]
  simp [Machine.readCell, bind_ok (look_run id s), h.reached, h.inScratch, h.whole, Core.undefinedCache, h.defined,
    bind_ok (orWait_of_ok (f := (·.loadTouch e.q pa t.wt)) hload), hvalue]

theorem AtPhysical.writePhys (h : AtPhysical s e pa) (fa opn acc : Nat) (v : Cell) (feeds : Bool) (after : State → State) :
    writePhys e false pa fa opn acc v feeds after s = .ok ((), after (s.storedBack e.q pa (normalize v) feeds)) := by
  have haround : s.goesAround e.q pa false feeds = false := by simp [State.goesAround, h.hit]
  have hflush : s.flushAround e.q = s := by simp [State.flushAround, h.noBuffer]
  have hstore : s.storeHbm e.q pa (normalize v) false feeds = .ok (s.storedBack e.q pa (normalize v) feeds) := by
    simp [State.storeHbm, h.main, h.inScratch, State.storeBack, haround, h.cached, h.hit, hflush, State.storedBack]
  have hentry : s.entryAt pa = none := by simp [State.entryAt, h.noHeap]
  simp [Machine.writePhys, bind_ok (look_run id s), h.reached, h.inScratch, h.whole, Core.undefinedCache,
    h.defined, hentry, bind_ok (orWait_of_ok (f := (·.storeHbm e.q pa (normalize v) false feeds)) hstore)]

/-- The fetch that precedes an instruction leaves a physical cell as it is. -/
theorem AtPhysical.of_started (hpa : pa < hbmEnd) (hw : s.poisoned (pa / 128) = false)
    (hl : ((s.started e).core e.q.core).lockn = 0) (hheap : s.heap.en = false) (hdet : (s.slot e.q).det = {})
    (hm : ((s.started e).core e.q.core).merge = []) (hden : ((s.started e).core e.q.core).den = true)
    (hdef : ((s.started e).core e.q.core).ocDefined = true) (hhit : ((s.started e).core e.q.core).ocHit pa = true)
    (hmain : e.q.isVent = false) : AtPhysical (s.started e) e pa := by
  obtain ⟨_, hslot⟩ := (s.caches_started e).slots e.q
  refine ⟨hpa, ?_, hl, ?_, by rw [hslot, hdet], hm, hden, hdef, hmain, hhit⟩
  · rw [State.poisoned, State.started_poison]
    exact hw
  · rw [State.started_heap, hheap]

variable {i : Issue} {n : Nat} {opnd : BitVec 16}

theorem physAddr_run {acc x : Nat} (hx : (s.regs e.q).x.toNat = x) (h : x < 2 ^ 48) :
    physAddr e acc s = .ok (x / 16 * 16, s) := by
  rw [physAddr, bind_ok (regsM_run e s)]
  simp only [hx, if_neg (not_le.mpr h)]
  rfl

/-- PLD of a cell in HBM. -/
theorem execPld_hbm (hu : e.user = false) (hf : Fresh s e) (hx : (s.regs e.q).x.toNat / 16 * 16 = pa)
    (hp : AtPhysical (s.started e) e pa) (h : Issues s i n (sWord 0xE8 0 opnd) 1 e) :
    ∃ t : State, exec (.pld i 0 opnd) s = .next t ∧ t.mem = s.mem ∧
      Becomes s t e.q { s.regs e.q with a := normalize (s.cell pa), pc := BitVec.ofNat 64 e.next } := by
  have hlt : (s.regs e.q).x.toNat < 2 ^ 48 := by
    have := hp.hbm
    simp only [hbmEnd] at this
    omega
  have hc := (s.started e).caches_ocTouch e.q.core pa false
  have hheap : ((s.started e).ocTouch e.q.core pa false).heap.en = false := by rw [hc.sameButMemory.heap, hp.noHeap]
  refine ⟨((s.started e).ocTouch e.q.core pa false).finishA e ((s.started e).cell pa), ?_, ?_, ?_⟩
  · show execPld i 0 opnd s = _
    rw [execPld, machineForm_of_fresh h hu hf rfl, bind_ok (physAddr_run (by rw [State.started_regs]) hlt), hx]
    simp only [regionOf_of_hbm hp.hbm, show (Region.hbm == Region.device) = false from rfl, Bool.false_eq_true, if_false]
    rw [bind_ok (hp.readCell _ _ _ _), bind_ok (passBarrier_of_noHeap hheap _ _ _ _ _), bind_ok (setA_run _ _ _)]
    rfl
  · rw [State.finishA_mem, hc.mem, State.started_mem]
  · have hcell : (s.started e).cell pa = s.cell pa := State.cell_of_mem (s.started_mem e) pa
    rw [← hcell]
    exact (((Becomes.refl s e.q).memory (s.caches_started e).sameButMemory).memory hc.sameButMemory).finishA _

/-- PST to a cell in HBM. -/
theorem execPst_hbm (hu : e.user = false) (hf : Fresh s e) (hx : (s.regs e.q).x.toNat / 16 * 16 = pa)
    (hp : AtPhysical (s.started e) e pa) (h : Issues s i n (sWord 0xE9 0 opnd) 1 e) :
    ∃ t : State, exec (.pst i 0 opnd) s = .next t ∧ OneCell s t pa (s.regs e.q).a ∧
      Becomes s t e.q { s.regs e.q with pc := BitVec.ofNat 64 e.next } := by
  have hlt : (s.regs e.q).x.toNat < 2 ^ 48 := by
    have := hp.hbm
    simp only [hbmEnd] at this
    omega
  obtain ⟨hsame, hone⟩ := (s.started e).storedBack_spec e.q pa (normalize (s.regs e.q).a) true
  have hheap : ((s.started e).storedBack e.q pa (normalize (s.regs e.q).a) true).heap.en = false := by
    rw [hsame.heap, hp.noHeap]
  refine ⟨((s.started e).storedBack e.q pa (normalize (s.regs e.q).a) true).moveTo e.q e.next, ?_, ?_, ?_⟩
  · show execPst i 0 opnd s = _
    rw [execPst, machineForm_of_fresh h hu hf rfl, bind_ok (physAddr_run (by rw [State.started_regs]) hlt), hx,
      bind_ok (regsM_run _ _), State.started_regs, bind_ok (hp.writePhys _ _ _ _ _ _)]
    simp only [hheap, Bool.false_eq_true, if_false]
    rfl
  · obtain ⟨hcell, hout⟩ := OneCell.normalize_iff.mp hone
    exact OneCell.moveTo ⟨hcell, fun a ha => by rw [hout a ha, State.started_mem]⟩ _ _
  · exact (((Becomes.refl s e.q).memory (s.caches_started e).sameButMemory).memory hsame).moveTo _

/-- A machine-level instruction whose body raises a cause. -/
theorem machineForm_of_fault {op : BitVec 8} {opndOk : Bool} {code sub op1 acc fa : Nat} (hu : e.user = false) (hf : Fresh s e)
    (h : Issues s i n (sWord op 0 opnd) 1 e) (hok : opndOk = true) {body : Env → M Flow}
    (hb : body e (s.started e) = .error (.trap
      { code := code, sub := sub, acc := acc, opn := op1, faddr := fa, iword := e.iword })) :
    machineForm i op 0 opnd opndOk body s = s.trapped e code sub op1 acc fa := by
  rw [machineForm_of_fresh h hu hf hok, hb]
  rfl

/-- PLD where no cell of HBM is. -/
theorem execPld_faults (hu : e.user = false) (hf : Fresh s e) (h : Issues s i n (sWord 0xE8 0 opnd) 1 e) :
    let x := (s.regs e.q).x.toNat
    (2 ^ 48 ≤ x → ∃ f, exec (.pld i 0 opnd) s = .next (s.trapped e 0x0E 4 0 5 f)) ∧
      (x < 2 ^ 48 → (regionOf (x / 16 * 16) = .device → exec (.pld i 0 opnd) s = .next (s.trapped e 0x19 0 0 5 (x / 16 * 16))) ∧
        (regionOf (x / 16 * 16) = .absent → exec (.pld i 0 opnd) s = .next (s.trapped e 0x18 0 0 5 (x / 16 * 16)))) := by
  intro x
  have hx : ((s.started e).regs e.q).x.toNat = x := by rw [State.started_regs]
  refine ⟨fun hle => ⟨x / 16 * 16 % 2 ^ 56, ?_⟩, fun hlt => ⟨fun hr => ?_, fun hr => ?_⟩⟩
  · refine congrArg Host.Outcome.next (machineForm_of_fault hu hf h rfl (bind_error ?_))
    rw [physAddr, bind_ok (regsM_run _ _)]
    simp only [hx, if_pos hle]
    exact bind_error (fault_run _ _ _ _ _ _ _)
  · refine congrArg Host.Outcome.next (machineForm_of_fault hu hf h rfl ?_)
    rw [bind_ok (physAddr_run hx hlt)]
    simp only [hr, beq_self_eq_true, if_true]
    exact bind_error (fault_run _ _ _ _ _ _ _)
  · refine congrArg Host.Outcome.next (machineForm_of_fault hu hf h rfl ?_)
    have hreach : (s.started e).reached e.q (x / 16 * 16) = .absent := by
      simp [State.reached, hr, show (Region.absent == Region.hbm) = false from rfl]
    rw [bind_ok (physAddr_run hx hlt)]
    simp only [hr, show (Region.absent == Region.device) = false from rfl, Bool.false_eq_true, if_false]
    refine bind_error ?_
    simp only [readCell, bind_ok (look_run id (s.started e)), id, hreach]
    exact fault_run _ _ _ _ _ _ _

end

/-! ### The cells of a record that is not resident (R195 to R197) -/

section
variable {s : State} {i : Issue} {n m c : Nat} {op : BitVec 8} {opnd : BitVec 16} {e : Env} {store : Bool}

/-- The fields of CTXLD and CTXST: a cell number below 32. -/
theorem recordOpnd_fields (hc : opnd.toNat = c) (hlt : c < 32) : (field opnd 15 5 == 0) = true ∧ field opnd 4 0 = c := by
  refine ⟨beq_iff_eq.mpr ?_, ?_⟩
  · simp only [field, hc]
    omega
  · simp only [field, hc]
    omega

/-- A record of a context that is not one of the 16,384. -/
theorem recordForm_of_high (hu : e.user = false) (hf : Fresh s e) (hc : opnd.toNat = c) (hlt : c < 32)
    (hx : (s.regs e.q).x.toNat = m) (hm : 16384 ≤ m) (h : Issues s i n (sWord op 0 opnd) 1 e) :
    recordForm i op 0 opnd store s = s.trapped e 0x0E 4 0 0 0 := by
  refine machineForm_of_fault hu hf h (recordOpnd_fields hc hlt).1 ?_
  rw [bind_ok (regsM_run _ _)]
  simp only [State.started_regs, hx, if_pos hm]
  exact bind_error (fault_run _ _ _ _ _ _ _)

/-- The access to the record of another context that is not resident. -/
theorem recordForm_of_absent (hu : e.user = false) (hf : Fresh s e) (hc : opnd.toNat = c) (hlt : c < 32)
    (hx : (s.regs e.q).x.toNat = m) (hm : m < 16384) (hn : m ≠ n) (hres : s.ctxRes m = false)
    (h : Issues s i n (sWord op 0 opnd) 1 e) : recordForm i op 0 opnd store s = settle (s.started e) e
      ((recordAccess e m c (if store then some (s.regs e.q).a else none) >>= fun _ => pure .next) (s.started e)) := by
  have hen : (m == e.n) = false := beq_eq_false_iff_ne.mpr (by rw [h.env]; exact hn)
  have hres' : (s.started e).ctxRes m = false := by
    rw [State.ctxRes, State.rcell_congr (s.started_ctxStore e)]
    exact hres
  rw [recordForm, machineForm_of_fresh h hu hf (recordOpnd_fields hc hlt).1, bind_ok (regsM_run _ _)]
  simp only [State.started_regs, hx, (recordOpnd_fields hc hlt).2, if_neg (not_le.mpr hm), hen, Bool.false_and, Bool.false_eq_true,
    if_false]
  rw [bind_ok (look_run _ _)]
  simp only [id, hres', Bool.and_false, Bool.false_eq_true, if_false]

/-- CTXLD of a record whose context is resident waits for its eviction. -/
theorem execCtxld_of_resident (hu : e.user = false) (hf : Fresh s e) (hc : opnd.toNat = c) (hlt : c < 32)
    (hx : (s.regs e.q).x.toNat = m) (hm : m < 16384) (hn : m ≠ n) (hres : s.ctxRes m = true)
    (h : Issues s i n (sWord 0xEA 0 opnd) 1 e) :
    exec (.ctxld i 0 opnd) s = .next ((s.started e).modSlot e.q (fun v => { v with waits := some (m, c, none) })) := by
  have hen : (m == e.n) = false := beq_eq_false_iff_ne.mpr (by rw [h.env]; exact hn)
  have hres' : (s.started e).ctxRes m = true := by
    rw [State.ctxRes, State.rcell_congr (s.started_ctxStore e)]
    exact hres
  refine congrArg Host.Outcome.next ?_
  rw [recordForm, machineForm_of_fresh h hu hf (recordOpnd_fields hc hlt).1, bind_ok (regsM_run _ _)]
  simp only [State.started_regs, hx, (recordOpnd_fields hc hlt).2, if_neg (not_le.mpr hm), hen, Bool.false_and, Bool.false_eq_true,
    if_false]
  rw [bind_ok (look_run _ _)]
  simp only [id, hres', bne, hen, Bool.not_false, Bool.true_and, if_true, Option.bind_none]
  rw [bind_ok (act_run _ _)]
  rfl

/-- CTXLD of a cell that passes the load barrier. -/
theorem recordAccess_load {y : Cell} {u : State}
    (hb : s.barrierAt (.core e.q.core) (s.rcell m c) false (s.goodFor e.q.core) = some (y, u)) :
    recordAccess e m c none s =
      .ok ((), (if s.rcell m c == y then u else u.setRec m c y).modRegs e.q (fun r => { r with a := normalize y })) := by
  rw [recordAccess, bind_ok (look_run _ _), bind_ok (look_run _ _)]
  simp only [hb]
  rw [bind_ok (act_run _ _), setA_run]

theorem barrierAt_of_unmoved {w : Copier} {v : Cell} {dur : Bool} {good : Nat} (h : s.heap.en = false ∨ v.isPointer = false) :
    s.barrierAt w v dur good = some (v, s) := by
  obtain h | h := h
  · simp [State.barrierAt, h]
  · simp [State.barrierAt, h]

/-- CTXST of a cell that a record may take. -/
theorem recordAccess_store {v : Cell} (hr : s.recordRefuses m c v = none) :
    recordAccess e m c (some v) s = .ok ((), s.ctxWrite m c v) := by
  rw [recordAccess, bind_ok (look_run _ _)]
  simp only [hr]
  rfl

/-- The cells beside the capabilities and those of the live state that R197 judges take any cell. -/
theorem recordRefuses_of_free {v : Cell} (h : c = 0 ∨ (9 ≤ c ∧ c < 24) ∨ 27 ≤ c) : s.recordRefuses m c v = none := by
  have h1 : (decide (1 ≤ c) && decide (c ≤ 4)) = false := by simp; omega
  have h2 : (decide (c < 24) || decide (26 < c)) = true := by simp; omega
  simp only [State.recordRefuses, h1, h2, Bool.false_eq_true, if_false, if_true]

theorem ctxWrite_of_free {v : Cell} (h : c = 0 ∨ (9 ≤ c ∧ c < 24) ∨ 27 ≤ c) :
    s.ctxWrite m c v = s.setRec m c (keepHw (s.rcell m c) v c) := by
  have h24 : (c == 24) = false := beq_eq_false_iff_ne.mpr (by omega)
  have h7 : (c == 7) = false := beq_eq_false_iff_ne.mpr (by omega)
  have h8 : (c == 8) = false := beq_eq_false_iff_ne.mpr (by omega)
  have h25 : (c == 25) = false := beq_eq_false_iff_ne.mpr (by omega)
  simp only [State.ctxWrite, h24, h7, h8, h25, Bool.false_eq_true, if_false]

theorem keepHw_of_low {old v : Cell} (h : c < 24) : keepHw old v c = v := by
  have h24 : (c == 24) = false := beq_eq_false_iff_ne.mpr (by omega)
  have h25 : (c == 25) = false := beq_eq_false_iff_ne.mpr (by omega)
  have h26 : (c == 26) = false := beq_eq_false_iff_ne.mpr (by omega)
  simp only [keepHw, h24, h25, h26, Bool.false_eq_true, if_false, if_pos (show c < 27 by omega)]

theorem keepHw_of_fault {old v : Cell} (h : 27 ≤ c) : keepHw old v c = old := by
  have h24 : (c == 24) = false := beq_eq_false_iff_ne.mpr (by omega)
  have h25 : (c == 25) = false := beq_eq_false_iff_ne.mpr (by omega)
  have h26 : (c == 26) = false := beq_eq_false_iff_ne.mpr (by omega)
  simp only [keepHw, h24, h25, h26, Bool.false_eq_true, if_false, if_neg (show ¬ c < 27 by omega)]

/-- CTXST of such a cell: the record's cell and PC, and nothing else. -/
theorem execCtxst_of_free (hu : e.user = false) (hf : Fresh s e) (hc : opnd.toNat = c) (hlt : c < 32)
    (hx : (s.regs e.q).x.toNat = m) (hm : m < 16384) (hn : m ≠ n) (hres : s.ctxRes m = false)
    (h : Issues s i n (sWord 0xEB 0 opnd) 1 e) (hfree : c = 0 ∨ (9 ≤ c ∧ c < 24) ∨ 27 ≤ c) :
    ∃ t : State, exec (.ctxst i 0 opnd) s = .next t ∧
      t.rcell m c = normalize (keepHw (s.rcell m c) (s.regs e.q).a c) ∧
      (∀ a b, (a, b) ≠ (m, c) → b < 32 → t.rcell a b = s.rcell a b) ∧ t.mem = s.mem ∧
      t.regs e.q = { s.regs e.q with pc := BitVec.ofNat 64 e.next } := by
  have hrec : ∀ a b, (s.started e).rcell a b = s.rcell a b := fun a b => State.rcell_congr (s.started_ctxStore e) a b
  generalize hv : keepHw (s.rcell m c) (s.regs e.q).a c = v
  refine ⟨((s.started e).setRec m c v).moveTo e.q e.next, ?_, ?_, fun a b hab hb => ?_, ?_, ?_⟩
  · refine congrArg Host.Outcome.next ((recordForm_of_absent hu hf hc hlt hx hm hn hres h).trans ?_)
    rw [if_pos rfl, bind_ok (recordAccess_store (recordRefuses_of_free hfree)), ctxWrite_of_free hfree, hrec, hv]
    rfl
  · rw [State.rcell_congr (State.moveTo_ctxStore _ _ _), State.rcell_setRec_self]
  · rw [State.rcell_congr (State.moveTo_ctxStore _ _ _), State.rcell_setRec_ne _ _ (fun heq => hab ?_), hrec]
    have : a = m ∧ b = c := by omega
    rw [this.1, this.2]
  · rw [State.moveTo_mem, State.setRec_mem, State.started_mem]
  · have hregs : ((s.started e).setRec m c v).regs e.q = s.regs e.q := by
      rw [State.regs_of_cores (State.setRec_cores _ m c v), State.started_regs]
    rw [State.moveTo, State.regs_modRegs_self, hregs]

/-- CTXST of a capability's cell takes only a CAP (R197). -/
theorem execCtxst_of_notCap (hu : e.user = false) (hf : Fresh s e) (hc : opnd.toNat = c) (hlt : c < 32)
    (hx : (s.regs e.q).x.toNat = m) (hm : m < 16384) (hn : m ≠ n) (hres : s.ctxRes m = false)
    (h : Issues s i n (sWord 0xEB 0 opnd) 1 e) (h1 : 1 ≤ c) (h4 : c ≤ 4) (ha : (s.regs e.q).a.tag ≠ tagCAP) :
    exec (.ctxst i 0 opnd) s = .next (s.trapped e 0x0B 0 1 0 0) := by
  have hr : (s.started e).recordRefuses m c (s.regs e.q).a = some cCAP_TAG := by
    simp only [State.recordRefuses, h1, h4, decide_true, Bool.and_self, if_true, beq_eq_false_iff_ne.mpr ha,
      Bool.false_eq_true, if_false]
  refine congrArg Host.Outcome.next ((recordForm_of_absent hu hf hc hlt hx hm hn hres h).trans ?_)
  have hstop : recordAccess e m c (some (s.regs e.q).a) (s.started e) = fault e cCAP_TAG 0 1 0 0 (s.started e) := by
    rw [recordAccess, bind_ok (look_run _ _)]
    simp only [hr, beq_self_eq_true, if_true]
  rw [if_pos rfl, bind_error (hstop.trans (fault_run _ _ _ _ _ _ _))]
  rfl

/-- CTXLD of a record that is not resident. -/
theorem execCtxld_of_absent (hu : e.user = false) (hf : Fresh s e) (hc : opnd.toNat = c) (hlt : c < 32)
    (hx : (s.regs e.q).x.toNat = m) (hm : m < 16384) (hn : m ≠ n) (hres : s.ctxRes m = false)
    (h : Issues s i n (sWord 0xEA 0 opnd) 1 e) :
    (s.heap.en = false ∨ (s.rcell m c).isPointer = false →
      exec (.ctxld i 0 opnd) s = .next ((s.started e).finishA e (s.rcell m c))) ∧
    (∀ y u, (s.started e).barrierAt (.core e.q.core) (s.rcell m c) false ((s.started e).goodFor e.q.core) = some (y, u) →
      y ≠ s.rcell m c → exec (.ctxld i 0 opnd) s = .next ((u.setRec m c y).finishA e y)) := by
  have hrec : (s.started e).rcell m c = s.rcell m c := State.rcell_congr (s.started_ctxStore e) m c
  have hload : ∀ {y u},
      (s.started e).barrierAt (.core e.q.core) (s.rcell m c) false ((s.started e).goodFor e.q.core) = some (y, u) →
      exec (.ctxld i 0 opnd) s = .next ((if s.rcell m c == y then u else u.setRec m c y).finishA e y) := fun {y u} hb => by
    refine congrArg Host.Outcome.next ((recordForm_of_absent hu hf hc hlt hx hm hn hres h).trans ?_)
    rw [← hrec] at hb
    rw [if_neg (by decide), bind_ok (recordAccess_load hb), hrec]
    rfl
  refine ⟨fun hun => ?_, fun y u hb hne => ?_⟩
  · have hun' : (s.started e).heap.en = false ∨ (s.rcell m c).isPointer = false := by rwa [State.started_heap]
    rw [hload (barrierAt_of_unmoved hun'), if_pos (beq_self_eq_true _)]
  · rw [hload hb, if_neg (by simpa using hne.symm)]

end

/-! ### EVICT_FOR_RECORD_ACCESS (R196, R199) -/

section
variable {s : State} {q p : Cx} {m c : Nat}

/-- A cell that hardware has written is RAW (R190). -/
theorem State.tag_setRecField (s : State) (n c hi lo v : Nat) : ((s.setRecField n c hi lo v).rcell n c).tag = tagRAW := by
  rw [State.setRecField, State.rcell_setRec_self, hwField, Cell.tag, field_normalize _ (.inr (by decide)) (by decide),
    field_normalize _ (.inr (by decide)) (by decide), field_setField_self _ _ (by decide) (by decide)]
  rfl

/-- A context that becomes ready has `STATE` 2 in its record, which is else as before. -/
theorem State.makeReady_ctxStore (s : State) (n : Nat) : (s.makeReady n).ctxStore = (s.setCtxState n 2).ctxStore := by
  unfold State.makeReady
  extract_lets t u
  have ht : t.ctxStore = (s.setCtxState n 2).ctxStore := State.modAux_ctxStore _ _ _
  clear_value t
  have hkept := KeepsAllBut.refl u [.cores, .collector, .power, .dependability]
  exact (((KeepsAllBut.ite hkept.ungate hkept).wakeTo).2 .contexts (by decide)).1.trans ht

/-- The eviction of context `m` from slot `p`: the slot is free, and the record says that the context is not resident. -/
theorem State.evict_spec (h : (s.slot p).ctx = some m) :
    Evicted (s.evict p) p p m ∧ ((s.evict p).rcell m 24).tag = tagRAW := by
  simp only [State.evict, h]
  generalize ((s.parkMid p).endAround p).saveRegs m (((s.parkMid p).endAround p).regs p) = u
  generalize hv : (u.setResidence m none).freeSlot p = v
  have hstore : v.ctxStore = (u.setResidence m none).ctxStore := by
    rw [← hv, State.freeSlot]
    split
    · split
      · rw [State.modAux_ctxStore, State.setSlot_ctxStore]
      · rw [State.setSlot_ctxStore]
    · rw [State.setSlot_ctxStore]
  have hslot : v.slot p = {} := by
    rw [← hv, State.freeSlot]
    split
    · split
      · rw [State.slot_of_cores (State.modAux_cores _ _ _), State.slot_setSlot_self]
      · rw [State.slot_setSlot_self]
    · rw [State.slot_setSlot_self]
  have hfree : Evicted v p p m :=
    ⟨by rw [hslot], by rw [hslot], by rw [State.rcell_congr hstore, State.res_setResidence_none]⟩
  split
  · refine ⟨hfree.seated (Seated.refl v).makeReady, ?_⟩
    rw [State.rcell_congr (v.makeReady_ctxStore m), State.setCtxState, State.tag_setRecField]
  · refine ⟨hfree, ?_⟩
    rw [State.rcell_congr hstore, State.setResidence, State.tag_setRecField]

theorem Evicted.stopWaiting {t : State} (h : Evicted t p p m) :
    Evicted (t.modSlot q (fun v => { v with waits := none })) q p m := by
  refine ⟨by rw [State.slot_modSlot_self], ?_, by rw [State.rcell_congr (State.modSlot_ctxStore _ _ _)]; exact h.res⟩
  by_cases hp : p = q
  · rw [hp, State.slot_modSlot_self]
    rw [hp] at h
    exact h.left
  · rw [State.slot_modSlot_ne _ _ hp, h.left]

theorem Evicted.trapIn {t : State} (h : Evicted t q p m) (r : Cx) (c : Trap) (mra : Nat) : Evicted (t.trapIn r c mra) q p m := by
  unfold State.trapIn
  extract_lets esc
  split
  · exact h.takeTrap r c mra
  split
  · exact h.seated (Seated.refl t).enterSlot.modRegs
  split
  · exact h.ventFail _
  · exact h.takeTrap r c mra

/-- A cause that an access raises leaves an evicted context evicted. -/
theorem Evicted.settle_trap {t : State} (h : Evicted t q p m) (e : Env) (c : Trap) :
    Evicted (settle t e (.error (.trap c))) q p m := by
  have hbefore : Evicted (if c.code == cMCALL then t.clearResume e.q else t) q p m := by
    refine h.seated ?_
    split
    · exact .ite (Seated.refl t).modRegs (Seated.refl t)
    · exact Seated.refl t
  simp only [settle]
  exact (hbefore.seated (Seated.refl _).parkMid).trapIn _ _ _

/-- The access that follows an eviction: it completes or raises a cause, and the context stays evicted. -/
theorem Evicted.settle_load {t : State} (h : Evicted t q p m) (htag : (t.rcell m 24).tag = tagRAW) (hc : c < 32) (e : Env) :
    Evicted (settle t e ((recordAccess e m c none >>= fun _ => pure .next) t)) q p m := by
  cases hb : t.barrierAt (.core e.q.core) (t.rcell m c) false (t.goodFor e.q.core) with
  | none =>
    have hstop : recordAccess e m c none t = fault e cMICROCODE_CHECK 3 0 0 0 t := by
      rw [recordAccess, bind_ok (look_run _ _), bind_ok (look_run _ _)]
      simp only [hb]
    rw [bind_error (hstop.trans (fault_run _ _ _ _ _ _ _))]
    exact h.settle_trap e _
  | some x =>
    obtain ⟨y, u⟩ := x
    rw [bind_ok (recordAccess_load hb), pure_run, settle_next, State.moveTo]
    have hu : Seated t u := (Seated.refl t).barrierAt hb
    refine h.seated (Seated.modRegs (Seated.modRegs ?_))
    split
    · exact hu
    next hne =>
      refine hu.setRec ⟨hc, fun h24 => hne ?_⟩
      subst h24
      have hp : (t.rcell m 24).isPointer = false := by simp [Cell.isPointer, htag, tagRAW, tagCAP, tagSEAL, tagFWD]
      rw [barrierAt_of_unmoved (.inr hp)] at hb
      cases hb
      exact beq_self_eq_true _

end

section
variable {s : State} {i : Issue} {n m c : Nat}

/-- The environment of the CTXLD of cell `c` that slot `q` goes on with (R196). -/
def loadEnv (s : State) (q : Cx) (n c : Nat) : Env :=
  s.midEnv q n { op := 0xEA, mode := 0, base := 0, disp := BitVec.ofNat 16 c, ext := 0 } false

/-- EVICT_FOR_RECORD_ACCESS for a CTXLD at a boundary of the context that it waits for. -/
theorem execEvict_of_load (hctx : (s.slot (Cx.of i)).ctx = some n) (hw : (s.slot (Cx.of i)).waits = some (m, c, none))
    (hat : s.ctxRes m = false ∨ s.atBoundary (s.ctxAt m) = true) (hpar : i.parity = .none) {u : State}
    (hu : (s.evictCtx m).modSlot (Cx.of i) (fun w => { w with waits := none }) = u) :
    exec (.evictForRecordAccess i) s = .next (settle (u.release (Cx.of i)) (loadEnv u (Cx.of i) n c)
      ((recordAccess (loadEnv u (Cx.of i) n c) m c none >>= fun _ => pure .next) (u.release (Cx.of i)))) := by
  have hgo : (s.ctxRes m && !s.atBoundary (s.ctxAt m)) = false := by
    obtain h | h := hat
    · rw [h, Bool.false_and]
    · rw [h, Bool.not_true, Bool.and_false]
  subst hu
  refine congrArg Host.Outcome.next ?_
  simp only [State.evictForAccess, hctx, hw, hgo, Bool.false_eq_true, if_false, runIn, hpar, State.meetParity]
  rfl

/-- The context has left its slot already, and the heap hardware is off. -/
theorem execEvict_of_absent (hctx : (s.slot (Cx.of i)).ctx = some n) (hw : (s.slot (Cx.of i)).waits = some (m, c, none))
    (hres : s.ctxRes m = false) (hpar : i.parity = .none) (hheap : s.heap.en = false) :
    ∃ t : State, exec (.evictForRecordAccess i) s = .next t ∧ (t.slot (Cx.of i)).waits = none ∧
      (t.regs (Cx.of i)).a = normalize (s.rcell m c) := by
  generalize hu : s.modSlot (Cx.of i) (fun w => { w with waits := none }) = u
  have hrun := execEvict_of_load hctx hw (.inl hres) hpar (u := u) (by rw [State.evictCtx, hres, if_neg (by decide), hu])
  generalize he : loadEnv u (Cx.of i) n c = e at hrun
  have hq : e.q = Cx.of i := by rw [← he]; rfl
  have hcaches := u.caches_release (Cx.of i)
  have hcell : (u.release (Cx.of i)).rcell m c = s.rcell m c := by
    rw [State.rcell_congr hcaches.sameButMemory.records, ← hu, State.rcell_congr (State.modSlot_ctxStore _ _ _)]
  have hoff : (u.release (Cx.of i)).heap.en = false := by
    rw [hcaches.sameButMemory.heap, ← hu]
    exact hheap
  rw [bind_ok (recordAccess_load (barrierAt_of_unmoved (.inl hoff))), if_pos (beq_self_eq_true _), pure_run, settle_next, hq,
    hcell] at hrun
  have hkept : Seated (u.release (Cx.of i))
      (((u.release (Cx.of i)).modRegs (Cx.of i) (fun r => { r with a := normalize (s.rcell m c) })).moveTo (Cx.of i) e.next) :=
    (Seated.refl _).modRegs.modRegs
  refine ⟨_, hrun, ?_, ?_⟩
  · rw [(hkept.slots (Cx.of i)).2, (((Seated.refl u).caches hcaches).slots (Cx.of i)).2, ← hu, State.slot_modSlot_self]
  · rw [State.moveTo, State.regs_modRegs_self, State.regs_modRegs_self]

/-- The context is evicted first. -/
theorem execEvict_of_resident (hctx : (s.slot (Cx.of i)).ctx = some n) (hw : (s.slot (Cx.of i)).waits = some (m, c, none))
    (hm : m < 16384) (hc : c < 32) (hres : s.ctxRes m = true) (hat : s.atBoundary (s.ctxAt m) = true)
    (hin : (s.slot (s.ctxAt m)).ctx = some m) (hpar : i.parity = .none) :
    ∃ t : State, exec (.evictForRecordAccess i) s = .next t ∧ (t.slot (Cx.of i)).waits = none ∧ t.ctxRes m = false ∧
      (t.slot (s.ctxAt m)).ctx = none := by
  obtain ⟨hevicted, htag⟩ := State.evict_spec hin
  generalize hu : (s.evict (s.ctxAt m)).modSlot (Cx.of i) (fun w => { w with waits := none }) = u
  have hrun := execEvict_of_load hctx hw (.inr hat) hpar (u := u) (by rw [State.evictCtx, hres, if_pos rfl, hu])
  have hstopped : Evicted u (Cx.of i) (s.ctxAt m) m := hu ▸ hevicted.stopWaiting
  have hcaches := u.caches_release (Cx.of i)
  have htag' : ((u.release (Cx.of i)).rcell m 24).tag = tagRAW := by
    rw [State.rcell_congr hcaches.sameButMemory.records, ← hu, State.rcell_congr (State.modSlot_ctxStore _ _ _), htag]
  obtain ⟨hwaits, hleft, hres'⟩ :=
    (hstopped.seated ((Seated.refl u).caches hcaches)).settle_load htag' hc (loadEnv u (Cx.of i) n c)
  refine ⟨_, hrun, hwaits, ?_, hleft⟩
  have hbit : ∀ x : Cell, field x 80 80 = 0 → bit x 80 = false := fun x hx => by
    simpa [field, bit, Nat.testBit_eq_decide_div_mod_eq] using hx
  rw [State.ctxRes, hbit _ hres', Bool.or_false]
  exact decide_eq_false (by omega)

end

/-- Settles O36: a physical access by the cell it reaches, a record access by where its context is. -/
theorem physicalAndRecordAccesses : Obligations.PhysicalAndRecordAccesses := by
  refine ⟨fun s i n opnd e pa hu hf => ⟨fun hx hpa hw hl hheap hdet hm hden hdef hhit hv => ?_, fun h => (execPld_faults hu hf h).1,
    fun h => (execPld_faults hu hf h).2⟩, fun s i n opnd e m c hu hf hc hlt => ?_⟩
  · have hat : e.q = Cx.of i → AtPhysical (s.started e) e pa := fun hq =>
      .of_started hpa hw hl hheap hdet hm hden hdef hhit (by rw [hq, isVent_of, hv])
    exact ⟨fun h => execPld_hbm hu hf hx (hat (by rw [h.env]; rfl)) h,
      fun h => execPst_hbm hu hf hx (hat (by rw [h.env]; rfl)) h⟩
  intro r ld st hx
  refine ⟨fun h => ⟨fun hm => ?_, fun hm hn hres => execCtxld_of_absent hu hf hc hlt hx hm hn hres h,
    fun hm hn hres => execCtxld_of_resident hu hf hc hlt hx hm hn hres h⟩, fun h hm hn hres => ⟨fun hfree => ?_, fun h27 => ?_,
    fun h1 h4 ha => execCtxst_of_notCap hu hf hc hlt hx hm hn hres h h1 h4 ha⟩, ?_, ?_⟩
  · exact congrArg Host.Outcome.next (recordForm_of_high hu hf hc hlt hx hm h)
  · obtain ⟨t, hrun, hcell, hrest⟩ := execCtxst_of_free hu hf hc hlt hx hm hn hres h (by omega)
    exact ⟨t, hrun, hcell.trans (by rw [keepHw_of_low (by omega)]), hrest⟩
  · obtain ⟨t, hrun, hcell, hcells, -, hregs⟩ := execCtxst_of_free hu hf hc hlt hx hm hn hres h (.inr (.inr h27))
    exact ⟨t, hrun, hcell.trans (by rw [keepHw_of_fault h27]), hcells, hregs⟩
  · intro v hctx hres hpar hq hw hv hheap
    rw [hq] at hctx hw ⊢
    exact hv ▸ execEvict_of_absent hctx hw hres hpar hheap
  · intro hctx hn hm hres hat hin hpar hq hw
    rw [hq] at hctx hw ⊢
    exact execEvict_of_resident hctx hw hm hlt hres hat hin hpar

end Sys2Proof.Machine
